-- ==== Sys2Proof/Word.lean ====
section
/-!
DEFINITION. The word types of the Tratorok (spec/00_scope.md R4: byte, word and doubleword are 8, 32 and 64 bits) and
their plainest arithmetic.
-/
namespace Sys2Proof

/-- A byte (R4). -/
abbrev Byte := BitVec 8
/-- A word (R4): the width of a vector, scalar or special register. -/
abbrev Word := BitVec 32
/-- A doubleword (R4): the width of a register pair. -/
abbrev DWord := BitVec 64

/-- The pair whose low word is `lo` (R12: the lower-numbered register holds the least significant word). -/
def DWord.ofWords (lo hi : Word) : DWord := hi ++ lo

/-- The low word of a doubleword. -/
def DWord.lo (x : DWord) : Word := x.extractLsb' 0 32

/-- The high word of a doubleword. -/
def DWord.hi (x : DWord) : Word := x.extractLsb' 32 32

/-- The bits `[lo + n - 1 : lo]` of `x`, as a natural number (R4). -/
def bitsNat {w : Nat} (x : BitVec w) (lo n : Nat) : Nat := (x.toNat >>> lo) % 2 ^ n

/-- The bit `i` of `x`. -/
def bitAt {w : Nat} (x : BitVec w) (i : Nat) : Bool := x.getLsbD i

end Sys2Proof
end

