-- ==== Sys2Proof/Config.lean ====
section
/-!
DEFINITION. What the spec leaves to an implementation, and the free values: constants without a body, so that no proof
can see what they are. A free value is applied to the counter `freeCtr` of the state, which the step advances, or to the
operands it depends on.
-/
namespace Sys2Proof.Config

/-- The ten carry bytes that a slot holds after an addition (spec/02 R50): any. Free value. -/
opaque freeCarry : Nat → BitVec 80

/-- A choice between two outcomes that the spec allows (spec/17 R345, spec/18 R368). Free value. -/
opaque freeBit : Nat → Bool

/-- A choice among several, reduced modulo their number (spec/20 R389 OPND). Free value. -/
opaque freePick : Nat → Nat

/-- The byte that another device's memory returns (spec/17 R356): by the counter and the byte's place. Free value. -/
opaque freeByte : Nat → Nat → Byte

/-- Does a word of code that was rewritten after its launch was dequeued have its old value (spec/03 R62)? By the counter
and the word's address. Free value. -/
opaque freeOldWord : Nat → Nat → Bool

/-- Which of the contents that a byte has had since its line was replicated a load sees (spec/06 R158): by the counter,
the thread and the byte's address. Free value. -/
opaque freeSeen : Nat → Nat → Nat → Nat

/-- What a neighbour that is two or more exchanges ahead supplies (spec/04 R124, spec/05 R149), and the high word that an
.i64 exchange reads of an offer of one word: by the counter and the thread. Free value. -/
opaque freeOffer : Nat → BitVec 64

/-- Is a copy that has not begun writing cancelled by TAGCLR (spec/06 R180)? By the counter and the copy. Free value. -/
opaque freeCancel : Nat → Nat → Bool

/-- Which set of a club's filter, of an L2 slice and of a die's directory a line falls into: these added to its number, modulo
the number of sets (spec/17 R346, R347, spec/18 R376). -/
opaque filterSet : Nat → Nat
opaque l2Set : Nat → Nat
opaque dirSet : Nat → Nat

/-- The home slice of a line, by line number; reduced modulo 64 (spec/09 R218). -/
opaque homeSlice : Nat → Nat

/-- The ring of a bench: log2 of its entries, 10 to 20, by context (spec/11 R268). -/
opaque benchLog : Nat → Nat

/-- Is core `n` fused off (spec/14 R426)? -/
opaque coreFused : Nat → Bool

/-- Where firmware places the chain table, the context table and the lease directory (spec/21 R410). -/
opaque chainTable : Nat
opaque contextTable : Nat
opaque leaseDirectory : Nat

/-- Where the 64 GiB window that CXL.mem exposes starts in HBM (spec/21 R409). -/
opaque cxlWindow : Nat

/-- SHA3-256 (spec/21 R417), and the ML-DSA-44 check of a signature: by the key, the signature and the digest. -/
opaque sha3 : List Byte → BitVec 256
opaque sigOk : List Byte → List Byte → BitVec 256 → Bool

/-- The fuses (spec/21 R417, R419): the hash of the public key, the smallest security version, the device's secret, and the
contents that a measurement digests; and the boot ROM (R420). -/
opaque keyHash : BitVec 256
opaque minSvn : Nat
opaque deviceSecret : BitVec 256
opaque fuses : List Byte
opaque bootRom : List Byte

/-- The identity key that the boot ROM derives from the device's secret and the DIGEST of the image that it starts (spec/21
R419). -/
opaque identityKey : BitVec 256 → BitVec 256 → BitVec 256

/-- What an SPDM response carries (spec/21 R419, R420): by request, and by the value that it is made of. -/
opaque spdmResponse : Nat → Nat → BitVec 256

/-- The contents of an error log entry, whose layout the spec does not give (spec/20 R404, spec/21 R415). Free value. -/
opaque errorEntry : Nat → BitVec 512

/-- A special function's significand when the interval arithmetic of the model does not decide it within its fuel
(spec/04 R110): never reached by a source whose result the arithmetic decides. Free value, by function and operand. -/
opaque undecided : Nat → Nat → Nat

end Sys2Proof.Config
end

