-- ==== Sys2Proof/Syntax.lean ====
section
/-!
DEFINITION. The abstract syntax: `Instr` has one constructor for every row of spec/opcode_table.json. The first 141
constructors are the instructions of the Norzel set (spec/03_encoding_and_assembly.md R76), each with its guards (R64)
and its decoded operands; the rest are the events of the device's other agents, each with what it carries.
-/
namespace Sys2Proof

/-! ## Operand classes (R65) -/

/-- The number of a vector or scalar register: 0 to 255. -/
abbrev RegNum := Fin 256
/-- A long accumulator `la0` to `la15`. -/
abbrev LaNum := Fin 16
/-- An accumulator tile `ta0` to `ta7`. -/
abbrev TaNum := Fin 8
/-- A predicate `p0` to `p7`. -/
abbrev PredNum := Fin 8
/-- A buffer record `b0` to `b63`. -/
abbrev RecNum := Fin 64
/-- A format slot `f0` to `f7`. -/
abbrev FmtNum := Fin 8
/-- A window record `w0` to `w7`. -/
abbrev WinNum := Fin 8
/-- A copy tag, 0 to 63. -/
abbrev TagNum := Fin 64

/-- One guard field (R64). -/
structure Guard where
  neg : Bool
  pred : PredNum
  deriving DecidableEq, Repr

/-- The two guards of an instruction (R64). -/
structure Guards where
  g1 : Guard
  g2 : Guard
  deriving DecidableEq, Repr

/-- `p7`, not negated: the guard of the unguarded form (R13). -/
def Guard.always : Guard := { neg := false, pred := 7 }
/-- The unguarded form: 0b0111 in both fields (R64). -/
def Guards.always : Guards := { g1 := .always, g2 := .always }

/-- Integer operation types of the ALU mould (R68). -/
inductive IntTy where
  | i32 | n32 | i64
  deriving DecidableEq, Repr

/-- Floating operation types of the ALU mould (R68). -/
inductive FloatTy where
  | f32 | f64 | b16 | h16
  deriving DecidableEq, Repr

/-- Rounding modes (R54). -/
inductive Mode where
  | rne | rtz | rup | rdn | rna
  deriving DecidableEq, Repr

/-- The operand B of the ALU mould together with the form it selects (R68 to R70). The `u` forms are the uniform
forms: every register of the instruction is then a scalar register of the warp. -/
inductive Src where
  | vec (r : RegNum)
  | sc (r : RegNum)
  | uni (r : RegNum)
  | imm8 (v : BitVec 8)
  | imm32 (v : BitVec 32)
  | uimm32 (v : BitVec 32)
  | imm64 (v : BitVec 64)
  | uimm64 (v : BitVec 64)
  deriving DecidableEq, Repr

/-- Is this a uniform form (SRC = 0b10, R69)? -/
def Src.isUniform : Src → Bool
  | .uni _ | .uimm32 _ | .uimm64 _ => true
  | .vec _ | .sc _ | .imm8 _ | .imm32 _ | .imm64 _ => false

/-- A register that an instruction may take either from the vector or from the scalar file, by a MOD bit. -/
inductive VSReg where
  | vec (r : RegNum)
  | sc (r : RegNum)
  deriving DecidableEq, Repr

/-- The register number of either. -/
def VSReg.num : VSReg → RegNum
  | .vec r => r
  | .sc r => r

/-! ## Operands of the ALU mould -/

/-- Two-source integer operation (R93, R96): IADD to IREM, IMIN, IMAX, shifts, rotates, BFX, AND, OR, XOR, ANDN. -/
structure IntBin where
  ty : IntTy
  d : RegNum
  a : RegNum
  b : Src
  deriving DecidableEq, Repr

/-- Three-source integer operation (R93, R96): IMAD and BFI. -/
structure IntTri where
  ty : IntTy
  d : RegNum
  a : RegNum
  b : Src
  c : RegNum
  deriving DecidableEq, Repr

/-- One-source integer operation (R93, R96): IABS, INEG, POPC, CLZ, CTZ, BREV, NOT. -/
structure IntUn where
  ty : IntTy
  uniform : Bool
  d : RegNum
  a : RegNum
  deriving DecidableEq, Repr

/-- LEA (R93): the shift number k stands in field C. -/
structure LeaOp where
  ty : IntTy
  d : RegNum
  a : RegNum
  b : Src
  k : Fin 16
  deriving DecidableEq, Repr

/-- MOV (R96): its only source is B. -/
structure MovOp where
  ty : IntTy
  d : RegNum
  b : Src
  deriving DecidableEq, Repr

/-- SEL (R96): the selecting predicate stands in field C. -/
structure SelOp where
  ty : IntTy
  d : RegNum
  a : RegNum
  b : Src
  p : PredNum
  deriving DecidableEq, Repr

/-- Conditions of ICMP (R98). -/
inductive ICond where
  | eq | ne | lt | le | gt | ge
  deriving DecidableEq, Repr

/-- ICMP (R96, R98). -/
structure ICmpOp where
  ty : IntTy
  cc : ICond
  p : PredNum
  a : RegNum
  b : Src
  deriving DecidableEq, Repr

/-- PAND, POR, PXOR (R100). -/
structure PredBin where
  d : PredNum
  a : PredNum
  b : PredNum
  deriving DecidableEq, Repr

/-- PNOT (R100). -/
structure PredUn where
  d : PredNum
  a : PredNum
  deriving DecidableEq, Repr

/-- FADD, FSUB, FMUL (R101). -/
structure FloatBin where
  ty : FloatTy
  mode : Mode
  d : RegNum
  a : RegNum
  b : Src
  deriving DecidableEq, Repr

/-- FFMA (R101). -/
structure FloatTri where
  ty : FloatTy
  mode : Mode
  d : RegNum
  a : RegNum
  b : Src
  c : RegNum
  deriving DecidableEq, Repr

/-- FMIN, FMAX, FCOPYSIGN (R101) and FDIV (R109): two sources and no rounding mode. -/
structure FloatSel where
  ty : FloatTy
  d : RegNum
  a : RegNum
  b : Src
  deriving DecidableEq, Repr

/-- FABS, FNEG, FCLASS (R101) and the one-source special functions (R109). -/
structure FloatUn where
  ty : FloatTy
  uniform : Bool
  d : RegNum
  a : RegNum
  deriving DecidableEq, Repr

/-- FRINT (R101). -/
structure FrintOp where
  ty : FloatTy
  uniform : Bool
  mode : Mode
  d : RegNum
  a : RegNum
  deriving DecidableEq, Repr

/-- Conditions of FCMP (R105). -/
inductive FCond where
  | eq | ne | lt | le | gt | ge | un | ord
  deriving DecidableEq, Repr

/-- FCMP (R101, R105). -/
structure FCmpOp where
  ty : FloatTy
  cc : FCond
  p : PredNum
  a : RegNum
  b : Src
  deriving DecidableEq, Repr

/-! ## Conversions and random numbers -/

/-- The data types of R75, in code order. -/
inductive DType where
  | f64 | f32 | b16 | h16 | e5m2 | e4m3 | e3m2 | e2m3 | e2m1 | e2m1x
  | i64 | i32 | i16 | i8 | n32 | n16 | n8 | i4 | n4
  deriving DecidableEq, Repr

/-- CVT (R112). -/
structure CvtOp where
  dt : DType
  st : DType
  mode : Mode
  uniform : Bool
  d : RegNum
  a : RegNum
  deriving DecidableEq, Repr

/-- The unscaled type of CVTQ and CVTX (R113). -/
inductive UnscaledTy where
  | f32 | b16 | h16
  deriving DecidableEq, Repr

/-- The scale formats (R39). -/
inductive ScaleFmt where
  | p8 | q8
  deriving DecidableEq, Repr

/-- CVTQ (R113). `dequant` is DIR. -/
structure CvtqOp where
  ut : UnscaledTy
  et : DType
  sf : ScaleFmt
  dequant : Bool
  mode : Mode
  d : RegNum
  a : RegNum
  b : Src
  deriving DecidableEq, Repr

/-- CVTX (R114). -/
structure CvtxOp where
  ut : UnscaledTy
  et : DType
  sf : ScaleFmt
  uniform : Bool
  d : RegNum
  a : RegNum
  deriving DecidableEq, Repr

/-- The results of RAND (R116). -/
inductive RandTy where
  | n32 | f32 | i64
  deriving DecidableEq, Repr

/-- RAND (R116). -/
structure RandOp where
  ty : RandTy
  d : RegNum
  a : RegNum
  deriving DecidableEq, Repr

/-! ## Cross-lane instructions (R119) -/

/-- PERM. -/
structure PermOp where
  pair : Bool
  d : RegNum
  a : RegNum
  i : RegNum
  deriving DecidableEq, Repr

/-- The index of BCAST: the number in X, or a scalar register. -/
inductive BcastIdx where
  | imm (j : Fin 256)
  | sc (r : RegNum)
  deriving DecidableEq, Repr

/-- BCAST. -/
structure BcastOp where
  pair : Bool
  d : RegNum
  a : RegNum
  i : BcastIdx
  deriving DecidableEq, Repr

/-- SHUP and SHDN. -/
structure LaneShift where
  wrap : Bool
  pair : Bool
  d : RegNum
  a : RegNum
  n : Fin 256
  deriving DecidableEq, Repr

/-- VOTE (R121). -/
inductive VoteOp where
  | all (d : PredNum) (p : PredNum)
  | any (d : PredNum) (p : PredNum)
  | ballot (d : RegNum) (p : PredNum)
  | count (d : RegNum) (p : PredNum)
  deriving DecidableEq, Repr

/-- MATCH, NBRL and NBRR. -/
structure LaneOp where
  pair : Bool
  d : RegNum
  a : RegNum
  deriving DecidableEq, Repr

/-! ## Memory instructions -/

/-- Scopes, narrowest first (R6, R74). -/
inductive Scope where
  | sq | tm | cl | lg | dv | sy
  deriving DecidableEq, Repr

/-- Cache hints (R74). -/
inductive Hint where
  | none | nt | wc | repl | keep
  deriving DecidableEq, Repr

/-- The ordering of a memory access with its scope (R152). -/
inductive MemOrd where
  | relaxed
  | acq (s : Scope)
  | rel (s : Scope)
  | ar (s : Scope)
  deriving DecidableEq, Repr

/-- Access widths of LD, ST, ST.PASS, LDS and STS (R153). -/
inductive Width where
  | n8 | i8 | n16 | i16 | w32 | w64 | w128
  deriving DecidableEq, Repr

/-- The record-addressed part of the global mould (R152): index register, record, and the addend K of the 96-bit form
(`none` is the 64-bit form). -/
structure RecAddr where
  idx : VSReg
  buf : RecNum
  k : Option (BitVec 32)
  deriving DecidableEq, Repr

/-- LD and ST (R157). -/
structure MemOp where
  width : Width
  ord : MemOrd
  hint : Hint
  d : RegNum
  addr : RecAddr
  deriving DecidableEq, Repr

/-- The target kinds of ST.PASS (R161). -/
inductive PassKind where
  | one | club | league
  | grp (q : Fin 4)
  deriving DecidableEq, Repr

/-- ST.PASS (R161): always the 96-bit form with the E layout, so no addend. -/
structure PassOp where
  width : Width
  ord : MemOrd
  hint : Hint
  d : RegNum
  idx : VSReg
  buf : RecNum
  kind : PassKind
  e : RegNum
  deriving DecidableEq, Repr

/-- The operations of ATOM (R163). -/
inductive AtomFn where
  | add | smin | smax | umin | umax | and | or | xor | exch
  deriving DecidableEq, Repr

/-- ATOM (R164). `wide` is .i64. -/
structure AtomOp where
  fn : AtomFn
  wide : Bool
  ord : MemOrd
  d : RegNum
  addr : RecAddr
  deriving DecidableEq, Repr

/-- CAS (R164). -/
structure CasOp where
  wide : Bool
  ord : MemOrd
  d : RegNum
  addr : RecAddr
  deriving DecidableEq, Repr

/-- The source of AACC (R165). -/
inductive AaccSrc where
  | la (r : LaNum)
  | f32 (r : RegNum)
  | b16 (r : RegNum)
  | h16 (r : RegNum)
  deriving DecidableEq, Repr

/-- AACC (R165). -/
structure AaccOp where
  src : AaccSrc
  ord : MemOrd
  addr : RecAddr
  deriving DecidableEq, Repr

/-- LDACC (R166). -/
structure LdaccOp where
  zero : Bool
  ord : MemOrd
  d : LaNum
  addr : RecAddr
  deriving DecidableEq, Repr

/-- PREF (R167). -/
structure PrefOp where
  hint : Hint
  addr : RecAddr
  deriving DecidableEq, Repr

/-- FLUSH and INV (R168). -/
inductive LineSel where
  | line (idx : VSReg) (buf : RecNum)
  | all
  deriving DecidableEq, Repr

/-- The offset register of LDS and STS (R170). `zero` is C[0] Z = 1: no offset register. -/
inductive OffSel where
  | reg (r : VSReg)
  | zero (ix : Bool)
  deriving DecidableEq, Repr

/-- LDS and STS (R170). -/
structure ScratchOp where
  width : Width
  d : RegNum
  off : OffSel
  k : Option (BitVec 32)
  deriving DecidableEq, Repr

/-- The kinds of FENCE (R173). -/
inductive FenceKind where
  | full | acq | rel
  deriving DecidableEq, Repr

/-- FENCE (R173). -/
structure FenceOp where
  kind : FenceKind
  scope : Scope
  deriving DecidableEq, Repr

/-- Copy sizes (R174). -/
inductive CopySize where
  | b4 | b8 | b16
  deriving DecidableEq, Repr

/-- CPY.GS and CPY.SG (R174): `buf` is the record of the global side. -/
structure CopyOp where
  size : CopySize
  hint : Hint
  d : VSReg
  a : VSReg
  buf : RecNum
  e : RegNum
  tag : TagNum
  deriving DecidableEq, Repr

/-- CPY.GG (R174). -/
structure CopyGGOp where
  size : CopySize
  hint : Hint
  d : VSReg
  a : VSReg
  drec : RecNum
  srec : RecNum
  e : RegNum
  tag : TagNum
  deriving DecidableEq, Repr

/-- The tag set of R179. -/
inductive TagSet where
  | one (n : TagNum)
  | pair (s : RegNum)
  | all
  deriving DecidableEq, Repr

/-- WAITANY and TAGFF (R179). -/
structure TagQuery where
  d : VSReg
  set : TagSet
  deriving DecidableEq, Repr

/-- RECD (R182). `drop` is C[3:0], `trap` is C[4]. -/
structure RecdOp where
  d : RecNum
  b : RecNum
  a : RegNum
  drop : BitVec 4
  trap : Bool
  deriving DecidableEq, Repr

/-- The items of RECQ (R183). -/
inductive RecItem where
  | base | extent | stride | esize | flags
  deriving DecidableEq, Repr

/-- RECQ (R183). -/
structure RecqOp where
  d : RegNum
  b : RecNum
  item : RecItem
  deriving DecidableEq, Repr

/-! ## Long accumulators and tiles -/

/-- Types of LFMA and LADD (R188). -/
inductive TermTy where
  | f32 | b16 | h16 | i32 | n32 | i64
  deriving DecidableEq, Repr

/-- Types of LRND, LQUO, MRND and MQUO (R188). -/
inductive RndTy where
  | f64 | f32 | b16 | h16 | e5m2 | e4m3 | i32 | n32
  deriving DecidableEq, Repr

/-- LMOV, LADDA, LNEG, LNORM, LXADD (R188). -/
structure LaPair where
  d : LaNum
  a : LaNum
  deriving DecidableEq, Repr

/-- LFMA (R188). -/
structure LfmaOp where
  ty : TermTy
  d : LaNum
  a : RegNum
  b : VSReg
  deriving DecidableEq, Repr

/-- LADD (R188). -/
structure LaddOp where
  ty : TermTy
  d : LaNum
  a : VSReg
  deriving DecidableEq, Repr

/-- The amount of LSCALE (R188). -/
inductive ScaleAmt where
  | imm (k : BitVec 8)
  | sc (r : RegNum)
  deriving DecidableEq, Repr

/-- LSCALE (R188). -/
structure LscaleOp where
  d : LaNum
  a : LaNum
  k : ScaleAmt
  deriving DecidableEq, Repr

/-- LRND (R188). -/
structure LrndOp where
  ty : RndTy
  mode : Mode
  d : RegNum
  a : LaNum
  deriving DecidableEq, Repr

/-- LQUO (R188). -/
structure LquoOp where
  ty : RndTy
  mode : Mode
  d : RegNum
  a : LaNum
  b : LaNum
  deriving DecidableEq, Repr

/-- The address of LLOAD, LSTORE, MSPILL and MFILL (R192): scratchpad form when `buf` is none. -/
structure SpillAddr where
  a : VSReg
  buf : Option RecNum
  k : BitVec 8
  deriving DecidableEq, Repr

/-- LLOAD and LSTORE (R192). -/
structure LmemOp where
  la : LaNum
  addr : SpillAddr
  deriving DecidableEq, Repr

/-- MSPILL and MFILL (R206). -/
structure MmemOp where
  ta : TaNum
  addr : SpillAddr
  deriving DecidableEq, Repr

/-- MMA and MMAS (R196). `col` is DIR; `m` is MREG when MEN = 1. -/
structure MmaOp where
  col : Bool
  ta : TaNum
  fa : FmtNum
  fb : FmtNum
  win : WinNum
  a : RegNum
  b : RegNum
  m : Option RegNum
  deriving DecidableEq, Repr

/-- MSEL (R196). -/
structure MselOp where
  col : Bool
  ta : TaNum
  fa : FmtNum
  win : WinNum
  a : RegNum
  b : RegNum
  deriving DecidableEq, Repr

/-- MADDT (R204). -/
structure TaPair where
  d : TaNum
  a : TaNum
  deriving DecidableEq, Repr

/-- MRND (R204). -/
structure MrndOp where
  ty : RndTy
  mode : Mode
  d : RegNum
  a : TaNum
  deriving DecidableEq, Repr

/-- MQUO (R204). -/
structure MquoOp where
  ty : RndTy
  mode : Mode
  d : RegNum
  a : TaNum
  b : LaNum
  deriving DecidableEq, Repr

/-! ## Control and system -/

/-- JTBL (R127, R129). -/
structure JtblOp where
  idx : VSReg
  entries : Fin 256
  table : BitVec 32
  deriving DecidableEq, Repr

/-- The count of REP (R137). -/
inductive RepCount where
  | imm (n : Fin 256)
  | sc (r : RegNum)
  deriving DecidableEq, Repr

/-- REP (R137). Mask bit 0 selects D, 1 A, 2 B, 3 C. -/
structure RepOp where
  count : RepCount
  stride : Fin 256
  mask : BitVec 4
  deriving DecidableEq, Repr

/-- LNCH (R146). `sys` selects the release scope .sy, otherwise .dv. -/
structure LnchOp where
  sys : Bool
  d : RegNum
  a : RegNum
  n : Fin 256
  deriving DecidableEq, Repr

/-- MGMT (R147). -/
structure MgmtOp where
  d : RegNum
  a : RegNum
  code : BitVec 8
  deriving DecidableEq, Repr

/-- The items of CTXRD and CTXWR with their index (R149). -/
inductive CtxItem where
  | msdepth
  | msaddr (e : Fin 8)
  | msmask (e : Fin 8)
  | msmaskh (e : Fin 8)
  | repcnt | repcfg | wait | nbrcnt | nbroff | nbroffh
  | barst (s : Fin 5)
  | barcnt (s : Fin 5)
  | bargen (s : Fin 5)
  | tagcnt (t : TagNum)
  | innpos
  deriving DecidableEq, Repr

/-- Does the item belong to a thread (R149)? -/
def CtxItem.perThread : CtxItem → Bool
  | .repcnt | .repcfg | .wait | .nbrcnt | .nbroff | .nbroffh | .barst _ | .innpos => true
  | .msdepth | .msaddr _ | .msmask _ | .msmaskh _ | .barcnt _ | .bargen _ | .tagcnt _ => false

/-- CTXRD and CTXWR (R149, R150). `r` is the destination or the source. -/
structure CtxOp where
  r : VSReg
  item : CtxItem
  deriving DecidableEq, Repr

/-- The special registers (R28). -/
inductive Special where
  | lane | wlane | warp | squad | tid | width | vallot
  | team | club | league | gridsz | seedlo | seedhi | inning
  | fault (i : Fin 16)
  | tagrdylo | tagrdyhi | clklo | clkhi
  | oobst | satst | fpst | passref | wdlim
  deriving DecidableEq, Repr

/-- Is the special register of scope thread (R28)? -/
def Special.perThread : Special → Bool
  | .lane | .wlane | .tid | .vallot | .inning | .fault _ | .oobst | .satst | .fpst => true
  | .warp | .squad | .width | .team | .club | .league | .gridsz | .seedlo | .seedhi
  | .tagrdylo | .tagrdyhi | .clklo | .clkhi | .passref | .wdlim => false

/-- May MTS write it (R28)? -/
def Special.writable : Special → Bool
  | .oobst | .satst | .fpst | .passref => true
  | .lane | .wlane | .warp | .squad | .tid | .width | .vallot | .team | .club | .league | .gridsz
  | .seedlo | .seedhi | .inning | .fault _ | .tagrdylo | .tagrdyhi | .clklo | .clkhi | .wdlim => false

/-- Has it a pair name, so that the 64-bit MFS may name it (R31)? -/
def Special.pairLow : Special → Bool
  | .seedlo | .tagrdylo | .clklo => true
  | .lane | .wlane | .warp | .squad | .tid | .width | .vallot | .team | .club | .league | .gridsz
  | .seedhi | .inning | .fault _ | .tagrdyhi | .clkhi | .oobst | .satst | .fpst | .passref | .wdlim => false

/-- MFS (R30). `w` is the 64-bit form. -/
structure MfsOp where
  w : Bool
  d : VSReg
  sr : Special
  deriving DecidableEq, Repr

/-- MTS (R30). -/
structure MtsOp where
  sr : Special
  src : VSReg
  deriving DecidableEq, Repr

/-! ## What an event carries -/

/-- A request of a remote initiator (R375): another device, or the host's DMA. -/
inductive RemoteKind where
  | write | read | atomic | cas | aacc | ldaccZero
  deriving DecidableEq, Repr

/-- A remote initiator's request at this device (R356, R375): its source, the context and the address in it, and the class
that it carries (R345). For an atomic `fn` is its operation, `wide` its width and `data` its operand bytes; `len` is the
length of a read; `data` of an AACC is the term as the spill image of R51. -/
structure RemoteReq where
  kind : RemoteKind
  source : Nat
  ctx : Nat
  va : BitVec 57
  cls : BitVec 3
  len : Nat
  data : List Byte
  fn : AtomFn
  wide : Bool
  deriving DecidableEq, Repr

/-- The forms of a message (R260). -/
inductive CollForm where
  | pa8 | pa16 | cell
  deriving DecidableEq, Repr

/-- The sender of a DONE (R263, R264): its rank, and the incarnation of its device. -/
structure DoneFrom where
  rank : Nat
  incarn : BitVec 16
  deriving DecidableEq, Repr

/-- A collective message (R261). `vals` are its elements in the form `form` (R260): the first 8, 16 or 96 bytes of each. -/
structure CollMsg where
  collid : BitVec 32
  ctx : Nat
  src : Nat
  dst : Nat
  srcIncarn : BitVec 16
  dstIncarn : BitVec 16
  chunk : Nat
  form : CollForm
  seq : BitVec 32
  cmap : BitVec 1024
  vals : List (BitVec 768)
  deriving DecidableEq, Repr

/-- The arrays that carry ECC (R390, R404). -/
inductive ErrArray where
  | vectorFile | scalarFile | accFile | scratchpad | l1 | l2 | hbm | inningBuffer | saveArea | staging
  deriving DecidableEq, Repr

/-- Where an ECC error is found: the array, the task and team that the data belong to (for an array of a core), and the
physical address (for L1, L2 and HBM); `consumed` says that a task reads the data, `dirty` that a line of an L2 slice is not
a clean copy. -/
structure ErrSite where
  array : ErrArray
  task : Nat
  team : Nat
  addr : Nat
  consumed : Bool
  dirty : Bool
  deriving DecidableEq, Repr

/-! ## The instructions and events -/

/-- Where a request to a home slice comes from (R332): the queue of a warp of the core, or the way a store of RC or WS memory
takes from its queue to its home. -/
inductive SliceReq where
  | queue (core : Nat)
  | flight
  deriving DecidableEq, Repr

/-- How a target refuses a request: with a retry-after hint (R303), for good, for the class of its line (R345), or as a message to an
incarnation that is over (R264). -/
inductive RefusalWhy where
  | hint (h : BitVec 8)
  | never
  | cls
  | stale
  deriving DecidableEq, Repr

/-- One constructor for every row of the opcode table. -/
inductive Instr where
  /-- IADD, opcode 0x000 -/
  | iadd (g : Guards) (o : IntBin)
  /-- ISUB, opcode 0x001 -/
  | isub (g : Guards) (o : IntBin)
  /-- IMUL, opcode 0x002 -/
  | imul (g : Guards) (o : IntBin)
  /-- IMULH, opcode 0x003 -/
  | imulh (g : Guards) (o : IntBin)
  /-- IMAD, opcode 0x004 -/
  | imad (g : Guards) (o : IntTri)
  /-- IDIV, opcode 0x005 -/
  | idiv (g : Guards) (o : IntBin)
  /-- IREM, opcode 0x006 -/
  | irem (g : Guards) (o : IntBin)
  /-- IMIN, opcode 0x007 -/
  | imin (g : Guards) (o : IntBin)
  /-- IMAX, opcode 0x008 -/
  | imax (g : Guards) (o : IntBin)
  /-- IABS, opcode 0x009 -/
  | iabs (g : Guards) (o : IntUn)
  /-- INEG, opcode 0x00A -/
  | ineg (g : Guards) (o : IntUn)
  /-- SHL, opcode 0x00B -/
  | shl (g : Guards) (o : IntBin)
  /-- SHR, opcode 0x00C -/
  | shr (g : Guards) (o : IntBin)
  /-- SAR, opcode 0x00D -/
  | sar (g : Guards) (o : IntBin)
  /-- ROTL, opcode 0x00E -/
  | rotl (g : Guards) (o : IntBin)
  /-- ROTR, opcode 0x00F -/
  | rotr (g : Guards) (o : IntBin)
  /-- BFX, opcode 0x010 -/
  | bfx (g : Guards) (o : IntBin)
  /-- BFI, opcode 0x011 -/
  | bfi (g : Guards) (o : IntTri)
  /-- POPC, opcode 0x012 -/
  | popc (g : Guards) (o : IntUn)
  /-- CLZ, opcode 0x013 -/
  | clz (g : Guards) (o : IntUn)
  /-- CTZ, opcode 0x014 -/
  | ctz (g : Guards) (o : IntUn)
  /-- BREV, opcode 0x015 -/
  | brev (g : Guards) (o : IntUn)
  /-- AND, opcode 0x016 -/
  | andb (g : Guards) (o : IntBin)
  /-- OR, opcode 0x017 -/
  | orb (g : Guards) (o : IntBin)
  /-- XOR, opcode 0x018 -/
  | xorb (g : Guards) (o : IntBin)
  /-- NOT, opcode 0x019 -/
  | notb (g : Guards) (o : IntUn)
  /-- ANDN, opcode 0x01A -/
  | andn (g : Guards) (o : IntBin)
  /-- SEL, opcode 0x01B -/
  | sel (g : Guards) (o : SelOp)
  /-- ICMP, opcode 0x01C -/
  | icmp (g : Guards) (o : ICmpOp)
  /-- MOV, opcode 0x01D -/
  | mov (g : Guards) (o : MovOp)
  /-- LEA, opcode 0x01E -/
  | lea (g : Guards) (o : LeaOp)
  /-- PAND, opcode 0x020 -/
  | pand (g : Guards) (o : PredBin)
  /-- POR, opcode 0x021 -/
  | por (g : Guards) (o : PredBin)
  /-- PXOR, opcode 0x022 -/
  | pxor (g : Guards) (o : PredBin)
  /-- PNOT, opcode 0x023 -/
  | pnot (g : Guards) (o : PredUn)
  /-- FADD, opcode 0x100 -/
  | fadd (g : Guards) (o : FloatBin)
  /-- FSUB, opcode 0x101 -/
  | fsub (g : Guards) (o : FloatBin)
  /-- FMUL, opcode 0x102 -/
  | fmul (g : Guards) (o : FloatBin)
  /-- FFMA, opcode 0x103 -/
  | ffma (g : Guards) (o : FloatTri)
  /-- FMIN, opcode 0x104 -/
  | fmin (g : Guards) (o : FloatSel)
  /-- FMAX, opcode 0x105 -/
  | fmax (g : Guards) (o : FloatSel)
  /-- FABS, opcode 0x106 -/
  | fabs (g : Guards) (o : FloatUn)
  /-- FNEG, opcode 0x107 -/
  | fneg (g : Guards) (o : FloatUn)
  /-- FCMP, opcode 0x108 -/
  | fcmp (g : Guards) (o : FCmpOp)
  /-- FCLASS, opcode 0x109 -/
  | fclass (g : Guards) (o : FloatUn)
  /-- FRINT, opcode 0x10A -/
  | frint (g : Guards) (o : FrintOp)
  /-- FLDEXP, opcode 0x10B -/
  | fldexp (g : Guards) (o : FloatBin)
  /-- FCOPYSIGN, opcode 0x10C -/
  | fcopysign (g : Guards) (o : FloatSel)
  /-- FEXP, opcode 0x140 -/
  | fexp (g : Guards) (o : FloatUn)
  /-- FEXP2, opcode 0x141 -/
  | fexp2 (g : Guards) (o : FloatUn)
  /-- FLOG2, opcode 0x142 -/
  | flog2 (g : Guards) (o : FloatUn)
  /-- FRCP, opcode 0x143 -/
  | frcp (g : Guards) (o : FloatUn)
  /-- FRSQ, opcode 0x144 -/
  | frsq (g : Guards) (o : FloatUn)
  /-- FSQRT, opcode 0x145 -/
  | fsqrt (g : Guards) (o : FloatUn)
  /-- FDIV, opcode 0x146 -/
  | fdiv (g : Guards) (o : FloatSel)
  /-- FSIN, opcode 0x147 -/
  | fsin (g : Guards) (o : FloatUn)
  /-- FCOS, opcode 0x148 -/
  | fcos (g : Guards) (o : FloatUn)
  /-- FTANH, opcode 0x149 -/
  | ftanh (g : Guards) (o : FloatUn)
  /-- CVT, opcode 0x180 -/
  | cvt (g : Guards) (o : CvtOp)
  /-- CVTQ, opcode 0x181 -/
  | cvtq (g : Guards) (o : CvtqOp)
  /-- CVTX, opcode 0x182 -/
  | cvtx (g : Guards) (o : CvtxOp)
  /-- RAND, opcode 0x183 -/
  | rand (g : Guards) (o : RandOp)
  /-- PERM, opcode 0x1C0 -/
  | perm (g : Guards) (o : PermOp)
  /-- BCAST, opcode 0x1C1 -/
  | bcast (g : Guards) (o : BcastOp)
  /-- SHUP, opcode 0x1C2 -/
  | shup (g : Guards) (o : LaneShift)
  /-- SHDN, opcode 0x1C3 -/
  | shdn (g : Guards) (o : LaneShift)
  /-- VOTE, opcode 0x1C4 -/
  | vote (g : Guards) (o : VoteOp)
  /-- MATCH, opcode 0x1C5 -/
  | matchLanes (g : Guards) (o : LaneOp)
  /-- NBRL, opcode 0x1C6 -/
  | nbrl (g : Guards) (o : LaneOp)
  /-- NBRR, opcode 0x1C7 -/
  | nbrr (g : Guards) (o : LaneOp)
  /-- LD, opcode 0x200 -/
  | ld (g : Guards) (o : MemOp)
  /-- ST, opcode 0x201 -/
  | st (g : Guards) (o : MemOp)
  /-- LDS, opcode 0x202 -/
  | lds (g : Guards) (o : ScratchOp)
  /-- STS, opcode 0x203 -/
  | sts (g : Guards) (o : ScratchOp)
  /-- ST_PASS, opcode 0x204 -/
  | stPass (g : Guards) (o : PassOp)
  /-- ATOM, opcode 0x205 -/
  | atom (g : Guards) (o : AtomOp)
  /-- CAS, opcode 0x206 -/
  | cas (g : Guards) (o : CasOp)
  /-- AACC, opcode 0x207 -/
  | aacc (g : Guards) (o : AaccOp)
  /-- LDACC, opcode 0x208 -/
  | ldacc (g : Guards) (o : LdaccOp)
  /-- FENCE, opcode 0x209 -/
  | fence (g : Guards) (o : FenceOp)
  /-- CPY_GS, opcode 0x20A -/
  | cpyGs (g : Guards) (o : CopyOp)
  /-- CPY_SG, opcode 0x20B -/
  | cpySg (g : Guards) (o : CopyOp)
  /-- CPY_GG, opcode 0x20C -/
  | cpyGg (g : Guards) (o : CopyGGOp)
  /-- WAITALL, opcode 0x20D -/
  | waitall (g : Guards) (o : TagSet)
  /-- WAITANY, opcode 0x20E -/
  | waitany (g : Guards) (o : TagQuery)
  /-- TAGFF, opcode 0x20F -/
  | tagff (g : Guards) (o : TagQuery)
  /-- TAGCLR, opcode 0x210 -/
  | tagclr (g : Guards) (o : TagSet)
  /-- RECD, opcode 0x211 -/
  | recd (g : Guards) (o : RecdOp)
  /-- RECQ, opcode 0x212 -/
  | recq (g : Guards) (o : RecqOp)
  /-- PREF, opcode 0x213 -/
  | pref (g : Guards) (o : PrefOp)
  /-- FLUSH, opcode 0x214 -/
  | flush (g : Guards) (o : LineSel)
  /-- INV, opcode 0x215 -/
  | inv (g : Guards) (o : LineSel)
  /-- LZERO, opcode 0x280 -/
  | lzero (g : Guards) (o : LaNum)
  /-- LMOV, opcode 0x281 -/
  | lmov (g : Guards) (o : LaPair)
  /-- LFMA, opcode 0x282 -/
  | lfma (g : Guards) (o : LfmaOp)
  /-- LADD, opcode 0x283 -/
  | ladd (g : Guards) (o : LaddOp)
  /-- LADDA, opcode 0x284 -/
  | ladda (g : Guards) (o : LaPair)
  /-- LNEG, opcode 0x285 -/
  | lneg (g : Guards) (o : LaPair)
  /-- LSCALE, opcode 0x286 -/
  | lscale (g : Guards) (o : LscaleOp)
  /-- LNORM, opcode 0x287 -/
  | lnorm (g : Guards) (o : LaPair)
  /-- LRND, opcode 0x288 -/
  | lrnd (g : Guards) (o : LrndOp)
  /-- LQUO, opcode 0x289 -/
  | lquo (g : Guards) (o : LquoOp)
  /-- LLOAD, opcode 0x28A -/
  | lload (g : Guards) (o : LmemOp)
  /-- LSTORE, opcode 0x28B -/
  | lstore (g : Guards) (o : LmemOp)
  /-- LXADD, opcode 0x28C -/
  | lxadd (g : Guards) (o : LaPair)
  /-- MZERO, opcode 0x2A0 -/
  | mzero (g : Guards) (o : TaNum)
  /-- MMA, opcode 0x2A1 -/
  | mma (g : Guards) (o : MmaOp)
  /-- MMAS, opcode 0x2A2 -/
  | mmas (g : Guards) (o : MmaOp)
  /-- MSEL, opcode 0x2A3 -/
  | msel (g : Guards) (o : MselOp)
  /-- MADDT, opcode 0x2A4 -/
  | maddt (g : Guards) (o : TaPair)
  /-- MRND, opcode 0x2A5 -/
  | mrnd (g : Guards) (o : MrndOp)
  /-- MQUO, opcode 0x2A6 -/
  | mquo (g : Guards) (o : MquoOp)
  /-- MSPILL, opcode 0x2A7 -/
  | mspill (g : Guards) (o : MmemOp)
  /-- MFILL, opcode 0x2A8 -/
  | mfill (g : Guards) (o : MmemOp)
  /-- BRA, opcode 0x300 -/
  | bra (g : Guards) (off : BitVec 32)
  /-- JMPI, opcode 0x301 -/
  | jmpi (g : Guards) (r : VSReg)
  /-- JTBL, opcode 0x302 -/
  | jtbl (g : Guards) (o : JtblOp)
  /-- CALL, opcode 0x303 -/
  | call (g : Guards) (d : RegNum) (off : BitVec 32)
  /-- CALLI, opcode 0x304 -/
  | calli (g : Guards) (d : RegNum) (r : VSReg)
  /-- RET, opcode 0x305 -/
  | ret (g : Guards) (r : VSReg)
  /-- MARK, opcode 0x306 -/
  | mark (off : BitVec 32)
  /-- JOIN, opcode 0x307 -/
  | join
  /-- YIELD, opcode 0x308 -/
  | yield (g : Guards)
  /-- EXIT, opcode 0x309 -/
  | exit (g : Guards)
  /-- NOP, opcode 0x30A -/
  | nop (g : Guards)
  /-- REP, opcode 0x30B -/
  | rep (g : Guards) (o : RepOp)
  /-- TRAP, opcode 0x30C -/
  | trap (g : Guards) (n : BitVec 8)
  /-- BKPT, opcode 0x30D -/
  | bkpt (g : Guards) (n : BitVec 8)
  /-- TRET, opcode 0x30E -/
  | tret
  /-- BAR, opcode 0x30F -/
  | bar (s : Scope)
  /-- BARA, opcode 0x310 -/
  | bara (s : Scope)
  /-- BARW, opcode 0x311 -/
  | barw (s : Scope)
  /-- INNEND, opcode 0x312 -/
  | innend (g : Guards)
  /-- VSHRINK, opcode 0x313 -/
  | vshrink (g : Guards) (n : Fin 33)
  /-- VGROW, opcode 0x314 -/
  | vgrow (g : Guards) (n : Fin 33)
  /-- LNCH, opcode 0x315 -/
  | lnch (g : Guards) (o : LnchOp)
  /-- MGMT, opcode 0x316 -/
  | mgmt (g : Guards) (o : MgmtOp)
  /-- CTXRD, opcode 0x317 -/
  | ctxrd (g : Guards) (o : CtxOp)
  /-- CTXWR, opcode 0x318 -/
  | ctxwr (g : Guards) (o : CtxOp)
  /-- MFS, opcode 0x380 -/
  | mfs (g : Guards) (o : MfsOp)
  /-- MTS, opcode 0x381 -/
  | mts (g : Guards) (o : MtsOp)
  /-- the event ISSUE_SLOT_SERVICE -/
  | issueSlotService (core squad slot : Nat)
  /-- the event AGING -/
  | aging (core squad : Nat)
  /-- the event WATCHDOG -/
  | watchdog (core squad : Nat)
  /-- the event POWER_GOOD -/
  | powerGood
  /-- the event BOOT_DONE -/
  | bootDone
  /-- the event PREEMPTION_WATCHDOG -/
  | preemptionWatchdog (core : Nat)
  /-- the event HOST_WRITE_ACKNOWLEDGEMENT -/
  | hostWriteAcknowledgement (k : Nat)
  /-- the event BACK_INVALIDATION_RESPONSE -/
  | backInvalidationResponse (k : Nat)
  /-- the event HOME_SLICE_REQUEST: of the `k`-th warp of a core, or of the `k`-th message -/
  | homeSliceRequest (r : SliceReq) (k : Nat)
  /-- the event FW_COMMIT -/
  | fwCommit (v : BitVec 64)
  /-- the event PCOPY -/
  | pcopy (v : BitVec 64)
  /-- the event LOAD_COMPLETION -/
  | loadCompletion (k : Nat)
  /-- the event COPY_COMPLETION -/
  | copyCompletion (k : Nat)
  /-- the event MGMT_REPLY -/
  | mgmtReply (k : Nat)
  /-- the event VERSION -/
  | version (k : Nat)
  /-- the event SETSEED -/
  | setseed (k : Nat)
  /-- the event CHAINQ -/
  | chainq (k : Nat)
  /-- the event LEASEQ -/
  | leaseq (k : Nat)
  /-- the event NOTIFY -/
  | notify (k : Nat)
  /-- the event UNSERVED_MGMT_CODE -/
  | unservedMgmtCode (k : Nat)
  /-- the event COMMIT -/
  | commit (task : Nat)
  /-- the event DOORBELL -/
  | doorbell (v : BitVec 64)
  /-- the event DEQUEUE -/
  | dequeue (chain : Nat)
  /-- the event TEAM_START -/
  | teamStart (core team : Nat)
  /-- the event CORE_CLEAN -/
  | coreClean (core : Nat)
  /-- the event BIND -/
  | bind (slot : Nat) (r : BitVec 512)
  /-- the event REVOKE -/
  | revoke (slot : Nat)
  /-- the event SUSPEND -/
  | suspend (slot : Nat)
  /-- the event RESUME -/
  | resume (slot : Nat)
  /-- the event DRAIN_COMPLETE -/
  | drainComplete (slot : Nat)
  /-- the event REMAP_ROW_WRITE -/
  | remapRowWrite (die core : Nat) (row : BitVec 64)
  /-- the event TEAM_SWITCH -/
  | teamSwitch (core : Nat)
  /-- the event PREEMPTION -/
  | preemption (core : Nat)
  /-- the event TEAM_RESTORE -/
  | teamRestore (core team : Nat)
  /-- the event QUANTUM_EXPIRY -/
  | quantumExpiry (core : Nat)
  /-- the event CONTRIBUTION -/
  | contribution (k : Nat)
  /-- the event REG -/
  | reg (k : Nat)
  /-- the event REGACK -/
  | regack (k : Nat)
  /-- the event COLLECT -/
  | collect (k : Nat)
  /-- the event SURR -/
  | surr (k : Nat)
  /-- the event SURR_E -/
  | surrE (k : Nat)
  /-- the event NONE -/
  | noneMsg (k : Nat)
  /-- the event PARTIAL_EVICTION -/
  | partialEviction (slice line : Nat)
  /-- the event GATHER_START -/
  | gatherStart (line : Nat)
  /-- the event BOWL_CONTRIBUTION -/
  | bowlContribution (k : Nat)
  /-- the event BOWL_EMISSION -/
  | bowlEmission (k : Nat)
  /-- the event LINK_REPLAY -/
  | linkReplay (k : Nat) (lost : Bool)
  /-- the event PASS_ARRIVAL -/
  | passArrival (k : Nat)
  /-- the event PASS_OUTCOME -/
  | passOutcome (k : Nat)
  /-- the event NOTIFICATION_TOKEN -/
  | notificationToken (k : Nat)
  /-- the event DIRECTORY_PROBE -/
  | directoryProbe (k : Nat)
  /-- the event PROBE_ACK -/
  | probeAck (k : Nat)
  /-- the event PAGE_WALK -/
  | pageWalk (core ctx : Nat) (va : BitVec 57)
  /-- the event REMOTE_WRITE -/
  | remoteWrite (q : RemoteReq)
  /-- the event REMOTE_WRITE_ACK -/
  | remoteWriteAck (k : Nat)
  /-- the event REMOTE_REQUEST -/
  | remoteRequest (q : RemoteReq)
  /-- the event REFUSAL -/
  | refusal (k : Nat) (why : RefusalWhy)
  /-- the event RETRY_RESEND -/
  | retryResend (k : Nat)
  /-- the event HOST_SNOOP -/
  | hostSnoop (pa : Nat) (data : List Byte)
  /-- the event HOST_STORE -/
  | hostStore (pa : Nat) (data : List Byte)
  /-- the event CLASS_CHANGE -/
  | classChange (ctx : Nat) (va : BitVec 57) (cls : BitVec 3)
  /-- the event TRANSLATION_SHOOTDOWN -/
  | translationShootdown (ctx : Nat) (va len : Nat)
  /-- the event MIGRATION -/
  | migration (ctx : Nat) (va : BitVec 57) (pa : Nat)
  /-- the event LEASE_GRANT -/
  | leaseGrant (lease : Nat)
  /-- the event LEASE_REVOCATION -/
  | leaseRevocation (lease : Nat) (ranges : List (BitVec 128))
  /-- the event COLLECTIVE_DEQUEUE -/
  | collectiveDequeue (chain : Nat)
  /-- the event SEND -/
  | send (chain : Nat)
  /-- the event RECV -/
  | recv (chain : Nat)
  /-- the event RRS -/
  | rrs (chain : Nat)
  /-- the event COPY -/
  | copyStep (chain : Nat)
  /-- the event WAIT -/
  | waitStep (chain : Nat)
  /-- the event LOOPB -/
  | loopb (chain : Nat)
  /-- the event LOOPE -/
  | loope (chain : Nat)
  /-- the event END -/
  | endStep (chain : Nat)
  /-- the event COLLECTIVE_MESSAGE -/
  | collectiveMessage (m : CollMsg)
  /-- the event SEND_ACKNOWLEDGEMENT -/
  | sendAcknowledgement (k : Nat)
  /-- the event DONE -/
  | doneMsg (chain : Nat) (rank : DoneFrom)
  /-- the event STALL -/
  | stall (chain : Nat)
  /-- the event MEMBER_FAILED -/
  | memberFailed (chain rank : Nat)
  /-- the event BENCH_REPLAY -/
  | benchReplay (ctx : Nat)
  /-- the event CORRECTABLE_ERROR -/
  | correctableError (site : ErrSite)
  /-- the event UNCORRECTABLE_ERROR -/
  | uncorrectableError (site : ErrSite)
  /-- the event PAGE_RETIRE -/
  | pageRetire (pa : Nat)
  /-- the event UNIT_OUT_OF_SERVICE -/
  | unitOutOfService (league : Nat)
  /-- the event UNIT_REJOIN -/
  | unitRejoin (league : Nat)
  /-- the event UNIT_LOSS -/
  | unitLoss (league : Nat)
  /-- the event SEED -/
  | seed (v : BitVec 64)
  /-- the event DUTY -/
  | duty (v : BitVec 64)
  /-- the event PODID -/
  | podid (v : BitVec 64)
  /-- the event EVQBASE -/
  | evqbase (v : BitVec 64)
  /-- the event EVQHEAD -/
  | evqhead (v : BitVec 64)
  /-- the event PLIM -/
  | plim (v : BitVec 64)
  /-- the event FW_OPEN -/
  | fwOpen (v : BitVec 64)
  /-- the event FW_PIECE -/
  | fwPiece (v : BitVec 64)
  /-- the event BINDW -/
  | bindw (v : BitVec 64)
  /-- the event REMAPW -/
  | remapw (v : BitVec 64)
  /-- the event CHAINW -/
  | chainw (v : BitVec 64)
  /-- the event XLSHOOT -/
  | xlshoot (v : BitVec 64)
  /-- the event CLASSCHG -/
  | classchg (v : BitVec 64)
  /-- the event MIGDONE -/
  | migdone (v : BitVec 64)
  /-- the event MEMFAIL -/
  | memfail (v : BitVec 64)
  /-- the event PWRITE -/
  | pwrite (v : BitVec 64)
  /-- the event LEASEGR -/
  | leasegr (v : BitVec 64)
  /-- the event BKRES -/
  | bkres (v : BitVec 64)
  /-- the event REGISTER_WRITE -/
  | registerWrite (off : BitVec 16) (v : BitVec 64)
  /-- the event RESET -/
  | reset
  /-- the event HARDWARE_FAULT_HALT -/
  | hardwareFaultHalt (cause : BitVec 512)
  /-- the event LINK_TRAIN -/
  | linkTrain (full wide : Bool)
  /-- the event PORT_TRAINING -/
  | portTraining (port : Fin 8) (ok : Bool)
  /-- the event PORT_LOSS -/
  | portLoss (port : Fin 8)
  /-- the event POWER_LIMIT_THROTTLE -/
  | powerLimitThrottle (watts : BitVec 16)
  /-- the event OVERTEMP_THROTTLE -/
  | overtempThrottle
  /-- the event OVERTEMP_SHUTDOWN -/
  | overtempShutdown
  /-- the event GET_VERSION -/
  | getVersion
  /-- the event GET_CAPABILITIES -/
  | getCapabilities
  /-- the event NEGOTIATE_ALGORITHMS -/
  | negotiateAlgorithms
  /-- the event GET_DIGESTS -/
  | getDigests
  /-- the event GET_CERTIFICATE -/
  | getCertificate (slot : Nat)
  /-- the event CHALLENGE -/
  | challenge
  /-- the event GET_MEASUREMENTS -/
  | getMeasurements (index : Nat)
  /-- the event KEY_EXCHANGE -/
  | keyExchange
  /-- the event FINISH -/
  | finish
  /-- the event IDE_KEY_MANAGEMENT -/
  | ideKeyManagement
  /-- the event MCMD_UNASSIGNED_OPCODE -/
  | mcmdUnassignedOpcode (v : BitVec 64)
  /-- the event POWER_LOSS -/
  | powerLoss
  /-- the event CHAIN_DESCRIPTOR_WRITE -/
  | chainDescriptorWrite (chain : Nat) (d : BitVec 512)
  deriving DecidableEq, Repr

end Sys2Proof
end

