-- ==== Sys2Proof/Machine/State.lean ====
section
/-!
DEFINITION. The state of the machine: one whole Tratorok (spec/00_scope.md R2, R3), as plain data.

Threads, warps, teams, tasks, the launch tables, memory, the caches and their messages in flight, the collective
engines, the host interface and firmware are all fields. Maps are lists of pairs in one canonical form (`Sparse`): keys
strictly rising, and no entry equal to what an unlisted key reads as. `State.reset` is the device when it is taken out of
reset: DSTATE 0, every array lost and read as zero.
-/
namespace Sys2Proof.Machine

open Sys2Proof

/-- A finite map from numbers, as a list of pairs with strictly rising keys that lists no default value. -/
abbrev Sparse (α : Type) := List (Nat × α)

/-! ## Accumulators and small registers -/

/-- One accumulator slot (R49, R51): ten 64-bit segments, ten carry bytes and the four flags. -/
structure Acc where
  seg : BitVec 640
  cy : BitVec 80
  nan : Bool
  pinf : Bool
  ninf : Bool
  nzt : Bool
  deriving DecidableEq, Repr

/-- The slot at team start and after LZERO (R51): value 0, flags 0, normalised. -/
def Acc.zero : Acc := { seg := 0, cy := 0, nan := false, pinf := false, ninf := false, nzt := false }

/-- The repeat state of a thread (R137): remaining count 0 means that no repeat is pending. -/
structure Rep where
  remaining : BitVec 16
  iter : BitVec 16
  stride : BitVec 8
  mask : BitVec 4
  deriving DecidableEq, Repr

def Rep.none : Rep := { remaining := 0, iter := 0, stride := 0, mask := 0 }

/-- A thread's own record of one barrier scope (R141): pending bit and recorded generation. -/
structure BarRec where
  pending : Bool
  rgen : BitVec 31
  deriving DecidableEq, Repr

def BarRec.zero : BarRec := { pending := false, rgen := 0 }

/-- A barrier instance (R141): arrivals counted in the current generation, and the generation. -/
structure BarInst where
  count : BitVec 32
  gen : BitVec 31
  deriving DecidableEq, Repr

def BarInst.zero : BarInst := { count := 0, gen := 0 }

/-- The name of a thread: its task, its logical team and its team-local number. -/
structure ThreadKey where
  task : Nat
  team : Nat
  tid : Nat
  deriving DecidableEq, Repr

/-- What a thread waits for (R149 item WAIT, and the waits that are saved as condition 0). -/
inductive Wait where
  /-- ready if its registers and units allow (condition 0) -/
  | none
  /-- arrived at a JOIN (condition 1) -/
  | join
  /-- in BAR or BARW at scope `s`, or in the wait that a second BARA makes first (condition 2) -/
  | barrier (s : Fin 5)
  /-- in a neighbour exchange (condition 3) -/
  | nbr
  /-- in VGROW to `n` registers (condition 4) -/
  | vgrow (n : Nat)
  /-- at the end of its inning (condition 5) -/
  | inning
  /-- in YIELD, until every thread of the list has issued or exited (condition 6) -/
  | yield (o : List ThreadKey)
  /-- in MGMT, until its reply arrives -/
  | mgmt
  /-- stopped at BKPT (R414) -/
  | bkpt
  /-- held at translation (R160) by the page with the number `page` of context `ctx` -/
  | held (ctx page : Nat)
  deriving DecidableEq, Repr

/-- Why a thread is in its trap routine (R392, R380, R381). -/
inductive RoutineKind where
  | fault | trap | save | restore
  deriving DecidableEq, Repr

/-- The thread-scope items that CTXWR has staged (R150). -/
structure Staged where
  repcnt : Option Word
  repcfg : Option Word
  wait : Option Word
  nbrcnt : Option Word
  nbroff : Option Word
  nbroffh : Option Word
  bars : Sparse Word
  innpos : Option Word
  deriving DecidableEq, Repr

def Staged.empty : Staged :=
  { repcnt := .none, repcfg := .none, wait := .none, nbrcnt := .none, nbroff := .none, nbroffh := .none, bars := [],
    innpos := .none }

/-- The interrupted context of a thread in its trap routine (R392). -/
structure Routine where
  kind : RoutineKind
  resume : BitVec 64
  rep : Rep
  wait : Wait
  staged : Staged
  /-- the inning in which the thread was saved has been committed since (R246) -/
  committed : Bool
  deriving DecidableEq, Repr

/-- One thread (R11, R28, R33, R389). -/
structure Thread where
  tid : Nat
  /-- v0 to v255; an unlisted register holds 0 -/
  regs : Sparse Word
  /-- p0 to p6 -/
  preds : BitVec 7
  /-- la0 to la15; an unlisted one is the zero slot -/
  las : Sparse Acc
  pc : BitVec 64
  vallot : Nat
  wait : Wait
  /-- the thread has reached the end of its current inning (R239) -/
  innEnded : Bool
  exited : Bool
  /-- the saved team left this thread out: it ended its save (R380) -/
  saved : Bool
  oobst : Bool
  satst : Bool
  fpst : BitVec 5
  fault : BitVec 512
  rep : Rep
  inning : BitVec 32
  innpos : BitVec 32
  /-- lines of a divided LSTORE or MSPILL already entered (R242) -/
  part : Nat
  /-- the thread's inning ended because its inning-buffer share was full (R239), and it has not issued since -/
  cut : Bool
  /-- barrier records of the scopes 0 (.sq) to 4 (.dv) -/
  bars : Sparse BarRec
  /-- neighbour exchanges completed, and the offer pending in an exchange (R124, R149) -/
  nbrcnt : BitVec 32
  offer : BitVec 64
  routine : Option Routine
  /-- the thread has issued YIELD and no instruction since (R135) -/
  atYield : Bool
  /-- clocks ready and not issued (R308) -/
  dog : Nat
  deriving DecidableEq, Repr

/-- One entry of a mark stack (R131). -/
structure MarkEntry where
  rejoin : BitVec 64
  mask : BitVec 64
  /-- CTXWR wrote this entry, so an empty mask does not remove it until a member exits (R150) -/
  written : Bool
  deriving DecidableEq, Repr

/-- One byte write: physical byte address (local memory) and value. -/
abbrev ByteWrite := Nat × Byte

/-- Which memory a line lies in (R365): this device's HBM, host memory, or device `dev` of the pod. -/
inductive Space where
  | dev
  | host
  | remote (d : Nat)
  deriving DecidableEq, Repr

/-- A physical place: space and byte address. -/
structure Place where
  space : Space
  addr : Nat
  deriving DecidableEq, Repr

/-- Page classes (R329): SC, RC, DO (`ord`), WS, PV. -/
inductive Cls where
  | sc | rc | ord | ws | pv
  deriving DecidableEq, Repr

/-- The targets of a pass: logical team numbers (R161). -/
abbrev PassTargets := List Nat

/-- What an access keeps of its page and its instruction: the cache policy (R365), and what the record of a fault that is found
after the instruction has retired shows (R389): the virtual address of the line, the buffer record, the instruction's address
and the repeat iteration. -/
structure Via where
  cp : Nat := 0
  va : Option Nat := none
  buf : Option Nat := none
  pc : Option Nat := none
  iter : Option Nat := none
  /-- the core that issued it (R407) -/
  core : Option Nat := none
  deriving DecidableEq, Repr

/-- One lane's store, as it stands in a warp's store queue. -/
structure LaneStore where
  owner : ThreadKey
  place : Place
  cls : Cls
  data : List Byte
  targets : PassTargets
  /-- the threads whose stores of the same instruction to the line these passes carry as well -/
  also : List ThreadKey := []
  /-- the copy that completes when another device has performed the store (R175) -/
  copy : Option Nat := none
  /-- its thread has made a release since the store left its queue -/
  rel : Bool := false
  via : Via := {}
  deriving DecidableEq, Repr

/-- How one lane of an atomic or LDACC .zero was issued: its acquire, and the number of the instruction with the lane's
team-local number (R164: the lanes of one instruction act in ascending order). -/
structure HowAtom where
  acq : Option Scope
  instr : Nat := 0
  lane : Nat := 0
  /-- an entry of a commit: the old value goes nowhere (R243) -/
  silent : Bool := false
  via : Via := {}
  deriving DecidableEq, Repr

/-- How one lane of a load was issued: its acquire, the cache policy of its page (R365), and the stores that its value takes
in because they are its thread's own or on their way from its core (R332). -/
structure HowLoad where
  acq : Option Scope
  cp : Nat := 0
  own : List LaneStore := []
  deriving DecidableEq, Repr

/-- The atomic operation of one lane: ATOM with its operand, or CAS with its two. -/
inductive AtomReq where
  | atom (fn : AtomFn) (wide : Bool) (d : BitVec 64)
  | cas (wide : Bool) (cmp new : BitVec 64)
  deriving DecidableEq, Repr

/-- How the result of an atomic enters its registers. -/
def AtomReq.width : AtomReq → Width
  | .atom _ wide _ | .cas wide _ _ => if wide then .w64 else .w32

/-- What waits in a warp's store queue, in issue order (R332). -/
inductive QItem where
  /-- ST, ST.PASS, LSTORE, MSPILL: one lane's bytes -/
  | store (w : LaneStore)
  /-- one lane of an ATOM or CAS; `dst` is the first destination register -/
  | atom (owner : ThreadKey) (place : Place) (cls : Cls) (op : AtomReq) (dst : Nat) (how : HowAtom)
  /-- one lane of an AACC: the term is added to the cell -/
  | aacc (owner : ThreadKey) (place : Place) (cls : Cls) (term : Acc) (via : Via)
  /-- one lane of an LDACC .zero: reads and zeroes the cell -/
  | ldaccZero (owner : ThreadKey) (place : Place) (cls : Cls) (dst : Nat) (how : HowAtom)
  /-- a release by `owner` at scope `s` (R334): what follows leaves the queue only once it is performed -/
  | release (owner : ThreadKey) (s : Scope)
  deriving DecidableEq, Repr

/-- One warp (R11, R33). -/
structure Warp where
  scalars : Sparse Word
  /-- b48 to b63; an unlisted record is all zeros -/
  recs : Sparse (BitVec 256)
  marks : List MarkEntry
  routineMarks : List MarkEntry
  queue : List QItem
  deriving DecidableEq, Repr

/-- What a team is doing on its core. -/
inductive TeamPhase where
  | run
  /-- being pre-empted, switched off or stopped since clock `since`; `program` is the program-assisted form (R380) -/
  | saving (since : Nat) (program : Bool)
  deriving DecidableEq, Repr

/-- A logical team that stands on a core (R297). -/
structure Team where
  task : Nat
  team : Nat
  core : Nat
  phase : TeamPhase
  /-- the team stands in lent rows (R302) -/
  borrower : Bool
  threads : List Thread
  warps : List Warp
  /-- scratchpad bytes; an unlisted byte is 0 -/
  scratch : Sparse Byte
  /-- tile slots by their place in the accumulator files of the four squads, 2,048 slots each (R17); an unlisted one is the
  zero slot -/
  tiles : Sparse Acc
  /-- incomplete copies per tag -/
  tags : Sparse Nat
  passref : BitVec 32
  /-- of a borrower: by squad, the allotment above which the host's rows were lent to it (R302) -/
  lentAbove : List Nat := []
  /-- the refusals received in clock `refusedAt` (R29) -/
  refused : BitVec 32 := 0
  refusedAt : Nat := 0
  /-- .sq instances by squad, and the .tm instance -/
  sqBar : Sparse BarInst
  tmBar : BarInst
  /-- clock at which the team was placed (R301), and clocks since which it stands at a switch point (R237) -/
  placedAt : Nat
  switchSince : Option Nat
  deriving DecidableEq, Repr

/-- A team off its core with its save area (R398). -/
structure SavedTeam where
  task : Nat
  team : Nat
  area : Sparse Byte
  offSince : Nat
  /-- the threads that had reached the end of inning `inning` of the task when the team was saved -/
  innEnded : List Nat
  inning : BitVec 32
  /-- 2 × lines already entered + (1 when the inning was cut short) by thread, where not 0 (R242) -/
  parts : Sparse Nat
  /-- the fault records of its threads, where not 0 (R389) -/
  faults : Sparse (BitVec 512)
  /-- of the program-assisted form: the threads that had not exited, each with its wait, its record of the scope that it waits at,
  and its count of exchanges (R237) -/
  waits : List (Nat × Wait × BarRec × BitVec 32) := []
  /-- of the program-assisted form: the refusals that came while the team was off its core (R240) -/
  refusals : BitVec 32 := 0
  deriving DecidableEq, Repr

/-! ## Tasks -/

/-- What an inning-buffer entry does at its commit (R243). -/
inductive DoKind where
  /-- a store or copy entry for one line: data, byte mask, pass targets -/
  | store (data : BitVec 1024) (mask : BitVec 128) (targets : PassTargets)
  | atom (op : AtomReq) (place : Place)
  | aacc (term : Acc)
  | ldaccZero
  deriving DecidableEq, Repr

/-- One entry of an inning buffer (R241). `line` is the line's first byte. -/
structure DoEntry where
  team : Nat
  tid : Nat
  line : Nat
  kind : DoKind
  space : Space := .dev
  deriving DecidableEq, Repr

/-- An offer of an exchange (R124): its value, and whether it was made of two words (.i64). -/
structure Offer where
  val : BitVec 64
  pair : Bool
  deriving DecidableEq, Repr

/-- The offers of one thread of a linked launch (R124): how many it has made, and the last two. -/
structure Offers where
  made : BitVec 32
  last : Offer
  prev : Offer
  deriving DecidableEq, Repr

def Offer.zero : Offer := { val := 0, pair := true }
def Offers.zero : Offers := { made := 0, last := Offer.zero, prev := Offer.zero }

/-- How a task stands. -/
inductive TaskPhase where
  | live
  /-- the task ends with this outcome once its teams are stopped and drained (R298) -/
  | ending (scode : BitVec 8) (sdetail : Word) (steam : BitVec 16)
  /-- the record's outcome has been written, and `dropped` says that a line of that write was not: the completion word
  follows as a release at .sy (R292) -/
  | closing (dropped : Bool)
  deriving DecidableEq, Repr

/-- A task: a dequeued launch record (R288, R290). -/
structure Task where
  id : Nat
  chain : Nat
  slot : Nat
  ctx : Nat
  recAddr : BitVec 57
  rec0 : BitVec 4096
  table : Sparse (BitVec 256)
  seed : BitVec 64
  phase : TaskPhase
  /-- barrier instances by 2^20 × scope code + unit, for the scopes 2 (.cl) to 4 (.dv) -/
  bars : Sparse BarInst
  /-- inning-buffer entries, in the order in which they were made -/
  buf : List DoEntry
  innings : BitVec 32
  /-- teams that have ended -/
  ended : List Nat
  /-- the record of the fault that ended the task, for the fault service (R395) -/
  fault : BitVec 512
  /-- the clock in which the task's first fault reached the launch unit; until that clock is over the fault of the lowest team, then
  thread, among those that reach it stands (R395, R396) -/
  faultAt : Option Nat := none
  /-- the offers of the neighbour exchanges, by team × T + tid (R123, R124) -/
  offers : Sparse Offers
  /-- the task has started its teams (R294: RUN was reached) -/
  started : Bool
  /-- its last team has ended or stopped, and its slot is no longer the task's (R294) -/
  isOver : Bool := false
  /-- the entries of the commit under way that are not applied yet (R243) -/
  committing : Option (List DoEntry) := none
  /-- this device's memory and host memory when the record was dequeued (R62: the old words of its code) -/
  code : List Host.Cell
  hostCode : List Host.Cell
  deriving DecidableEq, Repr

/-- A write to the seed register, and the doorbells that were rung after it and before the next write: the chain, and the TAIL
before and after (R311). -/
structure SeedValue where
  val : BitVec 64
  rung : List (Nat × Nat × Nat)
  deriving DecidableEq, Repr

/-- The traffic classes (R303). -/
inductive Traffic where
  | request | reply | control
  deriving DecidableEq, Repr

/-- The writes to the seed register in the last clock with one, oldest first, and the value before them (R311). -/
structure SeedWrite where
  clk : Nat
  old : BitVec 64
  writes : List SeedValue
  deriving DecidableEq, Repr

/-- States of a bind record (R293). -/
inductive SlotState where
  | free | bound | staged | run | susp | drain
  deriving DecidableEq, Repr

/-- A slot of the slot table (R293). `held`: SUSPEND has been accepted and no RESUME since. -/
structure Slot where
  rec0 : BitVec 512
  state : SlotState
  held : Bool
  /-- order in which the running task was dequeued (R300) -/
  order : Nat
  deriving DecidableEq, Repr

def Slot.zero : Slot := { rec0 := 0, state := .free, held := false, order := 0 }

/-! ## Caches, translation and messages in flight -/

/-- States of a line in L1 (R348); state I is an absent line. -/
inductive LineState where
  | v | p | d
  deriving DecidableEq, Repr

/-- A line in the L1 of a core. -/
structure L1Line where
  core : Nat
  place : Place
  cls : Cls
  st : LineState
  data : BitVec 1024
  dirty : BitVec 128
  deriving DecidableEq, Repr

/-- A line that the L2 holds with its class tag (R345); remote RC lines and host lines keep their data there. -/
structure L2Line where
  place : Place
  cls : Cls
  data : Option (BitVec 1024)
  deriving DecidableEq, Repr

/-- A read-only copy of a line in the L2 slice of a club, made for a task under .repl (R158), with its class tag (R354): the
contents that the home has had since it was made, newest first, and the threads that have written the line since: their own loads
see the home's line. -/
structure Replica where
  club : Nat
  task : Nat
  place : Place
  cls : Cls
  versions : List (BitVec 1024)
  writers : List ThreadKey
  deriving DecidableEq, Repr

/-- What an eviction drops (R348, R376): a line of an L1, the L2's line, or a replica. -/
inductive Evict where
  | l1 (core : Nat) (place : Place)
  | l2 (place : Place)
  | replica (club : Nat) (place : Place)
  deriving DecidableEq, Repr

/-- An entry of a core's line-translation buffer (R367): one 64 KiB page. -/
structure LtbEntry where
  core : Nat
  ctx : Nat
  page : Nat
  pte : BitVec 64
  /-- the physical base of the 64 KiB page -/
  base : Nat
  deriving DecidableEq, Repr

/-- What a load or an LDACC does with the bytes that it receives. -/
inductive LoadDest where
  /-- vector registers from `d`: width and extension -/
  | regs (d : Nat) (w : Width)
  | la (d : Nat)
  deriving DecidableEq, Repr

/-- An access that waits for a gather (R220), or that triggered one. -/
inductive HomeReq where
  | load (owner : ThreadKey) (core : Nat) (place : Place) (cls : Cls) (n : Nat) (dest : LoadDest)
      (how : HowLoad)
  | store (core : Nat) (w : LaneStore)
  | atom (core : Nat) (owner : ThreadKey) (place : Place) (cls : Cls) (op : AtomReq) (dst : Nat) (how : HowAtom)
  | ldaccZero (core : Nat) (owner : ThreadKey) (place : Place) (cls : Cls) (dst : Nat) (how : HowAtom)
  /-- a contribution that arrived during the gather: term, class, and its (source, sequence) pairs -/
  | contrib (term : Acc) (cls : Cls) (pairs : List (Nat × Nat)) (owners : List ThreadKey)
  | reg (slice : Nat) (cls : Cls)
  /-- a request of a remote initiator at the place of its line -/
  | remote (q : RemoteReq) (place : Place)
  /-- eviction, shootdown or migration asked for the gather -/
  | clean
  deriving DecidableEq, Repr

/-- A home line in ACC-H or GATH (R220). -/
structure HomeCell where
  line : Nat
  cls : Cls
  base : Acc
  h : BitVec 64
  /-- `true`: the line is in GATH -/
  gath : Bool
  /-- the triggering access and the later accesses, in arrival order -/
  waiting : List HomeReq
  /-- AACCs, contributions and REGs held during the gather -/
  queue : List HomeReq
  /-- an uncorrectable error was found in a partial (R232) -/
  stuck : Bool
  deriving DecidableEq, Repr

/-- A partial in another slice: ACC-R (`registered` false) or ACC-P (R220). -/
structure Partial where
  slice : Nat
  line : Nat
  cls : Cls
  acc : Acc
  registered : Bool
  /-- threads whose terms wait for the registration -/
  owners : List ThreadKey
  deriving DecidableEq, Repr

/-- A chunk held as a value: its elements as accumulators, and its contributor map. -/
structure Chunk where
  vals : List Acc
  cmap : BitVec 1024
  deriving DecidableEq, Repr

/-- The kind of a bowl entry (R227): a cell, or the entries of the elements of one collective chunk, which are opened, combined
and emitted together (log entry 63). -/
inductive BowlKind where
  | cell (acc : Acc)
  | chunk (val : Chunk)
  deriving DecidableEq, Repr

/-- An entry of a bowl (R227). `line` is its KEY: the line of a cell, or the staging slot of a chunk's first element (R262); the
pairs are the contributors, slices 0 to 63 and engines 64 to 67, with their sequence numbers. -/
structure BowlEntry where
  die : Nat
  line : Nat
  cls : Cls
  kind : BowlKind
  pairs : List (Nat × Nat)
  owners : List ThreadKey
  opened : Nat
  deriving DecidableEq, Repr

/-- How a write for another device stands (R316): under way, refused with a hint, or waiting at the source for an earlier
write of its thread to the line. -/
inductive RemoteSt where
  | sent
  | refused (hint : BitVec 8)
  | waits
  deriving DecidableEq, Repr

/-- A store to a WS line that no later store is known to follow (R340): its bytes by address, its thread, whether that thread
has made a release since, and the cores that have acquired after that. -/
structure WsStore where
  space : Space
  bytes : List (Nat × Byte)
  owner : ThreadKey
  released : Bool
  seen : List Nat
  deriving DecidableEq, Repr

/-- A request or reply in flight. Each is delivered by the event of the same name. -/
inductive Msg where
  /-- a store of `core` that has left its warp's queue and is on its way to the line's home (R332) -/
  | store (core : Nat) (w : LaneStore)
  /-- data on its way to registers (R157): performed loads, atomics and LDACCs -/
  | load (owner : ThreadKey) (dest : LoadDest) (data : List Byte)
  | mgmtReply (owners : List ThreadKey) (dst : Nat) (reply : Word)
  | contribution (line : Nat) (cls : Cls) (term : Acc) (pairs : List (Nat × Nat)) (owners : List ThreadKey)
      (die : Nat) (replay : Bool) (bowlNext : List Nat)
  /-- the elements of a chunk on their way to an engine through the bowls (R262): KEY, value, pairs, die, replay mark, path -/
  | chunk (key : Nat) (val : Chunk) (pairs : List (Nat × Nat)) (die : Nat) (replay : Bool) (path : List Nat)
  | reg (slice line : Nat) (cls : Cls)
  | regack (slice line : Nat)
  | collect (slice line : Nat)
  | surr (slice line : Nat) (cls : Cls) (acc : Acc) (owners : List ThreadKey)
  | surrE (slice line : Nat) (cls : Cls) (acc : Acc)
  | none_ (slice line : Nat)
  /-- a notification token (R346): the line and the requesting core -/
  | token (place : Place) (core : Nat) (cls : Cls) (owner : ThreadKey)
  | probe (place : Place) (club core : Nat) (cls : Cls) (owner : ThreadKey)
  | probeAck (place : Place) (club : Nat) (held : Bool) (owner : ThreadKey)
  | pass (place : Place) (cls : Cls) (data : BitVec 1024) (sentAt : Nat) (target core : Nat) (owner : ThreadKey)
      (also : List ThreadKey) (stale : Bool)
  | passOutcome (owner : ThreadKey) (also : List ThreadKey) (refused : Bool)
  /-- a store or atomic on its way to another device (R316) -/
  | remote (owner : ThreadKey) (dev : Nat) (item : QItem) (st : RemoteSt) (sentAt : Nat)
  /-- a store to host memory that the host has not acknowledged (R355) -/
  | hostWrite (owner : ThreadKey) (addr : Nat) (data : List Byte)
  /-- a back-invalidation snoop of a window line (R355) -/
  | backInval (owner : ThreadKey) (line : Nat)
  deriving DecidableEq, Repr

/-- An MGMT request that the management core holds (R147). -/
structure MgmtReq where
  owners : List ThreadKey
  dst : Nat
  code : BitVec 8
  arg : BitVec 64
  deriving DecidableEq, Repr

/-- The scratchpad or the memory side of a copy. -/
inductive CopySide where
  | scratch (off : Nat)
  | mem (va : BitVec 57)
  /-- the lane was dropped on this side (R155 step 3) -/
  | dropped
  deriving DecidableEq, Repr

/-- One lane's copy in flight (R175). -/
structure CopyRec where
  id : Nat
  owner : ThreadKey
  tag : Nat
  size : Nat
  src : CopySide
  dst : CopySide
  /-- the status register, a vector register of the owner -/
  reg : Nat
  /-- the copy has been made, or its failure found, when it was issued: only its completion is due -/
  done : Option Nat
  /-- issued inside a trap routine (R246) -/
  inRoutine : Bool := false
  /-- its bytes are on their way to another device -/
  sent : Bool := false
  /-- the buffer records of its sides, its instruction's address and repeat iteration, for the record of a fault (R389) -/
  srcBuf : Option Nat := none
  dstBuf : Option Nat := none
  pc : Nat := 0
  iter : Option Nat := none
  deriving DecidableEq, Repr

/-! ## The huddle -/

/-- A candidate's name (R306): slot, address, warp for paired candidates (of the borrower, and its number), routine part,
repeat iteration. -/
structure CandKey where
  slot : Nat
  pc : BitVec 64
  warp : Option (Bool × Nat)
  inRoutine : Bool
  iter : Option Nat
  deriving DecidableEq, Repr

/-- The huddle of one squad (R305, R306). -/
structure Huddle where
  entries : List (BitVec 64)
  overflow : List (BitVec 64)
  /-- the threads that were ready when the current clock began (R307) -/
  ready : List ThreadKey
  /-- clocks passed over, the current clock included, by candidate -/
  passed : List (CandKey × Nat)
  /-- the candidates that have been served in the current clock, one for each slot -/
  served : List CandKey
  deriving DecidableEq, Repr

def Huddle.empty : Huddle := { entries := [], overflow := [], ready := [], passed := [], served := [] }

/-- The issue group that has been selected and is executed next. -/
structure Group where
  task : Nat
  team : Nat
  core : Nat
  addr : BitVec 64
  members : List Nat
  inRoutine : Bool
  iter : Option Nat
  deriving DecidableEq, Repr

/-! ## Collectives -/

/-- States of a collective (R265). -/
inductive CollPhase where
  | run | stall
  /-- it has stopped with this status, and its report waits for a page that is held or migrates (R373) -/
  | reporting (status : Nat)
  /-- its report is written with this status (FAILED with status 1), and `dropped` says that a line of it was not: the
  completion word follows as a release at .sy (R252) -/
  | ending (status : Nat) (dropped : Bool)
  deriving DecidableEq, Repr

/-- The combination that a RECV has formed so far: the peers whose messages it has not taken yet, in order (R258). -/
structure RecvAcc where
  left : List Nat
  val : Chunk
  deriving DecidableEq, Repr

/-- A SEND source chunk that an engine holds (R263): the destination and number of its message, the buffer and the chunk. -/
structure HeldSource where
  dst : Nat
  seq : BitVec 32
  buf : Nat
  chunk : Nat
  deriving DecidableEq, Repr

/-- A running collective (R251). -/
structure Coll where
  chain : Nat
  die : Nat
  rec0 : BitVec 1024
  rec0Addr : BitVec 57
  /-- the member table, as the validation read it, and the CELL destination buffers of the program (R255, R266) -/
  members : List (BitVec 64)
  dests : List Nat
  step : Nat
  counters : Sparse Nat
  phase : CollPhase
  /-- messages taken from each rank, and sent to each rank -/
  taken : Sparse Nat
  sent : Sparse Nat
  staging : List CollMsg
  /-- the RECV under way -/
  acc : Option RecvAcc
  /-- the messages sent and not yet acknowledged -/
  unacked : List CollMsg
  /-- those of them that were refused with a hint: destination, number, and the clock at which the hint has elapsed -/
  parked : List (Nat × BitVec 32 × Nat)
  held : List HeldSource
  /-- contributor maps by buffer × 65536 + chunk -/
  maps : Sparse (BitVec 1024)
  fpst : BitVec 5
  doneFrom : List Nat
  doneSent : Bool
  frank : Nat
  waitSince : Nat
  deriving DecidableEq, Repr

/-- What a bench holds (R268): a remote write, or a collective message. -/
inductive BenchItem where
  | write (q : RemoteReq)
  | msg (m : CollMsg)
  deriving DecidableEq, Repr

/-- The bench of one context (R268): its items in arrival order. -/
structure Bench where
  ctx : Nat
  items : List BenchItem
  deriving DecidableEq, Repr

/-! ## Replies to other devices and the host's DMA -/

/-- What a target answers to a request (R303, R345, R375). -/
inductive Answer where
  | done (data : List Byte)
  /-- refused with a retry-after hint -/
  | retry (hint : BitVec 8)
  /-- refused without one -/
  | refused
  | aliasing
  deriving DecidableEq, Repr

/-- A reply that left this device, for the initiator `source`. -/
structure Reply where
  source : Nat
  va : BitVec 57
  answer : Answer
  deriving DecidableEq, Repr

/-! ## The device -/

/-- DSTATE (R410, R418). -/
inductive DState where
  | reset | rom | await | boot | ready | halted
  deriving DecidableEq, Repr

/-- An event for the host's ring (R415). -/
structure Event where
  kind : Nat
  team : Nat
  value : BitVec 64
  body : BitVec 512
  /-- the MGMT request that the entry answers once it is written (R416) -/
  reply : Option (List ThreadKey × Nat)
  deriving DecidableEq, Repr

/-- The firmware slot and its transfer (R417). -/
structure Firmware where
  image : List Byte
  valid : Bool
  /-- VERSION of the image that runs (R310), and that image (R420) -/
  running : Word
  runImage : List Byte := []
  /-- what FWCTL was last written with, for its read (R410) -/
  control : BitVec 64 := 0
  /-- the identity key that BOOT has derived (R419) -/
  identity : Option (BitVec 256) := none
  opened : Bool
  total : Nat
  staging : List Byte
  window : Sparse Byte
  status : Nat
  deriving DecidableEq, Repr

def Firmware.empty : Firmware :=
  { image := [], valid := false, running := 0, opened := false, total := 0, staging := [], window := [], status := 0 }

/-- The whole device. -/
structure State where
  /-- core clocks since device reset (R28 clk) -/
  clk : Nat
  dstate : DState
  /-- register window, by offset (R410) -/
  window : Sparse (BitVec 64)
  /-- this device's HBM by physical address; an unlisted byte reads 0 (R418) -/
  mem : List Host.Cell
  /-- host memory by host physical address -/
  hostMem : List Host.Cell
  /-- bind records (R293), remap rows by 64 × die + core (R235) -/
  slots : Sparse Slot
  remap : Sparse (BitVec 64)
  tasks : List Task
  teams : List Team
  saved : List SavedTeam
  nextTask : Nat
  /-- cores whose last team has left and whose arrays are being zeroed, with the clock (R295) -/
  dirty : Sparse Nat
  /-- huddles by 4 × core + squad -/
  huddles : Sparse Huddle
  l1 : List L1Line
  l2 : List L2Line
  replicas : List Replica
  ltb : List LtbEntry
  /-- ranges removed from a lease by a revocation: lease, first page, pages (R372, R390) -/
  revoked : List (Nat × Nat × Nat)
  /-- leases whose REVOKING the host has set, each with its ranges at that time (R372, R413) -/
  revoking : List (Nat × List (Nat × Nat × Bool))
  /-- frames whose last mapping has gone: frame number, and the context that it was of, plus 1 (R377) -/
  freed : Sparse Nat
  /-- lines of this device's memory with an uncorrectable error that the next read of a unit finds (R290, R291, R404) -/
  badLines : List Nat
  /-- bytes of device memory for the inning buffers of the ordered launches (R241) -/
  inningPool : Nat
  /-- the last write to the seed register (R311) -/
  seedWrite : Option SeedWrite
  /-- pages under a class change or migration, by (context, page number) -/
  heldPages : List (Nat × Nat)
  /-- the migrations that the management core has begun, by (context, first page) (R313) -/
  moves : List (Nat × Nat)
  /-- the pages whose MIG the host has set and not cleared, by (context, first page) (R373, R374) -/
  hostMoves : List (Nat × Nat)
  /-- the requests of remote initiators to pages that are not mapped, of which the residency duty has been told, and whether it has
  answered that the address is not mapped: context and page (R375) -/
  residNotices : List (Nat × Nat × Bool)
  cells : List HomeCell
  partials : List Partial
  bowls : List BowlEntry
  /-- recent-AACC filter of each slice, oldest first (R218) -/
  filters : List (Nat × Nat)
  /-- slices that will discard the next REGACK for a line: (slice, line) (R220) -/
  discards : List (Nat × Nat)
  /-- next sequence number by 64 × source + home (R228), and pairs that the homes have merged (R229) -/
  seqs : Sparse Nat
  merged : List (Nat × Nat × Nat)
  /-- fabric directory: region number × 64 + club (R347) -/
  directory : List Nat
  /-- stores to WS lines that are ordered before no later store (R340) -/
  wsStores : List WsStore
  net : List Msg
  copies : List CopyRec
  nextCopy : Nat
  mgmt : List MgmtReq
  colls : List Coll
  /-- the SEND source chunks of failed collectives, by chain, until the next record of the chain is dequeued (R265) -/
  heldSources : List (Nat × List HeldSource)
  /-- the notices of stalled steps to the membership duty, newest last: chain, COLLID, step (R265) -/
  stallNotices : List (Nat × BitVec 32 × Nat)
  benches : List Bench
  /-- replies to remote initiators, newest last -/
  replies : List Reply
  /-- events written to the ring in host memory, and events held (R415, R416) -/
  heldEvents : List Event
  /-- the error log (R404) -/
  errorLog : List (BitVec 512)
  /-- physical pages retired (R405) -/
  retired : List Nat
  /-- leagues that have been lost without a repair sequence: the frames homed there stay retired (R408) -/
  lostUnits : List Nat
  /-- leagues that are lost and have not rejoined (R407, R408) -/
  downUnits : List Nat
  /-- has the device joined the pod since its reset (R264)? -/
  joined : Bool
  /-- has the command of the host that the device performs made its write, whose tokens it awaits (R413)? -/
  commandWritten : Bool
  /-- incarnation numbers of the leagues (by number) and of the device (key 64) (R264, R407) -/
  incarn : Sparse (BitVec 16)
  firmware : Firmware
  /-- MCMD: the command being executed, with the payload read at its write (R412) -/
  command : Option (BitVec 64 × BitVec 512)
  /-- IDE is established (R421); DOE responses sent, newest last (R420) -/
  ide : Bool
  doe : List (Nat × BitVec 256)
  /-- UALink ports that are up; whether the host has written PODID, and whether bring-up has begun (R422) -/
  ports : List Nat
  podWritten : Bool
  portsBegun : Bool
  /-- CXL link: full rate and full width (R409) -/
  linkUp : Bool
  linkFull : Bool
  linkWide : Bool
  /-- the clock is lowered (R423, R424) -/
  throttled : Bool
  /-- the window lines that the host holds (R355) -/
  hostHeld : List Nat
  /-- the model's own: events still to come from outside, the group selected for execution, and
  the counter of free values -/
  agenda : List Instr
  cur : Option Group
  /-- the model's own: the parts of the served candidate's group that issue after `cur` in the same clock -/
  curRest : List Group
  /-- the model's own: the evictions to come, each with the clock at whose start it takes place (log entry 38) -/
  evictPlan : List (Nat × Evict)
  /-- threads whose next instruction a unit could not accept, or whose registers were not available, when it was tried;
  forgotten as soon as anything else happens -/
  blocked : List ThreadKey
  /-- the threads whose next instruction the units could not accept when the current clock began (R305) -/
  busy : List ThreadKey
  /-- the model's own: a part of the served candidate's group has issued in the current clock -/
  curDone : Bool
  freeCtr : Nat
  deriving DecidableEq, Repr

/-- The device right after reset (R418): DSTATE 0, every register of the window at its reset value (R410; PLIM is
8,000), every array empty. -/
def State.reset : State :=
  { clk := 0, dstate := .reset, window := [(0x70, 8000)], mem := [], hostMem := [], slots := [],
    remap := [], tasks := [], teams := [], saved := [], nextTask := 0, dirty := [], huddles := [], l1 := [], l2 := [],
    replicas := [], ltb := [], revoked := [], revoking := [], freed := [], badLines := [], inningPool := 65536 * 655360, seedWrite := none,
    heldPages := [], moves := [], hostMoves := [], residNotices := [], cells := [], partials := [], bowls := [], filters := [], discards := [], seqs := [],
    merged := [], directory := [], wsStores := [], net := [], copies := [], nextCopy := 0, mgmt := [], colls := [],
    heldSources := [], stallNotices := [], benches := [], replies := [], heldEvents := [], errorLog := [],
    retired := [], lostUnits := [], downUnits := [], joined := false, commandWritten := false, incarn := [], firmware := Firmware.empty, command := none, ide := false, doe := [],
    ports := [], podWritten := false, portsBegun := false, linkUp := false, linkFull := false, linkWide := false,
    throttled := false, hostHeld := [], agenda := [], cur := none, curRest := [], evictPlan := [], blocked := [],
    busy := [], curDone := false, freeCtr := 0 }

/-! ## Stops -/

/-- The reasons for which the model's machine stops. -/
inductive Fault where
  /-- A byte of this device's memory at or above 2^40 (the 1 TiB of HBM, R2) was addressed. The spec gives no such memory.
  Raised by an instruction's access or fetch (`State.finish`, `State.issue`), by COPY_COMPLETION and by LEASEQ. Safe: no
  next state is claimed (log entry 41). -/
  | physicalHole (addr : Nat)
  deriving DecidableEq, Repr

/-- The reasons for which the model gives no meaning. -/
inductive Refusal where
  /-- The instruction with this mnemonic has no meaning in the model yet. Raised by `exec` only. Safe. -/
  | notModelled (mnemonic : String)
  deriving DecidableEq, Repr

end Sys2Proof.Machine
end

