-- ==== Sys2Proof/Machine/Sparse.lean ====
section
/-!
DEFINITION. Operations on canonical finite maps (`Sparse`): reading and writing one element, and bytes of memory as
little-endian numbers (spec/00_scope.md R4).
-/
namespace Sys2Proof.Machine

/-- The element at `n`; an unlisted one is `d`. -/
def Sparse.get {α : Type} (d : α) : Sparse α → Nat → α
  | [], _ => d
  | (k, v) :: t, n => if n = k then v else Sparse.get d t n

/-- The map without its entry at `n`. -/
def Sparse.erase {α : Type} : Sparse α → Nat → Sparse α
  | [], _ => []
  | (k, w) :: t, n => if n = k then Sparse.erase t n else (k, w) :: Sparse.erase t n

/-- The map with an entry at the unlisted place `n`, in order. -/
def Sparse.add {α : Type} : Sparse α → Nat → α → Sparse α
  | [], n, v => [(n, v)]
  | (k, w) :: t, n, v => if n < k then (n, v) :: (k, w) :: t else (k, w) :: Sparse.add t n v

/-- Write `v` at `n`, keeping the canonical form: writing the default removes the entry. -/
def Sparse.set {α : Type} [DecidableEq α] (d : α) (m : Sparse α) (n : Nat) (v : α) : Sparse α :=
  if v = d then Sparse.erase m n else Sparse.add (Sparse.erase m n) n v

/-- Every key is above `lo` or `lo` is none, keys rise strictly, and no entry is the default. -/
def Sparse.wfFrom {α : Type} [DecidableEq α] (d : α) : Option Nat → Sparse α → Bool
  | _, [] => true
  | lo, (k, v) :: t =>
    (match lo with
     | none => true
     | some l => decide (l < k)) && !decide (v = d) && Sparse.wfFrom d (some k) t

/-- The canonical form. -/
def Sparse.wf {α : Type} [DecidableEq α] (d : α) (m : Sparse α) : Bool := Sparse.wfFrom d none m

/-- The canonical form of byte memory (an unlisted byte reads 0). -/
def Memory.wf (m : List Host.Cell) : Bool := Sparse.wf (0 : Byte) m

/-- One byte of memory. -/
def Memory.read (m : List Host.Cell) (a : Nat) : Byte := Sparse.get (0 : Byte) m a

/-- Write one byte of memory. -/
def Memory.write (m : List Host.Cell) (a : Nat) (b : Byte) : List Host.Cell := Sparse.set (0 : Byte) m a b

/-- `n` bytes from `a` upward: each read among the cells of that range (`Memory.bytes_eq`). -/
def Memory.bytes (m : List Host.Cell) (a n : Nat) : List Byte :=
  let near := m.filter fun x => a.ble x.1 && x.1.blt (a + n)
  (List.range n).map fun j => Memory.read near (a + j)

/-- Write a list of bytes from `a` upward. -/
def Memory.put (m : List Host.Cell) (a : Nat) : List Byte → List Host.Cell
  | [] => m
  | b :: bs => Memory.put (Memory.write m a b) (a + 1) bs

/-- Bytes, lowest address first, as a number (R4). -/
def leNat : List Byte → Nat
  | [] => 0
  | b :: bs => b.toNat + 256 * leNat bs

/-- The low `n` bytes of a number, lowest address first. -/
def leBytes : Nat → Nat → List Byte
  | 0, _ => []
  | n + 1, v => BitVec.ofNat 8 v :: leBytes n (v / 256)

/-- A little-endian number of `n` bytes in memory. -/
def Memory.nat (m : List Host.Cell) (a n : Nat) : Nat := leNat (Memory.bytes m a n)

/-- Apply `f` to the elements that satisfy `p`. -/
def mapIf {α : Type} (p : α → Bool) (f : α → α) (l : List α) : List α := l.map fun x => if p x then f x else x

/-- The `n` bytes at `a` become 0. -/
def Memory.clear (m : List Host.Cell) (a n : Nat) : List Host.Cell := m.filter fun x => ¬(a ≤ x.1 ∧ x.1 < a + n)

/-- The `n` bytes at `src` of a memory `k` are copied to `dst` of `m`. -/
def Memory.copyFrom (k m : List Host.Cell) (src dst n : Nat) : List Host.Cell :=
  (k.filter fun x => src ≤ x.1 ∧ x.1 < src + n).foldl (fun m x => Memory.write m (x.1 - src + dst) x.2) (Memory.clear m dst n)

/-- The `n` bytes at `src` are copied to `dst`. -/
def Memory.copyRange (m : List Host.Cell) (src dst n : Nat) : List Host.Cell := Memory.copyFrom m m src dst n

/-- Take the `k`-th element out of a list. -/
def takeAt {α : Type} : List α → Nat → Option (α × List α)
  | [], _ => none
  | x :: t, 0 => some (x, t)
  | x :: t, k + 1 => (takeAt t k).map fun (y, r) => (y, x :: r)

/-- Put `x` before the first element that may follow it. -/
def insertBy {α : Type} (le : α → α → Bool) (x : α) : List α → List α
  | [] => [x]
  | y :: t => if le x y then x :: y :: t else y :: insertBy le x t

/-- The list in ascending order by `le`; elements of equal rank keep their order. -/
def sortBy {α : Type} (le : α → α → Bool) (l : List α) : List α := l.foldr (insertBy le) []

end Sys2Proof.Machine
end

