-- ==== Sys2Proof/Machine/Flags.lean ====
section
/-!
DEFINITION. The status bits that instructions set (spec/01 R28, R29; spec/02 R55): the sticky IEEE flags of fpst, the
saturation bit of satst and the bound bit of oobst.
-/
namespace Sys2Proof.Machine

open Sys2Proof

/-- The status bits that one operation sets. -/
structure Sts where
  /-- bit 0 invalid, 1 divide by zero, 2 overflow, 3 underflow, 4 inexact (R28) -/
  fp : BitVec 5
  sat : Bool
  deriving DecidableEq, Repr

/-- No status bit set. -/
def Sts.none : Sts := { fp := 0, sat := false }
def Sts.invalid : Sts := { fp := 1, sat := false }
def Sts.divzero : Sts := { fp := 2, sat := false }
def Sts.overflow : Sts := { fp := 4, sat := false }
def Sts.inexact : Sts := { fp := 16, sat := false }
/-- The bits of a conversion of NaN or infinity to an integer (R56, R58): satst and fpst.invalid. -/
def Sts.satInvalid : Sts := { fp := 1, sat := true }
def Sts.saturated : Sts := { fp := 0, sat := true }

/-- The bits of either operation. -/
def Sts.or (a b : Sts) : Sts := { fp := a.fp ||| b.fp, sat := a.sat || b.sat }

/-- The bits `b` when `c` holds. -/
def Sts.when (c : Bool) (b : Sts) : Sts := if c then b else Sts.none

/-- Set status bits in a thread; they are sticky (R29). -/
def Thread.setSts (t : Thread) (b : Sts) : Thread := { t with fpst := t.fpst ||| b.fp, satst := t.satst || b.sat }

/-- The fpst, satst and oobst words that MFS reads (R28). -/
def Thread.fpstWord (t : Thread) : Word := t.fpst.setWidth 32
def Thread.satstWord (t : Thread) : Word := if t.satst then 1 else 0
def Thread.oobstWord (t : Thread) : Word := if t.oobst then 1 else 0

end Sys2Proof.Machine
end

