-- ==== Sys2Proof/Machine/Num.lean ====
section
/-!
DEFINITION. Number formats, exact values and the one rounding function (spec/02_number_formats.md R34 to R58).

A decoded value is a NaN, an infinity, or an exact dyadic with a sign of zero (R43). Exact results are rationals, and
`roundTo` is the only operation that rounds (R7, R55).
-/
namespace Sys2Proof.Machine

open Sys2Proof

/-! ## Formats (R34, R37, R38) -/

/-- The width of a code in bits (R34, R38, R75). -/
def dtBits : DType → Nat
  | .f64 => 64 | .f32 => 32 | .b16 => 16 | .h16 => 16
  | .e5m2 => 8 | .e4m3 => 8 | .e3m2 => 6 | .e2m3 => 6 | .e2m1 => 4 | .e2m1x => 4
  | .i64 => 64 | .i32 => 32 | .i16 => 16 | .i8 => 8 | .n32 => 32 | .n16 => 16 | .n8 => 8 | .i4 => 4 | .n4 => 4

/-- How a type reads its codes. -/
inductive NumKind where
  | float | signed | unsigned
  deriving DecidableEq, Repr

def dtKind : DType → NumKind
  | .f64 | .f32 | .b16 | .h16 | .e5m2 | .e4m3 | .e3m2 | .e2m3 | .e2m1 | .e2m1x => .float
  | .i64 | .i32 | .i16 | .i8 | .i4 => .signed
  | .n32 | .n16 | .n8 | .n4 => .unsigned

/-- Mantissa (fraction) width M of a floating format; 0 for integers. -/
def dtMant : DType → Nat
  | .f64 => 52 | .f32 => 23 | .b16 => 7 | .h16 => 10
  | .e5m2 => 2 | .e4m3 => 3 | .e3m2 => 2 | .e2m3 => 3 | .e2m1 => 1 | .e2m1x => 1
  | .i64 | .i32 | .i16 | .i8 | .n32 | .n16 | .n8 | .i4 | .n4 => 0

/-- Exponent bias of a floating format; 0 for integers. -/
def dtBias : DType → Nat
  | .f64 => 1023 | .f32 => 127 | .b16 => 127 | .h16 => 15
  | .e5m2 => 15 | .e4m3 => 7 | .e3m2 => 3 | .e2m3 => 1 | .e2m1 => 1 | .e2m1x => 1
  | .i64 | .i32 | .i16 | .i8 | .n32 | .n16 | .n8 | .i4 | .n4 => 0

/-- Has the format infinities and an IEEE NaN space (R34, R38)? -/
def dtInf : DType → Bool
  | .f64 | .f32 | .b16 | .h16 | .e5m2 => true
  | .e4m3 | .e3m2 | .e2m3 | .e2m1 | .e2m1x
  | .i64 | .i32 | .i16 | .i8 | .n32 | .n16 | .n8 | .i4 | .n4 => false

/-- The magnitude code of the infinity of an IEEE-like format: exponent field all ones, fraction 0. -/
def dtInfCode (t : DType) : Nat := 2 ^ (dtBits t - 1) - 2 ^ dtMant t

/-- The magnitude code of MAXF (R34, R37, R38). -/
def dtMaxCode (t : DType) : Nat :=
  if dtInf t then dtInfCode t - 1 else if t = .e4m3 then 0x7E else 2 ^ (dtBits t - 1) - 1

/-- The canonical NaN code of a format that has one (R37, R38). -/
def dtNan (t : DType) : Nat := if t = .e4m3 then 0x7F else dtInfCode t + 2 ^ (dtMant t - 1)

/-- Has the floating format a NaN (R34)? -/
def dtHasNan (t : DType) : Bool := dtInf t || t == .e4m3

/-- MAXI and MINI of an integer type (R55). -/
def dtMaxI (t : DType) : Int :=
  match dtKind t with
  | .signed => 2 ^ (dtBits t - 1) - 1
  | .unsigned => 2 ^ dtBits t - 1
  | .float => 0
def dtMinI (t : DType) : Int :=
  match dtKind t with
  | .signed => -(2 ^ (dtBits t - 1))
  | .unsigned => 0
  | .float => 0

/-- The sign bit of a floating format as a weight. -/
def dtSign (t : DType) (neg : Bool) : Nat := if neg then 2 ^ (dtBits t - 1) else 0

/-! ## Decoded values (R43) -/

/-- A decoded operand: `fin neg m e` is (−1)^neg × m × 2^e, and `neg` is the sign of a zero when m = 0. -/
inductive Val where
  | nan (signalling : Bool)
  | inf (neg : Bool)
  | fin (neg : Bool) (m : Nat) (e : Int)
  deriving DecidableEq, Repr

/-- Is the value a signalling NaN? -/
def Val.isSnan : Val → Bool
  | .nan s => s
  | .inf _ | .fin _ _ _ => false
def Val.isNan : Val → Bool
  | .nan _ => true
  | .inf _ | .fin _ _ _ => false
def Val.isInf : Val → Bool
  | .inf _ => true
  | .nan _ | .fin _ _ _ => false
def Val.isZero : Val → Bool
  | .fin _ m _ => m == 0
  | .nan _ | .inf _ => false
/-- The sign; a NaN counts as positive. -/
def Val.neg : Val → Bool
  | .nan _ => false
  | .inf n => n
  | .fin n _ _ => n
/-- The value with its sign inverted. -/
def Val.negate : Val → Val
  | .nan s => .nan s
  | .inf n => .inf (!n)
  | .fin n m e => .fin (!n) m e

/-- The signed magnitude of a finite value over 2^e; 0 otherwise. -/
def signedNat (neg : Bool) (m : Nat) : Int := if neg then -(m : Int) else (m : Int)

/-- Decode a floating code (R34 to R38), `c` below 2^bits. -/
def decodeFloat (t : DType) (c : Nat) : Val :=
  let M := dtMant t
  let mag := c % 2 ^ (dtBits t - 1)
  let neg := c / 2 ^ (dtBits t - 1) % 2 == 1
  let e := mag / 2 ^ M
  let f := mag % 2 ^ M
  if dtInf t && decide (dtInfCode t ≤ mag) then
    if f = 0 then .inf neg else .nan (f / 2 ^ (M - 1) % 2 == 0)
  else if t = .e4m3 ∧ mag = 0x7F then .nan false
  else if e = 0 then .fin neg f (1 - (dtBias t : Int) - M)
  else .fin neg (2 ^ M + f) ((e : Int) - dtBias t - M)

/-- Decode an integer code. -/
def decodeInt (t : DType) (c : Nat) : Val :=
  let n := c % 2 ^ dtBits t
  match dtKind t with
  | .signed =>
    if n < 2 ^ (dtBits t - 1) then .fin false n 0 else .fin true (2 ^ dtBits t - n) 0
  | .unsigned | .float => .fin false n 0

/-- Decode an unscaled code of any type (R43 with S = 1). -/
def decodeCode (t : DType) (c : Nat) : Val :=
  match dtKind t with
  | .float => decodeFloat t (c % 2 ^ dtBits t)
  | .signed | .unsigned => decodeInt t c

/-- A block scale S (R39): NaN, or m × 2^e. -/
inductive Scale where
  | nan
  | val (m : Nat) (e : Int)
  deriving DecidableEq, Repr

/-- S = 1, for an unscaled operand. -/
def Scale.one : Scale := .val 1 0

/-- Decode a scale byte (R39). -/
def decodeScale (f : ScaleFmt) (b : Nat) : Scale :=
  match f with
  | .p8 => if b % 256 = 0xFF then .nan else .val 1 ((b % 256 : Nat) - 127)
  | .q8 =>
    match decodeFloat .e4m3 (b % 128) with
    | .fin _ m e => .val m e
    | .nan _ | .inf _ => .nan

/-- Decode an element with its scale and, for E2M1X, its extra byte (R40, R43). -/
def decodeElem (t : DType) (c : Nat) (s : Scale) (x : Nat) : Val :=
  match s with
  | .nan => .nan false
  | .val sm se =>
    let k := if t = .e2m1x ∧ c % 16 = 8 then decodeFloat .e4m3 (x % 256) else decodeCode t c
    match k with
    | .fin n m e => .fin n (m * sm) (e + se)
    | .nan q => .nan q
    | .inf n => .inf n

/-! ## Rounding (R54, R55) -/

/-- rint of the rational (−1)^neg × n / d, d > 0, as a magnitude; `r` is the remainder of n by d and `q` the quotient. -/
def rintMag (mode : Mode) (neg : Bool) (n d : Nat) : Nat :=
  let q := n / d
  let r := n % d
  if r = 0 then q
  else match mode with
    | .rtz => q
    | .rup => if neg then q else q + 1
    | .rdn => if neg then q + 1 else q
    | .rne => if 2 * r < d then q else if d < 2 * r then q + 1 else if q % 2 = 0 then q else q + 1
    | .rna => if 2 * r < d then q else q + 1

/-- floor(log2(n / d)) for n, d > 0. -/
def floorLog2 (n d : Nat) : Int :=
  let l : Int := (Nat.log2 n : Int) - Nat.log2 d
  if 0 ≤ l then (if n < d * 2 ^ l.toNat then l - 1 else l)
  else (if n * 2 ^ (-l).toNat < d then l - 1 else l)

/-- A rounded result: a code and the status bits that it sets. -/
structure Rounded where
  code : Nat
  sts : Sts
  deriving DecidableEq, Repr

/-- A result that sets no status bit. -/
def Rounded.exact (c : Nat) : Rounded := { code := c, sts := Sts.none }

/-- The two's-complement pattern of an integer in `w` bits. -/
def intCode (w : Nat) (i : Int) : Nat := (i % (2 : Int) ^ w).toNat

/-- Round to an integer format (R55). -/
def roundInt (t : DType) (mode : Mode) (neg : Bool) (n d : Nat) : Rounded :=
  let q := signedNat neg (rintMag mode neg n d)
  let ix := Sts.when (n % d != 0) Sts.inexact
  if dtMaxI t < q then { code := intCode (dtBits t) (dtMaxI t), sts := ix.or Sts.saturated }
  else if q < dtMinI t then { code := intCode (dtBits t) (dtMinI t), sts := ix.or Sts.saturated }
  else { code := intCode (dtBits t) q, sts := ix }

/-- Does an overflow give infinity rather than MAXF (R55)? -/
def overflowInf (mode : Mode) (neg : Bool) : Bool :=
  match mode with
  | .rne | .rna => true
  | .rup => !neg
  | .rdn => neg
  | .rtz => false

/-- Round a nonzero (−1)^neg × n / d to a floating format (R55). -/
def roundFloat (t : DType) (mode : Mode) (neg : Bool) (n d : Nat) : Rounded :=
  let emin : Int := 1 - dtBias t
  let l := floorLog2 n d
  let e := if l < emin then emin else l
  let k := e - dtMant t
  let n' := if 0 ≤ k then n else n * 2 ^ (-k).toNat
  let d' := if 0 ≤ k then d * 2 ^ k.toNat else d
  let q := rintMag mode neg n' d'
  let ix := n' % d' != 0
  let mag := (e - emin).toNat * 2 ^ dtMant t + q
  let sts := (Sts.when ix Sts.inexact).or (Sts.when (ix && decide (l < emin)) { fp := 8, sat := false })
  if dtMaxCode t < mag then
    { code := dtSign t neg + (if dtInf t && overflowInf mode neg then dtInfCode t else dtMaxCode t),
      sts := sts.or (Sts.overflow.or Sts.inexact) }
  else { code := dtSign t neg + mag, sts := sts }

/-- `round` (R55) of a nonzero (−1)^neg × n / d. -/
def roundTo (t : DType) (mode : Mode) (neg : Bool) (n d : Nat) : Rounded :=
  match dtKind t with
  | .float => roundFloat t mode neg n d
  | .signed | .unsigned => roundInt t mode neg n d

/-- The zero of a type with a sign (R58: 0 for integers). -/
def zeroCode (t : DType) (neg : Bool) : Nat :=
  match dtKind t with
  | .float => dtSign t neg
  | .signed | .unsigned => 0

/-- `round` of a dyadic, with a zero keeping the sign given. -/
def roundDy (t : DType) (mode : Mode) (neg : Bool) (m : Nat) (e : Int) : Rounded :=
  if m = 0 then Rounded.exact (zeroCode t neg)
  else if 0 ≤ e then roundTo t mode neg (m * 2 ^ e.toNat) 1 else roundTo t mode neg m (2 ^ (-e).toNat)

/-! ## The fates of NaN and infinity (R56, R58) -/

/-- nanresult of R56: "invalid := 0" sets no flag, since the flags are sticky. -/
def nanResult (t : DType) (invalid : Bool) : Rounded :=
  match dtKind t with
  | .float => { code := dtNan t, sts := Sts.when invalid Sts.invalid }
  | .signed | .unsigned => { code := 0, sts := Sts.satInvalid }

/-- infresult of R56. -/
def infResult (t : DType) (neg : Bool) : Rounded :=
  match dtKind t with
  | .float =>
    if dtInf t then Rounded.exact (dtSign t neg + dtInfCode t) else { code := dtNan t, sts := Sts.invalid }
  | .signed | .unsigned =>
    { code := intCode (dtBits t) (if neg then dtMinI t else dtMaxI t), sts := Sts.satInvalid }

/-- `convert` of R58 on a decoded value: `sd` is the destination's scale, `x` the extra byte of E2M1X. -/
def convertVal (v : Val) (t : DType) (sd : Scale) (x : Nat) (mode : Mode) : Rounded :=
  match v with
  | .nan sig =>
    let s0 := Sts.when sig Sts.invalid
    match dtKind t with
    | .float =>
      if dtHasNan t then { code := dtNan t, sts := s0 } else { code := 0, sts := Sts.invalid }
    | .signed | .unsigned => { code := 0, sts := Sts.satInvalid }
  | .inf neg =>
    match dtKind t with
    | .float =>
      if dtInf t then Rounded.exact (dtSign t neg + dtInfCode t)
      else if t = .e4m3 then { code := dtNan t, sts := Sts.invalid }
      else { code := dtSign t neg + dtMaxCode t, sts := Sts.invalid }
    | .signed | .unsigned =>
      { code := intCode (dtBits t) (if neg then dtMinI t else dtMaxI t), sts := Sts.satInvalid }
  | .fin neg m e =>
    match sd with
    | .nan => { code := 0, sts := Sts.invalid }
    | .val sm se =>
      if m = 0 then Rounded.exact (if t = .e2m1x then 0 else zeroCode t neg)
      else if sm = 0 then { code := 0, sts := Sts.divzero }
      else
        -- x / Sdst = m × 2^(e − se) / sm
        let k := e - se
        let n := if 0 ≤ k then m * 2 ^ k.toNat else m
        let d := if 0 ≤ k then sm else sm * 2 ^ (-k).toNat
        let isExtra : Bool :=
          t == .e2m1x && (match decodeFloat .e4m3 (x % 256) with
            | .fin xn xm xe =>
              -- m × 2^e = xm × 2^xe × sm × 2^se
              let j := xe + se - e
              xn == neg && xm != 0 &&
                (if 0 ≤ j then m == xm * sm * 2 ^ j.toNat else m * 2 ^ (-j).toNat == xm * sm)
            | .nan _ | .inf _ => false)
        if isExtra then Rounded.exact 8
        else
          let r := roundTo t mode neg n d
          if t = .e2m1x ∧ r.code = 8 then { r with code := 0 } else r

/-- Conversion between two integer formats never sets fpst (R58). -/
def convertInt (st dt : DType) (r : Rounded) : Rounded :=
  if dtKind st ≠ .float ∧ dtKind dt ≠ .float then { r with sts := { r.sts with fp := 0 } } else r

/-! ## IEEE arithmetic (R102, R103) -/

/-- The exact product of two operands (R44, R103): the value, and whether it is ∞ × 0. -/
def mulVal (a b : Val) : Val :=
  match a, b with
  | .nan s, .nan t => .nan (s || t)
  | .nan s, _ => .nan s
  | _, .nan t => .nan t
  | .inf s, .inf t => .inf (s != t)
  | .inf s, .fin t m _ => if m = 0 then .nan false else .inf (s != t)
  | .fin s m _, .inf t => if m = 0 then .nan false else .inf (s != t)
  | .fin s m e, .fin t n f => .fin (s != t) (m * n) (e + f)

/-- Is the product ∞ × 0? -/
def mulInvalid (a b : Val) : Bool := (a.isInf && b.isZero) || (a.isZero && b.isInf)

/-- The exact sum of two finite values, as a signed integer over 2^e. -/
def addFin (s : Bool) (m : Nat) (e : Int) (t : Bool) (n : Nat) (f : Int) : Int × Int :=
  if e ≤ f then (signedNat s m + signedNat t n * (2 : Int) ^ (f - e).toNat, e)
  else (signedNat s m * (2 : Int) ^ (e - f).toNat + signedNat t n, f)

/-- ieee(p + c) of R103 for addends that are no NaN sources: the result for two values. -/
def addRound (ty : DType) (mode : Mode) (p c : Val) : Rounded :=
  match p, c with
  | .nan _, _ | _, .nan _ => { code := dtNan ty, sts := Sts.none }
  | .inf s, .inf t => if s = t then Rounded.exact (dtSign ty s + dtInfCode ty) else { code := dtNan ty, sts := Sts.invalid }
  | .inf s, .fin _ _ _ => Rounded.exact (dtSign ty s + dtInfCode ty)
  | .fin _ _ _, .inf t => Rounded.exact (dtSign ty t + dtInfCode ty)
  | .fin s m e, .fin t n f =>
    let (x, g) := addFin s m e t n f
    if x = 0 then
      Rounded.exact (dtSign ty (if m = 0 ∧ n = 0 ∧ s = t then s else mode == .rdn))
    else roundDy ty mode (decide (x < 0)) x.natAbs g

/-- FADD (R103). -/
def fpAdd (ty : DType) (mode : Mode) (a b : Val) : Rounded :=
  let r := addRound ty mode a b
  { r with sts := r.sts.or (Sts.when (a.isSnan || b.isSnan) Sts.invalid) }

/-- FMUL (R103). -/
def fpMul (ty : DType) (mode : Mode) (a b : Val) : Rounded :=
  let iv := Sts.when (a.isSnan || b.isSnan || mulInvalid a b) Sts.invalid
  match mulVal a b with
  | .nan _ => { code := dtNan ty, sts := iv }
  | .inf s => Rounded.exact (dtSign ty s + dtInfCode ty)
  | .fin s m e => roundDy ty mode s m e

/-- FFMA (R103): a NaN in c with the product ∞ × 0 sets invalid too. -/
def fpFma (ty : DType) (mode : Mode) (a b c : Val) : Rounded :=
  let iv := Sts.when (a.isSnan || b.isSnan || c.isSnan || mulInvalid a b) Sts.invalid
  let r := addRound ty mode (mulVal a b) c
  { r with sts := r.sts.or iv }

/-- Compare two values that are no NaN: is a < b (R104 orders −0 below +0, R105 does not)? As a signed difference. -/
def cmpVal (a b : Val) : Int :=
  match a, b with
  | .inf s, .inf t => (if s then -1 else 1) - (if t then -1 else 1)
  | .inf s, _ => if s then -1 else 1
  | _, .inf t => if t then 1 else -1
  | .fin s m e, .fin t n f => (addFin s m e (!t) n f).1
  | .nan _, _ | _, .nan _ => 0

end Sys2Proof.Machine
end

