-- ==== Sys2Proof/Machine/Accum.lean ====
section
/-!
DEFINITION. Long accumulators (spec/02 R45 to R53): the value that a slot represents, the addition of a term, the
combination of two accumulators, the spill layout and memory cells, and the one rounding of R56 and R57.
-/
namespace Sys2Proof.Machine

open Sys2Proof

/-- The carries of a slot with their weights: cy_k counts toward seg_(k+1); cy9 has no effect (R49). -/
def cyWeight (cy : BitVec 80) : Nat :=
  (List.range 9).foldl (fun n k => n + bitsNat cy (8 * k) 8 * 2 ^ (64 * (k + 1))) 0

/-- A as a 640-bit pattern (R49). -/
def Acc.pattern (a : Acc) : Nat := (a.seg.toNat + cyWeight a.cy) % 2 ^ 640

/-- A as an integer (R46). -/
def Acc.value (a : Acc) : Int := (BitVec.ofNat 640 a.pattern).toInt

/-- The normalised form (R49). -/
def Acc.normal (a : Acc) : Acc := { a with seg := BitVec.ofNat 640 a.pattern, cy := 0 }

/-- The slot with another value, normalised; wrap640 (R46). -/
def Acc.withValue (a : Acc) (v : Int) : Acc := { a with seg := BitVec.ofInt 640 v, cy := 0 }

/-- A carry-save form of the same value with the carry bytes `cy` (R50). -/
def Acc.carried (a : Acc) (cy : BitVec 80) : Acc :=
  { a with seg := BitVec.ofNat 640 (a.pattern + 2 ^ 640 - cyWeight cy % 2 ^ 640), cy := cy }

/-- Adding a term (R46). -/
def Acc.addTerm (a : Acc) (t : Val) : Acc :=
  match t with
  | .nan _ => { a with nan := true }
  | .inf false => { a with pinf := true }
  | .inf true => { a with ninf := true }
  | .fin neg m e =>
    let k := e + 298
    let n := if 0 ≤ k then m * 2 ^ k.toNat else m / 2 ^ (-k).toNat
    let b := a.withValue (a.value + signedNat neg n)
    if neg && m == 0 then b else { b with nzt := true }

/-- The combination of two accumulators (R46). -/
def Acc.combine (a b : Acc) : Acc :=
  { a.withValue (a.value + b.value) with
    nan := a.nan || b.nan, pinf := a.pinf || b.pinf, ninf := a.ninf || b.ninf, nzt := a.nzt || b.nzt }

/-! ## The spill layout (R51) and memory cells (R53) -/

/-- The 96-byte image as a number. -/
def Acc.image (a : Acc) : Nat :=
  a.seg.toNat + 2 ^ 640 * a.cy.toNat + (if a.nan then 2 ^ 720 else 0) + (if a.pinf then 2 ^ 721 else 0) +
    (if a.ninf then 2 ^ 722 else 0) + (if a.nzt then 2 ^ 723 else 0)

/-- The slot that an image holds; reserved bits are dropped. -/
def Acc.ofImage (n : Nat) : Acc :=
  { seg := BitVec.ofNat 640 n, cy := BitVec.ofNat 80 (n / 2 ^ 640), nan := n.testBit 720, pinf := n.testBit 721,
    ninf := n.testBit 722, nzt := n.testBit 723 }

/-- Are the reserved bits of a 96-byte image 0 (R51)? -/
def imageClean (n : Nat) : Bool := n / 2 ^ 724 % 2 ^ 44 == 0

/-- The raw image of a slot as bytes (R52). -/
def Acc.bytes (a : Acc) : List Byte := leBytes 96 a.image

/-- The slot in the first 96 bytes of a list. -/
def Acc.ofBytes (bs : List Byte) : Acc := Acc.ofImage (leNat (bs.take 96))

/-- A cell's accumulator, normalised, its reserved bits read as 0 (R53). -/
def cellOf (bs : List Byte) : Acc := (Acc.ofBytes bs).normal

/-- The 128 bytes of a cell: normalised, every reserved bit 0 (R53). -/
def cellBytes (a : Acc) : List Byte := a.normal.bytes ++ List.replicate 32 0

/-! ## Rounding (R56, R57) -/

/-- The sign that LRND gives to a zero value of the accumulator (R56). -/
def Acc.zeroSign (a : Acc) (mode : Mode) : Bool := !a.nzt || mode == .rdn

/-- LRND (R56). -/
def accRound (a : Acc) (t : DType) (mode : Mode) : Rounded :=
  if a.nan then nanResult t false
  else if a.pinf && a.ninf then nanResult t true
  else if a.pinf then infResult t false
  else if a.ninf then infResult t true
  else
    let v := a.value
    if v = 0 then Rounded.exact (zeroCode t (a.zeroSign mode))
    else roundTo t mode (decide (v < 0)) v.natAbs (2 ^ 298)

/-- The sign of an operand of LQUO (R57). -/
def Acc.quoSign (a : Acc) (mode : Mode) : Bool :=
  if a.ninf then true else if a.pinf then false else if a.value = 0 then a.zeroSign mode else decide (a.value < 0)

/-- LQUO (R57). -/
def accQuo (n d : Acc) (t : DType) (mode : Mode) : Rounded :=
  let i := n.pinf || n.ninf
  let j := d.pinf || d.ninf
  let sg := n.quoSign mode != d.quoSign mode
  if n.nan || d.nan then nanResult t false
  else if (n.pinf && n.ninf) || (d.pinf && d.ninf) then nanResult t true
  else if i && j then nanResult t true
  else if i then infResult t sg
  else if j then Rounded.exact (zeroCode t sg)
  else if d.value = 0 then
    if n.value = 0 then nanResult t true
    else
      let r := infResult t sg
      { r with sts := r.sts.or Sts.divzero }
  else if n.value = 0 then Rounded.exact (zeroCode t sg)
  else roundTo t mode sg n.value.natAbs d.value.natAbs

end Sys2Proof.Machine
end

