-- ==== Sys2Proof/WellFormed.lean ====
section
/-!
DEFINITION. Which instructions step 4 of R66 accepts (spec/03_encoding_and_assembly.md, and the field constraints of
each entry), and the register operands of every instruction. The syntax already rules out most illegal field values;
what it can still write and the device refuses is refused here.
-/
namespace Sys2Proof

/-! ## The registers an instruction names (R12, R65) -/

/-- The register classes that hold an allotment (R12). -/
inductive RegClass where
  | vector | scalar | longAcc | tile
  deriving DecidableEq, Repr

/-- The field of R63 (or of an extension) that names a register. -/
inductive RegField where
  | fD | fA | fB | fC | fE
  deriving DecidableEq, Repr

/-- One register operand: `cnt` consecutive registers from `num`, whose first must be a multiple of `align`;
`wr` marks a destination and `rd` a source. -/
structure RegUse where
  fld : RegField
  cls : RegClass
  num : Nat
  cnt : Nat
  align : Nat
  rd : Bool
  wr : Bool
  deriving DecidableEq, Repr

/-- A vector or scalar source of one register or a pair. -/
def useRd (fld : RegField) (cls : RegClass) (r : RegNum) (n : Nat) : RegUse :=
  { fld := fld, cls := cls, num := r.val, cnt := n, align := n, rd := true, wr := false }

/-- A destination of `n` registers. -/
def useWr (fld : RegField) (cls : RegClass) (r : RegNum) (n : Nat) : RegUse :=
  { fld := fld, cls := cls, num := r.val, cnt := n, align := n, rd := false, wr := true }

def useLa (fld : RegField) (r : LaNum) (rd wr : Bool) : RegUse :=
  { fld := fld, cls := .longAcc, num := r.val, cnt := 1, align := 1, rd := rd, wr := wr }

def useTa (fld : RegField) (r : TaNum) (rd wr : Bool) : RegUse :=
  { fld := fld, cls := .tile, num := r.val, cnt := 1, align := 1, rd := rd, wr := wr }

/-- The file of an operand under the uniform form (R69). -/
def fileOf (uniform : Bool) : RegClass := if uniform then .scalar else .vector

def IntTy.regs : IntTy → Nat
  | .i64 => 2 | .i32 => 1 | .n32 => 1
def FloatTy.regs : FloatTy → Nat
  | .f64 => 2 | .f32 => 1 | .b16 => 1 | .h16 => 1
def DType.regs : DType → Nat
  | .f64 => 2 | .i64 => 2
  | .f32 | .b16 | .h16 | .e5m2 | .e4m3 | .e3m2 | .e2m3 | .e2m1 | .e2m1x
  | .i32 | .i16 | .i8 | .n32 | .n16 | .n8 | .i4 | .n4 => 1
def RandTy.regs : RandTy → Nat
  | .i64 => 2 | .n32 => 1 | .f32 => 1
def RndTy.regs : RndTy → Nat
  | .f64 => 2 | .f32 | .b16 | .h16 | .e5m2 | .e4m3 | .i32 | .n32 => 1
def TermTy.regs : TermTy → Nat
  | .i64 => 2 | .f32 | .b16 | .h16 | .i32 | .n32 => 1
def Width.regs : Width → Nat
  | .n8 | .i8 | .n16 | .i16 | .w32 => 1 | .w64 => 2 | .w128 => 4

/-- Operand B of the mould as a register operand of `n` registers, if it is a register. -/
def Src.uses (b : Src) (n : Nat) : List RegUse :=
  match b with
  | .vec r => [useRd .fB .vector r n]
  | .sc r => [useRd .fB .scalar r n]
  | .uni r => [useRd .fB .scalar r n]
  | .imm8 _ | .imm32 _ | .uimm32 _ | .imm64 _ | .uimm64 _ => []

def VSReg.cls : VSReg → RegClass
  | .vec _ => .vector
  | .sc _ => .scalar
def VSReg.use (r : VSReg) (fld : RegField) (n : Nat) : RegUse := useRd fld r.cls r.num n
def VSReg.def (r : VSReg) (fld : RegField) (n : Nat) : RegUse := useWr fld r.cls r.num n

/-- Two-source integer entries; `ctl` is the number of registers of operand B when B is a control operand (R91). -/
def IntBin.uses (o : IntBin) (ctl : Bool) : List RegUse :=
  let c := fileOf o.b.isUniform
  [useWr .fD c o.d o.ty.regs, useRd .fA c o.a o.ty.regs] ++ o.b.uses (if ctl then 1 else o.ty.regs)

/-- IMAD (C data) and BFI (C control). -/
def IntTri.uses (o : IntTri) (ctlC : Bool) : List RegUse :=
  let c := fileOf o.b.isUniform
  [useWr .fD c o.d o.ty.regs, useRd .fA c o.a o.ty.regs] ++ o.b.uses o.ty.regs ++
    [useRd .fC c o.c (if ctlC then 1 else o.ty.regs)]

/-- One-source integer entries; POPC, CLZ and CTZ write a single register (`count`). -/
def IntUn.uses (o : IntUn) (count : Bool) : List RegUse :=
  let c := fileOf o.uniform
  [useWr .fD c o.d (if count then 1 else o.ty.regs), useRd .fA c o.a o.ty.regs]

def LeaOp.uses (o : LeaOp) : List RegUse :=
  let c := fileOf o.b.isUniform
  [useWr .fD c o.d o.ty.regs, useRd .fA c o.a o.ty.regs] ++ o.b.uses o.ty.regs
def MovOp.uses (o : MovOp) : List RegUse :=
  [useWr .fD (fileOf o.b.isUniform) o.d o.ty.regs] ++ o.b.uses o.ty.regs
def SelOp.uses (o : SelOp) : List RegUse :=
  let c := fileOf o.b.isUniform
  [useWr .fD c o.d o.ty.regs, useRd .fA c o.a o.ty.regs] ++ o.b.uses o.ty.regs
def ICmpOp.uses (o : ICmpOp) : List RegUse :=
  [useRd .fA (fileOf o.b.isUniform) o.a o.ty.regs] ++ o.b.uses o.ty.regs
/-- FADD, FSUB, FMUL; for FLDEXP operand B is a control operand. -/
def FloatBin.uses (o : FloatBin) (ctl : Bool) : List RegUse :=
  let c := fileOf o.b.isUniform
  [useWr .fD c o.d o.ty.regs, useRd .fA c o.a o.ty.regs] ++ o.b.uses (if ctl then 1 else o.ty.regs)
def FloatTri.uses (o : FloatTri) : List RegUse :=
  let c := fileOf o.b.isUniform
  [useWr .fD c o.d o.ty.regs, useRd .fA c o.a o.ty.regs] ++ o.b.uses o.ty.regs ++ [useRd .fC c o.c o.ty.regs]
def FloatSel.uses (o : FloatSel) : List RegUse :=
  let c := fileOf o.b.isUniform
  [useWr .fD c o.d o.ty.regs, useRd .fA c o.a o.ty.regs] ++ o.b.uses o.ty.regs
/-- One-source floating entries; FCLASS writes a single register. -/
def FloatUn.uses (o : FloatUn) (cls : Bool) : List RegUse :=
  let c := fileOf o.uniform
  [useWr .fD c o.d (if cls then 1 else o.ty.regs), useRd .fA c o.a o.ty.regs]
def FrintOp.uses (o : FrintOp) : List RegUse :=
  let c := fileOf o.uniform
  [useWr .fD c o.d o.ty.regs, useRd .fA c o.a o.ty.regs]
def FCmpOp.uses (o : FCmpOp) : List RegUse :=
  [useRd .fA (fileOf o.b.isUniform) o.a o.ty.regs] ++ o.b.uses o.ty.regs
def CvtOp.uses (o : CvtOp) : List RegUse :=
  let c := fileOf o.uniform
  [useWr .fD c o.d o.dt.regs, useRd .fA c o.a o.st.regs]
def CvtqOp.uses (o : CvtqOp) : List RegUse :=
  let c := fileOf o.b.isUniform
  [useWr .fD c o.d 1, useRd .fA c o.a 1] ++ o.b.uses 1
def CvtxOp.uses (o : CvtxOp) : List RegUse :=
  let c := fileOf o.uniform
  [useWr .fD c o.d 1, useRd .fA c o.a 1]
def RandOp.uses (o : RandOp) : List RegUse := [useWr .fD .vector o.d o.ty.regs, useRd .fA .vector o.a 1]

def pairRegs (p : Bool) : Nat := if p then 2 else 1

def PermOp.uses (o : PermOp) : List RegUse :=
  [useWr .fD .vector o.d (pairRegs o.pair), useRd .fA .vector o.a (pairRegs o.pair), useRd .fB .vector o.i 1]
def BcastOp.uses (o : BcastOp) : List RegUse :=
  [useWr .fD .vector o.d (pairRegs o.pair), useRd .fA .vector o.a (pairRegs o.pair)] ++
    (match o.i with
     | .imm _ => []
     | .sc r => [useRd .fB .scalar r 1])
def LaneShift.uses (o : LaneShift) : List RegUse :=
  [useWr .fD .vector o.d (pairRegs o.pair), useRd .fA .vector o.a (pairRegs o.pair)]
/-- `wide`: the warp width is 64, so .ballot writes a pair (R121). -/
def VoteOp.uses (o : VoteOp) (wide : Bool) : List RegUse :=
  match o with
  | .all _ _ | .any _ _ => []
  | .ballot d _ => [useWr .fD .vector d (pairRegs wide)]
  | .count d _ => [useWr .fD .vector d 1]
/-- `wide`: the warp width is 64, so the mask of MATCH is a pair (R122). -/
def LaneOp.matchUses (o : LaneOp) (wide : Bool) : List RegUse :=
  [useWr .fD .vector o.d (pairRegs wide), useRd .fA .vector o.a (pairRegs o.pair)]
def LaneOp.uses (o : LaneOp) : List RegUse :=
  [useWr .fD .vector o.d (pairRegs o.pair), useRd .fA .vector o.a (pairRegs o.pair)]

def RecAddr.uses (o : RecAddr) : List RegUse := [o.idx.use .fA 1]
def MemOp.ldUses (o : MemOp) : List RegUse := useWr .fD .vector o.d o.width.regs :: o.addr.uses
def MemOp.stUses (o : MemOp) : List RegUse := useRd .fD .vector o.d o.width.regs :: o.addr.uses
def PassOp.uses (o : PassOp) : List RegUse :=
  [useRd .fD .vector o.d o.width.regs, o.idx.use .fA 1,
   useRd .fE .scalar o.e (match o.kind with
     | .grp _ => 2
     | .one | .club | .league => 1)]
def AtomOp.uses (o : AtomOp) : List RegUse :=
  { useWr .fD .vector o.d (pairRegs o.wide) with rd := true } :: o.addr.uses
def CasOp.uses (o : CasOp) : List RegUse :=
  { useWr .fD .vector o.d (if o.wide then 4 else 2) with rd := true } :: o.addr.uses
def AaccOp.uses (o : AaccOp) : List RegUse :=
  (match o.src with
   | .la r => useLa .fD r true false
   | .f32 r | .b16 r | .h16 r => useRd .fD .vector r 1) :: o.addr.uses
def LdaccOp.uses (o : LdaccOp) : List RegUse := useLa .fD o.d false true :: o.addr.uses
def LineSel.uses : LineSel → List RegUse
  | .line i _ => [i.use .fA 1]
  | .all => []
def ScratchOp.offUses (o : ScratchOp) : List RegUse :=
  match o.off with
  | .reg r => [r.use .fA 1]
  | .zero _ => []
def ScratchOp.ldUses (o : ScratchOp) : List RegUse := useWr .fD .vector o.d o.width.regs :: o.offUses
def ScratchOp.stUses (o : ScratchOp) : List RegUse := useRd .fD .vector o.d o.width.regs :: o.offUses
def CopyOp.uses (o : CopyOp) : List RegUse := [o.d.use .fD 1, o.a.use .fA 1, useWr .fE .vector o.e 1]
def CopyGGOp.uses (o : CopyGGOp) : List RegUse := [o.d.use .fD 1, o.a.use .fA 1, useWr .fE .vector o.e 1]
def TagSet.uses : TagSet → List RegUse
  | .one _ => []
  | .pair s => [useRd .fA .scalar s 2]
  | .all => []
def TagQuery.uses (o : TagQuery) : List RegUse := o.d.def .fD 1 :: o.set.uses
def RecdOp.uses (o : RecdOp) : List RegUse := [useRd .fA .scalar o.a 4]
def RecqOp.uses (o : RecqOp) : List RegUse :=
  [useWr .fD .scalar o.d (match o.item with
    | .base | .extent => 2
    | .stride | .esize | .flags => 1)]

def LfmaOp.uses (o : LfmaOp) : List RegUse := [useLa .fD o.d true true, useRd .fA .vector o.a 1, o.b.use .fB 1]
def LaddOp.uses (o : LaddOp) : List RegUse := [useLa .fD o.d true true, o.a.use .fA o.ty.regs]
def LscaleOp.uses (o : LscaleOp) : List RegUse :=
  [useLa .fD o.d false true, useLa .fA o.a true false] ++
    (match o.k with
     | .imm _ => []
     | .sc r => [useRd .fB .scalar r 1])
def LrndOp.uses (o : LrndOp) : List RegUse := [useWr .fD .vector o.d o.ty.regs, useLa .fA o.a true false]
def LquoOp.uses (o : LquoOp) : List RegUse :=
  [useWr .fD .vector o.d o.ty.regs, useLa .fA o.a true false, useLa .fB o.b true false]
def LaPair.uses (o : LaPair) (rdD : Bool) : List RegUse := [useLa .fD o.d rdD true, useLa .fA o.a true false]
def LmemOp.uses (o : LmemOp) (load : Bool) : List RegUse := [useLa .fD o.la (!load) load, o.addr.a.use .fA 1]
def MmemOp.uses (o : MmemOp) (load : Bool) : List RegUse := [useTa .fD o.ta (!load) load, o.addr.a.use .fA 1]
/-- The tile of a matrix instruction stands in the extension (R73), so REP cannot advance it (R139). -/
def MmaOp.uses (o : MmaOp) : List RegUse :=
  [useRd .fA .scalar o.a 2, useRd .fB .scalar o.b 2, useTa .fE o.ta true true] ++
    (match o.m with
     | none => []
     | some r => [useRd .fE .scalar r 1])
def MselOp.uses (o : MselOp) : List RegUse :=
  [useRd .fA .scalar o.a 2, useRd .fB .scalar o.b 2, useTa .fE o.ta true true]
def TaPair.uses (o : TaPair) : List RegUse := [useTa .fD o.d true true, useTa .fA o.a true false]
/-- MRND and MQUO write 16 registers, or 16 pairs for .f64 (R204). -/
def rowDest (d : RegNum) (t : RndTy) : RegUse :=
  { fld := .fD, cls := .vector, num := d.val, cnt := 16 * t.regs, align := t.regs, rd := false, wr := true }
def MrndOp.uses (o : MrndOp) : List RegUse := [rowDest o.d o.ty, useTa .fA o.a true false]
def MquoOp.uses (o : MquoOp) : List RegUse := [rowDest o.d o.ty, useTa .fA o.a true false, useLa .fB o.b true false]

def JtblOp.uses (o : JtblOp) : List RegUse := [o.idx.use .fA 1]
def RepOp.uses (o : RepOp) : List RegUse :=
  match o.count with
  | .imm _ => []
  | .sc r => [useRd .fA .scalar r 1]
def LnchOp.uses (o : LnchOp) : List RegUse := [useWr .fD .scalar o.d 1, useRd .fA .scalar o.a 1]
def MgmtOp.uses (o : MgmtOp) : List RegUse := [useWr .fD .scalar o.d 1, useRd .fA .scalar o.a 2]
def CtxOp.rdUses (o : CtxOp) : List RegUse := [o.r.def .fD 1]
def CtxOp.wrUses (o : CtxOp) : List RegUse := [o.r.use .fA 1]
def MfsOp.uses (o : MfsOp) : List RegUse := [o.d.def .fD (pairRegs o.w)]
def MtsOp.uses (o : MtsOp) : List RegUse := [o.src.use .fA 1]

/-! ## Field values that step 4 of R66 refuses and the syntax can still write -/

/-- Operand B under an integer type (R70): IMM64 belongs to .i64 only. -/
def Src.okInt (b : Src) (t : IntTy) : Bool :=
  match b with
  | .imm64 _ | .uimm64 _ => t == .i64
  | .vec _ | .sc _ | .uni _ | .imm8 _ | .imm32 _ | .uimm32 _ => true

/-- Operand B under a floating type (R70). -/
def Src.okFloat (b : Src) (t : FloatTy) : Bool :=
  match b with
  | .vec _ | .sc _ | .uni _ => true
  | .imm8 _ => false
  | .imm32 v | .uimm32 v =>
    (match t with
     | .f32 => true
     | .f64 => false
     | .b16 | .h16 => v.toNat < 2 ^ 16)
  | .imm64 _ | .uimm64 _ => t == .f64

/-- Operand B where the entry has no immediate form. -/
def Src.okReg : Src → Bool
  | .vec _ | .sc _ | .uni _ => true
  | .imm8 _ | .imm32 _ | .uimm32 _ | .imm64 _ | .uimm64 _ => false

/-- The pairs of scaled element type and scale format of R23 that R113 permits. -/
def scaledPair (t : DType) (s : ScaleFmt) : Bool :=
  match s, t with
  | .p8, .e5m2 | .p8, .e4m3 | .p8, .e3m2 | .p8, .e2m3 | .p8, .e2m1 | .p8, .e2m1x | .p8, .i8 | .p8, .i4 => true
  | .q8, .e3m2 | .q8, .e2m1 | .q8, .e2m1x | .q8, .i4 => true
  | _, _ => false

def MemOrd.isLoad : MemOrd → Bool
  | .relaxed | .acq _ => true
  | .rel _ | .ar _ => false
def MemOrd.isStore : MemOrd → Bool
  | .relaxed | .rel _ => true
  | .acq _ | .ar _ => false

/-- The hints of LD, of ST, of ST.PASS, of PREF and of the copies (R154, R174). -/
def Hint.okLd : Hint → Bool
  | .none | .nt | .repl | .keep => true | .wc => false
def Hint.okSt : Hint → Bool
  | .none | .nt | .wc => true | .repl | .keep => false
def Hint.okPass : Hint → Bool
  | .none | .nt => true | .wc | .repl | .keep => false
def Hint.okPref : Hint → Bool
  | .none | .repl | .keep => true | .nt | .wc => false
def Hint.okCopy : Hint → Bool
  | .none | .nt | .keep => true | .wc | .repl => false

/-- LQUO and MQUO take no integer type (R188). -/
def RndTy.isFloat : RndTy → Bool
  | .f64 | .f32 | .b16 | .h16 | .e5m2 | .e4m3 => true
  | .i32 | .n32 => false

/-- A scalar register cannot take a thread-scope item (R151). -/
def CtxOp.ok (o : CtxOp) : Bool := o.r.cls == .vector || !o.item.perThread

/-- An offset of the offset layout is a multiple of 4 (R71). -/
def offOk (off : BitVec 32) : Bool := off.toNat % 4 == 0

/-- Alignment and reach of every register operand (R12; R204 for the 16 registers of MRND and MQUO). -/
def RegUse.aligned (u : RegUse) : Bool := u.num % u.align == 0 && decide (u.num + u.cnt ≤ 256)

/-- VOTE does not write p7 (R13, R125). -/
def VoteOp.ok : VoteOp → Bool
  | .all d _ | .any d _ => d != 7
  | .ballot _ _ | .count _ _ => true

/-- The register operands of an instruction, in the order D, A, B, C, extension. `wide` says that the warp width is 64
(R121, R122: the mask of .ballot and MATCH is then a pair). Events name no register. -/
def Instr.uses (i : Instr) (wide : Bool) : List RegUse :=
  match i with
  | .iadd _ o => o.uses false
  | .isub _ o => o.uses false
  | .imul _ o => o.uses false
  | .imulh _ o => o.uses false
  | .imad _ o => o.uses false
  | .idiv _ o => o.uses false
  | .irem _ o => o.uses false
  | .imin _ o => o.uses false
  | .imax _ o => o.uses false
  | .iabs _ o => o.uses false
  | .ineg _ o => o.uses false
  | .shl _ o => o.uses true
  | .shr _ o => o.uses true
  | .sar _ o => o.uses true
  | .rotl _ o => o.uses true
  | .rotr _ o => o.uses true
  | .bfx _ o => o.uses true
  | .bfi _ o => o.uses true
  | .popc _ o => o.uses true
  | .clz _ o => o.uses true
  | .ctz _ o => o.uses true
  | .brev _ o => o.uses false
  | .andb _ o => o.uses false
  | .orb _ o => o.uses false
  | .xorb _ o => o.uses false
  | .notb _ o => o.uses false
  | .andn _ o => o.uses false
  | .sel _ o => o.uses
  | .icmp _ o => o.uses
  | .mov _ o => o.uses
  | .lea _ o => o.uses
  | .pand _ _ => []
  | .por _ _ => []
  | .pxor _ _ => []
  | .pnot _ _ => []
  | .fadd _ o => o.uses false
  | .fsub _ o => o.uses false
  | .fmul _ o => o.uses false
  | .ffma _ o => o.uses
  | .fmin _ o => o.uses
  | .fmax _ o => o.uses
  | .fabs _ o => o.uses false
  | .fneg _ o => o.uses false
  | .fcmp _ o => o.uses
  | .fclass _ o => o.uses true
  | .frint _ o => o.uses
  | .fldexp _ o => o.uses true
  | .fcopysign _ o => o.uses
  | .fexp _ o => o.uses false
  | .fexp2 _ o => o.uses false
  | .flog2 _ o => o.uses false
  | .frcp _ o => o.uses false
  | .frsq _ o => o.uses false
  | .fsqrt _ o => o.uses false
  | .fdiv _ o => o.uses
  | .fsin _ o => o.uses false
  | .fcos _ o => o.uses false
  | .ftanh _ o => o.uses false
  | .cvt _ o => o.uses
  | .cvtq _ o => o.uses
  | .cvtx _ o => o.uses
  | .rand _ o => o.uses
  | .perm _ o => o.uses
  | .bcast _ o => o.uses
  | .shup _ o => o.uses
  | .shdn _ o => o.uses
  | .vote _ o => o.uses wide
  | .matchLanes _ o => o.matchUses wide
  | .nbrl _ o => o.uses
  | .nbrr _ o => o.uses
  | .ld _ o => o.ldUses
  | .st _ o => o.stUses
  | .lds _ o => o.ldUses
  | .sts _ o => o.stUses
  | .stPass _ o => o.uses
  | .atom _ o => o.uses
  | .cas _ o => o.uses
  | .aacc _ o => o.uses
  | .ldacc _ o => o.uses
  | .fence _ _ => []
  | .cpyGs _ o => o.uses
  | .cpySg _ o => o.uses
  | .cpyGg _ o => o.uses
  | .waitall _ o => o.uses
  | .waitany _ o => o.uses
  | .tagff _ o => o.uses
  | .tagclr _ o => o.uses
  | .recd _ o => o.uses
  | .recq _ o => o.uses
  | .pref _ o => o.addr.uses
  | .flush _ o => o.uses
  | .inv _ o => o.uses
  | .lzero _ o => [useLa .fD o false true]
  | .lmov _ o => o.uses false
  | .lfma _ o => o.uses
  | .ladd _ o => o.uses
  | .ladda _ o => o.uses true
  | .lneg _ o => o.uses false
  | .lscale _ o => o.uses
  | .lnorm _ o => o.uses false
  | .lrnd _ o => o.uses
  | .lquo _ o => o.uses
  | .lload _ o => o.uses true
  | .lstore _ o => o.uses false
  | .lxadd _ o => o.uses false
  | .mzero _ o => [useTa .fD o false true]
  | .mma _ o => o.uses
  | .mmas _ o => o.uses
  | .msel _ o => o.uses
  | .maddt _ o => o.uses
  | .mrnd _ o => o.uses
  | .mquo _ o => o.uses
  | .mspill _ o => o.uses false
  | .mfill _ o => o.uses true
  | .bra _ _ => []
  | .jmpi _ r => [r.use .fA 1]
  | .jtbl _ o => o.uses
  | .call _ d _ => [useWr .fD .vector d 1]
  | .calli _ d r => [useWr .fD .vector d 1, r.use .fA 1]
  | .ret _ r => [r.use .fA 1]
  | .mark _ => []
  | .join => []
  | .yield _ => []
  | .exit _ => []
  | .nop _ => []
  | .rep _ o => o.uses
  | .trap _ _ => []
  | .bkpt _ _ => []
  | .tret => []
  | .bar _ => []
  | .bara _ => []
  | .barw _ => []
  | .innend _ => []
  | .vshrink _ _ => []
  | .vgrow _ _ => []
  | .lnch _ o => o.uses
  | .mgmt _ o => o.uses
  | .ctxrd _ o => o.rdUses
  | .ctxwr _ o => o.wrUses
  | .mfs _ o => o.uses
  | .mts _ o => o.uses
  | .issueSlotService _ _ _ => []
  | .aging _ _ => []
  | .watchdog _ _ => []
  | .loadCompletion _ => []
  | .copyCompletion _ => []
  | .mgmtReply _ => []
  | .version _ => []
  | .setseed _ => []
  | .chainq _ => []
  | .leaseq _ => []
  | .notify _ => []
  | .unservedMgmtCode _ => []
  | .commit _ => []
  | .doorbell _ => []
  | .dequeue _ => []
  | .teamStart _ _ => []
  | .coreClean _ => []
  | .bind _ _ => []
  | .revoke _ => []
  | .suspend _ => []
  | .resume _ => []
  | .drainComplete _ => []
  | .remapRowWrite _ _ _ => []
  | .teamSwitch _ => []
  | .preemption _ => []
  | .teamRestore _ _ => []
  | .quantumExpiry _ => []
  | .contribution _ => []
  | .reg _ => []
  | .regack _ => []
  | .collect _ => []
  | .surr _ => []
  | .surrE _ => []
  | .noneMsg _ => []
  | .partialEviction _ _ => []
  | .gatherStart _ => []
  | .bowlContribution _ => []
  | .bowlEmission _ => []
  | .linkReplay _ _ => []
  | .passArrival _ => []
  | .passOutcome _ => []
  | .notificationToken _ => []
  | .directoryProbe _ => []
  | .probeAck _ => []
  | .pageWalk _ _ _ => []
  | .remoteWrite _ => []
  | .remoteWriteAck _ => []
  | .remoteRequest _ => []
  | .refusal _ _ => []
  | .retryResend _ => []
  | .hostSnoop _ _ => []
  | .hostStore _ _ => []
  | .classChange _ _ _ => []
  | .translationShootdown _ _ _ => []
  | .migration _ _ _ => []
  | .leaseGrant _ => []
  | .leaseRevocation _ _ => []
  | .collectiveDequeue _ => []
  | .send _ => []
  | .recv _ => []
  | .rrs _ => []
  | .copyStep _ => []
  | .waitStep _ => []
  | .loopb _ => []
  | .loope _ => []
  | .endStep _ => []
  | .collectiveMessage _ => []
  | .sendAcknowledgement _ => []
  | .doneMsg _ _ => []
  | .stall _ => []
  | .memberFailed _ _ => []
  | .benchReplay _ => []
  | .correctableError _ => []
  | .uncorrectableError _ => []
  | .pageRetire _ => []
  | .unitOutOfService _ => []
  | .unitRejoin _ => []
  | .unitLoss _ => []
  | .seed _ => []
  | .duty _ => []
  | .podid _ => []
  | .evqbase _ => []
  | .evqhead _ => []
  | .plim _ => []
  | .fwOpen _ => []
  | .fwPiece _ => []
  | .fwCommit _ => []
  | .bindw _ => []
  | .remapw _ => []
  | .chainw _ => []
  | .xlshoot _ => []
  | .classchg _ => []
  | .migdone _ => []
  | .memfail _ => []
  | .pwrite _ => []
  | .pcopy _ => []
  | .leasegr _ => []
  | .bkres _ => []
  | .registerWrite _ _ => []
  | .reset => []
  | .powerGood => []
  | .bootDone => []
  | .hardwareFaultHalt _ => []
  | .linkTrain _ _ => []
  | .portTraining _ _ => []
  | .portLoss _ => []
  | .powerLimitThrottle _ => []
  | .overtempThrottle => []
  | .overtempShutdown => []
  | .getVersion => []
  | .getCapabilities => []
  | .negotiateAlgorithms => []
  | .getDigests => []
  | .getCertificate _ => []
  | .challenge => []
  | .getMeasurements _ => []
  | .keyExchange => []
  | .finish => []
  | .ideKeyManagement => []
  | .preemptionWatchdog _ => []
  | .mcmdUnassignedOpcode _ => []
  | .powerLoss => []
  | .hostWriteAcknowledgement _ => []
  | .backInvalidationResponse _ => []
  | .chainDescriptorWrite _ _ => []
  | .homeSliceRequest _ _ => []

/-- The field values of an instruction are ones its entry gives (R66 step 4), register alignment apart. -/
def Instr.fieldsOk (i : Instr) : Bool :=
  match i with
  | .iadd _ o => o.b.okInt o.ty
  | .isub _ o => o.b.okInt o.ty
  | .imul _ o => o.b.okInt o.ty
  | .imulh _ o => o.b.okInt o.ty
  | .imad _ o => o.b.okInt o.ty
  | .idiv _ o => o.b.okInt o.ty
  | .irem _ o => o.b.okInt o.ty
  | .imin _ o => o.b.okInt o.ty
  | .imax _ o => o.b.okInt o.ty
  | .iabs _ o => o.ty != .n32
  | .ineg _ _ => true
  | .shl _ o => o.b.okInt o.ty
  | .shr _ o => o.b.okInt o.ty
  | .sar _ o => o.b.okInt o.ty
  | .rotl _ o => o.b.okInt o.ty
  | .rotr _ o => o.b.okInt o.ty
  | .bfx _ o => o.b.okInt o.ty
  | .bfi _ o => o.b.okInt o.ty
  | .popc _ _ => true
  | .clz _ _ => true
  | .ctz _ _ => true
  | .brev _ _ => true
  | .andb _ o => o.b.okInt o.ty
  | .orb _ o => o.b.okInt o.ty
  | .xorb _ o => o.b.okInt o.ty
  | .notb _ _ => true
  | .andn _ o => o.b.okInt o.ty
  | .sel _ o => o.b.okInt o.ty && !o.b.isUniform
  | .icmp _ o => o.b.okInt o.ty && o.p != 7
  | .mov _ o => o.b.okInt o.ty
  | .lea _ o => o.b.okInt o.ty
  | .pand _ o => o.d != 7
  | .por _ o => o.d != 7
  | .pxor _ o => o.d != 7
  | .pnot _ o => o.d != 7
  | .fadd _ o => o.b.okFloat o.ty
  | .fsub _ o => o.b.okFloat o.ty
  | .fmul _ o => o.b.okFloat o.ty
  | .ffma _ o => o.b.okFloat o.ty
  | .fmin _ o => o.b.okFloat o.ty
  | .fmax _ o => o.b.okFloat o.ty
  | .fabs _ _ => true
  | .fneg _ _ => true
  | .fcmp _ o => o.b.okFloat o.ty && o.p != 7
  | .fclass _ _ => true
  | .frint _ _ => true
  | .fldexp _ o => o.b.okReg
  | .fcopysign _ o => o.b.okFloat o.ty
  | .fexp _ o => o.ty != .f64
  | .fexp2 _ o => o.ty != .f64
  | .flog2 _ o => o.ty != .f64
  | .frcp _ o => o.ty != .f64
  | .frsq _ o => o.ty != .f64
  | .fsqrt _ _ => true
  | .fdiv _ o => o.b.okReg
  | .fsin _ o => o.ty != .f64
  | .fcos _ o => o.ty != .f64
  | .ftanh _ o => o.ty != .f64
  | .cvt _ o => o.dt != .e2m1x && o.st != .e2m1x
  | .cvtq _ o => scaledPair o.et o.sf && o.b.okReg
  | .cvtx _ o => scaledPair o.et o.sf
  | .rand _ _ => true
  | .perm _ _ => true
  | .bcast _ _ => true
  | .shup _ _ => true
  | .shdn _ _ => true
  | .vote _ o => o.ok
  | .matchLanes _ _ => true
  | .nbrl _ _ => true
  | .nbrr _ _ => true
  | .ld _ o => o.ord.isLoad && o.hint.okLd
  | .st _ o => o.ord.isStore && o.hint.okSt
  | .lds _ _ => true
  | .sts _ _ => true
  | .stPass _ o => o.ord.isStore && o.hint.okPass
  | .atom _ _ => true
  | .cas _ _ => true
  | .aacc _ o => o.ord.isStore
  | .ldacc _ o => o.ord.isLoad
  | .fence _ _ => true
  | .cpyGs _ o => o.hint.okCopy
  | .cpySg _ o => o.hint.okCopy
  | .cpyGg _ o => o.hint.okCopy
  | .waitall _ _ => true
  | .waitany _ _ => true
  | .tagff _ _ => true
  | .tagclr _ _ => true
  | .recd _ o => decide (48 ≤ o.d.val)
  | .recq _ _ => true
  | .pref _ o => o.hint.okPref
  | .flush _ _ => true
  | .inv _ _ => true
  | .lzero _ _ => true
  | .lmov _ _ => true
  | .lfma _ o => o.ty != .i64
  | .ladd _ _ => true
  | .ladda _ _ => true
  | .lneg _ _ => true
  | .lscale _ _ => true
  | .lnorm _ _ => true
  | .lrnd _ _ => true
  | .lquo _ o => o.ty.isFloat
  | .lload _ _ => true
  | .lstore _ _ => true
  | .lxadd _ _ => true
  | .mzero _ _ => true
  | .mma _ _ => true
  | .mmas _ _ => true
  | .msel _ _ => true
  | .maddt _ _ => true
  | .mrnd _ _ => true
  | .mquo _ o => o.ty.isFloat
  | .mspill _ _ => true
  | .mfill _ _ => true
  | .bra _ off => offOk off
  | .jmpi _ _ => true
  | .jtbl _ o => o.entries != 0
  | .call _ _ off => offOk off
  | .calli _ _ _ => true
  | .ret _ _ => true
  | .mark off => offOk off
  | .join => true
  | .yield _ => true
  | .exit _ => true
  | .nop _ => true
  | .rep _ _ => true
  | .trap _ _ => true
  | .bkpt _ _ => true
  | .tret => true
  | .bar s => s != .sy
  | .bara s => s != .sy
  | .barw s => s != .sy
  | .innend _ => true
  | .vshrink _ _ => true
  | .vgrow _ _ => true
  | .lnch _ o => o.n != 0
  | .mgmt _ _ => true
  | .ctxrd _ o => o.ok
  | .ctxwr _ o => o.ok
  | .mfs _ o => (!o.w || o.sr.pairLow) && (o.d.cls == .vector || !o.sr.perThread)
  | .mts _ o => o.sr.writable
  | .issueSlotService _ _ _ => true
  | .aging _ _ => true
  | .watchdog _ _ => true
  | .loadCompletion _ => true
  | .copyCompletion _ => true
  | .mgmtReply _ => true
  | .version _ => true
  | .setseed _ => true
  | .chainq _ => true
  | .leaseq _ => true
  | .notify _ => true
  | .unservedMgmtCode _ => true
  | .commit _ => true
  | .doorbell _ => true
  | .dequeue _ => true
  | .teamStart _ _ => true
  | .coreClean _ => true
  | .bind _ _ => true
  | .revoke _ => true
  | .suspend _ => true
  | .resume _ => true
  | .drainComplete _ => true
  | .remapRowWrite _ _ _ => true
  | .teamSwitch _ => true
  | .preemption _ => true
  | .teamRestore _ _ => true
  | .quantumExpiry _ => true
  | .contribution _ => true
  | .reg _ => true
  | .regack _ => true
  | .collect _ => true
  | .surr _ => true
  | .surrE _ => true
  | .noneMsg _ => true
  | .partialEviction _ _ => true
  | .gatherStart _ => true
  | .bowlContribution _ => true
  | .bowlEmission _ => true
  | .linkReplay _ _ => true
  | .passArrival _ => true
  | .passOutcome _ => true
  | .notificationToken _ => true
  | .directoryProbe _ => true
  | .probeAck _ => true
  | .pageWalk _ _ _ => true
  | .remoteWrite _ => true
  | .remoteWriteAck _ => true
  | .remoteRequest _ => true
  | .refusal _ _ => true
  | .retryResend _ => true
  | .hostSnoop _ _ => true
  | .hostStore _ _ => true
  | .classChange _ _ _ => true
  | .translationShootdown _ _ _ => true
  | .migration _ _ _ => true
  | .leaseGrant _ => true
  | .leaseRevocation _ _ => true
  | .collectiveDequeue _ => true
  | .send _ => true
  | .recv _ => true
  | .rrs _ => true
  | .copyStep _ => true
  | .waitStep _ => true
  | .loopb _ => true
  | .loope _ => true
  | .endStep _ => true
  | .collectiveMessage _ => true
  | .sendAcknowledgement _ => true
  | .doneMsg _ _ => true
  | .stall _ => true
  | .memberFailed _ _ => true
  | .benchReplay _ => true
  | .correctableError _ => true
  | .uncorrectableError _ => true
  | .pageRetire _ => true
  | .unitOutOfService _ => true
  | .unitRejoin _ => true
  | .unitLoss _ => true
  | .seed _ => true
  | .duty _ => true
  | .podid _ => true
  | .evqbase _ => true
  | .evqhead _ => true
  | .plim _ => true
  | .fwOpen _ => true
  | .fwPiece _ => true
  | .fwCommit _ => true
  | .bindw _ => true
  | .remapw _ => true
  | .chainw _ => true
  | .xlshoot _ => true
  | .classchg _ => true
  | .migdone _ => true
  | .memfail _ => true
  | .pwrite _ => true
  | .pcopy _ => true
  | .leasegr _ => true
  | .bkres _ => true
  | .registerWrite _ _ => true
  | .reset => true
  | .powerGood => true
  | .bootDone => true
  | .hardwareFaultHalt _ => true
  | .linkTrain _ _ => true
  | .portTraining _ _ => true
  | .portLoss _ => true
  | .powerLimitThrottle _ => true
  | .overtempThrottle => true
  | .overtempShutdown => true
  | .getVersion => true
  | .getCapabilities => true
  | .negotiateAlgorithms => true
  | .getDigests => true
  | .getCertificate _ => true
  | .challenge => true
  | .getMeasurements _ => true
  | .keyExchange => true
  | .finish => true
  | .ideKeyManagement => true
  | .preemptionWatchdog _ => true
  | .mcmdUnassignedOpcode _ => true
  | .powerLoss => true
  | .hostWriteAcknowledgement _ => true
  | .backInvalidationResponse _ => true
  | .chainDescriptorWrite _ _ => true
  | .homeSliceRequest _ _ => true

/-- An instruction that step 4 of R66 accepts. -/
def Instr.wf (i : Instr) : Bool := i.fieldsOk && (i.uses false).all RegUse.aligned

end Sys2Proof
end

