-- ==== Sys2Proof/Decode.lean ====
section
/-!
DEFINITION. The encoding of the instruction set (spec/03_encoding_and_assembly.md R59 to R77 and the field tables of
the entries). `Fields` are the fields of R63 with the extension words of R71; `parse` reads a core instruction from
them; `decode` is total on bytes and rejects by name in the order of R66 steps 2 to 4. The encoder follows the decoder.
-/
namespace Sys2Proof

/-! ## Fields (R63, R71) -/

/-- The three lengths of an instruction (R59). -/
inductive Len where
  | w2 | w3 | w4
  deriving DecidableEq, Repr

/-- Bytes of an instruction of that length. -/
def Len.bytes : Len → Nat
  | .w2 => 8 | .w3 => 12 | .w4 => 16

/-- LEN, bits [1:0] of the first word (R59). -/
def Len.code : Len → Nat
  | .w2 => 1 | .w3 => 2 | .w4 => 3

/-- The fields of the first 64 bits (R63) and the two extension words (R71; zero where the length has none). -/
structure Fields where
  len : Len
  op : Fin 1024
  g1 : Fin 16
  g2 : Fin 16
  mod : Fin 16
  d : Fin 256
  a : Fin 256
  b : Fin 256
  c : Fin 256
  x : Fin 256
  e0 : BitVec 32
  e1 : BitVec 32
  deriving DecidableEq, Repr

/-- Why the decoder rejects a word: the named failures of R66 steps 2 to 4. -/
inductive DecodeError where
  /-- LEN is 0b00 and the word is no pad word (R60): step 2. -/
  | notInstruction
  /-- The opcode is unassigned (R76): step 3. -/
  | unassigned
  /-- The length is not permitted for the opcode (R77): step 3. -/
  | badLength
  /-- A field holds a value its entry does not give (R65, R67): step 4. -/
  | badField
  deriving DecidableEq, Repr

/-- The step of R66 that failed (the REASON of R390). -/
def DecodeError.step : DecodeError → Nat
  | .notInstruction => 2
  | .unassigned => 3
  | .badLength => 3
  | .badField => 4

/-! ## Codes of the enumerated fields -/

def IntTy.code : IntTy → Nat
  | .i32 => 0 | .n32 => 1 | .i64 => 2
def IntTy.ofCode : Nat → Option IntTy
  | 0 => some .i32 | 1 => some .n32 | 2 => some .i64 | _ => none

def FloatTy.code : FloatTy → Nat
  | .f32 => 0 | .f64 => 1 | .b16 => 2 | .h16 => 3
def FloatTy.ofCode : Nat → Option FloatTy
  | 0 => some .f32 | 1 => some .f64 | 2 => some .b16 | 3 => some .h16 | _ => none

def Mode.code : Mode → Nat
  | .rne => 0 | .rtz => 1 | .rup => 2 | .rdn => 3 | .rna => 4
def Mode.ofCode : Nat → Option Mode
  | 0 => some .rne | 1 => some .rtz | 2 => some .rup | 3 => some .rdn | 4 => some .rna | _ => none

def ICond.code : ICond → Nat
  | .eq => 0 | .ne => 1 | .lt => 2 | .le => 3 | .gt => 4 | .ge => 5
def ICond.ofCode : Nat → Option ICond
  | 0 => some .eq | 1 => some .ne | 2 => some .lt | 3 => some .le | 4 => some .gt | 5 => some .ge | _ => none

def FCond.code : FCond → Nat
  | .eq => 0 | .ne => 1 | .lt => 2 | .le => 3 | .gt => 4 | .ge => 5 | .un => 6 | .ord => 7
def FCond.ofCode : Nat → Option FCond
  | 0 => some .eq | 1 => some .ne | 2 => some .lt | 3 => some .le | 4 => some .gt | 5 => some .ge
  | 6 => some .un | 7 => some .ord | _ => none

def DType.code : DType → Nat
  | .f64 => 0 | .f32 => 1 | .b16 => 2 | .h16 => 3 | .e5m2 => 4 | .e4m3 => 5 | .e3m2 => 6 | .e2m3 => 7
  | .e2m1 => 8 | .e2m1x => 9 | .i64 => 10 | .i32 => 11 | .i16 => 12 | .i8 => 13 | .n32 => 14 | .n16 => 15
  | .n8 => 16 | .i4 => 17 | .n4 => 18
def DType.ofCode : Nat → Option DType
  | 0 => some .f64 | 1 => some .f32 | 2 => some .b16 | 3 => some .h16 | 4 => some .e5m2 | 5 => some .e4m3
  | 6 => some .e3m2 | 7 => some .e2m3 | 8 => some .e2m1 | 9 => some .e2m1x | 10 => some .i64
  | 11 => some .i32 | 12 => some .i16 | 13 => some .i8 | 14 => some .n32 | 15 => some .n16 | 16 => some .n8
  | 17 => some .i4 | 18 => some .n4 | _ => none

def UnscaledTy.code : UnscaledTy → Nat
  | .f32 => 0 | .b16 => 1 | .h16 => 2
def UnscaledTy.ofCode : Nat → Option UnscaledTy
  | 0 => some .f32 | 1 => some .b16 | 2 => some .h16 | _ => none

def ScaleFmt.code : ScaleFmt → Nat
  | .p8 => 1 | .q8 => 2
def ScaleFmt.ofCode : Nat → Option ScaleFmt
  | 1 => some .p8 | 2 => some .q8 | _ => none

def RandTy.code : RandTy → Nat
  | .n32 => 0 | .f32 => 1 | .i64 => 2
def RandTy.ofCode : Nat → Option RandTy
  | 0 => some .n32 | 1 => some .f32 | 2 => some .i64 | _ => none

def Scope.code : Scope → Nat
  | .sq => 0 | .tm => 1 | .cl => 2 | .lg => 3 | .dv => 4 | .sy => 5
def Scope.ofCode : Nat → Option Scope
  | 0 => some .sq | 1 => some .tm | 2 => some .cl | 3 => some .lg | 4 => some .dv | 5 => some .sy | _ => none

def Hint.code : Hint → Nat
  | .none => 0 | .nt => 1 | .wc => 2 | .repl => 3 | .keep => 4
def Hint.ofCode : Nat → Option Hint
  | 0 => some .none | 1 => some .nt | 2 => some .wc | 3 => some .repl | 4 => some .keep | _ => Option.none

def Width.code : Width → Nat
  | .n8 => 0 | .i8 => 1 | .n16 => 2 | .i16 => 3 | .w32 => 4 | .w64 => 5 | .w128 => 6
def Width.ofCode : Nat → Option Width
  | 0 => some .n8 | 1 => some .i8 | 2 => some .n16 | 3 => some .i16 | 4 => some .w32 | 5 => some .w64
  | 6 => some .w128 | _ => none

def AtomFn.code : AtomFn → Nat
  | .add => 0 | .smin => 1 | .smax => 2 | .umin => 3 | .umax => 4 | .and => 5 | .or => 6 | .xor => 7 | .exch => 8
def AtomFn.ofCode : Nat → Option AtomFn
  | 0 => some .add | 1 => some .smin | 2 => some .smax | 3 => some .umin | 4 => some .umax | 5 => some .and
  | 6 => some .or | 7 => some .xor | 8 => some .exch | _ => none

def FenceKind.code : FenceKind → Nat
  | .full => 0 | .acq => 1 | .rel => 2
def FenceKind.ofCode : Nat → Option FenceKind
  | 0 => some .full | 1 => some .acq | 2 => some .rel | _ => none

def CopySize.code : CopySize → Nat
  | .b4 => 0 | .b8 => 1 | .b16 => 2
def CopySize.ofCode : Nat → Option CopySize
  | 0 => some .b4 | 1 => some .b8 | 2 => some .b16 | _ => none

def RecItem.code : RecItem → Nat
  | .base => 0 | .extent => 1 | .stride => 2 | .esize => 3 | .flags => 4
def RecItem.ofCode : Nat → Option RecItem
  | 0 => some .base | 1 => some .extent | 2 => some .stride | 3 => some .esize | 4 => some .flags | _ => none

def TermTy.code : TermTy → Nat
  | .f32 => 1 | .b16 => 2 | .h16 => 3 | .i64 => 10 | .i32 => 11 | .n32 => 14
def TermTy.ofCode : Nat → Option TermTy
  | 1 => some .f32 | 2 => some .b16 | 3 => some .h16 | 10 => some .i64 | 11 => some .i32 | 14 => some .n32
  | _ => none

def RndTy.code : RndTy → Nat
  | .f64 => 0 | .f32 => 1 | .b16 => 2 | .h16 => 3 | .e5m2 => 4 | .e4m3 => 5 | .i32 => 11 | .n32 => 14
def RndTy.ofCode : Nat → Option RndTy
  | 0 => some .f64 | 1 => some .f32 | 2 => some .b16 | 3 => some .h16 | 4 => some .e5m2 | 5 => some .e4m3
  | 11 => some .i32 | 14 => some .n32 | _ => none

/-- Special-register numbers (R28). -/
def Special.code : Special → Nat
  | .lane => 0x00 | .wlane => 0x01 | .warp => 0x02 | .squad => 0x03 | .tid => 0x04 | .width => 0x05
  | .vallot => 0x06 | .team => 0x08 | .club => 0x09 | .league => 0x0A | .gridsz => 0x0B | .seedlo => 0x0C
  | .seedhi => 0x0D | .inning => 0x0E | .fault i => 0x10 + i.val | .tagrdylo => 0x20 | .tagrdyhi => 0x21
  | .clklo => 0x22 | .clkhi => 0x23 | .oobst => 0x24 | .satst => 0x25 | .fpst => 0x26 | .passref => 0x27
  | .wdlim => 0x28
def Special.ofCode (n : Nat) : Option Special :=
  if h : 0x10 ≤ n ∧ n < 0x20 then some (.fault ⟨n - 0x10, by omega⟩) else
  match n with
  | 0x00 => some .lane | 0x01 => some .wlane | 0x02 => some .warp | 0x03 => some .squad | 0x04 => some .tid
  | 0x05 => some .width | 0x06 => some .vallot | 0x08 => some .team | 0x09 => some .club | 0x0A => some .league
  | 0x0B => some .gridsz | 0x0C => some .seedlo | 0x0D => some .seedhi | 0x0E => some .inning
  | 0x20 => some .tagrdylo | 0x21 => some .tagrdyhi | 0x22 => some .clklo | 0x23 => some .clkhi
  | 0x24 => some .oobst | 0x25 => some .satst | 0x26 => some .fpst | 0x27 => some .passref | 0x28 => some .wdlim
  | _ => none

/-- The two special registers that follow each other under a pair name: the upper half (R30). -/
def Special.next (sr : Special) : Option Special := Special.ofCode (sr.code + 1)

/-! ## Small readers and writers -/

/-- A field of 8 bits read as a number below `n`, or refused (R65). -/
def finOf (n : Nat) (v : Fin 256) : Option (Fin n) :=
  if h : v.val < n then some ⟨v.val, h⟩ else none

/-- A number of at most 8 bits as a field. -/
abbrev fld (v : Nat) : Fin 256 := Fin.ofNat 256 v

/-- A modifier field (R63). -/
abbrev modf (v : Nat) : Fin 16 := Fin.ofNat 16 v

/-- `some v` when the condition holds. -/
def ifOk {α : Type} (c : Bool) (v : α) : Option α := if c then some v else none

def Guard.field (g : Guard) : Fin 16 := Fin.ofNat 16 ((if g.neg then 8 else 0) + g.pred.val)
def Guard.ofField (v : Fin 16) : Guard :=
  { neg := decide (8 ≤ v.val), pred := ⟨v.val % 8, Nat.mod_lt _ (by decide)⟩ }

def Fields.guards (f : Fields) : Guards := { g1 := Guard.ofField f.g1, g2 := Guard.ofField f.g2 }

/-- Both guard fields hold 0b0111, as "none" in the guard column of R127 asks. -/
def Fields.unguarded (f : Fields) : Bool := f.g1 == 7 && f.g2 == 7

/-- OFF of the offset layout (R71): bits [63:32]. -/
def Fields.off (f : Fields) : BitVec 32 :=
  BitVec.ofNat 32 (f.a.val + 2 ^ 8 * f.b.val + 2 ^ 16 * f.c.val + 2 ^ 24 * f.x.val)

/-- The fields of a 64-bit instruction with only an opcode and guards. -/
def Fields.base (op : Fin 1024) (g : Guards) : Fields :=
  { len := .w2, op := op, g1 := g.g1.field, g2 := g.g2.field, mod := 0, d := 0, a := 0, b := 0, c := 0, x := 0,
    e0 := 0, e1 := 0 }

def Fields.putOff (f : Fields) (off : BitVec 32) : Fields :=
  { f with a := fld (off.toNat % 2 ^ 8), b := fld (off.toNat / 2 ^ 8 % 2 ^ 8),
           c := fld (off.toNat / 2 ^ 16 % 2 ^ 8), x := fld (off.toNat / 2 ^ 24) }

def Fields.imm64 (f : Fields) : BitVec 64 := f.e1 ++ f.e0

/-- The operand B of the ALU mould (R68 to R70) as the fields give it; with `imm8` the 64-bit immediate form takes X,
and X is 0 in every other form. Without `imm8` (floating opcodes) X belongs to the entry. -/
def Fields.src (f : Fields) (imm8 : Bool) : Option Src :=
  match f.len, f.mod.val % 4 with
  | .w2, 0 => ifOk (!imm8 || f.x == 0) (.vec f.b)
  | .w2, 1 => ifOk (!imm8 || f.x == 0) (.sc f.b)
  | .w2, 2 => ifOk (!imm8 || f.x == 0) (.uni f.b)
  | .w2, _ => ifOk (imm8 && f.b == 0) (.imm8 (BitVec.ofFin f.x))
  | .w3, 2 => ifOk (f.b == 0 && (!imm8 || f.x == 0)) (.uimm32 f.e0)
  | .w3, 3 => ifOk (f.b == 0 && (!imm8 || f.x == 0)) (.imm32 f.e0)
  | .w3, _ => none
  | .w4, 2 => ifOk (f.b == 0 && (!imm8 || f.x == 0)) (.uimm64 f.imm64)
  | .w4, 3 => ifOk (f.b == 0 && (!imm8 || f.x == 0)) (.imm64 f.imm64)
  | .w4, _ => none

/-- Write operand B and its form; `hi` is MOD[3:2]. -/
def Fields.putSrc (f : Fields) (hi : Nat) : Src → Fields
  | .vec r => { f with mod := modf (hi * 4), b := r }
  | .sc r => { f with mod := modf (hi * 4 + 1), b := r }
  | .uni r => { f with mod := modf (hi * 4 + 2), b := r }
  | .imm8 v => { f with mod := modf (hi * 4 + 3), x := v.toFin }
  | .imm32 v => { f with len := .w3, mod := modf (hi * 4 + 3), e0 := v }
  | .uimm32 v => { f with len := .w3, mod := modf (hi * 4 + 2), e0 := v }
  | .imm64 v => { f with len := .w4, mod := modf (hi * 4 + 3), e0 := v.extractLsb' 0 32, e1 := v.extractLsb' 32 32 }
  | .uimm64 v => { f with len := .w4, mod := modf (hi * 4 + 2), e0 := v.extractLsb' 0 32, e1 := v.extractLsb' 32 32 }

def VSReg.bit : VSReg → Nat
  | .vec _ => 0
  | .sc _ => 1
def VSReg.of (bit : Nat) (r : RegNum) : VSReg := if bit = 0 then .vec r else .sc r

/-! ## Readers of the operand groups -/

def Fields.intBin (f : Fields) : Option IntBin := do
  let ty ← IntTy.ofCode (f.mod.val / 4)
  let b ← f.src true
  ifOk (f.c == 0) { ty := ty, d := f.d, a := f.a, b := b }
def IntBin.put (o : IntBin) (f : Fields) : Fields := ({ f with d := o.d, a := o.a }).putSrc o.ty.code o.b

def Fields.intTri (f : Fields) : Option IntTri := do
  let ty ← IntTy.ofCode (f.mod.val / 4)
  let b ← f.src true
  some { ty := ty, d := f.d, a := f.a, b := b, c := f.c }
def IntTri.put (o : IntTri) (f : Fields) : Fields := ({ f with d := o.d, a := o.a, c := o.c }).putSrc o.ty.code o.b

/-- One-source entries take SRC 0b00 and 0b10 at 64 bits only (R69). -/
def Fields.uniBit (f : Fields) : Option Bool :=
  match f.len, f.mod.val % 4 with
  | .w2, 0 => some false
  | .w2, 2 => some true
  | _, _ => none

def uniCode (u : Bool) : Nat := if u then 2 else 0

def Fields.intUn (f : Fields) : Option IntUn := do
  let ty ← IntTy.ofCode (f.mod.val / 4)
  let u ← f.uniBit
  ifOk (f.b == 0 && f.c == 0 && f.x == 0) { ty := ty, uniform := u, d := f.d, a := f.a }
def IntUn.put (o : IntUn) (f : Fields) : Fields :=
  { f with d := o.d, a := o.a, mod := modf (o.ty.code * 4 + uniCode o.uniform) }

def Fields.lea (f : Fields) : Option LeaOp := do
  let ty ← IntTy.ofCode (f.mod.val / 4)
  let b ← f.src true
  let k ← finOf 16 f.c
  some { ty := ty, d := f.d, a := f.a, b := b, k := k }
def LeaOp.put (o : LeaOp) (f : Fields) : Fields :=
  ({ f with d := o.d, a := o.a, c := fld o.k.val }).putSrc o.ty.code o.b

def Fields.mov (f : Fields) : Option MovOp := do
  let ty ← IntTy.ofCode (f.mod.val / 4)
  let b ← f.src true
  ifOk (f.a == 0 && f.c == 0) { ty := ty, d := f.d, b := b }
def MovOp.put (o : MovOp) (f : Fields) : Fields := ({ f with d := o.d }).putSrc o.ty.code o.b

def Fields.selOp (f : Fields) : Option SelOp := do
  let ty ← IntTy.ofCode (f.mod.val / 4)
  let b ← f.src true
  let p ← finOf 8 f.c
  some { ty := ty, d := f.d, a := f.a, b := b, p := p }
def SelOp.put (o : SelOp) (f : Fields) : Fields :=
  ({ f with d := o.d, a := o.a, c := fld o.p.val }).putSrc o.ty.code o.b

def Fields.icmpOp (f : Fields) : Option ICmpOp := do
  let ty ← IntTy.ofCode (f.mod.val / 4)
  let b ← f.src true
  let p ← finOf 8 f.d
  let cc ← ICond.ofCode f.c.val
  some { ty := ty, cc := cc, p := p, a := f.a, b := b }
def ICmpOp.put (o : ICmpOp) (f : Fields) : Fields :=
  ({ f with d := fld o.p.val, a := o.a, c := fld o.cc.code }).putSrc o.ty.code o.b

def Fields.predBin (f : Fields) : Option PredBin := do
  let d ← finOf 8 f.d
  let a ← finOf 8 f.a
  let b ← finOf 8 f.b
  ifOk (f.mod == 0 && f.c == 0 && f.x == 0) { d := d, a := a, b := b }
def PredBin.put (o : PredBin) (f : Fields) : Fields :=
  { f with d := fld o.d.val, a := fld o.a.val, b := fld o.b.val }

def Fields.predUn (f : Fields) : Option PredUn := do
  let d ← finOf 8 f.d
  let a ← finOf 8 f.a
  ifOk (f.mod == 0 && f.b == 0 && f.c == 0 && f.x == 0) { d := d, a := a }
def PredUn.put (o : PredUn) (f : Fields) : Fields := { f with d := fld o.d.val, a := fld o.a.val }

def Fields.floatBin (f : Fields) : Option FloatBin := do
  let ty ← FloatTy.ofCode (f.mod.val / 4)
  let b ← f.src false
  let m ← Mode.ofCode f.x.val
  ifOk (f.c == 0) { ty := ty, mode := m, d := f.d, a := f.a, b := b }
def FloatBin.put (o : FloatBin) (f : Fields) : Fields :=
  { ({ f with d := o.d, a := o.a }).putSrc o.ty.code o.b with x := fld o.mode.code }

def Fields.floatTri (f : Fields) : Option FloatTri := do
  let ty ← FloatTy.ofCode (f.mod.val / 4)
  let b ← f.src false
  let m ← Mode.ofCode f.x.val
  some { ty := ty, mode := m, d := f.d, a := f.a, b := b, c := f.c }
def FloatTri.put (o : FloatTri) (f : Fields) : Fields :=
  { ({ f with d := o.d, a := o.a, c := o.c }).putSrc o.ty.code o.b with x := fld o.mode.code }

def Fields.floatSel (f : Fields) : Option FloatSel := do
  let ty ← FloatTy.ofCode (f.mod.val / 4)
  let b ← f.src false
  ifOk (f.c == 0 && f.x == 0) { ty := ty, d := f.d, a := f.a, b := b }
def FloatSel.put (o : FloatSel) (f : Fields) : Fields :=
  { ({ f with d := o.d, a := o.a }).putSrc o.ty.code o.b with x := 0 }

def Fields.floatUn (f : Fields) : Option FloatUn := do
  let ty ← FloatTy.ofCode (f.mod.val / 4)
  let u ← f.uniBit
  ifOk (f.b == 0 && f.c == 0 && f.x == 0) { ty := ty, uniform := u, d := f.d, a := f.a }
def FloatUn.put (o : FloatUn) (f : Fields) : Fields :=
  { f with d := o.d, a := o.a, mod := modf (o.ty.code * 4 + uniCode o.uniform) }

def Fields.frintOp (f : Fields) : Option FrintOp := do
  let ty ← FloatTy.ofCode (f.mod.val / 4)
  let u ← f.uniBit
  let m ← Mode.ofCode f.x.val
  ifOk (f.b == 0 && f.c == 0) { ty := ty, uniform := u, mode := m, d := f.d, a := f.a }
def FrintOp.put (o : FrintOp) (f : Fields) : Fields :=
  { f with d := o.d, a := o.a, x := fld o.mode.code, mod := modf (o.ty.code * 4 + uniCode o.uniform) }

def Fields.fcmpOp (f : Fields) : Option FCmpOp := do
  let ty ← FloatTy.ofCode (f.mod.val / 4)
  let b ← f.src false
  let p ← finOf 8 f.d
  let cc ← FCond.ofCode f.c.val
  ifOk (f.x == 0) { ty := ty, cc := cc, p := p, a := f.a, b := b }
def FCmpOp.put (o : FCmpOp) (f : Fields) : Fields :=
  { ({ f with d := fld o.p.val, a := o.a, c := fld o.cc.code }).putSrc o.ty.code o.b with x := 0 }

def Fields.cvtOp (f : Fields) : Option CvtOp := do
  let u ← f.uniBit
  let dt ← DType.ofCode f.b.val
  let st ← DType.ofCode f.c.val
  let m ← Mode.ofCode f.x.val
  ifOk (decide (f.mod.val / 4 = 0)) { dt := dt, st := st, mode := m, uniform := u, d := f.d, a := f.a }
def CvtOp.put (o : CvtOp) (f : Fields) : Fields :=
  { f with d := o.d, a := o.a, b := fld o.dt.code, c := fld o.st.code, x := fld o.mode.code,
           mod := modf (uniCode o.uniform) }

def Fields.cvtqOp (f : Fields) : Option CvtqOp := do
  let ut ← UnscaledTy.ofCode (f.mod.val / 4)
  let b ← f.src false
  let et ← DType.ofCode f.c.val
  let sf ← ScaleFmt.ofCode (f.x.val / 16)
  let m ← Mode.ofCode (f.x.val % 8)
  some { ut := ut, et := et, sf := sf, dequant := f.x.val / 8 % 2 == 1, mode := m, d := f.d, a := f.a, b := b }
def CvtqOp.put (o : CvtqOp) (f : Fields) : Fields :=
  { ({ f with d := o.d, a := o.a, c := fld o.et.code }).putSrc o.ut.code o.b with
    x := fld (o.sf.code * 16 + (if o.dequant then 8 else 0) + o.mode.code) }

def Fields.cvtxOp (f : Fields) : Option CvtxOp := do
  let ut ← UnscaledTy.ofCode (f.mod.val / 4)
  let u ← f.uniBit
  let et ← DType.ofCode f.c.val
  let sf ← ScaleFmt.ofCode (f.x.val / 16)
  ifOk (f.b == 0 && f.x.val % 16 == 0) { ut := ut, et := et, sf := sf, uniform := u, d := f.d, a := f.a }
def CvtxOp.put (o : CvtxOp) (f : Fields) : Fields :=
  { f with d := o.d, a := o.a, c := fld o.et.code, x := fld (o.sf.code * 16),
           mod := modf (o.ut.code * 4 + uniCode o.uniform) }

def Fields.randOp (f : Fields) : Option RandOp := do
  let ty ← RandTy.ofCode (f.mod.val / 4)
  ifOk (f.mod.val % 4 == 0 && f.b == 0 && f.c == 0 && f.x == 0) { ty := ty, d := f.d, a := f.a }
def RandOp.put (o : RandOp) (f : Fields) : Fields := { f with d := o.d, a := o.a, mod := modf (o.ty.code * 4) }

def Fields.permOp (f : Fields) : Option PermOp :=
  ifOk (decide (f.mod.val < 2) && f.c == 0 && f.x == 0) { pair := f.mod.val == 1, d := f.d, a := f.a, i := f.b }
def PermOp.put (o : PermOp) (f : Fields) : Fields :=
  { f with d := o.d, a := o.a, b := o.i, mod := modf o.pair.toNat }

def Fields.bcastOp (f : Fields) : Option BcastOp :=
  if f.mod.val < 2 then
    ifOk (f.b == 0 && f.c == 0) { pair := f.mod.val % 2 == 1, d := f.d, a := f.a, i := .imm f.x }
  else ifOk (decide (f.mod.val < 4) && f.c == 0 && f.x == 0)
    { pair := f.mod.val % 2 == 1, d := f.d, a := f.a, i := .sc f.b }
def BcastOp.put (o : BcastOp) (f : Fields) : Fields :=
  match o.i with
  | .imm j => { f with d := o.d, a := o.a, x := j, mod := modf o.pair.toNat }
  | .sc r => { f with d := o.d, a := o.a, b := r, mod := modf (2 + o.pair.toNat) }

def Fields.laneShift (f : Fields) : Option LaneShift :=
  ifOk (decide (f.mod.val < 4) && f.b == 0 && f.c == 0)
    { wrap := f.mod.val / 2 == 1, pair := f.mod.val % 2 == 1, d := f.d, a := f.a, n := f.x }
def LaneShift.put (o : LaneShift) (f : Fields) : Fields :=
  { f with d := o.d, a := o.a, x := o.n, mod := modf (2 * o.wrap.toNat + o.pair.toNat) }

def Fields.voteOp (f : Fields) : Option VoteOp := do
  let p ← finOf 8 f.a
  if f.b == 0 && f.c == 0 && f.x == 0 then
    match f.mod.val with
    | 0 => (finOf 8 f.d).map fun d => .all d p
    | 1 => (finOf 8 f.d).map fun d => .any d p
    | 2 => some (.ballot f.d p)
    | 3 => some (.count f.d p)
    | _ => none
  else none
def VoteOp.put (o : VoteOp) (f : Fields) : Fields :=
  match o with
  | .all d p => { f with d := fld d.val, a := fld p.val, mod := 0 }
  | .any d p => { f with d := fld d.val, a := fld p.val, mod := 1 }
  | .ballot d p => { f with d := d, a := fld p.val, mod := 2 }
  | .count d p => { f with d := d, a := fld p.val, mod := 3 }

def Fields.laneOp (f : Fields) : Option LaneOp :=
  ifOk (decide (f.mod.val < 2) && f.b == 0 && f.c == 0 && f.x == 0) { pair := f.mod.val == 1, d := f.d, a := f.a }
def LaneOp.put (o : LaneOp) (f : Fields) : Fields := { f with d := o.d, a := o.a, mod := modf o.pair.toNat }

/-! ### The global mould (R152, R154) -/

/-- The scope-hint byte (R74). -/
def scopeHint (v : Fin 256) : Option (Hint × Scope) := do
  let h ← Hint.ofCode (v.val / 16)
  let s ← Scope.ofCode (v.val % 16)
  some (h, s)

/-- ORD in C[1:0] with SCOPE in X (R152): SCOPE is 0 when ORD is 0. -/
def memOrd (o : Nat) (s : Scope) : Option MemOrd :=
  match o with
  | 0 => ifOk (s == .sq) .relaxed
  | 1 => some (.acq s)
  | 2 => some (.rel s)
  | 3 => some (.ar s)
  | _ => none

def MemOrd.code : MemOrd → Nat
  | .relaxed => 0 | .acq _ => 1 | .rel _ => 2 | .ar _ => 3
def MemOrd.scope : MemOrd → Scope
  | .relaxed => .sq | .acq s => s | .rel s => s | .ar s => s

def shByte (h : Hint) (s : Scope) : Fin 256 := fld (h.code * 16 + s.code)

/-- The index register and the addend K of the global mould. -/
def Fields.recAddr (f : Fields) : Option RecAddr := do
  let r ← finOf 64 f.b
  match f.len with
  | .w2 => some { idx := VSReg.of (f.mod.val % 2) f.a, buf := r, k := none }
  | .w3 => some { idx := VSReg.of (f.mod.val % 2) f.a, buf := r, k := some f.e0 }
  | .w4 => none

def Fields.putAddr (f : Fields) (hi : Nat) (o : RecAddr) : Fields :=
  let f := { f with a := o.idx.num, b := fld o.buf.val, mod := modf (hi * 2 + o.idx.bit) }
  match o.k with
  | none => f
  | some k => { f with len := .w3, e0 := k }

def Fields.memOp (f : Fields) : Option MemOp := do
  let w ← Width.ofCode (f.mod.val / 2)
  let (h, s) ← scopeHint f.x
  let o ← memOrd f.c.val s
  let ad ← f.recAddr
  some { width := w, ord := o, hint := h, d := f.d, addr := ad }
def MemOp.put (o : MemOp) (f : Fields) : Fields :=
  ({ f with d := o.d, c := fld o.ord.code, x := shByte o.hint o.ord.scope }).putAddr o.width.code o.addr

def Fields.passOp (f : Fields) : Option PassOp := do
  let w ← Width.ofCode (f.mod.val / 2)
  let (h, s) ← scopeHint f.x
  let o ← memOrd f.c.val s
  let r ← finOf 64 f.b
  let ctl := f.e0.toNat / 2 ^ 8
  let kind ← (match ctl with
    | 0 => some PassKind.one
    | 1 => some .club
    | 2 => some .league
    | 3 => some (.grp 0)
    | 11 => some (.grp 1)
    | 19 => some (.grp 2)
    | 27 => some (.grp 3)
    | _ => none)
  some { width := w, ord := o, hint := h, d := f.d, idx := VSReg.of (f.mod.val % 2) f.a, buf := r, kind := kind,
         e := fld f.e0.toNat }
def PassKind.ctl : PassKind → Nat
  | .one => 0 | .club => 1 | .league => 2 | .grp q => 3 + 8 * q.val
def PassOp.put (o : PassOp) (f : Fields) : Fields :=
  { f with len := .w3, d := o.d, a := o.idx.num, b := fld o.buf.val, c := fld o.ord.code,
           x := shByte o.hint o.ord.scope, mod := modf (o.width.code * 2 + o.idx.bit),
           e0 := BitVec.ofNat 32 (o.e.val + 2 ^ 8 * o.kind.ctl) }

/-- ATOM and CAS take MOD[3:1] 4 (.i32) or 5 (.i64) (R154). -/
def wideOf : Nat → Option Bool
  | 4 => some false
  | 5 => some true
  | _ => none
def wideCode (w : Bool) : Nat := if w then 5 else 4

def Fields.atomOp (f : Fields) : Option AtomOp := do
  let w ← wideOf (f.mod.val / 2)
  let (h, s) ← scopeHint f.x
  let o ← memOrd (f.c.val % 4) s
  let fn ← AtomFn.ofCode (f.c.val / 4)
  let ad ← f.recAddr
  ifOk (h == .none) { fn := fn, wide := w, ord := o, d := f.d, addr := ad }
def AtomOp.put (o : AtomOp) (f : Fields) : Fields :=
  ({ f with d := o.d, c := fld (o.fn.code * 4 + o.ord.code), x := shByte .none o.ord.scope }).putAddr
    (wideCode o.wide) o.addr

def Fields.casOp (f : Fields) : Option CasOp := do
  let w ← wideOf (f.mod.val / 2)
  let (h, s) ← scopeHint f.x
  let o ← memOrd f.c.val s
  let ad ← f.recAddr
  ifOk (h == .none) { wide := w, ord := o, d := f.d, addr := ad }
def CasOp.put (o : CasOp) (f : Fields) : Fields :=
  ({ f with d := o.d, c := fld o.ord.code, x := shByte .none o.ord.scope }).putAddr (wideCode o.wide) o.addr

def Fields.aaccSrc (f : Fields) : Option AaccSrc :=
  match f.mod.val / 2 with
  | 0 => (finOf 16 f.d).map .la
  | 1 => some (.f32 f.d)
  | 2 => some (.b16 f.d)
  | 3 => some (.h16 f.d)
  | _ => none
def AaccSrc.kind : AaccSrc → Nat
  | .la _ => 0 | .f32 _ => 1 | .b16 _ => 2 | .h16 _ => 3
def AaccSrc.num : AaccSrc → Fin 256
  | .la r => fld r.val | .f32 r => r | .b16 r => r | .h16 r => r
def Fields.aaccOp (f : Fields) : Option AaccOp := do
  let src ← f.aaccSrc
  let (h, s) ← scopeHint f.x
  let o ← memOrd f.c.val s
  let ad ← f.recAddr
  ifOk (h == .none) { src := src, ord := o, addr := ad }
def AaccOp.put (o : AaccOp) (f : Fields) : Fields :=
  ({ f with d := o.src.num, c := fld o.ord.code, x := shByte .none o.ord.scope }).putAddr o.src.kind o.addr

def Fields.ldaccOp (f : Fields) : Option LdaccOp := do
  let d ← finOf 16 f.d
  let (h, s) ← scopeHint f.x
  let o ← memOrd f.c.val s
  let ad ← f.recAddr
  ifOk (h == .none && decide (f.mod.val / 2 < 2)) { zero := f.mod.val / 2 == 1, ord := o, d := d, addr := ad }
def LdaccOp.put (o : LdaccOp) (f : Fields) : Fields :=
  ({ f with d := fld o.d.val, c := fld o.ord.code, x := shByte .none o.ord.scope }).putAddr o.zero.toNat o.addr

def Fields.prefOp (f : Fields) : Option PrefOp := do
  let (h, s) ← scopeHint f.x
  let ad ← f.recAddr
  ifOk (s == .sq && decide (f.mod.val / 2 = 0) && f.d == 0 && f.c == 0) { hint := h, addr := ad }
def PrefOp.put (o : PrefOp) (f : Fields) : Fields := ({ f with x := shByte o.hint .sq }).putAddr 0 o.addr

def Fields.lineSel (f : Fields) : Option LineSel := do
  if f.d == 0 && f.c == 0 && f.x == 0 then
    match f.mod.val / 2 with
    | 0 => (finOf 64 f.b).map fun r => .line (VSReg.of (f.mod.val % 2) f.a) r
    | 1 => ifOk (f.a == 0 && f.b == 0 && f.mod.val % 2 == 0) .all
    | _ => none
  else none
def LineSel.put (o : LineSel) (f : Fields) : Fields :=
  match o with
  | .line i r => { f with a := i.num, b := fld r.val, mod := modf i.bit }
  | .all => { f with mod := 2 }

def Fields.scratchOp (f : Fields) : Option ScratchOp := do
  let w ← Width.ofCode (f.mod.val / 2)
  let off ← (match f.c.val with
    | 0 => some (OffSel.reg (VSReg.of (f.mod.val % 2) f.a))
    | 1 => ifOk (f.a == 0) (.zero (f.mod.val % 2 == 1))
    | _ => none)
  if f.b == 0 && f.x == 0 then
    match f.len with
    | .w2 => some { width := w, d := f.d, off := off, k := none }
    | .w3 => some { width := w, d := f.d, off := off, k := some f.e0 }
    | .w4 => none
  else none
def ScratchOp.put (o : ScratchOp) (f : Fields) : Fields :=
  let f := match o.off with
    | .reg r => { f with d := o.d, a := r.num, mod := modf (o.width.code * 2 + r.bit) }
    | .zero ix => { f with d := o.d, c := 1, mod := modf (o.width.code * 2 + ix.toNat) }
  match o.k with
  | none => f
  | some k => { f with len := .w3, e0 := k }

def Fields.fenceOp (f : Fields) : Option FenceOp := do
  let k ← FenceKind.ofCode f.mod.val
  let s ← Scope.ofCode f.x.val
  ifOk (f.d == 0 && f.a == 0 && f.b == 0 && f.c == 0) { kind := k, scope := s }
def FenceOp.put (o : FenceOp) (f : Fields) : Fields := { f with mod := modf o.kind.code, x := fld o.scope.code }

/-- CTL and E of a copy (R174): size in CTL[7:6], tag in CTL[5:0]. -/
def copyCtl (e0 : BitVec 32) : Option (CopySize × TagNum × RegNum) := do
  let ctl := e0.toNat / 2 ^ 8
  let sz ← CopySize.ofCode (ctl / 64)
  if h : ctl % 64 < 64 then some (sz, ⟨ctl % 64, h⟩, fld e0.toNat) else none
def copyE0 (sz : CopySize) (t : TagNum) (e : RegNum) : BitVec 32 :=
  BitVec.ofNat 32 (e.val + 2 ^ 8 * (sz.code * 64 + t.val))

/-- MOD of a copy (R174): MOD[1] for D, MOD[0] for A. -/
def Fields.copyRegs (f : Fields) : Option (VSReg × VSReg) :=
  ifOk (decide (f.mod.val < 4)) (VSReg.of (f.mod.val / 2) f.d, VSReg.of (f.mod.val % 2) f.a)

def Fields.copyOp (f : Fields) : Option CopyOp := do
  let (d, a) ← f.copyRegs
  let r ← finOf 64 f.b
  let (h, s) ← scopeHint f.x
  let (sz, t, e) ← copyCtl f.e0
  ifOk (f.c == 0 && s == .sq) { size := sz, hint := h, d := d, a := a, buf := r, e := e, tag := t }
def CopyOp.put (o : CopyOp) (f : Fields) : Fields :=
  { f with len := .w3, d := o.d.num, a := o.a.num, b := fld o.buf.val, x := shByte o.hint .sq,
           mod := modf (o.d.bit * 2 + o.a.bit), e0 := copyE0 o.size o.tag o.e }

def Fields.copyGGOp (f : Fields) : Option CopyGGOp := do
  let (d, a) ← f.copyRegs
  let dr ← finOf 64 f.b
  let sr ← finOf 64 f.c
  let (h, s) ← scopeHint f.x
  let (sz, t, e) ← copyCtl f.e0
  ifOk (s == .sq) { size := sz, hint := h, d := d, a := a, drec := dr, srec := sr, e := e, tag := t }
def CopyGGOp.put (o : CopyGGOp) (f : Fields) : Fields :=
  { f with len := .w3, d := o.d.num, a := o.a.num, b := fld o.drec.val, c := fld o.srec.val, x := shByte o.hint .sq,
           mod := modf (o.d.bit * 2 + o.a.bit), e0 := copyE0 o.size o.tag o.e }

/-- The tag set of R179, by MOD[1:0]. -/
def Fields.tagSet (f : Fields) : Option TagSet :=
  if f.b == 0 && f.c == 0 then
    match f.mod.val % 4 with
    | 0 => if f.a == 0 then (finOf 64 f.x).map .one else none
    | 1 => ifOk (f.x == 0) (.pair f.a)
    | 2 => ifOk (f.a == 0 && f.x == 0) .all
    | _ => none
  else none
def TagSet.put (t : TagSet) (hi : Nat) (f : Fields) : Fields :=
  match t with
  | .one n => { f with x := fld n.val, mod := modf (hi * 4) }
  | .pair s => { f with a := s, mod := modf (hi * 4 + 1) }
  | .all => { f with mod := modf (hi * 4 + 2) }
def Fields.tagWait (f : Fields) : Option TagSet := do
  let t ← f.tagSet
  ifOk (decide (f.mod.val < 4) && f.d == 0) t
def Fields.tagQuery (f : Fields) : Option TagQuery := do
  let t ← f.tagSet
  ifOk (decide (f.mod.val < 8)) { d := VSReg.of (f.mod.val / 4) f.d, set := t }
def TagQuery.put (o : TagQuery) (f : Fields) : Fields := o.set.put o.d.bit { f with d := o.d.num }

def Fields.recdOp (f : Fields) : Option RecdOp := do
  let d ← finOf 64 f.d
  let b ← finOf 64 f.b
  ifOk (f.mod == 0 && f.x == 0 && decide (f.c.val < 32))
    { d := d, b := b, a := f.a, drop := BitVec.ofNat 4 f.c.val, trap := f.c.val / 16 == 1 }
def RecdOp.put (o : RecdOp) (f : Fields) : Fields :=
  { f with d := fld o.d.val, b := fld o.b.val, a := o.a, c := fld (o.drop.toNat + 16 * o.trap.toNat) }

def Fields.recqOp (f : Fields) : Option RecqOp := do
  let b ← finOf 64 f.b
  let it ← RecItem.ofCode f.c.val
  ifOk (f.mod == 0 && f.a == 0 && f.x == 0) { d := f.d, b := b, item := it }
def RecqOp.put (o : RecqOp) (f : Fields) : Fields := { f with d := o.d, b := fld o.b.val, c := fld o.item.code }

/-! ### Long accumulators and tiles (R188, R196, R204) -/

def Fields.laOne (f : Fields) : Option LaNum := do
  let d ← finOf 16 f.d
  ifOk (f.mod == 0 && f.a == 0 && f.b == 0 && f.c == 0 && f.x == 0) d
def Fields.laPair (f : Fields) : Option LaPair := do
  let d ← finOf 16 f.d
  let a ← finOf 16 f.a
  ifOk (f.mod == 0 && f.b == 0 && f.c == 0 && f.x == 0) { d := d, a := a }
def LaPair.put (o : LaPair) (f : Fields) : Fields := { f with d := fld o.d.val, a := fld o.a.val }

def Fields.lfmaOp (f : Fields) : Option LfmaOp := do
  let d ← finOf 16 f.d
  let t ← TermTy.ofCode f.c.val
  ifOk (f.x == 0 && decide (f.mod.val < 2)) { ty := t, d := d, a := f.a, b := VSReg.of f.mod.val f.b }
def LfmaOp.put (o : LfmaOp) (f : Fields) : Fields :=
  { f with d := fld o.d.val, a := o.a, b := o.b.num, c := fld o.ty.code, mod := modf o.b.bit }

def Fields.laddOp (f : Fields) : Option LaddOp := do
  let d ← finOf 16 f.d
  let t ← TermTy.ofCode f.c.val
  ifOk (f.x == 0 && f.b == 0 && decide (f.mod.val < 2)) { ty := t, d := d, a := VSReg.of f.mod.val f.a }
def LaddOp.put (o : LaddOp) (f : Fields) : Fields :=
  { f with d := fld o.d.val, a := o.a.num, c := fld o.ty.code, mod := modf o.a.bit }

def Fields.lscaleOp (f : Fields) : Option LscaleOp := do
  let d ← finOf 16 f.d
  let a ← finOf 16 f.a
  if f.c == 0 then
    match f.mod.val with
    | 0 => ifOk (f.b == 0) { d := d, a := a, k := .imm (BitVec.ofFin f.x) }
    | 1 => ifOk (f.x == 0) { d := d, a := a, k := .sc f.b }
    | _ => none
  else none
def LscaleOp.put (o : LscaleOp) (f : Fields) : Fields :=
  match o.k with
  | .imm k => { f with d := fld o.d.val, a := fld o.a.val, x := k.toFin }
  | .sc r => { f with d := fld o.d.val, a := fld o.a.val, b := r, mod := 1 }

def Fields.lrndOp (f : Fields) : Option LrndOp := do
  let a ← finOf 16 f.a
  let t ← RndTy.ofCode f.c.val
  let m ← Mode.ofCode f.x.val
  ifOk (f.b == 0 && f.mod == 0) { ty := t, mode := m, d := f.d, a := a }
def LrndOp.put (o : LrndOp) (f : Fields) : Fields :=
  { f with d := o.d, a := fld o.a.val, c := fld o.ty.code, x := fld o.mode.code }

def Fields.lquoOp (f : Fields) : Option LquoOp := do
  let a ← finOf 16 f.a
  let b ← finOf 16 f.b
  let t ← RndTy.ofCode f.c.val
  let m ← Mode.ofCode f.x.val
  ifOk (f.mod == 0) { ty := t, mode := m, d := f.d, a := a, b := b }
def LquoOp.put (o : LquoOp) (f : Fields) : Fields :=
  { f with d := o.d, a := fld o.a.val, b := fld o.b.val, c := fld o.ty.code, x := fld o.mode.code }

/-- MOD[0] is G and MOD[1] is IX (R188). -/
def Fields.spillAddr (f : Fields) : Option SpillAddr := do
  if f.c == 0 && decide (f.mod.val < 4) then
    if f.mod.val % 2 = 0 then ifOk (f.b == 0) { a := VSReg.of (f.mod.val / 2) f.a, buf := none, k := BitVec.ofFin f.x }
    else (finOf 64 f.b).map fun r => { a := VSReg.of (f.mod.val / 2) f.a, buf := some r, k := BitVec.ofFin f.x }
  else none
def SpillAddr.put (o : SpillAddr) (f : Fields) : Fields :=
  match o.buf with
  | none => { f with a := o.a.num, x := o.k.toFin, mod := modf (o.a.bit * 2) }
  | some r => { f with a := o.a.num, b := fld r.val, x := o.k.toFin, mod := modf (o.a.bit * 2 + 1) }

def Fields.lmemOp (f : Fields) : Option LmemOp := do
  let d ← finOf 16 f.d
  let ad ← f.spillAddr
  some { la := d, addr := ad }
def LmemOp.put (o : LmemOp) (f : Fields) : Fields := o.addr.put { f with d := fld o.la.val }

def Fields.mmemOp (f : Fields) : Option MmemOp := do
  let d ← finOf 8 f.d
  let ad ← f.spillAddr
  some { ta := d, addr := ad }
def MmemOp.put (o : MmemOp) (f : Fields) : Fields := o.addr.put { f with d := fld o.ta.val }

/-- The matrix extension (R73): FA, FB, WIN, TILE in the low word, MREG and MEN in bits [88:80], all else 0. -/
structure MatExt where
  fa : FmtNum
  fb : FmtNum
  win : WinNum
  ta : TaNum
  m : Option RegNum
  deriving DecidableEq, Repr

def Fields.matExt (f : Fields) : Option MatExt :=
  let n := f.e0.toNat
  let fa := n % 16; let fb := n / 16 % 16; let w := n / 256 % 16; let t := n / 4096 % 16
  let mreg := n / 65536 % 256; let men := n / 2 ^ 24
  if h : fa < 8 ∧ fb < 8 ∧ w < 8 ∧ t < 8 then
    if f.e1 == 0 then
      match men with
      | 0 => ifOk (mreg == 0) { fa := ⟨fa, h.1⟩, fb := ⟨fb, h.2.1⟩, win := ⟨w, h.2.2.1⟩, ta := ⟨t, h.2.2.2⟩, m := none }
      | 1 => some { fa := ⟨fa, h.1⟩, fb := ⟨fb, h.2.1⟩, win := ⟨w, h.2.2.1⟩, ta := ⟨t, h.2.2.2⟩, m := some (fld mreg) }
      | _ => none
    else none
  else none
def MatExt.word (o : MatExt) : BitVec 32 :=
  BitVec.ofNat 32 (o.fa.val + 16 * o.fb.val + 256 * o.win.val + 4096 * o.ta.val +
    (match o.m with
     | none => 0
     | some r => 65536 * r.val + 2 ^ 24))

def Fields.matHead (f : Fields) : Bool := f.x == 0 && f.c == 0 && f.d == 0 && decide (f.mod.val < 2)

def Fields.mmaOp (f : Fields) : Option MmaOp := do
  let e ← f.matExt
  ifOk f.matHead { col := f.mod.val == 1, ta := e.ta, fa := e.fa, fb := e.fb, win := e.win, a := f.a, b := f.b, m := e.m }
def MmaOp.put (o : MmaOp) (f : Fields) : Fields :=
  { f with len := .w4, a := o.a, b := o.b, mod := modf o.col.toNat,
           e0 := MatExt.word { fa := o.fa, fb := o.fb, win := o.win, ta := o.ta, m := o.m } }

def Fields.mselOp (f : Fields) : Option MselOp := do
  let e ← f.matExt
  ifOk (f.matHead && e.fb == 0 && e.m == none)
    { col := f.mod.val == 1, ta := e.ta, fa := e.fa, win := e.win, a := f.a, b := f.b }
def MselOp.put (o : MselOp) (f : Fields) : Fields :=
  { f with len := .w4, a := o.a, b := o.b, mod := modf o.col.toNat,
           e0 := MatExt.word { fa := o.fa, fb := 0, win := o.win, ta := o.ta, m := none } }

def Fields.taOne (f : Fields) : Option TaNum := do
  let d ← finOf 8 f.d
  ifOk (f.mod == 0 && f.a == 0 && f.b == 0 && f.c == 0 && f.x == 0) d
def Fields.taPair (f : Fields) : Option TaPair := do
  let d ← finOf 8 f.d
  let a ← finOf 8 f.a
  ifOk (f.mod == 0 && f.b == 0 && f.c == 0 && f.x == 0) { d := d, a := a }
def TaPair.put (o : TaPair) (f : Fields) : Fields := { f with d := fld o.d.val, a := fld o.a.val }

def Fields.mrndOp (f : Fields) : Option MrndOp := do
  let a ← finOf 8 f.a
  let t ← RndTy.ofCode f.c.val
  let m ← Mode.ofCode f.x.val
  ifOk (f.b == 0 && f.mod == 0) { ty := t, mode := m, d := f.d, a := a }
def MrndOp.put (o : MrndOp) (f : Fields) : Fields :=
  { f with d := o.d, a := fld o.a.val, c := fld o.ty.code, x := fld o.mode.code }

def Fields.mquoOp (f : Fields) : Option MquoOp := do
  let a ← finOf 8 f.a
  let b ← finOf 16 f.b
  let t ← RndTy.ofCode f.c.val
  let m ← Mode.ofCode f.x.val
  ifOk (f.mod == 0) { ty := t, mode := m, d := f.d, a := a, b := b }
def MquoOp.put (o : MquoOp) (f : Fields) : Fields :=
  { f with d := o.d, a := fld o.a.val, b := fld o.b.val, c := fld o.ty.code, x := fld o.mode.code }

/-! ### Control and system (R127), MFS and MTS (R30) -/

/-- Nothing but opcode and guards. -/
def Fields.bare (f : Fields) : Bool :=
  f.mod == 0 && f.d == 0 && f.a == 0 && f.b == 0 && f.c == 0 && f.x == 0

/-- A target register in A, selected by MOD[0] (JMPI, RET); CALLI adds the link in D. -/
def Fields.target (f : Fields) : Option VSReg :=
  ifOk (decide (f.mod.val < 2) && f.b == 0 && f.c == 0 && f.x == 0) (VSReg.of f.mod.val f.a)
def Fields.putTarget (f : Fields) (r : VSReg) : Fields := { f with a := r.num, mod := modf r.bit }

def Fields.jtblOp (f : Fields) : Option JtblOp :=
  ifOk (decide (f.mod.val < 2) && f.d == 0 && f.b == 0 && f.c == 0)
    { idx := VSReg.of f.mod.val f.a, entries := f.x, table := f.e0 }
def JtblOp.put (o : JtblOp) (f : Fields) : Fields :=
  { f with len := .w3, a := o.idx.num, mod := modf o.idx.bit, x := o.entries, e0 := o.table }

def Fields.repOp (f : Fields) : Option RepOp :=
  if f.d == 0 && decide (f.c.val < 16) then
    match f.mod.val with
    | 0 => ifOk (f.a == 0) { count := .imm f.x, stride := f.b, mask := BitVec.ofNat 4 f.c.val }
    | 1 => ifOk (f.x == 0) { count := .sc f.a, stride := f.b, mask := BitVec.ofNat 4 f.c.val }
    | _ => none
  else none
def RepOp.put (o : RepOp) (f : Fields) : Fields :=
  match o.count with
  | .imm n => { f with x := n, b := o.stride, c := fld o.mask.toNat }
  | .sc r => { f with a := r, b := o.stride, c := fld o.mask.toNat, mod := 1 }

/-- TRAP and BKPT: the code in X. -/
def Fields.codeX (f : Fields) : Option (BitVec 8) :=
  ifOk (f.mod == 0 && f.d == 0 && f.a == 0 && f.b == 0 && f.c == 0) (BitVec.ofFin f.x)

/-- BAR, BARA and BARW: the scope in X, HINT 0, unguarded. -/
def Fields.barScope (f : Fields) : Option Scope := do
  let s ← Scope.ofCode f.x.val
  ifOk (f.unguarded && f.mod == 0 && f.d == 0 && f.a == 0 && f.b == 0 && f.c == 0) s

/-- VSHRINK and VGROW: n / 8 in X. -/
def Fields.allot (f : Fields) : Option (Fin 33) := do
  let n ← finOf 33 f.x
  ifOk (f.mod == 0 && f.d == 0 && f.a == 0 && f.b == 0 && f.c == 0) n

def Fields.lnchOp (f : Fields) : Option LnchOp :=
  if f.mod == 0 && f.c == 0 then
    match f.x.val with
    | 4 => some { sys := false, d := f.d, a := f.a, n := f.b }
    | 5 => some { sys := true, d := f.d, a := f.a, n := f.b }
    | _ => none
  else none
def LnchOp.put (o : LnchOp) (f : Fields) : Fields :=
  { f with d := o.d, a := o.a, b := o.n, x := fld (if o.sys then 5 else 4) }

def Fields.mgmtOp (f : Fields) : Option MgmtOp :=
  ifOk (f.mod == 0 && f.b == 0 && f.c == 0) { d := f.d, a := f.a, code := BitVec.ofFin f.x }
def MgmtOp.put (o : MgmtOp) (f : Fields) : Fields := { f with d := o.d, a := o.a, x := o.code.toFin }

/-- Item and index of R149. -/
def CtxItem.codes : CtxItem → Nat × Nat
  | .msdepth => (0x00, 0) | .msaddr e => (0x01, e.val) | .msmask e => (0x02, e.val) | .msmaskh e => (0x03, e.val)
  | .repcnt => (0x08, 0) | .repcfg => (0x09, 0) | .wait => (0x0A, 0) | .nbrcnt => (0x0B, 0) | .nbroff => (0x0C, 0)
  | .nbroffh => (0x0D, 0) | .barst s => (0x10, s.val) | .barcnt s => (0x11, s.val) | .bargen s => (0x12, s.val)
  | .tagcnt t => (0x18, t.val) | .innpos => (0x19, 0)
def CtxItem.ofCodes (item : Nat) (c : Fin 256) : Option CtxItem :=
  match item with
  | 0x00 => ifOk (c == 0) .msdepth
  | 0x01 => (finOf 8 c).map .msaddr
  | 0x02 => (finOf 8 c).map .msmask
  | 0x03 => (finOf 8 c).map .msmaskh
  | 0x08 => ifOk (c == 0) .repcnt
  | 0x09 => ifOk (c == 0) .repcfg
  | 0x0A => ifOk (c == 0) .wait
  | 0x0B => ifOk (c == 0) .nbrcnt
  | 0x0C => ifOk (c == 0) .nbroff
  | 0x0D => ifOk (c == 0) .nbroffh
  | 0x10 => (finOf 5 c).map .barst
  | 0x11 => (finOf 5 c).map .barcnt
  | 0x12 => (finOf 5 c).map .bargen
  | 0x18 => (finOf 64 c).map .tagcnt
  | 0x19 => ifOk (c == 0) .innpos
  | _ => none

def Fields.ctxrdOp (f : Fields) : Option CtxOp := do
  let it ← CtxItem.ofCodes f.x.val f.c
  ifOk (decide (f.mod.val < 2) && f.a == 0 && f.b == 0) { r := VSReg.of f.mod.val f.d, item := it }
def CtxOp.putRd (o : CtxOp) (f : Fields) : Fields :=
  { f with d := o.r.num, mod := modf o.r.bit, x := fld o.item.codes.1, c := fld o.item.codes.2 }
def Fields.ctxwrOp (f : Fields) : Option CtxOp := do
  let it ← CtxItem.ofCodes f.x.val f.c
  ifOk (decide (f.mod.val < 2) && f.d == 0 && f.b == 0) { r := VSReg.of f.mod.val f.a, item := it }
def CtxOp.putWr (o : CtxOp) (f : Fields) : Fields :=
  { f with a := o.r.num, mod := modf o.r.bit, x := fld o.item.codes.1, c := fld o.item.codes.2 }

def Fields.mfsOp (f : Fields) : Option MfsOp := do
  let sr ← Special.ofCode f.a.val
  ifOk (decide (f.mod.val < 4) && f.b == 0 && f.c == 0 && f.x == 0)
    { w := f.mod.val / 2 == 1, d := VSReg.of (f.mod.val % 2) f.d, sr := sr }
def MfsOp.put (o : MfsOp) (f : Fields) : Fields :=
  { f with d := o.d.num, a := fld o.sr.code, mod := modf (2 * o.w.toNat + o.d.bit) }
def Fields.mtsOp (f : Fields) : Option MtsOp := do
  let sr ← Special.ofCode f.d.val
  ifOk (decide (f.mod.val < 2) && f.b == 0 && f.c == 0 && f.x == 0) { sr := sr, src := VSReg.of f.mod.val f.a }
def MtsOp.put (o : MtsOp) (f : Fields) : Fields :=
  { f with d := fld o.sr.code, a := o.src.num, mod := modf o.src.bit }

/-! ## The opcode map (R76, R77) -/

/-- The lengths an assigned opcode accepts; `none` for the 883 unassigned codes. -/
def opLens (op : Nat) : Option (List Len) :=
  if 0x000 ≤ op ∧ op ≤ 0x01E then some [.w2, .w3, .w4] else
  if 0x020 ≤ op ∧ op ≤ 0x023 then some [.w2] else
  if 0x100 ≤ op ∧ op ≤ 0x10C then some [.w2, .w3, .w4] else
  if 0x140 ≤ op ∧ op ≤ 0x149 then some [.w2] else
  if 0x180 ≤ op ∧ op ≤ 0x183 then some [.w2] else
  if 0x1C0 ≤ op ∧ op ≤ 0x1C7 then some [.w2] else
  if 0x200 ≤ op ∧ op ≤ 0x203 then some [.w2, .w3] else
  if 0x204 ≤ op ∧ op ≤ 0x204 then some [.w3] else
  if 0x205 ≤ op ∧ op ≤ 0x208 then some [.w2, .w3] else
  if 0x209 ≤ op ∧ op ≤ 0x209 then some [.w2] else
  if 0x20A ≤ op ∧ op ≤ 0x20C then some [.w3] else
  if 0x20D ≤ op ∧ op ≤ 0x212 then some [.w2] else
  if 0x213 ≤ op ∧ op ≤ 0x213 then some [.w2, .w3] else
  if 0x214 ≤ op ∧ op ≤ 0x215 then some [.w2] else
  if 0x280 ≤ op ∧ op ≤ 0x28C then some [.w2] else
  if 0x2A0 ≤ op ∧ op ≤ 0x2A0 then some [.w2] else
  if 0x2A1 ≤ op ∧ op ≤ 0x2A3 then some [.w4] else
  if 0x2A4 ≤ op ∧ op ≤ 0x2A8 then some [.w2] else
  if 0x300 ≤ op ∧ op ≤ 0x301 then some [.w2] else
  if 0x302 ≤ op ∧ op ≤ 0x302 then some [.w3] else
  if 0x303 ≤ op ∧ op ≤ 0x318 then some [.w2] else
  if 0x380 ≤ op ∧ op ≤ 0x381 then some [.w2] else
  none

/-- Opcodes 0x000 to 0x01F. -/
def parseInt (f : Fields) : Option Instr :=
  match f.op.val with
  | 0x000 => f.intBin.map (.iadd f.guards)
  | 0x001 => f.intBin.map (.isub f.guards)
  | 0x002 => f.intBin.map (.imul f.guards)
  | 0x003 => f.intBin.map (.imulh f.guards)
  | 0x004 => f.intTri.map (.imad f.guards)
  | 0x005 => f.intBin.map (.idiv f.guards)
  | 0x006 => f.intBin.map (.irem f.guards)
  | 0x007 => f.intBin.map (.imin f.guards)
  | 0x008 => f.intBin.map (.imax f.guards)
  | 0x009 => f.intUn.map (.iabs f.guards)
  | 0x00A => f.intUn.map (.ineg f.guards)
  | 0x00B => f.intBin.map (.shl f.guards)
  | 0x00C => f.intBin.map (.shr f.guards)
  | 0x00D => f.intBin.map (.sar f.guards)
  | 0x00E => f.intBin.map (.rotl f.guards)
  | 0x00F => f.intBin.map (.rotr f.guards)
  | 0x010 => f.intBin.map (.bfx f.guards)
  | 0x011 => f.intTri.map (.bfi f.guards)
  | 0x012 => f.intUn.map (.popc f.guards)
  | 0x013 => f.intUn.map (.clz f.guards)
  | 0x014 => f.intUn.map (.ctz f.guards)
  | 0x015 => f.intUn.map (.brev f.guards)
  | 0x016 => f.intBin.map (.andb f.guards)
  | 0x017 => f.intBin.map (.orb f.guards)
  | 0x018 => f.intBin.map (.xorb f.guards)
  | 0x019 => f.intUn.map (.notb f.guards)
  | 0x01A => f.intBin.map (.andn f.guards)
  | 0x01B => f.selOp.map (.sel f.guards)
  | 0x01C => f.icmpOp.map (.icmp f.guards)
  | 0x01D => f.mov.map (.mov f.guards)
  | 0x01E => f.lea.map (.lea f.guards)
  | _ => none

/-- Opcodes 0x020 to 0x023. -/
def parsePred (f : Fields) : Option Instr :=
  match f.op.val with
  | 0x020 => f.predBin.map (.pand f.guards)
  | 0x021 => f.predBin.map (.por f.guards)
  | 0x022 => f.predBin.map (.pxor f.guards)
  | 0x023 => f.predUn.map (.pnot f.guards)
  | _ => none

/-- Opcodes 0x100 to 0x14F. -/
def parseFloat (f : Fields) : Option Instr :=
  match f.op.val with
  | 0x100 => f.floatBin.map (.fadd f.guards)
  | 0x101 => f.floatBin.map (.fsub f.guards)
  | 0x102 => f.floatBin.map (.fmul f.guards)
  | 0x103 => f.floatTri.map (.ffma f.guards)
  | 0x104 => f.floatSel.map (.fmin f.guards)
  | 0x105 => f.floatSel.map (.fmax f.guards)
  | 0x106 => f.floatUn.map (.fabs f.guards)
  | 0x107 => f.floatUn.map (.fneg f.guards)
  | 0x108 => f.fcmpOp.map (.fcmp f.guards)
  | 0x109 => f.floatUn.map (.fclass f.guards)
  | 0x10A => f.frintOp.map (.frint f.guards)
  | 0x10B => f.floatBin.map (.fldexp f.guards)
  | 0x10C => f.floatSel.map (.fcopysign f.guards)
  | 0x140 => f.floatUn.map (.fexp f.guards)
  | 0x141 => f.floatUn.map (.fexp2 f.guards)
  | 0x142 => f.floatUn.map (.flog2 f.guards)
  | 0x143 => f.floatUn.map (.frcp f.guards)
  | 0x144 => f.floatUn.map (.frsq f.guards)
  | 0x145 => f.floatUn.map (.fsqrt f.guards)
  | 0x146 => f.floatSel.map (.fdiv f.guards)
  | 0x147 => f.floatUn.map (.fsin f.guards)
  | 0x148 => f.floatUn.map (.fcos f.guards)
  | 0x149 => f.floatUn.map (.ftanh f.guards)
  | _ => none

/-- Opcodes 0x180 to 0x1C7. -/
def parseConv (f : Fields) : Option Instr :=
  match f.op.val with
  | 0x180 => f.cvtOp.map (.cvt f.guards)
  | 0x181 => f.cvtqOp.map (.cvtq f.guards)
  | 0x182 => f.cvtxOp.map (.cvtx f.guards)
  | 0x183 => f.randOp.map (.rand f.guards)
  | 0x1C0 => f.permOp.map (.perm f.guards)
  | 0x1C1 => f.bcastOp.map (.bcast f.guards)
  | 0x1C2 => f.laneShift.map (.shup f.guards)
  | 0x1C3 => f.laneShift.map (.shdn f.guards)
  | 0x1C4 => f.voteOp.map (.vote f.guards)
  | 0x1C5 => f.laneOp.map (.matchLanes f.guards)
  | 0x1C6 => f.laneOp.map (.nbrl f.guards)
  | 0x1C7 => f.laneOp.map (.nbrr f.guards)
  | _ => none

/-- Opcodes 0x200 to 0x215. -/
def parseMem (f : Fields) : Option Instr :=
  match f.op.val with
  | 0x200 => f.memOp.map (.ld f.guards)
  | 0x201 => f.memOp.map (.st f.guards)
  | 0x202 => f.scratchOp.map (.lds f.guards)
  | 0x203 => f.scratchOp.map (.sts f.guards)
  | 0x204 => f.passOp.map (.stPass f.guards)
  | 0x205 => f.atomOp.map (.atom f.guards)
  | 0x206 => f.casOp.map (.cas f.guards)
  | 0x207 => f.aaccOp.map (.aacc f.guards)
  | 0x208 => f.ldaccOp.map (.ldacc f.guards)
  | 0x209 => f.fenceOp.map (.fence f.guards)
  | 0x20A => f.copyOp.map (.cpyGs f.guards)
  | 0x20B => f.copyOp.map (.cpySg f.guards)
  | 0x20C => f.copyGGOp.map (.cpyGg f.guards)
  | 0x20D => f.tagWait.map (.waitall f.guards)
  | 0x20E => f.tagQuery.map (.waitany f.guards)
  | 0x20F => f.tagQuery.map (.tagff f.guards)
  | 0x210 => f.tagWait.map (.tagclr f.guards)
  | 0x211 => f.recdOp.map (.recd f.guards)
  | 0x212 => f.recqOp.map (.recq f.guards)
  | 0x213 => f.prefOp.map (.pref f.guards)
  | 0x214 => f.lineSel.map (.flush f.guards)
  | 0x215 => f.lineSel.map (.inv f.guards)
  | _ => none

/-- Opcodes 0x280 to 0x2A8. -/
def parseAcc (f : Fields) : Option Instr :=
  match f.op.val with
  | 0x280 => f.laOne.map (.lzero f.guards)
  | 0x281 => f.laPair.map (.lmov f.guards)
  | 0x282 => f.lfmaOp.map (.lfma f.guards)
  | 0x283 => f.laddOp.map (.ladd f.guards)
  | 0x284 => f.laPair.map (.ladda f.guards)
  | 0x285 => f.laPair.map (.lneg f.guards)
  | 0x286 => f.lscaleOp.map (.lscale f.guards)
  | 0x287 => f.laPair.map (.lnorm f.guards)
  | 0x288 => f.lrndOp.map (.lrnd f.guards)
  | 0x289 => f.lquoOp.map (.lquo f.guards)
  | 0x28A => f.lmemOp.map (.lload f.guards)
  | 0x28B => f.lmemOp.map (.lstore f.guards)
  | 0x28C => f.laPair.map (.lxadd f.guards)
  | 0x2A0 => f.taOne.map (.mzero f.guards)
  | 0x2A1 => f.mmaOp.map (.mma f.guards)
  | 0x2A2 => f.mmaOp.map (.mmas f.guards)
  | 0x2A3 => f.mselOp.map (.msel f.guards)
  | 0x2A4 => f.taPair.map (.maddt f.guards)
  | 0x2A5 => f.mrndOp.map (.mrnd f.guards)
  | 0x2A6 => f.mquoOp.map (.mquo f.guards)
  | 0x2A7 => f.mmemOp.map (.mspill f.guards)
  | 0x2A8 => f.mmemOp.map (.mfill f.guards)
  | _ => none

/-- Opcodes 0x300 to 0x318. -/
def parseCtl (f : Fields) : Option Instr :=
  match f.op.val with
  | 0x300 => ifOk (f.mod == 0 && f.d == 0) (.bra f.guards f.off)
  | 0x301 => if f.d == 0 then f.target.map (.jmpi f.guards) else none
  | 0x302 => f.jtblOp.map (.jtbl f.guards)
  | 0x303 => ifOk (f.mod == 0) (.call f.guards f.d f.off)
  | 0x304 => f.target.map (.calli f.guards f.d)
  | 0x305 => if f.d == 0 then f.target.map (.ret f.guards) else none
  | 0x306 => ifOk (f.unguarded && f.mod == 0 && f.d == 0) (.mark f.off)
  | 0x307 => ifOk (f.unguarded && f.bare) .join
  | 0x308 => ifOk f.bare (.yield f.guards)
  | 0x309 => ifOk f.bare (.exit f.guards)
  | 0x30A => ifOk f.bare (.nop f.guards)
  | 0x30B => f.repOp.map (.rep f.guards)
  | 0x30C => f.codeX.map (.trap f.guards)
  | 0x30D => f.codeX.map (.bkpt f.guards)
  | 0x30E => ifOk (f.unguarded && f.bare) .tret
  | 0x30F => f.barScope.map .bar
  | 0x310 => f.barScope.map .bara
  | 0x311 => f.barScope.map .barw
  | 0x312 => ifOk f.bare (.innend f.guards)
  | 0x313 => f.allot.map (.vshrink f.guards)
  | 0x314 => f.allot.map (.vgrow f.guards)
  | 0x315 => f.lnchOp.map (.lnch f.guards)
  | 0x316 => f.mgmtOp.map (.mgmt f.guards)
  | 0x317 => f.ctxrdOp.map (.ctxrd f.guards)
  | 0x318 => f.ctxwrOp.map (.ctxwr f.guards)
  | _ => none

/-- Opcodes 0x380 to 0x381. -/
def parseSpec (f : Fields) : Option Instr :=
  match f.op.val with
  | 0x380 => f.mfsOp.map (.mfs f.guards)
  | 0x381 => f.mtsOp.map (.mts f.guards)
  | _ => none

/-- The instruction that the fields of an assigned opcode hold, step 4 of R66 short of `Instr.wf`. -/
def parse (f : Fields) : Option Instr :=
  if f.op.val ≤ 0x01F then parseInt f else
  if f.op.val ≤ 0x023 then parsePred f else
  if f.op.val ≤ 0x14F then parseFloat f else
  if f.op.val ≤ 0x1C7 then parseConv f else
  if f.op.val ≤ 0x215 then parseMem f else
  if f.op.val ≤ 0x2A8 then parseAcc f else
  if f.op.val ≤ 0x318 then parseCtl f else
  parseSpec f

/-- The fields of a core instruction; an event has none. -/
def Instr.fields (i : Instr) : Option Fields :=
  match i with
  | .iadd g o => some (o.put (Fields.base 0x000 g))
  | .isub g o => some (o.put (Fields.base 0x001 g))
  | .imul g o => some (o.put (Fields.base 0x002 g))
  | .imulh g o => some (o.put (Fields.base 0x003 g))
  | .imad g o => some (o.put (Fields.base 0x004 g))
  | .idiv g o => some (o.put (Fields.base 0x005 g))
  | .irem g o => some (o.put (Fields.base 0x006 g))
  | .imin g o => some (o.put (Fields.base 0x007 g))
  | .imax g o => some (o.put (Fields.base 0x008 g))
  | .iabs g o => some (o.put (Fields.base 0x009 g))
  | .ineg g o => some (o.put (Fields.base 0x00A g))
  | .shl g o => some (o.put (Fields.base 0x00B g))
  | .shr g o => some (o.put (Fields.base 0x00C g))
  | .sar g o => some (o.put (Fields.base 0x00D g))
  | .rotl g o => some (o.put (Fields.base 0x00E g))
  | .rotr g o => some (o.put (Fields.base 0x00F g))
  | .bfx g o => some (o.put (Fields.base 0x010 g))
  | .bfi g o => some (o.put (Fields.base 0x011 g))
  | .popc g o => some (o.put (Fields.base 0x012 g))
  | .clz g o => some (o.put (Fields.base 0x013 g))
  | .ctz g o => some (o.put (Fields.base 0x014 g))
  | .brev g o => some (o.put (Fields.base 0x015 g))
  | .andb g o => some (o.put (Fields.base 0x016 g))
  | .orb g o => some (o.put (Fields.base 0x017 g))
  | .xorb g o => some (o.put (Fields.base 0x018 g))
  | .notb g o => some (o.put (Fields.base 0x019 g))
  | .andn g o => some (o.put (Fields.base 0x01A g))
  | .sel g o => some (o.put (Fields.base 0x01B g))
  | .icmp g o => some (o.put (Fields.base 0x01C g))
  | .mov g o => some (o.put (Fields.base 0x01D g))
  | .lea g o => some (o.put (Fields.base 0x01E g))
  | .pand g o => some (o.put (Fields.base 0x020 g))
  | .por g o => some (o.put (Fields.base 0x021 g))
  | .pxor g o => some (o.put (Fields.base 0x022 g))
  | .pnot g o => some (o.put (Fields.base 0x023 g))
  | .fadd g o => some (o.put (Fields.base 0x100 g))
  | .fsub g o => some (o.put (Fields.base 0x101 g))
  | .fmul g o => some (o.put (Fields.base 0x102 g))
  | .ffma g o => some (o.put (Fields.base 0x103 g))
  | .fmin g o => some (o.put (Fields.base 0x104 g))
  | .fmax g o => some (o.put (Fields.base 0x105 g))
  | .fabs g o => some (o.put (Fields.base 0x106 g))
  | .fneg g o => some (o.put (Fields.base 0x107 g))
  | .fcmp g o => some (o.put (Fields.base 0x108 g))
  | .fclass g o => some (o.put (Fields.base 0x109 g))
  | .frint g o => some (o.put (Fields.base 0x10A g))
  | .fldexp g o => some (o.put (Fields.base 0x10B g))
  | .fcopysign g o => some (o.put (Fields.base 0x10C g))
  | .fexp g o => some (o.put (Fields.base 0x140 g))
  | .fexp2 g o => some (o.put (Fields.base 0x141 g))
  | .flog2 g o => some (o.put (Fields.base 0x142 g))
  | .frcp g o => some (o.put (Fields.base 0x143 g))
  | .frsq g o => some (o.put (Fields.base 0x144 g))
  | .fsqrt g o => some (o.put (Fields.base 0x145 g))
  | .fdiv g o => some (o.put (Fields.base 0x146 g))
  | .fsin g o => some (o.put (Fields.base 0x147 g))
  | .fcos g o => some (o.put (Fields.base 0x148 g))
  | .ftanh g o => some (o.put (Fields.base 0x149 g))
  | .cvt g o => some (o.put (Fields.base 0x180 g))
  | .cvtq g o => some (o.put (Fields.base 0x181 g))
  | .cvtx g o => some (o.put (Fields.base 0x182 g))
  | .rand g o => some (o.put (Fields.base 0x183 g))
  | .perm g o => some (o.put (Fields.base 0x1C0 g))
  | .bcast g o => some (o.put (Fields.base 0x1C1 g))
  | .shup g o => some (o.put (Fields.base 0x1C2 g))
  | .shdn g o => some (o.put (Fields.base 0x1C3 g))
  | .vote g o => some (o.put (Fields.base 0x1C4 g))
  | .matchLanes g o => some (o.put (Fields.base 0x1C5 g))
  | .nbrl g o => some (o.put (Fields.base 0x1C6 g))
  | .nbrr g o => some (o.put (Fields.base 0x1C7 g))
  | .ld g o => some (o.put (Fields.base 0x200 g))
  | .st g o => some (o.put (Fields.base 0x201 g))
  | .lds g o => some (o.put (Fields.base 0x202 g))
  | .sts g o => some (o.put (Fields.base 0x203 g))
  | .stPass g o => some (o.put (Fields.base 0x204 g))
  | .atom g o => some (o.put (Fields.base 0x205 g))
  | .cas g o => some (o.put (Fields.base 0x206 g))
  | .aacc g o => some (o.put (Fields.base 0x207 g))
  | .ldacc g o => some (o.put (Fields.base 0x208 g))
  | .fence g o => some (o.put (Fields.base 0x209 g))
  | .cpyGs g o => some (o.put (Fields.base 0x20A g))
  | .cpySg g o => some (o.put (Fields.base 0x20B g))
  | .cpyGg g o => some (o.put (Fields.base 0x20C g))
  | .waitall g o => some (o.put 0 (Fields.base 0x20D g))
  | .waitany g o => some (o.put (Fields.base 0x20E g))
  | .tagff g o => some (o.put (Fields.base 0x20F g))
  | .tagclr g o => some (o.put 0 (Fields.base 0x210 g))
  | .recd g o => some (o.put (Fields.base 0x211 g))
  | .recq g o => some (o.put (Fields.base 0x212 g))
  | .pref g o => some (o.put (Fields.base 0x213 g))
  | .flush g o => some (o.put (Fields.base 0x214 g))
  | .inv g o => some (o.put (Fields.base 0x215 g))
  | .lzero g o => some ({ Fields.base 0x280 g with d := fld o.val })
  | .lmov g o => some (o.put (Fields.base 0x281 g))
  | .lfma g o => some (o.put (Fields.base 0x282 g))
  | .ladd g o => some (o.put (Fields.base 0x283 g))
  | .ladda g o => some (o.put (Fields.base 0x284 g))
  | .lneg g o => some (o.put (Fields.base 0x285 g))
  | .lscale g o => some (o.put (Fields.base 0x286 g))
  | .lnorm g o => some (o.put (Fields.base 0x287 g))
  | .lrnd g o => some (o.put (Fields.base 0x288 g))
  | .lquo g o => some (o.put (Fields.base 0x289 g))
  | .lload g o => some (o.put (Fields.base 0x28A g))
  | .lstore g o => some (o.put (Fields.base 0x28B g))
  | .lxadd g o => some (o.put (Fields.base 0x28C g))
  | .mzero g o => some ({ Fields.base 0x2A0 g with d := fld o.val })
  | .mma g o => some (o.put (Fields.base 0x2A1 g))
  | .mmas g o => some (o.put (Fields.base 0x2A2 g))
  | .msel g o => some (o.put (Fields.base 0x2A3 g))
  | .maddt g o => some (o.put (Fields.base 0x2A4 g))
  | .mrnd g o => some (o.put (Fields.base 0x2A5 g))
  | .mquo g o => some (o.put (Fields.base 0x2A6 g))
  | .mspill g o => some (o.put (Fields.base 0x2A7 g))
  | .mfill g o => some (o.put (Fields.base 0x2A8 g))
  | .bra g off => some ((Fields.base 0x300 g).putOff off)
  | .jmpi g r => some ((Fields.base 0x301 g).putTarget r)
  | .jtbl g o => some (o.put (Fields.base 0x302 g))
  | .call g d off => some (({ Fields.base 0x303 g with d := d }).putOff off)
  | .calli g d r => some (({ Fields.base 0x304 g with d := d }).putTarget r)
  | .ret g r => some ((Fields.base 0x305 g).putTarget r)
  | .mark off => some ((Fields.base 0x306 .always).putOff off)
  | .join => some (Fields.base 0x307 .always)
  | .yield g => some (Fields.base 0x308 g)
  | .exit g => some (Fields.base 0x309 g)
  | .nop g => some (Fields.base 0x30A g)
  | .rep g o => some (o.put (Fields.base 0x30B g))
  | .trap g n => some ({ Fields.base 0x30C g with x := n.toFin })
  | .bkpt g n => some ({ Fields.base 0x30D g with x := n.toFin })
  | .tret => some (Fields.base 0x30E .always)
  | .bar s => some ({ Fields.base 0x30F .always with x := fld s.code })
  | .bara s => some ({ Fields.base 0x310 .always with x := fld s.code })
  | .barw s => some ({ Fields.base 0x311 .always with x := fld s.code })
  | .innend g => some (Fields.base 0x312 g)
  | .vshrink g n => some ({ Fields.base 0x313 g with x := fld n.val })
  | .vgrow g n => some ({ Fields.base 0x314 g with x := fld n.val })
  | .lnch g o => some (o.put (Fields.base 0x315 g))
  | .mgmt g o => some (o.put (Fields.base 0x316 g))
  | .ctxrd g o => some (o.putRd (Fields.base 0x317 g))
  | .ctxwr g o => some (o.putWr (Fields.base 0x318 g))
  | .mfs g o => some (o.put (Fields.base 0x380 g))
  | .mts g o => some (o.put (Fields.base 0x381 g))
  | .issueSlotService _ _ _ => none
  | .aging _ _ => none
  | .watchdog _ _ => none
  | .loadCompletion _ => none
  | .copyCompletion _ => none
  | .mgmtReply _ => none
  | .version _ => none
  | .setseed _ => none
  | .chainq _ => none
  | .leaseq _ => none
  | .notify _ => none
  | .unservedMgmtCode _ => none
  | .commit _ => none
  | .doorbell _ => none
  | .dequeue _ => none
  | .teamStart _ _ => none
  | .coreClean _ => none
  | .bind _ _ => none
  | .revoke _ => none
  | .suspend _ => none
  | .resume _ => none
  | .drainComplete _ => none
  | .remapRowWrite _ _ _ => none
  | .teamSwitch _ => none
  | .preemption _ => none
  | .teamRestore _ _ => none
  | .quantumExpiry _ => none
  | .contribution _ => none
  | .reg _ => none
  | .regack _ => none
  | .collect _ => none
  | .surr _ => none
  | .surrE _ => none
  | .noneMsg _ => none
  | .partialEviction _ _ => none
  | .gatherStart _ => none
  | .bowlContribution _ => none
  | .bowlEmission _ => none
  | .linkReplay _ _ => none
  | .passArrival _ => none
  | .passOutcome _ => none
  | .notificationToken _ => none
  | .directoryProbe _ => none
  | .probeAck _ => none
  | .pageWalk _ _ _ => none
  | .remoteWrite _ => none
  | .remoteWriteAck _ => none
  | .remoteRequest _ => none
  | .refusal _ _ => none
  | .retryResend _ => none
  | .hostSnoop _ _ => none
  | .hostStore _ _ => none
  | .classChange _ _ _ => none
  | .translationShootdown _ _ _ => none
  | .migration _ _ _ => none
  | .leaseGrant _ => none
  | .leaseRevocation _ _ => none
  | .collectiveDequeue _ => none
  | .send _ => none
  | .recv _ => none
  | .rrs _ => none
  | .copyStep _ => none
  | .waitStep _ => none
  | .loopb _ => none
  | .loope _ => none
  | .endStep _ => none
  | .collectiveMessage _ => none
  | .sendAcknowledgement _ => none
  | .doneMsg _ _ => none
  | .stall _ => none
  | .memberFailed _ _ => none
  | .benchReplay _ => none
  | .correctableError _ => none
  | .uncorrectableError _ => none
  | .pageRetire _ => none
  | .unitOutOfService _ => none
  | .unitRejoin _ => none
  | .unitLoss _ => none
  | .seed _ => none
  | .duty _ => none
  | .podid _ => none
  | .evqbase _ => none
  | .evqhead _ => none
  | .plim _ => none
  | .fwOpen _ => none
  | .fwPiece _ => none
  | .fwCommit _ => none
  | .bindw _ => none
  | .remapw _ => none
  | .chainw _ => none
  | .xlshoot _ => none
  | .classchg _ => none
  | .migdone _ => none
  | .memfail _ => none
  | .pwrite _ => none
  | .pcopy _ => none
  | .leasegr _ => none
  | .bkres _ => none
  | .registerWrite _ _ => none
  | .reset => none
  | .powerGood => none
  | .bootDone => none
  | .hardwareFaultHalt _ => none
  | .linkTrain _ _ => none
  | .portTraining _ _ => none
  | .portLoss _ => none
  | .powerLimitThrottle _ => none
  | .overtempThrottle => none
  | .overtempShutdown => none
  | .getVersion => none
  | .getCapabilities => none
  | .negotiateAlgorithms => none
  | .getDigests => none
  | .getCertificate _ => none
  | .challenge => none
  | .getMeasurements _ => none
  | .keyExchange => none
  | .finish => none
  | .ideKeyManagement => none
  | .preemptionWatchdog _ => none
  | .mcmdUnassignedOpcode _ => none
  | .powerLoss => none
  | .hostWriteAcknowledgement _ => none
  | .backInvalidationResponse _ => none
  | .chainDescriptorWrite _ _ => none
  | .homeSliceRequest _ _ => none

/-! ## Words and bytes (R59, R63) -/

/-- The first word. -/
def Fields.word0 (f : Fields) : Nat :=
  f.len.code + 2 ^ 2 * f.op.val + 2 ^ 12 * f.g1.val + 2 ^ 16 * f.g2.val + 2 ^ 20 * f.mod.val + 2 ^ 24 * f.d.val

/-- The second word. -/
def Fields.word1 (f : Fields) : Nat := f.a.val + 2 ^ 8 * f.b.val + 2 ^ 16 * f.c.val + 2 ^ 24 * f.x.val

/-- The words of an instruction, lowest address first. -/
def Fields.words (f : Fields) : List Word :=
  match f.len with
  | .w2 => [BitVec.ofNat 32 f.word0, BitVec.ofNat 32 f.word1]
  | .w3 => [BitVec.ofNat 32 f.word0, BitVec.ofNat 32 f.word1, f.e0]
  | .w4 => [BitVec.ofNat 32 f.word0, BitVec.ofNat 32 f.word1, f.e0, f.e1]

/-- LEN (R59): `none` is 0b00. -/
def lenOf (w : Word) : Option Len :=
  match w.toNat % 4 with
  | 1 => some .w2
  | 2 => some .w3
  | 3 => some .w4
  | _ => none

/-- The pad word (R60). -/
def padWord : Word := 0xFFFFFFFC

/-- The fields that four words hold; the words beyond the length are not looked at. -/
def Fields.ofWords (len : Len) (w0 w1 w2 w3 : Word) : Fields :=
  { len := len, op := Fin.ofNat 1024 (w0.toNat / 2 ^ 2), g1 := Fin.ofNat 16 (w0.toNat / 2 ^ 12),
    g2 := Fin.ofNat 16 (w0.toNat / 2 ^ 16), mod := Fin.ofNat 16 (w0.toNat / 2 ^ 20), d := fld (w0.toNat / 2 ^ 24),
    a := fld w1.toNat, b := fld (w1.toNat / 2 ^ 8), c := fld (w1.toNat / 2 ^ 16), x := fld (w1.toNat / 2 ^ 24),
    e0 := if len = .w2 then 0 else w2, e1 := if len = .w4 then w3 else 0 }

/-- The result of decoding. -/
inductive Decoded where
  | ok (i : Instr) (len : Len)
  | bad (e : DecodeError)
  deriving DecidableEq, Repr

/-- Decode the fields of an instruction: steps 3 and 4 of R66. -/
def decodeFields (f : Fields) : Decoded :=
  match opLens f.op.val with
  | none => .bad .unassigned
  | some ls =>
    if ls.contains f.len then
      match parse f with
      | none => .bad .badField
      | some i => if i.wf then .ok i f.len else .bad .badField
    else .bad .badLength

/-- Decode the four words at an instruction's address (a shorter instruction ignores the rest): steps 2 to 4 of R66. -/
def decodeWords (w0 w1 w2 w3 : Word) : Decoded :=
  match lenOf w0 with
  | none => .bad .notInstruction
  | some len => decodeFields (Fields.ofWords len w0 w1 w2 w3)

/-- Four bytes as a word, the lowest address first (R4). -/
def wordOfBytes (b0 b1 b2 b3 : Byte) : Word := b3 ++ b2 ++ b1 ++ b0

/-- The word at byte `n` of a list; bytes beyond its end count as 0. -/
def wordAt (bs : List Byte) (n : Nat) : Word :=
  wordOfBytes (bs.getD n 0) (bs.getD (n + 1) 0) (bs.getD (n + 2) 0) (bs.getD (n + 3) 0)

/-- Decode the instruction that a list of bytes begins with: total on any bytes. -/
def decode (bs : List Byte) : Decoded := decodeWords (wordAt bs 0) (wordAt bs 4) (wordAt bs 8) (wordAt bs 12)

/-- The bytes of a word in memory (R59: little-endian). -/
def bytesOfWord (w : Word) : List Byte :=
  [w.extractLsb' 0 8, w.extractLsb' 8 8, w.extractLsb' 16 8, w.extractLsb' 24 8]

/-- The words of an instruction; none for an event. -/
def encodeWords (i : Instr) : List Word :=
  match i.fields with
  | some f => f.words
  | none => []

/-- The bytes of an instruction as memory holds them; none for an event. -/
def encode (i : Instr) : List Byte := (encodeWords i).flatMap bytesOfWord

/-- The instruction that the decoder reads from the bits `w`, `nbits` of which the table gives, the first byte lowest. -/
def decodeTableWord (nbits w : Nat) : Option Instr :=
  let v := BitVec.ofNat 128 (w % 2 ^ nbits)
  match decodeWords (v.extractLsb' 0 32) (v.extractLsb' 32 32) (v.extractLsb' 64 32) (v.extractLsb' 96 32) with
  | .ok i _ => some i
  | .bad _ => none

end Sys2Proof
end

