-- ==== Sys2Proof/Machine/Space.lean ====
section
/-!
DEFINITION. The maps that the launch record and the tables have, physical memory, the page walk (spec/18 R364 to R368)
and the lease check (R369 to R372).
-/
namespace Sys2Proof.Machine

open Sys2Proof

/-! ## Fields of the launch record (spec/14 R288) -/

def Task.width (t : Task) : Nat := bitsNat t.rec0 215 7
def Task.warps (t : Task) : Nat := bitsNat t.rec0 222 7
def Task.tiles (t : Task) : Nat := bitsNat t.rec0 229 4
def Task.accs (t : Task) : Nat := bitsNat t.rec0 233 5
def Task.sregs (t : Task) : Nat := bitsNat t.rec0 238 9
def Task.vregs (t : Task) : Nat := bitsNat t.rec0 247 9
def Task.scratchUnits (t : Task) : Nat := bitsNat t.rec0 256 4
def Task.wdlog (t : Task) : Nat := bitsNat t.rec0 288 6
def Task.debug (t : Task) : Bool := bitAt t.rec0 294
def Task.linked (t : Task) : Bool := bitAt t.rec0 295
def Task.ordered (t : Task) : Bool := bitAt t.rec0 296
def Task.inningLen (t : Task) : Nat := bitsNat t.rec0 297 17
def Task.entry (t : Task) : Nat := bitsNat t.rec0 64 57
def Task.recTab (t : Task) : Nat := bitsNat t.rec0 128 57
def Task.gridSize (t : Task) : Nat := bitsNat t.rec0 192 17
/-- Format slot f`n` (R22). -/
def Task.fmt (t : Task) (n : Nat) : BitVec 128 := t.rec0.extractLsb' (1024 + 128 * n) 128
/-- Window record w`n` (R25). -/
def Task.win (t : Task) (n : Nat) : BitVec 256 := t.rec0.extractLsb' (2048 + 256 * n) 256
/-- Threads per team: T = 4 × Q × W (R123). -/
def Task.threads (t : Task) : Nat := 4 * t.warps * t.width
/-- Bytes of the scratchpad allocation. -/
def Task.scratchBytes (t : Task) : Nat := 65536 * t.scratchUnits
/-- Entries of a thread's inning-buffer share (spec/10 R241). -/
def Task.share (t : Task) : Nat := 4096 / t.threads

/-! ## Geometry (spec/00 R3, spec/01 R16) -/

/-- Squad, local warp and physical lane of a team-local thread (R16). -/
def squadOf (w tid : Nat) : Nat := tid / w % 4
def warpOf (w tid : Nat) : Nat := tid / w
def wlaneOf (w tid : Nat) : Nat := tid % w
def laneOf (w tid : Nat) : Nat := (tid / w / 4) % (64 / w) * w + tid % w
/-- The issue slot (lane group) of a thread (R306). -/
def slotOf (w tid : Nat) : Nat := (tid / w / 4) % (64 / w)
/-- Die, club and league of a physical core. -/
def dieOf (core : Nat) : Nat := core / 64
def clubOf (core : Nat) : Nat := core / 4
def leagueOf (core : Nat) : Nat := core / 16

/-! ## Free values -/

/-- The argument of the `k`-th free value that one step takes; the step then advances the counter. -/
def State.key (s : State) (k : Nat) : Nat := s.freeCtr * 2 ^ 32 + k
/-- The end of a step that changed something: its free values are used up, and blocked threads are tried again. -/
def State.tick (s : State) : State := { s with freeCtr := s.freeCtr + 1, blocked := [] }

/-! ## Physical memory -/

/-- The HBM of the device holds 1 TiB (R2). -/
def physLimit : Nat := 2 ^ 40

/-- The first byte of `n` bytes at `a` that the device does not have. -/
def physHole (a n : Nat) : Option Nat := if a + n ≤ physLimit then none else some (max a physLimit)

/-- The first byte of a place that does not exist in this device; the other spaces are not this device's. -/
def placeHole (p : Place) (n : Nat) : Option Nat :=
  match p.space with
  | .dev => physHole p.addr n
  | .host => none
  | .remote _ => none

/-- The bytes of one range laid over those of another, where the two meet. -/
def layOver (a : Nat) (bs : List Byte) (b : Nat) (data : List Byte) : List Byte :=
  ((List.range bs.length).zip bs).map fun (j, x) => if b ≤ a + j ∧ a + j < b + data.length then data.getD (a + j - b) x else x

/-- Host memory as this device sees it: the device's own writes that the host has not acknowledged lie over it (spec/17
R331, R355). -/
def State.hostBytes (s : State) (a n : Nat) : List Byte :=
  s.net.foldl (fun bs m => match m with
    | .hostWrite _ b data => layOver a bs b data
    | _ => bs) (Memory.bytes s.hostMem a n)

/-- The bytes at a place: this device's memory, the host's, or what another device answers (spec/17 R356: any value). -/
def State.readBytes (s : State) (p : Place) (n : Nat) : List Byte :=
  match p.space with
  | .dev => Memory.bytes s.mem p.addr n
  | .host => s.hostBytes p.addr n
  | .remote _ => (List.range n).map fun j => Config.freeByte (s.key 0) (p.addr + j)

/-- Write bytes at a place. A write to another device leaves this device's memory alone. -/
def State.writeBytes (s : State) (p : Place) (bs : List Byte) : State :=
  match p.space with
  | .dev => { s with mem := Memory.put s.mem p.addr bs }
  | .host => { s with hostMem := Memory.put s.hostMem p.addr bs }
  | .remote _ => s

/-- The line (128 bytes) and region (512 bytes) of an address (R4). -/
def lineBase (a : Nat) : Nat := a / 128 * 128
def regionBase (a : Nat) : Nat := a / 512 * 512
def Place.line (p : Place) : Place := { p with addr := lineBase p.addr }
/-- The 64 KiB page number of a virtual address. -/
def pageOf (va : Nat) : Nat := va / 65536

/-! ## The register window's pointers (spec/21 R410) -/

/-- A register of the window, by offset. -/
def State.windowReg (s : State) (off : Nat) : BitVec 64 := Sparse.get 0 s.window off
def State.setWindow (s : State) (off : Nat) (v : BitVec 64) : State := { s with window := Sparse.set 0 s.window off v }
/-- Where the 64 GiB window of CXL.mem starts (spec/21 R409): anywhere in HBM. -/
def cxlBase : Nat := Config.cxlWindow % (2 ^ 40 - 2 ^ 36 + 1)

/-- CHTAB, CXTAB and LSDIR. -/
def State.chtab (s : State) : Nat := (s.windowReg 0x20).toNat
def State.cxtab (s : State) : Nat := (s.windowReg 0x28).toNat
def State.lsdir (s : State) : Nat := (s.windowReg 0x30).toNat

/-! ## The page walk (R364 to R366) -/

/-- The outcome of a walk: the leaf with the physical base of its page and log2 of the page size; a failure (R366); or a
table that lies where the device has no memory. -/
inductive Walk where
  | leaf (pte : BitVec 64) (base : Nat) (size : Nat)
  | bad
  | hole (addr : Nat)
  deriving DecidableEq, Repr

/-- Fields of a page table entry (R365). -/
def pteValid (e : BitVec 64) : Bool := bitAt e 0
def pteLeaf (e : BitVec 64) : Bool := bitAt e 1
def pteW (e : BitVec 64) : Bool := bitAt e 2
def pteX (e : BitVec 64) : Bool := bitAt e 3
def pteClass (e : BitVec 64) : Nat := bitsNat e 4 3
def pteMig (e : BitVec 64) : Bool := bitAt e 7
def pteHost (e : BitVec 64) : Bool := bitAt e 8
def pteRem (e : BitVec 64) : Bool := bitAt e 9
def pteRdev (e : BitVec 64) : Nat := bitsNat e 12 10
def pteCp (e : BitVec 64) : Nat := bitsNat e 22 2
def ptePa (e : BitVec 64) : Nat := 4096 * bitsNat e 24 40

/-- Does a leaf entry that maps 2^`size` bytes pass R366? -/
def leafOk (e : BitVec 64) (size : Nat) : Bool :=
  bitsNat e 10 2 == 0 && ptePa e % 2 ^ size == 0 && decide (pteClass e < 5) && pteCp e != 3 &&
    !(pteHost e && pteRem e)

/-- The levels of a walk: number, lowest bit indexed, bits indexed (R364). -/
def walkLevels : List (Nat × Nat × Nat) := [(3, 39, 18), (2, 30, 9), (1, 21, 9), (0, 16, 5)]

/-- Walk from the table at `tab`. -/
def State.walkFrom (s : State) (va : Nat) (tab : Nat) : List (Nat × Nat × Nat) → Walk
  | [] => .bad
  | (lvl, sh, nb) :: rest =>
    let a := tab + 8 * (va / 2 ^ sh % 2 ^ nb)
    match physHole a 8 with
    | some h => .hole h
    | none =>
      let e := BitVec.ofNat 64 (Memory.nat s.mem a 8)
      if !pteValid e then .bad
      else if pteLeaf e then
        if lvl = 3 then .bad else if leafOk e sh then .leaf e (ptePa e) sh else .bad
      else if lvl = 0 ∨ bitsNat e 2 22 ≠ 0 then .bad
      else State.walkFrom s va (ptePa e) rest

/-- The walk of a context's address from the root that the context table gives. -/
def State.walk (s : State) (ctx va : Nat) : Walk :=
  let a := s.cxtab + 8 * ctx
  match physHole a 8 with
  | some h => .hole h
  | none => s.walkFrom va (Memory.nat s.mem a 8) walkLevels

/-- The address of page table entry level `lvl` that a walk of `va` reads, if the walk reaches it (R413 PWRITE). -/
def State.pteAddrFrom (s : State) (va : Nat) (tab want : Nat) : List (Nat × Nat × Nat) → Option Nat
  | [] => none
  | (lvl, sh, nb) :: rest =>
    let a := tab + 8 * (va / 2 ^ sh % 2 ^ nb)
    if lvl = want then some a
    else
      let e := BitVec.ofNat 64 (Memory.nat s.mem a 8)
      if pteValid e && !pteLeaf e then State.pteAddrFrom s va (ptePa e) want rest else none

/-- The address of the leaf entry that maps `va`. -/
def State.leafAddrFrom (s : State) (va : Nat) (tab : Nat) : List (Nat × Nat × Nat) → Option Nat
  | [] => none
  | (lvl, sh, nb) :: rest =>
    let a := tab + 8 * (va / 2 ^ sh % 2 ^ nb)
    let e := BitVec.ofNat 64 (Memory.nat s.mem a 8)
    if !pteValid e then none
    else if pteLeaf e then some a
    else if lvl = 0 then none
    else State.leafAddrFrom s va (ptePa e) rest
def State.leafAddr (s : State) (ctx va : Nat) : Option Nat :=
  s.leafAddrFrom va (Memory.nat s.mem (s.cxtab + 8 * ctx) 8) walkLevels

/-- Class codes of a page (spec/17 R329). -/
def Cls.ofCode : Nat → Cls
  | 0 => .sc | 1 => .rc | 2 => .ord | 3 => .ws | _ => .pv
def Cls.code : Cls → Nat
  | .sc => 0 | .rc => 1 | .ord => 2 | .ws => 3 | .pv => 4

/-- The space that a leaf maps. -/
def pteSpace (e : BitVec 64) : Space :=
  if pteHost e then .host else if pteRem e then .remote (pteRdev e) else .dev

/-- A translated address: its place, class and the permissions of its page. -/
structure Xlat where
  place : Place
  cls : Cls
  canWrite : Bool
  canExec : Bool
  mig : Bool
  cp : Nat
  deriving DecidableEq, Repr

/-- The translation that a leaf gives to `va`, with the page's base and size. -/
def xlatOf (e : BitVec 64) (base size va : Nat) : Xlat :=
  { place := { space := pteSpace e, addr := base + va % 2 ^ size }, cls := Cls.ofCode (pteClass e),
    canWrite := pteW e, canExec := pteX e, mig := pteMig e, cp := pteCp e }

/-- The outcome of a translation. -/
inductive Trans where
  | ok (x : Xlat)
  | bad
  | hole (addr : Nat)
  deriving DecidableEq, Repr

/-- What the walk alone gives. -/
def State.walkXlat (s : State) (ctx va : Nat) : Trans :=
  match s.walk ctx va with
  | .leaf e base size => .ok (xlatOf e base size va)
  | .bad => .bad
  | .hole a => .hole a

/-- The translation of an access of core `core` (R367, R368). While the line-translation buffer holds another entry for
the page than memory does (no shootdown has come yet), the access uses either: a free choice, line by line. -/
def State.translate (s : State) (core ctx va : Nat) : Trans :=
  let new := s.walkXlat ctx va
  match s.ltb.find? fun l => l.core == core && l.ctx == ctx && l.page == pageOf va with
  | none => new
  | some l =>
    let old := Trans.ok (xlatOf l.pte l.base 16 va)
    if new = old then new else if Config.freeBit (s.key (va / 128 % 2 ^ 32)) then old else new

/-- Keep the translation of a page in the buffer of a core (R367): the access filled it. -/
def State.fillLtb (s : State) (core ctx va : Nat) : State :=
  if s.ltb.any fun l => l.core == core && l.ctx == ctx && l.page == pageOf va then s
  else
    match s.walk ctx va with
    | .leaf e base size =>
      { s with ltb := { core := core, ctx := ctx, page := pageOf va, pte := e,
                        base := base + va % 2 ^ size / 65536 * 65536 } :: s.ltb }
    | .bad => s
    | .hole _ => s

/-! ## Leases (R369 to R372) -/

/-- What the lease check of one address gives: covered, with WR; outside; revoked; or a list where no memory is. -/
inductive LeaseRes where
  | covered (wr : Bool)
  | outside
  | revoked
  | hole (addr : Nat)
  deriving DecidableEq, Repr

/-- Search the range entries from `a` for page `page`; at most `fuel` entries (R369: 4,096). R369 says of the reserved bits of a
directory entry and of a range entry only that they must be 0: one that is not has no effect here (DESIGN CHOICE, log entry
62). -/
def State.leaseScan (s : State) (page : Nat) : Nat → Nat → LeaseRes
  | 0, _ => .outside
  | fuel + 1, a =>
    match physHole a 16 with
    | some h => .hole h
    | none =>
      let e := BitVec.ofNat 128 (Memory.nat s.mem a 16)
      let start := bitsNat e 0 41
      if start ≤ page ∧ page < start + bitsNat e 56 41 then .covered (bitAt e 97)
      else if bitAt e 98 then .outside
      else State.leaseScan s page fuel (a + 16)

/-- The lease number of a slot (R293). -/
def State.leaseOf (s : State) (slot : Nat) : Nat := bitsNat (Sparse.get Slot.zero s.slots slot).rec0 224 32

/-- A page that the list of a lease does not hold: revoked, or, while a revocation has not come to its shootdown, still covered as the
list was when REVOKING was set (R372). -/
def State.leaseGone (s : State) (lease page : Nat) : LeaseRes :=
  let holds := fun (first n : Nat) => decide (first ≤ page) && decide (page < first + n)
  if s.revoked.any fun (l, first, n) => l == lease && holds first n then .revoked
  else match s.revoking.find? fun x => x.1 == lease with
    | some x => match x.2.find? fun r => holds r.1 r.2.1 with
      | some r => .covered r.2.2
      | none => .outside
    | none => .outside

/-- Does lease `lease` cover the 64 KiB page `page`? -/
def State.leaseCheck (s : State) (lease page : Nat) : LeaseRes :=
  let a := s.lsdir + 8 * lease
  match physHole a 8 with
  | some h => .hole h
  | none =>
    let d := BitVec.ofNat 64 (Memory.nat s.mem a 8)
    match if bitAt d 63 then s.leaseScan page 4096 (16 * bitsNat d 4 53) else .outside with
    | .covered w => .covered w
    | .hole h => .hole h
    | .outside | .revoked => s.leaseGone lease page

end Sys2Proof.Machine
end

