-- ==== Sys2Proof/Machine/Notice.lean ====
section
/-!
DEFINITION. The host's event queue (spec/21 R415, R416) and the duty register (spec/14 R312).
-/
namespace Sys2Proof.Machine

open Sys2Proof

/-- DUTY (R312): its bits by duty. -/
def State.dutySched (s : State) : Bool := bitAt (s.windowReg 0x18) 0
def State.dutyResid (s : State) : Bool := bitAt (s.windowReg 0x18) 1
def State.dutyFault (s : State) : Bool := bitAt (s.windowReg 0x18) 2
def State.dutyMigr (s : State) : Bool := bitAt (s.windowReg 0x18) 3
def State.dutyColl (s : State) : Bool := bitAt (s.windowReg 0x18) 4

/-- A word with another value in bits `[lo + n - 1 : lo]`. -/
def setField {w : Nat} (d : BitVec w) (lo n v : Nat) : BitVec w :=
  BitVec.ofNat w (d.toNat - bitsNat d lo n * 2 ^ lo + v % 2 ^ n * 2 ^ lo)

/-- A field of MSTAT (R412): [0] BUSY, [7:1] RESULT, [15:8] OPC, [16] OVR. -/
def State.setMstat (s : State) (lo n v : Nat) : State := s.setWindow 0x50 (setField (s.windowReg 0x50) lo n v)

/-- log2 of the ring's entries (R410 EVQBASE); `none` while the field is outside 4 to 12. -/
def State.ringLog (s : State) : Option Nat :=
  let k := bitsNat (s.windowReg 0x58) 0 4
  if 4 ≤ k ∧ k ≤ 12 then some k else none

/-- Entries written and not consumed: (EVQTAIL − EVQHEAD) mod 2^32 (R416). -/
def State.ringUsed (s : State) : Nat :=
  ((s.windowReg 0x68).toNat + 2 ^ 32 - (s.windowReg 0x60).toNat % 2 ^ 32) % 2 ^ 32

/-- May the device write an entry now (R416)? -/
def State.ringFree (s : State) : Bool :=
  match s.ringLog with
  | some k => s.ringUsed != 2 ^ k
  | none => false

/-- The 128 bytes of an entry (R415): kind, team, value, and the record in bytes 64 to 127. -/
def Event.bytes (e : Event) : List Byte :=
  leBytes 4 e.kind ++ leBytes 4 e.team ++ leBytes 8 e.value.toNat ++ List.replicate 48 0 ++ leBytes 64 e.body.toNat

/-- Write one entry and advance EVQTAIL; a NOTIFY's reply (0, R310) then goes to its threads. -/
def State.writeEvent (s : State) (k : Nat) (e : Event) : State :=
  let tail := (s.windowReg 0x68).toNat
  let base := 128 * bitsNat (s.windowReg 0x58) 7 50
  let s := { s with hostMem := Memory.put s.hostMem (base + 128 * (tail % 2 ^ k)) e.bytes }
  let s := s.setWindow 0x68 (BitVec.ofNat 64 ((tail + 1) % 2 ^ 32))
  match e.reply with
  | some (owners, dst) => { s with net := s.net ++ [.mgmtReply owners dst 0] }
  | none => s

/-- Post an event: it is written, or held behind those already held (R416). -/
def State.postEvent (s : State) (e : Event) : State :=
  match s.ringLog, s.heldEvents with
  | some k, [] => if s.ringFree then s.writeEvent k e else { s with heldEvents := [e] }
  | _, h => { s with heldEvents := h ++ [e] }

/-- Write held events, oldest first, while the ring has room. -/
def State.drainEvents (s : State) : List Event → State
  | [] => { s with heldEvents := [] }
  | e :: rest =>
    match s.ringLog with
    | some k => if s.ringFree then State.drainEvents (s.writeEvent k e) rest else { s with heldEvents := e :: rest }
    | none => { s with heldEvents := e :: rest }

/-- An ERROR event and an entry of the error log (R404, R415): of the logical team and chain that it concerns, where it concerns
one. -/
def State.logError (s : State) (entry : BitVec 512) (team : Nat := 0) (chain : Nat := 0) : State :=
  { s with errorLog := s.errorLog ++ [entry] }.postEvent
    { kind := 3, team := team, value := BitVec.ofNat 64 chain, body := entry, reply := none }

end Sys2Proof.Machine
end

