-- ==== Sys2Proof/Machine/Ops.lean ====
section
/-!
DEFINITION. The named operations that the meanings share: registers, threads, warps and teams; the selected issue group
and its active lanes; the operand checks of step 6 of R66; entering the trap routine (R392) and returning from it (R394);
ending a task by a fault (R395); and retirement (R64, R137, R238).
-/
namespace Sys2Proof.Machine

open Sys2Proof

/-- What a meaning answers. -/
abbrev Out := Host.Outcome State Fault Refusal

/-! ## Registers (spec/01 R11 to R14) -/

/-- A vector register. -/
def Thread.reg (t : Thread) (r : Nat) : Word := Sparse.get 0 t.regs r
def Thread.setReg (t : Thread) (r : Nat) (v : Word) : Thread := { t with regs := Sparse.set 0 t.regs r v }
/-- The pair vN, vN+1 (R12: the lower-numbered register holds the least significant word). -/
def Thread.pair (t : Thread) (r : Nat) : DWord := DWord.ofWords (t.reg r) (t.reg (r + 1))
def Thread.setPair (t : Thread) (r : Nat) (v : DWord) : Thread := (t.setReg r v.lo).setReg (r + 1) v.hi
/-- A predicate; p7 reads as true (R13). -/
def Thread.pred (t : Thread) (p : Nat) : Bool := p == 7 || t.preds.getLsbD p
/-- Write a predicate; p7 is not stored (R13). -/
def Thread.setPred (t : Thread) (p : Nat) (b : Bool) : Thread :=
  let m : BitVec 7 := 1#7 <<< p
  { t with preds := if b then t.preds ||| m else t.preds &&& ~~~m }
/-- A long accumulator. -/
def Thread.la (t : Thread) (n : Nat) : Acc := Sparse.get Acc.zero t.las n
def Thread.setLa (t : Thread) (n : Nat) (a : Acc) : Thread := { t with las := Sparse.set Acc.zero t.las n a }
/-- A scalar register of a warp. -/
def Warp.sreg (w : Warp) (r : Nat) : Word := Sparse.get 0 w.scalars r
def Warp.setSreg (w : Warp) (r : Nat) (v : Word) : Warp := { w with scalars := Sparse.set 0 w.scalars r v }
def Warp.spair (w : Warp) (r : Nat) : DWord := DWord.ofWords (w.sreg r) (w.sreg (r + 1))
def Warp.setSpair (w : Warp) (r : Nat) (v : DWord) : Warp := (w.setSreg r v.lo).setSreg (r + 1) v.hi

/-- A barrier record of a thread. -/
def Thread.bar (t : Thread) (s : Nat) : BarRec := Sparse.get BarRec.zero t.bars s
def Thread.setBar (t : Thread) (s : Nat) (b : BarRec) : Thread := { t with bars := Sparse.set BarRec.zero t.bars s b }

/-! ## Teams, warps and threads of the state -/

/-- A warp with nothing in it. -/
def Warp.empty : Warp := { scalars := [], recs := [], marks := [], routineMarks := [], queue := [] }

def Team.thread? (tm : Team) (tid : Nat) : Option Thread := tm.threads.find? fun t => t.tid == tid
/-- Change the threads that satisfy `p`. -/
def Team.modThreads (tm : Team) (p : Thread → Bool) (f : Thread → Thread) : Team :=
  { tm with threads := mapIf p f tm.threads }
def Team.modThread (tm : Team) (tid : Nat) (f : Thread → Thread) : Team := tm.modThreads (fun t => t.tid == tid) f
def Team.warp (tm : Team) (k : Nat) : Warp := tm.warps.getD k Warp.empty
def Team.modWarp (tm : Team) (k : Nat) (f : Warp → Warp) : Team := { tm with warps := tm.warps.modify k f }

def State.task? (s : State) (id : Nat) : Option Task := s.tasks.find? fun t => t.id == id
def State.team? (s : State) (task team : Nat) : Option Team := s.teams.find? fun t => t.task == task && t.team == team
def State.modTask (s : State) (id : Nat) (f : Task → Task) : State :=
  { s with tasks := mapIf (fun t => t.id == id) f s.tasks }
def State.modTeam (s : State) (task team : Nat) (f : Team → Team) : State :=
  { s with teams := mapIf (fun t => t.task == task && t.team == team) f s.teams }
def State.modThread (s : State) (k : ThreadKey) (f : Thread → Thread) : State :=
  s.modTeam k.task k.team fun tm => tm.modThread k.tid f
def State.thread? (s : State) (k : ThreadKey) : Option Thread :=
  match s.team? k.task k.team with
  | some tm => tm.thread? k.tid
  | none => none
/-- The owner of a write that no thread makes. -/
def noThread : ThreadKey := { task := 2 ^ 64, team := 0, tid := 0 }
/-- The owner of the writes that the launch unit or a collective engine makes for a chain (R425): no thread. The chain of an owner. -/
def unitOwner (chain : Nat) : ThreadKey := { task := 2 ^ 64 + 1 + chain, team := 0, tid := 0 }
def ThreadKey.chain (k : ThreadKey) : Option Nat := if 2 ^ 64 < k.task then some (k.task - (2 ^ 64 + 1)) else none
def Thread.key (t : Thread) (tm : Team) : ThreadKey := { task := tm.task, team := tm.team, tid := t.tid }

/-- A buffer record: b0 to b47 of the launch, b48 to b63 of the warp (R21). -/
def recordOf (tk : Task) (w : Warp) (b : Nat) : BitVec 256 :=
  if b < 48 then Sparse.get 0 tk.table b else Sparse.get 0 w.recs (b - 48)

/-! ## The selected group -/

/-- The task and team of the selected group. -/
structure Ctx where
  g : Group
  tk : Task
  tm : Team

/-- The context of the group that is executed next. -/
def State.ctx (s : State) : Option Ctx :=
  match s.cur with
  | none => none
  | some g =>
    match s.task? g.task, s.team? g.task g.team with
    | some tk, some tm => some { g := g, tk := tk, tm := tm }
    | _, _ => none

/-- The threads of the group, in the order of `members`. -/
def Ctx.threads (c : Ctx) : List Thread := c.g.members.filterMap c.tm.thread?
/-- Does a guard hold in a thread (R64)? -/
def guardHolds (g : Guard) (t : Thread) : Bool := t.pred g.pred.val != g.neg
/-- The active lanes (R64). -/
def Ctx.active (c : Ctx) (gs : Guards) : List Thread := c.threads.filter fun t => guardHolds gs.g1 t && guardHolds gs.g2 t
/-- The warp of a thread. -/
def Ctx.warpNo (c : Ctx) (t : Thread) : Nat := warpOf c.tk.width t.tid
def Ctx.warp (c : Ctx) (t : Thread) : Warp := c.tm.warp (c.warpNo t)
/-- The warps that have an active lane, each once. -/
def Ctx.warps (c : Ctx) (act : List Thread) : List Nat := (act.map c.warpNo).dedup
def Ctx.key (c : Ctx) (t : Thread) : ThreadKey := t.key c.tm
/-- Is the warp width 64? -/
def Ctx.wide (c : Ctx) : Bool := c.tk.width == 64

/-- Are rows below allotment `m` of a squad of a host team lent to a borrower on its core (R302)? -/
def State.rowsLent (s : State) (tm : Team) (squad m : Nat) : Bool :=
  !tm.borrower && s.teams.any fun x => x.core == tm.core && x.borrower && decide (x.lentAbove.getD squad 0 < m)

/-- Replace the team of the group. -/
def State.putTeam (s : State) (tm : Team) : State := s.modTeam tm.task tm.team fun _ => tm

/-! ## Code bytes (spec/03 R59 to R62) -/

/-- The word at a code address, through the page table; `none` where it cannot be read. -/
def State.codeWordNow (s : State) (tk : Task) (a : Nat) : Option Word :=
  if a + 4 ≤ 2 ^ 57 then
    match s.walkXlat tk.ctx a with
    | .ok x =>
      match placeHole x.place 4 with
      | none => if x.canExec then some (wordAt (s.readBytes x.place 4) 0) else none
      | some _ => none
    | .bad => none
    | .hole _ => none
  else none

/-- The state with memory as it was when the task's record was dequeued (R62). -/
def State.asDequeued (s : State) (tk : Task) : State := { s with mem := tk.code, hostMem := tk.hostCode }

/-- One of two words, where they differ the old or the new value of a word of code: a free choice (R62). -/
def State.oldOrNew (s : State) (a : Nat) (old new : Word) : Word :=
  if old = new then new else if Config.freeOldWord s.freeCtr (a / 4) then old else new

/-- The word that a fetch at a code address sees (R62): the word in memory, or what it was at the dequeue. -/
def State.peekWord (s : State) (tk : Task) (a : Nat) : Option Word :=
  match s.codeWordNow tk a, (s.asDequeued tk).codeWordNow tk a with
  | some new, some old => some (s.oldOrNew a old new)
  | w, _ => w

/-- The first word at or after `a` that is not a pad word (R60). The fuel is the number of words in the address space. -/
def State.skipPadsFrom (s : State) (tk : Task) : Nat → Nat → Nat
  | 0, a => a
  | fuel + 1, a => if s.peekWord tk a = some padWord then State.skipPadsFrom s tk fuel (a + 4) else a
def State.skipPads (s : State) (tk : Task) (a : Nat) : Nat :=
  if a % 4 = 0 then s.skipPadsFrom tk (2 ^ 55) a else a

/-- Has the kernel a trap routine (R379): is the instruction at its entry a BRA? -/
def State.hasRoutine (s : State) (tk : Task) : Bool :=
  match s.peekWord tk tk.entry, s.peekWord tk (tk.entry + 4) with
  | some w0, some w1 =>
    match decodeWords w0 w1 0 0 with
    | .ok (.bra _ _) _ => true
    | .ok _ _ => false
    | .bad _ => false
  | _, _ => false

/-- The length in bytes of an instruction of the Norzel set; 0 for an event. -/
def instrBytes (i : Instr) : Nat :=
  match i.fields with
  | some f => f.len.bytes
  | none => 0

/-! ## Fault records (spec/20 R389, R390) -/

/-- What a record holds of one thread alone: its index, the address of its failing line, and the operand that failed
(class and number). -/
structure LaneDetail where
  tid : Nat
  index : Option (BitVec 64)
  faddr : Option Nat
  opnd : Option (Nat × Nat)
  deriving DecidableEq, Repr

/-- A fault of an issue group: cause, reason and code (R390), the named threads, the buffer record of a memory fault. -/
structure FaultInfo where
  cause : Nat
  reason : Nat
  code : Nat
  named : List Nat
  buf : Option Nat
  details : List LaneDetail
  deriving DecidableEq, Repr

/-- A fault with no detail but its named threads. -/
def FaultInfo.plain (cause reason : Nat) (named : List Nat) : FaultInfo :=
  { cause := cause, reason := reason, code := 0, named := named, buf := none, details := [] }

/-- Cause codes (R390). -/
def causeIllegal : Nat := 0x01
def causeFetch : Nat := 0x02
def causeRegister : Nat := 0x03
def causeScratch : Nat := 0x04
def causeRecord : Nat := 0x05
def causeClass : Nat := 0x06
def causeAlias : Nat := 0x07
def causeMatrix : Nat := 0x08
def causeTable : Nat := 0x09
def causeJoin : Nat := 0x0A
def causeLease : Nat := 0x0B
def causeWatchdog : Nat := 0x0C
def causeEcc : Nat := 0x0D
def causeRemote : Nat := 0x0E
def causeTrap : Nat := 0x20
def causeBkpt : Nat := 0x21
def causeSave : Nat := 0x30
def causeRestore : Nat := 0x31

/-- Does the cause always end the task (R390)? -/
def causeEnds (c : Nat) : Bool := c == causeLease || c == causeWatchdog || c == causeEcc || c == causeRemote

/-- The lanes of warp `k` among the threads `tids` (R389 LANES). -/
def laneMask (w k : Nat) (tids : List Nat) : Nat :=
  (tids.filter fun t => warpOf w t == k).foldl (fun m t => m ||| 2 ^ wlaneOf w t) 0

/-- `v` shifted to bit `lo` when present, with its valid bit. -/
def optField (v : Option Nat) (lo width valid : Nat) : Nat :=
  match v with
  | some x => x % 2 ^ width * 2 ^ lo + 2 ^ valid
  | none => 0

/-- The code offset of an address from E (R126). -/
def codeOff (tk : Task) (a : Nat) : Nat := (a + 2 ^ 57 - tk.entry) % 2 ^ 32

/-- The fault record of a thread (R389). `iter` is the REP iteration. -/
def faultRecord (tk : Task) (team : Nat) (pc : Nat) (f : FaultInfo) (iter : Option Nat) (tid : Nat) : BitVec 512 :=
  let w := tk.width
  let d := f.details.find? fun x => x.tid == tid
  let index := d.bind fun x => x.index.map BitVec.toNat
  let faddr := d.bind (·.faddr)
  let opnd := d.bind (·.opnd)
  BitVec.ofNat 512
    (f.cause + 2 ^ 8 * f.reason + 2 ^ 16 * f.code + (if f.named.contains tid then 2 ^ 24 else 0) +
      optField iter 32 16 25 + optField index 224 64 26 + optField f.buf 48 6 27 + optField faddr 288 57 28 +
      optField (opnd.map (·.2)) 352 8 29 + (match opnd with
        | some (c, _) => c % 8 * 2 ^ 360
        | none => 0) +
      pc % 2 ^ 57 * 2 ^ 64 + codeOff tk pc * 2 ^ 128 + laneMask w (warpOf w tid) f.named * 2 ^ 160 +
      team % 2 ^ 16 * 2 ^ 384 + squadOf w tid * 2 ^ 400 + tid % 2 ^ 12 * 2 ^ 404)

/-! ## Waits that end, mark stacks and JOIN (spec/05 R131 to R134) -/

/-- A thread leaves its wait; outside a trap routine, at the end of its inning, it goes on waiting for the next one
(R239). -/
def Thread.ready (t : Thread) : Thread := { t with wait := if t.innEnded && t.routine.isNone then .inning else .none }

/-- A thread that waits at an instruction of 8 bytes leaves it for the next one. -/
def State.passWait (s : State) (tk : Task) (t : Thread) : Thread :=
  { t with pc := BitVec.ofNat 64 (s.skipPads tk (t.pc.toNat + 8)) }.ready

/-- The stack that a thread uses: its warp's, or the routine's. -/
def Warp.stack (w : Warp) (inRoutine : Bool) : List MarkEntry := if inRoutine then w.routineMarks else w.marks
def Warp.setStack (w : Warp) (inRoutine : Bool) (m : List MarkEntry) : Warp :=
  if inRoutine then { w with routineMarks := m } else { w with marks := m }

/-- A thread's top entry: the most recently pushed one that holds it (R132). -/
def topEntry (st : List MarkEntry) (lane : Nat) : Option MarkEntry := (st.filter fun e => bitAt e.mask lane).getLast?

/-- Has the thread at a lane arrived at the entry? Its top entry is this one, and it waits at a JOIN. -/
def arrivedAt (st : List MarkEntry) (e : MarkEntry) (t : Thread) (lane : Nat) : Bool :=
  t.wait == .join && topEntry st lane == some e

/-- Is the entry complete: every member has arrived or exited (R132)? An empty mask never completes (R150). -/
def entryDone (w k : Nat) (inRoutine : Bool) (ts : List Thread) (st : List MarkEntry) (e : MarkEntry) : Bool :=
  e.mask != 0 && (List.range w).all fun l => !bitAt e.mask l ||
    match ts.find? fun t => t.tid == k * w + l with
    | some t => t.exited || (t.routine.isSome == inRoutine && arrivedAt st e t l)
    | none => true

/-- Remove the entry at position `j` of a warp's stack and release its members (R132). -/
def State.releaseEntry (s : State) (tk : Task) (tm : Team) (k : Nat) (inRoutine : Bool) (e : MarkEntry) (j : Nat) : Team :=
  let w := tk.width
  let tm := tm.modThreads (fun t => warpOf w t.tid == k && bitAt e.mask (wlaneOf w t.tid) && !t.exited &&
    t.routine.isSome == inRoutine) (s.passWait tk)
  tm.modWarp k fun wp => wp.setStack inRoutine ((wp.stack inRoutine).eraseIdx j)

/-- Complete the entries of a warp's stack that are complete, newest first, as long as there is one. Entries that CTXWR
wrote are examined only when one of the lanes `lanes` is a member (R150). -/
def State.joinScan (s : State) (tk : Task) (k : Nat) (inRoutine : Bool) (lanes : List Nat) : Nat → Team → Team
  | 0, tm => tm
  | fuel + 1, tm =>
    let st := (tm.warp k).stack inRoutine
    let ok := fun (e : MarkEntry) =>
      (!e.written || lanes.any fun l => bitAt e.mask l) && entryDone tk.width k inRoutine tm.threads st e
    match (List.range st.length).reverse.find? fun j => (st[j]?).any ok with
    | some j =>
      match st[j]? with
      | some e => State.joinScan s tk k inRoutine lanes fuel (s.releaseEntry tk tm k inRoutine e j)
      | none => tm
    | none => tm

/-- Complete what the threads `tids` of the team may have completed. -/
def State.joinChecks (s : State) (tk : Task) (team : Nat) (inRoutine : Bool) (tids : List Nat) : State :=
  let w := tk.width
  s.modTeam tk.id team fun tm =>
    ((tids.map (warpOf w)).dedup).foldl (fun tm k =>
      s.joinScan tk k inRoutine ((tids.filter fun t => warpOf w t == k).map (wlaneOf w)) 8 tm) tm

/-- The mask of a warp's lanes without those of `tids`. -/
def dropLanes (w k : Nat) (tids : List Nat) (m : BitVec 64) : BitVec 64 := m &&& ~~~ BitVec.ofNat 64 (laneMask w k tids)

/-- EXIT removes the threads from every entry; an entry whose mask becomes empty leaves the stack (R133). The exit of a
member has an entry that CTXWR wrote examined like any other (R150). -/
def dropFromStack (w k : Nat) (tids : List Nat) (st : List MarkEntry) : List MarkEntry :=
  st.filterMap fun e =>
    let m := dropLanes w k tids e.mask
    if m = 0 ∧ e.mask ≠ 0 then none else some { e with mask := m, written := e.written && m == e.mask }

/-! ## Taking an exception (R392) and ending a task (R395, R396) -/

/-- One thread enters its trap routine (R392): the interrupted context is kept, the record is written, and the thread
is ready at E + 8 with no repeat pending. -/
def Thread.enterRoutine (t : Thread) (kind : RoutineKind) (resume pc : Nat) (rec0 : BitVec 512) : Thread :=
  { t with
    routine := some { kind := kind, resume := BitVec.ofNat 64 resume, rep := t.rep, wait := t.wait,
                      staged := Staged.empty, committed := false }
    rep := Rep.none
    wait := .none
    fault := rec0
    pc := BitVec.ofNat 64 pc
    atYield := false
    dog := 0 }

/-- The warp's routine mark stack is empty when its first thread enters (R393), and no entry of it holds a thread that enters
(R392). An entry whose other members have all arrived is then complete (R132; DEDUCED, log entry 69). -/
def Team.freshRoutineMarks (tm : Team) (w k : Nat) (tids : List Nat) : Team :=
  if tm.threads.any fun t => warpOf w t.tid == k && t.routine.isSome && !t.exited then
    tm.modWarp k fun wp => { wp with routineMarks := dropFromStack w k tids wp.routineMarks }
  else tm.modWarp k fun wp => { wp with routineMarks := [] }

/-- The order of the faults of one clock: by team, then by thread (R395). -/
def faultRank (rec0 : BitVec 512) : Nat := bitsNat rec0 384 16 * 4096 + bitsNat rec0 404 12

/-- The task ends by the fault whose record this is (R395): outcome 2 with word 0 of the record. -/
def Task.endBy (t : Task) (rec0 : BitVec 512) (clk : Nat) : Task :=
  { t with phase := .ending 2 (rec0.extractLsb' 0 32) (rec0.extractLsb' 384 16), fault := rec0, faultAt := some clk }

/-- A fault that ends the task reaches the launch unit (R395): the task's first stands, but among those of one clock the one of
the lowest team, then of the lowest thread. -/
def State.endTaskFault (s : State) (tk : Task) (rec0 : BitVec 512) : State :=
  s.modTask tk.id fun t => match t.phase, t.faultAt with
    | .live, _ => t.endBy rec0 s.clk
    | .ending 2 _ _, some k => if k = s.clk ∧ faultRank rec0 < faultRank t.fault then t.endBy rec0 k else t
    | _, _ => t

/-- The clock of the faults is over: the record of each that stands goes to the fault service (R312, R395). -/
def State.postFaults (s : State) : State :=
  (s.tasks.filter fun t => t.faultAt.isSome).foldl (fun s t =>
    let s := s.modTask t.id fun t => { t with faultAt := none }
    if s.dutyFault then
      s.postEvent { kind := 2, team := bitsNat t.fault 384 16, value := BitVec.ofNat 64 t.chain, body := t.fault, reply := none }
    else s) s

/-- The REP iteration that the records of the group show. -/
def Group.iterOf (g : Group) : Option Nat := g.iter

/-- Raise a fault in the issue group at instruction address `pc` (R389 to R396): every thread of the group receives its
record; the task ends where the cause always ends it, where the kernel has no routine, or where the group is in a
routine; otherwise every thread of the group enters the routine and will retry the instruction. -/
def State.raise (s : State) (c : Ctx) (f : FaultInfo) : State :=
  let pc := c.g.addr.toNat
  let rec0 := faultRecord c.tk c.tm.team pc f c.g.iterOf
  let mine := fun (t : Thread) => c.g.members.contains t.tid
  if causeEnds f.cause || c.g.inRoutine || !s.hasRoutine c.tk then
    let s := s.modTeam c.tk.id c.tm.team fun tm => tm.modThreads mine fun t => { t with fault := rec0 t.tid, dog := 0 }
    -- R396: the named thread with the lowest tid
    s.endTaskFault c.tk (rec0 (f.named.foldl Nat.min (f.named.headD 0)))
  else
    let w := c.tk.width
    let start := s.skipPads c.tk (c.tk.entry + 8)
    let s := s.modTeam c.tk.id c.tm.team fun tm =>
      let tm := (c.g.members.map (warpOf w)).dedup.foldl (fun tm k => tm.freshRoutineMarks w k c.g.members) tm
      tm.modThreads mine fun t => t.enterRoutine .fault pc start (rec0 t.tid)
    s.joinChecks c.tk c.tm.team true c.g.members

/-! ## Operand checks (R12, R65, R66 step 6) -/

/-- The allotment that bounds a register class in a thread (R12). -/
def allotOf (tk : Task) (t : Thread) : RegClass → Nat
  | .vector => t.vallot
  | .scalar => tk.sregs
  | .longAcc => tk.accs
  | .tile => tk.tiles

/-- R389 OCLS. -/
def regClassCode : RegClass → Nat
  | .vector => 0 | .scalar => 1 | .longAcc => 2 | .tile => 3

/-- The first member of an operand that lies at or above the allotment. -/
def overOf (u : RegUse) (tk : Task) (t : Thread) : Option (Nat × Nat) :=
  let a := allotOf tk t u.cls
  if u.num + u.cnt ≤ a then none else some (regClassCode u.cls, max u.num a)

/-- The operands of a thread that fail, in any order. -/
def failing (us : List RegUse) (tk : Task) (t : Thread) : List (Nat × Nat) := us.filterMap fun u => overOf u tk t

/-- REGISTER BOUND (R66 step 6) over the active lanes. Where several operands of a thread fail, the record names one of
them: a free choice. -/
def State.boundFault (s : State) (c : Ctx) (act : List Thread) (us : List RegUse) : Option FaultInfo :=
  let bad := act.filter fun t => !(failing us c.tk t).isEmpty
  if bad.isEmpty then none
  else some
    { FaultInfo.plain causeRegister 0 (bad.map (·.tid)) with
      details := bad.map fun t =>
        let fs := failing us c.tk t
        { tid := t.tid, index := none, faddr := none,
          opnd := fs[(if fs.length = 1 then 0 else Config.freePick (s.key t.tid) % fs.length)]? } }

/-! ## Retirement (R64, R137, R238, R239) -/

/-- What a thread that waits in YIELD waits for when the threads of `p` have issued or exited (R135). -/
def Thread.issued (t : Thread) (p : ThreadKey → Bool) : Thread :=
  match t.wait with
  | .yield o =>
    if o.all p then t.ready else { t with wait := .yield (o.filter fun k => !p k) }
  | _ => t

/-- The threads of `p` have issued an instruction, have exited or are no more: the YIELD waits see it. -/
def State.noteGone (s : State) (p : ThreadKey → Bool) : State :=
  { s with teams := s.teams.map fun tm => { tm with threads := tm.threads.map fun t => t.issued p } }

/-- Threads `ks` have issued an instruction or exited: the YIELD waits see it. -/
def State.noteIssued (s : State) (ks : List ThreadKey) : State := s.noteGone ks.contains

/-- The program counter and repeat state after the instruction of `len` bytes at the thread's program counter: with a
repeat pending, the next iteration; otherwise the instruction after it (R60, R137). -/
def State.advance (s : State) (tk : Task) (len : Nat) (repeating : Bool) (t : Thread) : Thread :=
  if repeating && decide (1 < t.rep.remaining.toNat) then
    { t with rep := { t.rep with iter := t.rep.iter + 1, remaining := t.rep.remaining - 1 } }
  else
    { t with rep := if repeating then Rep.none else t.rep, pc := BitVec.ofNat 64 (s.skipPads tk (t.pc.toNat + len)) }

/-- How the members of a group leave an instruction: transfers to an address; threads that did not issue it (`stay`);
threads that arrived and wait at it (`hold`); threads that issued it and wait at it before they arrive (`quiet`); threads
that now stand at YIELD. Every other member advances past it. -/
structure Post where
  jumps : List (Nat × Nat)
  stay : List Nat
  hold : List Nat
  quiet : List Nat
  yields : List Nat

def Post.none : Post := { jumps := [], stay := [], hold := [], quiet := [], yields := [] }

/-- One thread retires, or arrives (R64): it counts toward the inning outside a routine (R238), and its program counter
moves. A thread of an ordered launch that has reached the end of its inning, and waits for nothing else, waits there
(R239). -/
def State.retireThread (s : State) (c : Ctx) (len : Nat) (p : Post) (t : Thread) : Thread :=
  let counts := c.tk.ordered && t.routine.isNone && !p.quiet.contains t.tid
  let pos := if counts then t.innpos + 1 else t.innpos
  let ended := t.innEnded || (counts && decide (c.tk.inningLen ≤ pos.toNat))
  let t' :=
    if p.hold.contains t.tid || p.quiet.contains t.tid then t
    else match p.jumps.find? fun j => j.1 == t.tid with
      | some j => { t with pc := BitVec.ofNat 64 (s.skipPads c.tk j.2) }
      | none => s.advance c.tk len c.g.iter.isSome t
  { t' with innpos := pos, innEnded := ended, atYield := p.yields.contains t.tid, dog := 0,
            cut := t.cut && t.routine.isSome, part := if t.routine.isSome then t.part else 0,
            wait := if counts && ended && t.wait == .none then .inning else t.wait }

/-- The members of the group but those of `stay` retire. -/
def State.retire (s : State) (c : Ctx) (i : Instr) (p : Post) : State :=
  let len := instrBytes i
  let done := c.g.members.filter fun m => !p.stay.contains m
  let s := s.modTeam c.tk.id c.tm.team fun tm =>
    tm.modThreads (fun t => done.contains t.tid) (s.retireThread c len p)
  (s.noteIssued (done.map fun m => { task := c.tk.id, team := c.tm.team, tid := m })).tick

/-! ## Running an instruction on the selected group -/

/-- The result of an instruction's own effect. -/
inductive Eff where
  /-- performed; the members leave the instruction as `p` says -/
  | done (s : State) (p : Post)
  /-- a fault of R390, with no effect -/
  | fault (f : FaultInfo)
  /-- a fault that is found after the other lanes have performed (R192, R206) -/
  | faultAfter (s : State) (f : FaultInfo)
  /-- a unit cannot accept the instruction of these threads now: they are not ready (R305), and nothing changes -/
  | stall (tids : List Nat)
  /-- the access addresses memory that the device does not have -/
  | hole (addr : Nat)

/-- Performed, every member retires to the next instruction. -/
def Eff.ok (s : State) : Eff := .done s Post.none

/-- The slot of a group's first thread has served no candidate in this clock after all. -/
def State.unserve (s : State) (core w tid : Nat) : State :=
  let key := 4 * core + squadOf w tid
  let h := Sparse.get Huddle.empty s.huddles key
  { s with huddles := Sparse.set Huddle.empty s.huddles key { h with served := h.served.filter fun k => k.slot != slotOf w tid } }

/-- The named threads are not ready (R305): the group dissolves without issuing, and they are in no candidate until something
changes (log entry 3). -/
def State.stalled (s : State) (c : Ctx) (tids : List Nat) : State :=
  let s := s.modTeam c.tk.id c.tm.team fun tm => tm.modThreads (fun t => tids.contains t.tid) fun t => { t with dog := 0 }
  { s with blocked := s.blocked ++ tids.map (fun m => { task := c.tk.id, team := c.tm.team, tid := m }),
           freeCtr := s.freeCtr + 1 }

/-- What an effect leaves of the machine. -/
def State.finish (s : State) (c : Ctx) (i : Instr) : Eff → Out
  | .done s' p => .next (s'.retire c i p)
  | .fault f => .next (s.raise c f).tick
  | .faultAfter s' f => .next (s'.raise c f).tick
  | .stall ts => .next (s.stalled c ts)
  | .hole a => .fault (.physicalHole a)

/-- ILLEGAL INSTRUCTION for the whole group (R66): it names all of the group's lanes. -/
def Ctx.illegalInfo (c : Ctx) (reason : Nat) : FaultInfo := FaultInfo.plain causeIllegal reason c.g.members

/-- Do registers `a` to `a + n - 1` and `b` to `b + m - 1` meet? -/
def rangesMeet (a n b m : Nat) : Bool := decide (a < b + m) && decide (b < a + n)

/-- Does an operand name the registers that a load writes? -/
def destMeets (u : RegUse) : LoadDest → Bool
  | .regs d w => u.cls == .vector && rangesMeet u.num u.cnt d w.regs
  | .la d => u.cls == .longAcc && rangesMeet u.num u.cnt d 1

/-- The registers of a thread that await data: loads and atomics on their way, and the status registers of its pending
copies (the scoreboard of R157 and R178). -/
def State.pendingDests (s : State) (k : ThreadKey) (queue : List QItem) : List LoadDest :=
  (s.net.filterMap fun m => match m with
    | .load ow d _ => if ow = k then some d else none
    | .remote ow _ (.atom _ _ _ op d _) _ _ => if ow = k then some (.regs d op.width) else none
    | .remote ow _ (.ldaccZero _ _ _ d _) _ _ => if ow = k then some (.la d) else none
    | _ => none) ++
  (queue.filterMap fun q => match q with
    | .atom ow _ _ op d _ => if ow = k then some (.regs d op.width) else none
    | .ldaccZero ow _ _ d _ => if ow = k then some (.la d) else none
    | .store _ | .aacc _ _ _ _ _ | .release _ _ => none) ++
  (s.cells.flatMap fun c => c.waiting.filterMap fun r => match r with
    | .load ow _ _ _ _ d _ => if ow = k then some d else none
    | .atom _ ow _ _ op d _ => if ow = k then some (.regs d op.width) else none
    | .ldaccZero _ ow _ _ d _ => if ow = k then some (.la d) else none
    | .store _ _ | .contrib _ _ _ _ | .reg _ _ | .remote _ _ | .clean => none) ++
  s.copies.filterMap fun x => if x.owner = k then some (.regs x.reg .w32) else none

/-- The threads of the group whose operands are not available yet (R305). -/
def State.waiting (s : State) (c : Ctx) (us : List RegUse) : List Nat :=
  (c.threads.filter fun t =>
    (s.pendingDests (c.key t) (c.warp t).queue).any fun d => us.any fun u => destMeets u d).map (·.tid)

/-- Execute an instruction of the Norzel set on the selected group: the scoreboard (R305), the alignment that the warp width decides (R125),
guards (R64), the operand check (R66 step 6), then the instruction's own effect on the active lanes. With no group
selected nothing happens. DEDUCED (log entry 67): an odd destination of .ballot or MATCH at W = 64 has REASON 7, the encoding that
the launch does not permit; the list of reason 4 in R390 does not depend on a launch, and that of reason 7 does not name it. -/
def run (i : Instr) (gs : Guards) (s : State) (k : Ctx → List Thread → Eff) : Out :=
  match s.ctx with
  | none => .next s
  | some c =>
    let us := i.uses c.wide
    let act := c.active gs
    if us.all RegUse.aligned then
      match s.boundFault c act us with
      | some f => .next (s.raise c f).tick
      | none => if (s.waiting c us).isEmpty then s.finish c i (k c act) else .next (s.stalled c (s.waiting c us))
    else .next (s.raise c (c.illegalInfo 7)).tick

/-- ILLEGAL INSTRUCTION for the whole group as an effect. -/
def Ctx.illegal (c : Ctx) (reason : Nat) : Eff := .fault (c.illegalInfo reason)

/-- An instruction that a trap routine may not hold (R393). -/
def Ctx.outsideRoutine (c : Ctx) (e : Eff) : Eff := if c.g.inRoutine then c.illegal 7 else e

/-! ## Per-lane effects -/

/-- Apply `f` to every active thread; the other threads keep their state (R7). -/
def State.eachLane (s : State) (c : Ctx) (act : List Thread) (f : Thread → Thread) : State :=
  let ids := act.map (·.tid)
  s.modTeam c.tk.id c.tm.team fun tm => tm.modThreads (fun t => ids.contains t.tid) f

/-- Apply `f` to every warp that has an active lane. -/
def State.eachWarp (s : State) (c : Ctx) (act : List Thread) (f : Nat → Warp → Warp) : State :=
  s.modTeam c.tk.id c.tm.team fun tm => (c.warps act).foldl (fun tm k => tm.modWarp k (f k)) tm

/-- An instruction that only changes the registers of its active lanes. -/
def runLanes (i : Instr) (gs : Guards) (s : State) (f : Ctx → Thread → Thread) : Out :=
  run i gs s fun c act => .ok (s.eachLane c act (f c))

end Sys2Proof.Machine
end

