-- ==== Sys2Proof/Machine/Home.lean ====
section
/-!
DEFINITION. Lines: the L1 copies (spec/17 R346 to R349), notification, the home of a line and the merging of cells
(spec/09 R218 to R225), and pass stores (R350 to R353).
-/
namespace Sys2Proof.Machine

open Sys2Proof

/-! ## Places and homes -/

/-- A number for every line of every space. -/
def Place.lineNo (p : Place) : Nat :=
  match p.space with
  | .dev => p.addr / 128
  | .host => 2 ^ 60 + p.addr / 128
  | .remote d => 2 ^ 61 + 2 ^ 60 * d + p.addr / 128

/-- The home slice (0 to 63) and home die of a place (R218). -/
def homeSliceOf (p : Place) : Nat := Config.homeSlice p.lineNo % 64
def homeDieOf (p : Place) : Nat := homeSliceOf p / 16

/-- The number that no core has: of an access that no core makes. -/
def noCore : Nat := 256

/-- A line of this device's memory. -/
def devPlace (a : Nat) : Place := { space := .dev, addr := a }

/-! ## The bytes of a line -/

/-- A line's data as bytes, and back. -/
def lineBytes (d : BitVec 1024) : List Byte := leBytes 128 d.toNat
def lineOfBytes (bs : List Byte) : BitVec 1024 := BitVec.ofNat 1024 (leNat bs)

/-- Put bytes into a list at offset `o`. -/
def overlay (base : List Byte) (o : Nat) (bs : List Byte) : List Byte :=
  base.take o ++ (bs ++ base.drop (o + bs.length)).take (base.length - o)

/-- The byte mask of `n` bytes at offset `o`. -/
def byteMask (o n : Nat) : BitVec 128 := BitVec.ofNat 128 ((2 ^ n - 1) * 2 ^ o)

/-- The bytes of `new` where the mask is set, else those of `old`. -/
def maskBytes (old new : List Byte) (mask : BitVec 128) : List Byte :=
  ((List.range old.length).zip (old.zip new)).map fun (j, o, n) => if bitAt mask j then n else o

/-- The home's data of a line. -/
def State.homeLine (s : State) (p : Place) : List Byte := s.readBytes p.line 128

/-- Write the masked bytes of a line home. -/
def State.writeMasked (s : State) (p : Place) (bs : List Byte) (mask : BitVec 128) : State :=
  let old := match p.space with
    | .host => Memory.bytes s.hostMem (lineBase p.addr) 128
    | .dev | .remote _ => s.homeLine p
  s.writeBytes p.line (maskBytes old bs mask)

/-- The bytes of a store laid over those of the line that it lies in. -/
def layStore (bs : List Byte) (w : LaneStore) : List Byte := overlay bs (w.place.addr % 128) w.data

/-- The stores of a core to a line that are on their way home, oldest first (R332). -/
def State.flights (s : State) (core : Nat) (p : Place) : List LaneStore :=
  s.net.filterMap fun m => match m with
    | .store c w => if c = core ∧ w.place.line = p.line then some w else none
    | _ => none

/-! ## Ways and sets (R2, R346, R347, R376) -/

/-- The filter set, the set of an L2 slice, and the directory set of a line. -/
def filterSetOf (p : Place) : Nat := (p.lineNo + Config.filterSet p.lineNo) % 2048
def l2SetOf (p : Place) : Nat := (p.lineNo + Config.l2Set p.lineNo) % 4096
def dirSetOf (region : Nat) : Nat := (region + Config.dirSet region) % 16384

/-- One of several, a free choice. -/
def pickOne {α : Type} (key : Nat) (l : List α) : Option α :=
  if l.length ≤ 1 then l.head? else l[Config.freePick key % l.length]?

/-! ## L1 (R348) -/

def State.l1At (s : State) (core : Nat) (p : Place) : Option L1Line :=
  s.l1.find? fun l => l.core == core && l.place == p.line

/-- Drop the L1 lines that satisfy `q`; dirty PV bytes are written home first (R341). -/
def State.l1Evict (s : State) (q : L1Line → Bool) : State :=
  let s := (s.l1.filter q).foldl (fun s l => if l.dirty = 0 then s else s.writeMasked l.place (lineBytes l.data) l.dirty) s
  { s with l1 := s.l1.filter fun l => !q l }

/-- Write dirty PV bytes home; the lines stay valid and clean (R168). -/
def State.l1Clean (s : State) (q : L1Line → Bool) : State :=
  let s := (s.l1.filter q).foldl (fun s l => if l.dirty = 0 then s else s.writeMasked l.place (lineBytes l.data) l.dirty) s
  { s with l1 := mapIf (fun l => q l && l.st == .d) (fun l => { l with st := .v, dirty := 0 }) s.l1 }

/-- Install or replace a line. -/
def State.l1Put (s : State) (l : L1Line) : State :=
  { s with l1 := l :: s.l1.filter fun x => !(x.core == l.core && x.place == l.place) }

/-- The lines of a club in the filter set of a line (R346). -/
def State.filterSet (s : State) (club : Nat) (p : Place) : List Place :=
  let held := ((s.l1.filter fun l => clubOf l.core == club).map (·.place)).dedup
  if held.length < 16 then [] else held.filter fun q => filterSetOf q == filterSetOf p

/-- Is no way of the filter's set free for a line that the club does not hold yet (R346, R350)? -/
def State.filterFull (s : State) (core : Nat) (p : Place) : Bool :=
  let set := s.filterSet (clubOf core) p
  decide (16 ≤ set.length) && !set.contains p.line

/-- A way of the club's filter for a line: with its set full one entry is evicted from the cores that it records (R346). -/
def State.filterRoom (s : State) (core : Nat) (p : Place) : State :=
  if s.filterFull core p then
    match pickOne (s.key 7) (s.filterSet (clubOf core) p) with
    | some v => s.l1Evict fun l => clubOf l.core == clubOf core && l.place == v
    | none => s
  else s

/-- Lines that the L1 of a core holds: 1 MiB less the scratchpads of its teams (R2). -/
def State.l1Lines (s : State) (core : Nat) : Nat :=
  let scratch := ((s.teams.filter fun tm => tm.core == core).map fun tm =>
    ((s.tasks.find? fun t => t.id == tm.task).map Task.scratchBytes).getD 0).sum
  (2 ^ 20 - scratch) / 128

/-- Room for a line in the L1 of a core: a full L1 evicts one of its lines, any (R348). -/
def State.l1Room (s : State) (core : Nat) (p : Place) : State :=
  let mine := s.l1.filter fun l => l.core == core
  if mine.length < 512 then s
  else if (mine.any fun l => l.place == p.line) || decide (mine.length < s.l1Lines core) then s
  else match pickOne (s.key 8) mine with
    | some v => s.l1Evict fun l => l.core == core && l.place == v.place
    | none => s

/-- The key of the directory for a line's region and a club (R347). -/
def dirKey (p : Place) (club : Nat) : Nat := p.lineNo / 4 * 64 + club

/-- Drop the lines of a region in the clubs of `clubs`: no pass of one that is on its way there is kept either (R347, R351). -/
def State.purgeRegion (s : State) (region : Nat) (clubs : Nat → Bool) : State :=
  let s := s.l1Evict fun l => l.place.lineNo / 4 == region && clubs (clubOf l.core)
  { s with net := s.net.map fun m => match m with
      | .pass pl cls d at_ tg core ow also st => .pass pl cls d at_ tg core ow also (st || (pl.lineNo / 4 == region && clubs (clubOf core)))
      | m => m }

/-- Room for a region in the directory of its home die: with its 16 ways taken one entry is evicted, and every club that it
records drops the region's lines (R347). -/
def State.dirRoom (s : State) (p : Place) : State :=
  let r := p.lineNo / 4
  if s.directory.length < 16 then s
  else
    let set := ((s.directory.map (· / 64)).dedup).filter fun x =>
      Config.homeSlice (4 * x) % 64 / 16 == homeDieOf p && dirSetOf x == dirSetOf r
    if set.length < 16 || set.contains r then s
    else match pickOne (s.key 9) set with
      | some v =>
        let s := s.purgeRegion v fun club => s.directory.contains (v * 64 + club)
        { s with directory := s.directory.filter fun k => k / 64 != v }
      | none => s

/-- The home records a club of another die that holds the line's region. -/
def State.dirSet (s : State) (p : Place) (club : Nat) : State :=
  let known := club / 16 == homeDieOf p || s.directory.contains (dirKey p club)
  if s.directory.length < 16 then { s with directory := if known then s.directory else dirKey p club :: s.directory }
  else if known then s
  else
    let s := s.dirRoom p
    { s with directory := dirKey p club :: s.directory }

/-! ## L2 (R345, R376) -/

/-- The lines that take a way of the set of a line in a slice: the lines homed there, its partials, its replicas. A set has 16
ways. -/
def State.waysTaken (s : State) (slice : Nat) (p : Place) : List Place :=
  if s.l2.length + s.partials.length + s.replicas.length < 16 then []
  else
    (((s.l2.filter fun l => homeSliceOf l.place == slice).map (·.place)) ++
      ((s.partials.filter fun x => x.slice == slice).map fun x => devPlace x.line) ++
      ((s.replicas.filter fun r => r.club == slice).map (·.place))).filter fun q => l2SetOf q == l2SetOf p

/-- The lines of this device that a copy in flight reads or writes: they are locked (R376). -/
def State.copyLines (s : State) : List Place :=
  s.copies.flatMap fun r => match s.task? r.owner.task with
    | none => []
    | some tk => [r.src, r.dst].flatMap fun sd => match sd with
      | .mem va => (List.range ((va.toNat % 128 + r.size + 127) / 128)).filterMap fun j =>
        match s.walkXlat tk.ctx (lineBase va.toNat + 128 * j) with
        | .ok x => some x.place.line
        | .bad | .hole _ => none
      | .scratch _ | .dropped => []

/-- May the line `q` leave a slice at once: it is not locked, and no gather must come first (R220, R376)? -/
def State.mayDrop (s : State) (slice : Nat) (q : Place) : Bool :=
  !(homeSliceOf q == slice && s.cells.any fun c => devPlace c.line == q) &&
    !(s.partials.any fun x => x.slice == slice && devPlace x.line == q && !x.registered) && !s.copyLines.contains q

/-- Can no way of the set be had for the line now (R376): every way holds a locked line, or one that must be gathered first? -/
def State.noWay (s : State) (slice : Nat) (p : Place) : Bool :=
  let set := s.waysTaken slice p
  decide (16 ≤ set.length) && !set.contains p.line && !set.any (s.mayDrop slice)

/-- A way for a line in a slice: a full set drops one line that may leave it, any; a registered partial goes home as a SURR.E
(R220). -/
def State.l2Room (s : State) (slice : Nat) (p : Place) : State :=
  let set := s.waysTaken slice p
  if set.length < 16 || set.contains p.line then s
  else
    match pickOne (s.key 10) (set.filter (s.mayDrop slice)) with
    | some v =>
      let mine := fun (x : Partial) => x.slice == slice && devPlace x.line == v
      { s with
        l2 := s.l2.filter fun l => !(l.place == v && homeSliceOf l.place == slice)
        replicas := s.replicas.filter fun r => !(r.club == slice && r.place == v)
        partials := s.partials.filter fun x => !mine x
        net := s.net ++ (s.partials.filter mine).map fun x => .surrE slice x.line x.cls x.acc }
    | none => s

/-- The L2 holds the line with this class tag (R345). -/
def State.tagL2 (s : State) (p : Place) (cls : Cls) : State :=
  match s.l2.find? fun l => l.place == p.line with
  | some l => if l.cls = cls then s
    else { s with l2 := { place := p.line, cls := cls, data := none } :: s.l2.filter fun l => l.place != p.line }
  | none =>
    let s := s.l2Room (homeSliceOf p) p
    { s with l2 := { place := p.line, cls := cls, data := none } :: s.l2 }

/-- The tag that a fill leaves in L2; under CP 1 it allocates nothing there (R365). -/
def State.fillL2 (s : State) (p : Place) (cls : Cls) (cp : Nat) : State := if cp = 1 then s else s.tagL2 p cls

/-- Fill a line into an L1 with the bytes `bs` (R348). Under CP 2 no line but one of class PV is allocated there (R365,
log entry 58). -/
def State.fillL1 (s : State) (core : Nat) (p : Place) (cls : Cls) (cp : Nat) (bs : List Byte) : State :=
  let s := s.fillL2 p cls cp
  if cp = 2 ∧ cls ≠ .pv then s
  else
    (((s.filterRoom core p).l1Room core p).l1Put
      { core := core, place := p.line, cls := cls, st := .v, data := lineOfBytes bs, dirty := 0 }).dirSet p (clubOf core)

/-- A thread touches a line that lies in P: it is V from then on (R348). -/
def State.l1Touch (s : State) (core : Nat) (p : Place) : State :=
  { s with l1 := mapIf (fun l => l.core == core && l.place == p.line && l.st == .p) (fun l => { l with st := .v }) s.l1 }

/-- Lines in P of a core (R350: at most 32). -/
def State.passCount (s : State) (core : Nat) : Nat := (s.l1.filter fun l => l.core == core && l.st == .p).length

/-! ## Replicas (R158, R354) -/

/-- The place that a queue item touches. -/
def QItem.place? : QItem → Option Place
  | .store w => some w.place
  | .atom _ p _ _ _ _ | .aacc _ p _ _ _ | .ldaccZero _ p _ _ _ => some p
  | .release _ _ => none

/-- The threads with a write of the line that has left its queue and is not performed. -/
def State.writersOf (s : State) (p : Place) : List ThreadKey :=
  let dev := p.space == .dev
  (s.net.flatMap fun m => match m with
    | .store _ w => if w.place.line = p.line then [w.owner] else []
    | .contribution l _ _ _ ow _ _ _ | .surr _ l _ _ ow => if dev && l == lineBase p.addr then ow else []
    | .remote ow _ q _ _ => if q.place?.any fun x => x.line == p.line then [ow] else []
    | _ => []) ++
  ((s.bowls.filter fun b => dev && b.line == lineBase p.addr).flatMap (·.owners)) ++
  ((s.partials.filter fun x => dev && x.line == lineBase p.addr).flatMap (·.owners)) ++
  (s.cells.filter fun c => dev && c.line == lineBase p.addr).flatMap fun c =>
    (c.waiting ++ c.queue).flatMap fun r => match r with
      | .store _ w => [w.owner]
      | .contrib _ _ _ ow => ow
      | .atom _ ow _ _ _ _ _ | .ldaccZero _ ow _ _ _ _ => [ow]
      | .load _ _ _ _ _ _ _ | .reg _ _ | .remote _ _ | .clean => []

/-- A load or prefetch under .repl keeps the line in the slice of its club for its task, where the page's cache policy lets L2
allocate it and a way can be had: a line of class SC, RC or WS, in no accumulate state. -/
def State.replicate (s : State) (core task : Nat) (x : Xlat) : State :=
  let p := x.place
  let club := clubOf core
  let may := match x.cls, p.space with
    | .ord, _ | .pv, _ => false
    | _, .dev => !(s.cells.any fun c => c.line == lineBase p.addr)
    | _, .host | _, .remote _ => true
  if may && x.cp != 1 && !s.noWay club p && !(s.replicas.any fun r => r.club == club && r.task == task && r.place == p.line) then
    let s := s.l2Room club p
    { s with replicas := { club := club, task := task, place := p.line, cls := x.cls, versions := [lineOfBytes (s.homeLine p)],
                           writers := (s.writersOf p).dedup } :: s.replicas }
  else s

/-- What the home has written since is a further version of the line; what another device writes this device does not see. -/
def State.noteVersion (s : State) (r : Replica) : Replica :=
  match r.place.space with
  | .remote _ => r
  | .dev | .host =>
    let d := lineOfBytes (s.homeLine r.place)
    if r.versions.contains d then r else { r with versions := d :: r.versions }

/-- A thread has written the line: its own loads no longer take the replica's older contents (R157, R158). -/
def State.noteWriter (s : State) (k : ThreadKey) (p : Place) : State :=
  { s with replicas := mapIf (fun r => r.place == p.line && !r.writers.contains k) (fun r =>
      { r with writers := k :: r.writers }) s.replicas }

/-- A line as a load of thread `k` sees it: where a replica of the line lies in the slice of its club, and the thread has not
written the line since, one of the contents that the line has had since, whole, a free choice; the stores of the core on
their way home lie over it. -/
def State.seenLine (s : State) (core : Nat) (k : ThreadKey) (p : Place) (line : List Byte) : List Byte :=
  match s.replicas.find? fun r => r.club == clubOf core && r.task == k.task && r.place == p.line && !r.writers.contains k with
  | none => line
  | some r =>
    let lay := (s.flights core p).foldl layStore
    match (line :: r.versions.map fun v => lay (lineBytes v)).dedup with
    | [x] => x
    | xs => xs.getD (Config.freeSeen s.freeCtr k.tid p.lineNo % xs.length) line

/-! ## Unordered stores to WS lines (R340) -/

/-- A store to `n` bytes at `p` is known to follow the stores of which `before` holds: they show there no more. -/
def State.cutWs (s : State) (p : Place) (n : Nat) (before : WsStore → Bool) : State :=
  { s with wsStores := ((mapIf (fun x => x.space == p.space && before x) (fun x =>
      { x with bytes := x.bytes.filter fun b => !(decide (p.addr ≤ b.1) && decide (b.1 < p.addr + n)) }) s.wsStores).filter
        fun x => !x.bytes.isEmpty) }

/-- A WS store of a core has been performed at its home. It follows the released stores of its thread, and the stores that
were released before an acquire of its core. -/
def State.noteWs (s : State) (core : Nat) (w : LaneStore) : State :=
  let s := s.cutWs w.place w.data.length fun x => (x.released && x.owner == w.owner) || x.seen.contains core
  { s with wsStores := s.wsStores ++
      [{ space := w.place.space, bytes := (List.range w.data.length).zip w.data |>.map fun (j, b) => (w.place.addr + j, b),
         owner := w.owner, released := w.rel, seen := [] }] }

/-- The thread has made a release: its later stores follow its earlier ones. -/
def State.noteRelease (s : State) (k : ThreadKey) : State :=
  { s with
    wsStores := mapIf (fun x => x.owner == k) (fun x => { x with released := true }) s.wsStores
    net := s.net.map fun m => match m with
      | .store c w => .store c (if w.owner = k then { w with rel := true } else w)
      | m => m }

/-- The active threads have made a release. -/
def State.released (s : State) (c : Ctx) (act : List Thread) : State := act.foldl (fun s t => s.noteRelease (c.key t)) s

/-- The home's bytes of a WS line as a thread of another store sees them: of two unordered stores either value, a free
choice store by store (R340). -/
def State.wsLine (s : State) (k : ThreadKey) (p : Place) (bs : List Byte) : List Byte :=
  (((List.range s.wsStores.length).zip s.wsStores).filter fun x => x.2.owner != k && x.2.space == p.space).foldl (fun bs x =>
    let new := x.2.bytes.foldl (fun bs b => if lineBase b.1 = lineBase p.addr then overlay bs (b.1 % 128) [b.2] else bs) bs
    if new = bs then bs else if Config.freeBit (s.key (2 ^ 20 + x.1)) then new else bs) bs

/-- A line as the home gives it to a thread of a core: the core's stores on their way home lie over it (R332). The home of an
SC line of host memory is the host (R338). -/
def State.homeView (s : State) (core : Nat) (k : ThreadKey) (p : Place) (cls : Cls) : List Byte :=
  match cls, p.space with
  | .sc, .host => Memory.bytes s.hostMem (lineBase p.addr) 128
  | _, _ => (s.flights core p).foldl layStore (if cls = .ws then s.wsLine k p (s.homeLine p) else s.homeLine p)

/-! ## Acquires (R335) -/

/-- An acquire by a thread of `core` drops the WS lines of its L1, and at .sy every remote line of the L2 (R335). The stores
released before it are known to the core. -/
def State.acquire (s : State) (core : Nat) (sc : Scope) : State :=
  let s := { s with
    l1 := s.l1.filter fun l => !(l.core == core && l.cls == .ws)
    wsStores := mapIf (fun x => x.released && !x.seen.contains core) (fun x => { x with seen := core :: x.seen }) s.wsStores }
  match sc with
  | .sy => { s with l2 := s.l2.filter fun l => match l.place.space with | .remote _ => false | .dev => true | .host => true }
  | .sq | .tm | .cl | .lg | .dv => s

def State.acquireIf (s : State) (core : Nat) : Option Scope → State
  | some sc => s.acquire core sc
  | none => s

/-! ## Notification (R346, R347) -/

/-- A store, atomic or AACC has been performed at the home: its token, and a probe to each recorded club of another die. -/
def State.notify (s : State) (p : Place) (core : Nat) (cls : Cls) (owner : ThreadKey) : State :=
  let clubs := (List.range 64).filter fun j => s.directory.contains (dirKey p j)
  { s with net := s.net ++ .token p.line core cls owner :: clubs.map fun j => .probe p.line j core cls owner }

/-- Passes among the first `k` messages whose line and core match were sent before the notification: superseded (R351). -/
def stalePasses (p : Place) (q : Nat → Bool) (k : Nat) (net : List Msg) : List Msg :=
  (net.take k).map (fun m => match m with
    | .pass pl cls d at_ tg core ow also st => .pass pl cls d at_ tg core ow also (st || (pl == p && q core))
    | m => m) ++ net.drop k

/-- Is a notification of the line by another core than `core` on its way? Then no other core may yet read the line's new
value (R333): a fill waits. WS copies are not invalidated, and nothing waits for them. -/
def State.notifying (s : State) (p : Place) (core : Nat) : Bool :=
  s.net.any fun m => match m with
    | .token pl c cls _ => pl == p.line && c != core && cls != .ws
    | .probe pl _ c cls _ => pl == p.line && c != core && cls != .ws
    | _ => false

/-- Is a notification of a merge, or of a write from outside, on its way for the line? A copy in an L1 is not read until it has
arrived: it may lack a performed AACC of the core's own threads (R222). -/
def State.mergeNotice (s : State) (p : Place) : Bool :=
  s.net.any fun m => match m with
    | .token pl c _ _ | .probe pl _ c _ _ => pl == p.line && c == noCore
    | _ => false

/-! ## Atomics (R163, R164) -/

/-- The new value of an ATOM on `w`-bit patterns. -/
def atomNew (f : AtomFn) (w m d : Nat) : Nat :=
  let sg := fun (x : Nat) => if x < 2 ^ (w - 1) then (x : Int) else (x : Int) - 2 ^ w
  match f with
  | .add => (m + d) % 2 ^ w
  | .smin => if sg m ≤ sg d then m else d
  | .smax => if sg m ≤ sg d then d else m
  | .umin => min m d
  | .umax => max m d
  | .and => m &&& d
  | .or => m ||| d
  | .xor => m ^^^ d
  | .exch => d

/-- Width in bytes of an atomic, and its new value from the old one. -/
def AtomReq.size : AtomReq → Nat
  | .atom _ wide _ | .cas wide _ _ => if wide then 8 else 4
def AtomReq.new (r : AtomReq) (m : Nat) : Nat :=
  match r with
  | .atom f wide d => atomNew f (if wide then 64 else 32) m (d.toNat % 2 ^ (if wide then 64 else 32))
  | .cas wide cmp new =>
    let w := if wide then 64 else 32
    if m = cmp.toNat % 2 ^ w then new.toNat % 2 ^ w else m
/-! ## Sending data and passes -/

/-- Data on its way to a thread. -/
def State.reply (s : State) (owner : ThreadKey) (dest : LoadDest) (data : List Byte) : State :=
  { s with net := s.net ++ [.load owner dest data] }

/-- The core that hosts a team. -/
def State.coreOf (s : State) (task team : Nat) : Option Nat := (s.team? task team).map (·.core)

/-! ## The remap rows (R235) -/

def rowValid (r : BitVec 64) : Bool := bitAt r 63
def rowCstate (r : BitVec 64) : Nat := bitsNat r 61 2
def rowBind (r : BitVec 64) : Nat := bitsNat r 48 6
def rowStride (r : BitVec 64) : Nat := bitsNat r 16 16
def rowFirst (r : BitVec 64) : Nat := bitsNat r 0 16
def rowCount (r : BitVec 64) : Nat := bitsNat r 32 16 + 1
/-- The teams that a row hosts. -/
def rowTeams (r : BitVec 64) : List Nat := (List.range (rowCount r)).map fun j => rowFirst r + j * rowStride r
/-- Does a row host a team? -/
def rowHosts (r : BitVec 64) (team : Nat) : Bool := (rowTeams r).contains team

/-- The row of a core. -/
def State.row (s : State) (core : Nat) : BitVec 64 := Sparse.get 0 s.remap core
/-- The cores whose valid rows name a slot. -/
def State.rowsOf (s : State) (slot : Nat) : List Nat :=
  (s.remap.filter fun x => rowValid x.2 && rowBind x.2 == slot).map (·.1)

/-- The core on which the remap rows place a team (R350); a team in lent rows stands where it was placed. -/
def State.passCore (s : State) (task team : Nat) : Option Nat :=
  match s.task? task with
  | none => none
  | some t => match (s.rowsOf t.slot).find? fun k => rowHosts (s.row k) team with
    | some k => some k
    | none => (s.teams.find? fun tm => tm.task == task && tm.team == team && tm.borrower).map (·.core)

/-- The home sends the line to each target, or the refusal of a target that no remap row places (R162, R350). A club of another die
is recorded in the directory, so that a later store reaches the pass (R351). -/
def State.sendPasses (s : State) (w : LaneStore) : State :=
  let data := lineOfBytes (s.homeLine w.place)
  w.targets.foldl (fun s tg => match s.passCore w.owner.task tg with
    | some core =>
      let s := s.dirSet w.place (clubOf core)
      { s with net := s.net ++ [.pass w.place.line w.cls data s.clk tg core w.owner w.also false] }
    | none => { s with net := s.net ++ [.passOutcome w.owner w.also true] }) s

/-- A device store to a line that the host holds (R355). -/
def State.snoopHost (s : State) (p : Place) (owner : ThreadKey) : State :=
  match p.space with
  | .dev => if s.hostHeld.contains (lineBase p.addr) then { s with net := s.net ++ [.backInval owner (lineBase p.addr)] }
    else s
  | .host | .remote _ => s

/-! ## The home (R220, R221) -/

def State.cellAt (s : State) (line : Nat) : Option HomeCell := s.cells.find? fun c => c.line == line
def State.modCell (s : State) (line : Nat) (f : HomeCell → HomeCell) : State :=
  { s with cells := mapIf (fun c => c.line == line) f s.cells }

/-- A write has been performed at home: notification, back-invalidation and the class tag. -/
def State.wroteHome (s : State) (p : Place) (core : Nat) (cls : Cls) (owner : ThreadKey) : State :=
  (((s.notify p core cls owner).snoopHost p owner).noteWriter owner p).tagL2 p cls

/-- One line's cell after the term is added to the base (R220: I or V becomes ACC-H). A line that enters the state is
invalidated in every L1, as by a store (R218). -/
def State.addHome (s : State) (line : Nat) (cls : Cls) (term : Acc) : State :=
  match s.cellAt line with
  | some _ => s.modCell line fun c => { c with base := c.base.combine term }
  | none =>
    let s := s.wroteHome (devPlace line) noCore cls noThread
    { s with cells := { line := line, cls := cls, base := (cellOf (s.readBytes (devPlace line) 128)).combine term, h := 0,
                        gath := false, waiting := [], queue := [], stuck := false } :: s.cells }

/-- REG from slice `j` at a line in I, V or ACC-H (R220). -/
def State.regHome (s : State) (line : Nat) (cls : Cls) (j : Nat) : State :=
  let s := (s.addHome line cls Acc.zero).modCell line fun c => { c with h := c.h ||| (1 : BitVec 64) <<< j }
  { s with net := s.net ++ [.regack j line] }

/-- A write to host memory, pending until the host acknowledges it (R355). -/
def State.putHost (s : State) (a : Nat) (bs : List Byte) (owner : ThreadKey) : State :=
  { s with net := s.net ++ [.hostWrite owner a bs] }

/-- The write of a read-modify-write: to host memory it goes at once, behind the device's earlier writes of the line, so that
nothing comes between the read and the write (R333); the host's acknowledgement is still awaited (R334). -/
def State.writeAtomic (s : State) (p : Place) (bs : List Byte) (owner : ThreadKey) : State :=
  match p.space with
  | .host =>
    let mine := fun (a : Nat) => lineBase a == lineBase p.addr
    let mem := s.net.foldl (fun mem m => match m with
      | .hostWrite _ a d => if mine a then Memory.put mem a d else mem
      | _ => mem) s.hostMem
    let net := s.net.map fun m => match m with
      | .hostWrite ow a d => .hostWrite ow a (if mine a then [] else d)
      | m => m
    { s with hostMem := Memory.put mem p.addr bs, net := net ++ [.hostWrite owner p.addr []] }
  | .dev | .remote _ => s.writeBytes p bs

/-- A store is performed at its home; its bytes to host memory are on their way to the host. -/
def State.writeStore (s : State) (core : Nat) (w : LaneStore) : State :=
  let s := match w.place.space with
    | .host => s.putHost w.place.addr w.data w.owner
    | .dev | .remote _ => s.writeBytes w.place w.data
  if w.cls = .ws then s.noteWs core w else s

/-- The class of a request. -/
def reqCls (q : RemoteReq) : Cls := Cls.ofCode q.cls.toNat
/-- The operand of an atomic request. -/
def reqAtom (q : RemoteReq) : AtomReq :=
  let n := if q.wide then 8 else 4
  match q.kind with
  | .cas => .cas q.wide (BitVec.ofNat 64 (leNat (q.data.take n))) (BitVec.ofNat 64 (leNat ((q.data.drop n).take n)))
  | .write | .read | .atomic | .aacc | .ldaccZero => .atom q.fn q.wide (BitVec.ofNat 64 (leNat (q.data.take n)))

/-- A reply leaves for the initiator. -/
def State.replyTo (s : State) (q : RemoteReq) (a : Answer) : State :=
  { s with replies := s.replies ++ [{ source := q.source, va := q.va, answer := a }] }

/-- Perform a request of a remote initiator at the home and answer it. -/
def State.serveAt (s : State) (q : RemoteReq) (p : Place) : State :=
  let wrote := fun (bs : List Byte) =>
    ((s.writeBytes p bs).cutWs p bs.length fun _ => true).wroteHome p noCore (reqCls q) noThread
  match q.kind with
  | .write => (wrote q.data).replyTo q (.done [])
  | .read => s.replyTo q (.done (s.readBytes p q.len))
  | .atomic | .cas =>
    let r := reqAtom q
    let m := leNat (s.readBytes p r.size)
    (wrote (leBytes r.size (r.new m))).replyTo q (.done (leBytes r.size m))
  | .aacc => (s.addHome (lineBase p.addr) (reqCls q) (Acc.ofBytes q.data)).replyTo q (.done [])
  | .ldaccZero => (wrote (cellBytes Acc.zero)).replyTo q (.done (cellBytes (cellOf (s.readBytes p 128))))

/-- The store of a core to a line that an access waiting at the home makes. -/
def HomeReq.storeOf (core : Nat) (p : Place) : HomeReq → Option LaneStore
  | .store c w => if c = core ∧ w.place.line = p.line then some w else none
  | .load _ _ _ _ _ _ _ | .atom _ _ _ _ _ _ _ | .ldaccZero _ _ _ _ _ _ | .contrib _ _ _ _ | .reg _ _ | .remote _ _ | .clean => none

/-- Perform an access on a line that is in no accumulate state; the accesses of `later` wait behind it. A load whose team has left
the core fills no L1 (R295); the line that it fills holds its core's stores that wait behind it, as the core's copy does. -/
def State.performHome (s : State) (r : HomeReq) (later : List HomeReq) : State :=
  match r with
  | .load owner core place cls n dest how =>
    let line := s.homeView core owner place cls
    let copy := (later.filterMap (HomeReq.storeOf core place)).foldl layStore line
    let s1 := if cls = .sc then (s.fillL2 place cls how.cp).l1Touch core place
      else if s.coreOf owner.task owner.team = some core then s.fillL1 core place cls how.cp copy
      else s.fillL2 place cls how.cp
    (s1.reply owner dest (((how.own.foldl layStore line).drop (place.addr % 128)).take n)).acquireIf core how.acq
  | .store core w => ((s.writeStore core w).wroteHome w.place core w.cls w.owner).sendPasses w
  | .atom core owner place cls op dst how =>
    let m := leNat (s.readBytes place op.size)
    let new := leBytes op.size (op.new m)
    let s := (s.writeAtomic place new owner).wroteHome place core cls owner
    (s.reply owner (.regs dst op.width) (leBytes op.size m)).acquireIf core how.acq
  | .ldaccZero core owner place cls dst how =>
    let c := cellOf (s.readBytes place 128)
    let s := (s.writeAtomic place (cellBytes Acc.zero) owner).wroteHome place core cls owner
    (s.reply owner (.la dst) (cellBytes c)).acquireIf core how.acq
  | .remote q p => s.serveAt q p
  | .contrib _ _ _ _ | .reg _ _ | .clean => s

/-- Process one held message of the line (R221 step 2). -/
def State.takeQueued (s : State) (line : Nat) (r : HomeReq) : State :=
  match r with
  | .contrib term cls _ _ => s.addHome line cls term
  | .reg j cls => s.regHome line cls j
  | r => s.performHome r []

/-- Perform the accesses that waited, in their order. -/
def State.performAll (s : State) : List HomeReq → State
  | [] => s
  | r :: rest => State.performAll (s.performHome r rest) rest

/-- The gather ends (R221): the merged cell is normalised and written, the waiting accesses are performed in arrival
order, then the queue. -/
def State.endGather (s : State) (line : Nat) : State :=
  match s.cellAt line with
  | none => s
  | some c =>
    let s := { s with cells := s.cells.filter fun x => x.line != line }
    let s := (s.writeBytes (devPlace line) (cellBytes c.base)).tagL2 (devPlace line) c.cls
    let s := s.performAll c.waiting
    c.queue.foldl (fun s r => s.takeQueued line r) s

/-- The line goes to GATH (R220): COLLECT to each holder; with none the gather ends at once. -/
def State.startGather (s : State) (line : Nat) : State :=
  match s.cellAt line with
  | none => s
  | some c =>
    if c.gath then s
    else if c.h = 0 then s.endGather line
    else
      let s := s.modCell line fun c => { c with gath := true }
      { s with net := s.net ++ ((List.range 64).filter fun j => bitAt c.h j).map fun j => .collect j line }

/-- An access reaches its home: performed, or held until the line's gather ends. -/
def State.accessHome (s : State) (p : Place) (r : HomeReq) : State :=
  let line := lineBase p.addr
  match p.space, s.cellAt line with
  | .dev, some _ => (s.modCell line fun c => { c with waiting := c.waiting ++ [r] }).startGather line
  | _, _ => s.performHome r []

/-- Is the cell of a line being gathered? -/
def State.gathering (s : State) (p : Place) : Bool := (s.cellAt (lineBase p.addr)).any fun c => c.gath
/-- Have cells gathered, each once. -/
def State.gatherAll (s : State) (ps : List Place) : State :=
  (ps.filter fun p => !s.gathering p).foldl (fun s p => s.accessHome p .clean) s

/-- Can a message of merging be taken at the home of its line now: the line is in an accumulate state, or a way can be had for it
(R376)? -/
def State.cellRoom (s : State) (line : Nat) : Bool :=
  (s.cellAt line).isSome || !s.noWay (homeSliceOf (devPlace line)) (devPlace line)

/-! ## Evictions (R220, R348, R376) -/

/-- An eviction: a line of an L1, dirty PV bytes home first; the L2's line, which is gathered first where it is in ACC-H; or a
replica. -/
def State.evict (s : State) : Evict → State
  | .l1 core p => s.l1Evict fun l => l.core == core && l.place == p.line
  | .l2 p => match s.cellAt (lineBase p.addr), p.space with
    | some _, .dev => s.accessHome p .clean
    | _, _ => { s with l2 := s.l2.filter fun l => l.place != p.line }
  | .replica club p => { s with replicas := s.replicas.filter fun r => !(r.club == club && r.place == p.line) }

/-- The cells that must be gathered because no way of their set can be had otherwise. -/
def State.crowded (s : State) : List Nat :=
  if s.cells.length + s.partials.length < 16 then []
  else (s.cells.filter fun c =>
    let p := devPlace c.line
    let set := s.waysTaken (homeSliceOf p) p
    !c.gath && decide (16 ≤ set.length) && !set.any (s.mayDrop (homeSliceOf p)) &&
      !(s.cells.any fun x => x.gath && set.contains (devPlace x.line))).map (·.line)

/-- The evictions that are due take place, and so do those for which a full set waits. -/
def State.evictDue (s : State) : State :=
  let due := (s.evictPlan.filter fun x => decide (x.1 ≤ s.clk)).map (·.2)
  let s := due.foldl State.evict { s with evictPlan := s.evictPlan.filter fun x => !decide (x.1 ≤ s.clk) }
  (s.crowded.take 1).foldl (fun s line => s.evict (.l2 (devPlace line))) s

/-! ## Where a term lands (R218) -/

/-- The next sequence number of a source to a home (R228). -/
def State.nextSeq (s : State) (source home : Nat) : Nat × State :=
  let q := Sparse.get 0 s.seqs (64 * source + home)
  (q, { s with seqs := Sparse.set 0 s.seqs (64 * source + home) ((q + 1) % 65536) })

/-- Contributions of a source to a home that no home has merged yet (R228: at most 512). -/
def State.unacked (s : State) (source home : Nat) : Nat :=
  (s.net.filter fun m => match m with
    | .contribution line _ _ pairs _ _ _ _ => homeSliceOf (devPlace line) == home && pairs.any fun x => x.1 == source
    | _ => false).length +
  (s.bowls.filter fun b => homeSliceOf (devPlace b.line) == home && b.pairs.any fun x => x.1 == source).length

/-- The contribution of slice `j` for a line: it travels through the switches under the two dies when they differ
(R226). -/
def State.contribute (s : State) (j line : Nat) (cls : Cls) (term : Acc) (owner : ThreadKey) : State :=
  let home := homeSliceOf (devPlace line)
  let (q, s) := s.nextSeq j home
  let path := if j / 16 = home / 16 then [] else [j / 16, home / 16]
  { s with net := s.net ++ [.contribution line cls term [(j, q)] [owner] (j / 16) false path] }

/-- A term reaches the home's cell: held during a gather, added otherwise. -/
def State.homeAdd (s : State) (line : Nat) (cls : Cls) (term : Acc) (pairs : List (Nat × Nat)) (owners : List ThreadKey) :
    State :=
  match s.cellAt line with
  | some c =>
    if c.gath then s.modCell line fun c => { c with queue := c.queue ++ [.contrib term cls pairs owners] }
    else s.addHome line cls term
  | none => s.addHome line cls term

/-- An AACC of a thread of `core` to a cell of this device's memory is presented to the slice of the thread's club
(R218). Every L1 copy of the line is invalidated as by a store, and the core's own as well. -/
def State.presentAacc (s : State) (core : Nat) (owner : ThreadKey) (p : Place) (cls : Cls) (term : Acc) : State :=
  let line := lineBase p.addr
  let j := clubOf core
  let s := { s with l1 := s.l1.filter fun l => !(l.core == core && l.place == p.line) }
  if homeSliceOf p = j then s.homeAdd line cls term [] [owner]
  else if s.partials.any fun x => x.slice == j && x.line == line then
    { s with partials := mapIf (fun x => x.slice == j && x.line == line) (fun x =>
        { x with acc := x.acc.combine term, owners := if x.registered then x.owners else owner :: x.owners }) s.partials }
  else
    let s := s.wroteHome p core cls owner
    if s.filters.contains (j, line) && !s.noWay j p then
      let s := s.l2Room j p
      { s with
        partials := { slice := j, line := line, cls := cls, acc := term, registered := false, owners := [owner] } :: s.partials
        net := s.net ++ [.reg j line cls] }
    else
      let mine := s.filters.filter fun x => x.1 == j
      let kept := if mine.length < 256 then s.filters
        else match mine with
          | o :: _ => s.filters.erase o
          | [] => s.filters
      let filters := if s.filters.contains (j, line) then s.filters else kept ++ [(j, line)]
      ({ s with filters := filters }).contribute j line cls term owner

/-! ## What a thread has outstanding -/

/-- Is an AACC of thread `k` that has left its queue not performed yet (R219)? With a line, only that line's. -/
def State.aaccPending (s : State) (k : ThreadKey) (line : Option Nat) : Bool :=
  let on := fun (l : Nat) => line.all fun x => x == l
  (s.net.any fun m => match m with
    | .contribution l _ _ _ ow _ _ _ => on l && ow.contains k
    | .surr _ l _ _ ow => on l && ow.contains k
    | .remote ow _ (.aacc _ p _ _ _) _ _ => ow == k && on (lineBase p.addr)
    | _ => false) ||
  (s.bowls.any fun b => on b.line && b.owners.contains k) ||
  (s.partials.any fun x => !x.registered && on x.line && x.owners.contains k) ||
  (s.cells.any fun c => on c.line && c.queue.any fun r => match r with
    | .contrib _ _ _ ow => ow.contains k
    | _ => false)

/-- Is a store one with passes of thread `k`? -/
def LaneStore.passes (w : LaneStore) (k : ThreadKey) : Bool := !w.targets.isEmpty && (w.owner == k || w.also.contains k)

/-- Has thread `k` a pass without an outcome (R334 item 3): not sent yet, on its way, or its outcome on its way? -/
def State.passPending (s : State) (k : ThreadKey) : Bool :=
  (s.net.any fun m => match m with
    | .store _ w => w.passes k
    | .pass _ _ _ _ _ _ ow also _ => ow == k || also.contains k
    | .passOutcome ow also _ => ow == k || also.contains k
    | _ => false) ||
  s.cells.any fun c => c.waiting.any fun r => match r with
    | .store _ w => w.passes k
    | .load _ _ _ _ _ _ _ | .atom _ _ _ _ _ _ _ | .ldaccZero _ _ _ _ _ _ | .contrib _ _ _ _ | .reg _ _ | .remote _ _ | .clean => false

/-- Is a store that thread `k` has made, or may have read, not performed at .dv (R331, R334 items 1 and 2): on its way from
the thread's core, held at a home that gathers, or with its notification under way? -/
def State.storesUnseen (s : State) (k : ThreadKey) : Bool :=
  let mine := s.coreOf k.task k.team
  (s.net.any fun m => match m with
    | .store c w => w.owner == k || mine == some c
    | .token _ _ _ _ | .probe _ _ _ _ _ | .probeAck _ _ _ _ => true
    | _ => false) ||
  s.cells.any fun c => c.waiting.any fun r => match r with
    | .store _ _ | .atom _ _ _ _ _ _ _ | .ldaccZero _ _ _ _ _ _ => true
    | .load _ _ _ _ _ _ _ | .contrib _ _ _ _ | .reg _ _ | .remote _ _ | .clean => false

/-- Does a write of thread `k` to another device, or any write to host memory or snoop, await its acknowledgement? -/
def State.systemPending (s : State) (k : ThreadKey) : Bool :=
  s.net.any fun m => match m with
    | .remote ow _ _ _ _ => ow == k
    | .hostWrite _ _ _ | .backInval _ _ => true
    | _ => false

/-- Has thread `k` a load or an atomic that waits at a gathering home? -/
def HomeReq.readBy (r : HomeReq) (k : ThreadKey) : Bool :=
  match r with
  | .load ow _ _ _ _ _ _ | .atom _ ow _ _ _ _ _ | .ldaccZero _ ow _ _ _ _ => ow == k
  | .store _ _ | .contrib _ _ _ _ | .reg _ _ | .remote _ _ | .clean => false
def State.homeReads (s : State) (k : ThreadKey) : Bool := s.cells.any fun c => c.waiting.any fun r => r.readBy k

/-- Has thread `k` any access that waits at a gathering home? -/
def HomeReq.ownedBy (r : HomeReq) (k : ThreadKey) : Bool :=
  match r with
  | .store _ w => w.owner == k
  | r => r.readBy k
def State.homePending (s : State) (k : ThreadKey) : Bool :=
  s.cells.any fun c => c.waiting.any fun r => r.ownedBy k

/-- May a release of thread `k` at scope `sc` be performed now, as far as what has left its warp's queue decides (R334)? At .sq
and .tm a store is performed once it has left its queue (R331). -/
def State.releaseReady (s : State) (k : ThreadKey) (sc : Scope) : Bool :=
  !s.passPending k && !s.aaccPending k none && !s.homeReads k &&
    match sc with
    | .sq | .tm => true
    | .cl | .lg | .dv => !s.storesUnseen k
    | .sy => !s.storesUnseen k && !s.systemPending k

/-- The owner of a queue item. -/
def QItem.ownedBy (q : QItem) (k : ThreadKey) : Bool :=
  match q with
  | .store w => w.owner == k
  | .atom ow _ _ _ _ _ | .aacc ow _ _ _ _ | .ldaccZero ow _ _ _ _ | .release ow _ => ow == k

/-- The queue of a thread's warp. -/
def State.queueOf (s : State) (k : ThreadKey) : List QItem :=
  match s.task? k.task, s.team? k.task k.team with
  | some tk, some tm => (tm.warp (warpOf tk.width k.tid)).queue
  | _, _ => []

/-- Has thread `k` anything not yet performed at scope `sc`: then a fence that waits, or the release of a barrier's
arrival, waits. -/
def State.outstanding (s : State) (k : ThreadKey) (sc : Scope) : Bool :=
  ((s.queueOf k).any fun q => q.ownedBy k) || !s.releaseReady k sc

/-- Does thread `k` wait for the value of an access that is an acquire (R335)? -/
def State.acqPending (s : State) (k : ThreadKey) : Bool :=
  ((s.queueOf k).any fun q => match q with
    | .atom ow _ _ _ _ how | .ldaccZero ow _ _ _ how => ow == k && how.acq.isSome
    | .store _ | .aacc _ _ _ _ _ | .release _ _ => false) ||
  (s.cells.any fun c => c.waiting.any fun r => match r with
    | .load ow _ _ _ _ _ how => ow == k && how.acq.isSome
    | .atom _ ow _ _ _ _ how | .ldaccZero _ ow _ _ _ how => ow == k && how.acq.isSome
    | .store _ _ | .contrib _ _ _ _ | .reg _ _ | .remote _ _ | .clean => false) ||
  s.net.any fun m => match m with
    | .remote ow _ (.atom _ _ _ _ _ how) _ _ | .remote ow _ (.ldaccZero _ _ _ _ how) _ _ => ow == k && how.acq.isSome
    | _ => false

/-! ## The outcome of a pass (R350 to R352) -/

/-- Does the core run the team and accept passes for it? -/
def State.runsTeam (s : State) (task team core : Nat) : Bool :=
  match s.team? task team with
  | some tm => tm.core == core && tm.phase == .run
  | none => false

/-- Is the page of a line being changed, or moved by the device or by the host (R374)? -/
def State.lineHeld (s : State) (p : Place) : Bool :=
  (s.heldPages ++ s.hostMoves).any fun (ctx, page) => match s.walk ctx (65536 * page) with
    | .leaf e base size => pteSpace e == p.space && decide (base ≤ p.addr) && decide (p.addr < base + 2 ^ size)
    | .bad => false
    | .hole _ => false

/-- A pass arrives: the state after it, and whether it is refused. The stores of the core that are on their way home lie over
the line (R332). -/
def State.takePass (s : State) (p : Place) (cls : Cls) (data : BitVec 1024) (task target core : Nat) (stale : Bool) :
    State × Bool :=
  let line := lineOfBytes ((s.flights core p).foldl layStore (lineBytes data))
  if !s.runsTeam task target core then (s, true)
  else if stale || s.lineHeld p then (s, false)
  else match s.l1At core p with
    | some l => (s.l1Put { l with data := line }, false)
    | none =>
      if 32 ≤ s.passCount core ∨ s.filterFull core p = true then (s, true)
      else (((s.l1Room core p).l1Put { core := core, place := p, cls := cls, st := .p, data := line, dirty := 0 }).dirSet p (clubOf core),
        false)

/-- The refusals that the team has received in the clock `clk` (R29). -/
def Team.refusedIn (tm : Team) (clk : Nat) : BitVec 32 := if tm.refusedAt = clk then tm.refused else 0

/-- A refusal reaches the issuer's team (R29); of a team off its core it is counted in the PASSREF of a hardware save area
(R399), or kept for its return in the program-assisted form (R240, log entry 36). -/
def State.addRefusal (s : State) (owner : ThreadKey) : State :=
  let s := s.modTeam owner.task owner.team fun tm =>
    { tm with passref := tm.passref + 1, refused := tm.refusedIn s.clk + 1, refusedAt := s.clk }
  let counts := fun (x : SavedTeam) => x.task == owner.task && x.team == owner.team && Memory.nat x.area 132 4 < 2 ^ 31
  let add := fun (m : Sparse Byte) => Memory.put m 128 (leBytes 4 ((Memory.nat m 128 4 + 1) % 2 ^ 32))
  { s with saved := (mapIf counts (fun x => { x with area := add x.area }) s.saved).map fun x =>
      if x.task == owner.task && x.team == owner.team && !counts x then { x with refusals := x.refusals + 1 } else x }

end Sys2Proof.Machine
end

