-- ==== Sys2Proof/Machine/Queue.lean ====
section
/-!
DEFINITION. The store queues of the warps (spec/17 R332), launch chains' tails (spec/14 R287), and what an item
does when it leaves its queue.
-/
namespace Sys2Proof.Machine

open Sys2Proof

/-! ## Chain descriptors (R286, R287) -/

/-- The descriptor of chain `n` in the table of device memory; beyond the 256 chains there is none. -/
def State.chain (s : State) (n : Nat) : BitVec 512 :=
  if n < 256 then BitVec.ofNat 512 (Memory.nat s.mem (s.chtab + 64 * n) 64) else 0
def State.setChain (s : State) (n : Nat) (d : BitVec 512) : State :=
  if n < 256 then { s with mem := Memory.put s.mem (s.chtab + 64 * n) (leBytes 64 d.toNat) } else s
/-- The chains whose descriptors are not all zeros. -/
def State.chainNumbers (s : State) : List Nat :=
  ((s.mem.filter fun x => s.chtab ≤ x.1 ∧ x.1 < s.chtab + 16384).map fun x => (x.1 - s.chtab) / 64).dedup
def chainValid (d : BitVec 512) : Bool := bitAt d 135
def chainErr (d : BitVec 512) : Bool := bitAt d 136
def chainKind (d : BitVec 512) : Bool := bitAt d 137
def chainDie (d : BitVec 512) : Nat := bitsNat d 138 2
def chainRlog (d : BitVec 512) : Nat := bitsNat d 140 4
def chainCtx (d : BitVec 512) : Nat := bitsNat d 144 16
def chainAddr (d : BitVec 512) : Nat := bitsNat d 160 57
def chainCw (d : BitVec 512) : Nat := bitsNat d 224 57
def chainTail (d : BitVec 512) : Nat := bitsNat d 288 32
def chainDeq (d : BitVec 512) : Nat := bitsNat d 320 32
def chainDone (d : BitVec 512) : Nat := bitsNat d 352 32
/-- Pending records (R287). -/
def chainPending (d : BitVec 512) : Nat := (chainTail d + 2 ^ 32 - chainDeq d) % 2 ^ 32

def chainSetErr (d : BitVec 512) : BitVec 512 := setField d 136 1 1

/-- A tail advance by `n` (R287): `none` where it is not applied. -/
def tailAdvance (d : BitVec 512) (n : Nat) : Option (BitVec 512) :=
  if chainPending d + n < 2 ^ 31 then some (setField d 288 32 (chainTail d + n)) else none

/-! ## Leaving the queue -/

/-- The bytes of a masked store or atomic reach the L1 copy of their own core (R332, R348). -/
def State.updateOwnL1 (s : State) (core : Nat) (p : Place) (bs : List Byte) : State :=
  match s.l1At core p with
  | none => s
  | some l => s.l1Put { l with data := lineOfBytes (overlay (lineBytes l.data) (p.addr % 128) bs),
                               st := if l.st = .p then .v else l.st }

/-- A store to a PV page of cache policy `cp` writes the L1 of its core and marks the bytes dirty (R341). -/
def State.storePv (s : State) (core : Nat) (p : Place) (bs : List Byte) (cp : Nat) : State :=
  let s := match s.l1At core p with
    | some _ => s
    | none => s.fillL1 core p .pv cp (s.homeLine p)
  match s.l1At core p with
  | none => s
  | some l => s.l1Put { l with data := lineOfBytes (overlay (lineBytes l.data) (p.addr % 128) bs), st := .d,
                               dirty := l.dirty ||| byteMask (p.addr % 128) bs.length }

/-- The core's copy of a PV cell, from home when the core does not hold it. -/
def State.pvLine (s : State) (core : Nat) (p : Place) : List Byte :=
  match s.l1At core p with
  | some l => lineBytes l.data
  | none => s.homeLine p

/-- Is a message a write of thread `k` to the remote line of `p` that is not complete? -/
def Msg.writesFor (k : ThreadKey) (p : Place) : Msg → Bool
  | .remote ow _ q _ _ => ow == k && q.place?.any fun x => x.line == p.line
  | _ => false

/-- Has thread `k` a write to the remote line that is not complete (R316 item 3)? -/
def State.remoteBusy (s : State) (k : ThreadKey) (p : Place) : Bool := s.net.any (Msg.writesFor k p)

/-- The line of a local place, for the wait of R219. -/
def devLine (p : Place) : Option Nat := some (lineBase p.addr)

/-- Is a place in another device's memory? -/
def Place.away (p : Place) : Bool :=
  match p.space with
  | .remote _ => true
  | .dev | .host => false

/-- Is an item a lane of the instruction with a lower number than `how` (R164)? -/
def QItem.before (how : HowAtom) : QItem → Bool
  | .atom _ _ _ _ _ h | .ldaccZero _ _ _ _ h => h.instr == how.instr && decide (h.lane < how.lane)
  | .store _ | .aacc _ _ _ _ _ | .release _ _ => false

/-- Has a lower lane of the same instruction not performed its step yet (R164, R166, R317)? -/
def State.lowerLane (s : State) (how : HowAtom) : Bool :=
  (s.teams.any fun tm => tm.warps.any fun w => w.queue.any (QItem.before how)) ||
  (s.cells.any fun c => c.waiting.any fun r => match r with
    | .atom _ _ _ _ _ _ h | .ldaccZero _ _ _ _ _ h => h.instr == how.instr && decide (h.lane < how.lane)
    | .load _ _ _ _ _ _ _ | .store _ _ | .contrib _ _ _ _ | .reg _ _ | .remote _ _ | .clean => false) ||
  s.net.any fun m => match m with
    | .remote _ _ q _ _ => q.before how
    | _ => false

/-- How an atomic or an LDACC .zero was issued. -/
def QItem.how? : QItem → Option HowAtom
  | .atom _ _ _ _ _ h | .ldaccZero _ _ _ _ h => some h
  | .store _ | .aacc _ _ _ _ _ | .release _ _ => none

/-- Must an item for another device wait at its source for one of the messages `before`, the thread's earlier writes of the line, or for
the lower lanes of its instruction (R164, R316, R317)? -/
def State.waitsAtSource (s : State) (owner : ThreadKey) (q : QItem) (before : List Msg) : Bool :=
  (q.place?.any fun p => before.any (Msg.writesFor owner p)) || q.how?.any s.lowerLane

/-- An item goes to another device (R316): at once, or it waits at its source. The device keeps no line that it wrote. -/
def State.sendRemote (s : State) (owner : ThreadKey) (dev : Nat) (p : Place) (q : QItem) : State :=
  let waits := s.waitsAtSource owner q s.net
  { s with net := s.net ++ [.remote owner dev q (if waits then .waits else .sent) s.clk],
           l2 := s.l2.filter fun l => l.place != p.line }

/-- Must an access that is performed at the home of its line wait for a way of the home's set (R376)? -/
def State.waitsWay (s : State) (p : Place) (cls : Cls) : Bool :=
  match cls with
  | .pv => false
  | .sc | .rc | .ord | .ws => s.noWay (homeSliceOf p) p

/-- May an item leave the queue of a warp of `core` now, as far as what has left the queue decides? A store is not performed before
an earlier load of its thread, nor an atomic before an earlier store of its core to the line or the lower lanes of its instruction
(R164, R332, R333); one to another device is ordered at its source alone (R316). -/
def State.mayLeave (s : State) (core : Nat) (q : QItem) : Bool :=
  match q with
  | .store w =>
    w.place.away || (!s.aaccPending w.owner (devLine w.place) && !s.homeReads w.owner &&
      !(w.cls == .sc && (!(s.flights core w.place).isEmpty || s.waitsWay w.place w.cls)))
  | .atom ow p cls _ _ how | .ldaccZero ow p cls _ how =>
    p.away || (!s.lowerLane how && !s.aaccPending ow (devLine p) && !s.homeReads ow && !s.notifying p core &&
      (s.flights core p).isEmpty && !s.waitsWay p cls)
  | .aacc ow p cls _ _ =>
    p.away || (!s.homeReads ow && (s.flights core p).isEmpty && !s.waitsWay p cls &&
      decide (s.unacked (clubOf core) (homeSliceOf p) < 512))
  | .release ow sc => s.releaseReady ow sc

/-- The thread of an item; is it a release, one that goes to another device, or an access that R332 orders? -/
def QItem.owner : QItem → ThreadKey
  | .store w => w.owner
  | .atom ow _ _ _ _ _ | .aacc ow _ _ _ _ | .ldaccZero ow _ _ _ _ | .release ow _ => ow
def QItem.isRelease : QItem → Bool
  | .release _ _ => true
  | .store _ | .atom _ _ _ _ _ _ | .aacc _ _ _ _ _ | .ldaccZero _ _ _ _ _ => false
def QItem.away (q : QItem) : Bool := q.place?.any Place.away
def QItem.ordered (q : QItem) : Bool := !q.isRelease && !q.away

/-- May an item leave its queue when `before` are the items before it? A release follows every earlier item of its thread; no item
leaves before an earlier release of its thread; and the accesses that R332 orders leave in their order. Those to other devices are
not among them (R317, R332). -/
def State.mayGo (s : State) (core : Nat) (before : List QItem) (q : QItem) : Bool :=
  !(before.any fun x => x.owner == q.owner && (q.isRelease || x.isRelease)) && !(q.ordered && before.any QItem.ordered) &&
    s.mayLeave core q

/-- The place of the oldest item that may leave a queue. -/
def State.firstGo (s : State) (core : Nat) (queue : List QItem) : Option Nat :=
  (List.range queue.length).find? fun j => (queue[j]?).any (s.mayGo core (queue.take j))

/-- Perform the item that leaves the queue. A store to SC memory is performed at its home at once (R338); one to RC or WS
memory goes on its way (R332). DESIGN CHOICE (log entry 50): an AACC to host memory, whose line is never in an accumulate state and for
which R218 gives no path, is combined with what host memory holds and written there at once. -/
def State.leave (s : State) (core : Nat) (q : QItem) : State :=
  match q with
  | .store w =>
    let s := s.noteWriter w.owner w.place
    match w.place.space, w.cls with
    | .remote d, _ => s.sendRemote w.owner d w.place q
    | _, .pv => s.storePv core w.place w.data w.via.cp
    | _, .sc => (s.updateOwnL1 core w.place w.data).accessHome w.place (.store core w)
    | _, _ =>
      let s := s.updateOwnL1 core w.place w.data
      { s with net := s.net ++ [.store core w] }
  | .atom ow p cls op dst how =>
    let s := s.noteWriter ow p
    match p.space with
    | .remote d => s.sendRemote ow d p q
    | .dev | .host =>
      let s := { s with l1 := s.l1.filter fun l => !(l.core == core && l.place == p.line) }
      s.accessHome p (.atom core ow p cls op dst how)
  | .aacc ow p cls term via =>
    let s := s.noteWriter ow p
    match p.space, cls with
    | .remote d, _ => s.sendRemote ow d p q
    | _, .pv => s.storePv core { p with addr := lineBase p.addr } (cellBytes ((cellOf (s.pvLine core p)).combine term)) via.cp
    | .dev, _ => s.presentAacc core ow p cls term
    | .host, _ =>
      let new := cellBytes ((cellOf (s.readBytes p 128)).combine term)
      let s := { s with l1 := s.l1.filter fun l => !(l.core == core && l.place == p.line) }
      (s.writeAtomic p new ow).wroteHome p core cls ow
  | .ldaccZero ow p cls dst how =>
    let s := s.noteWriter ow p
    match p.space, cls with
    | .remote d, _ => s.sendRemote ow d p q
    | _, .pv =>
      let c := cellOf (s.pvLine core p)
      let s := (s.storePv core { p with addr := lineBase p.addr } (cellBytes Acc.zero) how.via.cp).reply ow (.la dst) (cellBytes c)
      s.acquireIf core how.acq
    | _, _ =>
      let s := { s with l1 := s.l1.filter fun l => !(l.core == core && l.place == p.line) }
      s.accessHome p (.ldaccZero core ow p cls dst how)
  | .release ow _ => s.noteRelease ow

/-- Must a store on its way wait for one of the messages before it? The earlier stores of its core to the line are performed before it,
but for those to WS memory that no release of their thread separates from it (R333, R340). -/
def storeBehind (core : Nat) (w : LaneStore) (before : List Msg) : Bool :=
  before.any fun m => match m with
    | .store c x => c == core && x.place.line == w.place.line && (x.cls != .ws || w.cls != .ws || x.rel)
    | _ => false

/-- The team on a core that owns warp `k`'s queue: with a host team and a borrower, the warps of the borrower follow. -/
def State.queueTeam (s : State) (core k : Nat) : Option (Team × Nat) :=
  match s.teams.filter fun tm => tm.core == core && !tm.borrower, s.teams.filter fun tm => tm.core == core && tm.borrower with
  | t :: _, bs =>
    if k < t.warps.length then some (t, k)
    else match bs with
      | b :: _ => if k - t.warps.length < b.warps.length then some (b, k - t.warps.length) else none
      | [] => none
  | [], b :: _ => if k < b.warps.length then some (b, k) else none
  | [], [] => none

/-- Append items to the queue of warp `k` of the group's team. -/
def State.enqueue (s : State) (c : Ctx) (k : Nat) (qs : List QItem) : State :=
  s.modTeam c.tk.id c.tm.team fun tm => tm.modWarp k fun w => { w with queue := w.queue ++ qs }

/-- Append one item list per active lane, each to its own warp's queue, in lane order. -/
def State.enqueueLanes (s : State) (c : Ctx) (items : List (Thread × List QItem)) : State :=
  items.foldl (fun s x => s.enqueue c (c.warpNo x.1) x.2) s

/-! ## Loads -/

/-- The bytes of a queued store that lie in the `n` bytes at `p`, laid over `bs` (R332 item 3). -/
def forward (p : Place) (n : Nat) (bs : List Byte) (w : LaneStore) : List Byte :=
  if w.place.space = p.space then
    (List.range n).zip bs |>.map fun (j, b) =>
      if w.place.addr ≤ p.addr + j ∧ p.addr + j < w.place.addr + w.data.length then
        w.data.getD (p.addr + j - w.place.addr) b
      else b
  else bs

/-- The thread's own queued stores. -/
def State.ownStores (s : State) (k : ThreadKey) : List LaneStore :=
  (s.queueOf k).filterMap fun q => match q with
    | .store w => if w.owner = k then some w else none
    | .atom _ _ _ _ _ _ | .aacc _ _ _ _ _ | .ldaccZero _ _ _ _ _ | .release _ _ => none

/-- Has thread `k` a read of this device's or host memory that is not performed: an atomic in its queue, or a load or atomic
that waits at a home? Its later loads wait for it (R332 item 2). -/
def State.readsAhead (s : State) (k : ThreadKey) : Bool :=
  ((s.queueOf k).any fun q => match q with
    | .atom ow p _ _ _ _ | .ldaccZero ow p _ _ _ => ow == k && !p.away
    | .store _ | .aacc _ _ _ _ _ | .release _ _ => false) || s.homeReads k

/-- Must a load of thread `k` wait: an own atomic, AACC or zeroing of the line stands in the queue, an own AACC of the
line is not performed (R219), or an own remote write to the line is under way? -/
def State.loadBlocked (s : State) (k : ThreadKey) (p : Place) : Bool :=
  ((s.queueOf k).any fun q => match q with
    | .atom ow x _ _ _ _ | .aacc ow x _ _ _ | .ldaccZero ow x _ _ _ => ow == k && x.line == p.line
    | .store _ | .release _ _ => false) ||
  s.aaccPending k (devLine p) || s.remoteBusy k p || (!p.away && s.readsAhead k)

/-- Has thread `k` an access to an SC page that has not been performed at its home (R338)? -/
def State.scPending (s : State) (k : ThreadKey) : Bool :=
  ((s.queueOf k).any fun q => match q with
    | .store w => w.owner == k && w.cls == .sc
    | .atom ow _ cls _ _ _ | .aacc ow _ cls _ _ | .ldaccZero ow _ cls _ _ => ow == k && cls == .sc
    | .release _ _ => false) ||
  (s.cells.any fun c => c.cls == .sc && ((c.waiting.any fun r => r.ownedBy k) || c.queue.any fun r => match r with
    | .contrib _ _ _ ow => ow.contains k
    | _ => false)) ||
  (s.partials.any fun x => x.cls == .sc && !x.registered && x.owners.contains k) ||
  (s.bowls.any fun b => b.cls == .sc && b.owners.contains k) ||
  s.net.any fun m => match m with
    | .contribution _ cls _ _ ow _ _ _ => cls == .sc && ow.contains k
    | .surr _ _ cls _ ow => cls == .sc && ow.contains k
    | .remote ow _ (.store w) _ _ => ow == k && w.cls == .sc
    | .remote ow _ (.atom _ _ cls _ _ _) _ _ | .remote ow _ (.aacc _ _ cls _ _) _ _ | .remote ow _ (.ldaccZero _ _ cls _ _) _ _ =>
      ow == k && cls == .sc
    | .hostWrite ow _ _ => ow == k
    | _ => false

/-- Must a load at `p` wait before it reads (R333, R338, R219, R222), or for a way of its home's set (R376)? -/
def State.loadWaits (s : State) (core : Nat) (k : ThreadKey) (p : Place) (cls : Cls) : Bool :=
  s.loadBlocked k p ||
    (match cls with
     | .sc => s.scPending k || (!p.away && s.noWay (homeSliceOf p) p)
     | .rc | .ws | .ord => match s.l1At core p with
       | none => s.notifying p core || (!p.away && s.noWay (homeSliceOf p) p)
       | some _ => s.mergeNotice p
     | .pv => (s.l1At core p).isNone && s.noWay (homeSliceOf p) p)

/-- A line of another device as a load finds it: in the L2, where an RC line may stay until an acquire at .sy (R158, R317), or at
its home, which answers any value. A line to which a write of this device is under way is not kept (R316 item 6). -/
def State.remoteLine (s : State) (p : Place) (cls : Cls) (cp : Nat) : List Byte × State :=
  match s.l2.find? fun l => l.place == p.line && l.cls == cls with
  | some { data := some d, .. } => (lineBytes d, s)
  | _ =>
    let bs := s.readBytes p.line 128
    let written := s.net.any fun m => match m with
      | .remote _ _ q _ _ => q.place?.any fun x => x.line == p.line
      | _ => false
    if cls = .rc ∧ cp ≠ 1 ∧ written = false ∧ s.noWay (homeSliceOf p) p = false then
      let s := s.l2Room (homeSliceOf p) p
      (bs, { s with l2 := { place := p.line, cls := cls, data := some (lineOfBytes bs) } :: s.l2.filter fun l => l.place != p.line })
    else (bs, s)

/-- Read `n` bytes at `p` for a core (R337 to R341): its L1 copy, or a fill from home, or what a replica lets it see (R158).
SC reads the home. The thread's own queued stores are laid over. -/
def State.loadBytes (s : State) (core : Nat) (k : ThreadKey) (x : Xlat) (n : Nat) : List Byte × State :=
  let p := x.place
  let (line, s1) : List Byte × State := match p.space with
    | .remote _ => s.remoteLine p x.cls x.cp
    | .dev | .host =>
      if x.cls = .sc then (s.homeView core k p .sc, (s.fillL2 p .sc x.cp).l1Touch core p)
      else match s.l1At core p with
        | some l => (lineBytes l.data, s.l1Touch core p)
        | none => (s.homeView core k p x.cls, s.fillL1 core p x.cls x.cp (s.homeView core k p x.cls))
  let bs := ((s.seenLine core k p line).drop (p.addr % 128)).take n
  ((s.ownStores k).foldl (forward p n) bs, s1)

/-- Does a load at `p` meet a cell that must be gathered first (R220)? An L1 copy of a line in an accumulate state does
not exist; the core's own copy answers under PV. -/
def State.meetsCell (s : State) (core : Nat) (p : Place) (cls : Cls) : Bool :=
  match p.space with
  | .dev => (cls == .sc || (s.l1At core p).isNone) && (s.cellAt (lineBase p.addr)).isSome
  | .host | .remote _ => false

/-- Perform a load of one lane: its data goes to the thread, or the access waits at the home. The acquire, if any, is
performed with it. -/
def State.loadLane (s : State) (core : Nat) (k : ThreadKey) (x : Xlat) (n : Nat) (dest : LoadDest)
    (acq : Option Scope) : State :=
  let p := x.place
  if s.meetsCell core p x.cls then
    let own := s.flights core p ++ (s.ownStores k).filter fun w => w.place.line == p.line
    s.accessHome p (.load k core p x.cls n dest { acq := acq, cp := x.cp, own := own })
  else
    let (bs, s) := s.loadBytes core k x n
    (s.reply k dest bs).acquireIf core acq

end Sys2Proof.Machine
end

