-- ==== Sys2Proof/Machine/Merge.lean ====
section
/-!
DEFINITION. The messages of exact merging (spec/09 R218 to R232): contributions, partials, gathers, the bowls and link
replays; each event delivers one message.
-/
namespace Sys2Proof.Machine

open Sys2Proof

/-! ## Delivery order (R226) -/

/-- The home of a cell line. -/
def cellHome (line : Nat) : Nat := homeSliceOf (devPlace line)

/-- The traffic class of a message (R303). Each class has queues of its own: a message waits only behind messages of its class, and a reply
or a control message never behind a request. Shootdowns, pre-emptions, remap and bind commands and purges, the control class, are events
of the management core and take no place among the messages. -/
def Msg.traffic : Msg → Traffic
  | .load _ _ _ | .mgmtReply _ _ _ | .surr _ _ _ _ _ | .none_ _ _ | .regack _ _ | .probeAck _ _ _ _ | .passOutcome _ _ _ => .reply
  | .contribution _ _ _ _ _ _ _ _ | .chunk _ _ _ _ _ _ | .reg _ _ _ | .collect _ _ | .surrE _ _ _ _ | .store _ _ | .token _ _ _ _ |
    .probe _ _ _ _ _ | .pass _ _ _ _ _ _ _ _ _ | .remote _ _ _ _ _ | .hostWrite _ _ _ | .backInval _ _ => .request

/-- The queue of a class: its messages under way, oldest first (R303). -/
def State.classQueue (s : State) (c : Traffic) : List Msg := s.net.filter fun m => m.traffic == c

/-- The links that a message of a traffic class crosses from slice `src` to slice `dst`: inside a die one path; between two dies
to the switch under the source's die, to the other switch, and to the destination. Each link is named by the class, its
kind and its two ends. -/
def linksOf (cls : Traffic) (src dst : Nat) : List (Traffic × Nat × Nat × Nat) :=
  if src / 16 = dst / 16 then [(cls, 0, src, dst)]
  else [(cls, 1, src, src / 16), (cls, 2, src / 16, dst / 16), (cls, 3, dst / 16, dst)]

/-- The links on which a message of merging now is, by its class (R220, R303). A contribution stops at every switch, and is on one link at a
time. -/
def Msg.links (m : Msg) : List (Traffic × Nat × Nat × Nat) :=
  match m with
  | .contribution line _ _ pairs _ die _ path =>
    let home := cellHome line
    let src := (pairs.headD (0, 0)).1
    match path with
    | _ :: _ :: _ => [(m.traffic, 1, src, die)]
    | [d] => [(m.traffic, 2, die, d)]
    | [] => if src / 16 = home / 16 then [(m.traffic, 0, src, home)] else [(m.traffic, 3, home / 16, home)]
  | .chunk key _ pairs die _ path =>
    match path with
    | _ :: _ :: _ => [(m.traffic, 1, (pairs.headD (0, 0)).1, die)]
    | [d] => [(m.traffic, 2, die, d)]
    | [] => [(m.traffic, 3, (key - 2 ^ 60) / (512 * 65536 * 256) % 4, 64)]
  | .reg j line _ | .surrE j line _ _ | .surr j line _ _ _ | .none_ j line => linksOf m.traffic j (cellHome line)
  | .collect j line | .regack j line => linksOf m.traffic (cellHome line) j
  | _ => []

/-- Must message `x`, sent before `m`, arrive before it (R226)? What a slice says of one line arrives in the order in which it was sent,
requests and replies alike: a SURR follows the REG and the SURR.E, so that the home still has the slice's bit, and the REG and the SURR.E
of a newer partial follow the SURR of the older, so that the bit that it clears is the older one's (R222, log entry 59). -/
def Msg.ahead (x m : Msg) : Bool :=
  (x.links.any fun l => m.links.contains l) ||
    match m, x with
    | .surr j line _ _ _, .reg i l _ | .surr j line _ _ _, .surrE i l _ _ | .reg j line _, .surr i l _ _ _ |
      .surrE j line _ _, .surr i l _ _ _ => i == j && l == line
    | _, _ => false

/-- The messages that must follow `ms`, in their order, and the others. -/
def splitBehind (ms : List Msg) : List Msg → List Msg × List Msg
  | [] => ([], [])
  | x :: rest =>
    if ms.any fun m => m.ahead x then
      let (b, o) := splitBehind (x :: ms) rest
      (x :: b, o)
    else
      let (b, o) := splitBehind ms rest
      (b, x :: o)

/-- A message that leaves index `k` for its next link, or for the entries of a switch: what must follow it still does (R226). -/
def State.hop (s : State) (k : Nat) (m : Msg) (f : State → State) : State :=
  let (behind, others) := splitBehind [m] (s.net.drop k)
  let s1 := f { s with net := s.net.take k ++ others }
  { s1 with net := s1.net ++ behind }

/-- Take the `k`-th message, unless one that must arrive first is before it. -/
def State.takeOrdered (s : State) (k : Nat) : Option (Msg × State) :=
  match takeAt s.net k with
  | some (m, rest) => if (s.net.take k).any fun x => x.ahead m then none else some (m, { s with net := rest })
  | none => none

/-! ## The home (R220, R221, R229) -/

/-- Has the home merged one of the pairs already? -/
def State.hasMerged (s : State) (home : Nat) (pairs : List (Nat × Nat)) : Bool :=
  pairs.any fun x => s.merged.contains (x.1, home, x.2)

/-- Record pairs at the home: the last 1,024 of each source. -/
def State.recordPairs (s : State) (home : Nat) (pairs : List (Nat × Nat)) : State :=
  pairs.foldl (fun s x =>
    let l := s.merged ++ [(x.1, home, x.2)]
    let mine := l.filter fun y => y.1 == x.1 && y.2.1 == home
    { s with merged := if 1024 < mine.length then l.erase (mine.headD (0, 0, 0)) else l }) s

/-- An uncorrectable error in the merge of a line: its gather never ends (R232). -/
def State.stickCell (s : State) (line : Nat) (cls : Cls) : State :=
  (s.addHome line cls Acc.zero).modCell line fun c => { c with stuck := true, gath := true }

/-- A contribution reaches its home (R229). A second copy of what the home has merged is discarded when it carries the replay
mark; `none` without the mark: an error in the merge. -/
def State.homeMerge (s : State) (line : Nat) (cls : Cls) (term : Acc) (pairs : List (Nat × Nat)) (owners : List ThreadKey)
    (replay : Bool) : Option State :=
  let home := cellHome line
  if s.hasMerged home pairs then if replay then some s else none
  else some ((s.recordPairs home pairs).homeAdd line cls term pairs owners)

/-- A surrendered partial: added to the base, the slice's bit cleared; with no bit left the gather ends. -/
def State.surrender (s : State) (j line : Nat) (cls : Cls) (acc : Acc) : State :=
  let s := (s.addHome line cls acc).modCell line fun c => { c with h := c.h &&& ~~~((1 : BitVec 64) <<< j) }
  match s.cellAt line with
  | some c => if c.gath && c.h == 0 && !c.stuck then s.endGather line else s
  | none => s

/-- The event REG. It waits while every way of the home's set is locked (R376). -/
def execReg (k : Nat) (s : State) : Out :=
  match s.takeOrdered k with
  | some (.reg j line cls, s1) =>
    if !s1.cellRoom line then .next s
    else .next (match s1.cellAt line with
      | some c => if c.gath then s1.modCell line fun c => { c with queue := c.queue ++ [HomeReq.reg j cls] } else s1.regHome line cls j
      | none => s1.regHome line cls j).tick
  | _ => .next s

/-- The partial of a slice. -/
def State.partialAt (s : State) (j line : Nat) : Option Partial := s.partials.find? fun x => x.slice == j && x.line == line
def State.dropPartial (s : State) (j line : Nat) : State :=
  { s with partials := s.partials.filter fun x => !(x.slice == j && x.line == line) }

/-- The event REGACK: ACC-R becomes ACC-P, and the held terms are performed; a REGACK that the slice has treated as received is
discarded. -/
def execRegack (k : Nat) (s : State) : Out :=
  match s.takeOrdered k with
  | some (.regack j line, s1) =>
    if s1.discards.contains (j, line) then .next { s1 with discards := s1.discards.erase (j, line) }.tick
    else
      let hit := fun (x : Partial) => x.slice == j && x.line == line
      .next { s1 with partials := mapIf hit (fun x => { x with registered := true, owners := [] }) s1.partials }.tick
  | _ => .next s

/-- The event COLLECT. A slice in ACC-R treats REGACK as received and discards the one that comes later (R220). -/
def execCollect (k : Nat) (s : State) : Out :=
  match s.takeOrdered k with
  | some (.collect j line, s1) =>
    .next (match s1.partialAt j line with
      | some x =>
        let s2 := s1.dropPartial j line
        let discards := if x.registered then s2.discards else (j, line) :: s2.discards
        { s2 with discards := discards, net := s2.net ++ [Msg.surr j line x.cls x.acc x.owners] }
      | none => { s1 with net := s1.net ++ [Msg.none_ j line] }).tick
  | _ => .next s

/-- Is a message the REG of a slice in the queue of a cell? -/
def HomeReq.isReg (j : Nat) : HomeReq → Bool
  | .reg i _ => i == j
  | .load _ _ _ _ _ _ _ | .store _ _ | .atom _ _ _ _ _ _ _ | .ldaccZero _ _ _ _ _ _ | .contrib _ _ _ _ | .remote _ _ | .clean => false

/-- The registration of a slice that a gather holds in its queue is void when the partial itself has arrived: no REGACK will
follow. -/
def State.voidReg (s : State) (j line : Nat) : State :=
  match s.cellAt line with
  | some c =>
    if c.queue.any (HomeReq.isReg j) then
      { s.modCell line fun c => { c with queue := c.queue.filter fun r => !r.isReg j } with discards := s.discards.erase (j, line) }
    else s
  | none => s

/-- The event SURR. -/
def execSurr (k : Nat) (s : State) : Out :=
  match s.takeOrdered k with
  | some (.surr j line cls acc _, s1) => if !s1.cellRoom line then .next s else .next ((s1.voidReg j line).surrender j line cls acc).tick
  | _ => .next s

/-- The event SURR_E. -/
def execSurrE (k : Nat) (s : State) : Out :=
  match s.takeOrdered k with
  | some (.surrE j line cls acc, s1) => if !s1.cellRoom line then .next s else .next (s1.surrender j line cls acc).tick
  | _ => .next s

/-- The event NONE: H is not changed. -/
def execNoneMsg (k : Nat) (s : State) : Out :=
  match s.takeOrdered k with
  | some (.none_ _ _, s1) => .next s1.tick
  | _ => .next s

/-- The event PARTIAL_EVICTION: an ACC-P partial leaves its slice; ACC-R is locked. -/
def execPartialEviction (slice line : Nat) (s : State) : Out :=
  match s.partialAt slice line with
  | some x =>
    if x.registered then
      .next { s.dropPartial slice line with net := s.net ++ [Msg.surrE slice line x.cls x.acc] }.tick
    else .next s
  | none => .next s

/-- The event GATHER_START: an eviction, a shootdown or a migration asks for the cell of a line in ACC-H. -/
def execGatherStart (line : Nat) (s : State) : Out :=
  match s.cellAt line with
  | some c => if c.gath then .next s else .next (s.accessHome (devPlace line) .clean).tick
  | none => .next s

/-! ## The bowls (R226 to R229) -/

/-- The bowl entry of a die for a line. -/
def State.bowlAt (s : State) (die line : Nat) : Option BowlEntry := s.bowls.find? fun b => b.die == die && b.line == line

/-- The sequence number that an entry records of a source. -/
def BowlEntry.seqOf (b : BowlEntry) (src : Nat) : Option Nat := (b.pairs.find? fun x => x.1 == src).map (·.2)

/-- What is left of the path of a message that leaves the switch of die `d` for the home of a line. -/
def pathAfter (d line : Nat) : List Nat := if d = cellHome line / 16 then [] else [cellHome line / 16]

/-- The staging slots of the engines (R262): the first of a chunk of the collective of a chain, beyond every line's address, with the
receiver's die. -/
def chunkKey (die chain chunk : Nat) : Nat := 2 ^ 60 + ((die * 256 + chain) * 65536 + chunk) * 512
def keyDie (key : Nat) : Nat := (key - 2 ^ 60) / (512 * 65536 * 256) % 4
def keyChain (key : Nat) : Nat := (key - 2 ^ 60) / (512 * 65536) % 256

/-- What an entry emits: a message with what is left of its path. -/
def BowlEntry.message (b : BowlEntry) (replay : Bool) : Msg :=
  match b.kind with
  | .cell a => .contribution b.line b.cls a b.pairs b.owners b.die replay (pathAfter b.die b.line)
  | .chunk v => .chunk b.line v b.pairs b.die replay (if b.die = keyDie b.line then [] else [keyDie b.line])

/-- The entries of the 4,096 that it takes: one for each element. -/
def BowlEntry.size (b : BowlEntry) : Nat :=
  match b.kind with
  | .cell _ => 1
  | .chunk v => v.vals.length

/-- Values of one kind combine element by element (R230, R262). -/
def BowlKind.combine : BowlKind → BowlKind → BowlKind
  | .cell a, .cell b => .cell (a.combine b)
  | .chunk x, .chunk y => .chunk { vals := (x.vals.zip y.vals).map fun (a, b) => a.combine b, cmap := x.cmap ||| y.cmap }
  | x, _ => x

/-- Emit an entry toward its home. -/
def State.emitBowl (s : State) (b : BowlEntry) : State :=
  { s with bowls := s.bowls.filter (fun x => !(x.die == b.die && x.line == b.line)), net := s.net ++ [b.message false] }

/-- An arriving contribution at a switch (R228), as the entry that it would open. -/
def State.bowlTake (s : State) (e : BowlEntry) (replay : Bool) : State :=
  let pass := { s with net := s.net ++ [e.message replay] }
  let opens := fun (s : State) => { s with bowls := s.bowls ++ [e] }
  match s.bowlAt e.die e.line with
  | some b =>
    let same := e.pairs.any fun x => b.seqOf x.1 == some x.2
    if replay then if same then s else pass
    else if b.cls == e.cls && e.pairs.all fun x => (b.seqOf x.1).isNone then
      { s with bowls := mapIf (fun x => x.die == e.die && x.line == e.line) (fun x =>
          { x with kind := x.kind.combine e.kind, pairs := x.pairs ++ e.pairs, owners := x.owners ++ e.owners }) s.bowls }
    else if same then s
    else if e.pairs.any fun x => (b.seqOf x.1).isSome then opens (s.emitBowl b)
    else pass
  | none =>
    if replay then pass
    else if ((s.bowls.filter fun b => b.die == e.die).map BowlEntry.size).sum + e.size ≤ 4096 then opens s
    else pass

/-- The event BOWL_CONTRIBUTION: the `k`-th message reaches the next switch of its path. -/
def execBowlContribution (k : Nat) (s : State) : Out :=
  match s.takeOrdered k with
  | some (.contribution line cls term pairs owners die replay (d :: ds), s1) =>
    .next (s1.hop k (.contribution line cls term pairs owners die replay (d :: ds)) fun s2 => s2.bowlTake
      { die := d, line := line, cls := cls, kind := .cell term, pairs := pairs, owners := owners, opened := s.clk } replay).tick
  | some (.chunk key val pairs die replay (d :: ds), s1) =>
    .next (s1.hop k (.chunk key val pairs die replay (d :: ds)) fun s2 => s2.bowlTake
      { die := d, line := key, cls := .rc, kind := .chunk val, pairs := pairs, owners := [], opened := s.clk } replay).tick
  | _ => .next s

/-- The event BOWL_EMISSION: the `k`-th entry, at the latest 64 clocks after it was opened. -/
def execBowlEmission (k : Nat) (s : State) : Out :=
  match s.bowls[k]? with
  | some b => .next (s.emitBowl b).tick
  | none => .next s

/-- Put a message after the `k`-th. -/
def insertAfter (l : List Msg) (k : Nat) (m : Msg) : List Msg := l.take (k + 1) ++ m :: l.drop (k + 1)

/-- The event LINK_REPLAY: the link layer re-sends the frame of the `k`-th message, a contribution or a chunk between two dies. The
copy carries the replay mark; the original was lost, or arrives as well. -/
def execLinkReplay (k : Nat) (lost : Bool) (s : State) : Out :=
  match s.net[k]? with
  | some (.contribution line cls term pairs owners die _ (p :: ps)) =>
    if lost then .next { s with net := s.net.set k (.contribution line cls term pairs owners die true (p :: ps)) }.tick
    else .next { s with net := insertAfter s.net k (.contribution line cls term pairs [] die true (p :: ps)) }.tick
  | some (.chunk key val pairs die _ (p :: ps)) =>
    let copy : Msg := .chunk key val pairs die true (p :: ps)
    .next { s with net := if lost then s.net.set k copy else insertAfter s.net k copy }.tick
  | _ => .next s

end Sys2Proof.Machine
end

