-- ==== Sys2Proof/Machine/Coherence.lean ====
section
/-!
DEFINITION. The events of coherence: notification tokens, directory probes and their answers (spec/17 R346, R347), passes
and their outcomes (R350 to R352), and page walks (spec/18 R367).
-/
namespace Sys2Proof.Machine

open Sys2Proof

/-- Invalidate the copies of a line in the L1s that `q` selects. PV copies are not probed, and WS copies are not
invalidated by a store. -/
def State.invalidate (s : State) (p : Place) (q : Nat → Bool) : State :=
  { s with l1 := s.l1.filter fun l => !(l.place == p.line && q l.core && l.cls != .pv && l.cls != .ws) }

/-- Is a token of the home die among the messages? Tokens are delivered in the order in which they entered (R346). -/
def tokenBefore (die : Nat) (before : List Msg) : Bool :=
  before.any fun m => match m with
    | .token p _ _ _ => homeDieOf p == die
    | _ => false

/-- The event NOTIFICATION_TOKEN: the token of the `k`-th message reaches every filter of the home die, after those that
entered before it. It supersedes the passes of the line that were sent before its store; for a WS line it invalidates
nothing. -/
def execNotificationToken (k : Nat) (s : State) : Out :=
  match s.net[k]? with
  | some (.token p core cls _) =>
    if tokenBefore (homeDieOf p) (s.net.take k) then .next s
    else
      let net := (stalePasses p.line (fun c => dieOf c == homeDieOf p) k s.net).eraseIdx k
      let s1 := { s with net := net }
      .next (if cls = .ws then s1 else s1.invalidate p fun c => dieOf c == homeDieOf p && c != core).tick
  | _ => .next s

/-- Does a club hold a line of the 512-byte region? -/
def State.clubHolds (s : State) (p : Place) (club : Nat) : Bool :=
  s.l1.any fun l => clubOf l.core == club && l.place.space == p.space && regionBase l.place.addr == regionBase p.addr

/-- Is a pass of a line of the region on its way to the club? -/
def passComing (p : Place) (club : Nat) (net : List Msg) : Bool :=
  net.any fun m => match m with
    | .pass q _ _ _ _ core _ _ _ => clubOf core == club && q.lineNo / 4 == p.lineNo / 4
    | _ => false

/-- The event DIRECTORY_PROBE: the club's filter probes its cores and answers. Its WS lines stay. -/
def execDirectoryProbe (k : Nat) (s : State) : Out :=
  match s.net[k]? with
  | some (.probe p club core cls owner) =>
    let net := (stalePasses p.line (fun c => clubOf c == club) k s.net).eraseIdx k
    let s1 := { s with net := net }
    let s1 := if cls = .ws then s1 else s1.invalidate p fun c => clubOf c == club && c != core
    .next { s1 with net := s1.net ++ [Msg.probeAck p club (s1.clubHolds p club) owner] }.tick
  | _ => .next s

/-- The event PROBE_ACK: a club that holds no line of the region, and to which no pass of one is on its way, leaves the
directory. -/
def execProbeAck (k : Nat) (s : State) : Out :=
  match s.net[k]? with
  | some (.probeAck p club held _) =>
    let s1 := { s with net := s.net.eraseIdx k }
    if held || s1.clubHolds p club || passComing p club s1.net then .next s1.tick
    else .next { s1 with directory := s1.directory.filter (· != dirKey p club) }.tick
  | _ => .next s

/-- Is a notification of a store of the core itself to the line among the messages? -/
def ownNotice (p : Place) (core : Nat) (net : List Msg) : Bool :=
  net.any fun m => match m with
    | .token q c _ _ => q == p.line && c == core
    | .probe q _ c _ _ => q == p.line && c == core
    | _ => false

/-- The event PASS_ARRIVAL: the filter installs, drops or refuses the pass, and the outcome goes back. A store of the core
itself that the home performed after it sent the pass supersedes it as well. -/
def execPassArrival (k : Nat) (s : State) : Out :=
  match s.net[k]? with
  | some (.pass p cls data _ target core owner also stale) =>
    let late := ownNotice p core (s.net.drop (k + 1))
    let (s1, refused) := { s with net := s.net.eraseIdx k }.takePass p cls data owner.task target core (stale || late)
    .next { s1 with net := s1.net ++ [Msg.passOutcome owner also refused] }.tick
  | _ => .next s

/-- The event PASS_OUTCOME: a refusal adds 1 to passref of the issuer's team. -/
def execPassOutcome (k : Nat) (s : State) : Out :=
  match s.net[k]? with
  | some (.passOutcome owner _ refused) =>
    let s1 := { s with net := s.net.eraseIdx k }
    .next (if refused then s1.addRefusal owner else s1).tick
  | _ => .next s

/-- The event PAGE_WALK: a walker completes a miss of a core, and the buffer keeps the translation. -/
def execPageWalk (core ctx : Nat) (va : BitVec 57) (s : State) : Out :=
  if core < 256 then .next (s.fillLtb core ctx va.toNat).tick else .next s

end Sys2Proof.Machine
end

