-- ==== Sys2Proof/Machine/Operands.lean ====
section
/-!
DEFINITION. The operand forms of the ALU mould (spec/03 R68 to R70, spec/04 R91): vector, scalar, uniform and immediate
sources, and the writing of results with their status bits.
-/
namespace Sys2Proof.Machine

open Sys2Proof

/-- The register files that one operation reads: those of a lane and its warp, or of the warp alone. -/
structure View where
  vec : Nat → Word
  sc : Nat → Word

/-- What a lane reads. -/
def Ctx.laneView (c : Ctx) (t : Thread) : View := { vec := t.reg, sc := (c.warp t).sreg }
/-- What the uniform form reads (R69): every register operand is a scalar register. -/
def warpView (w : Warp) : View := { vec := w.sreg, sc := w.sreg }

/-- One register or a pair as a number. -/
def readRegs (f : Nat → Word) (r n : Nat) : Nat :=
  if n = 2 then (f r).toNat + 2 ^ 32 * (f (r + 1)).toNat else (f r).toNat

/-- A data register of the mould's file. -/
def View.data (v : View) (r : RegNum) (n : Nat) : Nat := readRegs v.vec r.val n

/-- Operand B as data of `n` registers (R68 to R70). -/
def View.src (v : View) (b : Src) (n : Nat) : Nat :=
  match b with
  | .vec r => readRegs v.vec r.val n
  | .sc r | .uni r => readRegs v.sc r.val n
  | .imm8 x => (x.signExtend (32 * n)).toNat
  | .imm32 x | .uimm32 x => (x.signExtend (32 * n)).toNat
  | .imm64 x | .uimm64 x => x.toNat % 2 ^ (32 * n)

/-- Operand B as a control operand (R91): one 32-bit register, or the low 32 bits of the immediate. -/
def View.ctl (v : View) (b : Src) : Nat :=
  match b with
  | .vec r => (v.vec r.val).toNat
  | .sc r | .uni r => (v.sc r.val).toNat
  | .imm8 x => (x.signExtend 32).toNat
  | .imm32 x | .uimm32 x => x.toNat
  | .imm64 x | .uimm64 x => x.toNat % 2 ^ 32

/-- A vector or scalar source that a MOD bit selects. -/
def View.vs (v : View) (r : VSReg) : Word :=
  match r with
  | .vec r => v.vec r.val
  | .sc r => v.sc r.val
/-- The same as one register or a pair. -/
def View.vsN (v : View) (r : VSReg) (n : Nat) : Nat :=
  match r with
  | .vec r => readRegs v.vec r.val n
  | .sc r => readRegs v.sc r.val n

/-- Write a result of `n` registers to a thread. -/
def Thread.putRegs (t : Thread) (r n v : Nat) : Thread :=
  if n = 2 then t.setPair r (BitVec.ofNat 64 v) else t.setReg r (BitVec.ofNat 32 v)
/-- Write a result of `n` registers to a warp's scalar window. -/
def Warp.putRegs (w : Warp) (r n v : Nat) : Warp :=
  if n = 2 then w.setSpair r (BitVec.ofNat 64 v) else w.setSreg r (BitVec.ofNat 32 v)

/-- Run an operation of the mould: per active lane, or, in the uniform form, once per warp with an active lane, its
status bits then set in every active lane of that warp (R69, R92). -/
def runAlu (i : Instr) (gs : Guards) (uniform : Bool) (d : RegNum) (n : Nat) (s : State) (f : View → Rounded) : Out :=
  run i gs s fun c act =>
    if uniform then
      let s1 := s.eachLane c act fun t => t.setSts (f (warpView (c.warp t))).sts
      .ok (s1.eachWarp c act fun _ w => w.putRegs d.val n (f (warpView w)).code)
    else
      .ok (s.eachLane c act fun t =>
        let r := f (c.laneView t)
        (t.setSts r.sts).putRegs d.val n r.code)

/-- Run a comparison of the mould: the uniform form writes its single result to every active lane (R98, R105). -/
def runCmp (i : Instr) (gs : Guards) (uniform : Bool) (p : PredNum) (s : State) (f : View → Bool × Sts) : Out :=
  run i gs s fun c act =>
    .ok (s.eachLane c act fun t =>
      let r := f (if uniform then warpView (c.warp t) else c.laneView t)
      (t.setSts r.2).setPred p.val r.1)

end Sys2Proof.Machine
end

