-- ==== Sys2Proof/Machine/Issue.lean ====
section
/-!
DEFINITION. From a program counter to an instruction: fetch (spec/03 R59 to R62, R66 steps 1 to 4, spec/18 R366, R371)
and the advance of a repeated instruction's fields (spec/05 R137 to R139).
-/
namespace Sys2Proof.Machine

open Sys2Proof

/-- What the fetch of a group gives. -/
inductive Fetched where
  | ok (i : Instr)
  | fault (f : FaultInfo)
  /-- the page is migrating: the access is held (R160, R373) -/
  | held (page : Nat)
  /-- the line is in an accumulate state: it is gathered first (R220) -/
  | gather (p : Place)
  /-- a pad word, which is skipped (R60): code that was rewritten shows one where the thread stands (R62) -/
  | pad
  | hole (addr : Nat)

/-- A fault of the whole group that names the address `a` (R61, R366). -/
def fetchFault (cause reason a : Nat) (members : List Nat) : FaultInfo :=
  { FaultInfo.plain cause reason members with
    details := members.map fun m => { tid := m, index := none, faddr := some (a % 2 ^ 57), opnd := none } }

/-- The bytes of the aligned 32-byte block that holds `a` (R61), after the checks of R366 and R371. -/
inductive Block where
  | ok (bs : List Byte)
  | fault (f : FaultInfo)
  | held (page : Nat)
  | gather (p : Place)
  | hole (addr : Nat)

/-- The fetch block that holds `a` as memory was when the task's record was dequeued, where that memory maps it. -/
def State.oldCode (s : State) (tk : Task) (a : Nat) : Option (List Byte) :=
  match (s.asDequeued tk).walkXlat tk.ctx (a / 32 * 32) with
  | .ok x => match x.place.space with
    | .dev | .host => some ((s.asDequeued tk).readBytes x.place 32)
    | .remote _ => none
  | .bad | .hole _ => none

/-- The bytes of a fetch block: each word that differs from what it was at the dequeue is the old or the new one (R62), a
free choice. -/
def State.codeBytes (s : State) (tk : Task) (a : Nat) (p : Place) : List Byte :=
  let new := s.readBytes p 32
  match s.oldCode tk a with
  | none => new
  | some old => (List.range 8).flatMap fun j =>
    leBytes 4 (s.oldOrNew (a / 32 * 32 + 4 * j) (wordAt old (4 * j)) (wordAt new (4 * j))).toNat

/-- Read a fetch block: the walk and the lease (log entry 60), execute permission, then the bytes. -/
def State.fetchBlock (s : State) (tk : Task) (core a : Nat) (members : List Nat) : Block :=
  let lease := fun r => Block.fault (fetchFault causeLease r (a / 128 * 128) members)
  if 2 ^ 57 ≤ a then lease 1
  else match s.leaseCheck (s.leaseOf tk.slot) (pageOf a), s.translate core tk.ctx (a / 32 * 32) with
    | .revoked, _ => lease 5
    | .hole h, _ => .hole h
    | _, .bad => lease 2
    | _, .hole h => .hole h
    | .outside, .ok _ => lease 1
    | .covered _, .ok x =>
      if x.mig || s.heldPages.contains (tk.ctx, pageOf a) then .held (pageOf a)
      else if !x.canExec then lease 3
      else match placeHole x.place 32 with
        | some h => .hole h
        | none =>
          if x.place.space == .dev && (s.cellAt (lineBase x.place.addr)).isSome then .gather x.place.line
          else .ok (s.codeBytes tk a x.place)

/-- The fields of an instruction at byte `o` of a block; `none` when it would leave the block. -/
def fieldsAt (bs : List Byte) (o : Nat) (len : Len) : Option Fields :=
  if o + len.bytes ≤ 32 then
    some (Fields.ofWords len (wordAt bs o) (wordAt bs (o + 4)) (wordAt bs (o + 8)) (wordAt bs (o + 12)))
  else none

/-- The largest number of an advanced field's class (R65). -/
def classTop : RegClass → Nat
  | .vector | .scalar => 256
  | .longAcc => 16
  | .tile => 8

/-- The field's value, and the fields with another value there. -/
def fieldGet (f : Fields) : RegField → Nat
  | .fD => f.d.val | .fA => f.a.val | .fB => f.b.val | .fC => f.c.val | .fE => 0
def fieldPut (f : Fields) (r : RegField) (v : Nat) : Fields :=
  match r with
  | .fD => { f with d := fld v }
  | .fA => { f with a := fld v }
  | .fB => { f with b := fld v }
  | .fC => { f with c := fld v }
  | .fE => f

/-- The fields that the mask of REP selects: bit 0 D, 1 A, 2 B, 3 C (R137). -/
def maskFields (m : BitVec 4) : List RegField :=
  (if bitAt m 0 then [.fD] else []) ++ (if bitAt m 1 then [.fA] else []) ++ (if bitAt m 2 then [.fB] else []) ++
    (if bitAt m 3 then [.fC] else [])

/-- The instruction of iteration `it` (R137): the selected fields advanced by `it` × stride. An opcode that REP does not
take, or a selected field without a register, raises ILLEGAL INSTRUCTION (R139); an advanced value beyond its class's
range raises REGISTER BOUND in the active lanes, unless the other checks of step 4 fail first. DESIGN CHOICE (log entry 67): OPND then
names the first such field in the order D, A, B, C, ahead of any other operand that fails. -/
def repeated (c : Ctx) (f : Fields) (rep : Rep) : Fetched :=
  let bad := fun r => Fetched.fault (c.illegalInfo r)
  match decodeFields f with
  | .bad e => bad e.step
  | .ok i0 _ =>
    let us := i0.uses c.wide
    let sel := maskFields rep.mask
    if (0x300 ≤ f.op.val ∧ f.op.val ≤ 0x318) ∨ sel.any fun r => !us.any fun u => u.fld == r then bad 7
    else
      let step := rep.iter.toNat * rep.stride.toNat
      let top := fun (r : RegField) => ((us.find? fun u => u.fld == r).map fun u => classTop u.cls).getD 256
      let f' := sel.foldl (fun g r => fieldPut g r ((fieldGet f r + step) % top r)) f
      match decodeFields f' with
      | .bad e => bad e.step
      | .ok i _ =>
        let beyond := sel.filter fun r => decide (top r ≤ fieldGet f r + step)
        let act := c.active f.guards
        match beyond with
        | [] => .ok i
        | r :: _ =>
          if act.isEmpty || !(i.uses c.wide).all RegUse.aligned then .ok i
          else .fault { FaultInfo.plain causeRegister 0 (act.map (·.tid)) with
            details := act.map fun t =>
              { tid := t.tid, index := none, faddr := none,
                opnd := some (((us.find? fun u => u.fld == r).map fun u => regClassCode u.cls).getD 0,
                  min 255 (fieldGet f r + step)) } }

/-- The repeat state of the group: that of its first thread (R138: all show the same iteration). -/
def Ctx.rep (c : Ctx) : Rep :=
  match c.threads with
  | t :: _ => t.rep
  | [] => Rep.none

/-- Fetch and decode the instruction of a group (R66 steps 1 to 4). -/
def State.fetch (s : State) (c : Ctx) : Fetched :=
  let a := c.g.addr.toNat
  let ms := c.g.members
  if a % 4 ≠ 0 then .fault (fetchFault causeFetch 0 a ms)
  else match s.fetchBlock c.tk c.tm.core a ms with
    | .fault f => .fault f
    | .held p => .held p
    | .gather p => .gather p
    | .hole h => .hole h
    | .ok bs =>
      match lenOf (wordAt bs (a % 32)) with
      | none => if wordAt bs (a % 32) = padWord then .pad else .fault (c.illegalInfo 2)
      | some len =>
        match fieldsAt bs (a % 32) len with
        | none => .fault (fetchFault causeFetch 0 a ms)
        | some f =>
          if c.g.iter.isSome then repeated c f c.rep
          else match decodeFields f with
            | .ok i _ => .ok i
            | .bad e => .fault (c.illegalInfo e.step)

/-- Threads that wait at translation for the page (R160): they hold the instruction and are not ready. -/
def State.holdThreads (s : State) (c : Ctx) (page : Nat) (tids : List Nat) : State :=
  s.modTeam c.tk.id c.tm.team fun tm =>
    tm.modThreads (fun t => tids.contains t.tid) fun t => { t with wait := .held c.tk.ctx page, dog := 0 }

/-- What a selected group does next. -/
inductive Issue where
  /-- execute this instruction -/
  | exec (i : Instr)
  /-- the fetch itself decided the next state -/
  | next (s : State)
  | stop (f : Fault)

/-- The group's instruction, or the fault of its fetch. -/
def State.issue (s : State) : Issue :=
  match s.ctx with
  | none => .next s
  | some c =>
    match s.fetch c with
    | .ok i => .exec i
    | .fault f => .next (s.raise c f).tick
    | .held p => .next (s.holdThreads c p c.g.members).tick
    | .gather p => .next (if s.gathering p then s.stalled c c.g.members else (s.gatherAll [p]).tick)
    | .pad => .next (s.eachLane c c.threads fun t => { t with pc := BitVec.ofNat 64 (s.skipPads c.tk (c.g.addr.toNat + 4)) }).tick
    | .hole h => .stop (.physicalHole h)

end Sys2Proof.Machine
end

