-- ==== Sys2Proof/Machine/Records.lean ====
section
/-!
DEFINITION. Buffer records (spec/01 R18 to R21): their fields, the tests that the launch unit and RECD make, and the
address of an element.
-/
namespace Sys2Proof.Machine

open Sys2Proof

/-- The fields of a buffer record (R18). -/
def recBase (r : BitVec 256) : Nat := bitsNat r 0 57
def recExtent (r : BitVec 256) : Nat := bitsNat r 64 40
def recStride (r : BitVec 256) : Nat := bitsNat r 104 24
def recEszCode (r : BitVec 256) : Nat := bitsNat r 128 3
/-- Element size in bytes. -/
def recEsz (r : BitVec 256) : Nat := 2 ^ recEszCode r
def recSwzEn (r : BitVec 256) : Bool := bitAt r 132
def recSwzSrc (r : BitVec 256) : Nat := bitsNat r 133 6
def recSwzWid (r : BitVec 256) : Nat := bitsNat r 139 3
def recSwzDst (r : BitVec 256) : Nat := bitsNat r 142 4
def recR (r : BitVec 256) : Bool := bitAt r 146
def recW (r : BitVec 256) : Bool := bitAt r 147
def recA (r : BitVec 256) : Bool := bitAt r 148
def recP (r : BitVec 256) : Bool := bitAt r 149
/-- OOB: `true` is TRAP. -/
def recOob (r : BitVec 256) : Bool := bitAt r 150
def recRdonly (r : BitVec 256) : Bool := bitAt r 151
def recValid (r : BitVec 256) : Bool := bitAt r 152

/-- The last byte that a record reaches, with EXTENT at least 1. -/
def recLast (r : BitVec 256) : Nat := recBase r + (recExtent r - 1) * recStride r + recEsz r - 1

/-- The tests of R20 on a valid record. -/
def recOk (r : BitVec 256) : Bool :=
  bitsNat r 153 103 == 0 && !bitAt r 131 && bitsNat r 57 7 == 0 && decide (recEszCode r < 5) &&
    recBase r % recEsz r == 0 &&
    (if recSwzEn r then recSwzWid r != 0 && decide (recSwzDst r + recSwzWid r ≤ recSwzSrc r)
     else recSwzWid r == 0 && recSwzDst r == 0 && recSwzSrc r == 0) &&
    (recExtent r == 0 || decide (recLast r < 2 ^ 57))

/-- The address of element `n` (R19). -/
def recAddr (r : BitVec 256) (n : Nat) : Nat :=
  let o := n * recStride r
  let x := if recSwzEn r then (o / 2 ^ recSwzSrc r % 2 ^ recSwzWid r) * 2 ^ recSwzDst r else 0
  recBase r + (o ^^^ x)

/-- The record that RECD derives (R182): `start`, `ext`, removed permissions, and OOB set to TRAP; `none` where the
instruction raises RECORD BOUND. -/
def recDerive (r : BitVec 256) (start ext : Nat) (drop : BitVec 4) (trap : Bool) : Option (BitVec 256) :=
  if !recValid r || decide (recExtent r < start + ext) then none
  else
    let off := start * recStride r
    if recSwzEn r && off % 2 ^ (recSwzSrc r + recSwzWid r) != 0 then none
    else
      let keep := r &&& ~~~ (BitVec.ofNat 256 ((2 ^ 57 - 1) + (2 ^ 40 - 1) * 2 ^ 64 + drop.toNat * 2 ^ 146))
      let new := keep ||| BitVec.ofNat 256
        ((recBase r + off) % 2 ^ 57 + ext % 2 ^ 40 * 2 ^ 64 + (if trap then 2 ^ 150 else 0))
      if recBase r + off < 2 ^ 57 && recOk new then some new else none

/-- The item that RECQ reads (R183). -/
def recItem (r : BitVec 256) : RecItem → Nat
  | .base => recBase r
  | .extent => recExtent r
  | .stride => recStride r
  | .esize => recEsz r
  | .flags =>
    let b := fun (x : Bool) (k : Nat) => if x then 2 ^ k else 0
    b (recR r) 0 + b (recW r) 1 + b (recA r) 2 + b (recP r) 3 + b (recOob r) 4 + b (recRdonly r) 5 + b (recValid r) 6 +
      b (recSwzEn r) 7

/-- The record of a thread (R184): its own warp's copy of b48 to b63. -/
def Ctx.recOf (c : Ctx) (b : RecNum) (t : Thread) : BitVec 256 := recordOf c.tk (c.warp t) b.val

end Sys2Proof.Machine
end

