-- ==== Sys2Proof/Machine/Access.lean ====
section
/-!
DEFINITION. The checks of a record-addressed access (spec/06 R155 to R160), the view of a DO page (spec/10 R241 to R244),
the scratchpad (R170, R171), and the scopes that an ordering gives (R334, R335, R338).
-/
namespace Sys2Proof.Machine

open Sys2Proof

/-! ## Steps 1 to 5 of R155 -/

/-- One active lane of a record side: the thread, its warp's record, and its element index. -/
structure LaneIdx where
  t : Thread
  r : BitVec 256
  n : Int

/-- What a record side needs: the permissions, the width (where step 2 is made), and the alignment of an address. -/
structure SideNeed where
  perm : BitVec 256 → Bool
  width : Option Nat
  align : Nat

/-- A record side of an instruction: the record's number, its lanes, its needs. -/
structure Side where
  buf : RecNum
  lanes : List LaneIdx
  need : SideNeed

/-- Is the lane's index within the record (step 3)? -/
def LaneIdx.inside (l : LaneIdx) : Bool := decide (0 ≤ l.n) && decide (l.n < recExtent l.r)
/-- The lane's address (R19), for an index inside the record. -/
def LaneIdx.addr (l : LaneIdx) : Nat := recAddr l.r l.n.toNat

/-- Does a lane fail step `k` of R155? -/
def stepFails (need : SideNeed) (k : Nat) (l : LaneIdx) : Bool :=
  match k with
  | 1 => !(recValid l.r && need.perm l.r)
  | 2 => need.width.any fun w => decide (recEsz l.r < w)
  | 3 => recOob l.r && !l.inside
  | _ => l.inside && l.addr % need.align != 0

/-- The fault of the first step with failures, the source side first (R155, R175). -/
def sidesFault (sides : List Side) : Option FaultInfo :=
  ([1, 2, 3, 4].flatMap fun k => sides.map fun sd => (k, sd)).findSome? fun (k, sd) =>
    let bad := sd.lanes.filter (stepFails sd.need k)
    if bad.isEmpty then none
    else some
      { FaultInfo.plain causeRecord k (bad.map (·.t.tid)) with
        buf := some sd.buf.val
        details := bad.map fun l => { tid := l.t.tid, index := some (BitVec.ofInt 64 l.n), faddr := none, opnd := none } }

/-- The lanes of a side whose index and addend are given by the operands (R155). -/
def Ctx.laneIdx (c : Ctx) (act : List Thread) (idx : VSReg) (buf : RecNum) (k : Int) : List LaneIdx :=
  act.map fun t => { t := t, r := c.recOf buf t, n := ((c.laneView t).vs idx).toNat + k }

/-- The addend K: 0 in the 64-bit form (R152). -/
def addendOf (k : Option (BitVec 32)) : Int :=
  match k with
  | some x => x.toInt
  | none => 0

/-! ## Step 6: translation and class (R159, R160) -/

/-- What an access does to the lines it touches. -/
structure Touch where
  write : Bool
  /-- the classes that R159 accepts of a thread's access -/
  cls : Thread → Cls → Bool
  /-- the lines that the instruction skips once their class is known (R168) -/
  skip : Xlat → Bool := fun _ => false

/-- The outcome of one line (R160). -/
inductive LineOut where
  | ok (x : Xlat)
  | held (page : Nat)
  | lease (reason : Nat)
  | refused | cls | aliasing | retry
  | hole (addr : Nat)
  deriving DecidableEq, Repr

/-- Does merging hold the line under another class than `cls` (R225): in a cell, a partial, a bowl, a contribution on its way or
held by a gather? -/
def State.mergeTagged (s : State) (line : Nat) (cls : Cls) : Bool :=
  (s.cells.any fun c => c.line == line && (c.cls != cls || c.queue.any fun r => match r with
    | .contrib _ k _ _ => k != cls
    | _ => false)) ||
  (s.partials.any fun c => c.line == line && c.cls != cls) ||
  (s.bowls.any fun b => b.line == line && b.cls != cls) ||
  s.net.any fun m => match m with
    | .contribution l k _ _ _ _ _ _ => l == line && k != cls
    | _ => false

/-- Is the physical line held under another class (R225, R345)? In this core's L1, in a replica of its club and in merging that
is certain; an L2 tag may have left the slice since: a free choice. -/
def State.aliased (s : State) (core : Nat) (x : Xlat) : Bool :=
  let p := x.place.line
  (s.l1.any fun l => l.core == core && l.place == p && l.cls != x.cls) ||
    (s.replicas.any fun r => r.club == clubOf core && r.place == p && r.cls != x.cls) ||
    (p.space == .dev && s.mergeTagged p.addr x.cls) ||
    ((s.l2.any fun l => l.place == p && l.cls != x.cls) && Config.freeBit (s.key (p.lineNo % 2 ^ 32)))

/-- The outcome of a translated line that is neither held nor outside the lease: the classes that the access accepts (R159, R357),
then CLASS ALIAS. Another device answers a load as it likes, but for a PV page, which it refuses (R356); a store or atomic
to it retires on the local checks. -/
def State.classOut (s : State) (c : Ctx) (k : Touch) (t : Thread) (x : Xlat) : LineOut :=
  if k.skip x then .ok x
  else if x.place.space == .host && (x.cls == .pv || x.cls == .ord) then .cls
  else if !k.cls t x.cls then .cls
  else if s.aliased c.tm.core x then .aliasing
  else match x.place.space with
    | .dev | .host => .ok x
    | .remote _ =>
      if k.write then .ok x
      else if x.cls = .pv then .refused
      else match Config.freePick (s.key (x.place.lineNo % 2 ^ 32)) % 4 with
        | 1 => .refused
        | 2 => .retry
        | 3 => .aliasing
        | _ => .ok x

/-- The outcome of the line at `va`. A removed range comes before the walk, and a walk that fails before the lease's ranges
(R366, R372, log entry 60). -/
def State.lineOut (s : State) (c : Ctx) (k : Touch) (t : Thread) (va : Nat) : LineOut :=
  if 2 ^ 57 ≤ va then .lease 1
  else
    let lease := s.leaseCheck (s.leaseOf c.tk.slot) (pageOf va)
    match lease, s.translate c.tm.core c.tk.ctx va with
    | .revoked, _ => .lease 5
    | .hole h, _ => .hole h
    | _, .bad => .lease 2
    | _, .hole h => .hole h
    | .outside, .ok _ => .lease 1
    | .covered wr, .ok x =>
      if k.write && !wr then .lease 4
      else if x.mig || s.heldPages.contains (c.tk.ctx, pageOf va) then .held (pageOf va)
      else if k.write && !x.canWrite then .lease 4
      else match placeHole x.place.line 128 with
        | some h => .hole h
        | none => s.classOut c k t x

/-- A lane that passed every check: dropped at step 3, or with the virtual address and translation of each line it
touches, in ascending order. -/
structure LaneOk where
  t : Thread
  dropped : Bool
  lines : List (Nat × Xlat)
  /-- the buffer record through which it reaches its first line -/
  buf : Option Nat := none

/-- What an access of the group to the line at `va` keeps of its page and its instruction. -/
def Ctx.via (c : Ctx) (buf : Option Nat) (va : Nat) (x : Xlat) : Via :=
  { cp := x.cp, va := some (lineBase va), buf := buf, pc := some c.g.addr.toNat, iter := c.g.iter, core := some c.tm.core }

/-- The virtual addresses of the lines of `n` bytes at `va`; the first is `va` itself. -/
def lineVas (va n : Nat) : List Nat :=
  va :: ((List.range (n / 128 + 1)).map fun j => lineBase va + 128 * (j + 1)).filter (· < va + n)

/-- One line that a lane touches: its virtual address, and the buffer record through which it is reached. -/
structure LineRef where
  va : Nat
  buf : Option Nat

/-- The buffer record that a fault record names, out of those through which failing lines are reached: any. -/
def pickBuf (key : Nat) (bufs : List (Option Nat)) : Option Nat :=
  let bs := bufs.dedup
  (bs[(if bs.length = 1 then 0 else Config.freePick key % bs.length)]?).join

/-- The fault of a group whose lines have outcomes: LEASE ends the task; otherwise REMOTE REFUSED, CLASS, CLASS ALIAS in
this order (R160). It names the lanes with that outcome, with the address of their line. -/
def linesFault (key : Nat) (outs : List (Thread × List (LineRef × LineOut))) : Option FaultInfo :=
  let pick := fun (p : LineOut → Option (Nat × Nat)) =>
    outs.findSome? fun (_, ls) => ls.findSome? fun (_, o) => p o
  let mk := fun (cr : Nat × Nat) (same : LineOut → Bool) =>
    let bad := outs.filterMap fun (t, ls) => (ls.find? fun (_, o) => same o).map fun (r, _) => (t, r)
    { FaultInfo.plain cr.1 cr.2 (bad.map (·.1.tid)) with
      buf := pickBuf key (bad.map (·.2.buf))
      details := bad.map fun (t, r) => { tid := t.tid, index := none, faddr := some (lineBase r.va), opnd := none } }
  match pick fun o => match o with | .lease r => some (causeLease, r) | _ => none with
  | some cr => some (mk cr fun o => o == .lease cr.2)
  | none =>
    match pick fun o => match o with | .refused => some (causeRemote, 0) | _ => none with
    | some cr => some (mk cr fun o => o == .refused)
    | none =>
      match pick fun o => match o with | .cls => some (causeClass, 0) | _ => none with
      | some cr => some (mk cr fun o => o == .cls)
      | none => (pick fun o => match o with | .aliasing => some (causeAlias, 0) | _ => none).map fun cr =>
          mk cr fun o => o == .aliasing

/-- The DO lines of this device that hold a cell: the view of R244 is that of the merged cell, so they are gathered first. -/
def State.doCells (s : State) (lanes : List LaneOk) : List Place :=
  if s.cells.isEmpty then []
  else (lanes.flatMap fun l => (l.lines.filter fun x => x.2.cls == .ord && x.2.place.space == .dev &&
    (s.cellAt (lineBase x.2.place.addr)).isSome).map fun x => x.2.place.line).dedup

/-- Translate and check the lines of a list of lanes (step 6). A held line, one that migrates or one whose device asks for a
later retry, makes the whole group wait: no lane performs before every line has another outcome (R155, R160). `ok` gets the
lanes; a lane is marked as dropped or not. -/
def State.translateRefs (s : State) (c : Ctx) (k : Touch) (lanes : List (Thread × Bool × List LineRef))
    (ok : List LaneOk → Eff) : Eff :=
  let outs := lanes.map fun (t, _, rs) => (t, rs.map fun r => (r, s.lineOut c k t r.va))
  let all := outs.flatMap fun (_, ls) => ls.map (·.2)
  match all.findSome? fun o => match o with | .hole a => some a | _ => none with
  | some a => .hole a
  | none =>
    match all.findSome? fun o => match o with | .held p => some p | _ => none with
    | some p => .done (s.holdThreads c p c.g.members) { Post.none with stay := c.g.members }
    | none =>
      if all.contains .retry then .stall c.g.members
      else match linesFault (s.key 0) outs with
        | some f => .fault f
        | none =>
          let oks := (lanes.zip outs).map fun (l, o) =>
            ({ t := l.1, dropped := l.2.1,
               lines := o.2.filterMap fun (r, x) => match x with | .ok x => some (r.va, x) | _ => none,
               buf := (l.2.2.head?).bind (·.buf) } : LaneOk)
          match s.doCells oks with
          | [] => ok oks
          | ps =>
            if ps.all s.gathering then .stall c.g.members else .done (s.gatherAll ps) { Post.none with stay := c.g.members }

/-- The same where each lane touches one range through one record, or is dropped. -/
def State.translateLanes (s : State) (c : Ctx) (k : Touch) (buf : RecNum) (lanes : List (Thread × Option (Nat × Nat)))
    (ok : List LaneOk → Eff) : Eff :=
  s.translateRefs c k (lanes.map fun (t, a) => (t, a.isNone, match a with
    | none => []
    | some (va, n) => (lineVas va n).map fun v => { va := v, buf := some buf.val })) ok

/-- Keep the translations that the lanes used (R367). -/
def State.fillLtbs (s : State) (c : Ctx) (lanes : List LaneOk) : State :=
  lanes.foldl (fun s l => l.lines.foldl (fun s x => s.fillLtb c.tm.core c.tk.ctx x.1) s) s

/-- All the checks of R155 on one record side whose covered range is `size` bytes; then `ok` on the lanes. -/
def State.checkSide (s : State) (c : Ctx) (sd : Side) (size : Nat) (k : Touch) (ok : List LaneOk → Eff) : Eff :=
  match sidesFault [sd] with
  | some f => .fault f
  | none =>
    s.translateLanes c k sd.buf (sd.lanes.map fun l => (l.t, if l.inside then some (l.addr, size) else none)) ok

/-- The lanes that were dropped set bit 0 of their oobst (R156). -/
def State.markDropped (s : State) (c : Ctx) (lanes : List LaneOk) (f : Thread → Thread) : State :=
  let ids := (lanes.filter (·.dropped)).map (·.t.tid)
  s.modTeam c.tk.id c.tm.team fun tm => tm.modThreads (fun t => ids.contains t.tid) fun t => f { t with oobst := true }

/-! ## Classes that an access accepts (R159) -/

/-- A DO page accepts accesses of an ordered launch, outside a trap routine (R159, R246). -/
def Ctx.doOk (c : Ctx) : Bool := c.tk.ordered && !c.g.inRoutine

/-- LD, ST, LLOAD, LSTORE and the like. -/
def Ctx.touchLoad (c : Ctx) : Touch := { write := false, cls := fun _ x => x != .ord || c.doOk }
def Ctx.touchStore (c : Ctx) : Touch := { write := true, cls := fun _ x => x != .ord || c.doOk }
/-- ATOM, CAS. -/
def Ctx.touchAtom (c : Ctx) : Touch :=
  { write := true, cls := fun _ x => match x with | .sc | .rc => true | .ord => c.doOk | .ws | .pv => false }
/-- AACC. -/
def Ctx.touchAacc (c : Ctx) : Touch :=
  { write := true, cls := fun _ x => match x with | .sc | .rc | .pv => true | .ord => c.doOk | .ws => false }
/-- LDACC .zero. -/
def Ctx.touchLdaccZero (c : Ctx) : Touch :=
  { write := true, cls := fun _ x => match x with | .sc | .rc | .pv => true | .ord => c.doOk | .ws => false }

/-! ## Orderings -/

/-- The acquire of an access, with its scope: an SC access is one at .dv, or .sy for other memories or when written so
(R338). -/
def acquireOf (o : MemOrd) (x : Xlat) : Option Scope :=
  let own := match o with
    | .acq sc | .ar sc => some sc
    | .relaxed | .rel _ => none
  match x.cls with
  | .sc => some (match x.place.space, own with
    | .dev, some .sy => .sy
    | .dev, _ => .dv
    | _, _ => .sy)
  | .rc | .ord | .ws | .pv => own
def releaseOf (o : MemOrd) (x : Xlat) : Option Scope :=
  let own := match o with
    | .rel sc | .ar sc => some sc
    | .relaxed | .acq _ => none
  match x.cls with
  | .sc => some (match x.place.space, own with
    | .dev, some .sy => .sy
    | .dev, _ => .dv
    | _, _ => .sy)
  | .rc | .ord | .ws | .pv => own

/-- The release that stands before a store in its queue. -/
def releaseItems (k : ThreadKey) : Option Scope → List QItem
  | some sc => [.release k sc]
  | none => []

/-- A scope written in an ordering. -/
def acqScope : MemOrd → Option Scope
  | .acq sc | .ar sc => some sc
  | .relaxed | .rel _ => none
def relScope : MemOrd → Option Scope
  | .rel sc | .ar sc => some sc
  | .relaxed | .acq _ => none

/-! ## The inning buffer (R241 to R244) -/

/-- Apply an entry to the 128 bytes of its line. -/
def applyDo (bs : List Byte) : DoKind → List Byte
  | .store d m _ => maskBytes bs (lineBytes d) m
  | .atom op p =>
    let o := p.addr % 128
    overlay bs o (leBytes op.size (op.new (leNat ((bs.drop o).take op.size))))
  | .aacc term => cellBytes ((cellOf bs).combine term)
  | .ldaccZero => cellBytes Acc.zero

/-- The thread's entries, oldest first. -/
def Task.entriesOf (tk : Task) (k : ThreadKey) : List DoEntry := tk.buf.filter fun e => e.team == k.team && e.tid == k.tid

/-- Is an entry for the line of a place? -/
def DoEntry.at (e : DoEntry) (p : Place) : Bool := e.line == lineBase p.addr && e.space == p.space

/-- A thread's view of a line of a DO page (R244): the last commit with its own entries over it. -/
def State.viewLine (s : State) (k : ThreadKey) (p : Place) : List Byte :=
  let mem := s.homeLine p
  match s.task? k.task with
  | some tk => ((tk.entriesOf k).filter fun e => e.at p).foldl (fun bs e => applyDo bs e.kind) mem
  | none => mem

/-- The entries that a store to the line of `p` needs now: none when the thread's latest entry for the line is a store (R241). -/
def storeNeeds (es : List DoEntry) (p : Place) : Nat :=
  match (es.filter fun e => e.at p).getLast? with
  | some { kind := .store _ _ _, .. } => 0
  | _ => 1

/-- Has the thread's share room for `n` more entries (R242)? -/
def Task.room (tk : Task) (k : ThreadKey) (n : Nat) : Bool := decide ((tk.entriesOf k).length + n ≤ tk.share)

/-- Merge a store into the thread's latest entry of the line, or open a new one. -/
def doStore (k : ThreadKey) (p : Place) (bs : List Byte) (targets : PassTargets) (buf : List DoEntry) : List DoEntry :=
  let off := p.addr % 128
  let mine := buf.filter fun e => e.team == k.team && e.tid == k.tid
  if storeNeeds mine p = 0 then
    let put := fun (e : DoEntry) => match e.kind with
      | .store d m tg => { e with kind := .store (lineOfBytes (overlay (lineBytes d) off bs)) (m ||| byteMask off bs.length)
                                              (tg ++ targets.filter fun x => !tg.contains x) }
      | _ => e
    let rec go : List DoEntry → List DoEntry
      | [] => []
      | e :: rest =>
        if e.team == k.team && e.tid == k.tid && e.at p &&
            !(rest.any fun x => x.team == k.team && x.tid == k.tid && x.at p) then put e :: rest
        else e :: go rest
    go buf
  else
    buf ++ [{ team := k.team, tid := k.tid, line := lineBase p.addr, space := p.space,
              kind := .store (lineOfBytes (overlay (List.replicate 128 0) off bs)) (byteMask off bs.length) targets }]

/-- Threads that do not issue in this inning, because their share is full (R239, R242). -/
def State.cutInning (s : State) (c : Ctx) (tids : List Nat) : State :=
  s.modTeam c.tk.id c.tm.team fun tm =>
    tm.modThreads (fun t => tids.contains t.tid) fun t => { t with innEnded := true, cut := true, wait := .inning, dog := 0 }

/-- Does the lane touch a DO line? -/
def LaneOk.onDo (l : LaneOk) : Bool := l.lines.any fun x => x.2.cls == .ord

/-- The lanes whose thread cannot enter `n` entries now (n by lane): they stay. -/
def noRoom (c : Ctx) (lanes : List LaneOk) (n : LaneOk → Nat) : List Nat :=
  (lanes.filter fun l => l.onDo && !c.tk.room (c.key l.t) (n l)).map (·.t.tid)

/-! ## The scratchpad (R170, R171) -/

def Team.scratchBytes (tm : Team) (o n : Nat) : List Byte := Memory.bytes tm.scratch o n
def Team.putScratch (tm : Team) (o : Nat) (bs : List Byte) : Team := { tm with scratch := Memory.put tm.scratch o bs }

/-- SCRATCH BOUND (R171, R176, R192): the lanes whose offset is negative, misaligned or beyond the allocation. -/
def scratchFault (tk : Task) (size align : Nat) (lanes : List (Thread × Int)) : Option FaultInfo :=
  let bad := lanes.filter fun (_, o) => !(decide (0 ≤ o) && decide (o + size ≤ tk.scratchBytes) && decide (o % align = 0))
  if bad.isEmpty then none
  else some
    { FaultInfo.plain causeScratch 0 (bad.map (·.1.tid)) with
      details := bad.map fun (t, o) => { tid := t.tid, index := some (BitVec.ofInt 64 o), faddr := none, opnd := none } }

/-! ## Widths (R153) -/

/-- Bytes of an access. -/
def widthBytes : Width → Nat
  | .n8 | .i8 => 1
  | .n16 | .i16 => 2
  | .w32 => 4
  | .w64 => 8
  | .w128 => 16

/-- Write loaded bytes to the registers of a width, extended by R153. -/
def Thread.putLoaded (t : Thread) (d : Nat) (w : Width) (bs : List Byte) : Thread :=
  let v := leNat bs
  match w with
  | .n8 | .n16 | .w32 => t.setReg d (BitVec.ofNat 32 v)
  | .i8 => t.setReg d ((BitVec.ofNat 8 v).signExtend 32)
  | .i16 => t.setReg d ((BitVec.ofNat 16 v).signExtend 32)
  | .w64 => t.setPair d (BitVec.ofNat 64 v)
  | .w128 => (t.setPair d (BitVec.ofNat 64 v)).setPair (d + 2) (BitVec.ofNat 64 (v / 2 ^ 64))

/-- The low bytes of the registers of a width. -/
def Thread.storeBytes (t : Thread) (d : Nat) (w : Width) : List Byte :=
  let v := (t.reg d).toNat + 2 ^ 32 * (t.reg (d + 1)).toNat + 2 ^ 64 * (t.reg (d + 2)).toNat + 2 ^ 96 * (t.reg (d + 3)).toNat
  leBytes (widthBytes w) v

/-- The lanes with an earlier release that is not complete: they read passref only afterwards (R29), and store nothing before (R173). -/
def State.releasing (s : State) (c : Ctx) (act : List Thread) : List Nat :=
  (act.filter fun t => (s.queueOf (c.key t)).any fun q => match q with
    | .release ow _ => ow == c.key t
    | .store _ | .atom _ _ _ _ _ _ | .aacc _ _ _ _ _ | .ldaccZero _ _ _ _ _ => false).map (·.tid)

/-- The active threads that an acquire of theirs still holds back (R335). -/
def State.memWaits (s : State) (c : Ctx) (act : List Thread) : List Nat :=
  (act.filter fun t => s.acqPending (c.key t)).map (·.tid)

/-- Run a memory instruction once no acquire of its active threads is under way. -/
def runMem (i : Instr) (g : Guards) (s : State) (k : Ctx → List Thread → Eff) : Out :=
  run i g s fun c act => if (s.memWaits c act).isEmpty then k c act else .stall (s.memWaits c act)

end Sys2Proof.Machine
end

