-- ==== Sys2Proof/Machine/Memory.lean ====
section
/-!
DEFINITION. The instructions of the global mould (spec/06 R152 to R169), the scratchpad (R170 to R172), FENCE (R173),
RECD and RECQ (R182 to R184), and the event LOAD_COMPLETION.
-/
namespace Sys2Proof.Machine

open Sys2Proof

/-! ## Loads -/

/-- The lanes of a load whose read must wait (R219, R333, R338). -/
def loadStalls (s : State) (c : Ctx) (lanes : List LaneOk) : List Nat :=
  (lanes.filter fun l => l.lines.any fun x =>
    x.2.cls != .ord && s.loadWaits c.tm.core (c.key l.t) x.2.place x.2.cls).map (·.t.tid)

/-- Perform the load of one lane that is not dropped: from the view on a DO page (R244), else by its class. -/
def State.loadOne (s : State) (c : Ctx) (o : MemOrd) (n : Nat) (dest : LoadDest) (l : LaneOk) : State :=
  match l.lines with
  | (_, x) :: _ =>
    if x.cls = .ord then
      let bs := ((s.viewLine (c.key l.t) x.place).drop (x.place.addr % 128)).take n
      ((s.l1Touch c.tm.core x.place).reply (c.key l.t) dest bs).acquireIf c.tm.core (acqScope o)
    else s.loadLane c.tm.core (c.key l.t) x n dest (acquireOf o x)
  | [] => s

/-- The lines that the lanes of an LD .repl read through a record with RDONLY = 1 are kept as replicas (R158). -/
def State.replicateLanes (s : State) (c : Ctx) (buf : RecNum) (lanes : List LaneOk) : State :=
  lanes.foldl (fun s l =>
    if recRdonly (c.recOf buf l.t) then
      (l.lines.take 1).foldl (fun s x => s.replicate c.tm.core c.tk.id x.2) s
    else s) s

/-- LD (R157): dropped lanes receive 0 (R156); the data of the others is written at completion. -/
def execLd (g : Guards) (o : MemOp) (s : State) : Out :=
  runMem (.ld g o) g s fun c act =>
    let n := widthBytes o.width
    let sd : Side := { buf := o.addr.buf, lanes := c.laneIdx act o.addr.idx o.addr.buf (addendOf o.addr.k),
                       need := { perm := recR, width := some n, align := n } }
    s.checkSide c sd n c.touchLoad fun lanes =>
      match loadStalls s c lanes with
      | [] =>
        let s := s.fillLtbs c lanes
        let s := s.markDropped c lanes fun t => t.putLoaded o.d.val o.width (List.replicate n 0)
        let s := lanes.foldl (fun s l => s.loadOne c o.ord n (.regs o.d.val o.width) l) s
        .ok (if o.hint = .repl then s.replicateLanes c o.addr.buf lanes else s)
      | ts => .stall ts

/-- One more entry of a thread in its inning buffer, for the line of `p` (R241). -/
def State.putEntry (s : State) (k : ThreadKey) (p : Place) (kind : DoKind) : State :=
  s.modTask k.task fun tk =>
    { tk with buf := tk.buf ++ [{ team := k.team, tid := k.tid, line := lineBase p.addr, space := p.space, kind := kind }] }

/-- How a lane of this step's atomic or LDACC .zero of the line at `va` is issued: the step's number, and the thread's lane
(R164). -/
def State.howAtom (s : State) (c : Ctx) (l : LaneOk) (o : MemOrd) (va : Nat) (x : Xlat) : HowAtom :=
  { acq := acquireOf o x, instr := s.freeCtr, lane := laneOf c.tk.width l.t.tid, via := c.via l.buf va x }

/-- LDACC (R166): the merged cell, and for .zero the zeroing in the same step at the home. -/
def execLdacc (g : Guards) (o : LdaccOp) (s : State) : Out :=
  runMem (.ldacc g o) g s fun c act =>
    let sd : Side := { buf := o.addr.buf, lanes := c.laneIdx act o.addr.idx o.addr.buf (addendOf o.addr.k),
                       need := { perm := fun r => recR r && (!o.zero || recA r), width := none, align := 128 } }
    s.checkSide c sd 128 (if o.zero then c.touchLdaccZero else c.touchLoad) fun lanes =>
      match loadStalls s c (if o.zero then [] else lanes) with
      | [] =>
        let stay := noRoom c (if o.zero then lanes else []) fun _ => 1
        let go := lanes.filter fun l => !stay.contains l.t.tid
        let s := s.fillLtbs c go
        let s := s.markDropped c go fun t => t.setLa o.d.val Acc.zero
        let s := go.foldl (fun s l =>
          match l.lines with
          | (va, x) :: _ =>
            let k := c.key l.t
            if x.cls = .ord then
              let s1 := (s.l1Touch c.tm.core x.place).reply k (.la o.d.val) (((s.viewLine k x.place).drop (x.place.addr % 128)).take 128)
              let s1 := if o.zero then s1.putEntry k x.place .ldaccZero else s1
              s1.acquireIf c.tm.core (acqScope o.ord)
            else if o.zero then
              s.enqueue c (c.warpNo l.t)
                (releaseItems k (releaseOf o.ord x) ++ [.ldaccZero k x.place x.cls o.d.val (s.howAtom c l o.ord va x)])
            else s.loadLane c.tm.core k x 128 (.la o.d.val) (acquireOf o.ord x)
          | [] => s) s
        .done (s.cutInning c stay) { Post.none with stay := stay }
      | ts => .stall ts

/-! ## Stores -/

/-- One lane's store: its thread, translation, bytes and pass targets. -/
structure StoreLane where
  t : Thread
  via : Via
  x : Xlat
  data : List Byte
  targets : PassTargets
  /-- earlier lanes whose stores to the line these passes carry as well -/
  also : List Thread := []

def StoreLane.write (c : Ctx) (l : StoreLane) : LaneStore :=
  { owner := c.key l.t, place := l.x.place, cls := l.x.cls, data := l.data, targets := l.targets,
    also := l.also.map c.key, via := l.via }

/-- Where lanes overlap, the highest-numbered lane's byte remains (R157): each lane's bytes take those of the later
lanes. On a DO page each thread's entries keep its own bytes, and the commit applies them in tid order (R243). -/
def settleOverlap (c : Ctx) : List StoreLane → List StoreLane
  | [] => []
  | l :: rest =>
    (if l.x.cls = .ord then l else { l with data := (rest.map (StoreLane.write c)).foldl (forward l.x.place l.data.length) l.data }) :: settleOverlap c rest

/-- One pass of each line that an instruction writes goes to each target (R162): the last lane of a warp that writes the line
carries it. -/
def joinPasses (c : Ctx) : List StoreLane → List StoreLane → List StoreLane
  | _, [] => []
  | before, l :: rest =>
    let same := fun (x : StoreLane) => c.warpNo x.t == c.warpNo l.t && x.x.place.line == l.x.place.line
    (if rest.any same then { l with targets := [] } else { l with also := (before.filter same).map (·.t) }) ::
      joinPasses c (before ++ [l]) rest

/-- Enter the stores: the inning buffer on a DO page, the warp's store queue otherwise. -/
def State.putStores (s : State) (c : Ctx) (o : MemOrd) (ls : List StoreLane) : State :=
  (joinPasses c [] (settleOverlap c ls)).foldl (fun s l =>
    let k := c.key l.t
    if l.x.cls = .ord then
      (s.l1Touch c.tm.core l.x.place).modTask c.tk.id fun tk => { tk with buf := doStore k l.x.place l.data l.targets tk.buf }
    else s.enqueue c (c.warpNo l.t) (releaseItems k (releaseOf o l.x) ++ [.store (l.write c)])) s

/-- The entries that a store of the lane needs in the inning buffer (R241). -/
def storeEntries (c : Ctx) (l : LaneOk) : Nat :=
  ((l.lines.filter fun x => x.2.cls == .ord).map fun x =>
    storeNeeds (c.tk.entriesOf (c.key l.t)) x.2.place).sum

/-- A store of every lane that passed the checks; lanes whose share is full stay (R242). -/
def storeLanes (s : State) (c : Ctx) (o : MemOrd) (lanes : List LaneOk) (data : Thread → List Byte)
    (targets : Thread → Xlat → PassTargets) : Eff :=
  let stay := noRoom c lanes (storeEntries c)
  let go := lanes.filter fun l => !stay.contains l.t.tid
  let s := (s.fillLtbs c go).markDropped c go id
  let ls := go.flatMap fun l => (l.lines.take 1).map fun x =>
    { t := l.t, via := c.via l.buf x.1 x.2, x := x.2, data := data l.t, targets := targets l.t x.2 : StoreLane }
  .done ((s.putStores c o ls).cutInning c stay) { Post.none with stay := stay }

/-- ST (R157). -/
def execSt (g : Guards) (o : MemOp) (s : State) : Out :=
  runMem (.st g o) g s fun c act =>
    let n := widthBytes o.width
    let sd : Side := { buf := o.addr.buf, lanes := c.laneIdx act o.addr.idx o.addr.buf (addendOf o.addr.k),
                       need := { perm := recW, width := some n, align := n } }
    s.checkSide c sd n c.touchStore fun lanes =>
      storeLanes s c o.ord lanes (fun t => t.storeBytes o.d.val o.width) fun _ _ => []

/-- The targets of a pass (R161), from the scalar registers of the issuer's warp. -/
def passTargets (c : Ctx) (kind : PassKind) (e : RegNum) (t : Thread) : PassTargets :=
  let w := c.warp t
  let v := (w.sreg e.val).toNat
  let bits := fun (n base : Nat) (m : Nat) => ((List.range n).filter m.testBit).map (base + ·)
  let all := match kind with
    | .one => [v]
    | .club => bits 4 (c.tm.team / 4 * 4) v
    | .league => bits 16 (c.tm.team / 16 * 16) v
    | .grp q => bits 64 (64 * q.val) (w.spair e.val).toNat
  all.filter (· < c.tk.gridSize)

/-- ST.PASS (R161, R162): the store, and a pass of each written line of this device's memory where the lane's record has
PERM.P. -/
def execStPass (g : Guards) (o : PassOp) (s : State) : Out :=
  runMem (.stPass g o) g s fun c act =>
    let n := widthBytes o.width
    let passes := fun (t : Thread) => recP (c.recOf o.buf t)
    let sd : Side := { buf := o.buf, lanes := c.laneIdx act o.idx o.buf 0,
                       need := { perm := recW, width := some n, align := n } }
    s.checkSide c sd n
      { write := true, cls := fun t x => match x with | .pv => !passes t | .ord => c.doOk | .sc | .rc | .ws => true }
      fun lanes => storeLanes s c o.ord lanes (fun t => t.storeBytes o.d.val o.width) fun t x =>
        if passes t && x.place.space == .dev then passTargets c o.kind o.e t else []

/-! ## Atomics and accumulator cells -/

/-- An atomic of every lane (R164). On a DO page the old value comes from the view, and an entry applies it at the
commit. -/
def atomLanes (i : Instr) (g : Guards) (a : RecAddr) (ord : MemOrd) (d : RegNum) (wide : Bool) (s : State)
    (req : Thread → AtomReq) : Out :=
  runMem i g s fun c act =>
    let n := if wide then 8 else 4
    let dest := LoadDest.regs d.val (if wide then .w64 else .w32)
    let sd : Side := { buf := a.buf, lanes := c.laneIdx act a.idx a.buf (addendOf a.k),
                       need := { perm := recA, width := some n, align := n } }
    s.checkSide c sd n c.touchAtom fun lanes =>
      let stay := noRoom c lanes fun _ => 1
      let go := lanes.filter fun l => !stay.contains l.t.tid
      let s := (s.fillLtbs c go).markDropped c go fun t => t.putRegs d.val (n / 4) 0
      let s := go.foldl (fun s l =>
        match l.lines with
        | (va, x) :: _ =>
          let k := c.key l.t
          if x.cls = .ord then
            let s1 := (s.l1Touch c.tm.core x.place).reply k dest (((s.viewLine k x.place).drop (x.place.addr % 128)).take n)
            (s1.putEntry k x.place (.atom (req l.t) x.place)).acquireIf c.tm.core (acqScope ord)
          else
            s.enqueue c (c.warpNo l.t)
              (releaseItems k (releaseOf ord x) ++ [.atom k x.place x.cls (req l.t) d.val (s.howAtom c l ord va x)])
        | [] => s) s
      .done (s.cutInning c stay) { Post.none with stay := stay }

/-- ATOM (R163, R164). -/
def execAtom (g : Guards) (o : AtomOp) (s : State) : Out :=
  atomLanes (.atom g o) g o.addr o.ord o.d o.wide s fun t =>
    .atom o.fn o.wide (BitVec.ofNat 64 (readRegs t.reg o.d.val (if o.wide then 2 else 1)))

/-- CAS (R164): the compare value in the low half of D, the new value in the high half. -/
def execCas (g : Guards) (o : CasOp) (s : State) : Out :=
  atomLanes (.cas g o) g o.addr o.ord o.d o.wide s fun t =>
    let n := if o.wide then 2 else 1
    .cas o.wide (BitVec.ofNat 64 (readRegs t.reg o.d.val n)) (BitVec.ofNat 64 (readRegs t.reg (o.d.val + n) n))

/-- The term of an AACC (R165). -/
def aaccTerm (t : Thread) : AaccSrc → Acc
  | .la r => (t.la r.val).normal
  | .f32 r => Acc.zero.addTerm (decodeCode .f32 (t.reg r.val).toNat)
  | .b16 r => Acc.zero.addTerm (decodeCode .b16 ((t.reg r.val).toNat % 65536))
  | .h16 r => Acc.zero.addTerm (decodeCode .h16 ((t.reg r.val).toNat % 65536))

/-- AACC (R165). -/
def execAacc (g : Guards) (o : AaccOp) (s : State) : Out :=
  runMem (.aacc g o) g s fun c act =>
    let sd : Side := { buf := o.addr.buf, lanes := c.laneIdx act o.addr.idx o.addr.buf (addendOf o.addr.k),
                       need := { perm := recA, width := none, align := 128 } }
    s.checkSide c sd 128 c.touchAacc fun lanes =>
      let stay := noRoom c lanes fun _ => 1
      let go := lanes.filter fun l => !stay.contains l.t.tid
      let s := (s.fillLtbs c go).markDropped c go id
      let s := go.foldl (fun s l =>
        match l.lines with
        | (va, x) :: _ =>
          let k := c.key l.t
          let term := aaccTerm l.t o.src
          if x.cls = .ord then (s.l1Touch c.tm.core x.place).putEntry k x.place (.aacc term)
          else s.enqueue c (c.warpNo l.t) (releaseItems k (releaseOf o.ord x) ++ [.aacc k x.place x.cls term (c.via l.buf va x)])
        | [] => s) s
      .done (s.cutInning c stay) { Post.none with stay := stay }

/-! ## PREF, FLUSH, INV -/

/-- May a prefetch into L1 fill the line now? -/
def State.mayPrefetch (s : State) (core : Nat) (x : Xlat) : Bool :=
  match x.place.space, x.cls with
  | .remote _, _ | _, .sc | _, .ord => false
  | .dev, _ => !s.noWay (homeSliceOf x.place) x.place && (s.l1At core x.place).isNone && (s.cellAt (lineBase x.place.addr)).isNone && !s.notifying x.place core
  | .host, _ => !s.noWay (homeSliceOf x.place) x.place && (s.l1At core x.place).isNone && !s.notifying x.place core

/-- A prefetch toward L2 (R167): a line of this device or the host takes its tag there, an RC line of another device its data. -/
def State.prefetchL2 (s : State) (x : Xlat) : State :=
  match x.place.space with
  | .remote _ => (s.remoteLine x.place x.cls x.cp).2
  | .dev | .host => if s.noWay (homeSliceOf x.place) x.place then s else s.fillL2 x.place x.cls x.cp

/-- PREF (R167): a lane that fails any check has no effect and reports nothing; with HINT 0 the line enters L2, with .keep L1,
and with .repl it is kept as a replica. -/
def execPref (g : Guards) (o : PrefOp) (s : State) : Out :=
  run (.pref g o) g s fun c act =>
    let lanes := (c.laneIdx act o.addr.idx o.addr.buf (addendOf o.addr.k)).filter fun l => recValid l.r && l.inside
    .ok (lanes.foldl (fun s l =>
      match s.lineOut c { write := false, cls := fun _ x => x != .ord || c.tk.ordered } l.t l.addr with
      | .ok x =>
        match o.hint with
        | .keep =>
          if s.mayPrefetch c.tm.core x then
            s.fillL1 c.tm.core x.place x.cls x.cp (s.homeView c.tm.core (c.key l.t) x.place x.cls)
          else s
        | .repl => if recRdonly l.r then s.replicate c.tm.core c.tk.id x else s
        | .none | .nt | .wc => s.prefetchL2 x
      | .held _ | .lease _ | .refused | .cls | .aliasing | .retry | .hole _ => s) s)

/-- The places that the lanes of FLUSH or INV address; lanes out of range and lines of another class than `cls` are skipped
(R168), as are those of another device, which no L1 holds. -/
def lineSelect (s : State) (c : Ctx) (act : List Thread) (sel : LineSel) (cls : Cls) (k : (L1Line → Bool) → Eff) : Eff :=
  match sel with
  | .all => k fun l => l.core == c.tm.core && !act.isEmpty
  | .line idx buf =>
    let sd : Side := { buf := buf, lanes := c.laneIdx act idx buf 0,
                       need := { perm := fun _ => true, width := none, align := 1 } }
    let sd := { sd with lanes := sd.lanes.filter fun l => !recValid l.r || l.inside }
    s.checkSide c sd 1 { write := false, cls := fun _ _ => true, skip := fun x => x.cls != cls || x.place.away } fun lanes =>
      let ps := lanes.flatMap fun l => (l.lines.filter fun x => x.2.cls == cls && !x.2.place.away).map fun x => x.2.place.line
      k fun l => l.core == c.tm.core && ps.contains l.place

/-- Has thread `k` a PV access in its queue? -/
def State.pvQueued (s : State) (k : ThreadKey) : Bool :=
  (s.queueOf k).any fun q => q.ownedBy k && match q with
    | .store w => w.cls == .pv
    | .aacc _ _ cls _ _ | .ldaccZero _ _ cls _ _ => cls == .pv
    | .atom _ _ _ _ _ _ | .release _ _ => false

/-- FLUSH (R168), once the thread's own PV accesses have left its queue: dirty PV bytes are written home; the lines stay valid
and clean. -/
def execFlush (g : Guards) (o : LineSel) (s : State) : Out :=
  runMem (.flush g o) g s fun c act =>
    match (act.filter fun t => s.pvQueued (c.key t)).map (·.tid) with
    | [] => lineSelect s c act o .pv fun q => .ok (s.l1Clean fun l => q l && l.cls == .pv)
    | ts => .stall ts

/-- INV (R168): WS lines are dropped. -/
def execInv (g : Guards) (o : LineSel) (s : State) : Out :=
  runMem (.inv g o) g s fun c act =>
    lineSelect s c act o .ws fun q => .ok (s.l1Evict fun l => q l && l.cls == .ws)

/-! ## The scratchpad (R170, R171) -/

/-- A lane's offset. -/
def scratchOff (c : Ctx) (o : ScratchOp) (t : Thread) : Int :=
  (match o.off with
   | .reg r => ((c.laneView t).vs r).toNat
   | .zero _ => 0) + addendOf o.k

/-- LDS (R171). -/
def execLds (g : Guards) (o : ScratchOp) (s : State) : Out :=
  runMem (.lds g o) g s fun c act =>
    let n := widthBytes o.width
    match scratchFault c.tk n n (act.map fun t => (t, scratchOff c o t)) with
    | some f => .fault f
    | none => .ok (s.eachLane c act fun t => t.putLoaded o.d.val o.width (c.tm.scratchBytes (scratchOff c o t).toNat n))

/-- STS (R171): where lanes overlap, the highest-numbered lane's byte remains. It is performed when it issues, so it waits for its
thread's earlier releases (R173). DESIGN CHOICE (log entry 68): the other threads of the team see the unit's new value at once,
where the spec leaves open what they see before a release and an acquire. -/
def execSts (g : Guards) (o : ScratchOp) (s : State) : Out :=
  runMem (.sts g o) g s fun c act =>
    let n := widthBytes o.width
    match scratchFault c.tk n n (act.map fun t => (t, scratchOff c o t)) with
    | some f => .fault f
    | none => match s.releasing c act with
      | [] => .ok (s.modTeam c.tk.id c.tm.team fun tm =>
          act.foldl (fun tm t => tm.putScratch (scratchOff c o t).toNat (t.storeBytes o.d.val o.width)) tm)
      | ts => .stall ts

/-! ## FENCE (R173) -/

/-- Has a thread a load or an atomic whose read is not performed? -/
def State.readsPending (s : State) (k : ThreadKey) : Bool :=
  ((s.queueOf k).any fun q => match q with
    | .atom ow _ _ _ _ _ | .ldaccZero ow _ _ _ _ => ow == k
    | .store _ | .aacc _ _ _ _ _ | .release _ _ => false) ||
  s.homePending k ||
  s.net.any fun m => match m with
    | .remote ow _ (.atom _ _ _ _ _ _) _ _ | .remote ow _ (.ldaccZero _ _ _ _ _) _ _ => ow == k
    | _ => false

/-- FENCE: .rel orders the thread's later stores behind it in the queue; .acq waits for the earlier reads, .full for every
earlier access, and both then acquire. -/
def execFence (g : Guards) (o : FenceOp) (s : State) : Out :=
  runMem (.fence g o) g s fun c act =>
    match o.kind with
    | .rel => .ok (s.enqueueLanes c (act.map fun t => (t, [.release (c.key t) o.scope])))
    | .acq =>
      match (act.filter fun t => s.readsPending (c.key t)).map (·.tid) with
      | [] => .ok (if act.isEmpty then s else s.acquire c.tm.core o.scope)
      | ts => .stall ts
    | .full =>
      match (act.filter fun t => s.outstanding (c.key t) o.scope).map (·.tid) with
      | [] => .ok (if act.isEmpty then s else (s.released c act).acquire c.tm.core o.scope)
      | ts => .stall ts

/-! ## RECD and RECQ (R182, R183) -/

/-- RECD, once for each warp with an active thread: the derived record, or RECORD BOUND (reason 12). -/
def execRecd (g : Guards) (o : RecdOp) (s : State) : Out :=
  run (.recd g o) g s fun c act =>
    let new := fun (k : Nat) =>
      let w := c.tm.warp k
      recDerive (recordOf c.tk w o.b.val) (w.spair o.a.val).toNat (w.spair (o.a.val + 2)).toNat o.drop o.trap
    if (c.warps act).all fun k => (new k).isSome then
      .ok (s.eachWarp c act fun k w =>
        match new k with
        | some r => { w with recs := Sparse.set 0 w.recs (o.d.val - 48) r }
        | none => w)
    else
      .fault { FaultInfo.plain causeRecord 12 ((act.filter fun t => (new (c.warpNo t)).isNone).map (·.tid)) with
        buf := some o.b.val }

/-- RECQ, once for each warp with an active thread. -/
def execRecq (g : Guards) (o : RecqOp) (s : State) : Out :=
  run (.recq g o) g s fun c act =>
    .ok (s.eachWarp c act fun _ w =>
      w.putRegs o.d.val (match o.item with | .base | .extent => 2 | .stride | .esize | .flags => 1)
        (recItem (recordOf c.tk w o.b.val) o.item))

/-! ## The completion of a load -/

/-- Data reaches the registers of its thread. -/
def Thread.takeData (t : Thread) (dest : LoadDest) (bs : List Byte) : Thread :=
  match dest with
  | .regs d w => t.putLoaded d w bs
  | .la d => t.setLa d (cellOf bs)

/-- The `k`-th message, when it is of the expected kind. -/
def State.takeMsg (s : State) (k : Nat) : Option (Msg × State) :=
  (takeAt s.net k).map fun (m, rest) => (m, { s with net := rest })

/-- The event LOAD_COMPLETION (R157): the `k`-th message is data for a thread. -/
def execLoadCompletion (k : Nat) (s : State) : Out :=
  match s.takeMsg k with
  | some (.load owner dest bs, s1) => .next (s1.modThread owner fun t => t.takeData dest bs).tick
  | _ => .next s

end Sys2Proof.Machine
end

