-- ==== Sys2Proof/Machine/LongAcc.lean ====
section
/-!
DEFINITION. The long-accumulator instructions (spec/07 R186 to R193), and the moves of accumulator images that LLOAD,
LSTORE, MSPILL and MFILL share (R192, R206, spec/10 R241, R242).
-/
namespace Sys2Proof.Machine

open Sys2Proof

/-! ## Types and results -/

/-- The types of terms and of rounded results as number formats (R188). -/
def termDt : TermTy → DType
  | .f32 => .f32 | .b16 => .b16 | .h16 => .h16 | .i32 => .i32 | .n32 => .n32 | .i64 => .i64
def rndDt : RndTy → DType
  | .f64 => .f64 | .f32 => .f32 | .b16 => .b16 | .h16 => .h16 | .e5m2 => .e5m2 | .e4m3 => .e4m3 | .i32 => .i32
  | .n32 => .n32

/-- A result that the device leaves in any carry-save form (R50), by a key of the free carry bytes. DESIGN CHOICE (log
entry 7): the form is fixed at the write; the spec leaves it to the timing of the folding whether two raw reads of a slot
with no write between see the same form. -/
def State.anyForm (s : State) (k : Nat) (a : Acc) : Acc := a.carried (Config.freeCarry (s.key k))

/-- An instruction that writes long accumulator `d` of each active lane in any carry-save form. -/
def runLa (i : Instr) (g : Guards) (d : LaNum) (s : State) (f : Ctx → Thread → Acc) : Out :=
  runLanes i g s fun c t => t.setLa d.val (s.anyForm t.tid (f c t))

/-! ## LZERO to LNORM (R189) -/

/-- A term of an integer type counts as +0 when it is 0 (R189; DEDUCED for a product with a negative factor). -/
def intTerm (ty : TermTy) (v : Val) : Val :=
  match ty, v with
  | .i32, .fin _ 0 e | .n32, .fin _ 0 e | .i64, .fin _ 0 e => .fin false 0 e
  | _, v => v

/-- LZERO. -/
def execLzero (g : Guards) (d : LaNum) (s : State) : Out :=
  runLanes (.lzero g d) g s fun _ t => t.setLa d.val Acc.zero

/-- LMOV. -/
def execLmov (g : Guards) (o : LaPair) (s : State) : Out :=
  runLa (.lmov g o) g o.d s fun _ t => t.la o.a.val

/-- LFMA: the exact product is added. -/
def execLfma (g : Guards) (o : LfmaOp) (s : State) : Out :=
  runLa (.lfma g o) g o.d s fun c t =>
    let ty := termDt o.ty
    let a := decodeCode ty (t.reg o.a.val).toNat
    let b := decodeCode ty ((c.laneView t).vs o.b).toNat
    (t.la o.d.val).addTerm (intTerm o.ty (mulVal a b))

/-- LADD. -/
def execLadd (g : Guards) (o : LaddOp) (s : State) : Out :=
  runLa (.ladd g o) g o.d s fun c t =>
    let n := if o.ty = .i64 then 2 else 1
    (t.la o.d.val).addTerm (intTerm o.ty (decodeCode (termDt o.ty) ((c.laneView t).vsN o.a n)))

/-- LADDA. -/
def execLadda (g : Guards) (o : LaPair) (s : State) : Out :=
  runLa (.ladda g o) g o.d s fun _ t => (t.la o.d.val).combine (t.la o.a.val)

/-- The value of LNEG (R189). -/
def Acc.negate (a : Acc) : Acc :=
  let b := a.withValue (-a.value)
  { b with pinf := a.ninf, ninf := a.pinf, nzt := if b.value = 0 then !a.nzt else a.nzt }

/-- LNEG. -/
def execLneg (g : Guards) (o : LaPair) (s : State) : Out :=
  runLa (.lneg g o) g o.d s fun _ t => (t.la o.a.val).negate

/-- The value of LSCALE, and whether bits were lost (R189). A shift by 640 or more leaves no bit of the pattern. -/
def Acc.scaleBy (a : Acc) (k : Int) : Acc × Bool :=
  let v := a.value
  if 0 ≤ k then (a.withValue (if 640 ≤ k then 0 else v * (2 : Int) ^ k.toNat), false)
  else
    let n := min 640 (-k).toNat
    (a.withValue (v / (2 : Int) ^ n), decide (v % (2 : Int) ^ n ≠ 0))

/-- The amount of LSCALE for a lane. -/
def scaleAmt (c : Ctx) (t : Thread) : ScaleAmt → Int
  | .imm k => k.toInt
  | .sc r => ((c.warp t).sreg r.val).toInt

/-- LSCALE. -/
def execLscale (g : Guards) (o : LscaleOp) (s : State) : Out :=
  runLanes (.lscale g o) g s fun c t =>
    let r := (t.la o.a.val).scaleBy (scaleAmt c t o.k)
    (t.setSts (Sts.when r.2 Sts.inexact)).setLa o.d.val (s.anyForm t.tid r.1)

/-- LNORM. -/
def execLnorm (g : Guards) (o : LaPair) (s : State) : Out :=
  runLanes (.lnorm g o) g s fun _ t => t.setLa o.d.val (t.la o.a.val).normal

/-! ## LRND, LQUO (R190) -/

/-- LRND. -/
def execLrnd (g : Guards) (o : LrndOp) (s : State) : Out :=
  runLanes (.lrnd g o) g s fun _ t =>
    let r := accRound (t.la o.a.val) (rndDt o.ty) o.mode
    (t.setSts r.sts).putRegs o.d.val (if o.ty = .f64 then 2 else 1) r.code

/-- LQUO. -/
def execLquo (g : Guards) (o : LquoOp) (s : State) : Out :=
  runLanes (.lquo g o) g s fun _ t =>
    let r := accQuo (t.la o.a.val) (t.la o.b.val) (rndDt o.ty) o.mode
    (t.setSts r.sts).putRegs o.d.val (if o.ty = .f64 then 2 else 1) r.code

/-! ## LXADD (R191) -/

/-- T: the combination of the sources of the warp's threads in the group. -/
def Ctx.laSum (c : Ctx) (t : Thread) (a : Nat) : Acc :=
  (c.threads.filter fun u => c.warpNo u == c.warpNo t).foldl (fun x u => x.combine (u.la a)) Acc.zero

/-- LXADD. -/
def execLxadd (g : Guards) (o : LaPair) (s : State) : Out :=
  runLa (.lxadd g o) g o.d s fun c t => c.laSum t o.a.val

/-! ## Images in the scratchpad and in memory (R192, R206) -/

/-- A lane's offset in the scratchpad form: the addend counts 32-byte units. -/
def spillOff (c : Ctx) (a : SpillAddr) (t : Thread) : Int := ((c.laneView t).vs a.a).toNat + 32 * a.k.toInt

/-- The record side of an image move: step 2 is omitted, and addresses are multiples of 32. -/
def spillSide (c : Ctx) (act : List Thread) (a : SpillAddr) (b : RecNum) (perm : BitVec 256 → Bool) : Side :=
  { buf := b, lanes := c.laneIdx act a.a b a.k.toInt, need := { perm := perm, width := none, align := 32 } }

/-- The pieces of a lane's `size` bytes by line: virtual address, translation, bytes. -/
def LaneOk.pieces (l : LaneOk) (size : Nat) : List (Nat × Xlat × Nat) :=
  match l.lines with
  | [] => []
  | (va, _) :: _ => l.lines.map fun (a, x) => (a, x, min (va + size) (lineBase a + 128) - a)

/-- Read the bytes of a lane piece by piece. -/
def State.readPieces (s : State) (c : Ctx) (l : LaneOk) (size : Nat) : List Byte × State :=
  (l.pieces size).foldl (fun (bs, s) (_, x, n) =>
    if x.cls = .ord then
      (bs ++ ((s.viewLine (c.key l.t) x.place).drop (x.place.addr % 128)).take n, s.l1Touch c.tm.core x.place)
    else
      let (b, s) := s.loadBytes c.tm.core (c.key l.t) x n
      (bs ++ b, (s.acquireIf c.tm.core (acquireOf .relaxed x)))) ([], s)

/-- The places of cells in an accumulate state that the lanes read: they are gathered first (R220). -/
def cellsMet (s : State) (c : Ctx) (lanes : List LaneOk) : List Place :=
  (lanes.flatMap fun l => (l.lines.filter fun x =>
    x.2.cls != .ord && s.meetsCell c.tm.core x.2.place x.2.cls).map fun x => x.2.place.line).dedup

/-- Read images as loads: once nothing holds them back, each lane's bytes go to `put`, dropped lanes to `drop`. A lane
whose image `bad` rejects keeps its state, and the instruction faults after the others (R192, R206). -/
def loadImages (s : State) (c : Ctx) (lanes : List LaneOk) (size : Nat) (bad : List Byte → Bool)
    (put : State → Thread → List Byte → State) (drop : State → Thread → State) : Eff :=
  match loadStalls s c lanes with
  | t :: ts => .stall (t :: ts)
  | [] =>
    match (cellsMet s c lanes).filter fun p => !s.gathering p with
    | p :: ps => .done (s.gatherAll (p :: ps)) { Post.none with stay := c.g.members }
    | [] =>
      if (cellsMet s c lanes).isEmpty then
        let s := (s.fillLtbs c lanes).markDropped c lanes id
        let (s, wrong) := lanes.foldl (fun (s, wrong) l =>
          if l.dropped then (drop s l.t, wrong)
          else
            let (bs, s) := s.readPieces c l size
            if bad bs then (s, wrong ++ [l.t.tid]) else (put s l.t bs, wrong)) (s, [])
        if wrong.isEmpty then .ok s else .faultAfter s (FaultInfo.plain causeMatrix 9 wrong)
      else .stall c.g.members

/-- The same from the scratchpad. -/
def fillImages (s : State) (c : Ctx) (act : List Thread) (a : SpillAddr) (size : Nat) (bad : List Byte → Bool)
    (put : State → Thread → List Byte → State) : Eff :=
  match scratchFault c.tk size 32 (act.map fun t => (t, spillOff c a t)) with
  | some f => .fault f
  | none =>
    let bytes := fun (t : Thread) => c.tm.scratchBytes (spillOff c a t).toNat size
    let wrong := (act.filter fun t => bad (bytes t)).map (·.tid)
    let s := (act.filter fun t => !bad (bytes t)).foldl (fun s t => put s t (bytes t)) s
    if wrong.isEmpty then .ok s else .faultAfter s (FaultInfo.plain causeMatrix 9 wrong)

/-- LLOAD and MFILL. -/
def runFill (i : Instr) (g : Guards) (a : SpillAddr) (size : Nat) (s : State) (bad : List Byte → Bool)
    (put : Ctx → State → Thread → List Byte → State) (drop : Ctx → State → Thread → State) : Out :=
  runMem i g s fun c act =>
    match a.buf with
    | none => fillImages s c act a size bad (put c)
    | some b => s.checkSide c (spillSide c act a b recR) size c.touchLoad fun lanes =>
        loadImages s c lanes size bad (put c) (drop c)

/-- The entries that the first `n` of some pieces need in the share of a thread. -/
def piecesNeed (c : Ctx) (t : Thread) (ps : List (Nat × Xlat × Nat)) : Nat :=
  ((ps.filter fun p => p.2.1.cls == .ord).map fun p =>
    storeNeeds (c.tk.entriesOf (c.key t)) p.2.1.place).sum

/-- How many of a lane's remaining pieces enter in this inning (R242): all when the share gives them; none when they fit
in an empty share, or when the need is found only now; otherwise as many as the emptied share holds. -/
def piecesNow (c : Ctx) (t : Thread) (ps : List (Nat × Xlat × Nat)) : Nat :=
  let need := piecesNeed c t ps
  if need = 0 ∨ c.tk.room (c.key t) need then ps.length
  else if need ≤ c.tk.share ∨ (t.part = 0 ∧ t.cut = false) then 0
  else ((List.range ps.length).reverse.find? fun m => c.tk.room (c.key t) (piecesNeed c t (ps.take m))).getD 0

/-- LSTORE and MSPILL in the record form: each lane's image enters line by line; on DO pages in parts where the share
does not hold them all (R242). The bytes of an image that lie in one line are written in one step: the spec asks it of each
32 bytes alone (DESIGN CHOICE, log entry 61). -/
def storeImages (s : State) (c : Ctx) (lanes : List LaneOk) (size : Nat) (image : Thread → List Byte) : Eff :=
  let plan := lanes.map fun l =>
    let all := l.pieces size
    let rest := all.drop l.t.part
    let now := piecesNow c l.t rest
    (l, rest.take now, decide (now < rest.length))
  let stay := (plan.filter (·.2.2)).map (·.1.t.tid)
  let s := (s.fillLtbs c lanes).markDropped c lanes id
  let stores := plan.flatMap fun (l, ps, _) =>
    let va := (l.lines.map (·.1)).headD 0
    ps.map fun (a, x, n) =>
      { t := l.t, via := c.via l.buf a x, x := x, data := ((image l.t).drop (a - va)).take n, targets := [] : StoreLane }
  let s := s.putStores c .relaxed stores
  let s := plan.foldl (fun s (l, ps, more) =>
    if more then s.modThread (c.key l.t) fun t => { t with part := t.part + ps.length } else s) s
  .done (s.cutInning c stay) { Post.none with stay := stay }

/-- LSTORE and MSPILL. To the scratchpad they are performed when they issue, so they wait for earlier releases (R173). -/
def runSpill (i : Instr) (g : Guards) (a : SpillAddr) (size : Nat) (s : State) (image : Ctx → Thread → List Byte) : Out :=
  runMem i g s fun c act =>
    match a.buf with
    | none =>
      match scratchFault c.tk size 32 (act.map fun t => (t, spillOff c a t)) with
      | some f => .fault f
      | none => match s.releasing c act with
        | [] => .ok (s.modTeam c.tk.id c.tm.team fun tm =>
            act.foldl (fun tm t => tm.putScratch (spillOff c a t).toNat (image c t)) tm)
        | ts => .stall ts
    | some b => s.checkSide c (spillSide c act a b recW) size c.touchStore fun lanes =>
        storeImages s c lanes size (image c)

/-- LLOAD. -/
def execLload (g : Guards) (o : LmemOp) (s : State) : Out :=
  runFill (.lload g o) g o.addr 96 s (fun bs => !imageClean (leNat bs))
    (fun c s t bs => s.modThread (c.key t) fun t => t.setLa o.la.val (Acc.ofBytes bs))
    fun c s t => s.modThread (c.key t) fun t => t.setLa o.la.val Acc.zero

/-- LSTORE. -/
def execLstore (g : Guards) (o : LmemOp) (s : State) : Out :=
  runSpill (.lstore g o) g o.addr 96 s fun _ t => (t.la o.la.val).bytes

end Sys2Proof.Machine
end

