-- ==== Sys2Proof/Machine/Copy.lean ====
section
/-!
DEFINITION. Asynchronous copies (spec/06 R174 to R178) and the copy tags (spec/01 R27, spec/06 R179 to R181).
-/
namespace Sys2Proof.Machine

open Sys2Proof

/-- Status words (R177). -/
def copyOk : Nat := 0
def copyBound : Nat := 1
def copyCancelled : Nat := 2
def copyClass : Nat := 0x10
def copyAlias : Nat := 0x11
def copyRefused : Nat := 0x12

/-- Bytes of a copy. -/
def copyBytes : CopySize → Nat
  | .b4 => 4 | .b8 => 8 | .b16 => 16

/-! ## Tags -/

/-- The counter of a tag, and whether the tag is ready. -/
def Team.tagCount (tm : Team) (n : Nat) : Nat := Sparse.get 0 tm.tags n
def Team.setTag (tm : Team) (n v : Nat) : Team := { tm with tags := Sparse.set 0 tm.tags n v }
def Team.tagReady (tm : Team) (n : Nat) : Bool := tm.tagCount n == 0

/-- The tags of a set (R179), for a warp. -/
def tagSet (w : Warp) : TagSet → List Nat
  | .one n => [n.val]
  | .pair r => (List.range 64).filter (w.spair r.val).toNat.testBit
  | .all => List.range 64

/-- The lowest ready tag of a set, or 64. -/
def lowestReady (tm : Team) (ts : List Nat) : Nat := (ts.find? tm.tagReady).getD 64

/-! ## Performing a copy -/

/-- What comes of an attempt to perform a copy. -/
inductive CopyEnd where
  /-- finished with this status -/
  | done (s : State) (status : Nat)
  /-- on its way to another device, whose answer ends it -/
  | sent (s : State)
  /-- delayed: a held line, or an order that must come first -/
  | wait (s : State)
  /-- the access ends the task with LEASE for this reason, at this address, of the destination or of the source -/
  | lease (reason addr : Nat) (dst : Bool)
  | hole (addr : Nat)

/-- The context of one thread outside any group; `inRoutine` says that it acts for a trap routine. -/
def State.ctxOf (s : State) (k : ThreadKey) (inRoutine : Bool) : Option (Ctx × Thread) :=
  match s.task? k.task, s.team? k.task k.team with
  | some tk, some tm =>
    (tm.thread? k.tid).map fun t =>
      ({ g := { task := k.task, team := k.team, core := tm.core, addr := t.pc, members := [k.tid],
                inRoutine := inRoutine, iter := none }, tk := tk, tm := tm }, t)
  | _, _ => none

/-- Does the source of a copy meet a cell that must be gathered first (R220, R244)? -/
def State.copyMeets (s : State) (c : Ctx) (x : Xlat) : Bool :=
  if x.cls = .ord then x.place.space == .dev && (s.cellAt (lineBase x.place.addr)).isSome
  else s.meetsCell c.tm.core x.place x.cls

/-- Read the source of a copy, and go on with its bytes. -/
def State.copySource (s : State) (c : Ctx) (t : Thread) (n : Nat) (src : CopySide)
    (k : State → List Byte → Nat → CopyEnd) : CopyEnd :=
  match src with
  | .dropped => k s (List.replicate n 0) copyBound
  | .scratch o => k s (c.tm.scratchBytes o n) copyOk
  | .mem va =>
    match s.lineOut c c.touchLoad t va.toNat with
    | .held _ | .retry => .wait s
    | .lease r => .lease r va.toNat false
    | .hole a => .hole a
    | .refused => .done s copyRefused
    | .cls => .done s copyClass
    | .aliasing => .done s copyAlias
    | .ok x =>
      let key := c.key t
      if s.copyMeets c x then .wait (s.gatherAll [x.place])
      else if x.cls = .ord then
        k (s.l1Touch c.tm.core x.place) (((s.viewLine key x.place).drop (x.place.addr % 128)).take n) copyOk
      else if s.loadWaits c.tm.core key x.place x.cls then .wait s
      else
        let (bs, s) := s.loadBytes c.tm.core key x n
        k s bs copyOk

/-- Write the destination of copy `r`. `inning` allows a DO page: the entry is made at the issue. A write to another device is
complete only at its acknowledgement (R316). -/
def State.copyDest (s : State) (c : Ctx) (t : Thread) (r : CopyRec) (inning : Bool) (bs : List Byte) (st : Nat) :
    CopyEnd :=
  match r.dst with
  | .dropped => .done s copyBound
  | .scratch o => .done (s.modTeam c.tk.id c.tm.team fun tm => tm.putScratch o bs) st
  | .mem va =>
    match s.lineOut c { write := true, cls := fun _ x => x != .ord || inning } t va.toNat with
    | .held _ | .retry => .wait s
    | .lease r => .lease r va.toNat true
    | .hole a => .hole a
    | .refused => .done s copyRefused
    | .cls => .done s copyClass
    | .aliasing => .done s copyAlias
    | .ok x =>
      let key := c.key t
      if x.cls = .ord then
        .done ((s.l1Touch c.tm.core x.place).modTask c.tk.id fun tk => { tk with buf := doStore key x.place bs [] tk.buf }) st
      else
        let q := QItem.store { owner := key, place := x.place, cls := x.cls, data := bs, targets := [],
                               copy := if x.place.away then some r.id else none, via := c.via r.dstBuf va.toNat x }
        if !s.mayLeave c.tm.core q then .wait s
        else if x.place.away then .sent (s.leave c.tm.core q)
        else .done (s.leave c.tm.core q) st

/-- Perform a copy: source read in one access, destination written in one access (R175). A lane whose destination was dropped
writes nothing and reads nothing (R177, R185). Where the lines of both sides fail, the status word is that of the source:
the spec does not say which (DESIGN CHOICE, log entry 61). -/
def State.performCopy (s : State) (c : Ctx) (t : Thread) (r : CopyRec) (inning : Bool) : CopyEnd :=
  if r.dst = .dropped then .done s copyBound
  else s.copySource c t r.size r.src fun s bs st => s.copyDest c t r inning bs st

/-! ## Issuing copies (R174, R175) -/

/-- One lane of a copy instruction: the sides, and whether it was dropped. -/
structure CopyLane where
  t : Thread
  src : CopySide
  dst : CopySide
  srcBuf : Option Nat := none
  dstBuf : Option Nat := none

/-- A record side's lane as a side of the copy. -/
def LaneIdx.side (l : LaneIdx) : CopySide := if l.inside then .mem (BitVec.ofNat 57 l.addr) else .dropped

/-- Does the copy write a DO page of the ordered launch? -/
def State.copyOnDo (s : State) (c : Ctx) (l : CopyLane) : Bool :=
  match l.dst with
  | .mem va =>
    c.doOk && match s.lineOut c c.touchStore l.t va.toNat with
      | .ok x => x.cls == .ord
      | _ => false
  | .scratch _ | .dropped => false

/-- The place of a copy's DO destination. -/
def State.copyLine (s : State) (c : Ctx) (l : CopyLane) : Place :=
  match l.dst with
  | .mem va => match s.lineOut c c.touchStore l.t va.toNat with
    | .ok x => x.place
    | _ => devPlace 0
  | .scratch _ | .dropped => devPlace 0

/-- The cells that copies into DO pages meet at their sources: they are gathered before the issue. -/
def State.copyCells (s : State) (c : Ctx) (lanes : List CopyLane) : List Place :=
  ((lanes.filter (s.copyOnDo c)).filterMap fun l => match l.src with
    | .mem va => match s.lineOut c c.touchLoad l.t va.toNat with
      | .ok x => if s.copyMeets c x then some x.place.line else none
      | _ => none
    | .scratch _ | .dropped => none).dedup

/-- One lane's copy starts: pending, or, for a DO destination, performed into the inning buffer at the place that the
instruction holds in the program order (R178). -/
def State.startCopy (s : State) (c : Ctx) (size : Nat) (e : RegNum) (tag : TagNum) (l : CopyLane) : State :=
  let r : CopyRec := { id := s.nextCopy, owner := c.key l.t, tag := tag.val, size := size, src := l.src, dst := l.dst,
                       reg := e.val, done := none, inRoutine := c.g.inRoutine, srcBuf := l.srcBuf, dstBuf := l.dstBuf,
                       pc := c.g.addr.toNat, iter := c.g.iter }
  let s := { s with nextCopy := s.nextCopy + 1 }
  let s := s.modTeam c.tk.id c.tm.team fun tm => tm.setTag tag.val (tm.tagCount tag.val + 1)
  let (s, r) :=
    if s.copyOnDo c l then
      match s.performCopy c l.t r true with
      | .done s1 st => (s1, { r with done := some st })
      | .sent _ | .wait _ | .lease _ _ _ | .hole _ => (s, r)
    else (s, r)
  { s with copies := s.copies ++ [r] }

/-- Is the destination line of a copy held, where it may be one of a DO page? Its class is known only when the line is held no
more: the copy then enters the buffer where its instruction stands (R178, R241). -/
def State.copyHeld (s : State) (c : Ctx) (l : CopyLane) : Bool :=
  match l.dst with
  | .mem va => c.doOk && match s.lineOut c c.touchStore l.t va.toNat with
    | .held _ => true
    | .ok _ | .lease _ | .refused | .cls | .aliasing | .retry | .hole _ => false
  | .scratch _ | .dropped => false

/-- The lanes whose DO destination finds no room, or whose copy into the buffer cannot be made yet. -/
def copyStays (s : State) (c : Ctx) (lanes : List CopyLane) : List Nat :=
  (lanes.filter fun l => s.copyOnDo c l &&
    !c.tk.room (c.key l.t) (storeNeeds (c.tk.entriesOf (c.key l.t)) (s.copyLine c l))).map (·.t.tid)
def copyStalls (s : State) (c : Ctx) (size : Nat) (lanes : List CopyLane) : List Nat :=
  (lanes.filter fun l => s.copyHeld c l || s.copyOnDo c l &&
    match s.copySource c l.t size l.src fun s _ st => .done s st with
    | .wait _ => true
    | .sent _ | .done _ _ | .lease _ _ _ | .hole _ => false).map (·.t.tid)

/-- Issue the copies of the lanes that passed the checks. -/
def issueCopies (s : State) (c : Ctx) (size : Nat) (e : RegNum) (tag : TagNum) (lanes : List CopyLane) : Eff :=
  let cells := s.copyCells c lanes
  if 65535 < c.tm.tagCount tag.val + lanes.length then .stall (lanes.map (·.t.tid))
  else if !(cells.all s.gathering) then .done (s.gatherAll cells) { Post.none with stay := c.g.members }
  else match copyStalls s c size lanes with
    | [] =>
      let stay := copyStays s c lanes
      let go := lanes.filter fun l => !stay.contains l.t.tid
      let dropped := (go.filter fun l => l.src == .dropped || l.dst == .dropped).map (·.t.tid)
      let s := s.modTeam c.tk.id c.tm.team fun tm =>
        tm.modThreads (fun t => dropped.contains t.tid) fun t => { t with oobst := true }
      .done ((go.foldl (fun s l => s.startCopy c size e tag l) s).cutInning c stay) { Post.none with stay := stay }
    | ts => .stall ts

/-- The record side of a copy. -/
def copySide (c : Ctx) (act : List Thread) (size : Nat) (idx : VSReg) (buf : RecNum) (perm : BitVec 256 → Bool) : Side :=
  { buf := buf, lanes := c.laneIdx act idx buf 0, need := { perm := perm, width := some size, align := size } }

/-- The scratchpad side: the lanes' offsets. -/
def copyOffs (c : Ctx) (act : List Thread) (r : VSReg) : List (Thread × Int) :=
  act.map fun t => (t, (((c.laneView t).vs r).toNat : Int))

/-- CPY.GS: global to scratchpad. -/
def execCpyGs (g : Guards) (o : CopyOp) (s : State) : Out :=
  runMem (.cpyGs g o) g s fun c act =>
    let n := copyBytes o.size
    let src := copySide c act n o.a o.buf recR
    let offs := copyOffs c act o.d
    match sidesFault [src] with
    | some f => .fault f
    | none => match scratchFault c.tk n n offs with
      | some f => .fault f
      | none => issueCopies s c n o.e o.tag ((src.lanes.zip offs).map fun (l, _, off) =>
          { t := l.t, src := l.side, dst := .scratch off.toNat, srcBuf := some o.buf.val })

/-- CPY.SG: scratchpad to global. -/
def execCpySg (g : Guards) (o : CopyOp) (s : State) : Out :=
  runMem (.cpySg g o) g s fun c act =>
    let n := copyBytes o.size
    let dst := copySide c act n o.d o.buf recW
    let offs := copyOffs c act o.a
    match sidesFault [dst] with
    | some f => .fault f
    | none => match scratchFault c.tk n n offs with
      | some f => .fault f
      | none => issueCopies s c n o.e o.tag ((dst.lanes.zip offs).map fun (l, _, off) =>
          { t := l.t, src := .scratch off.toNat, dst := l.side, dstBuf := some o.buf.val })

/-- CPY.GG: global to global; at each step the source side is checked first. -/
def execCpyGg (g : Guards) (o : CopyGGOp) (s : State) : Out :=
  runMem (.cpyGg g o) g s fun c act =>
    let n := copyBytes o.size
    let src := copySide c act n o.a o.srec recR
    let dst := copySide c act n o.d o.drec recW
    match sidesFault [src, dst] with
    | some f => .fault f
    | none => issueCopies s c n o.e o.tag ((src.lanes.zip dst.lanes).map fun (a, b) =>
        { t := a.t, src := a.side, dst := b.side, srcBuf := some o.srec.val, dstBuf := some o.drec.val })

/-! ## Completion (R175, R177, R178) -/

/-- The copy completes: its status word is written, then the tag's counter falls; a counter of 0 stays (R150). -/
def State.endCopy (s : State) (r : CopyRec) (st : Nat) : State :=
  let s := { s with copies := s.copies.filter fun x => x.id != r.id }
  s.modTeam r.owner.task r.owner.team fun tm =>
    (tm.modThread r.owner.tid fun t => t.setReg r.reg (BitVec.ofNat 32 st)).setTag r.tag (tm.tagCount r.tag - 1)

/-- An access that ends the task outside any issue group (R160, R395): LEASE names the copy's thread, its instruction, and the record
and address of the side that failed. -/
def State.endByLease (s : State) (c : Ctx) (r : CopyRec) (reason addr : Nat) (dst : Bool) : State :=
  let f : FaultInfo := { FaultInfo.plain causeLease reason [r.owner.tid] with
    buf := if dst then r.dstBuf else r.srcBuf
    details := [{ tid := r.owner.tid, index := none, faddr := some (lineBase addr), opnd := none }] }
  let rec0 := faultRecord c.tk c.tm.team r.pc f r.iter r.owner.tid
  (s.modThread r.owner fun t => { t with fault := rec0 }).endTaskFault c.tk rec0

/-! ## Tag instructions (R180) -/

/-- The active lanes with a warp whose tag set satisfies `p`. -/
def lanesWith (c : Ctx) (act : List Thread) (set : TagSet) (p : List Nat → Bool) : List Nat :=
  (act.filter fun t => p (tagSet (c.warp t) set)).map (·.tid)

/-- WAITALL. -/
def execWaitall (g : Guards) (o : TagSet) (s : State) : Out :=
  run (.waitall g o) g s fun c act =>
    match lanesWith c act o fun ts => !ts.all c.tm.tagReady with
    | [] => .ok s
    | ts => .stall ts

/-- Write the number of a tag to the destination of WAITANY or TAGFF. -/
def putTagNo (s : State) (c : Ctx) (act : List Thread) (o : TagQuery) : State :=
  let v := fun (w : Warp) => BitVec.ofNat 32 (lowestReady c.tm (tagSet w o.set))
  match o.d with
  | .vec r => s.eachLane c act fun t => t.setReg r.val (v (c.warp t))
  | .sc r => s.eachWarp c act fun _ w => w.setSreg r.val (v w)

/-- WAITANY: an empty set gives 64 at once. -/
def execWaitany (g : Guards) (o : TagQuery) (s : State) : Out :=
  run (.waitany g o) g s fun c act =>
    match lanesWith c act o.set fun ts => !ts.isEmpty && !ts.any c.tm.tagReady with
    | [] => .ok (putTagNo s c act o)
    | ts => .stall ts

/-- TAGFF: no wait. -/
def execTagff (g : Guards) (o : TagQuery) (s : State) : Out :=
  run (.tagff g o) g s fun c act => .ok (putTagNo s c act o)

/-- TAGCLR: any subset of the copies under the tags that have not been made is cancelled, a free choice; then as WAITALL. -/
def execTagclr (g : Guards) (o : TagSet) (s : State) : Out :=
  run (.tagclr g o) g s fun c act =>
    let tags := (act.map fun t => tagSet (c.warp t) o).flatten
    let mine := s.copies.filter fun r =>
      r.owner.task == c.tk.id && r.owner.team == c.tm.team && tags.contains r.tag && r.done.isNone && !r.sent &&
        Config.freeCancel s.freeCtr r.id
    let s1 := mine.foldl (fun s r => s.endCopy r copyCancelled) s
    let left := s1.copies.any fun r => r.owner.task == c.tk.id && r.owner.team == c.tm.team && tags.contains r.tag
    if left then
      if mine.isEmpty then .stall (act.map (·.tid)) else .done s1 { Post.none with stay := c.g.members }
    else
      match s1.team? c.tk.id c.tm.team with
      | some tm =>
        match lanesWith c act o fun ts => !ts.all tm.tagReady with
        | [] => .ok s1
        | ts => if mine.isEmpty then .stall ts else .done s1 { Post.none with stay := c.g.members }
      | none => .ok s1

end Sys2Proof.Machine
end

