-- ==== Sys2Proof/Machine/Tasks.lean ====
section
/-!
DEFINITION. The end of a team (spec/14 R298) and of a task (R292, R294, R425): `settle` ends whatever can end. The
instructions and events that may bring an end about call it; COPY_COMPLETION and HOME_SLICE_REQUEST stand here.
-/
namespace Sys2Proof.Machine

open Sys2Proof

/-! ## Writes of the device's own units (R425) -/

/-- One line's write by a unit through a context's page table: at the home, with no lease check and no class. `none`
where the walk fails or the page has W = 0. -/
def State.unitWrite (s : State) (owner : ThreadKey) (ctx va : Nat) (bs : List Byte) : Option State :=
  match s.walkXlat ctx va with
  | .ok x =>
    if !x.canWrite then none
    else match placeHole x.place bs.length with
      | some _ => none
      | none =>
        match x.place.space with
        | .dev =>
          some (match s.cellAt (lineBase x.place.addr) with
            | some c => s.accessHome x.place
                (.store noCore { owner := owner, place := x.place, cls := c.cls, data := bs, targets := [] })
            | none => (((s.cutWs x.place bs.length fun _ => true).writeBytes x.place bs).notify x.place noCore .rc owner).snoopHost
                x.place owner)
        | .host => some (((s.cutWs x.place bs.length fun _ => true).putHost x.place.addr bs owner).notify x.place noCore .rc owner)
        | .remote d => some (s.sendRemote owner d x.place
            (.store { owner := owner, place := x.place, cls := .rc, data := bs, targets := [] }))
  | .bad | .hole _ => none

/-- The pieces of a range that lie in one line each. -/
def linePieces (va : Nat) (bs : List Byte) : List (Nat × List Byte) :=
  (List.range ((va % 128 + bs.length + 127) / 128)).map fun j =>
    let a := max va (lineBase va + 128 * j)
    (a, (bs.drop (a - va)).take (lineBase a + 128 - a))

/-- Must a unit's access to a range wait: a page of it is held or migrates (R373), or no way can be had for one of its lines
(R376)? -/
def State.unitHeld (s : State) (ctx va n : Nat) : Bool :=
  (lineVas va n).any fun v => s.heldPages.contains (ctx, pageOf v) || match s.walkXlat ctx v with
    | .ok x => x.mig || (x.place.space == .dev && !s.cellRoom (lineBase x.place.addr))
    | .bad | .hole _ => false

/-- Write a range; the failing lines are dropped, and the answer says whether one was. -/
def State.unitWrites (s : State) (owner : ThreadKey) (ctx va : Nat) (bs : List Byte) : State × Bool :=
  (linePieces va bs).foldl (fun (s, bad) (a, b) =>
    match s.unitWrite owner ctx a b with
    | some s => (s, bad)
    | none => (s, true)) (s, false)

/-- A dropped write (R425): the chain stops, and an ERROR event that names it is posted. -/
def State.unitFailed (s : State) (chain : Nat) : State :=
  (s.setChain chain (chainSetErr (s.chain chain))).logError (Config.errorEntry (s.key chain)) 0 chain

/-! ## Team end (R298) -/

/-- Has every thread of a team exited, with its copies complete and its stores gone from the queues (R133)? -/
def State.teamDone (s : State) (tm : Team) : Bool :=
  tm.threads.all (·.exited) && (tm.warps.all fun w => w.queue.isEmpty) &&
    !s.copies.any fun r => r.owner.task == tm.task && r.owner.team == tm.team

/-- Rows come back from a borrower: the threads that wait for them in VGROW have them (R145, R302). -/
def Thread.regain (t : Thread) : Thread :=
  match t.wait with
  | .vgrow m => { t with vallot := max t.vallot m }.ready
  | _ => t

/-- A team leaves its core (R298, R295): dirty PV lines are written back, the L1 is emptied, and once no other team stands
there the arrays are zeroed toward the clean state. -/
def State.leaveCore (s : State) (tm : Team) : State :=
  let s := s.l1Evict fun l => l.core == tm.core
  let s := { s with teams := s.teams.filter fun x => !(x.task == tm.task && x.team == tm.team) }
  if s.teams.any fun x => x.core == tm.core then
    if tm.borrower then
      { s with teams := mapIf (fun x => x.core == tm.core) (fun x => { x with threads := x.threads.map Thread.regain }) s.teams }
    else s
  else
    { s with dirty := Sparse.set 0 s.dirty tm.core (s.clk + 1), ltb := s.ltb.filter fun l => l.core != tm.core,
             huddles := s.huddles.filter fun h => h.1 / 4 != tm.core }

/-- Is the task ending by a fault or a REVOKE, or have its teams ended? -/
def Task.stopped (t : Task) : Bool :=
  match t.phase with
  | .live => t.isOver
  | .ending _ _ _ | .closing _ => true

/-- Has a fault ended the task (R298)? A REVOKE has not (R294). -/
def Task.faulted (t : Task) : Bool :=
  match t.phase with
  | .ending c _ _ => c == 2
  | .live | .closing _ => false

/-- End every team that can end: by its exits, or, in a task that is stopped, once its issued accesses have left it. The copies of a
task that a fault ended are cancelled (R298); those of a revoked one complete (R294). -/
def State.endTeams (s : State) : State :=
  let stopped := fun (id : Nat) => match s.task? id with
    | some t => t.stopped
    | none => true
  let s : State := { s with copies := s.copies.filter fun r => (s.task? r.owner.task).any fun (t : Task) => !t.faulted }
  s.teams.foldl (fun s tm =>
    if stopped tm.task then
      if (tm.warps.all fun w => w.queue.isEmpty) && !s.copies.any fun r => r.owner.task == tm.task && r.owner.team == tm.team then
        (s.leaveCore tm).noteIssued (tm.threads.map fun t => t.key tm)
      else s
    else if s.teamDone tm then
      (s.leaveCore tm).modTask tm.task fun t => { t with ended := t.ended ++ [tm.team] }
    else s) s

/-! ## Task end (R292, R294) -/

/-- Are there accesses of a task's threads that are not performed at .sy? The completion word is a release that covers
them all. -/
def State.taskPending (s : State) (id : Nat) : Bool :=
  (s.net.any fun m => match m with
    | .load ow _ _ => ow.task == id
    | .store _ w => w.owner.task == id
    | .contribution _ _ _ _ ow _ _ _ | .surr _ _ _ _ ow => ow.any fun k => k.task == id
    | .token _ _ _ ow | .probe _ _ _ _ ow | .probeAck _ _ _ ow | .pass _ _ _ _ _ _ ow _ _ | .passOutcome ow _ _ |
      .remote ow _ _ _ _ | .hostWrite ow _ _ | .backInval ow _ => ow.task == id
    | .mgmtReply ow _ _ => ow.any fun k => k.task == id
    | .reg _ _ _ | .regack _ _ | .collect _ _ | .surrE _ _ _ _ | .none_ _ _ | .chunk _ _ _ _ _ _ => false) ||
  (s.bowls.any fun b => b.owners.any fun k => k.task == id) ||
  (s.partials.any fun x => !x.registered && x.owners.any fun k => k.task == id) ||
  (s.cells.any fun c => (c.waiting ++ c.queue).any fun r => match r with
    | .load ow _ _ _ _ _ _ | .atom _ ow _ _ _ _ _ | .ldaccZero _ ow _ _ _ _ => ow.task == id
    | .store _ w => w.owner.task == id
    | .contrib _ _ _ ow => ow.any fun k => k.task == id
    | .reg _ _ | .remote _ _ | .clean => false) ||
  s.mgmt.any fun q => q.owners.any fun k => k.task == id

/-- Has the last team of a task ended, or of a task that is stopped the last placed one left its core? A commit that has begun is
applied whole first (R246), and the fault that stands is known once its clock is over (R395). -/
def State.teamsGone (s : State) (t : Task) : Bool :=
  !(s.teams.any fun tm => tm.task == t.id) &&
    match t.phase with
    | .live => t.started && t.ended.length == t.gridSize && t.buf.isEmpty && t.committing.isNone
    | .ending _ _ _ => t.committing.isNone && t.faultAt.isNone
    | .closing _ => false

/-- The next state of the slot of a task that ends (R294). -/
def Slot.afterTask (x : Slot) : Slot :=
  match x.state with
  | .drain => Slot.zero
  | .free | .bound | .staged | .run | .susp => { x with state := .bound, held := false }

/-- The slot leaves the task (R294). -/
def State.releaseSlot (s : State) (t : Task) : State :=
  { s with slots := Sparse.set Slot.zero s.slots t.slot (Sparse.get Slot.zero s.slots t.slot).afterTask,
           tasks := mapIf (fun x => x.id == t.id) (fun x => { x with isOver := true }) s.tasks }

/-- The slots of the tasks whose teams are gone are BOUND again; one in DRAIN goes with DRAIN_COMPLETE. -/
def State.releaseSlots (s : State) : State :=
  s.tasks.foldl (fun s t =>
    if s.teamsGone t && !t.isOver && (Sparse.get Slot.zero s.slots t.slot).state != .drain then s.releaseSlot t else s) s

/-- The outcome that a task whose teams and accesses have ended writes now: SCODE, SDETAIL, STEAM. -/
def State.outcome (s : State) (t : Task) : Option (Nat × Nat × Nat) :=
  if !s.teamsGone t || s.taskPending t.id then none
  else match t.phase with
    | .ending c d tm => some (c.toNat, d.toNat, tm.toNat)
    | .live => some (0, 0, 0)
    | .closing _ => none

/-- Item 1 of R292: the record's bytes 40 to 47 are written. The task's replicas are dropped (R158, R298). -/
def State.writeOutcome (s : State) (t : Task) (code detail team : Nat) : State :=
  let s := { s with saved := s.saved.filter (fun x => x.task != t.id), replicas := s.replicas.filter fun x => x.task != t.id }
  let (s, bad) := (s.noteGone fun k => k.task == t.id).unitWrites (unitOwner t.chain) t.ctx (t.recAddr.toNat + 40)
    ([BitVec.ofNat 8 code, 0] ++ leBytes 2 team ++ leBytes 4 detail)
  s.modTask t.id fun t => { t with phase := .closing bad }

/-- Items 2 and 3 of R292: DONE, then the completion word. A dropped write stops the chain (R425). -/
def State.complete (s : State) (t : Task) (dropped : Bool) : State :=
  let s := { s with tasks := s.tasks.filter fun x => x.id != t.id }
  let d := s.chain t.chain
  let done := (chainDone d + 1) % 2 ^ 32
  let (s, bad) := (s.setChain t.chain (setField d 352 32 done)).unitWrites (unitOwner t.chain) t.ctx (chainCw d) (leBytes 8 done)
  let s := if dropped then s.unitFailed t.chain else s
  if bad then s.unitFailed t.chain else s

/-- One task goes on toward its end: its outcome is written, or the completion word, which is a release at .sy. Both writes wait
while their page is held (R373). -/
def State.endTask (s : State) (t : Task) : State :=
  match t.phase with
  | .closing bad =>
    if s.releaseReady (unitOwner t.chain) .sy && !s.unitHeld t.ctx (chainCw (s.chain t.chain)) 8 then s.complete t bad else s
  | .live | .ending _ _ _ =>
    match s.outcome t with
    | some (c, d, tm) => if t.isOver && !s.unitHeld t.ctx (t.recAddr.toNat + 40) 8 then s.writeOutcome t c d tm else s
    | none => s

/-- Every task that can goes on toward its end. -/
def State.endTasks (s : State) : State := s.releaseSlots.tasks.foldl State.endTask s.releaseSlots

/-- End what can end. -/
def State.settle (s : State) : State := s.endTeams.endTasks

/-! ## The events after which a team or task may end -/

/-- The event COPY_COMPLETION: the `k`-th copy under way is performed and completes, unless it must still wait, for another
device's acknowledgement too. -/
def execCopyCompletion (k : Nat) (s : State) : Out :=
  match s.copies[k]? with
  | none => .next s
  | some r =>
    match r.done with
    | some st => .next (s.endCopy r st).settle.tick
    | none =>
      if r.sent then .next s
      else match s.ctxOf r.owner r.inRoutine with
      | none => .next { s with copies := s.copies.filter fun x => x.id != r.id }.tick
      | some (c, t) =>
        match s.performCopy c t r false with
        | .done s1 st => .next (s1.endCopy r st).settle.tick
        | .sent s1 => .next { s1 with copies := mapIf (fun x => x.id == r.id) (fun x => { x with sent := true }) s1.copies }.tick
        | .wait s1 => .next s1.tick
        | .lease reason addr dst => .next ((s.endByLease c r reason addr dst).endCopy r copyOk).settle.tick
        | .hole a => .fault (.physicalHole a)

/-- The event HOME_SLICE_REQUEST (R332): the oldest item of the queue of a core's warp that may leave it leaves; or the store that
is the `k`-th message reaches its home, in its order and when the home's set has a way for the line. -/
def execHomeSliceRequest (r : SliceReq) (k : Nat) (s : State) : Out :=
  match r with
  | .queue core =>
    match s.queueTeam core k with
    | none => .next s
    | some (tm, j) =>
      let queue := (tm.warp j).queue
      match (s.firstGo core queue).bind (takeAt queue) with
      | none => .next s
      | some (q, rest) =>
        let s := s.modTeam tm.task tm.team fun tm => tm.modWarp j fun w => { w with queue := rest }
        .next (s.leave core q).settle.tick
  | .flight =>
    match s.net[k]? with
    | some (.store core w) =>
      if storeBehind core w (s.net.take k) || s.noWay (homeSliceOf w.place) w.place then .next s
      else .next (({ s with net := s.net.eraseIdx k } : State).accessHome w.place (.store core w)).settle.tick
    | _ => .next s

end Sys2Proof.Machine
end

