-- ==== Sys2Proof/Machine/Sync.lean ====
section
/-!
DEFINITION. What threads wait for and how a wait ends: barriers (spec/05 R141 to R143), neighbour exchanges (spec/04 R123,
R124), and the withdrawal of a thread that exits.
-/
namespace Sys2Proof.Machine

open Sys2Proof

/-! ## Barriers (R141 to R143) -/

/-- The number of a scope, 0 (.sq) to 5 (.sy). -/
def scopeNo : Scope → Nat
  | .sq => 0 | .tm => 1 | .cl => 2 | .lg => 3 | .dv => 4 | .sy => 5

/-- A barrier instance: scope 0 to 4 and unit (squad and team, team, club, league). -/
structure Inst where
  scope : Nat
  team : Nat
  squad : Nat

/-- The instance of a scope to which a thread belongs. -/
def instOf (tk : Task) (team tid scope : Nat) : Inst := { scope := scope, team := team, squad := squadOf tk.width tid }

/-- The unit number in the task's table. -/
def Inst.unit (i : Inst) : Nat :=
  match i.scope with
  | 2 => i.team / 4
  | 3 => i.team / 16
  | _ => 0

def State.barInst (s : State) (tk : Task) (i : Inst) : BarInst :=
  match i.scope with
  | 0 => (s.team? tk.id i.team).elim BarInst.zero fun tm => Sparse.get BarInst.zero tm.sqBar i.squad
  | 1 => (s.team? tk.id i.team).elim BarInst.zero fun tm => tm.tmBar
  | sc => (s.task? tk.id).elim BarInst.zero fun t => Sparse.get BarInst.zero t.bars (2 ^ 20 * sc + i.unit)
def State.setBarInst (s : State) (tk : Task) (i : Inst) (b : BarInst) : State :=
  match i.scope with
  | 0 => s.modTeam tk.id i.team fun tm => { tm with sqBar := Sparse.set BarInst.zero tm.sqBar i.squad b }
  | 1 => s.modTeam tk.id i.team fun tm => { tm with tmBar := b }
  | sc => s.modTask tk.id fun t => { t with bars := Sparse.set BarInst.zero t.bars (2 ^ 20 * sc + i.unit) b }

/-- The logical teams of an instance that exist in the grid. -/
def Inst.teams (i : Inst) (grid : Nat) : List Nat :=
  (match i.scope with
   | 0 | 1 => [i.team]
   | 2 => (List.range 4).map (4 * (i.team / 4) + ·)
   | 3 => (List.range 16).map (16 * (i.team / 16) + ·)
   | _ => List.range grid).filter (· < grid)

/-- Is a thread of team `team` a participant of the instance? -/
def Inst.has (i : Inst) (tk : Task) (team tid : Nat) : Bool :=
  (i.teams tk.gridSize).contains team && (i.scope != 0 || squadOf tk.width tid == i.squad)

/-- Bytes of a thread's block in the save area (R398). -/
def threadBlock (tk : Task) : Nat := 128 * ((128 + 4 * tk.vregs + 96 * tk.accs + 127) / 128)

/-- Has the thread exited, by the save area of its team (R400 EXITED)? -/
def savedExited (tk : Task) (area : Sparse Byte) (tid : Nat) : Bool :=
  bitAt (Sparse.get (0 : Byte) area (256 + tid * threadBlock tk + 13)) 0

/-- The participants of an instance that have not exited: those of placed, saved and not yet placed teams (R141). -/
def State.liveParticipants (s : State) (tk : Task) (i : Inst) : Nat :=
  ((i.teams tk.gridSize).map fun team =>
    match s.team? tk.id team with
    | some tm => (tm.threads.filter fun t => !t.exited && i.has tk team t.tid).length
    | none =>
      match s.saved.find? fun x => x.task == tk.id && x.team == team with
      | some sv => ((List.range tk.threads).filter fun t => i.has tk team t && !savedExited tk sv.area t).length
      | none =>
        if ((s.task? tk.id).elim [] (·.ended)).contains team then 0
        else ((List.range tk.threads).filter fun t => i.has tk team t).length).sum

/-- The scope field of a wait. -/
def Wait.isBarrier (w : Wait) (scope : Nat) : Bool :=
  match w with
  | .barrier sc => sc.val == scope
  | _ => false

/-- A wait of the scope ends for the threads whose generation has passed: they acquire, and their pending bit falls
(R142 await). -/
def State.releaseBarrier (s : State) (tk : Task) (i : Inst) (gen : BitVec 31) : State :=
  let out := fun (tm : Team) (t : Thread) =>
    tm.task == tk.id && i.has tk tm.team t.tid && t.wait.isBarrier i.scope && (t.bar i.scope).rgen != gen
  let cores := (s.teams.filter fun tm => tm.threads.any (out tm)).map (·.core)
  let s := cores.foldl (fun s core => s.acquire core .dv) s
  { s with teams := s.teams.map fun tm => tm.modThreads (out tm) fun t =>
      (t.setBar i.scope { t.bar i.scope with pending := false }).ready }

/-- check(s) (R142). -/
def State.barCheck (s : State) (tk : Task) (i : Inst) : State :=
  let b := s.barInst tk i
  if b.count.toNat = s.liveParticipants tk i then
    let g := b.gen + 1
    (s.setBarInst tk i { count := 0, gen := g }).releaseBarrier tk i g
  else s

/-- arrive(T, s) for one thread, after its release: the record, the count (R142). -/
def State.arrive (s : State) (tk : Task) (team tid scope : Nat) : State :=
  let i := instOf tk team tid scope
  let b := s.barInst tk i
  let s := s.setBarInst tk i { b with count := b.count + 1 }
  s.modThread { task := tk.id, team := team, tid := tid } fun t => t.setBar scope { pending := true, rgen := b.gen }

/-- The instances of a scope to which threads of a team belong, each once. -/
def instsOf (tk : Task) (team : Nat) (tids : List Nat) (scope : Nat) : List Inst :=
  if scope = 0 then (tids.map (squadOf tk.width)).dedup.map fun q => { scope := 0, team := team, squad := q }
  else if tids.isEmpty then [] else [{ scope := scope, team := team, squad := 0 }]

/-- A thread that exits takes back an arrival counted in the current generation (R142). -/
def State.withdraw (s : State) (tk : Task) (team : Nat) (t : Thread) (scope : Nat) : State :=
  let i := instOf tk team t.tid scope
  let b := s.barInst tk i
  let r := t.bar scope
  if r.pending && r.rgen == b.gen then s.setBarInst tk i { b with count := b.count - 1 } else s

/-! ## Neighbour exchanges (R123, R124) -/

/-- The position of a thread on its club's chain, and its neighbour on one side, as (team, tid). -/
def neighbour (tk : Task) (team tid : Nat) (left : Bool) : Option (Nat × Nat) :=
  let n := tk.threads
  let p := team % 4 * n + tid
  if left then
    if p = 0 then none else some (team / 4 * 4 + (p - 1) / n, (p - 1) % n)
  else if 4 * n ≤ p + 1 then none
  else
    let u := team / 4 * 4 + (p + 1) / n
    if u < tk.gridSize then some (u, (p + 1) % n) else none

/-- The offers of a thread. -/
def Task.offersOf (tk : Task) (team tid : Nat) : Offers := Sparse.get Offers.zero tk.offers (team * tk.threads + tid)

/-- A thread makes its `n`-th offer; made again, it replaces the offer and keeps the one before it. -/
def Task.putOffer (tk : Task) (team tid : Nat) (n : BitVec 32) (v : Offer) : Task :=
  let o := tk.offersOf team tid
  { tk with offers := Sparse.set Offers.zero tk.offers (team * tk.threads + tid)
              { made := n, last := v, prev := if o.made = n then o.prev else o.last } }

/-- Has a thread of the task exited, wherever its team stands? -/
def State.hasExited (s : State) (tk : Task) (team tid : Nat) : Bool :=
  match s.team? tk.id team with
  | some tm => (tm.thread? tid).elim true (·.exited)
  | none =>
    match s.saved.find? fun x => x.task == tk.id && x.team == team with
    | some sv => savedExited tk sv.area tid
    | none => tk.ended.contains team

/-- A neighbour's `n`-th offer: not made yet (`none`), or the value, which is 0 from one that does not exist or has
exited before it (R124 items 2 to 4). Counts are compared modulo 2^32, the width of NBRCNT (R149). A neighbour that is two
or more exchanges ahead, which only a CTXWR of NBRCNT can bring about, supplies a value that the spec does not state: a free
value (log entry 56). -/
def State.offerOf (s : State) (tk : Task) (nb : Option (Nat × Nat)) (n : BitVec 32) : Option Offer :=
  match nb with
  | none => some Offer.zero
  | some (team, tid) =>
    let o := tk.offersOf team tid
    if o.made = n then some o.last
    else if o.made = n + 1 then some o.prev
    else if 0 < (o.made - n).toInt then some { val := Config.freeOffer (s.key (team * tk.threads + tid)), pair := true }
    else if s.hasExited tk team tid then some Offer.zero
    else none

/-- May thread `tid` of a team complete the exchange that it waits in? -/
def State.exchangeDone (s : State) (tk : Task) (team : Nat) (t : Thread) : Bool :=
  let n := t.nbrcnt + 1
  (s.offerOf tk (neighbour tk team t.tid true) n).isSome && (s.offerOf tk (neighbour tk team t.tid false) n).isSome

/-- The instruction at a thread's program counter, with the fields of its repeat iteration (R137). -/
def State.instrAt (s : State) (tk : Task) (tm : Team) (t : Thread) : Option Instr :=
  let g : Group := { task := tk.id, team := tm.team, core := tm.core, addr := t.pc, members := [t.tid],
                     inRoutine := t.routine.isSome, iter := if t.rep.remaining = 0 then none else some t.rep.iter.toNat }
  match s.fetch { g := g, tk := tk, tm := tm } with
  | .ok i => some i
  | .fault _ | .held _ | .gather _ | .pad | .hole _ => none

/-! ## Ready threads (R305) -/

/-- Does the thread's next instruction name a register that awaits data (the scoreboard of R305)? -/
def State.awaits (s : State) (tk : Task) (tm : Team) (t : Thread) : Bool :=
  let ds := s.pendingDests (t.key tm) (tm.warp (warpOf tk.width t.tid)).queue
  !ds.isEmpty && match s.instrAt tk tm t with
    | some i => ds.any fun d => (i.uses (tk.width == 64)).any fun u => destMeets u d
    | none => false

/-- The iteration of a pending REP. -/
def Thread.repIter (t : Thread) : Option Nat := if t.rep.remaining = 0 then none else some t.rep.iter.toNat

/-- Is a live thread of the team in a routine that is not that of the save (R393, R381)? -/
def Team.inRoutine (tm : Team) : Bool :=
  tm.threads.any fun t => !t.exited && t.routine.any fun r => r.kind != .save

/-- Is a thread ready as far as its wait, its team's save and the scoreboard go (R305)? While its team is being saved, only threads
in a routine are. -/
def State.threadWaitless (s : State) (tk : Task) (tm : Team) (t : Thread) : Bool :=
  t.wait == .none && !t.exited && !t.saved && (match tm.phase with
    | .run => true
    | .saving _ _ => if tm.inRoutine then true else t.routine.isSome) && !s.awaits tk tm t

/-- Is a thread ready (R305): it is in no wait, its registers are there, and the units that its next instruction needs can accept it?
Of those that cannot, `busy` holds the ones found when the clock began, `blocked` the ones found since (log entry 3). -/
def State.threadReady (s : State) (tk : Task) (tm : Team) (t : Thread) : Bool :=
  !s.blocked.contains (t.key tm) && !s.busy.contains (t.key tm) && s.threadWaitless tk tm t

/-! ## Exchanges that complete (R124) -/

/-- What an exchange of two words or of one reads of an offer. Where an .i64 exchange meets an offer of one word, the spec
does not state the high word: a free value (log entry 56). -/
def Offer.read (x : Offer) (pair : Bool) (k : Nat) : BitVec 64 :=
  if pair && !x.pair then (Config.freeOffer k &&& 0xFFFFFFFF00000000) ||| x.val else x.val

/-- An active lane writes the `n`-th offer of its neighbour on one side (R124 item 3). -/
def State.takeOffer (s : State) (tk : Task) (tm : Team) (t : Thread) (g : Guards) (o : LaneOp) (left : Bool) : Thread :=
  let x := (s.offerOf tk (neighbour tk tm.team t.tid left) (t.nbrcnt + 1)).getD Offer.zero
  if guardHolds g.g1 t && guardHolds g.g2 t then t.putRegs o.d.val (pairRegs o.pair) (x.read (o.pair) (s.key t.tid)).toNat
  else t

/-- An exchange completes (R124): the lane writes the offer, and the thread goes on to the next iteration of a repeat, or to
the next instruction (R137). Where the instruction cannot be read again, the thread is ready at it and offers afresh. -/
def State.endExchange (s : State) (tk : Task) (tm : Team) (t : Thread) : Thread :=
  let leave := fun (t1 : Thread) =>
    { (s.advance tk 8 (t.rep.remaining != 0) t1).ready with nbrcnt := t.nbrcnt + 1, offer := 0 }
  match s.instrAt tk tm t with
  | some (.nbrl g o) => leave (s.takeOffer tk tm t g o true)
  | some (.nbrr g o) => leave (s.takeOffer tk tm t g o false)
  | _ => t.ready

/-- Complete every exchange of the task that can complete. -/
def State.sweepExchanges (s : State) (id : Nat) : State :=
  match s.task? id with
  | none => s
  | some tk =>
    if tk.linked then
      { s with teams := mapIf (fun tm => tm.task == id) (fun tm =>
          tm.modThreads (fun t => t.wait == .nbr && !t.exited && s.exchangeDone tk tm.team t) (s.endExchange tk tm)) s.teams }
    else s

end Sys2Proof.Machine
end

