-- ==== Sys2Proof/Machine/Control.lean ====
section
/-!
DEFINITION. Control instructions (spec/05 R126 to R151): transfers, MARK, JOIN, EXIT, YIELD, NOP, REP, traps, barriers,
INNEND, the vector allotment, and the neighbour exchanges (spec/04 R123).
-/
namespace Sys2Proof.Machine

open Sys2Proof

/-- What follows an instruction in the same step. -/
def after (o : Out) (f : State → State) : Out :=
  match o with
  | .next s => .next (f s)
  | .fault r => .fault r
  | .refused r => .refused r

/-- What the group that was selected in `s` still brings about. -/
def afterGroup (s : State) (o : Out) (f : Ctx → State → State) : Out :=
  match s.ctx with
  | some c => after o (f c)
  | none => o

/-! ## Transfers (R126 to R130) -/

/-- A target relative to the instruction's own address. DESIGN CHOICE (log entry 57): a sum below 0 wraps modulo 2^64; the
spec states none, and the fetch there lies outside every lease. -/
def relTarget (c : Ctx) (off : BitVec 32) : Nat := (((c.g.addr.toNat : Int) + off.toInt) % (2 : Int) ^ 64).toNat
/-- A target that a code offset gives. -/
def offTarget (c : Ctx) (v : Word) : Nat := c.tk.entry + v.toNat
/-- The link: the code offset of the next instruction (R128). -/
def linkOf (c : Ctx) : Word := BitVec.ofNat 32 (codeOff c.tk (c.g.addr.toNat + 8))

/-- Every active lane transfers. -/
def runJump (i : Instr) (g : Guards) (s : State) (target : Ctx → Thread → Nat) (f : Ctx → Thread → Thread) : Out :=
  run i g s fun c act =>
    .done (s.eachLane c act (f c)) { Post.none with jumps := act.map fun t => (t.tid, target c t) }

/-- BRA. -/
def execBra (g : Guards) (off : BitVec 32) (s : State) : Out :=
  runJump (.bra g off) g s (fun c _ => relTarget c off) fun _ t => t
/-- JMPI. -/
def execJmpi (g : Guards) (r : VSReg) (s : State) : Out :=
  runJump (.jmpi g r) g s (fun c t => offTarget c ((c.laneView t).vs r)) fun _ t => t
/-- CALL. -/
def execCall (g : Guards) (d : RegNum) (off : BitVec 32) (s : State) : Out :=
  runJump (.call g d off) g s (fun c _ => relTarget c off) fun c t => t.setReg d.val (linkOf c)
/-- CALLI reads its target before it writes the link. -/
def execCalli (g : Guards) (d : RegNum) (r : VSReg) (s : State) : Out :=
  runJump (.calli g d r) g s (fun c t => offTarget c ((c.laneView t).vs r)) fun c t => t.setReg d.val (linkOf c)
/-- RET. -/
def execRet (g : Guards) (r : VSReg) (s : State) : Out :=
  runJump (.ret g r) g s (fun c t => offTarget c ((c.laneView t).vs r)) fun _ t => t

/-- A signed word read through the fetch path (R129). -/
def State.codeWord (s : State) (c : Ctx) (a : Nat) (k : Int → Eff) : Eff :=
  let held := fun (p : Nat) => Eff.done (s.holdThreads c p c.g.members) { Post.none with stay := c.g.members }
  let gather := fun (p : Place) =>
    if s.gathering p then Eff.stall c.g.members else Eff.done (s.gatherAll [p]) { Post.none with stay := c.g.members }
  match s.fetchBlock c.tk c.tm.core a c.g.members with
  | .fault f => .fault f
  | .held p => held p
  | .gather p => gather p
  | .hole h => .hole h
  | .ok bs =>
    if a % 32 + 4 ≤ 32 then k (wordAt bs (a % 32)).toInt
    else match s.fetchBlock c.tk c.tm.core (a + 4) c.g.members with
      | .fault f => .fault f
      | .held p => held p
      | .gather p => gather p
      | .hole h => .hole h
      | .ok bs' => k (wordAt (bs ++ bs') (a % 32)).toInt

/-- Read the table words of a list of lanes, then go on with the jumps. -/
def State.tableJumps (s : State) (c : Ctx) (table : Nat) (k : List (Nat × Nat) → Eff) :
    List (Nat × Nat) → List (Nat × Nat) → Eff
  | [], js => k js
  | (tid, j) :: rest, js =>
    s.codeWord c (table + 4 * j) fun e =>
      State.tableJumps s c table k rest (js ++ [(tid, (((table : Int) + e) % (2 : Int) ^ 64).toNat)])

/-- JTBL (R129): an active index at or above the number of entries faults, and no lane transfers. -/
def execJtbl (g : Guards) (o : JtblOp) (s : State) : Out :=
  run (.jtbl g o) g s fun c act =>
    let idx := fun (t : Thread) => ((c.laneView t).vs o.idx).toNat
    let out := act.filter fun t => decide (o.entries.val ≤ idx t)
    if out.isEmpty then
      s.tableJumps c (relTarget c o.table) (fun js => .done s { Post.none with jumps := js })
        (act.map fun t => (t.tid, idx t)) []
    else
      .fault { FaultInfo.plain causeTable 0 (out.map (·.tid)) with
        details := out.map fun t => { tid := t.tid, index := some (BitVec.ofNat 64 (idx t)), faddr := none, opnd := none } }

/-! ## MARK, JOIN, EXIT (R131 to R134) -/

/-- MARK: one entry with the group's threads. -/
def execMark (off : BitVec 32) (s : State) : Out :=
  run (.mark off) Guards.always s fun c act =>
    let ks := c.warps act
    if ks.any fun k => decide (8 ≤ ((c.tm.warp k).stack c.g.inRoutine).length) then
      .fault (FaultInfo.plain causeJoin 0 c.g.members)
    else
      let rejoin := BitVec.ofNat 64 (s.skipPads c.tk (relTarget c off))
      .ok (s.eachWarp c act fun k w => w.setStack c.g.inRoutine (w.stack c.g.inRoutine ++
        [{ rejoin := rejoin, mask := BitVec.ofNat 64 (laneMask c.tk.width k (act.map (·.tid))), written := false }]))

/-- Is the thread's top entry one that rejoins at address `a` (R132)? -/
def rejoinsAt (w : Nat) (tm : Team) (inRoutine : Bool) (t : Thread) (a : BitVec 64) : Bool :=
  (topEntry ((tm.warp (warpOf w t.tid)).stack inRoutine) (wlaneOf w t.tid)).any fun e => e.rejoin == a

/-- JOIN: the group's threads arrive and wait, and the entries that are complete are left, unless a thread of the group
raises JOIN STACK (R132). In an ordered launch the arrival ends the inning (R144). -/
def execJoin (s : State) : Out :=
  run .join Guards.always s fun c act =>
    let bad := act.filter fun t => !rejoinsAt c.tk.width c.tm c.g.inRoutine t c.g.addr
    if bad.isEmpty then
      let s := s.eachLane c act fun t =>
        { t with wait := .join, innEnded := t.innEnded || (c.tk.ordered && !c.g.inRoutine) }
      .done (s.joinChecks c.tk c.tm.team c.g.inRoutine c.g.members) { Post.none with hold := c.g.members }
    else .fault (FaultInfo.plain causeJoin 0 (bad.map (·.tid)))

/-- What the exit of threads brings about (R133): mark entries, barriers, exchanges, and the end of the team. -/
def State.afterExit (s : State) (tk : Task) (team : Nat) (tids : List Nat) : State :=
  let s := s.modTeam tk.id team fun tm =>
    ((tids.map (warpOf tk.width)).dedup).foldl (fun tm k => tm.modWarp k fun w =>
      { w with marks := dropFromStack tk.width k tids w.marks,
               routineMarks := dropFromStack tk.width k tids w.routineMarks }) tm
  let s := (s.joinChecks tk team false tids).joinChecks tk team true tids
  let s := ([0, 1, 2, 3, 4].flatMap (instsOf tk team tids)).foldl (fun s i => s.barCheck tk i) s
  (s.sweepExchanges tk.id).settle

/-- EXIT: each active thread ends and withdraws its counted arrivals. -/
def execExit (g : Guards) (s : State) : Out :=
  afterGroup s
    (run (.exit g) g s fun c act =>
      let s := act.foldl (fun s t => [0, 1, 2, 3, 4].foldl (fun s sc => s.withdraw c.tk c.tm.team t sc) s) s
      .done (s.eachLane c act fun t => { t with exited := true, wait := .none, rep := Rep.none, innEnded := true })
        { Post.none with hold := act.map (·.tid) })
    fun c s => s.afterExit c.tk c.tm.team (c.active g |>.map (·.tid))

/-! ## YIELD, NOP, REP (R135 to R139) -/

/-- The threads of a squad of a core that are ready (R305), but for those of the list (R135). -/
def State.squadReady (s : State) (core squad : Nat) (but : List ThreadKey) : List ThreadKey :=
  (s.teams.filter fun tm => tm.core == core).flatMap fun tm =>
    match s.task? tm.task with
    | none => []
    | some tk => ((tm.threads.filter fun t => squadOf tk.width t.tid == squad && s.threadReady tk tm t).map fun t =>
        t.key tm).filter fun k => !but.contains k

/-- The squad of the group. -/
def Ctx.squad (c : Ctx) : Nat := squadOf c.tk.width (c.g.members.headD 0)

/-- YIELD: the active threads wait until every thread that was ready has issued or exited (R135). -/
def execYield (g : Guards) (s : State) : Out :=
  run (.yield g) g s fun c act =>
    let o := s.squadReady c.tm.core c.squad (c.threads.map c.key)
    .done (s.eachLane c act fun t => { t with wait := if o.isEmpty then .none else .yield o })
      { Post.none with yields := act.map (·.tid) }

/-- NOP. -/
def execNop (g : Guards) (s : State) : Out := run (.nop g) g s fun _ _ => .ok s

/-- The address after the instruction at `a`, by its first word; the instruction's own address where that word is no
instruction, which the fetch then reports (R137). -/
def State.afterInstr (s : State) (tk : Task) (a : Nat) : Nat :=
  match (s.peekWord tk a).bind lenOf with
  | some len => a + len.bytes
  | none => a

/-- REP (R137): with a count of 0 the next instruction is skipped. -/
def execRep (g : Guards) (o : RepOp) (s : State) : Out :=
  run (.rep g o) g s fun c act =>
    let n := fun (t : Thread) => match o.count with
      | .imm n => n.val
      | .sc r => ((c.warp t).sreg r.val).toNat % 65536
    let i := s.skipPads c.tk (c.g.addr.toNat + 8)
    .done (s.eachLane c act fun t =>
        if n t = 0 then t
        else { t with rep := { remaining := BitVec.ofNat 16 (n t), iter := 0, stride := BitVec.ofNat 8 o.stride.val,
                               mask := o.mask } })
      { Post.none with jumps := (act.filter fun t => n t == 0).map fun t => (t.tid, s.afterInstr c.tk i) }

/-! ## TRAP, BKPT, TRET (R140, R392 to R394, R414) -/

/-- TRAP: each active thread enters the routine and will resume after the TRAP; without a routine the task ends. The
TRAP has retired (R64), so it counts toward the inning. -/
def execTrap (g : Guards) (n : BitVec 8) (s : State) : Out :=
  run (.trap g n) g s fun c act =>
    c.outsideRoutine <|
      let f := { FaultInfo.plain causeTrap 0 (act.map (·.tid)) with code := n.toNat }
      if act.isEmpty then .ok s
      else if s.hasRoutine c.tk then
        let start := s.skipPads c.tk (c.tk.entry + 8)
        let resume := s.skipPads c.tk (c.g.addr.toNat + 8)
        let rec0 := faultRecord c.tk c.tm.team c.g.addr.toNat f none
        let count := fun (t : Thread) =>
          let pos := t.innpos + 1
          let ended := t.innEnded || decide (c.tk.inningLen ≤ pos.toNat)
          if c.tk.ordered then { t with innpos := pos, innEnded := ended, wait := if ended then .inning else t.wait } else t
        let s1 := s.modTeam c.tk.id c.tm.team fun tm =>
          (c.warps act).foldl (fun tm k => tm.freshRoutineMarks c.tk.width k (act.map (·.tid))) tm
        let s1 := s1.eachLane c act fun t => (count t).enterRoutine .trap resume start (rec0 t.tid)
        .done (s1.joinChecks c.tk c.tm.team true (act.map (·.tid))) { Post.none with jumps := act.map fun t => (t.tid, start) }
      else .fault f

/-- BKPT (R140, R414): with DEBUG, outside a routine, each active thread stops after it, and its stop is reported. -/
def execBkpt (g : Guards) (n : BitVec 8) (s : State) : Out :=
  run (.bkpt g n) g s fun c act =>
    if c.tk.debug && !c.g.inRoutine then
      let f := { FaultInfo.plain causeBkpt 0 (act.map (·.tid)) with code := n.toNat }
      let rec0 := faultRecord c.tk c.tm.team c.g.addr.toNat f none
      let s1 := s.eachLane c act fun t => { t with wait := .bkpt, fault := rec0 t.tid }
      .ok (act.foldl (fun s t => s.postEvent
        { kind := 2, team := c.tm.team, value := BitVec.ofNat 64 c.tk.chain, body := rec0 t.tid, reply := none }) s1)
    else .ok s

/-- The wait that a WAIT word gives (R149); a thread at YIELD forms its set afresh (R135). DESIGN CHOICE (log entry 57): a
word of condition 2 with a scope of 5 to 7, whose fate the spec does not state, gives no wait. -/
def waitOfWord (others : List ThreadKey) (w : Word) : Wait :=
  match bitsNat w 0 4 with
  | 1 => .join
  | 2 => if h : bitsNat w 4 3 < 5 then .barrier ⟨bitsNat w 4 3, h⟩ else .none
  | 3 => .nbr
  | 4 => .vgrow (8 * bitsNat w 8 8)
  | 5 => .inning
  | 6 => if others.isEmpty then .none else .yield others
  | _ => .none

/-- The WAIT word of a wait (R149). -/
def Wait.word (w : Wait) : Nat :=
  match w with
  | .none | .mgmt | .bkpt | .held _ _ => 0
  | .join => 1
  | .barrier sc => 2 + 16 * sc.val
  | .nbr => 3
  | .vgrow n => 4 + 256 * (n / 8)
  | .inning => 5
  | .yield _ => 6

/-- The word of a barrier record (R149 BARST). -/
def BarRec.word (b : BarRec) : Word := BitVec.ofNat 32 (b.rgen.toNat + if b.pending then 2 ^ 31 else 0)
def BarRec.ofWord (w : Word) : BarRec := { pending := bitAt w 31, rgen := w.setWidth 31 }

/-- Apply staged items to the interrupted context, and resume it (R150, R394). A thread whose inning has ended and that resumes in no
other wait waits for the commit (R239). DESIGN CHOICE (log entry 67): a JOIN that a staged WAIT 1 resumes in is arrived at without
ending an inning that had not ended; only WAIT 5 ends it. -/
def Thread.leaveRoutine (t : Thread) (r : Routine) (others : List ThreadKey) (tk : Task) : Thread :=
  let st := r.staged
  let rep := match st.repcnt with
    | some w => { r.rep with remaining := w.setWidth 16, iter := (w >>> 16).setWidth 16 }
    | none => r.rep
  let rep := match st.repcfg with
    | some w => { rep with stride := w.setWidth 8, mask := (w >>> 8).setWidth 4 }
    | none => rep
  let bars := st.bars.foldl (fun bs (sc, w) => Sparse.set BarRec.zero bs sc (BarRec.ofWord w)) t.bars
  let innpos := if r.committed then 0 else st.innpos.getD t.innpos
  let wait := match st.wait with
    | some w => waitOfWord others w
    | none => r.wait
  let wait := if r.committed && wait == .inning then .none else wait
  let offer := (st.nbroff.elim t.offer fun w => DWord.ofWords w (DWord.hi t.offer))
  let offer := (st.nbroffh.elim offer fun w => DWord.ofWords (DWord.lo offer) w)
  let ended := (t.innEnded && !r.committed) || (tk.ordered && wait == .inning)
  { t with routine := none, rep := rep, bars := bars, innpos := innpos, pc := r.resume,
           nbrcnt := st.nbrcnt.getD t.nbrcnt, offer := offer, saved := false, dog := 0, innEnded := ended,
           wait := if ended && wait == .none then .inning else wait }

/-- The routine mark stack of a warp is discarded when its last thread leaves (R393). -/
def Team.dropRoutineMarks (tm : Team) (w k : Nat) : Team :=
  if tm.threads.any fun t => warpOf w t.tid == k && t.routine.isSome && !t.exited then tm
  else tm.modWarp k fun wp => { wp with routineMarks := [] }

/-- Threads that TRET, or a restore, resumes in a wait (R150, R402): a JOIN is arrived at, or raises JOIN STACK at the
resume point; a barrier whose generation has passed is left; an exchange makes its offer again. -/
def State.resumeWaits (s : State) (tk : Task) (team : Nat) (tids : List Nat) : State :=
  match s.team? tk.id team with
  | none => s
  | some tm =>
    let mine := tm.threads.filter fun t => tids.contains t.tid
    let w := tk.width
    -- JOIN
    let bad := mine.filter fun t => t.wait == .join && !rejoinsAt w tm false t t.pc
    let s := bad.foldl (fun s t =>
      let g : Group := { task := tk.id, team := team, core := tm.core, addr := t.pc, members := [t.tid], inRoutine := false,
                         iter := none }
      let s := s.modThread (t.key tm) fun t => { t with wait := .none }
      s.raise { g := g, tk := tk, tm := tm } (FaultInfo.plain causeJoin 0 [t.tid])) s
    let s := s.joinChecks tk team false ((mine.filter fun t => t.wait == .join).map (·.tid))
    -- barriers and VGROW
    let s := mine.foldl (fun s t => match t.wait with
      | .vgrow m =>
        if s.rowsLent tm (squadOf tk.width t.tid) m then s
        else s.modThread (t.key tm) fun t => { t.regain with vallot := min t.regain.vallot tk.vregs }
      | .barrier sc =>
        let i := instOf tk team t.tid sc.val
        let r := t.bar sc.val
        if r.pending then s.releaseBarrier tk i (s.barInst tk i).gen
        else s.modThread (t.key tm) Thread.ready
      | _ => s) s
    -- exchanges
    let s := (mine.filter fun t => t.wait == .nbr).foldl (fun s t => s.modTask tk.id fun x =>
      let o := (x.offersOf team t.tid).last
      x.putOffer team t.tid (t.nbrcnt + 1) { val := t.offer, pair := o.pair || o.val != t.offer }) s
    s.sweepExchanges tk.id

/-- The threads of the group that a TRET leaves ready: those that resume in no wait (R135, R394). -/
def Ctx.resumeReady (c : Ctx) : List ThreadKey :=
  (c.threads.filter fun t => t.routine.any fun r =>
    r.kind != .save && (t.leaveRoutine r (c.threads.map c.key) c.tk).wait == .none).map c.key

/-- TRET (R394, R380): a thread in a routine entered for a SAVE ends its save; any other resumes. -/
def execTret (s : State) : Out :=
  afterGroup s
    (run .tret Guards.always s fun c act =>
      if c.g.inRoutine then
        let ready := s.squadReady c.tm.core c.squad (c.threads.map c.key) ++ c.resumeReady
        let s1 := s.eachLane c act fun t => match t.routine with
          | some r =>
            if r.kind = .save then { t with saved := true } else t.leaveRoutine r (ready.filter (· != c.key t)) c.tk
          | none => t
        let s1 := s1.modTeam c.tk.id c.tm.team fun tm => (c.warps act).foldl (fun tm k => tm.dropRoutineMarks c.tk.width k) tm
        .done s1 { Post.none with stay := c.g.members }
      else c.illegal 7)
    fun c s =>
      let back := (c.threads.filter fun t => c.g.inRoutine && t.routine.any fun r => r.kind != .save).map (·.tid)
      let s := s.noteIssued (c.threads.map c.key)
      s.resumeWaits c.tk c.tm.team back

/-! ## Barriers (R142) -/

/-- The threads of the group that have something outstanding at the scope: the arrival's release waits (R334). -/
def releaseWaits (s : State) (c : Ctx) (act : List Thread) (sc : Scope) : List Nat :=
  if (act.any fun t => s.outstanding (c.key t) sc) then act.map (·.tid) else []

/-- Has the thread an arrival of the instance's current generation pending? -/
def State.arrivedNow (s : State) (c : Ctx) (t : Thread) (n : Nat) : Bool :=
  (t.bar n).pending && (t.bar n).rgen == (s.barInst c.tk (instOf c.tk c.tm.team t.tid n)).gen

/-- The threads `go` arrive, after the await of an earlier generation; the threads `early` wait for their own pending
arrival first; then check(s) (R142). -/
def State.arriveAll (s : State) (c : Ctx) (sc : Scope) (wait : Bool) (go early : List Thread) : State :=
  let n := scopeNo sc
  let s := if go.any fun t => (t.bar n).pending then s.acquire c.tm.core sc else s
  let s := go.foldl (fun s t => s.arrive c.tk c.tm.team t.tid n) (s.released c go)
  let s := s.eachLane c go fun t =>
    { t with innEnded := t.innEnded || c.tk.ordered, wait := if wait then .barrier (Fin.ofNat 5 n) else t.wait }
  let s := s.eachLane c early fun t => { t with wait := .barrier (Fin.ofNat 5 n) }
  (instsOf c.tk c.tm.team (go.map (·.tid)) n).foldl (fun s i => s.barCheck c.tk i) s

/-- BARA and BAR: threads with a pending arrival of the current generation first wait for it; one of an earlier generation
is awaited at once; then the release, and the arrival. -/
def runArrive (i : Instr) (s : State) (sc : Scope) (wait : Bool) : Out :=
  run i Guards.always s fun c act =>
    c.outsideRoutine <|
      let n := scopeNo sc
      let early := act.filter fun t => s.arrivedNow c t n
      let go := act.filter fun t => !s.arrivedNow c t n
      match releaseWaits s c go sc with
      | [] => .done (s.arriveAll c sc wait go early) { Post.none with quiet := early.map (·.tid) }
      | ts => .stall ts

/-- BAR: arrive and await. -/
def execBar (sc : Scope) (s : State) : Out := runArrive (.bar sc) s sc true
/-- BARA: arrive. -/
def execBara (sc : Scope) (s : State) : Out := runArrive (.bara sc) s sc false

/-- BARW: await; no effect without a pending arrival. -/
def execBarw (sc : Scope) (s : State) : Out :=
  run (.barw sc) Guards.always s fun c act =>
    c.outsideRoutine <|
      let n := scopeNo sc
      let gen := fun (t : Thread) => (s.barInst c.tk (instOf c.tk c.tm.team t.tid n)).gen
      let pend := act.filter fun t => (t.bar n).pending
      let done := pend.filter fun t => (t.bar n).rgen != gen t
      let s := if done.isEmpty then s else s.acquire c.tm.core sc
      let s := s.eachLane c done fun t => t.setBar n { t.bar n with pending := false }
      .ok (s.eachLane c (pend.filter fun t => (t.bar n).rgen == gen t) fun t =>
        { t with wait := .barrier (Fin.ofNat 5 n) })

/-! ## Innings and the vector allotment (R144, R145) -/

/-- INNEND. -/
def execInnend (g : Guards) (s : State) : Out :=
  run (.innend g) g s fun c act =>
    c.outsideRoutine <| .ok (if c.tk.ordered then s.eachLane c act fun t => { t with innEnded := true } else s)

/-- A thread's registers from `n` up are given back: they read 0 when it regains them (R14). -/
def Thread.dropRegs (t : Thread) (n : Nat) : Thread := { t with regs := t.regs.filter fun x => decide (x.1 < n), vallot := n }

/-- VSHRINK: waits for outstanding writes to the released registers. -/
def execVshrink (g : Guards) (n : Fin 33) (s : State) : Out :=
  run (.vshrink g n) g s fun c act =>
    c.outsideRoutine <|
      let m := 8 * n.val
      let busy := act.filter fun t => decide (m < t.vallot) &&
        (s.pendingDests (c.key t) (c.warp t).queue).any fun d => match d with
          | .regs r w => rangesMeet r w.regs m (t.vallot - m)
          | .la _ => false
      match busy.map (·.tid) with
      | [] => .ok (s.eachLane c act fun t => if m < t.vallot then t.dropRegs m else t)
      | ts => .stall ts

/-- VGROW: waits while rows that it regains are lent to a borrower on the core (R302). -/
def execVgrow (g : Guards) (n : Fin 33) (s : State) : Out :=
  run (.vgrow g n) g s fun c act =>
    c.outsideRoutine <|
      let m := min (8 * n.val) c.tk.vregs
      .ok (s.eachLane c act fun t =>
        if m ≤ t.vallot then t
        else if s.rowsLent c.tm (squadOf c.tk.width t.tid) m then { t with wait := .vgrow m } else { t with vallot := m })

/-! ## Neighbour exchanges (R124) -/

/-- NBRL and NBRR: every thread of the group offers its A value and waits (R124). -/
def runExchange (i : Instr) (g : Guards) (o : LaneOp) (s : State) : Out :=
  run i g s fun c _ =>
    if !c.tk.linked || c.g.inRoutine then c.illegal 7
    else
      let offer := fun (t : Thread) => BitVec.ofNat 64 (readRegs t.reg o.a.val (pairRegs o.pair))
      let again := c.threads.filter fun t => (c.tk.offersOf c.tm.team t.tid).made == t.nbrcnt + 1
      let s := c.threads.foldl (fun s t => s.modTask c.tk.id fun tk => tk.putOffer c.tm.team t.tid (t.nbrcnt + 1) { val := offer t, pair := o.pair }) s
      let s := s.eachLane c c.threads fun t =>
        { t with wait := .nbr, offer := offer t, innEnded := t.innEnded || c.tk.ordered }
      .done (s.sweepExchanges c.tk.id) { Post.none with hold := c.g.members, quiet := again.map (·.tid) }

/-- NBRL. -/
def execNbrl (g : Guards) (o : LaneOp) (s : State) : Out := runExchange (.nbrl g o) g o s
/-- NBRR. -/
def execNbrr (g : Guards) (o : LaneOp) (s : State) : Out := runExchange (.nbrr g o) g o s

end Sys2Proof.Machine
end

