-- ==== Sys2Proof/Machine/System.lean ====
section
/-!
DEFINITION. Special registers (spec/01 R28 to R31), the hidden state (spec/05 R149 to R151), LNCH and MGMT (R146 to R148).
-/
namespace Sys2Proof.Machine

open Sys2Proof

/-! ## MFS and MTS (R28 to R31) -/

/-- The ready bitmap of a team's tags (R27). -/
def Team.readyBits (tm : Team) : Nat :=
  (List.range 64).foldl (fun n k => if tm.tagReady k then n + 2 ^ k else n) 0

/-- The value of a special register in a thread (R28). -/
def specialValue (s : State) (c : Ctx) (t : Thread) (r : Special) : Nat :=
  let w := c.tk.width
  match r with
  | .lane => laneOf w t.tid
  | .wlane => wlaneOf w t.tid
  | .warp => warpOf w t.tid
  | .squad => squadOf w t.tid
  | .tid => t.tid
  | .width => w
  | .vallot => t.vallot
  | .team => c.tm.team
  | .club => c.tm.team / 4
  | .league => c.tm.team / 16
  | .gridsz => c.tk.gridSize
  | .seedlo => bitsNat c.tk.seed 0 32
  | .seedhi => bitsNat c.tk.seed 32 32
  | .inning => t.inning.toNat
  | .fault i => bitsNat t.fault (32 * i.val) 32
  | .tagrdylo => c.tm.readyBits % 2 ^ 32
  | .tagrdyhi => c.tm.readyBits / 2 ^ 32
  | .clklo => s.clk % 2 ^ 32
  | .clkhi => s.clk / 2 ^ 32 % 2 ^ 32
  | .oobst => t.oobstWord.toNat
  | .satst => t.satstWord.toNat
  | .fpst => t.fpstWord.toNat
  | .passref => c.tm.passref.toNat
  | .wdlim => 2 ^ c.tk.wdlog % 2 ^ 32

/-- The high half of a pair name. -/
def Special.highHalf : Special → Special
  | .seedlo => .seedhi
  | .tagrdylo => .tagrdyhi
  | .clklo => .clkhi
  | r => r

/-- What MFS writes: one word, or both halves of a pair. -/
def mfsValue (s : State) (c : Ctx) (o : MfsOp) (t : Thread) : Nat :=
  specialValue s c t o.sr + if o.w then 2 ^ 32 * specialValue s c t (Special.highHalf o.sr) else 0

/-- The first active lane of a warp, or nothing. -/
def leadOf (c : Ctx) (act : List Thread) (k : Nat) : Option Thread := act.find? fun t => c.warpNo t == k
/-- The highest-numbered active lane, of all or of one warp. -/
def lastOf (act : List Thread) : Option Thread := act.getLast?
def lastOfWarp (c : Ctx) (act : List Thread) (k : Nat) : Option Thread := (act.filter fun t => c.warpNo t == k).getLast?

/-- MFS (R30). -/
def execMfs (g : Guards) (o : MfsOp) (s : State) : Out :=
  run (.mfs g o) g s fun c act =>
    match if o.sr = .passref then s.releasing c act else [] with
    | [] =>
      match o.d with
      | .vec r => .ok (s.eachLane c act fun t => t.putRegs r.val (pairRegs o.w) (mfsValue s c o t))
      | .sc r => .ok (s.eachWarp c act fun k w =>
          match leadOf c act k with
          | some t => w.putRegs r.val (pairRegs o.w) (mfsValue s c o t)
          | none => w)
    | ts => .stall ts

/-- MTS to a special register of a thread (R29: the defined bits). -/
def Thread.putSpecial (t : Thread) (r : Special) (v : Word) : Thread :=
  match r with
  | .oobst => { t with oobst := bitAt v 0 }
  | .satst => { t with satst := bitAt v 0 }
  | .fpst => { t with fpst := v.setWidth 5 }
  | _ => t

/-- MTS (R30): passref takes the value of the highest-numbered active lane, and the refusals of the clock are added to it
(R29). DESIGN CHOICE (log entry 57): where an issue group holds lanes of several warps, whose writes take effect in one clock,
the value that stays is that of the highest lane's warp. -/
def execMts (g : Guards) (o : MtsOp) (s : State) : Out :=
  run (.mts g o) g s fun c act =>
    let v := fun (t : Thread) => (c.laneView t).vs o.src
    match o.sr with
    | .passref =>
      match lastOf act with
      | some t => .ok (s.modTeam c.tk.id c.tm.team fun tm => { tm with passref := v t + tm.refusedIn s.clk })
      | none => .ok s
    | r => .ok (s.eachLane c act fun t => t.putSpecial r (v t))

/-! ## CTXRD and CTXWR (R149, R150) -/

/-- The interrupted repeat state and wait of a thread: the routine's record of them, or the thread's own. -/
def Thread.ctxRep (t : Thread) : Rep :=
  match t.routine with
  | some r => r.rep
  | none => t.rep
def Thread.ctxWait (t : Thread) : Wait :=
  match t.routine with
  | some r => r.wait
  | none => t.wait

/-- The entry of a warp's mark stack as words. DESIGN CHOICE (log entry 57): an entry at or above the depth, of which the spec
says nothing, reads 0. -/
def markWord (_ : Ctx) (w : Warp) (e : Nat) (f : MarkEntry → Nat) : Nat :=
  match w.marks[e]? with
  | some m => f m
  | none => 0

/-- The word that CTXRD reads for a thread (R149). -/
def ctxWord (s : State) (c : Ctx) (t : Thread) (i : CtxItem) : Nat :=
  let w := c.warp t
  let inst := fun (sc : Nat) => s.barInst c.tk (instOf c.tk c.tm.team t.tid sc)
  match i with
  | .msdepth => w.marks.length
  | .msaddr e => markWord c w e.val fun m => codeOff c.tk m.rejoin.toNat
  | .msmask e => markWord c w e.val fun m => bitsNat m.mask 0 32
  | .msmaskh e => markWord c w e.val fun m => bitsNat m.mask 32 32
  | .repcnt => t.ctxRep.remaining.toNat + if t.ctxRep.remaining = 0 then 0 else 65536 * t.ctxRep.iter.toNat
  | .repcfg => t.ctxRep.stride.toNat + 256 * t.ctxRep.mask.toNat
  | .wait => t.ctxWait.word
  | .nbrcnt => t.nbrcnt.toNat
  | .nbroff => bitsNat t.offer 0 32
  | .nbroffh => bitsNat t.offer 32 32
  | .barst sc => (t.bar sc.val).word.toNat
  | .barcnt sc => (inst sc.val).count.toNat
  | .bargen sc => (inst sc.val).gen.toNat
  | .tagcnt n => c.tm.tagCount n.val
  | .innpos => t.innpos.toNat

/-- CTXRD (R150). -/
def execCtxrd (g : Guards) (o : CtxOp) (s : State) : Out :=
  run (.ctxrd g o) g s fun c act =>
    match o.r with
    | .vec r => .ok (s.eachLane c act fun t => t.putRegs r.val 1 (ctxWord s c t o.item))
    | .sc r => .ok (s.eachWarp c act fun k w =>
        match leadOf c act k with
        | some t => w.putRegs r.val 1 (ctxWord s c t o.item)
        | none => w)

/-- Stage a thread-scope item (R150). -/
def Staged.put (st : Staged) (i : CtxItem) (v : Word) : Staged :=
  match i with
  | .repcnt => { st with repcnt := some v }
  | .repcfg => { st with repcfg := some v }
  | .wait => { st with wait := some v }
  | .nbrcnt => { st with nbrcnt := some v }
  | .nbroff => { st with nbroff := some v }
  | .nbroffh => { st with nbroffh := some v }
  | .barst sc => { st with bars := (sc.val, v) :: st.bars.filter fun x => x.1 != sc.val }
  | .innpos => { st with innpos := some v }
  | .msdepth | .msaddr _ | .msmask _ | .msmaskh _ | .barcnt _ | .bargen _ | .tagcnt _ => st

/-- A new depth of a mark stack: entries with offset 0 and an empty mask are pushed, or entries leave from the top. -/
def setDepth (tk : Task) (n : Nat) (st : List MarkEntry) : List MarkEntry :=
  st.take n ++ List.replicate (n - st.length) { rejoin := BitVec.ofNat 64 tk.entry, mask := 0, written := true }

/-- Write a warp item (R150); an entry at or above the depth is dropped. -/
def Warp.putItem (w : Warp) (tk : Task) (i : CtxItem) (v : Word) : Warp :=
  let lanes := BitVec.ofNat 64 (2 ^ tk.width - 1)
  let upd := fun (e : Nat) (f : MarkEntry → MarkEntry) =>
    { w with marks := w.marks.modify e fun m => { f m with written := true } }
  match i with
  | .msdepth => { w with marks := setDepth tk (bitsNat v 0 4) w.marks }
  | .msaddr e => upd e.val fun m => { m with rejoin := BitVec.ofNat 64 (tk.entry + v.toNat) }
  | .msmask e => upd e.val fun m => { m with mask := (DWord.ofWords v (DWord.hi m.mask)) &&& lanes }
  | .msmaskh e => upd e.val fun m => { m with mask := (DWord.ofWords (DWord.lo m.mask) v) &&& lanes }
  | .repcnt | .repcfg | .wait | .nbrcnt | .nbroff | .nbroffh | .barst _ | .innpos | .barcnt _ | .bargen _ | .tagcnt _ => w

/-- Write a team or instance item, with the value of one lane. -/
def State.putShared (s : State) (c : Ctx) (t : Thread) (i : CtxItem) (v : Word) : State :=
  let inst := fun (sc : Nat) => instOf c.tk c.tm.team t.tid sc
  match i with
  | .barcnt sc => s.setBarInst c.tk (inst sc.val) { s.barInst c.tk (inst sc.val) with count := v }
  | .bargen sc => s.setBarInst c.tk (inst sc.val) { s.barInst c.tk (inst sc.val) with gen := v.setWidth 31 }
  | .tagcnt n => s.modTeam c.tk.id c.tm.team fun tm => tm.setTag n.val (bitsNat v 0 16)
  | .msdepth | .msaddr _ | .msmask _ | .msmaskh _ | .repcnt | .repcfg | .wait | .nbrcnt | .nbroff | .nbroffh | .barst _ |
    .innpos => s

/-- CTXWR (R150): only in a trap routine; thread-scope items are staged, the others take effect now. DESIGN CHOICE (log entry
57): where an issue group holds lanes of several warps, a team or instance item takes the value of the highest lane's
warp. DESIGN CHOICE (log entry 67): outside a routine it raises ILLEGAL INSTRUCTION with no active lane too; the record
names every thread of the group for that and for a reserved WAIT condition, and every active lane for a depth above 8. -/
def execCtxwr (g : Guards) (o : CtxOp) (s : State) : Out :=
  run (.ctxwr g o) g s fun c act =>
    let v := fun (t : Thread) => (c.laneView t).vs o.r
    if !c.g.inRoutine then c.illegal 7
    else if o.item.perThread then
      if o.item == .wait && act.any fun t => decide (6 < bitsNat (v t) 0 4) then c.illegal 7
      else .ok (s.eachLane c act fun t =>
        { t with routine := t.routine.map fun r => { r with staged := r.staged.put o.item (v t) } })
    else
      let bad := (c.warps act).filterMap fun k => (lastOfWarp c act k).filter fun t =>
        o.item == .msdepth && decide (8 < bitsNat (v t) 0 4)
      if !bad.isEmpty then .fault (FaultInfo.plain causeJoin 0 (act.map (·.tid)))
      else
        let s1 := s.eachWarp c act fun k w =>
          match lastOfWarp c act k with
          | some t => w.putItem c.tk o.item (v t)
          | none => w
        match lastOf act with
        | some t => .ok (s1.putShared c t o.item (v t))
        | none => .ok s1

/-! ## LNCH and MGMT (R146 to R148) -/

/-- LNCH's tail advance of one warp: the status, and the state with the tail advanced. -/
def State.launchTail (s : State) (c : Ctx) (chain n : Nat) : Nat × State :=
  let d := s.chain chain
  if chain < 256 ∧ chainValid d = true ∧ chainCtx d = c.tk.ctx then
    match tailAdvance d n with
    | some d' => (0, s.setChain chain d')
    | none => (1, s)
  else (1, s)

/-- LNCH, once for each warp with an active thread, after its release (R146). -/
def execLnch (g : Guards) (o : LnchOp) (s : State) : Out :=
  run (.lnch g o) g s fun c act =>
    c.outsideRoutine <|
      match releaseWaits s c act (if o.sys then .sy else .dv) with
      | [] =>
        .ok ((c.warps act).foldl (fun s k =>
          let (st, s) := s.launchTail c ((c.tm.warp k).sreg o.a.val).toNat o.n.val
          s.modTeam c.tk.id c.tm.team fun tm => tm.modWarp k fun w => w.setSreg o.d.val (BitVec.ofNat 32 st)) (s.released c act))
      | ts => .stall ts

/-- MGMT, once for each warp with an active thread: after a release at .dv the request is sent, and its threads wait for
the reply (R147). -/
def execMgmt (g : Guards) (o : MgmtOp) (s : State) : Out :=
  run (.mgmt g o) g s fun c act =>
    match releaseWaits s c act .dv with
    | [] =>
      let reqs := (c.warps act).map fun k =>
        { owners := (act.filter fun t => c.warpNo t == k).map c.key, dst := o.d.val, code := o.code,
          arg := (c.tm.warp k).spair o.a.val : MgmtReq }
      .ok { (s.released c act).eachLane c act fun t => { t with wait := .mgmt } with mgmt := s.mgmt ++ reqs }
    | ts => .stall ts

end Sys2Proof.Machine
end

