-- ==== Sys2Proof/Machine/Launch.lean ====
section
/-!
DEFINITION. From launch chain to team (spec/14 R286 to R302, spec/10 R235, R236): the doorbell, the dequeue and the
validation of a record, bind records and their commands, remap rows, and the start of a team.
-/
namespace Sys2Proof.Machine

open Sys2Proof

/-! ## Chains -/

/-- Is the device in READY (R418)? -/
def State.ready (s : State) : Bool := s.dstate == .ready

/-- A write to DBELL (R411, R287): COUNT is added to TAIL; an advance that is not applied sets ERR. Before READY it is
dropped, and RESULT reads 2 (R418). -/
def State.ringDoorbell (s : State) (v : BitVec 64) : State :=
  let chain := bitsNat v 0 8
  let n := bitsNat v 16 16
  let d := s.chain chain
  if !s.ready then s.setMstat 1 7 2
  else if bitsNat v 32 32 != 0 || bitsNat v 8 8 != 0 || n == 0 || !chainValid d then s
  else match tailAdvance d n with
    | some d' => { s.setChain chain d' with
        seedWrite := s.seedWrite.map fun (x : SeedWrite) =>
          { x with writes := x.writes.dropLast ++ (x.writes.getLast?.toList.map fun (v : SeedValue) =>
              { v with rung := (chain, chainTail d, chainTail d') :: v.rung }) } }
    | none => s.setChain chain (chainSetErr d)

/-- The event DOORBELL. -/
def execDoorbell (v : BitVec 64) (s : State) : Out := .next (s.ringDoorbell v).tick

/-- Are the reserved bits of a descriptor 0, and its fields in range (R286)? -/
def chainOk (d : BitVec 512) : Bool :=
  bitsNat d 384 128 == 0 && bitsNat d 281 7 == 0 && bitsNat d 217 7 == 0 && bitsNat d 0 135 == 0 &&
    chainCw d % 8 == 0 &&
    (if chainKind d then chainAddr d % 128 == 0 else chainAddr d % 512 == 0 && chainRlog d == 0)

/-- A descriptor is written only while VALID = 0 (R286), or while the chain is stopped, whose descriptor is then
rewritten (R286 ERR). The result is that of R412: 0 done, 2 invalid for the state, 3 field out of range. -/
def State.writeChain (s : State) (chain : Nat) (d : BitVec 512) : State × Nat :=
  if 256 ≤ chain ∨ chainOk d = false then (s, 3)
  else if chainValid (s.chain chain) && !chainErr (s.chain chain) then (s, 2)
  else (s.setChain chain d, 0)

/-- The event CHAIN_DESCRIPTOR_WRITE: the management core writes a descriptor, while scheduling is its duty. -/
def execChainDescriptorWrite (chain : Nat) (d : BitVec 512) (s : State) : Out :=
  if s.ready && !s.dutySched then .next (s.writeChain chain d).1.tick else .next s

/-! ## Reading records (R290) -/

/-- The places of the lines of `n` bytes at `va` in a context; `none` where a walk fails or leads nowhere, or an uncorrectable
error is found (R290). -/
def State.unitLines (s : State) (ctx va n : Nat) : Option (List Place) :=
  if va + n ≤ 2 ^ 57 then
    (lineVas va n).mapM fun v => match s.walkXlat ctx v with
      | .ok x =>
        if (placeHole x.place.line 128).isSome || (x.place.space == .dev && s.badLines.contains (lineBase x.place.addr)) then none
        else some x.place
      | .bad => none
      | .hole _ => none
  else none

/-- Read `n` bytes at `va` by a unit of the device, at home. -/
def State.unitRead (s : State) (ctx va n : Nat) : Option (List Byte) :=
  (s.unitLines ctx va n).map fun ps =>
    ((ps.zip (lineVas va n)).flatMap fun (p, v) => s.readBytes p (min (va + n) (lineBase v + 128) - v))

/-- The first line of a unit's read whose cell is in an accumulate state: it is gathered first (R220). -/
def State.unitCells (s : State) (ctx va n : Nat) : List Place :=
  ((s.unitLines ctx va n).getD []).filter fun p => p.space == .dev && (s.cellAt (lineBase p.addr)).isSome

/-! ## Validation (R291) -/

/-- Test 1: the geometry (R15, R83). -/
def geometryOk (t : Task) : Bool :=
  let (w, q, v, sr, l, x) := (t.width, t.warps, t.vregs, t.sregs, t.accs, t.tiles)
  (w == 16 || w == 32 || w == 64) && decide (1 ≤ q) && decide ((q * w + 63) / 64 * v ≤ 1024) && decide (q * sr ≤ 1024) &&
    decide (q * w * (l + 16 * x) ≤ 2048) && decide (q * w ≤ 1024) &&
    decide (16 ≤ v) && decide (v ≤ 256) && v % 8 == 0 && decide (8 ≤ sr) && decide (sr ≤ 256) && sr % 8 == 0 &&
    decide (l ≤ 16) && decide (x ≤ 8) && decide (t.scratchUnits ≤ 14)

/-- A record-table entry passes R18 and R20. -/
def tableEntryOk (r : BitVec 256) : Bool := !recValid r || (recOk r && !(recRdonly r && (recW r || recA r || recP r)))

/-- The record table, when it can be read. -/
def State.readTable (s : State) (t : Task) : Option (Sparse (BitVec 256)) :=
  (s.unitRead t.ctx t.recTab 2048).map fun bs =>
    (List.range 64).foldl (fun m k => Sparse.set 0 m k (BitVec.ofNat 256 (leNat ((bs.drop (32 * k)).take 32)))) []

/-- Test 7: the other fields and the reserved bits. -/
def recordFieldsOk (t : Task) : Bool :=
  let r := t.rec0
  decide (1 ≤ t.gridSize) && decide (t.gridSize ≤ 65536) && decide (16 ≤ t.wdlog) && decide (t.wdlog ≤ 32) &&
    decide (t.warps ≤ 64) && t.entry % 4 == 0 && t.recTab % 32 == 0 && bitsNat r 0 9 == 0 && bitsNat r 57 7 == 0 &&
    bitsNat r 121 7 == 0 && bitsNat r 185 7 == 0 && bitsNat r 209 6 == 0 && bitsNat r 260 28 == 0 &&
    bitsNat r 314 6 == 0 && bitsNat r 384 640 == 0

/-- The first test of R291 that a dequeued record fails; 0 when it passes all. -/
def firstFailed (t : Task) (table : Option (Sparse (BitVec 256))) : Nat :=
  if !geometryOk t then 1
  else if !(table.any fun m => m.all fun x => tableEntryOk x.2) then 2
  else if (List.range 8).any fun n => bitsNat (t.fmt n) 24 8 != 0 then 3
  else if (List.range 8).any fun n => bitsNat (t.win n) 172 84 != 0 || bitsNat (t.win n) 124 4 != 0 then 4
  else if !(if t.ordered then decide (1024 ≤ t.inningLen) && decide (t.inningLen ≤ 65536) else t.inningLen == 0) then 5
  else if t.linked && decide (64 < t.gridSize) then 6
  else if !recordFieldsOk t then 7
  else 0

/-! ## Pages that an ordered launch holds (R247) -/

/-- The 64 KiB pages that the valid records of a task reach, as ranges of page numbers (R20). -/
def Task.recordRanges (t : Task) : List (Nat × Nat × BitVec 256) :=
  (t.table.filter fun x => recValid x.2 && recExtent x.2 != 0).map fun x => (recBase x.2 / 65536, recLast x.2 / 65536, x.2)

/-- A physical page of some size, with its class. -/
structure Span where
  space : Space
  base : Nat
  size : Nat
  cls : Cls
  deriving DecidableEq, Repr

/-- Does a place lie in the page; do two pages meet? -/
def Span.has (x : Span) (p : Place) : Bool := p.space == x.space && decide (x.base ≤ p.addr) && decide (p.addr < x.base + x.size)
def Span.meets (x y : Span) : Bool := x.space == y.space && decide (x.base < y.base + y.size) && decide (y.base < x.base + x.size)

/-- The pages, whole, that the ranges of a task's records overlap (R247). -/
def State.reached (s : State) (t : Task) : List Span :=
  (t.recordRanges.flatMap fun (lo, hi, _) => (List.range (hi + 1 - lo)).filterMap fun j =>
    match s.walk t.ctx (65536 * (lo + j)) with
    | .leaf e base size => some { space := pteSpace e, base := base, size := 2 ^ size, cls := Cls.ofCode (pteClass e) }
    | .bad => none
    | .hole _ => none).dedup

/-- Do the records of `b` reach a page of class DO that the running ordered launch `a` holds? -/
def State.sharesOrd (s : State) (a b : Task) : Bool :=
  (s.reached a).any fun x => x.cls == .ord && (s.reached b).any x.meets

/-- Does a running ordered launch keep an ordered record from its dequeue (R247)? -/
def State.orderedBusy (s : State) (t : Task) : Bool :=
  t.ordered && s.tasks.any fun u => u.ordered && !u.isOver && s.sharesOrd u t

/-- Bytes that the inning buffers of an ordered launch take: 640 KiB for each logical team (R241). -/
def Task.inningBytes (t : Task) : Nat := if t.ordered then 655360 * t.gridSize else 0

/-- Can the inning buffers of a record be reserved now (R241)? A record that will be refused for its grid needs none. -/
def State.reservable (s : State) (t : Task) : Bool :=
  decide (t.inningBytes + ((s.tasks.filter fun u => !u.isOver).map Task.inningBytes).sum ≤ s.inningPool) || !t.ordered ||
    decide (65536 < t.gridSize)

/-! ## The dequeue (R290) -/

/-- The slot in BOUND that names a chain. -/
def State.boundSlot (s : State) (chain : Nat) : Option Nat :=
  (s.slots.find? fun x => x.2.state == .bound && bitsNat x.2.rec0 192 8 == chain).map (·.1)

/-- Did a doorbell that was rung after this write append record number `n` of the chain? Numbers are modulo 2^32 (R286). -/
def SeedValue.rang (x : SeedValue) (chain n : Nat) : Bool :=
  x.rung.any fun (k, before, after) => k == chain && decide ((n + 2 ^ 32 - before) % 2 ^ 32 < (after + 2 ^ 32 - before) % 2 ^ 32)

/-- The seed that record number `n` of a chain latches: that of the register, but the old one for writes in the same clock; of those,
a value that a host wrote before it rang the doorbell for this record is latched (R311). -/
def State.latchSeed (s : State) (chain n : Nat) : BitVec 64 :=
  match s.seedWrite with
  | some x =>
    if x.clk = s.clk then ((x.writes.find? fun v => v.rang chain n).map (·.val)).getD x.old else s.windowReg 0x10
  | none => s.windowReg 0x10

/-- A write to the seed register. -/
def State.writeSeed (s : State) (v : BitVec 64) : State :=
  let new : SeedValue := { val := v, rung := [] }
  { s.setWindow 0x10 v with
    seedWrite := some (match s.seedWrite with
      | some x => if x.clk = s.clk then { x with writes := x.writes ++ [new] } else { clk := s.clk, old := s.windowReg 0x10, writes := [new] }
      | none => { clk := s.clk, old := s.windowReg 0x10, writes := [new] }) }

/-- The task that a record at `a` would be. -/
def newTask (s : State) (chain slot ctx a : Nat) (bs : List Byte) : Task :=
  { id := s.nextTask, chain := chain, slot := slot, ctx := ctx, recAddr := BitVec.ofNat 57 a,
    rec0 := BitVec.ofNat 4096 (leNat bs), table := [], seed := s.latchSeed chain (chainDeq (s.chain chain)), phase := .live, bars := [], buf := [],
    innings := 0, ended := [], fault := 0, offers := [], started := false,
    code := s.mem, hostCode := s.hostMem }

/-- The chain stops: ERR is set and nothing is dequeued. -/
def State.stopChain (s : State) (chain : Nat) : State := s.setChain chain (chainSetErr (s.chain chain))

/-- Steps 2 to 5 of the dequeue with the record's bytes, and the refusal of R291: the task ends at once, and its slot is BOUND. -/
def State.takeRecord (s : State) (chain slot a : Nat) (bs : List Byte) : State :=
  let d := s.chain chain
  let t := newTask s chain slot (chainCtx d) a bs
  let table := s.readTable t
  let t := { t with table := table.getD [] }
  if s.orderedBusy t || !s.reservable t then s
  else
    let s := s.setChain chain (setField (setField d 160 57 a) 320 32 (chainDeq d + 1))
    let b := Sparse.get Slot.zero s.slots slot
    match firstFailed t table with
    | 0 => { s with tasks := s.tasks ++ [t], nextTask := s.nextTask + 1,
                    slots := Sparse.set Slot.zero s.slots slot { b with state := .staged, order := t.id } }
    | n => ({ s with tasks := s.tasks ++ [{ t with phase := .ending 1 (BitVec.ofNat 32 n) 0, isOver := true }],
                     nextTask := s.nextTask + 1 } : State).settle

/-- The event DEQUEUE: the launch unit takes the next record of a KIND 0 chain, when R290 lets it. A read of a migrating page waits
(R373). -/
def execDequeue (chain : Nat) (s : State) : Out :=
  let d := s.chain chain
  if !s.ready || !chainValid d || chainErr d || chainKind d || chainPending d == 0 ||
      s.tasks.any fun t => t.chain == chain then .next s
  else match s.boundSlot chain with
    | none => .next s
    | some slot =>
      let ctx := chainCtx d
      if s.unitHeld ctx (chainAddr d) 8 then .next s
      else match s.unitRead ctx (chainAddr d) 8 with
      | none => .next (s.stopChain chain).tick
      | some nb =>
        let a := leNat nb % 2 ^ 57
        let cells := s.unitCells ctx (chainAddr d) 8 ++ s.unitCells ctx a 512
        if s.unitHeld ctx a 512 then .next s
        else if !cells.isEmpty then .next (s.gatherAll cells).tick
        else if a = 0 ∨ a % 512 ≠ 0 then .next (s.stopChain chain).tick
        else match s.unitRead ctx a 512 with
          | none => .next (s.stopChain chain).tick
          | some bs =>
            let tab := (newTask s chain slot ctx a bs).recTab
            let table := s.unitCells ctx tab 2048
            if s.unitHeld ctx tab 2048 then .next s
            else if table.isEmpty then .next (s.takeRecord chain slot a bs).tick else .next (s.gatherAll table).tick

/-! ## Bind records (R293, R294) -/

def bindCores (r : BitVec 512) : Nat := bitsNat r 256 256
def bindLease (r : BitVec 512) : Nat := bitsNat r 224 32
def bindQuant (r : BitVec 512) : Nat := bitsNat r 208 16
def bindTsp (r : BitVec 512) : Nat := bitsNat r 206 2
def bindLend (r : BitVec 512) : Bool := bitAt r 205
def bindPrio (r : BitVec 512) : Nat := bitsNat r 200 3
def bindChain (r : BitVec 512) : Nat := bitsNat r 192 8
def bindCmd (r : BitVec 512) : Nat := bitsNat r 4 4

def State.slot (s : State) (k : Nat) : Slot := Sparse.get Slot.zero s.slots k
def State.setSlot (s : State) (k : Nat) (x : Slot) : State := { s with slots := Sparse.set Slot.zero s.slots k x }

/-- Is every field of a bind record valid? -/
def State.bindOk (s : State) (r : BitVec 512) : Bool :=
  bitsNat r 203 2 == 0 && bitsNat r 8 184 == 0 && decide (bindTsp r < 2) && (bindTsp r == 0 || bindQuant r != 0) &&
    decide (bindLease r ≤ 65535) && !chainKind (s.chain (bindChain r))

/-- The task of a slot, until its last team has ended. -/
def State.slotTask (s : State) (k : Nat) : Option Task := s.tasks.find? fun t => t.slot == k && !t.isOver

/-- BIND. The results are those of R412. -/
def State.bind (s : State) (k : Nat) (r : BitVec 512) : State × Nat :=
  if 64 ≤ k then (s, 3)
  else if (s.slot k).state ≠ .free then (s, 2)
  else if !s.bindOk r then (s, 3)
  else if s.slots.any fun x => x.2.state != .free && bindChain x.2.rec0 == bindChain r then (s, 2)
  else (s.setSlot k { rec0 := setField r 0 8 0, state := .bound, held := false, order := 0 }, 0)

/-- REVOKE: placed teams stop at an instruction boundary, and the task will end with SCODE 3, one that a fault was ending too. -/
def State.revoke (s : State) (k : Nat) : State × Nat :=
  match (s.slot k).state with
  | .free | .drain => (s, 2)
  | .bound => (s.setSlot k Slot.zero, 0)
  | .staged | .run | .susp =>
    let s := s.setSlot k { s.slot k with state := .drain }
    ({ s with tasks := mapIf (fun t => t.slot == k && !t.isOver) (fun t => { t with phase := .ending 3 0 0 }) s.tasks }, 0)

/-- Does the kernel of a task use the program-assisted form (R379)? -/
def State.assisted (s : State) (t : Task) : Bool := s.hasRoutine t

/-- The dispatcher begins to take a team off its core. -/
def State.beginSave (s : State) (t : Task) (team : Nat) : State :=
  s.modTeam t.id team fun tm => match tm.phase with
    | .run => { tm with phase := .saving s.clk (s.assisted t) }
    | .saving _ _ => tm

/-- SUSPEND: every placed team is pre-empted. -/
def State.suspend (s : State) (k : Nat) : State × Nat :=
  match (s.slot k).state, s.slotTask k with
  | .run, some t =>
    let s1 := s.setSlot k { s.slot k with state := .susp, held := true }
    ((s.teams.filter fun tm => tm.task == t.id).foldl (fun s tm => s.beginSave t tm.team) s1, 0)
  | _, _ => (s, 2)

/-- RESUME: placement is permitted again. -/
def State.resume (s : State) (k : Nat) : State × Nat :=
  match (s.slot k).state with
  | .susp => (s.setSlot k { s.slot k with held := false }, 0)
  | .free | .bound | .staged | .run | .drain => (s, 2)

/-- A write to the slot table with a command in CMD (R293). -/
def State.bindCommand (s : State) (k : Nat) (r : BitVec 512) : State × Nat :=
  if 64 ≤ k then (s, 3)
  else match bindCmd r with
  | 0 => (s, 0)
  | 1 => s.bind k r
  | 2 => s.revoke k
  | 3 => s.suspend k
  | 4 => s.resume k
  | _ => (s, 3)

/-- A command of the management core: only while scheduling is its duty (R312, R313). -/
def mgmtSched (s : State) (f : State → State × Nat) : Out :=
  if s.ready && !s.dutySched then .next (f s).1.settle.tick else .next s

/-- The event BIND. -/
def execBind (slot : Nat) (r : BitVec 512) (s : State) : Out := mgmtSched s fun s => s.bind slot r
/-- The event REVOKE. -/
def execRevoke (slot : Nat) (s : State) : Out := mgmtSched s fun s => s.revoke slot
/-- The event SUSPEND. -/
def execSuspend (slot : Nat) (s : State) : Out := mgmtSched s fun s => s.suspend slot
/-- The event RESUME. -/
def execResume (slot : Nat) (s : State) : Out := mgmtSched s fun s => s.resume slot

/-- The event DRAIN_COMPLETE: every team of a record in DRAIN has stopped and its accesses are complete (R294). -/
def execDrainComplete (slot : Nat) (s : State) : Out :=
  match s.slotTask slot with
  | none => .next s
  | some t =>
    if (s.slot slot).state = .drain ∧ (s.outcome t).isSome = true then .next (s.releaseSlot t).settle.tick else .next s

/-! ## Remap rows (R235, R236, R296) -/

/-- Is a core one of a linked club (R296), as the core of the logical team? -/
def linkedCore (core team : Nat) : Bool := core % 16 < 4 && core % 4 == team % 4

/-- Does a row meet R235, R236 and R296 for a task? -/
def rowOk (t : Task) (cores core : Nat) (r : BitVec 64) : Bool :=
  bitsNat r 54 7 == 0 && rowCstate r == 0 && (rowStride r != 0 || rowCount r == 1) && cores.testBit core &&
    (rowTeams r).all (fun x => decide (x < t.gridSize)) &&
    (!t.linked || (rowCount r == 1 && linkedCore core (rowFirst r)))

/-- Do the logical teams of a club of a linked launch lie on one linked club? -/
def State.linkedOk (s : State) (t : Task) (cores : List Nat) : Bool :=
  !t.linked || cores.all fun a => cores.all fun b =>
    rowFirst (s.row a) / 4 != rowFirst (s.row b) / 4 || a / 4 == b / 4

/-- Do the rows that name the record's slot meet R236 and R296? -/
def State.rowsMeet (s : State) (t : Task) : Bool :=
  let cores := s.rowsOf t.slot
  let hosted := cores.flatMap fun k => rowTeams (s.row k)
  (cores.all fun k => rowOk t (bindCores (s.slot t.slot).rec0) k (s.row k)) && s.linkedOk t cores &&
    hosted.length == t.gridSize && (List.range t.gridSize).all fun x => hosted.contains x

/-- A row is written: a team moves at its next switch point (R236). A core of a unit that is lost comes back only by the unit's rejoin
(R408): CSTATE 0 is refused there. -/
def State.writeRow (s : State) (die core : Nat) (row : BitVec 64) : State × Nat :=
  if 4 ≤ die ∨ 64 ≤ core then (s, 3)
  else if s.downUnits.contains (leagueOf (64 * die + core)) && rowCstate row == 0 then (s, 2)
  else ({ s with remap := Sparse.set 0 s.remap (64 * die + core) row }, 0)

/-- The event REMAP_ROW_WRITE. -/
def execRemapRowWrite (die core : Nat) (row : BitVec 64) (s : State) : Out := mgmtSched s fun s => s.writeRow die core row

/-! ## The lease of a record (R371) -/

/-- The ranges of a lease: first page, pages, WR; at most 4,096. -/
def State.leaseRanges (s : State) : Nat → Nat → List (Nat × Nat × Bool)
  | 0, _ => []
  | fuel + 1, a =>
    match physHole a 16 with
    | some _ => []
    | none =>
      let e := BitVec.ofNat 128 (Memory.nat s.mem a 16)
      let x := (bitsNat e 0 41, bitsNat e 56 41, bitAt e 97)
      if bitAt e 98 then [x] else x :: State.leaseRanges s fuel (a + 16)

/-- Do the ranges cover pages `lo` to `hi`? Each round goes to the end of a range that holds `lo`. -/
def coverPages (rs : List (Nat × Nat × Bool)) : Nat → Nat → Nat → Bool
  | 0, lo, hi => decide (hi < lo)
  | fuel + 1, lo, hi =>
    if hi < lo then true
    else match rs.find? fun x => decide (x.1 ≤ lo) && decide (lo < x.1 + x.2.1) with
      | some x => coverPages rs fuel (x.1 + x.2.1) hi
      | none => false

/-- The lease has GRANTED = 1 and covers the records, with WR where they write, and the record table. The scale and
metadata bytes that a format slot can name lie within a record of the table (R197 step 10), so they are covered with it. -/
def State.leaseReady (s : State) (t : Task) : Bool :=
  let a := s.lsdir + 8 * s.leaseOf t.slot
  match physHole a 8 with
  | some _ => false
  | none =>
    let d := BitVec.ofNat 64 (Memory.nat s.mem a 8)
    let rs := s.leaseRanges 4096 (16 * bitsNat d 4 53)
    let wr := rs.filter (·.2.2)
    let cover := fun (rs : List (Nat × Nat × Bool)) (lo hi : Nat) => coverPages rs (rs.length + 1) lo hi
    bitAt d 63 && cover rs (pageOf t.recTab) (pageOf (t.recTab + 2047)) &&
      t.recordRanges.all fun (lo, hi, r) => cover (if recW r || recA r || recP r then wr else rs) lo hi

/-! ## Starting a team (R295 to R297, R300, R302) -/

/-- Is the core clean (R295)? -/
def State.cleanCore (s : State) (core : Nat) : Bool :=
  !(s.teams.any fun tm => tm.core == core) && Sparse.get 0 s.dirty core == 0 && !s.l1.any fun l => l.core == core

/-- Has a team neither been placed nor ended nor saved? -/
def State.unplaced (s : State) (t : Task) (team : Nat) : Bool :=
  (s.team? t.id team).isNone && !t.ended.contains team && !s.saved.any fun x => x.task == t.id && x.team == team

/-- The state of a thread at the start of its team (R32). -/
def Thread.fresh (t : Task) (pc : Nat) (tid : Nat) : Thread :=
  { tid := tid, regs := [], preds := 0, las := [], pc := BitVec.ofNat 64 pc, vallot := t.vregs, wait := .none,
    innEnded := false, exited := false, saved := false, oobst := false, satst := false, fpst := 0, fault := 0,
    rep := Rep.none, inning := 0, innpos := 0, part := 0, cut := false, bars := [], nbrcnt := 0, offer := 0,
    routine := none, atYield := false, dog := 0 }

/-- The records b48 to b63 as they start (R21). -/
def startRecs (t : Task) : Sparse (BitVec 256) := (t.table.filter fun x => 48 ≤ x.1).map fun x => (x.1 - 48, x.2)

/-- A team at its start (R32, R297). -/
def State.freshTeam (s : State) (t : Task) (team core : Nat) (borrower : Bool) : Team :=
  let pc := s.skipPads t t.entry
  { task := t.id, team := team, core := core, phase := .run, borrower := borrower,
    threads := (List.range t.threads).map (Thread.fresh t pc),
    warps := List.replicate (4 * t.warps) { Warp.empty with recs := startRecs t },
    scratch := [], tiles := [], tags := [], passref := 0, sqBar := [], tmBar := BarInst.zero, placedAt := s.clk,
    switchSince := none }

/-- Word rows of a squad's vector file that a partition takes (R15). -/
def vectorRows (t : Task) (v : Nat) : Nat := (t.warps * t.width + 63) / 64 * v

/-- The highest current allotment of a host's threads in a squad of a core (R302). -/
def State.topAllot (s : State) (core squad : Nat) : Nat :=
  ((s.teams.filter fun tm => tm.core == core && !tm.borrower).flatMap fun tm =>
    (tm.threads.filter fun t => squadOf (((s.task? tm.task).map (·.width)).getD 16) t.tid == squad).map (·.vallot)).foldl max 0

/-- Does every squad of the core lend enough rows to a team of task `t` (R302)? -/
def State.lendsTo (s : State) (core : Nat) (t : Task) : Bool :=
  t.scratchUnits == 0 && t.accs == 0 && t.tiles == 0 &&
    match s.teams.filter fun tm => tm.core == core with
    | [h] => !h.borrower && h.phase == .run && match s.task? h.task with
      | none => false
      | some ht => (List.range 4).all fun q =>
        decide (vectorRows t t.vregs ≤ vectorRows ht (ht.vregs - s.topAllot core q)) && decide (ht.warps * ht.sregs + t.warps * t.sregs ≤ 1024) &&
          decide (ht.warps * ht.width + t.warps * t.width ≤ 1024)
    | _ => false

/-- May a record's teams be placed now: STAGED with rows and lease ready and its cores free of other records' teams, or with
rows to lend (R302); RUN; or SUSP without a pending SUSPEND? -/
def State.mayPlace (s : State) (t : Task) : Bool :=
  !t.stopped && s.ready &&
  match (s.slot t.slot).state with
  | .staged => s.rowsMeet t && s.leaseReady t &&
      (s.rowsOf t.slot).all fun k => (!s.teams.any fun tm => tm.core == k && tm.task != t.id) ||
        (bindLend (s.slot t.slot).rec0 && s.lendsTo k t)
  | .run => s.rowsMeet t
  | .susp => s.rowsMeet t && !(s.slot t.slot).held
  | .free | .bound | .drain => false

/-- The words of a saved team's area that its threads' waits stand in (R400). -/
def areaWord (area : Sparse Byte) (a : Nat) : Nat := Memory.nat area a 4

/-- Would a thread of team `team` wait on in the wait `w` in which it was saved (R237)? `r` is its record of the barrier's scope, `n` its
count of exchanges, `inst` the generations of the team's own instances. -/
def State.waitsOn (s : State) (t : Task) (team tid : Nat) (w : Wait) (r : BarRec) (n : BitVec 32) (inst : Nat → BitVec 31) : Bool :=
  match w with
  | .none | .vgrow _ | .yield _ | .held _ _ | .mgmt | .bkpt => false
  | .barrier sc =>
    r.rgen == if sc.val < 2 then inst sc.val else (s.barInst t { scope := sc.val, team := team, squad := 0 }).gen
  | .nbr => !((s.offerOf t (neighbour t team tid true) (n.toNat + 1)).isSome && (s.offerOf t (neighbour t team tid false) (n.toNat + 1)).isSome)
  | .join | .inning => true

/-- Is a saved team ready to run (R237): has it a thread that would not wait in the same wait as when it was saved, nor for the commit of
an inning that it has ended (R239)? A thread that stopped at BKPT runs on (R414). Of a program-assisted area the device reads no barrier
instance of the team itself. -/
def State.savedReady (s : State) (t : Task) (x : SavedTeam) : Bool :=
  let ended := fun (tid : Nat) => t.ordered && x.innEnded.contains tid && x.inning == t.innings
  if Memory.nat x.area 132 4 / 2 ^ 31 % 2 = 1 then
    x.waits.isEmpty || x.waits.any fun (tid, w, r, n) => !ended tid &&
      ((w == .inning && x.inning != t.innings) || !s.waitsOn t x.team tid w r n fun _ => r.rgen)
  else (List.range t.threads).any fun tid =>
    let a := 256 + tid * threadBlock t
    let w := BitVec.ofNat 32 (areaWord x.area (a + 24))
    !savedExited t x.area tid && !ended tid && !s.waitsOn t x.team tid (waitOfWord [] w)
      { pending := true, rgen := BitVec.ofNat 31 (areaWord x.area (a + 40 + 4 * (w.toNat / 16 % 8))) }
      (BitVec.ofNat 32 (areaWord x.area (a + 28)))
      (fun sc => BitVec.ofNat 31 (if sc = 0 then areaWord x.area (144 + 8 * squadOf t.width tid + 4) else areaWord x.area 140))

/-- The team that the dispatcher places next on a core from a record (R237): the one that has been off a core longest, a
team never placed before any other; of equals the lower number. -/
def State.nextTeam (s : State) (t : Task) (core : Nat) : Option Nat :=
  let here := (rowTeams (s.row core)).filter fun x => decide (x < t.gridSize)
  match sortBy (fun (a b : Nat) => decide (a ≤ b)) (here.filter (s.unplaced t)) with
  | x :: _ => some x
  | [] =>
    let off := sortBy (fun (a b : SavedTeam) => decide (a.offSince < b.offSince) || (a.offSince == b.offSince && decide (a.team ≤ b.team)))
      (s.saved.filter fun x => x.task == t.id && here.contains x.team && s.savedReady t x)
    off.head?.map (·.team)

/-- The record whose row stands at a core. -/
def State.rowTask (s : State) (core : Nat) : Option Task :=
  let r := s.row core
  if rowValid r && rowCstate r == 0 && !s.downUnits.contains (leagueOf core) then s.slotTask (rowBind r) else none

/-- The team that the dispatcher may place on a clean core now. -/
def State.placement (s : State) (core : Nat) : Option (Task × Nat) :=
  if core < 256 ∧ s.cleanCore core = true then
    match s.rowTask core with
    | some t => if s.mayPlace t then (s.nextTeam t core).map fun x => (t, x) else none
    | none => none
  else none

/-- May the core be taken for a record of priority `p` (R300)? -/
def State.takeable (s : State) (p core : Nat) (id : Nat) : Bool :=
  (s.teams.filter fun tm => tm.core == core && tm.task != id).all fun tm =>
    match s.task? tm.task with
    | some t => decide (bindPrio (s.slot t.slot).rec0 < p)
    | none => true

/-- Does the record whose row stands at a core need the core now (R300)? -/
def State.wantsCore (s : State) (t : Task) (core : Nat) : Bool :=
  !t.stopped && match (s.slot t.slot).state with
  | .staged => s.rowsMeet t && s.leaseReady t
  | .susp => !(s.slot t.slot).held && s.rowsMeet t && (s.nextTeam t core).isSome
  | .run => s.rowsMeet t && (s.nextTeam t core).isSome
  | .free | .bound | .drain => false

/-- Does a waiting record of higher priority than `t` need the core (R300)? -/
def State.neededAbove (s : State) (t : Task) (core : Nat) : Bool :=
  (s.rowTask core).any fun u => u.id != t.id && decide (bindPrio (s.slot t.slot).rec0 < bindPrio (s.slot u.slot).rec0) && s.wantsCore u core

/-- A borrower for a core: of the records with LEND = 1 whose CORES name the core, the one of highest priority, then the
one dequeued earlier (R300, R302). -/
def State.lentPlacement (s : State) (core : Nat) : Option (Task × Nat) :=
  let fits := s.tasks.filter fun t =>
    let b := (s.slot t.slot).rec0
    !t.isOver && bindLend b && (bindCores b).testBit core && core < 256 && s.lendsTo core t && s.mayPlace t && !s.neededAbove t core
  let best := sortBy (fun (a b : Task) =>
    decide (bindPrio (s.slot b.slot).rec0 < bindPrio (s.slot a.slot).rec0) ||
      (bindPrio (s.slot a.slot).rec0 == bindPrio (s.slot b.slot).rec0 && decide (a.id ≤ b.id))) fits
  best.head?.bind fun t => ((List.range t.gridSize).find? (s.unplaced t)).map fun x => (t, x)

/-- The record is in RUN once a team of it is placed. -/
def State.placed (s : State) (t : Task) : State :=
  (s.setSlot t.slot { s.slot t.slot with state := .run }).modTask t.id fun t => { t with started := true }

/-- The event TEAM_START: the dispatcher starts a team that has never been placed, on a clean core or in lent rows. Every L1 line
is invalid then (R32), and what precedes the launch of the task is seen (R336). -/
def execTeamStart (core team : Nat) (s : State) : Out :=
  let start := fun (t : Task) (borrower : Bool) =>
    let tops := if borrower then (List.range 4).map (s.topAllot core) else []
    let s := (s.l1Evict fun l => l.core == core).acquire core .dv
    let s := { s with teams := s.teams ++ [{ s.freshTeam t team core borrower with lentAbove := tops }] }
    Host.Outcome.next (s.placed t).tick
  match s.placement core with
  | some (t, x) => if x = team ∧ s.unplaced t team = true then start t false else .next s
  | none =>
    match s.lentPlacement core with
    | some (t, x) => if x = team then start t true else .next s
    | none => .next s

/-- The event CORE_CLEAN: the arrays of a core that its last team has left are zero (R295). -/
def execCoreClean (core : Nat) (s : State) : Out :=
  if Sparse.get 0 s.dirty core = 0 then .next s else .next { s with dirty := Sparse.set 0 s.dirty core 0 }.tick

end Sys2Proof.Machine
end

