-- ==== Sys2Proof/Machine/Matrix.lean ====
section
/-!
DEFINITION. The matrix engine (spec/07 R194 to R207): format slots (spec/01 R22 to R24), window records (R25, R26), the
unfold (R198), scales and sparsity metadata (spec/02 R39 to R42), MMA, MMAS, MSEL, and the tile moves and rounding.
-/
namespace Sys2Proof.Machine

open Sys2Proof

/-! ## Format slots (R22 to R24) -/

def fmtElemCode (f : BitVec 128) : Nat := bitsNat f 0 4
def fmtBlk (f : BitVec 128) : Nat := bitsNat f 4 2
def fmtScf (f : BitVec 128) : Nat := bitsNat f 6 2
def fmtSp (f : BitVec 128) : Nat := bitsNat f 8 2
def fmtSloc (f : BitVec 128) : Bool := bitAt f 10
def fmtMloc (f : BitVec 128) : Bool := bitAt f 11
def fmtSrec (f : BitVec 128) : Nat := bitsNat f 12 6
def fmtMrec (f : BitVec 128) : Nat := bitsNat f 18 6
def fmtSstr (f : BitVec 128) : Nat := bitsNat f 32 16
def fmtMstr (f : BitVec 128) : Nat := bitsNat f 48 16
def fmtSoff (f : BitVec 128) : Nat := bitsNat f 64 32
def fmtMoff (f : BitVec 128) : Nat := bitsNat f 96 32

/-- ELEM (R23). -/
def elemType : Nat → Option DType
  | 0 => some .f32 | 1 => some .b16 | 2 => some .h16 | 3 => some .e5m2 | 4 => some .e4m3 | 5 => some .e3m2
  | 6 => some .e2m3 | 7 => some .e2m1 | 8 => some .e2m1x | 9 => some .i16 | 10 => some .i8 | 11 => some .n8
  | 12 => some .i4 | 13 => some .n4 | _ => none

/-- The element type of a slot that `fmtOk` accepts. -/
def fmtType (f : BitVec 128) : DType := (elemType (fmtElemCode f)).getD .f32

/-- The combinations of R23. -/
def scaleAllowed (e blk scf : Nat) : Bool :=
  match scf, blk with
  | 0, 0 => e != 8
  | 1, 2 => [3, 4, 5, 6, 7, 8, 10, 12].contains e
  | 1, 1 => [7, 8, 12].contains e
  | 2, 1 => [5, 7, 8, 12].contains e
  | _, _ => false
def sparseAllowed (e sp : Nat) : Bool := sp == 0 || ((sp == 1 || sp == 2) && [1, 2, 3, 4, 7, 8, 9, 10, 11, 12, 13].contains e)

/-- Is the slot valid under R23 and R24? -/
def fmtOk (f : BitVec 128) : Bool :=
  (elemType (fmtElemCode f)).isSome && scaleAllowed (fmtElemCode f) (fmtBlk f) (fmtScf f) &&
    sparseAllowed (fmtElemCode f) (fmtSp f) && bitsNat f 24 8 == 0 &&
    (fmtScf f != 0 || (fmtSoff f == 0 && fmtSstr f == 0 && fmtSrec f == 0 && !fmtSloc f)) &&
    (fmtSp f != 0 || (fmtMoff f == 0 && fmtMstr f == 0 && fmtMrec f == 0 && !fmtMloc f))

/-- The logical K of an element type (R194). -/
def denseK (t : DType) : Nat :=
  match dtBits t with
  | 32 => 16 | 16 => 32 | 4 => 128 | _ => 64
def sparseK (t : DType) : Nat := if dtBits t = 4 then 192 else 96
/-- 6-bit elements belong to the 8-bit class. -/
def widthClass (t : DType) : Nat := if dtBits t = 6 then 8 else dtBits t

/-- Block size, bytes of a scale entry, stored elements of a group of twelve. -/
def blkSize (f : BitVec 128) : Nat := if fmtBlk f = 1 then 16 else 32
def entrySize (f : BitVec 128) : Nat := if fmtType f = .e2m1x then 2 else 1
def groupStored (f : BitVec 128) : Nat := if fmtSp f = 1 then 6 else 3
def fmtScale (f : BitVec 128) : ScaleFmt := if fmtScf f = 2 then .q8 else .p8

/-! ## Window records (R25, R26) -/

def winSbase (w : BitVec 256) : Nat := bitsNat w 0 20
def winIdent (w : BitVec 256) : Bool := bitAt w 20
def winOrd (w : BitVec 256) : Nat := bitsNat w 21 3
def winIstr (w : BitVec 256) : Nat := bitsNat w 152 20

/-- One spatial axis of a window: tensor extent, kernel extent, stride, dilation, padding before and after. -/
structure Axis where
  dim : Nat
  ker : Nat
  str : Nat
  dil : Nat
  lo : Nat
  hi : Nat

def winT (w : BitVec 256) : Axis :=
  { dim := bitsNat w 52 12, ker := bitsNat w 88 4, str := bitsNat w 100 4, dil := bitsNat w 112 4, lo := bitsNat w 128 4,
    hi := bitsNat w 132 4 }
def winH (w : BitVec 256) : Axis :=
  { dim := bitsNat w 64 12, ker := bitsNat w 92 4, str := bitsNat w 104 4, dil := bitsNat w 116 4, lo := bitsNat w 136 4,
    hi := bitsNat w 140 4 }
def winW (w : BitVec 256) : Axis :=
  { dim := bitsNat w 76 12, ker := bitsNat w 96 4, str := bitsNat w 108 4, dil := bitsNat w 120 4, lo := bitsNat w 144 4,
    hi := bitsNat w 148 4 }
def winN (w : BitVec 256) : Nat := bitsNat w 40 12
def winC (w : BitVec 256) : Nat := bitsNat w 24 16

/-- The output extent of an axis (R26). -/
def Axis.out (a : Axis) : Int := ((a.dim : Int) + a.lo + a.hi - a.dil * ((a.ker : Int) - 1) - 1) / a.str + 1

/-- Every field of an axis is in its range, and the output extent is positive. -/
def Axis.ok (a : Axis) : Bool := a.dim != 0 && a.ker != 0 && a.str != 0 && a.dil != 0 && decide (0 < a.out)

/-- Is the window record valid (R26)? -/
def winOk (w : BitVec 256) : Bool :=
  if winIdent w then bitsNat w 24 128 == 0 && winOrd w == 0
  else (winT w).ok && (winH w).ok && (winW w).ok && winN w != 0 && winC w != 0 && decide (winOrd w < 3) && winIstr w == 0

/-- The position of output `o` and kernel step `k` on an axis; `none` in the padding (R198). -/
def Axis.pos (a : Axis) (o k : Nat) : Option Nat :=
  let p : Int := (o * a.str : Nat) - a.lo + (k * a.dil : Nat)
  if 0 ≤ p ∧ p < a.dim then some p.toNat else none

/-- The bit of the scratchpad at which A(r, q) begins, for elements of `w` bits; `none` where the unfold supplies code 0
(R198). -/
def unfoldBit (x : BitVec 256) (w r q : Nat) : Option Nat :=
  if winIdent x then some (8 * (winSbase x + r * winIstr x) + w * q)
  else
    let (ot, oh, ow) := ((winT x).out.toNat, (winH x).out.toNat, (winW x).out.toNat)
    let (kt, kh, kw, cs) := ((winT x).ker, (winH x).ker, (winW x).ker, winC x)
    if winN x * ot * oh * ow ≤ r ∨ kt * kh * kw * cs ≤ q then none
    else
      let (pt, ph, pw) := match winOrd x with
        | 0 => (r / (ow * oh) % ot, r / ow % oh, r % ow)
        | 1 => (r / (oh * ow) % ot, r % oh, r / oh % ow)
        | _ => (r % ot, r / (ot * ow) % oh, r / ot % ow)
      let nb := r / (ot * oh * ow)
      match (winT x).pos pt (q / (cs * kw * kh)), (winH x).pos ph (q / (cs * kw) % kh), (winW x).pos pw (q / cs % kw) with
      | some t, some h, some v =>
        let e := (((nb * (winT x).dim + t) * (winH x).dim + h) * (winW x).dim + v) * cs + q % cs
        some (8 * winSbase x + w * e)
      | _, _, _ => none

/-! ## Where scales and metadata stand (R200) -/

/-- A run of bytes of scales or metadata: in scratchpad (`buf` none) or in a buffer record, from a byte offset. -/
structure Run where
  buf : Option Nat
  start : Nat
  len : Nat

/-- The scale entries of a row for logical positions `q` to `q + k - 1`. -/
def scaleRun (f : BitVec 128) (row q k : Nat) : List Run :=
  if fmtScf f = 0 then []
  else
    let j := q / blkSize f
    [{ buf := if fmtSloc f then none else some (fmtSrec f), start := fmtSoff f + row * fmtSstr f + j * entrySize f,
       len := ((q + k - 1) / blkSize f - j + 1) * entrySize f }]

/-- The metadata of a row for logical positions `q` to `q + k - 1`. -/
def metaRun (f : BitVec 128) (row q k : Nat) : List Run :=
  if fmtSp f = 0 then []
  else
    let lo := 4 * groupStored f * (q / 12)
    let hi := 4 * groupStored f * ((q + k) / 12)
    [{ buf := if fmtMloc f then none else some (fmtMrec f), start := fmtMoff f + row * fmtMstr f + lo / 8,
       len := (hi + 7) / 8 - lo / 8 }]

/-- The bytes that a lane reads: by record (none: the scratchpad) and offset. -/
abbrev ByteAt := Option Nat → Nat → Byte

/-- The scale and the extra byte of logical position `q` of a row. -/
def scaleAt (rd : ByteAt) (f : BitVec 128) (row q : Nat) : Scale × Nat :=
  if fmtScf f = 0 then (Scale.one, 0)
  else
    let b := if fmtSloc f then none else some (fmtSrec f)
    let o := fmtSoff f + row * fmtSstr f + q / blkSize f * entrySize f
    (decodeScale (fmtScale f) (rd b o).toNat, (rd b (o + 1)).toNat)

/-- The indices of group `g` of a row (R42). -/
def groupIdx (rd : ByteAt) (f : BitVec 128) (row g : Nat) : List Nat :=
  let b := if fmtMloc f then none else some (fmtMrec f)
  (List.range (groupStored f)).map fun t =>
    let bit := 4 * groupStored f * g + 4 * t
    (rd b (fmtMoff f + row * fmtMstr f + bit / 8)).toNat / 2 ^ (bit % 8) % 16

/-- Are the indices of a group legal (R42)? -/
def groupOk : List Nat → Bool
  | [] => true
  | [x] => decide (x < 12)
  | x :: y :: t => decide (x < y) && groupOk (y :: t)

/-- A code of `w` bits of the scratchpad. -/
def Team.scratchCode (tm : Team) (bit w : Nat) : Nat := leNat (tm.scratchBytes (bit / 8) 5) / 2 ^ (bit % 8) % 2 ^ w

/-! ## Tiles -/

/-- The slot of long accumulator `j` of team-local thread `tid` in the accumulator files (R17): slot t·L + j of its
squad's file, the files of the four squads of 2,048 slots standing one behind another. -/
def laSlot (tk : Task) (tid j : Nat) : Nat :=
  2048 * (tid / tk.width % 4) + (tid / tk.width / 4 * tk.width + tid % tk.width) * tk.accs + j

/-- The slot of row `row`, column `col` of a tile of a warp (R17): the tile's first slot, Q·W·L + (q·X + x)·W·16, then
16 slots a row. The tiles of a team are kept by these slots. -/
def tileKey (tk : Task) (warp tile row col : Nat) : Nat :=
  2048 * (warp % 4) + tk.warps * tk.width * tk.accs + (warp / 4 * tk.tiles + tile) * tk.width * 16 + row * 16 + col

/-- Where a slot of a tile stands in the tiles of a save area, which follow each other by warp and tile (R398). -/
def tileIndex (tk : Task) (slot : Nat) : Nat :=
  let r := slot % 2048 - tk.warps * tk.width * tk.accs
  let x := r / (16 * tk.width)
  ((4 * (x / tk.tiles) + slot / 2048) * tk.tiles + x % tk.tiles) * (16 * tk.width) + r % (16 * tk.width)

/-- The slot of the n-th image of the tiles of a save area. -/
def tileOfIndex (tk : Task) (n : Nat) : Nat :=
  let x := n / (16 * tk.width)
  tileKey tk (x / tk.tiles) (x % tk.tiles) (n / 16 % tk.width) (n % 16)

def Ctx.tileRow (c : Ctx) (t : Thread) (tile : Nat) : List Acc :=
  (List.range 16).map fun n => Sparse.get Acc.zero c.tm.tiles (tileKey c.tk (c.warpNo t) tile (wlaneOf c.tk.width t.tid) n)

/-- Write the row of a thread. -/
def State.putRow (s : State) (c : Ctx) (t : Thread) (tile : Nat) (row : List Acc) : State :=
  s.modTeam c.tk.id c.tm.team fun tm =>
    { tm with tiles := (row.zip (List.range 16)).foldl (fun m (a, n) =>
        Sparse.set Acc.zero m (tileKey c.tk (c.warpNo t) tile (wlaneOf c.tk.width t.tid) n) a) tm.tiles }

/-- The slots of a row in any carry-save form (R50). -/
def State.anyRow (s : State) (tid : Nat) (row : List Acc) : List Acc :=
  (row.zip (List.range 16)).map fun (a, n) => s.anyForm (16 * tid + n) a

/-! ## The checks of R197 -/

/-- A matrix instruction with its operands read: `fb` is none for MSEL. -/
structure MatIn where
  fa : BitVec 128
  fb : Option (BitVec 128)
  sparse : Bool
  col : Bool
  win : BitVec 256
  row0 : Nat
  col0 : Nat
  bo : Nat
  kb : Nat
  rb : Nat

/-- The logical K. -/
def MatIn.k (m : MatIn) : Nat :=
  match m.fb with
  | none => denseK (fmtType m.fa)
  | some fb => if m.sparse then sparseK (fmtType fb) else denseK (fmtType fb)

/-- The bytes of the B operand. -/
def MatIn.bBytes (m : MatIn) : Nat :=
  match m.fb with
  | none => m.k * 16 / 8
  | some fb => (if m.sparse then m.k * groupStored fb / 12 else m.k) * 16 * dtBits (fmtType fb) / 8

/-- Row `row0 + i` of a thread. -/
def MatIn.row (m : MatIn) (c : Ctx) (t : Thread) : Nat := m.row0 + wlaneOf c.tk.width t.tid

/-- The runs that a lane needs for its A row, and every lane for B. -/
def MatIn.runsA (m : MatIn) (c : Ctx) (t : Thread) : List Run :=
  match m.fb with
  | none => []
  | some _ => scaleRun m.fa (m.row c t) m.col0 m.k
def MatIn.runsB (m : MatIn) : List Run :=
  match m.fb with
  | none => []
  | some fb => (List.range 16).flatMap fun n => scaleRun fb (n + m.rb) m.kb m.k ++ metaRun fb (n + m.rb) m.kb m.k

/-- A fault of every active lane. -/
def allLanes (act : List Thread) (cause reason : Nat) : FaultInfo := FaultInfo.plain cause reason (act.map (·.tid))

/-- Steps 1 to 6. -/
def MatIn.fault16 (m : MatIn) (act : List Thread) : Option FaultInfo :=
  let mx := fun r => some (allLanes act causeMatrix r)
  if !fmtOk m.fa || m.fb.any fun fb => !fmtOk fb then mx 1
  else if !winOk m.win then mx 2
  else if fmtSp m.fa != 0 || m.fb.any fun fb => (fmtSp fb != 0) != m.sparse then mx 4
  else if m.fb.any fun fb => widthClass (fmtType m.fa) != widthClass (fmtType fb) then mx 3
  else if m.sparse && !m.col then mx 5
  else if m.col0 % m.k != 0 || m.kb % m.k != 0 then mx 7
  else none

/-- The records that hold scales or metadata in memory. -/
def MatIn.recs (m : MatIn) : List Nat :=
  match m.fb with
  | none => []
  | some fb =>
    ((if fmtScf m.fa != 0 && !fmtSloc m.fa then [fmtSrec m.fa] else []) ++
      (if fmtScf fb != 0 && !fmtSloc fb then [fmtSrec fb] else []) ++
      (if fmtSp fb != 0 && !fmtMloc fb then [fmtMrec fb] else [])).dedup

/-- Step 7. DEDUCED (log entry 65): the VALID and PERM.R checks of every record named come before the STRIDE and swizzle
checks of any of them, as the row names them in that order. -/
def MatIn.fault7 (m : MatIn) (key : Nat) (rec : Nat → BitVec 256) (act : List Thread) : Option FaultInfo :=
  let bad := m.recs.filter fun b => !(recValid (rec b) && recR (rec b))
  if !bad.isEmpty then some { allLanes act causeRecord 7 with buf := pickBuf key (bad.map some) }
  else if m.recs.any fun b => recStride (rec b) != recEsz (rec b) || recSwzEn (rec b) then some (allLanes act causeMatrix 8)
  else none

/-- Does a run of the scratchpad leave the allocation? -/
def Run.outside (tk : Task) (r : Run) : Bool := r.buf.isNone && decide (tk.scratchBytes < r.start + r.len)

/-- Step 8. DEDUCED (log entry 67): of the scale and metadata bytes in scratchpad it takes B's, which all lanes share; A's, which differ by
lane, are step 9's. -/
def MatIn.fault8 (m : MatIn) (tk : Task) (act : List Thread) : Option FaultInfo :=
  if m.bo % 4 != 0 || decide (tk.scratchBytes < m.bo + m.bBytes) || m.runsB.any (Run.outside tk) then
    some (allLanes act causeScratch 0)
  else none

/-- Step 9. -/
def MatIn.fault9 (m : MatIn) (c : Ctx) (act : List Thread) : Option FaultInfo :=
  let w := dtBits (fmtType m.fa)
  let bad := act.filter fun t =>
    ((List.range m.k).any fun k => (unfoldBit m.win w (m.row c t) (m.col0 + k)).any fun b =>
      decide (8 * c.tk.scratchBytes < b + w)) || (m.runsA c t).any (Run.outside c.tk)
  if bad.isEmpty then none else some (FaultInfo.plain causeScratch 0 (bad.map (·.tid)))

/-- A run of a record leaves it. -/
def Run.beyond (rec : Nat → BitVec 256) (r : Run) : Bool :=
  r.buf.any fun b => decide (recExtent (rec b) * recEsz (rec b) < r.start + r.len)

/-- The first half of step 10: the range of each record. -/
def MatIn.fault10 (m : MatIn) (key : Nat) (rec : Nat → BitVec 256) (c : Ctx) (act : List Thread) : Option FaultInfo :=
  let runs := fun (t : Thread) => m.runsA c t ++ m.runsB
  let bad := act.filter fun t => (runs t).any (Run.beyond rec)
  if bad.isEmpty then none
  else some
    { FaultInfo.plain causeRecord 10 (bad.map (·.tid)) with
      buf := pickBuf key (bad.flatMap fun t => ((runs t).filter (Run.beyond rec)).map (·.buf)) }

/-- The lines of a lane's runs in memory. -/
def runLines (rec : Nat → BitVec 256) (rs : List Run) : List LineRef :=
  let all := rs.flatMap fun r => match r.buf with
    | none => []
    | some b => (lineVas (lineBase (recBase (rec b) + r.start)) ((recBase (rec b) + r.start) % 128 + r.len)).map fun v => (v, b)
  ((all.map (·.1)).dedup).filterMap fun v => (all.find? fun x => x.1 == v).map fun x => { va := v, buf := some x.2 }

/-- The data of a lane's lines, read as relaxed loads. -/
def State.readLines (s : State) (c : Ctx) (l : LaneOk) : List (Nat × List Byte) × State :=
  l.lines.foldl (fun (d, s) (va, x) =>
    let (bs, s) := s.readPieces c { l with lines := [(va, x)] } 128
    (d ++ [(va, bs)], s)) ([], s)

/-- The bytes that a lane sees: its team's scratchpad, and its lines through the records. -/
def laneBytes (tm : Team) (rec : Nat → BitVec 256) (d : List (Nat × List Byte)) : ByteAt := fun b o =>
  match b with
  | none => Sparse.get (0 : Byte) tm.scratch o
  | some n =>
    let a := recBase (rec n) + o
    match d.find? fun x => x.1 == lineBase a with
    | some x => x.2.getD (a % 128) 0
    | none => 0

/-- Step 11. -/
def MatIn.metaOk (m : MatIn) (rd : ByteAt) : Bool :=
  match m.fb with
  | none => true
  | some fb => !m.sparse || (List.range 16).all fun n => (List.range (m.k / 12)).all fun u =>
      groupOk (groupIdx rd fb (n + m.rb) (m.kb / 12 + u))

/-- Run a matrix instruction: the checks in their order, then `f` gives the new row of each active lane from the bytes
that the lane reads and its old row. -/
def runMatrix (i : Instr) (g : Guards) (tile : Nat) (s : State) (ops : Ctx → Warp → MatIn)
    (f : Ctx → MatIn → ByteAt → Thread → List Acc → List Acc) : Out :=
  runMem i g s fun c act =>
    match act with
    | [] => .ok s
    | t0 :: _ =>
      let m := ops c (c.warp t0)
      let rec' := fun b => recordOf c.tk (c.warp t0) b
      match m.fault16 act, m.fault7 (s.key 1) rec' act, m.fault8 c.tk act, m.fault9 c act, m.fault10 (s.key 1) rec' c act with
      | some x, _, _, _, _ | none, some x, _, _, _ | none, none, some x, _, _ | none, none, none, some x, _ |
        none, none, none, none, some x => .fault x
      | none, none, none, none, none =>
        s.translateRefs c c.touchLoad (act.map fun t => (t, false, runLines rec' (m.runsA c t ++ m.runsB))) fun lanes =>
          match loadStalls s c lanes, (cellsMet s c lanes).filter fun p => !s.gathering p with
          | t :: ts, _ => .stall (t :: ts)
          | [], p :: ps => .done ((p :: ps).foldl (fun s q => s.accessHome q .clean) s) { Post.none with stay := c.g.members }
          | [], [] =>
            if (cellsMet s c lanes).isEmpty then
              let (data, s) := lanes.foldl (fun (d, s) l =>
                let (x, s) := State.readLines s c l
                (d ++ [(l.t, laneBytes c.tm rec' x)], s)) ([], s.fillLtbs c lanes)
              if data.all fun x => m.metaOk x.2 then
                .ok (data.foldl (fun s x =>
                  s.putRow c x.1 tile (s.anyRow x.1.tid (f c m x.2 x.1 (c.tileRow x.1 tile)))) s)
              else .fault (allLanes act causeMatrix 6)
            else .stall c.g.members

/-! ## MMA, MMAS, MSEL (R201, R202) -/

/-- The code A(r, q) of a lane. -/
def MatIn.codeA (m : MatIn) (c : Ctx) (t : Thread) (k : Nat) : Nat :=
  match unfoldBit m.win (dtBits (fmtType m.fa)) (m.row c t) (m.col0 + k) with
  | none => 0
  | some b => c.tm.scratchCode b (dtBits (fmtType m.fa))

/-- The decoded operand a. DEDUCED (log entry 65): a code that the unfold supplies is decoded with its block's scale as
any other (R39, R43, R201), so under a NaN scale it is NaN; the sentence of R198 that it "decodes as +0" is taken to speak
of the code. -/
def MatIn.valA (m : MatIn) (c : Ctx) (rd : ByteAt) (t : Thread) (k : Nat) : Val :=
  let (sc, x) := scaleAt rd m.fa (m.row c t) (m.col0 + k)
  decodeElem (fmtType m.fa) (m.codeA c t k) sc x

/-- The code of B at (k, n) of a dense layout of `w` bits (R199). -/
def MatIn.codeB (m : MatIn) (c : Ctx) (w k n : Nat) : Nat :=
  c.tm.scratchCode (8 * m.bo + (if m.col then n * m.k + k else k * 16 + n) * w) w

/-- The stored elements of column `n`: logical k and code (R199). -/
def MatIn.sparseB (m : MatIn) (c : Ctx) (rd : ByteAt) (fb : BitVec 128) (n : Nat) : List (Nat × Nat) :=
  let w := dtBits (fmtType fb)
  let g := groupStored fb
  let ks := m.k * g / 12
  (List.range (m.k / 12)).flatMap fun u =>
    ((groupIdx rd fb (n + m.rb) (m.kb / 12 + u)).zip (List.range g)).map fun (j, t) =>
      (12 * u + j, c.tm.scratchCode (8 * m.bo + (n * ks + u * g + t) * w) w)

/-- The logical k and the code of every element of column `n` that B holds. -/
def MatIn.column (m : MatIn) (c : Ctx) (rd : ByteAt) (fb : BitVec 128) (n : Nat) : List (Nat × Nat) :=
  if m.sparse then m.sparseB c rd fb n
  else (List.range m.k).map fun k => (k, m.codeB c (dtBits (fmtType fb)) k n)

/-- The new row of MMA and MMAS. -/
def mmaRow (c : Ctx) (m : MatIn) (rd : ByteAt) (t : Thread) (old : List Acc) : List Acc :=
  match m.fb with
  | none => old
  | some fb =>
    let va := (List.range m.k).map (m.valA c rd t)
    (old.zip (List.range 16)).map fun (a, n) =>
      (m.column c rd fb n).foldl (fun a (k, code) =>
        let (sc, x) := scaleAt rd fb (n + m.rb) (m.kb + k)
        a.addTerm (mulVal (va.getD k (.fin false 0 0)) (decodeElem (fmtType fb) code sc x))) a

/-- The new row of MSEL: the raw codes of A that the column selects. -/
def mselRow (c : Ctx) (m : MatIn) (_ : ByteAt) (t : Thread) (old : List Acc) : List Acc :=
  let ca := (List.range m.k).map (m.codeA c t)
  (old.zip (List.range 16)).map fun (a, n) =>
    ((List.range m.k).filter fun k => m.codeB c 1 k n == 1).foldl (fun a k => a.addTerm (.fin false (ca.getD k 0) 0)) a

/-- The operands of MMA and MMAS from the warp's scalar registers. -/
def mmaIn (sparse : Bool) (o : MmaOp) (c : Ctx) (w : Warp) : MatIn :=
  { fa := c.tk.fmt o.fa.val, fb := some (c.tk.fmt o.fb.val), sparse := sparse, col := o.col, win := c.tk.win o.win.val,
    row0 := (w.sreg o.a.val).toNat, col0 := (w.sreg (o.a.val + 1)).toNat, bo := (w.sreg o.b.val).toNat,
    kb := (w.sreg (o.b.val + 1)).toNat, rb := (match o.m with
      | some r => (w.sreg r.val).toNat
      | none => 0) }

/-- MMA (R201). -/
def execMma (g : Guards) (o : MmaOp) (s : State) : Out :=
  runMatrix (.mma g o) g o.ta.val s (mmaIn false o) mmaRow

/-- MMAS (R201). -/
def execMmas (g : Guards) (o : MmaOp) (s : State) : Out :=
  runMatrix (.mmas g o) g o.ta.val s (mmaIn true o) mmaRow

/-- MSEL (R202). -/
def execMsel (g : Guards) (o : MselOp) (s : State) : Out :=
  runMatrix (.msel g o) g o.ta.val s (fun c w =>
    { fa := c.tk.fmt o.fa.val, fb := none, sparse := false, col := o.col, win := c.tk.win o.win.val,
      row0 := (w.sreg o.a.val).toNat, col0 := (w.sreg (o.a.val + 1)).toNat, bo := (w.sreg o.b.val).toNat,
      kb := (w.sreg (o.b.val + 1)).toNat, rb := 0 }) mselRow

/-! ## Tile moves and rounding (R204 to R206) -/

/-- MZERO. -/
def execMzero (g : Guards) (d : TaNum) (s : State) : Out :=
  run (.mzero g d) g s fun c act =>
    .ok (act.foldl (fun s t => s.putRow c t d.val (List.replicate 16 Acc.zero)) s)

/-- MADDT. -/
def execMaddt (g : Guards) (o : TaPair) (s : State) : Out :=
  run (.maddt g o) g s fun c act =>
    .ok (act.foldl (fun s t =>
      let row := ((c.tileRow t o.d.val).zip (c.tileRow t o.a.val)).map fun (x, y) => x.combine y
      s.putRow c t o.d.val (s.anyRow t.tid row)) s)

/-- Write the 16 results of a row; their status bits are ORed. -/
def Thread.putResults (t : Thread) (d n : Nat) (rs : List Rounded) : Thread :=
  (rs.zip (List.range 16)).foldl (fun t (r, j) => (t.setSts r.sts).putRegs (d + n * j) n r.code) t

/-- MRND. -/
def execMrnd (g : Guards) (o : MrndOp) (s : State) : Out :=
  runLanes (.mrnd g o) g s fun c t =>
    t.putResults o.d.val (if o.ty = .f64 then 2 else 1)
      ((c.tileRow t o.a.val).map fun a => accRound a (rndDt o.ty) o.mode)

/-- MQUO. -/
def execMquo (g : Guards) (o : MquoOp) (s : State) : Out :=
  runLanes (.mquo g o) g s fun c t =>
    t.putResults o.d.val (if o.ty = .f64 then 2 else 1)
      ((c.tileRow t o.a.val).map fun a => accQuo a (t.la o.b.val) (rndDt o.ty) o.mode)

/-- The 16 slot images of a row image. -/
def rowImages (bs : List Byte) : List (List Byte) := (List.range 16).map fun n => (bs.drop (96 * n)).take 96

/-- MSPILL. -/
def execMspill (g : Guards) (o : MmemOp) (s : State) : Out :=
  runSpill (.mspill g o) g o.addr 1536 s fun c t => (c.tileRow t o.ta.val).flatMap Acc.bytes

/-- MFILL. -/
def execMfill (g : Guards) (o : MmemOp) (s : State) : Out :=
  runFill (.mfill g o) g o.addr 1536 s (fun bs => (rowImages bs).any fun b => !imageClean (leNat b))
    (fun c s t bs => s.putRow c t o.ta.val ((rowImages bs).map Acc.ofBytes))
    fun c s t => s.putRow c t o.ta.val (List.replicate 16 Acc.zero)

end Sys2Proof.Machine
end

