-- ==== Sys2Proof/Machine/Save.lean ====
section
/-!
DEFINITION. Pre-emption and switching (spec/14 R300, R301, spec/10 R237), the hardware context save and restore (spec/20
R397 to R402), and the program-assisted form (spec/19 R379 to R382).
-/
namespace Sys2Proof.Machine

open Sys2Proof

/-! ## The save area (R398 to R401) -/

/-- Put a list of bytes, listing only those that are not 0. -/
def putBytes (m : Sparse Byte) (a : Nat) (bs : List Byte) : Sparse Byte := Memory.put m a bs
/-- Put a little-endian number of `n` bytes. -/
def putNat (m : Sparse Byte) (a n v : Nat) : Sparse Byte := putBytes m a (leBytes n v)

/-- Bytes of a warp's block, and where the sections start. -/
def warpBlock (tk : Task) : Nat := 128 * ((768 + 4 * tk.sregs + 127) / 128)
def warpsAt (tk : Task) : Nat := 256 + tk.threads * threadBlock tk
def tilesAt (tk : Task) : Nat := warpsAt tk + 4 * tk.warps * warpBlock tk
def scratchAt (tk : Task) : Nat := tilesAt tk + 4 * tk.warps * tk.tiles * tk.width * 1536

/-- The header (R399). -/
def areaHeader (tk : Task) (tm : Team) : Sparse Byte :=
  let m := tm.tags.foldl (fun m (n, c) => putNat m (2 * n) 2 c) []
  let m := putNat (putNat (putNat m 128 4 tm.passref.toNat) 132 2 tm.team) 136 4 tm.tmBar.count.toNat
  let m := putNat m 140 4 tm.tmBar.gen.toNat
  let m := tm.sqBar.foldl (fun m (q, b) => putNat (putNat m (144 + 8 * q) 4 b.count.toNat) (148 + 8 * q) 4 b.gen.toNat) m
  let m := putNat (putNat (putNat (putNat m 176 1 tk.width) 177 1 tk.warps) 178 2 tk.vregs) 180 2 tk.sregs
  putNat (putNat (putNat m 182 1 tk.accs) 183 1 tk.tiles) 184 1 tk.scratchUnits

/-- The block of a thread (R400); of a thread that has exited only EXITED is set. -/
def areaThread (tk : Task) (m : Sparse Byte) (t : Thread) : Sparse Byte :=
  let a := 256 + t.tid * threadBlock tk
  if t.exited then putNat m (a + 13) 1 1
  else
    let put := fun (m : Sparse Byte) (o v : Nat) => putNat m (a + o) 4 v
    let m := putNat m a 8 (t.pc.toNat % 2 ^ 57)
    let m := put (putNat (put m 8 t.vallot) (a + 12) 1 t.preds.toNat) 16
      (t.rep.remaining.toNat + if t.rep.remaining = 0 then 0 else 65536 * t.rep.iter.toNat)
    let m := put (put m 20 (t.rep.stride.toNat + 256 * t.rep.mask.toNat)) 24 t.wait.word
    let m := put (put (put m 28 t.nbrcnt.toNat) 32 (bitsNat t.offer 0 32)) 36 (bitsNat t.offer 32 32)
    let m := t.bars.foldl (fun m (sc, b) => put m (40 + 4 * sc) b.word.toNat) m
    let m := put (put (put m 60 t.innpos.toNat) 64 t.oobstWord.toNat) 68 t.satstWord.toNat
    let m := put (put m 72 t.fpstWord.toNat) 76 t.inning.toNat
    let m := t.regs.foldl (fun m (r, v) => put m (128 + 4 * r) v.toNat) m
    t.las.foldl (fun m (r, x) => putBytes m (a + 128 + 4 * tk.vregs + 96 * r) x.bytes) m

/-- The block of warp `k` (R401). -/
def areaWarp (tk : Task) (m : Sparse Byte) (k : Nat) (w : Warp) : Sparse Byte :=
  let a := warpsAt tk + k * warpBlock tk
  let m := putNat m a 4 w.marks.length
  let m := ((List.range w.marks.length).zip w.marks).foldl (fun m (e, x) =>
    let b := a + 128 + 16 * e
    putNat (putNat (putNat m b 4 (codeOff tk x.rejoin.toNat)) (b + 4) 4 (bitsNat x.mask 0 32)) (b + 8) 4 (bitsNat x.mask 32 32)) m
  let m := w.scalars.foldl (fun m (r, v) => putNat m (a + 256 + 4 * r) 4 v.toNat) m
  w.recs.foldl (fun m (r, v) => putBytes m (a + 256 + 4 * tk.sregs + 32 * r) (leBytes 32 v.toNat)) m

/-- The save area of a team in the hardware form. -/
def areaOf (tk : Task) (tm : Team) : Sparse Byte :=
  let m := tm.threads.foldl (areaThread tk) (areaHeader tk tm)
  let m := ((List.range tm.warps.length).zip tm.warps).foldl (fun m (k, w) => areaWarp tk m k w) m
  let m := tm.tiles.foldl (fun m (key, x) => putBytes m (tilesAt tk + 96 * tileIndex tk key) x.bytes) m
  tm.scratch.foldl (fun m (o, b) => Memory.write m (scratchAt tk + o) b) m

/-- The area of the program-assisted form (R401): RESUME, VALLOT, EXITED, the scalar registers, b48 to b63, TEAM, FORM. -/
def areaAssisted (tk : Task) (tm : Team) : Sparse Byte :=
  let m := putNat [] 132 4 (tm.team % 65536 + 2 ^ 31)
  let m := tm.threads.foldl (fun m t =>
    let a := 256 + t.tid * threadBlock tk
    if t.exited then putNat m (a + 13) 1 1
    else putNat (putNat m a 8 ((t.routine.map fun r => r.resume.toNat).getD t.pc.toNat % 2 ^ 57)) (a + 8) 4 t.vallot) m
  ((List.range tm.warps.length).zip tm.warps).foldl (fun m (k, w) => areaWarp tk m k { w with marks := [] }) m

/-! ## Taking a team off its core -/

/-- Has everything that the team issued completed (R397 step 2)? Its stores on their way, and its accesses that a home holds, have
too. -/
def State.drained (s : State) (tm : Team) : Bool :=
  (!s.net.any fun m => match m with
    | .store _ w => w.owner.task == tm.task && w.owner.team == tm.team
    | _ => false) && (tm.threads.all fun t => !s.homePending (t.key tm)) && (tm.warps.all fun w => w.queue.isEmpty) && (!s.copies.any fun r => r.owner.task == tm.task && r.owner.team == tm.team) &&
    tm.threads.all fun t => t.wait != .mgmt && (s.pendingDests (t.key tm) []).isEmpty

/-- Have the threads of the team entered the routine of the save? -/
def Team.saveBegun (tm : Team) : Bool := tm.threads.any fun t => !t.exited && t.routine.any fun r => r.kind == .save

/-- Every live thread enters the routine for SAVE (R380). -/
def State.enterSave (s : State) (tk : Task) (tm : Team) : Team :=
  let start := s.skipPads tk (tk.entry + 8)
  let tm := { tm with warps := tm.warps.map fun (w : Warp) => ({ w with routineMarks := [] } : Warp) }
  tm.modThreads (fun t => !t.exited) fun t =>
    t.enterRoutine .save t.pc.toNat start
      (faultRecord tk tm.team t.pc.toNat (FaultInfo.plain causeSave 0 []) none t.tid)

/-- The record of a team off its core. -/
def State.savedOf (s : State) (tk : Task) (tm : Team) (area : Sparse Byte) : SavedTeam :=
  { task := tk.id, team := tm.team, area := area, offSince := s.clk,
    innEnded := (tm.threads.filter fun t => t.innEnded && !t.exited).map (·.tid), inning := tk.innings,
    parts := tm.threads.foldl (fun m t => Sparse.set 0 m t.tid (2 * t.part + if t.cut then 1 else 0)) [],
    faults := tm.threads.foldl (fun m t => Sparse.set 0 m t.tid t.fault) []
    waits := (tm.threads.filter fun t => !t.exited).map fun t =>
      let w := (t.routine.map (·.wait)).getD t.wait
      (t.tid, w, (match w with
        | .barrier sc => t.bar sc.val
        | _ => BarRec.zero), t.nbrcnt) }

/-- The team leaves its core with its area written; the record is in SUSP once no team of it is placed (R294). -/
def State.takeOff (s : State) (tk : Task) (tm : Team) (area : Sparse Byte) : State :=
  let s := ({ s with saved := s.saved ++ [s.savedOf tk tm area] } : State).leaveCore tm
  if (s.slot tk.slot).state = .run ∧ (s.teams.any fun x => x.task == tk.id) = false then
    s.setSlot tk.slot { (s.slot tk.slot) with state := .susp }
  else s

/-- What a team that is being saved does next: the hardware form is complete once it has drained; in the program-assisted
form the threads enter their routine once the instructions issued have completed, the copies may still run (R380), and the save is
complete once each thread has ended it and the copies have completed. -/
def State.saveStep (s : State) (tk : Task) (tm : Team) : State :=
  match tm.phase with
  | .run => s
  | .saving _ false => if s.drained tm then s.takeOff tk tm (areaOf tk tm) else s
  | .saving _ true =>
    if tm.saveBegun then
      if (tm.threads.all fun t => t.exited || t.saved) && s.drained tm then s.takeOff tk tm (areaAssisted tk tm) else s
    else if tm.inRoutine then s
    else if tm.threads.all fun t => t.wait != .mgmt &&
        (({ s with copies := [] } : State).pendingDests (t.key tm) (tm.warp (warpOf tk.width t.tid)).queue).isEmpty then
      s.putTeam (s.enterSave tk tm)
    else s

/-- Begin to take a team off its core, and go as far as possible. -/
def State.startSave (s : State) (tk : Task) (tm : Team) : State :=
  let s := s.beginSave tk tm.team
  match s.team? tm.task tm.team with
  | some tm => s.saveStep tk tm
  | none => s

/-! ## Why a team leaves its core -/

/-- Is a placed team to be pre-empted (R300, R302, R236)? -/
def State.preempts (s : State) (tm : Team) : Bool :=
  let row := s.row tm.core
  rowCstate row != 0 ||
    (tm.borrower && s.teams.any fun h => h.core == tm.core && !h.borrower && h.threads.any fun t => match t.wait with
      | .vgrow _ => true
      | _ => false) ||
    match s.rowTask tm.core with
    | some t =>
      let p := bindPrio (s.slot t.slot).rec0
      t.id != tm.task && s.wantsCore t tm.core &&
        (if (s.slot t.slot).state = .staged then (s.rowsOf t.slot).all fun k => s.takeable p k t.id
         else s.takeable p tm.core t.id)
    | none => false

/-- The event PREEMPTION: a team of the core that is to be pre-empted begins to be saved, or a save under way goes on. -/
def execPreemption (core : Nat) (s : State) : Out :=
  match s.teams.find? fun tm => tm.core == core && (tm.phase != .run || s.preempts tm) with
  | none => .next s
  | some tm =>
    match s.task? tm.task with
    | none => .next s
    | some tk => .next (s.startSave tk tm).settle.tick

/-- Has a team on a core run for its quantum, while another record of its priority waits for the core (R301)? -/
def State.quantumRun (s : State) (core : Nat) (tm : Team) : Bool :=
  tm.core == core && tm.phase == .run && match s.task? tm.task, s.rowTask core with
    | some tk, some t =>
      let r := (s.slot tk.slot).rec0
      bindTsp r == 1 && decide (tm.placedAt + 1024 * bindQuant r ≤ s.clk) && t.id != tk.id &&
        bindPrio (s.slot t.slot).rec0 == bindPrio r && s.wantsCore t core
    | _, _ => false

/-- The event QUANTUM_EXPIRY (R301). -/
def execQuantumExpiry (core : Nat) (s : State) : Out :=
  match s.teams.find? (s.quantumRun core) with
  | some tm =>
    match s.task? tm.task with
    | none => .next s
    | some tk => .next (s.startSave tk tm).settle.tick
  | none => .next s

/-- Is the team at a switch point (R237)? -/
def atSwitchPoint (tk : Task) (tm : Team) : Bool :=
  tm.phase == .run && tm.threads.all fun t =>
    t.exited || (t.routine.isNone &&
      if tk.ordered then t.innEnded && t.wait != .none
      else t.atYield || match t.wait with
        | .barrier _ => true
        | _ => false)

/-- Is every team on a core at a switch point (R237)? -/
def State.allAtSwitch (s : State) (core : Nat) : Bool :=
  (s.teams.filter fun tm => tm.core == core).all fun tm => (s.task? tm.task).any fun (tk : Task) => atSwitchPoint tk tm

/-- Must a team at a switch point leave its core: all teams there are at one and another team of the grid is ready for it, or its row has
gone? -/
def State.switches (s : State) (tk : Task) (tm : Team) : Bool :=
  atSwitchPoint tk tm && !tm.borrower &&
    let row := s.row tm.core
    if rowValid row && rowBind row == tk.slot then
      !rowHosts row tm.team || (s.allAtSwitch tm.core && (s.nextTeam tk tm.core).isSome)
    else (s.rowsOf tk.slot).any fun k => rowHosts (s.row k) tm.team

/-- The event TEAM_SWITCH: of the teams of a core that are to be switched off, the one longest at its switch point, then
the lower number. -/
def execTeamSwitch (core : Nat) (s : State) : Out :=
  let cands := sortBy (fun (a b : Team) => decide (a.switchSince.getD s.clk < b.switchSince.getD s.clk) ||
      (a.switchSince.getD s.clk == b.switchSince.getD s.clk && decide (a.team ≤ b.team)))
    (s.teams.filter fun tm => tm.core == core && (s.task? tm.task).any fun tk => s.switches tk tm)
  match cands with
  | [] => .next s
  | tm :: _ =>
    match s.task? tm.task with
    | none => .next s
    | some tk => .next (s.startSave tk tm).settle.tick

/-- WATCHDOG for threads of a team: each gets its record, and the task ends by that of the lowest thread (R389, R395). -/
def State.lateThreads (s : State) (tk : Task) (tm : Team) (late : List Thread) : State :=
  let tids := late.map (·.tid)
  let rec0 := fun (t : Thread) => faultRecord tk tm.team t.pc.toNat (FaultInfo.plain causeWatchdog 0 tids) t.repIter t.tid
  let s := s.modTeam tk.id tm.team fun tm =>
    tm.modThreads (fun t => tids.contains t.tid) fun t => { t with fault := rec0 t, dog := 0 }
  match sortBy (fun (a b : Thread) => decide (a.tid ≤ b.tid)) late with
  | t :: _ => s.endTaskFault tk (rec0 t)
  | [] => s

/-- The event PREEMPTION_WATCHDOG: a team with a trap routine has not been saved 2^WDLOG clocks after the request (R382,
R393): a live thread has not ended its save. Every such thread has a record of its own address and iteration (R389). -/
def execPreemptionWatchdog (core : Nat) (s : State) : Out :=
  let unsaved := fun (t : Thread) => !t.exited && !t.saved
  let late := fun (tm : Team) => tm.core == core && tm.threads.any unsaved && match tm.phase, s.task? tm.task with
    | .saving since true, some tk => decide (since + 2 ^ tk.wdlog ≤ s.clk) && !tk.stopped
    | _, _ => false
  match s.teams.find? late with
  | none => .next s
  | some tm =>
    match s.task? tm.task with
    | none => .next s
    | some tk =>
      .next (s.lateThreads tk tm (tm.threads.filter unsaved)).settle.tick

/-! ## Restore (R402, R381) -/

/-- Is the geometry of an area that of the launch (R402)? -/
def areaFits (tk : Task) (area : Sparse Byte) : Bool :=
  Memory.nat area 176 1 == tk.width && Memory.nat area 177 1 == tk.warps && Memory.nat area 178 2 == tk.vregs &&
    Memory.nat area 180 2 == tk.sregs && Memory.nat area 182 1 == tk.accs && Memory.nat area 183 1 == tk.tiles &&
    Memory.nat area 184 1 == tk.scratchUnits

/-- `n` words of an area as a register file. -/
def areaRegs (area : Sparse Byte) (a n : Nat) : Sparse Word :=
  (List.range n).foldl (fun m j => Sparse.set 0 m j (BitVec.ofNat 32 (Memory.nat area (a + 4 * j) 4))) []
/-- `n` accumulator images of an area. -/
def areaAccs (area : Sparse Byte) (a n : Nat) : Sparse Acc :=
  (List.range n).foldl (fun m j => Sparse.set Acc.zero m j (Acc.ofBytes (Memory.bytes area (a + 96 * j) 96))) []

/-- What the model keeps of a thread beside its block. -/
def Thread.keep (t : Thread) (tk : Task) (x : SavedTeam) : Thread :=
  let p := Sparse.get 0 x.parts t.tid
  { t with part := p / 2, cut := p % 2 == 1, fault := Sparse.get 0 x.faults t.tid,
           innEnded := tk.ordered && x.innEnded.contains t.tid && x.inning == tk.innings }

/-- A thread from its block. One whose inning has ended and that waits for nothing else waits for the commit (R239). -/
def restoreThread (tk : Task) (x : SavedTeam) (t : Thread) : Thread :=
  let a := 256 + t.tid * threadBlock tk
  let word := fun (o : Nat) => BitVec.ofNat 32 (Memory.nat x.area (a + o) 4)
  let t := t.keep tk x
  if savedExited tk x.area t.tid then { t with exited := true, innEnded := true }
  else
    let t : Thread := { t with
      pc := BitVec.ofNat 64 (Memory.nat x.area a 8 % 2 ^ 57), vallot := (word 8).toNat,
      preds := BitVec.ofNat 7 (Memory.nat x.area (a + 12) 1),
      rep := { remaining := (word 16).setWidth 16, iter := (word 16 >>> 16).setWidth 16, stride := (word 20).setWidth 8,
               mask := (word 20 >>> 8).setWidth 4 },
      wait := waitOfWord [] (word 24), atYield := (word 24).toNat % 16 == 6, nbrcnt := word 28,
      offer := DWord.ofWords (word 32) (word 36),
      bars := (List.range 5).foldl (fun m sc => Sparse.set BarRec.zero m sc (BarRec.ofWord (word (40 + 4 * sc)))) [],
      innpos := word 60, oobst := bitAt (word 64) 0, satst := bitAt (word 68) 0, fpst := (word 72).setWidth 5,
      inning := word 76, regs := areaRegs x.area (a + 128) tk.vregs, las := areaAccs x.area (a + 128 + 4 * tk.vregs) tk.accs }
    if t.wait == .none then t.ready else t

/-- A warp from its block. -/
def restoreWarp (tk : Task) (area : Sparse Byte) (k : Nat) : Warp :=
  let a := warpsAt tk + k * warpBlock tk
  let word := fun (o : Nat) => BitVec.ofNat 32 (Memory.nat area (a + o) 4)
  { Warp.empty with
    marks := (List.range (Memory.nat area a 4)).map fun e =>
      { rejoin := BitVec.ofNat 64 (tk.entry + (word (128 + 16 * e)).toNat),
        mask := DWord.ofWords (word (132 + 16 * e)) (word (136 + 16 * e)), written := false },
    scalars := areaRegs area (a + 256) tk.sregs,
    recs := (List.range 16).foldl (fun m r =>
      Sparse.set 0 m r (BitVec.ofNat 256 (Memory.nat area (a + 256 + 4 * tk.sregs + 32 * r) 32))) [] }

/-- A team from a hardware area, on a clean core. -/
def State.restoreTeam (s : State) (tk : Task) (x : SavedTeam) (core : Nat) : Team :=
  let f := s.freshTeam tk x.team core false
  { f with
    threads := f.threads.map (restoreThread tk x),
    warps := (List.range (4 * tk.warps)).map (restoreWarp tk x.area),
    tiles := (areaAccs x.area (tilesAt tk) (4 * tk.warps * tk.tiles * tk.width * 16)).foldl
      (fun m (n, a) => Sparse.set Acc.zero m (tileOfIndex tk n) a) [],
    scratch := (x.area.filter fun e => scratchAt tk ≤ e.1).map fun e => (e.1 - scratchAt tk, e.2),
    tags := (List.range 64).foldl (fun m n => Sparse.set 0 m n (Memory.nat x.area (2 * n) 2)) [],
    passref := BitVec.ofNat 32 (Memory.nat x.area 128 4),
    tmBar := { count := BitVec.ofNat 32 (Memory.nat x.area 136 4), gen := BitVec.ofNat 31 (Memory.nat x.area 140 4) },
    sqBar := (List.range 4).foldl (fun m q => Sparse.set BarInst.zero m q
      { count := BitVec.ofNat 32 (Memory.nat x.area (144 + 8 * q) 4),
        gen := BitVec.ofNat 31 (Memory.nat x.area (148 + 8 * q) 4) }) [] }

/-- A team from a program-assisted area: every saved thread enters its routine for RESTORE (R381). -/
def State.reenterTeam (s : State) (tk : Task) (x : SavedTeam) (core : Nat) : Team :=
  let f := s.freshTeam tk x.team core false
  let start := s.skipPads tk (tk.entry + 8)
  { f with
    passref := x.refusals
    threads := f.threads.map fun t =>
      let a := 256 + t.tid * threadBlock tk
      let t := { t.keep tk x with inning := tk.innings }
      if savedExited tk x.area t.tid then { t with exited := true, innEnded := true }
      else
        let pc := Memory.nat x.area a 8
        let t := { t with vallot := Memory.nat x.area (a + 8) 4, pc := BitVec.ofNat 64 pc }
        let t := t.enterRoutine .restore pc start
          (faultRecord tk x.team pc (FaultInfo.plain causeRestore 0 []) none t.tid)
        { t with routine := t.routine.map fun r => { r with committed := tk.ordered && x.inning != tk.innings } },
    warps := (List.range (4 * tk.warps)).map fun k => { restoreWarp tk x.area k with marks := [] } }

/-- Threads that were at YIELD form their set afresh from the threads that are ready (R135). -/
def State.reformYields (s : State) (tk : Task) (team : Nat) : State :=
  s.modTeam tk.id team fun tm =>
    let ready := tm.threads.filter fun t => !t.atYield && s.threadReady tk tm t
    tm.modThreads (fun t => t.atYield && !t.exited) fun t =>
      let o := (ready.filter fun u => squadOf tk.width u.tid == squadOf tk.width t.tid).map fun u => u.key tm
      if o.isEmpty then t.ready else { t with wait := .yield o }

/-- The event TEAM_RESTORE: the dispatcher restores a saved team on a clean core. -/
def execTeamRestore (core team : Nat) (s : State) : Out :=
  match s.placement core with
  | none => .next s
  | some (tk, x) =>
    match s.saved.find? fun v => v.task == tk.id && v.team == team with
    | none => .next s
    | some sv =>
      if x ≠ team then .next s
      else
        let s := { s with saved := s.saved.filter fun v => !(v.task == tk.id && v.team == team) }
        if Memory.nat sv.area 132 4 / 2 ^ 31 % 2 = 1 then
          let tm := s.reenterTeam tk sv core
          .next ({ s with teams := s.teams ++ [tm] }.placed tk).tick
        else if areaFits tk sv.area then
          let tm := s.restoreTeam tk sv core
          let s := { s with teams := s.teams ++ [tm] }.placed tk
          let s := s.reformYields tk team
          .next (s.resumeWaits tk team ((tm.threads.filter fun t => !t.exited).map (·.tid))).settle.tick
        else
          .next (s.endTaskFault tk (faultRecord tk team tk.entry (FaultInfo.plain causeEcc 10 []) none 0)).settle.tick

end Sys2Proof.Machine
end

