-- ==== Sys2Proof/Machine/Commit.lean ====
section
/-!
DEFINITION. The commit of an inning (spec/10 R239, R240, R243): when every logical team of an ordered launch has ended the
inning, the entries of all its buffers are applied in the order of R243, and once each has been performed the threads that
wait at the end of the inning begin the next.
-/
namespace Sys2Proof.Machine

open Sys2Proof

/-! ## When an inning has ended for the grid (R239) -/

/-- Has a placed team ended the task's inning? A thread inside a save or restore keeps the commit back until its own
items are in their place. -/
def Team.endedInning (tm : Team) : Bool :=
  tm.threads.all fun t => t.exited ||
    (t.innEnded && t.routine.all fun r => r.kind != .save && r.kind != .restore)

/-- Has a team off its core ended the task's inning (R246)? -/
def SavedTeam.endedInning (x : SavedTeam) (tk : Task) : Bool :=
  (List.range tk.threads).all fun tid =>
    savedExited tk x.area tid || (x.inning == tk.innings && x.innEnded.contains tid)

/-- Has a logical team ended the inning? A team not yet placed has not. -/
def State.teamEndedInning (s : State) (tk : Task) (team : Nat) : Bool :=
  tk.ended.contains team ||
    match s.team? tk.id team, s.saved.find? fun x => x.task == tk.id && x.team == team with
    | some tm, _ => tm.endedInning
    | none, some x => x.endedInning tk
    | none, none => false

/-- Is a term of a line, or of any line, on its way to the line's home: a contribution or a partial that is not registered? -/
def State.termsComing (s : State) (on : Nat → Bool) : Bool :=
  (s.net.any fun m => match m with
    | .contribution l _ _ _ _ _ _ _ | .surr _ l _ _ _ | .surrE _ l _ _ | .reg _ l _ => on l
    | _ => false) ||
  (s.bowls.any fun b => on b.line) || s.partials.any fun x => !x.registered && on x.line

/-- Are accesses of the task's threads not performed at .dv yet? The end of an inning is a release at .dv (R240). -/
def State.dvPending (s : State) (id : Nat) : Bool :=
  (s.teams.any fun tm => tm.task == id && !tm.warps.all fun w => w.queue.isEmpty) ||
  (s.teams.any fun tm => tm.task == id && tm.threads.any fun t => !s.releaseReady (t.key tm) .dv) ||
  (s.net.any fun m => match m with
    | .store _ w => w.owner.task == id
    | .contribution _ _ _ _ ow _ _ _ | .surr _ _ _ _ ow => ow.any fun k => k.task == id
    | .pass _ _ _ _ _ _ ow _ _ | .passOutcome ow _ _ => ow.task == id
    | .token _ _ _ _ | .probe _ _ _ _ _ | .probeAck _ _ _ _ => true
    | _ => false) ||
  (s.bowls.any fun b => b.owners.any fun k => k.task == id) ||
  (s.partials.any fun x => !x.registered && x.owners.any fun k => k.task == id) ||
  s.cells.any fun c => (c.waiting ++ c.queue).any fun r => match r with
    | .contrib _ _ _ ow => ow.any fun k => k.task == id
    | .store _ w => w.owner.task == id
    | .atom _ ow _ _ _ _ _ | .ldaccZero _ ow _ _ _ _ | .load ow _ _ _ _ _ _ => ow.task == id
    | .reg _ _ | .remote _ _ | .clean => false

/-- Is an AACC of a thread of the task not performed (R219)? -/
def State.aaccOf (s : State) (id : Nat) : Bool :=
  (s.net.any fun m => match m with
    | .contribution _ _ _ _ ow _ _ _ | .surr _ _ _ _ ow => ow.any fun k => k.task == id
    | _ => false) ||
  (s.bowls.any fun b => b.owners.any fun k => k.task == id) ||
  (s.partials.any fun x => !x.registered && x.owners.any fun k => k.task == id) ||
  s.cells.any fun c => c.queue.any fun r => match r with
    | .contrib _ _ _ ow => ow.any fun k => k.task == id
    | _ => false

/-- May the inning's commit begin now? -/
def State.commitReady (s : State) (tk : Task) : Bool :=
  tk.ordered && !tk.stopped && tk.started && (List.range tk.gridSize).all (s.teamEndedInning tk) && !s.dvPending tk.id &&
    !(tk.ended.length == tk.gridSize && tk.buf.isEmpty)

/-! ## The entries (R243) -/

/-- The entries in ascending team, then ascending tid, then program order. -/
def commitOrder (buf : List DoEntry) : List DoEntry :=
  sortBy (fun a b => decide (a.team < b.team) || (a.team == b.team && decide (a.tid ≤ b.tid))) buf

/-- The targets of an entry's passes. -/
def DoKind.targets : DoKind → PassTargets
  | .store _ _ tg => tg
  | .atom _ _ | .aacc _ | .ldaccZero => []

/-- The thread of an entry, and its line. -/
def DoEntry.owner (e : DoEntry) (tk : Task) : ThreadKey := { task := tk.id, team := e.team, tid := e.tid }
def DoEntry.place (e : DoEntry) : Place := { space := e.space, addr := e.line }

/-- One pass of a committed store: the target's filter decides at once, and a refusal is counted (R240, R350). -/
def State.commitPass (s : State) (tk : Task) (e : DoEntry) (target : Nat) : State :=
  match s.coreOf tk.id target with
  | none => s.addRefusal (e.owner tk)
  | some core =>
    let (s, refused) := s.takePass e.place .ord (lineOfBytes (s.homeLine e.place)) tk.id target core false
    if refused then s.addRefusal (e.owner tk) else s

/-- The entry is written at the line's home: its copies are invalidated. -/
def State.commitWrite (s : State) (e : DoEntry) : State :=
  let p := e.place
  let s := { s with l1 := s.l1.filter fun l => l.place != p }
  ((s.writeBytes p (applyDo (s.homeLine p) e.kind)).snoopHost p noThread).tagL2 p .ord

/-- What goes to another device for an entry: a write for each run of bytes of a store's mask. -/
def maskRuns (m : BitVec 128) : List (Nat × Nat) :=
  (List.range 128).filterMap fun j =>
    if bitAt m j && (j == 0 || !bitAt m (j - 1)) then
      some (j, ((List.range (128 - j)).takeWhile fun n => bitAt m (j + n)).length)
    else none
def DoEntry.remoteItems (e : DoEntry) (tk : Task) : List QItem :=
  let how : HowAtom := { acq := none, silent := true }
  match e.kind with
  | .store d m _ => (maskRuns m).map fun (o, n) =>
      .store { owner := e.owner tk, place := { e.place with addr := e.line + o }, cls := .ord,
               data := ((lineBytes d).drop o).take n, targets := [] }
  | .atom op p => [.atom (e.owner tk) p .ord op 0 how]
  | .aacc term => [.aacc (e.owner tk) e.place .ord term {}]
  | .ldaccZero => [.ldaccZero (e.owner tk) e.place .ord 0 how]

/-- Does a write of the commit to the line of another device, or of any, await its acknowledgement? -/
def State.remotePending (s : State) (id : Nat) (on : Place → Bool) : Bool :=
  s.net.any fun m => match m with
    | .remote ow _ q _ _ => ow.task == id && q.place?.any fun x => on x.line
    | _ => false

/-- One entry takes effect at its place (R243): the state after it, and whether it has been applied. A cell is gathered first; an
AACC takes the path of R218 from its team's club, or, of a team that stands on no core, of which the spec names no club, is added at
the home (DESIGN CHOICE, log entry 26); an entry of another device's page waits for the earlier ones of its line. -/
def State.commitEntry (s : State) (tk : Task) (e : DoEntry) : State × Bool :=
  let p := e.place
  match e.space with
  | .remote d =>
    if s.remotePending tk.id (· == p) then (s, false)
    else ((e.remoteItems tk).foldl (fun s q => match q.place? with
      | some x => s.sendRemote (e.owner tk) d x q
      | none => s) s, true)
  | .dev | .host =>
    match e.kind, s.coreOf tk.id e.team with
    | .aacc term, some core =>
      if 512 ≤ s.unacked (clubOf core) (homeSliceOf p) then (s, false) else (s.presentAacc core (e.owner tk) p .ord term, true)
    | .aacc term, none => if s.cellRoom e.line then (s.homeAdd e.line .ord term [] [e.owner tk], true) else (s, false)
    | k, _ =>
      let s := if (s.cellAt e.line).isSome then s.gatherAll [p] else s
      if s.termsComing (· == e.line) || (s.cellAt e.line).isSome then (s, false)
      else (k.targets.foldl (fun s tg => s.commitPass tk e tg) (s.commitWrite e), true)

/-- Apply entries as far as they go: the state, and the entries that are left. -/
def State.commitEntries (tk : Task) : State → List DoEntry → State × List DoEntry
  | s, [] => (s, [])
  | s, e :: rest =>
    let (s1, done) := s.commitEntry tk e
    if done then State.commitEntries tk s1 rest else (s1, e :: rest)

/-! ## The next inning (R240, R246) -/

/-- A thread begins the next inning. -/
def Thread.nextInning (t : Thread) : Thread :=
  if t.exited then t
  else
    { t with innEnded := false, inning := t.inning + 1, innpos := 0,
             wait := if t.wait = .inning then .none else t.wait,
             routine := t.routine.map fun r =>
               { r with committed := true, wait := if r.wait = .inning then .none else r.wait } }

/-- The save area of a team in the hardware form after the commit. -/
def nextInningArea (tk : Task) (area : Sparse Byte) : Sparse Byte :=
  (List.range tk.threads).foldl (fun m tid =>
    if savedExited tk m tid then m
    else
      let a := 256 + tid * threadBlock tk
      let m := putNat m (a + 60) 4 0
      let m := putNat m (a + 76) 4 ((Memory.nat m (a + 76) 4 + 1) % 2 ^ 32)
      if Memory.nat m (a + 24) 4 % 16 = 5 then putNat m (a + 24) 4 0 else m) area

/-- A team off its core passes the commit. -/
def SavedTeam.nextInning (tk : Task) (x : SavedTeam) : SavedTeam :=
  if Memory.nat x.area 132 4 < 2 ^ 31 then
    { x with area := nextInningArea tk x.area, innEnded := [], inning := tk.innings + 1 }
  else { x with innEnded := [] }

/-- The commit has been applied: the next inning begins. -/
def State.nextInning (s : State) (tk : Task) : State :=
  let s := (s.teams.filter fun tm => tm.task == tk.id).foldl (fun s tm => tm.threads.foldl (fun s t => s.noteRelease (t.key tm)) s) s
  let s := (s.teams.filter fun tm => tm.task == tk.id).foldl (fun s tm => s.acquire tm.core .dv) s
  let s := s.modTask tk.id fun t => { t with innings := t.innings + 1, committing := none }
  { s with
    teams := mapIf (fun tm => tm.task == tk.id) (fun tm => { tm with threads := tm.threads.map Thread.nextInning }) s.teams,
    saved := mapIf (fun x => x.task == tk.id) (SavedTeam.nextInning tk) s.saved }

/-- The commit goes on: entries are applied in their order, and once every one has been performed the next inning begins (R240,
R243). -/
def State.commit (s : State) (tk : Task) (es : List DoEntry) : State :=
  let (s, rest) := State.commitEntries tk s es
  if rest.isEmpty && !s.remotePending tk.id (fun _ => true) && !s.aaccOf tk.id then s.nextInning tk
  else s.modTask tk.id fun t => { t with committing := some rest }

/-- The event COMMIT: the inning of a task ends for the grid, and its entries are applied; or a commit under way goes on. One that
has begun is applied whole, even when the task ends meanwhile (R246). -/
def execCommit (task : Nat) (s : State) : Out :=
  match s.task? task with
  | none => .next s
  | some tk =>
    match tk.committing with
    | some es => .next (s.commit tk es).settle.tick
    | none =>
      if s.commitReady tk then
        .next (({ s with tasks := mapIf (fun t => t.id == task) (fun t => { t with buf := [], committing := some [] }) s.tasks } : State).commit
          tk (commitOrder tk.buf)).settle.tick
      else .next s

end Sys2Proof.Machine
end

