-- ==== Sys2Proof/Machine/Huddle.lean ====
section
/-!
DEFINITION. The huddle (spec/14 R305 to R309): which threads are ready, the entries and the overflow list of a squad, the
candidates of an issue slot, the choice among them, aging, and the watchdog.

The clock's service of a slot selects an issue group; the machine's next step fetches and executes its instruction.
-/
namespace Sys2Proof.Machine

open Sys2Proof

/-! ## Ready threads (R305) -/

/-- May the threads of a team issue now: it runs and is not to be switched off (R237), or its routine for a save runs
(R380, R381)? While a bench of the context is replayed none does (spec/11 R269). -/
def State.teamIssues (s : State) (tk : Task) (tm : Team) : Bool :=
  !tk.stopped && !(s.benches.any fun b => b.ctx == tk.ctx && !b.items.isEmpty) && match tm.phase with
    | .run => !s.switches tk tm
    | .saving _ false => false
    | .saving _ true => tm.saveBegun || tm.inRoutine

/-- A ready thread as a member of a huddle. -/
structure Ready where
  tk : Task
  tm : Team
  t : Thread

/-- The ready threads of a squad of a core. -/
def State.readyOf (s : State) (core squad : Nat) : List Ready :=
  (s.teams.filter fun tm => tm.core == core).flatMap fun tm =>
    match s.task? tm.task with
    | none => []
    | some tk =>
      if s.teamIssues tk tm then
        (tm.threads.filter fun t => squadOf tk.width t.tid == squad && s.threadReady tk tm t).map fun t =>
          { tk := tk, tm := tm, t := t }
      else []

/-! ## Entries and overflow (R305) -/

/-- The huddle of a squad. -/
def State.huddle (s : State) (core squad : Nat) : Huddle := Sparse.get Huddle.empty s.huddles (4 * core + squad)
def State.setHuddle (s : State) (core squad : Nat) (h : Huddle) : State :=
  { s with huddles := Sparse.set Huddle.empty s.huddles (4 * core + squad) h }

/-- Entries without a thread free; the oldest overflow addresses take them; addresses new in this clock follow in
ascending order, and wait in the overflow list when no entry is free. -/
def Huddle.refresh (h : Huddle) (pcs : List (BitVec 64)) : Huddle :=
  let keep := h.entries.filter fun p => pcs.contains p
  let wait := h.overflow.filter fun p => pcs.contains p
  let new := sortBy (fun (a b : BitVec 64) => decide (a.toNat ≤ b.toNat)) (pcs.dedup.filter fun p => !keep.contains p && !wait.contains p)
  let queue := wait ++ new
  let free := 64 - keep.length
  { h with entries := keep ++ queue.take free, overflow := queue.drop free }

/-! ## Candidates (R306) -/

/-- The opcodes whose candidates are paired with one warp: cross-lane, LXADD, MMA, MMAS, MSEL, MARK, JOIN. -/
def pairedOp (op : Nat) : Bool :=
  (0x1C0 ≤ op && op ≤ 0x1C7) || op == 0x28C || (0x2A1 ≤ op && op ≤ 0x2A3) || op == 0x306 || op == 0x307

/-- Is the instruction at a thread's address one of them? -/
def State.pairedAt (s : State) (tk : Task) (pc : Nat) : Bool :=
  match s.peekWord tk pc with
  | some w => w.toNat % 4 != 0 && pairedOp (w.toNat / 4 % 1024)
  | none => false

/-- The candidate that a ready thread belongs to. -/
def State.candOf (s : State) (r : Ready) : CandKey :=
  let w := r.tk.width
  { slot := slotOf w r.t.tid, pc := r.t.pc,
    warp := if s.pairedAt r.tk r.t.pc.toNat then some (r.tm.borrower, warpOf w r.t.tid) else none,
    inRoutine := r.t.routine.isSome, iter := r.t.repIter }

/-- The ready threads of a squad at addresses that have an entry, each with its candidate. -/
def State.candThreads (s : State) (h : Huddle) (rs : List Ready) : List (CandKey × Ready) :=
  (rs.filter fun r => h.entries.contains r.t.pc).map fun r => (s.candOf r, r)

/-- A number that orders candidates of equal count (R306 rule 3): the address, then the warp (a host's before a borrower's),
the routine part, the repeat part and the iteration. -/
def CandKey.rank (c : CandKey) : Nat :=
  let b := fun (x : Bool) => if x then 1 else 0
  let warp := c.warp.elim 0 fun (borrower, k) => 512 * b borrower + k
  (((c.pc.toNat * 1024 + warp) * 2 + b c.inRoutine) * 2 + b c.iter.isSome) * 65536 + c.iter.getD 0

/-- The count of clocks passed over of a candidate, the current one included. -/
def Huddle.passedBy (h : Huddle) (c : CandKey) : Nat := ((h.passed.find? fun x => x.1 == c).map (·.2)).getD 0
/-- Clocks for which a candidate has been passed over before this one. -/
def Huddle.agedBy (h : Huddle) (c : CandKey) : Nat := h.passedBy c - 1

/-- Distinct lanes of a candidate's threads. -/
def laneCount (rs : List Ready) : Nat := ((rs.map fun r => laneOf r.tk.width r.t.tid).dedup).length

/-- Is candidate `a` served before `b` (R306 rules 1 to 3)? `age` is 0 below 256 clocks. -/
def servedBefore (a b : CandKey × Nat × Nat) : Bool :=
  let (ka, agea, na) := a
  let (kb, ageb, nb) := b
  if agea ≠ ageb then decide (ageb < agea)
  else if agea = 0 ∧ na ≠ nb then decide (nb < na)
  else decide (ka.rank ≤ kb.rank)

/-- The candidate that a slot serves. -/
def State.pick (s : State) (h : Huddle) (slot : Nat) (rs : List Ready) : Option (CandKey × List Ready) :=
  let cs := (s.candThreads h rs).filter fun x => x.1.slot == slot
  let keys := (cs.map (·.1)).dedup
  let scored := keys.map fun k =>
    let age := h.agedBy k
    (k, (if 256 ≤ age then age else 0), laneCount ((cs.filter fun x => x.1 == k).map (·.2)))
  ((sortBy servedBefore scored).head?).map fun x => (x.1, (cs.filter fun y => y.1 == x.1).map (·.2))

/-- One thread for each lane, in lane order: a host's before a borrower's, then that of the lower-numbered warp (R306). -/
def groupMembers (rs : List Ready) : List Ready :=
  let lane := fun (r : Ready) => laneOf r.tk.width r.t.tid
  let rank := fun (r : Ready) => (if r.tm.borrower then 512 else 0) + warpOf r.tk.width r.t.tid
  let sorted := sortBy (fun (a b : Ready) => decide (lane a < lane b) || (lane a == lane b && decide (rank a ≤ rank b))) rs
  let rec firsts : Option Nat → List Ready → List Ready
    | _, [] => []
    | last, r :: rest => if last = some (lane r) then firsts last rest else r :: firsts (some (lane r)) rest
  firsts none sorted

/-- The part of a group that issues as one: the threads of one team whose repeat has one stride and mask. -/
def Ready.part (r : Ready) : Bool × BitVec 8 × BitVec 4 :=
  (r.tm.borrower, if r.t.rep.remaining = 0 then (0, 0) else (r.t.rep.stride, r.t.rep.mask))

/-- The groups that a served candidate's members form, the host's first. -/
def groupsOf (core : Nat) (k : CandKey) (rs : List Ready) : List Group :=
  ((rs.map Ready.part).dedup).filterMap fun p =>
    match rs.filter fun r => r.part == p with
    | [] => none
    | r :: rest => some { task := r.tk.id, team := r.tm.team, core := core, addr := k.pc,
                          members := (r :: rest).map (·.t.tid), inRoutine := k.inRoutine, iter := k.iter }

/-- The threads of a squad that were ready when the clock began and still are (R307). -/
def State.readyNow (s : State) (core squad : Nat) : List Ready :=
  (s.readyOf core squad).filter fun r => (s.huddle core squad).ready.contains (r.t.key r.tm)

/-- Counts of a slot's candidates that have no ready thread any more are 0 (R306 rule 1). -/
def Huddle.forget (h : Huddle) (slot : Nat) (keys : List CandKey) : Huddle :=
  { h with passed := h.passed.filter fun x => x.1.slot != slot || keys.contains x.1 }

/-- The event ISSUE_SLOT_SERVICE: the slot serves one candidate in the clock (R306). -/
def execIssueSlotService (core squad slot : Nat) (s : State) : Out :=
  if s.cur.isSome || !s.ready || (s.huddle core squad).served.any (·.slot == slot) then .next s
  else
    let rs := s.readyNow core squad
    let h := (s.huddle core squad).forget slot ((s.candThreads (s.huddle core squad) rs).map (·.1))
    match s.pick h slot rs with
    | none => .next (s.setHuddle core squad h)
    | some (k, members) =>
      match groupsOf core k (groupMembers members) with
      | [] => .next s
      | g :: gs => .next { s.setHuddle core squad { h with served := k :: h.served } with cur := some g, curRest := gs }

/-- The event AGING: a clock begins. The ready threads of the squad take their entries. Every candidate with a ready thread
counts the clock, from 0 if it was served in the clock before; the count of one without is 0 (R305, R306 rule 1). -/
def execAging (core squad : Nat) (s : State) : Out :=
  let rs := s.readyOf core squad
  let h := (s.huddle core squad).refresh (rs.map (·.t.pc))
  let keys := ((s.candThreads h rs).map (·.1)).dedup
  let passed := keys.map fun k => (k, (if h.served.contains k then 0 else h.passedBy k) + 1)
  .next (s.setHuddle core squad { h with ready := rs.map (fun r => r.t.key r.tm), passed := passed, served := [] }).tick

/-! ## The watchdog (R308) -/

/-- Threads of a squad whose count has reached the limit. -/
def State.overdue (s : State) (core squad : Nat) : List Ready :=
  (s.readyOf core squad).filter fun r => decide (2 ^ r.tk.wdlog ≤ r.t.dog)

/-- Count the clock for the ready threads of a squad; the count of a thread that is not ready is 0. -/
def State.countDogs (s : State) (core squad : Nat) : State :=
  let ready := (s.readyOf core squad).map fun r => r.t.key r.tm
  { s with teams := mapIf (fun tm => tm.core == core) (fun tm =>
      let w := ((s.task? tm.task).map (·.width)).getD 16
      tm.modThreads (fun t => squadOf w t.tid == squad) fun t =>
        { t with dog := if ready.contains (t.key tm) then t.dog + 1 else 0 }) s.teams }

/-- The event WATCHDOG: the counts of the clock before are compared with 2^WDLOG, and a count that has reached it ends the
task; the clock that begins is then counted, and a thread that issues in it clears its count. -/
def execWatchdog (core squad : Nat) (s : State) : Out :=
  match s.overdue core squad with
  | [] => .next (s.countDogs core squad).tick
  | r :: rest =>
    let late := (r :: rest).filter fun x => x.tm.team == r.tm.team && x.tk.id == r.tk.id && x.t.pc == r.t.pc
    .next (s.lateThreads r.tk r.tm (late.map (·.t))).settle.tick

end Sys2Proof.Machine
end

