-- ==== Sys2Proof/Machine/Pages.lean ====
section
/-!
DEFINITION. The management core's work on pages and leases: class changes (spec/17 R344, spec/09 R224), shootdowns
(spec/18 R368), migration (R373, R374), grants and revocations of leases (R370, R372).

A class change and a migration take several steps. The event that names one begins it when the page is not held, drains
the page while it is, and completes it once the page is quiet; `none` as a result says that it has not completed.
-/
namespace Sys2Proof.Machine

open Sys2Proof

/-! ## A page -/

/-- The mapping that a leaf gives: the entry and where it lies, the first byte and log2 of the size of the physical page,
the first virtual byte. -/
structure Leaf where
  ctx : Nat
  pte : BitVec 64
  addr : Nat
  base : Nat
  size : Nat
  va : Nat
  deriving DecidableEq, Repr

def State.leaf? (s : State) (ctx va : Nat) : Option Leaf :=
  match s.walk ctx va, s.leafAddr ctx va with
  | .leaf e base size, some a => some { ctx := ctx, pte := e, addr := a, base := base, size := size, va := va / 2 ^ size * 2 ^ size }
  | _, _ => none

/-- Its 64 KiB pages, by number. -/
def Leaf.pages (l : Leaf) : List Nat := (List.range (2 ^ (l.size - 16))).map fun j => l.va / 65536 + j
/-- Does a place lie in the page? -/
def Leaf.has (l : Leaf) (p : Place) : Bool :=
  p.space == pteSpace l.pte && decide (l.base ≤ p.addr) && decide (p.addr < l.base + 2 ^ l.size)
/-- Does a line of this device's memory? -/
def Leaf.hasLine (l : Leaf) (line : Nat) : Bool := l.has (devPlace line)

/-- The entry is written. -/
def State.writePte (s : State) (l : Leaf) (e : BitVec 64) : State := { s with mem := Memory.put s.mem l.addr (leBytes 8 e.toNat) }

/-- The buffer entries for pages `first` to `first + n - 1` of a context leave every core (R368). -/
def State.shootdown (s : State) (ctx first n : Nat) : State :=
  { s with ltb := s.ltb.filter fun x => !(x.ctx == ctx && decide (first ≤ x.page) && decide (x.page < first + n)) }
def State.shootLeaf (s : State) (l : Leaf) : State := s.shootdown l.ctx (l.va / 65536) (2 ^ (l.size - 16))

/-- Accesses to the page are held from now on (R160). -/
def State.holdLeaf (s : State) (l : Leaf) : State :=
  { s with heldPages := s.heldPages ++ (l.pages.filter fun n => !s.heldPages.contains (l.ctx, n)).map fun n => (l.ctx, n) }
def State.leafHeld (s : State) (l : Leaf) : Bool := s.heldPages.contains (l.ctx, l.va / 65536)

/-- The held accesses of pages are presented again: their threads are ready. -/
def State.wakeHeld (s : State) (ctx : Nat) (pages : List Nat) : State :=
  let wake := fun (t : Thread) => match t.wait with
    | .held c n => if c = ctx ∧ pages.contains n = true then { t with wait := .none } else t
    | _ => t
  { s with heldPages := s.heldPages.filter (fun x => !(x.1 == ctx && pages.contains x.2)),
           teams := s.teams.map fun tm => { tm with threads := tm.threads.map wake } }

/-! ## Draining a page (R344 step 3, R373 step 2) -/

/-- Does a message under way concern the page? -/
def Leaf.inMsg (l : Leaf) : Msg → Bool
  | .contribution line _ _ _ _ _ _ _ | .reg _ line _ | .regack _ line | .collect _ line | .surr _ line _ _ _ |
    .surrE _ line _ _ | .none_ _ line | .backInval _ line => l.hasLine line
  | .store _ w => l.has w.place
  | .token p _ _ _ | .probe p _ _ _ _ | .probeAck p _ _ _ | .pass p _ _ _ _ _ _ _ _ => l.has p
  | .remote _ _ q _ _ => q.place?.any l.has
  | .hostWrite _ a _ => l.has { space := .host, addr := a }
  | .load _ _ _ | .mgmtReply _ _ _ | .passOutcome _ _ _ | .chunk _ _ _ _ _ _ => false

/-- Is nothing of the page under way: no accepted store, no message, no cell, no partial, no bowl entry? -/
def State.quiet (s : State) (l : Leaf) : Bool :=
  (s.teams.all fun tm => tm.warps.all fun w => w.queue.all fun q => !q.place?.any l.has) && s.net.all (fun m => !l.inMsg m) &&
    (s.cells.all fun c => !l.hasLine c.line) && (s.partials.all fun c => !l.hasLine c.line) &&
    s.bowls.all fun b => !l.hasLine b.line

/-- Drain as far as possible: dirty PV bytes go home, the bowls are emptied, cells are gathered. -/
def State.drainPage (s : State) (l : Leaf) : State :=
  let s := s.l1Clean fun x => l.has x.place
  let s := (s.bowls.filter fun b => l.hasLine b.line).foldl State.emitBowl s
  s.gatherAll ((s.cells.filter fun c => l.hasLine c.line).map fun c => devPlace c.line)

/-- The physical page of a leaf. -/
def Leaf.span (l : Leaf) : Span := { space := pteSpace l.pte, base := l.base, size := 2 ^ l.size, cls := Cls.ofCode (pteClass l.pte) }

/-- Every L1 and L2 line and every replica of a physical page is dropped; dirty bytes go home. -/
def State.dropSpan (s : State) (x : Span) : State :=
  let s := s.l1Evict fun y => x.has y.place
  { s with l2 := s.l2.filter (fun y => !x.has y.place), replicas := s.replicas.filter (fun y => !x.has y.place),
           wsStores := s.wsStores.filter fun y => !y.bytes.any fun b => x.has { space := y.space, addr := b.1 } }
def State.dropPage (s : State) (l : Leaf) : State := s.dropSpan l.span

/-- The replicas of the page are dropped (R374). -/
def State.dropReplicas (s : State) (l : Leaf) : State :=
  { s with replicas := s.replicas.filter fun y => !l.has y.place }

/-- Does a running ordered launch hold the page (R247), or do its records reach it? -/
def State.ordHolds (s : State) (l : Leaf) : Bool :=
  s.tasks.any fun t => t.ordered && !t.isOver && (s.reached t).any fun x => x.cls == .ord && x.meets l.span
def State.ordReaches (s : State) (l : Leaf) : Bool :=
  s.tasks.any fun t => t.ordered && !t.isOver && (s.reached t).any fun x => x.meets l.span

/-- Does the page lie in the CXL.mem window? -/
def Leaf.inWindow (l : Leaf) : Bool :=
  pteSpace l.pte == .dev && decide (cxlBase < l.base + 2 ^ l.size) && decide (l.base < cxlBase + 2 ^ 36)

/-! ## Every leaf -/

/-- Entries of a table that are not all zeros in memory, by index: the bytes that memory lists. -/
def State.tableEntries (s : State) (tab n : Nat) : List Nat :=
  ((s.mem.filter fun x => tab ≤ x.1 ∧ x.1 < tab + 8 * n).map fun x => (x.1 - tab) / 8).dedup

/-- The leaves below a table. -/
def State.leavesFrom (s : State) (ctx tab va : Nat) : List (Nat × Nat × Nat) → List Leaf
  | [] => []
  | (lvl, sh, nb) :: rest =>
    (s.tableEntries tab (2 ^ nb)).flatMap fun k =>
      let a := tab + 8 * k
      let e := BitVec.ofNat 64 (Memory.nat s.mem a 8)
      let v := va + k * 2 ^ sh
      if !pteValid e then []
      else if pteLeaf e then
        if lvl ≠ 3 ∧ leafOk e sh = true then [{ ctx := ctx, pte := e, addr := a, base := ptePa e, size := sh, va := v }] else []
      else State.leavesFrom s ctx (ptePa e) v rest

/-- Every leaf of every context. -/
def State.leaves (s : State) : List Leaf :=
  (s.tableEntries s.cxtab 65536).flatMap fun ctx => s.leavesFrom ctx (Memory.nat s.mem (s.cxtab + 8 * ctx) 8) 0 walkLevels

/-- The leaves that map a frame of this device. -/
def State.leavesOf (s : State) (p : Nat → Bool) : List Leaf :=
  s.leaves.filter fun l => pteSpace l.pte == .dev && (List.range (2 ^ (l.size - 16))).any fun j => p (l.base / 65536 + j)

/-- The frames of this device that the page takes, by number. -/
def Leaf.frames (l : Leaf) : List Nat :=
  if pteSpace l.pte == .dev then (List.range (2 ^ (l.size - 16))).map fun j => l.base / 65536 + j else []

/-- Do two leaves map the same physical page in one context? -/
def Leaf.same (a b : Leaf) : Bool := a.ctx == b.ctx && a.base == b.base && a.size == b.size && pteSpace a.pte == pteSpace b.pte

/-! ## A frame that passes to another context (R377) -/

/-- The frames of a page that its context no longer maps: they are the context's until another maps them. -/
def State.freeFrames (s : State) (ctx : Nat) (frames : List Nat) : State :=
  { s with freed := frames.foldl (fun m f => Sparse.set 0 m f (ctx + 1)) s.freed }

/-- A frame whose bytes have all been written by a copy has no previous owner. -/
def State.takeFrames (s : State) (first n : Nat) : State :=
  { s with freed := s.freed.filter fun x => !(decide (first ≤ x.1) && decide (x.1 < first + n)) }

/-- A context maps a page: of its frames those that another context owned before are zeroed, and their lines are dropped (R377). -/
def State.claimFrames (s : State) (l : Leaf) : State :=
  let old := l.frames.filter fun f => Sparse.get 0 s.freed f != 0 && Sparse.get 0 s.freed f != l.ctx + 1
  let s := old.foldl (fun s f =>
    let s := s.dropSpan { space := .dev, base := 65536 * f, size := 65536, cls := .rc }
    { s with mem := Memory.clear s.mem (65536 * f) 65536 }) s
  { s with freed := s.freed.filter fun x => !l.frames.contains x.1 }

/-- What a write of page table entries brings about, `old` being the leaves before it: frames become free, and pass to contexts (R377);
pages whose MIG is set begin to migrate, and lose their replicas (R373, R374); an address that is now mapped is no longer one of which
the residency duty has been told (R375). -/
def State.tablesWritten (s : State) (old : List Leaf) : State :=
  let new := s.leaves
  let made := new.filter fun l => !old.any l.same
  let moved := new.filter fun l => pteMig l.pte && old.any fun o => o.ctx == l.ctx && o.va == l.va && !pteMig o.pte
  let kept := (new.filter fun l => old.any l.same).flatMap Leaf.frames
  let gone := (old.filter fun l => !new.any l.same).map fun (l : Leaf) => (l.ctx, l.frames.filter fun f => !kept.contains f)
  let s := gone.foldl (fun s x => s.freeFrames x.1 x.2) s
  let s := moved.foldl State.dropReplicas (made.foldl State.claimFrames s)
  { s with
    hostMoves := (s.hostMoves ++ moved.map fun (l : Leaf) => (l.ctx, l.va / 65536)).filter fun x =>
      new.any fun l => l.ctx == x.1 && l.va / 65536 == x.2 && pteMig l.pte
    residNotices := s.residNotices.filter fun x => !new.any fun l => l.ctx == x.1 && l.pages.contains x.2.1 }

/-! ## Class changes (R344) -/

/-- One step of a class change. The result is that of R412; a change that is rejected for the window or for its operands
answers 3. -/
def State.changeClass (s : State) (ctx va cls : Nat) : State × Option Nat :=
  match s.leaf? ctx va with
  | none => (s, some 3)
  | some l =>
    if 4 < cls ∨ (l.inWindow = true ∧ (cls = 2 ∨ cls = 4)) then (s, some 3)
    else if pteMig l.pte then (s, none)
    else if s.leafHeld l then
      if pteClass l.pte ≠ cls then (s, none)
      else if s.quiet l then ((s.dropPage l).wakeHeld ctx l.pages, some 0)
      else (s.drainPage l, none)
    else if s.ordHolds l || (cls == 2 && s.ordReaches l) then (s, none)
    else (((s.writePte l (setField l.pte 4 3 cls)).shootLeaf l |>.holdLeaf l).drainPage l, none)

/-- Is the command that the device performs this one (R412)? -/
def State.commandIs (s : State) (opc : Nat) : Bool := s.command.any fun c => c.1.toNat % 256 == opc

/-- A command that took several steps is done: RESULT is written and BUSY falls. -/
def State.endCommand (s : State) (result : Nat) : State :=
  { (s.setMstat 1 7 result).setMstat 0 1 0 with command := none, commandWritten := false }

/-- Has the management core begun a change of the page, which it completes whoever has the duty since (R313)? -/
def State.changeBegun (s : State) (ctx va : Nat) : Bool :=
  (s.leaf? ctx va).any fun l => s.leafHeld l && !pteMig l.pte && !s.commandIs 5

/-- The event CLASS_CHANGE: by the management core, or for the host's CLASSCHG. -/
def execClassChange (ctx : Nat) (va : BitVec 57) (cls : BitVec 3) (s : State) : Out :=
  let mine := s.command.any fun c => c.1.toNat % 256 == 5 && bitsNat c.2 0 16 == ctx && bitsNat c.2 64 57 == va.toNat &&
    bitsNat c.2 192 8 == cls.toNat
  if !s.ready || (s.dutyResid && !mine && !s.changeBegun ctx va.toNat) then .next s
  else
    let (s1, r) := s.changeClass ctx va.toNat cls.toNat
    .next (match r with
      | some r => if mine then s1.endCommand r else s1
      | none => s1).tick

/-! ## Leases (R369 to R372) -/

/-- The address of a lease's directory entry, and the entry. -/
def State.leaseEntry (s : State) (lease : Nat) : BitVec 64 := BitVec.ofNat 64 (Memory.nat s.mem (s.lsdir + 8 * lease) 8)
def State.setLeaseEntry (s : State) (lease : Nat) (e : BitVec 64) : State :=
  { s with mem := Memory.put s.mem (s.lsdir + 8 * lease) (leBytes 8 e.toNat) }
/-- The ranges of a lease's list. -/
def State.leaseList (s : State) (lease : Nat) : List (Nat × Nat × Bool) :=
  s.leaseRanges 4096 (16 * bitsNat (s.leaseEntry lease) 4 53)

/-- The contexts of the bind records that name a lease. -/
def State.leaseCtxs (s : State) (lease : Nat) : List Nat :=
  ((s.slots.filter fun x => x.2.state != .free && bindLease x.2.rec0 == lease).map fun x =>
    chainCtx (s.chain (bindChain x.2.rec0))).dedup

/-- Is every page of a range mapped by a leaf that passes R366 (R370)? -/
def State.rangeResident (s : State) (ctx : Nat) (r : Nat × Nat × Bool) : Bool :=
  (List.range r.2.1).all fun j => match s.walk ctx (65536 * (r.1 + j)) with
    | .leaf _ _ _ => true
    | .bad => false
    | .hole _ => false

/-- Grant a lease: only when every range is resident. A lease that no bind record names has no context to test. -/
def State.grantLease (s : State) (lease : Nat) : State × Nat :=
  let ctxs := s.leaseCtxs lease
  if 65536 ≤ lease ∨ (physHole (s.lsdir + 8 * lease) 8).isSome then (s, 3)
  else if !ctxs.isEmpty && ctxs.all (fun c => (s.leaseList lease).all (s.rangeResident c)) && !(s.leaseList lease).isEmpty then
    ({ s.setLeaseEntry lease (setField (s.leaseEntry lease) 63 1 1) with revoked := s.revoked.filter fun x => x.1 != lease }, 0)
  else (s, 3)

/-- Pages that two ranges share. -/
def meetRange (a b : Nat × Nat) : Option (Nat × Nat) :=
  let lo := max a.1 b.1
  let hi := min (a.1 + a.2) (b.1 + b.2)
  if lo < hi then some (lo, hi - lo) else none

/-- A range without the pages of another. -/
def cutRange (b : Nat × Nat) (a : Nat × Nat × Bool) : List (Nat × Nat × Bool) :=
  match meetRange (a.1, a.2.1) b with
  | none => [a]
  | some (lo, n) =>
    ([(a.1, lo - a.1, a.2.2), (lo + n, a.1 + a.2.1 - (lo + n), a.2.2)] : List (Nat × Nat × Bool)).filter fun x => x.2.1 != 0

/-- A range entry (R369). -/
def rangeEntry (r : Nat × Nat × Bool) (last : Bool) : BitVec 128 :=
  BitVec.ofNat 128 (r.1 % 2 ^ 41 + r.2.1 % 2 ^ 41 * 2 ^ 56 + (if r.2.2 then 2 ^ 97 else 0) + if last then 2 ^ 98 else 0)

/-- The ranges that a revocation under way has removed from a lease's list (R372). -/
def State.removedRanges (s : State) (lease : Nat) (old : List (Nat × Nat × Bool)) : List (Nat × Nat) :=
  let now := if bitAt (s.leaseEntry lease) 63 then s.leaseList lease else []
  ((now.foldl (fun rs b => rs.flatMap (cutRange (b.1, b.2.1))) old)).map fun r => (r.1, r.2.1)

/-- Step 3 of R372: of what the revocations under way have removed, the pages of a shootdown are revoked. -/
def State.revokeShot (s : State) (ctx first n : Nat) : State :=
  { s with revoked := s.revoked ++ s.revoking.flatMap fun (k, old) =>
      if (s.leaseCtxs k).contains ctx then
        (s.removedRanges k old).filterMap fun r => (meetRange r (first, n)).map fun g => (k, g.1, g.2)
      else [] }

/-- A directory entry of a lease is written: with REVOKING set a revocation begins; with it cleared the revocation is over, and all that it
has removed is revoked (R372). -/
def State.leaseWritten (s : State) (lease : Nat) (before : BitVec 64) (old : List (Nat × Nat × Bool)) : State :=
  let now := bitAt (s.leaseEntry lease) 62
  if now && !bitAt before 62 then { s with revoking := (lease, old) :: s.revoking.filter fun x => x.1 != lease }
  else if !now && bitAt before 62 then
    { s with
      revoked := s.revoked ++ (s.revoking.filter fun x => x.1 == lease).flatMap fun x => (s.removedRanges lease x.2).map fun r => (lease, r.1, r.2)
      revoking := s.revoking.filter fun x => x.1 != lease }
  else s

/-- The list is rewritten. -/
def State.writeLeaseList (s : State) (lease : Nat) (rs : List (Nat × Nat × Bool)) : State :=
  let a := 16 * bitsNat (s.leaseEntry lease) 4 53
  { s with mem := ((List.range rs.length).zip rs).foldl (fun m (j, r) =>
      Memory.put m (a + 16 * j) (leBytes 16 (rangeEntry r (j + 1 == rs.length)).toNat)) s.mem }

/-- Revoke ranges of a lease (R372): REVOKING is set, the list is rewritten, the removed pages are shot down, REVOKING is
cleared; with no range left GRANTED falls. From then on the removed pages are refused as revoked. -/
def State.revokeLease (s : State) (lease : Nat) (removed : List (Nat × Nat)) : State :=
  let old := s.leaseList lease
  let new := removed.foldl (fun rs b => rs.flatMap (cutRange b)) old
  let gone := old.flatMap fun a => removed.filterMap fun b => meetRange (a.1, a.2.1) b
  let s1 := s.setLeaseEntry lease (setField (s.leaseEntry lease) 62 1 1)
  let s2 := if new.isEmpty then s1.setLeaseEntry lease (setField (s1.leaseEntry lease) 63 1 0) else s1.writeLeaseList lease new
  let s3 := (s.leaseCtxs lease).foldl (fun s c => gone.foldl (fun s g => s.shootdown c g.1 g.2) s) s2
  let s4 := s3.setLeaseEntry lease (setField (s3.leaseEntry lease) 62 1 0)
  { s4 with revoked := s4.revoked ++ gone.map fun g => (lease, g.1, g.2) }

/-- The event LEASE_GRANT, by the management core. -/
def execLeaseGrant (lease : Nat) (s : State) : Out :=
  if s.ready && !s.dutyResid then .next (s.grantLease lease).1.tick else .next s

/-- The event LEASE_REVOCATION: `ranges` are the removed ranges, as range entries. -/
def execLeaseRevocation (lease : Nat) (ranges : List (BitVec 128)) (s : State) : Out :=
  if s.ready && !s.dutyResid && lease < 65536 && (physHole (s.lsdir + 8 * lease) 8).isNone then
    .next (s.revokeLease lease (ranges.map fun e => (bitsNat e 0 41, bitsNat e 56 41))).tick
  else .next s

/-! ## Shootdowns (R368) -/

/-- The leaves with MIG = 1 that a range of virtual addresses meets. -/
def State.migLeaves (s : State) (ctx va len : Nat) : List Leaf :=
  if len = 0 then []
  else (List.range ((va + len - 1) / 65536 + 1 - va / 65536)).filterMap fun j =>
    (s.leaf? ctx (65536 * (va / 65536 + j))).filter fun l => pteMig l.pte

/-- The event TRANSLATION_SHOOTDOWN. Ranges that a revocation under way has removed are revoked from now on (R372). For the host's XLSHOOT
of migrating pages it also performs step 2 of R373, and the command is done when they are quiet and their lines are dropped (R354,
R413). -/
def execTranslationShootdown (ctx va len : Nat) (s : State) : Out :=
  if !s.ready then .next s
  else
    let n := if len = 0 then 0 else (va + len - 1) / 65536 + 1 - va / 65536
    let s1 := (s.shootdown ctx (va / 65536) n).revokeShot ctx (va / 65536) n
    let mine := s.command.any fun c => c.1.toNat % 256 == 4 && bitsNat c.2 0 16 == ctx && bitsNat c.2 64 64 == va &&
      bitsNat c.2 128 64 == len
    if mine then
      let ls := s1.migLeaves ctx va len
      let s2 := ls.foldl (fun s l => (s.holdLeaf l).drainPage l) s1
      .next (if ls.all s2.quiet then (ls.foldl State.dropPage s2).endCommand 0 else s2).tick
    else .next s1.tick

/-! ## Migration (R373) -/

/-- Has a 64 KiB frame a line that is homed in a slice of a league? -/
def frameIn (league frame : Nat) : Bool := (List.range 512).any fun j => Config.homeSlice (512 * frame + j) % 64 / 4 == league

/-- May a physical page go to `pa`: none of its frames is retired (R405, R408)? -/
def State.frameOk (s : State) (pa size : Nat) : Bool :=
  pa % 2 ^ size == 0 && decide (pa + 2 ^ size ≤ physLimit) &&
    (s.retired.all fun f => decide (f < pa / 65536) || decide ((pa + 2 ^ size) / 65536 ≤ f)) &&
    !s.lostUnits.any fun u => (List.range (2 ^ (size - 16))).any fun j => frameIn u (pa / 65536 + j)

/-- The new home that the operand of MIGRATION names: an address in this device, in host memory from 2^60 on, and in the memory of device
`d` from 2^61 + `d` × 2^52 on. DESIGN CHOICE (log entry 70): the spec gives the event no operand. -/
def homeOf (pa : Nat) : Place :=
  if pa < 2 ^ 60 then devPlace pa
  else if pa < 2 ^ 61 then { space := .host, addr := pa - 2 ^ 60 }
  else { space := .remote ((pa - 2 ^ 61) / 2 ^ 52 % 1024), addr := (pa - 2 ^ 61) % 2 ^ 52 }

/-- May a page go to a place? -/
def State.homeOk (s : State) (p : Place) (size : Nat) : Bool :=
  match p.space with
  | .dev => s.frameOk p.addr size
  | .host | .remote _ => p.addr % 2 ^ size == 0 && decide (p.addr + 2 ^ size ≤ 2 ^ 52)

/-- The entry of a page at its new home, with MIG = 0. -/
def movedPte (e : BitVec 64) (p : Place) : BitVec 64 :=
  let e := setField (setField e 24 40 (p.addr / 4096)) 7 3 0
  match p.space with
  | .dev => setField e 12 10 0
  | .host => setField (setField e 12 10 0) 8 1 1
  | .remote d => setField (setField e 12 10 d) 9 1 1

/-- The bytes of a page are copied to its new home. Those of another device's memory are free values, and what goes to another device is
that device's (R356). -/
def State.copyPage (s : State) (src dst : Place) (n : Nat) : State :=
  match src.space, dst.space with
  | .dev, .dev => { s with mem := Memory.copyRange s.mem src.addr dst.addr n }
  | .dev, .host => { s with hostMem := Memory.copyFrom s.mem s.hostMem src.addr dst.addr n }
  | .host, .dev => { s with mem := Memory.copyFrom s.hostMem s.mem src.addr dst.addr n }
  | .host, .host => { s with hostMem := Memory.copyRange s.hostMem src.addr dst.addr n }
  | .remote _, .dev => { s with mem := Memory.put s.mem dst.addr ((List.range n).map (Config.freeByte (s.key 0))) }
  | .remote _, .host => { s with hostMem := Memory.put s.hostMem dst.addr ((List.range n).map (Config.freeByte (s.key 0))) }
  | _, .remote _ => s

/-- Steps 3 to 5 of R373: no line of the new home is in a cache, the old home's frame is free, and the held accesses are presented
again. -/
def State.finishMove (s : State) (l : Leaf) (p : Place) : State :=
  let s := (s.dropPage l).dropSpan { l.span with space := p.space, base := p.addr }
  let s := s.copyPage { space := pteSpace l.pte, addr := l.base } p (2 ^ l.size)
  let s := match p.space with
    | .dev => (s.freeFrames l.ctx l.frames).takeFrames (p.addr / 65536) (2 ^ (l.size - 16))
    | .host | .remote _ => s.freeFrames l.ctx l.frames
  let s := (s.writePte l (movedPte l.pte p)).shootLeaf l
  { s.wakeHeld l.ctx l.pages with moves := s.moves.erase (l.ctx, l.va / 65536) }

/-- The event MIGRATION: the management core moves a page of any home to the place that `pa` names. One of a page that a running ordered
launch holds waits (R373). What it has begun it completes, whoever has the duty since (R313). -/
def execMigration (ctx : Nat) (va : BitVec 57) (pa : Nat) (s : State) : Out :=
  match s.leaf? ctx va.toNat with
    | none => .next s
    | some l =>
      if !s.ready || (s.dutyMigr && !s.moves.contains (ctx, l.va / 65536)) then .next s
      else if !s.homeOk (homeOf pa) l.size then .next s
      else if pteMig l.pte then
        if s.quiet l then .next (s.finishMove l (homeOf pa)).tick else .next (s.drainPage l).tick
      else if s.leafHeld l || s.ordHolds l then .next s
      else
        let s1 := ((s.writePte l (setField l.pte 7 1 1)).shootLeaf l |>.holdLeaf l).drainPage l
        .next { s1 with moves := (ctx, l.va / 65536) :: s.moves }.tick

end Sys2Proof.Machine
end

