-- ==== Sys2Proof/Machine/Remote.lean ====
section
/-!
DEFINITION. Other devices and the host's memory traffic (spec/15 R316, R317, spec/17 R355, R356, spec/18 R375, spec/10
R247, spec/11 R268): writes of this device that another performs, requests of remote initiators at this device, host stores
and snoops.
-/
namespace Sys2Proof.Machine

open Sys2Proof

/-! ## Requests that left this device (R316) -/

/-- Bytes that another device's memory holds: any. -/
def State.freeBytes (s : State) (a n : Nat) : List Byte := (List.range n).map fun j => Config.freeByte (s.key 1) (a + j)

/-- Data comes back to a thread, whose acquire takes effect on its core. -/
def State.remoteReply (s : State) (owner : ThreadKey) (dest : LoadDest) (bs : List Byte) (acq : Option Scope) : State :=
  let s := s.reply owner dest bs
  match s.coreOf owner.task owner.team with
  | some core => s.acquireIf core acq
  | none => s

/-- The request has been performed at its home device: an atomic returns the old value found there. -/
def State.remoteDone (s : State) (owner : ThreadKey) (q : QItem) : State :=
  match q with
  | .atom _ p _ op dst how =>
    if how.silent then s else s.remoteReply owner (.regs dst op.width) (s.freeBytes p.addr op.size) how.acq
  | .ldaccZero _ p _ dst how =>
    if how.silent then s else s.remoteReply owner (.la dst) (cellBytes (cellOf (s.freeBytes p.addr 128))) how.acq
  | .store _ | .aacc _ _ _ _ _ | .release _ _ => s

/-- The class that a write or atomic carries (R345). -/
def QItem.cls? : QItem → Option Cls
  | .store w => some w.cls
  | .atom _ _ cls _ _ _ | .aacc _ _ cls _ _ | .ldaccZero _ _ cls _ _ => some cls
  | .release _ _ => none

/-- The copy that a write completes (R175). -/
def State.copyOf (s : State) (q : QItem) : Option CopyRec :=
  match q with
  | .store w => w.copy.bind fun id => s.copies.find? fun r => r.id == id
  | .atom _ _ _ _ _ _ | .aacc _ _ _ _ _ | .ldaccZero _ _ _ _ _ | .release _ _ => none

/-- What an item keeps of its instruction. -/
def QItem.via : QItem → Via
  | .store w => w.via
  | .atom _ _ _ _ _ h | .ldaccZero _ _ _ _ h => h.via
  | .aacc _ _ _ _ v => v
  | .release _ _ => {}

/-- A fault that is found after its instruction has retired ends the task (R160, R404). The record shows what `v` keeps of the
instruction, and where the thread stands in place of what it does not keep (R389). -/
def State.endTaskLate (s : State) (owner : ThreadKey) (cause reason : Nat) (v : Via := {}) : State :=
  match s.task? owner.task with
  | none => s
  | some tk =>
    let pc := v.pc.getD (((s.thread? owner).map fun t => t.pc.toNat).getD tk.entry)
    let f : FaultInfo := { FaultInfo.plain cause reason [owner.tid] with
      buf := v.buf, details := [{ tid := owner.tid, index := none, faddr := v.va, opnd := none }] }
    let rec0 := faultRecord tk owner.team pc f v.iter owner.tid
    (s.modThread owner fun t => { t with fault := rec0 }).endTaskFault tk rec0

/-- Does an item of thread `ow` come after one that is never complete, the item `g` of thread `k`: a later write of that thread to the
line, or a higher lane of its instruction (R164, R316)? -/
def QItem.behind (q : QItem) (ow k : ThreadKey) (g : QItem) : Bool :=
  (ow == k && g.place?.any fun x => q.place?.any fun y => y.line == x.line) || q.how?.any fun h => g.before h

/-- A queue without what is never performed: the items that `gone` names, and what a thread has behind a release at .sy that follows a
lost write of it (R317). `lost` are the threads with a lost write before, `stopped` those with such a release before; the lost items
come second. -/
def cutQueue (gone : QItem → Bool) : List ThreadKey → List ThreadKey → List QItem → List QItem × List QItem
  | _, _, [] => ([], [])
  | lost, stopped, q :: rest =>
    let ow := q.owner
    let stop := match q with
      | .release _ .sy => lost.contains ow
      | _ => false
    if stop || stopped.contains ow || gone q then
      let (kept, cut) := cutQueue gone (ow :: lost) (if stop then ow :: stopped else stopped) rest
      (kept, q :: cut)
    else
      let (kept, cut) := cutQueue gone lost stopped rest
      (q :: kept, cut)

/-- The writes `gone` are never complete: what comes after one of them is never performed either, and so on (R164, R316, R317). The
fuel bounds the rounds. -/
def State.cutAfter (s : State) : Nat → List (ThreadKey × QItem) → State
  | 0, _ => s
  | fuel + 1, gone =>
    let late := fun (m : Msg) => match m with
      | .remote ow _ q .waits _ => gone.any fun x => q.behind ow x.1 x.2
      | _ => false
    let out := (s.net.filter late).filterMap fun m => match m with
      | .remote ow _ q _ _ => some (ow, q)
      | _ => none
    let dead := fun (q : QItem) => q.away && gone.any fun x => q.behind q.owner x.1 x.2
    let cut := fun (w : Warp) => cutQueue dead (gone.map (·.1)) [] w.queue
    let more := out ++ (s.teams.flatMap fun tm => tm.warps.flatMap fun w => (cut w).2.map fun q => (q.owner, q))
    let s := { s with net := s.net.filter (fun m => !late m)
                      teams := s.teams.map fun tm => { tm with warps := tm.warps.map fun w => { w with queue := (cut w).1 } } }
    if more.isEmpty then s else State.cutAfter s fuel more

/-- The write `q` of thread `k` is never complete. -/
def State.cutBehind (s : State) (k : ThreadKey) (q : QItem) : State :=
  s.cutAfter (1 + s.net.length + (s.teams.flatMap fun tm => tm.warps.flatMap fun w => w.queue).length) [(k, q)]

/-- A request of this device is refused for good: the copy that it completes gets the status, or its thread's task ends. -/
def State.refuseRemote (s : State) (owner : ThreadKey) (q : QItem) (cause status : Nat) : State :=
  match s.copyOf q with
  | some r => s.endCopy r status
  | none => (s.cutBehind owner q).endTaskLate owner cause 0 q.via

/-- The event REMOTE_WRITE_ACK: the `k`-th message, a write or atomic of this device, is complete. The device keeps no line that
it wrote (R316 item 6). A PV page takes no access of another device, and refuses it (R356). -/
def execRemoteWriteAck (k : Nat) (s : State) : Out :=
  match s.net[k]? with
  | some (.remote owner _ q .sent _) =>
    let s1 := { s with net := s.net.eraseIdx k }
    if q.cls? = some .pv then .next (s1.refuseRemote owner q causeRemote copyRefused).settle.tick
    else
      let s2 := match q.place? with
        | some p => { s1 with l2 := s1.l2.filter fun l => l.place != p.line }
        | none => s1
      let s3 := match s2.copyOf q with
        | some r => s2.endCopy r (if r.src = CopySide.dropped then copyBound else copyOk)
        | none => s2
      .next (s3.remoteDone owner q).settle.tick
  | _ => .next s

/-! ## Requests of remote initiators (R356, R375, R268) -/

/-- Is a context scheduled: a bind record of it is BOUND, STAGED or RUN, or a collective of it runs? -/
def State.scheduled (s : State) (ctx : Nat) : Bool :=
  (s.slots.any fun x => chainCtx (s.chain (bindChain x.2.rec0)) == ctx && match x.2.state with
    | .bound | .staged | .run => true
    | .free | .susp | .drain => false) ||
  s.colls.any fun c => chainCtx (s.chain c.chain) == ctx && match c.phase with
    | .run | .stall => true
    | .ending _ _ | .reporting _ => false

/-- The bench of a context. -/
def State.benchOf (s : State) (ctx : Nat) : List BenchItem := ((s.benches.find? fun b => b.ctx == ctx).map (·.items)).getD []
def State.setBench (s : State) (ctx : Nat) (items : List BenchItem) : State :=
  let rest := s.benches.filter fun b => b.ctx != ctx
  { s with benches := if items.isEmpty then rest else rest ++ [{ ctx := ctx, items := items }] }

/-- Bytes per element of a form (R260). -/
def CollForm.size : CollForm → Nat
  | .pa8 => 8 | .pa16 => 16 | .cell => 96
/-- Entries of 256 bytes that an item takes (R268). -/
def BenchItem.entries : BenchItem → Nat
  | .write q => max 1 ((q.data.length + 223) / 224)
  | .msg m => (160 + CollForm.size m.form * m.vals.length + 223) / 224

/-- Has the bench room for an item? -/
def State.benchRoom (s : State) (ctx : Nat) (x : BenchItem) : Bool :=
  decide (((s.benchOf ctx).map BenchItem.entries).sum + x.entries ≤ 2 ^ (10 + Config.benchLog ctx % 11))

/-- Is traffic for a context benched: the context is not scheduled, or its bench is still being replayed? -/
def State.benched (s : State) (ctx : Nat) : Bool := !s.scheduled ctx || !(s.benchOf ctx).isEmpty

/-- What becomes of a request at its page. -/
inductive Admit where
  | ok (x : Xlat)
  | bench
  | retry
  /-- its page is not mapped -/
  | unmapped
  | refused
  | aliasing

/-- Does a request write? -/
def reqWrites (q : RemoteReq) : Bool :=
  match q.kind with
  | .write | .atomic | .cas | .aacc | .ldaccZero => true
  | .read => false

/-- Does the class of a request differ from the line's tag (R225, R345)? In merging that is certain; an L2 tag may have left the slice:
a free choice. -/
def State.tagDiffers (s : State) (p : Place) (cls : Cls) : Bool :=
  s.mergeTagged (lineBase p.addr) cls ||
    ((s.l2.any fun l => l.place == p.line && l.cls != cls) && Config.freeBit (s.key (p.lineNo % 2 ^ 32)))

/-- Does a running ordered launch hold the page of a place (R247), and is it committing an inning? -/
def State.heldByOrdered (s : State) (p : Place) : Bool :=
  s.tasks.any fun t => t.ordered && !t.isOver && (s.reached t).any fun x => x.cls == .ord && x.has p
def State.committingAt (s : State) (p : Place) : Bool :=
  s.tasks.any fun t => t.committing.isSome && (s.reached t).any fun x => x.cls == .ord && x.has p

/-- The checks of a request at its target. One that finds every way of its set locked is refused with a hint (R303, R376). -/
def State.admission (s : State) (q : RemoteReq) : Admit :=
  if s.benched q.ctx then
    match q.kind with
    | .write => if s.benchRoom q.ctx (.write q) then .bench else .retry
    | .read | .atomic | .cas | .aacc | .ldaccZero => .retry
  else match s.walkXlat q.ctx q.va.toNat with
    | .bad => .unmapped
    | .hole _ => .refused
    | .ok x =>
      if x.mig || s.heldPages.contains (q.ctx, pageOf q.va.toNat) then .retry
      else if x.place.space ≠ .dev ∨ x.cls = .pv ∨ (reqWrites q = true ∧ x.canWrite = false) ∨
          (placeHole x.place.line 128).isSome then .refused
      else if x.cls == .ord && (if reqWrites q then s.heldByOrdered x.place else s.committingAt x.place) then .retry
      else if s.tagDiffers x.place (reqCls q) then .aliasing
      else if !s.cellRoom (lineBase x.place.addr) then .retry
      else .ok x

/-- A request meets a page that is not mapped (R375): the residency duty is told, and until it answers the request is refused with a hint.
Whether and when it answers that the address is not mapped is its own choice, a free one; its answer stands until the page is mapped. The
result says whether it has answered so. -/
def State.unmapped (s : State) (ctx page : Nat) : State × Bool :=
  let mine := fun (x : Nat × Nat × Bool) => x.1 == ctx && x.2.1 == page
  match s.residNotices.find? mine with
  | none => ({ s with residNotices := s.residNotices ++ [(ctx, page, false)] }, false)
  | some (_, _, true) => (s, true)
  | some (_, _, false) =>
    if Config.freeBit (s.key 2) then ({ s with residNotices := mapIf mine (fun x => (x.1, x.2.1, true)) s.residNotices }, true)
    else (s, false)

/-- An admitted request reaches the home: performed and answered; or it waits for the gather of its line (R220). An AACC is
performed once the home adds it (R219, R231). A read fills the L2 slice as the page's cache policy lets it (R365). -/
def State.homeRemote (s : State) (q : RemoteReq) (x : Xlat) : State :=
  match q.kind, s.cellAt (lineBase x.place.addr) with
  | .aacc, some c =>
    if c.gath then s.modCell c.line fun c => { c with queue := c.queue ++ [.remote q x.place] } else s.serveAt q x.place
  | .aacc, none => s.serveAt q x.place
  | .read, none => (s.accessHome x.place (.remote q x.place)).fillL2 x.place x.cls x.cp
  | _, _ => s.accessHome x.place (.remote q x.place)

/-- A request arrives: performed, benched or refused. -/
def State.takeRemote (s : State) (q : RemoteReq) : State :=
  match s.admission q with
  | .bench => (s.setBench q.ctx (s.benchOf q.ctx ++ [.write q])).replyTo q (.done [])
  | .retry => s.replyTo q (.retry (BitVec.ofNat 8 (Config.freePick (s.key 3))))
  | .unmapped =>
    let (s1, gone) := s.unmapped q.ctx (pageOf q.va.toNat)
    s1.replyTo q (if gone then .refused else .retry (BitVec.ofNat 8 (Config.freePick (s.key 3))))
  | .refused => s.replyTo q .refused
  | .aliasing => s.replyTo q .aliasing
  | .ok x => s.homeRemote q x

/-- Does a request stay inside one line, with data of its kind's length? -/
def reqOk (q : RemoteReq) : Bool :=
  let o := q.va.toNat % 128
  match q.kind with
  | .write => decide (1 ≤ q.data.length) && decide (o + q.data.length ≤ 128)
  | .read => decide (1 ≤ q.len) && decide (o + q.len ≤ 128)
  | .atomic | .cas => o % (if q.wide then 8 else 4) == 0
  | .aacc | .ldaccZero => o == 0

/-- The event REMOTE_WRITE: a write of another device, or of the host's DMA, arrives. -/
def execRemoteWrite (q : RemoteReq) (s : State) : Out :=
  if s.ready && q.kind == .write && reqOk q then .next (s.takeRemote q).tick else .next s

/-- The event REMOTE_REQUEST: a read, atomic or AACC of a remote initiator arrives. -/
def execRemoteRequest (q : RemoteReq) (s : State) : Out :=
  if s.ready && q.kind != .write && reqOk q then .next (s.takeRemote q).tick else .next s

/-! ## The host (R355) -/

/-- Does a byte range lie in the CXL.mem window? -/
def inWindow (pa n : Nat) : Bool := decide (cxlBase ≤ pa) && decide (pa + n ≤ cxlBase + 2 ^ 36) && decide (pa + n ≤ physLimit)

/-- The event HOST_SNOOP: the host writes its own memory, and the device's copies of the line are invalidated. -/
def execHostSnoop (pa : Nat) (data : List Byte) (s : State) : Out :=
  let p : Place := { space := .host, addr := lineBase pa }
  if pa % 128 + data.length ≤ 128 then
    let s := s.cutWs { space := .host, addr := pa } data.length fun _ => true
    .next { s with hostMem := Memory.put s.hostMem pa data, l1 := s.l1.filter (fun l => l.place != p),
                   l2 := s.l2.filter fun l => l.place != p }.tick
  else .next s

/-- The event HOST_STORE: a host store into the window is performed at the home slice and notified; without data it is a host
read. Whether the host keeps the line afterwards is free (R355). It waits while the set of the line has every way locked (R376). -/
def execHostStore (pa : Nat) (data : List Byte) (s : State) : Out :=
  let p := devPlace pa
  if s.ready && inWindow pa (max 1 data.length) && decide (pa % 128 + data.length ≤ 128) && s.cellRoom (lineBase pa) then
    let s1 := match s.cellAt (lineBase pa) with
      | some c => s.accessHome p (.store noCore { owner := noThread, place := p, cls := c.cls, data := data, targets := [] })
      | none => if data.isEmpty then s else ((s.cutWs p data.length fun _ => true).writeBytes p data).notify p noCore .rc noThread
    let held := if data.isEmpty then s1.hostHeld else s1.hostHeld.filter fun l => l != lineBase pa
    .next { s1 with hostHeld := if Config.freeBit (s.key 4) && !held.contains (lineBase pa) then lineBase pa :: held else held }.tick
  else .next s

/-- Is an earlier write to the line of host memory among the messages? -/
def hostBefore (a : Nat) (before : List Msg) : Bool :=
  before.any fun m => match m with
    | .hostWrite _ x _ => lineBase x == lineBase a
    | _ => false

/-- The event HOST_WRITE_ACKNOWLEDGEMENT: the `k`-th message, a device write to host memory, is performed by the host, after the
earlier ones to its line (R355). -/
def execHostWriteAcknowledgement (k : Nat) (s : State) : Out :=
  match s.net[k]? with
  | some (.hostWrite _ a data) =>
    if hostBefore a (s.net.take k) then .next s
    else .next ({ s with net := s.net.eraseIdx k, hostMem := Memory.put s.hostMem a data }).settle.tick
  | _ => .next s

/-- The event BACK_INVALIDATION_RESPONSE: the host has given up the line. -/
def execBackInvalidationResponse (k : Nat) (s : State) : Out :=
  match s.net[k]? with
  | some (.backInval _ line) =>
    .next ({ s with net := s.net.eraseIdx k, hostHeld := s.hostHeld.filter (· != line) }).settle.tick
  | _ => .next s

end Sys2Proof.Machine
end

