-- ==== Sys2Proof/Machine/Collective.lean ====
section
/-!
DEFINITION. The collective engines (spec/11 R251 to R271): the dequeue and validation of a collective record, the steps of
its program, messages, acknowledgements and the DONE handshake, stalls and failures, the report, and the bench.
-/
namespace Sys2Proof.Machine

open Sys2Proof

/-! ## Fields of a record, a buffer descriptor, a member and a step (R253 to R257) -/

def Coll.host (c : Coll) : Bool := bitAt c.rec0 312
def Coll.tmo (c : Coll) : Nat := bitsNat c.rec0 304 8
def Coll.che (c : Coll) : Nat := bitsNat c.rec0 288 16
def Coll.nch (c : Coll) : Nat := bitsNat c.rec0 272 16
def Coll.nstep (c : Coll) : Nat := bitsNat c.rec0 256 16
def Coll.n (c : Coll) : Nat := bitsNat c.rec0 240 16
def Coll.rank (c : Coll) : Nat := bitsNat c.rec0 224 16
def Coll.collid (c : Coll) : BitVec 32 := c.rec0.extractLsb' 192 32
def Coll.repAddr (c : Coll) : Nat := bitsNat c.rec0 128 57
def Coll.memAddr (c : Coll) : Nat := bitsNat c.rec0 64 57
def Coll.stepAddr (c : Coll) : Nat := bitsNat c.rec0 0 57
def Coll.buf (c : Coll) (b : Nat) : BitVec 128 := c.rec0.extractLsb' (512 + 128 * b) 128

def bufValid (d : BitVec 128) : Bool := bitAt d 100
def bufKind (d : BitVec 128) : Nat := bitsNat d 97 3
def bufExtent (d : BitVec 128) : Nat := bitsNat d 57 40
def bufBase (d : BitVec 128) : Nat := bitsNat d 0 57
/-- Bytes of an element. -/
def bufSize (d : BitVec 128) : Nat :=
  match bufKind d with
  | 0 => 4 | 1 => 2 | 2 => 2 | _ => 128
/-- Are the reserved bits and fields of a descriptor as R254 has them (R256)? -/
def bufFieldsOk (d : BitVec 128) : Bool := decide (bufKind d ≤ 3) && bitsNat d 101 27 == 0 && bufBase d % bufSize d == 0
/-- The number type of a float buffer. -/
def bufType (d : BitVec 128) : DType :=
  match bufKind d with
  | 0 => .f32 | 1 => .b16 | _ => .h16

def memIncarn (e : BitVec 64) : Nat := bitsNat e 32 16
def memDevice (e : BitVec 64) : Nat := bitsNat e 16 16
def memDie (e : BitVec 64) : Nat := bitsNat e 0 2
def memOk (e : BitVec 64) : Bool := bitsNat e 48 16 == 0 && bitsNat e 2 14 == 0 && decide (memDevice e < 1024)

/-- A step of a program (R257). -/
abbrev Step := BitVec 128
def stOpc (p : Step) : Nat := bitsNat p 0 4
def stCntm1 (p : Step) : Nat := bitsNat p 4 8
def stCi (p : Step) : Nat := bitsNat p 12 2
def stCrm (p : Step) : Bool := bitAt p 14
def stLnm (p : Step) : Bool := bitAt p 15
def stR (p : Step) : Bool := bitAt p 16
def stW (p : Step) : Bool := bitAt p 17
def stSbuf (p : Step) : Nat := bitsNat p 18 2
def stDbuf (p : Step) : Nat := bitsNat p 20 2
def stMode (p : Step) : Nat := bitsNat p 28 3
def stTgt (p : Step) : Nat := bitsNat p 36 12
/-- A signed field. -/
def stInt (p : Step) (lo n : Nat) : Int := (BitVec.ofNat n (bitsNat p lo n)).toInt
def stAux (p : Step) : Int := stInt p 48 16
/-- Are the reserved bits 0, the code assigned, the rounding mode one of R54, and the fields that an opcode does not use 0? -/
def stepOk (p : Step) : Bool :=
  let op := stOpc p
  decide (op ≤ 7) && bitsNat p 64 16 == 0 && bitsNat p 31 5 == 0 && bitsNat p 22 6 == 0 && decide (stMode p ≤ 4) &&
    (op == 2 || stCntm1 p == 0) && (op == 6 || op == 7 || stTgt p == 0) && (op == 6 || op == 3 || stAux p == 0)

/-- The context of a collective. -/
def State.collCtx (s : State) (c : Coll) : Nat := chainCtx (s.chain c.chain)

/-! ## Accesses of an engine (R252, R270) -/

/-- An access ends the collective with a status, waits, or has its lines. -/
inductive EngOut (α : Type) where
  | ok (a : α)
  /-- lines that are gathered first -/
  | gather (ps : List Place)
  | wait
  | fail (status : Nat)

/-- Does a lease let an engine reach a page (R270)? The leases are those of the bind records whose chains have the engine's context;
where none has, no lease limits the engine (DESIGN CHOICE, log entry 64). -/
def State.engineLease (s : State) (write : Bool) (ctx page : Nat) : Bool :=
  let ls := ((s.slots.filter fun x => x.2.state != .free && chainCtx (s.chain (bindChain x.2.rec0)) == ctx).map fun x => bindLease x.2.rec0).dedup
  ls.isEmpty || ls.any fun l => match s.leaseCheck l page with
    | .covered wr => !write || wr
    | .outside | .revoked | .hole _ => false

/-- The answer of another device to a read of an engine: any. -/
def State.remoteAnswer (s : State) (x : Xlat) : Nat ⊕ Xlat :=
  match Config.freePick (s.key (x.place.lineNo % 2 ^ 32)) % 4 with
  | 1 => .inl 6
  | 2 => .inl 1
  | 3 => .inl 7
  | _ => .inr x

/-- The status of one line, 1 for a line that is held; or its translation. -/
def State.engineLine (s : State) (write : Bool) (ctx va : Nat) : Nat ⊕ Xlat :=
  match s.walkXlat ctx va with
  | .bad => .inl 4
  | .hole _ => .inl 4
  | .ok x =>
    if !s.engineLease write ctx (pageOf va) then .inl 4
    else if x.mig || s.heldPages.contains (ctx, pageOf va) || (x.place.space == .dev && !s.cellRoom (lineBase x.place.addr)) then .inl 1
    else if (write && !x.canWrite) || (placeHole x.place.line 128).isSome then .inl 4
    else match x.cls with
      | .sc | .rc =>
        if s.tagDiffers x.place x.cls then .inl 7
        else match x.place.space with
          | .dev => if !write && s.badLines.contains (lineBase x.place.addr) then .inl 5 else .inr x
          | .host => .inr x
          | .remote _ => if write then .inr x else s.remoteAnswer x
      | .ord | .ws | .pv => .inl 2

/-- Translate the lines of a range. The first line that fails decides the status. -/
def State.engineLines (s : State) (write : Bool) (ctx va n : Nat) : EngOut (List (Nat × Xlat)) :=
  if 2 ^ 57 < va + n then .fail 4
  else
    let outs := (lineVas va n).map fun v => (v, s.engineLine write ctx v)
    let codes := outs.filterMap fun o => match o.2 with
      | .inl k => some k
      | .inr _ => none
    match codes.find? (· != 1) with
    | some k => .fail k
    | none =>
      if !codes.isEmpty then .wait
      else
        let ls := outs.filterMap fun o => match o.2 with
          | .inl _ => none
          | .inr x => some (o.1, x)
        let cells := (ls.map fun x => x.2.place).filter fun p => p.space == .dev && (s.cellAt (lineBase p.addr)).isSome
        if cells.isEmpty then .ok ls else .gather cells

/-- Read a range. -/
def State.engineRead (s : State) (ctx va n : Nat) : EngOut (List Byte) :=
  match s.engineLines false ctx va n with
  | .ok ls => .ok (ls.flatMap fun (v, x) => s.readBytes x.place (min (va + n) (lineBase v + 128) - v))
  | .gather ps => .gather ps
  | .wait => .wait
  | .fail k => .fail k

/-- Write a range: relaxed stores by an agent outside every team. -/
def State.engineWrite (s : State) (c : Coll) (va : Nat) (bs : List Byte) : EngOut State :=
  match s.engineLines true (s.collCtx c) va bs.length with
  | .ok _ => .ok (s.unitWrites (unitOwner c.chain) (s.collCtx c) va bs).1
  | .gather ps => .gather ps
  | .wait => .wait
  | .fail k => .fail k

/-! ## Chunks (R258, R260) -/

/-- The first element of a chunk and the range of its bytes. -/
def chunkAt (c : Coll) (d : BitVec 128) (chunk : Nat) : Nat := bufBase d + chunk * c.che * bufSize d

/-- val(chunk) and its contributor map. -/
def State.chunkVal (s : State) (c : Coll) (b chunk : Nat) : EngOut Chunk :=
  let d := c.buf b
  if bufExtent d < (chunk + 1) * c.che then .fail 3
  else match s.engineRead (s.collCtx c) (chunkAt c d chunk) (c.che * bufSize d) with
    | .ok bs =>
      let elem := fun (j : Nat) => (bs.drop (j * bufSize d)).take (bufSize d)
      let own : BitVec 1024 := 1 <<< c.rank
      let m := Sparse.get 0 c.maps (65536 * b + chunk)
      .ok { vals := (List.range c.che).map fun j =>
              if bufKind d = 3 then cellOf (elem j) else Acc.zero.addTerm (decodeCode (bufType d) (leNat (elem j))),
            cmap := if m = 0 then own else m }
    | .gather ps => .gather ps
    | .wait => .wait
    | .fail k => .fail k

/-- The rounding modes of R54. -/
def modeOf : Nat → Mode
  | 0 => .rne | 1 => .rtz | 2 => .rup | 3 => .rdn | _ => .rna

/-- write(v): the chunk's bytes in DBUF, and the status bits of the roundings. -/
def chunkBytes (d : BitVec 128) (mode : Nat) (v : Chunk) : List Byte × BitVec 5 :=
  v.vals.foldl (fun (bs, f) a =>
    if bufKind d = 3 then (bs ++ cellBytes a, f)
    else
      let r := accRound a (bufType d) (modeOf mode)
      (bs ++ leBytes (bufSize d) r.code, f ||| r.sts.fp)) ([], 0)

/-- Replace a collective. -/
def State.setColl (s : State) (c : Coll) : State := { s with colls := mapIf (fun x => x.chain == c.chain) (fun _ => c) s.colls }

/-- Write a chunk; the collective records its map and status bits. -/
def State.chunkWrite (s : State) (c : Coll) (p : Step) (chunk : Nat) (v : Chunk) : EngOut (State × Coll) :=
  let b := stDbuf p
  let d := c.buf b
  if bufExtent d < (chunk + 1) * c.che then .fail 3
  else
    let (bs, f) := chunkBytes d (stMode p) v
    match s.engineWrite c (chunkAt c d chunk) bs with
    | .ok s => .ok (s, { c with fpst := c.fpst ||| f, maps := Sparse.set 0 c.maps (65536 * b + chunk) v.cmap })
    | .gather ps => .gather ps
    | .wait => .wait
    | .fail k => .fail k

/-- The combination of two chunks. -/
def Chunk.combine (a b : Chunk) : Chunk :=
  { vals := (a.vals.zip b.vals).map fun (x, y) => x.combine y, cmap := a.cmap ||| b.cmap }

/-- The shift s of an element in a window of `w` bits (R260): the largest multiple of 8 for which 2^s divides A, at most
640 − w; 0 for A = 0. -/
def windowShift (w : Nat) (a : Acc) : Nat :=
  if a.value = 0 then 0
  else 8 * ((List.range ((640 - w) / 8 + 1)).filter fun k => a.value % (2 : Int) ^ (8 * k) == 0).foldl max 0

/-- Does a window of `w` bits hold an element exactly? -/
def fitsWindow (w : Nat) (a : Acc) : Bool :=
  if a.nan || a.pinf || a.ninf then false
  else
    let v := a.value / (2 : Int) ^ windowShift w a
    decide (-(2 : Int) ^ (w - 1) ≤ v) && decide (v < (2 : Int) ^ (w - 1))

/-- The first form that holds every element exactly. -/
def chunkForm (v : Chunk) : CollForm :=
  if v.vals.all (fitsWindow 56) then .pa8 else if v.vals.all (fitsWindow 120) then .pa16 else .cell

/-- An element in a window of `w` bits: the window byte, with NZT in bit 7 and s / 8 below it, then the window. -/
def packWindow (w : Nat) (a : Acc) : Nat :=
  let s := windowShift w a
  s / 8 + (if a.nzt then 128 else 0) + 256 * (BitVec.ofInt w (a.value / (2 : Int) ^ s)).toNat
def unpackWindow (w n : Nat) : Acc :=
  { Acc.zero.withValue ((BitVec.ofNat w (n / 256)).toInt * (2 : Int) ^ (8 * (n % 128))) with nzt := n.testBit 7 }

/-- An element in a form, and the element that a form holds (R260). -/
def CollForm.pack (f : CollForm) (a : Acc) : Nat :=
  match f with
  | .pa8 => packWindow 56 a
  | .pa16 => packWindow 120 a
  | .cell => a.normal.image
def CollForm.unpack (f : CollForm) (n : Nat) : Acc :=
  match f with
  | .pa8 => unpackWindow 56 n
  | .pa16 => unpackWindow 120 n
  | .cell => (Acc.ofImage n).normal

/-! ## Sending (R258, R261) -/

/-- The member table's entry of a rank, as the validation read it. -/
def Coll.member (c : Coll) (r : Nat) : BitVec 64 := c.members.getD r 0

/-- The device's incarnation (R264), and its number in the pod. -/
def State.devIncarn (s : State) : BitVec 16 := Sparse.get 0 s.incarn 64
def State.podNo (s : State) : Nat := bitsNat (s.windowReg 0x38) 0 10

/-- The number of the next message to a rank: they count from 0, modulo 2^32 (R261). -/
def Coll.nextSeq (c : Coll) (dst : Nat) : BitVec 32 := BitVec.ofNat 32 (Sparse.get 0 c.sent dst)

/-- Send a chunk to a rank: the message is kept until it is acknowledged. -/
def State.collSend (s : State) (c : Coll) (dst chunk : Nat) (v : Chunk) : Coll :=
  let f := chunkForm v
  let m : CollMsg :=
    { collid := c.collid, ctx := s.collCtx c, src := c.rank, dst := dst, srcIncarn := s.devIncarn,
      dstIncarn := BitVec.ofNat 16 (memIncarn (c.member dst)), chunk := chunk, form := f, seq := c.nextSeq dst,
      cmap := v.cmap, vals := v.vals.map fun a => BitVec.ofNat 768 (CollForm.pack f a) }
  { c with sent := Sparse.set 0 c.sent dst (Sparse.get 0 c.sent dst + 1), unacked := c.unacked ++ [m] }

/-- A message as a chunk. -/
def msgChunk (m : CollMsg) : Chunk := { vals := m.vals.map fun x => CollForm.unpack m.form x.toNat, cmap := m.cmap }

/-- The number that is next expected from a rank. -/
def Coll.expected (c : Coll) (p : Nat) : BitVec 32 := BitVec.ofNat 32 (Sparse.get 0 c.taken p)
/-- Has the engine received message `q` of a rank: taken it, or does it hold it? -/
def Coll.received (c : Coll) (p : Nat) (q : BitVec 32) : Bool :=
  decide (2 ^ 31 ≤ (q - c.expected p).toNat) || c.staging.any fun x => x.src == p && x.seq == q

/-- Take the next message from a rank (R261). -/
def Coll.take (c : Coll) (p : Nat) : Option (CollMsg × Coll) :=
  (c.staging.find? fun m => m.src == p && m.seq == c.expected p).map fun m =>
    (m, { c with taken := Sparse.set 0 c.taken p (Sparse.get 0 c.taken p + 1),
                 staging := c.staging.filter fun x => !(x.src == p && x.seq == c.expected p) })

/-- A RECV takes the messages of its peers one after the other, as far as they are there (R258). -/
def Coll.takeLeft (c : Coll) (v : Chunk) : List Nat → Coll × RecvAcc
  | [] => (c, { left := [], val := v })
  | p :: ps => match c.take p with
    | none => (c, { left := p :: ps, val := v })
    | some (m, c1) => Coll.takeLeft c1 (v.combine (msgChunk m)) ps

/-! ## Expressions (R258) -/

def Coll.counter (c : Coll) (p : Step) : Nat := Sparse.get 0 c.counters (stCi p)
/-- peer(m), the chunk, and the out-peer. -/
def Coll.peer (c : Coll) (p : Step) (m : Nat) : Nat :=
  (((c.rank : Int) + stInt p 112 16 + stInt p 104 8 * c.counter p + m) % (c.n : Int)).toNat
def Coll.chunkNo (c : Coll) (p : Step) : Nat :=
  (((if stCrm p then (c.rank : Int) else 0) + stInt p 88 16 + stInt p 80 8 * c.counter p) % (c.nch : Int)).toNat
def Coll.opeer (c : Coll) (p : Step) : Nat := (((c.rank : Int) + stAux p + stInt p 104 8 * c.counter p) % (c.n : Int)).toNat

/-! ## The end of a collective (R252, R265, R266, R425) -/

/-- Read a step of the program. -/
def State.readStep (s : State) (c : Coll) (k : Nat) : EngOut Step :=
  if c.nstep ≤ k then .fail 3
  else match s.engineRead (s.collCtx c) (c.stepAddr + 16 * k) 16 with
    | .ok bs => .ok (BitVec.ofNat 128 (leNat bs))
    | .gather ps => .gather ps
    | .wait => .wait
    | .fail k => .fail k

/-- Does a step write DBUF? -/
def stepWrites (p : Step) : Bool := stOpc p == 2 || stOpc p == 4 || (stOpc p == 3 && stW p)
/-- Does a step read SBUF? -/
def stepReads (p : Step) : Bool := stOpc p == 1 || stOpc p == 4 || ((stOpc p == 2 || stOpc p == 3) && stR p)

/-- The report: the status block, then the maps of each CELL destination buffer of a validated record. DESIGN CHOICE (log entry 67): the map
of a chunk is the CMAP of the value that was written last, under status 0 too; R266 also says that under status 0 it is all N bits, which
the value of a broadcast or a gather, formed from some of the members, does not have. -/
def Coll.report (c : Coll) (status : Nat) : List Byte :=
  let block := status % 256 + c.collid.toNat * 2 ^ 32 + c.fpst.toNat * 2 ^ 64 + c.step % 65536 * 2 ^ 80 + c.frank % 65536 * 2 ^ 96
  leBytes 16 block ++ c.dests.flatMap fun b => (List.range c.nch).flatMap fun k =>
    leBytes 128 (Sparse.get 0 c.maps (65536 * b + k)).toNat

/-- The collective stops with a status: the report is written (R252), once no page of it is held (R373). -/
def State.failColl (s : State) (c : Coll) (status : Nat) : State :=
  if s.unitHeld (s.collCtx c) c.repAddr (c.report status).length then s.setColl { c with phase := .reporting status }
  else
    let (s, bad) := s.unitWrites (unitOwner c.chain) (s.collCtx c) c.repAddr (c.report status)
    s.setColl { c with phase := .ending status bad }

/-- Does a collective run, or stall? -/
def Coll.live (c : Coll) : Bool :=
  match c.phase with
  | .run | .stall => true
  | .ending _ _ | .reporting _ => false

/-- A collective whose report is written ends: DONE of the chain, and the completion word. What is on its way to it in the bowls is
discarded; after a failure its sources stay held (R265). -/
def State.endColl (s : State) (c : Coll) (status : Nat) (dropped : Bool) : State :=
  let s := { s with
    colls := s.colls.filter fun x => x.chain != c.chain
    bowls := s.bowls.filter fun b => !(decide (2 ^ 60 ≤ b.line) && keyChain b.line == c.chain)
    net := s.net.filter fun m => match m with
      | .chunk key _ _ _ _ _ => keyChain key != c.chain
      | _ => true
    heldSources := if status = 1 then s.heldSources ++ [(c.chain, c.held)] else s.heldSources }
  let d := s.chain c.chain
  let done := (chainDone d + 1) % 2 ^ 32
  let (s, bad) := (s.setChain c.chain (setField d 352 32 done)).unitWrites (unitOwner c.chain) (chainCtx d) (chainCw d) (leBytes 8 done)
  let s := if dropped then s.unitFailed c.chain else s
  if bad then s.unitFailed c.chain else s

/-- Is every write of the engine for the collective performed at .sy, so that its completion word may follow (R252)? -/
def State.engineQuiet (s : State) (c : Coll) : Bool := s.releaseReady (unitOwner c.chain) .sy

/-! ## The dequeue (R252, R256) -/

/-- The entry of a ring that is dequeued next. -/
def ringEntry (d : BitVec 512) : Nat := chainAddr d + 128 * (chainDeq d % 2 ^ chainRlog d)

/-- The fields and reserved bits of a record. -/
def collFieldsOk (c : Coll) : Bool :=
  let r := c.rec0
  bitsNat r 57 7 == 0 && bitsNat r 121 7 == 0 && bitsNat r 185 7 == 0 && bitsNat r 313 199 == 0 && decide (16 ≤ c.tmo) &&
    decide (c.tmo ≤ 40) && decide (1 ≤ c.che) && decide (c.che ≤ 512) && decide (1 ≤ c.nch) && decide (1 ≤ c.nstep) &&
    decide (c.nstep ≤ 4096) && decide (1 ≤ c.n) && decide (c.n ≤ 1024) && decide (c.rank < c.n) && c.repAddr % 128 == 0 &&
    c.memAddr % 8 == 0 && c.stepAddr % 16 == 0 && [0, 1, 2, 3].all fun b => bufFieldsOk (c.buf b)

/-- The record with what its tests read: the member table, and the CELL destination buffers. `none` where it fails R256; a failing
access of the tests has its own status. -/
def State.validColl (s : State) (c : Coll) : EngOut (Option Coll) :=
  if !collFieldsOk c then .ok none
  else match s.engineRead (s.collCtx c) c.stepAddr (16 * c.nstep), s.engineRead (s.collCtx c) c.memAddr (8 * c.n) with
    | .ok ps, .ok ms =>
      let steps := (List.range c.nstep).map fun k => (BitVec.ofNat 128 (leNat ((ps.drop (16 * k)).take 16)) : Step)
      let mem := (List.range c.n).map fun r => (BitVec.ofNat 64 (leNat ((ms.drop (8 * r)).take 8)) : BitVec 64)
      let me := mem.getD c.rank 0
      let named := fun (p : Step) => (!stepReads p || bufValid (c.buf (stSbuf p))) && (!stepWrites p || bufValid (c.buf (stDbuf p)))
      let dests := [0, 1, 2, 3].filter fun b => bufKind (c.buf b) == 3 && steps.any fun p => stepWrites p && stDbuf p == b
      .ok (if steps.all named && mem.all memOk && memDevice me == s.podNo && memDie me == c.die then
          some { c with members := mem, dests := dests }
        else none)
    | .fail k, _ | _, .fail k => .fail k
    | .gather p, .gather q => .gather (p ++ q)
    | .gather p, _ | _, .gather p => .gather p
    | .wait, _ | _, .wait => .wait

/-- A collective at its start. -/
def newColl (chain die a clk : Nat) (bs : List Byte) : Coll :=
  { chain := chain, die := die, rec0 := BitVec.ofNat 1024 (leNat bs), rec0Addr := BitVec.ofNat 57 a, members := [], dests := [],
    step := 0, counters := [], phase := .run, taken := [], sent := [], staging := [], acc := none, unacked := [], parked := [],
    held := [], maps := [], fpst := 0, doneFrom := [], doneSent := false, frank := 0, waitSince := clk }

/-- The event COLLECTIVE_DEQUEUE: an engine with fewer than 8 running takes the next entry of a chain of KIND 1. A record that fails
runs no step: its report and completion word follow (R256). -/
def execCollectiveDequeue (chain : Nat) (s : State) : Out :=
  let d := s.chain chain
  if !s.ready || !chainValid d || chainErr d || !chainKind d || chainPending d == 0 || (s.colls.any fun c => c.chain == chain) ||
      decide (8 ≤ (s.colls.filter fun c => c.die == chainDie d).length) then .next s
  else
    let a := ringEntry d
    let cells := s.unitCells (chainCtx d) a 128
    if s.unitHeld (chainCtx d) a 128 then .next s
    else if !cells.isEmpty then .next (s.gatherAll cells).tick
    else match s.unitRead (chainCtx d) a 128 with
      | none => .next (s.stopChain chain).tick
      | some bs =>
        let c := newColl chain (chainDie d) a s.clk bs
        let take := fun (c : Coll) =>
          { s.setChain chain (setField d 320 32 (chainDeq d + 1)) with
            colls := s.colls ++ [c], heldSources := s.heldSources.filter fun x => x.1 != chain }
        match s.validColl c with
        | .ok (some c1) => .next (take c1).tick
        | .ok none => .next ((take c).failColl c 3).tick
        | .fail k => .next ((take c).failColl c k).tick
        | .gather ps => .next (s.gatherAll ps).tick
        | .wait => .next s

/-! ## Running a step (R258, R259) -/

/-- The collective of a chain. -/
def State.collOf (s : State) (chain : Nat) : Option Coll := s.colls.find? fun c => c.chain == chain

/-- Are the engine's writes to other memories complete (R259)? -/
def State.engineWritesDone (s : State) (c : Coll) : Bool :=
  !s.net.any fun m => match m with
    | .remote ow _ _ _ _ | .hostWrite ow _ _ => ow == unitOwner c.chain
    | _ => false

/-- Does a collective go on now? Its context's bench is empty (R269), and the writes of the step before are complete. -/
def State.collRuns (s : State) (c : Coll) : Bool :=
  s.ready && c.phase == .run && (s.benchOf (s.collCtx c)).isEmpty && s.engineWritesDone c

/-- The result of a step: the state, the collective, and the next step. -/
abbrev StepOut := EngOut (State × Coll × Nat)

/-- Run the current step if it has the opcode; a step that cannot be read, or whose fields are wrong, ends the collective
(R270). -/
def runStep (chain opc : Nat) (s : State) (f : Coll → Step → StepOut) : Out :=
  match s.collOf chain with
  | none => .next s
  | some c =>
    if !s.collRuns c then .next s
    else match s.readStep c c.step with
      | .gather ps => .next (s.gatherAll ps).tick
      | .wait => .next s
      | .fail k => .next (s.failColl c k).tick
      | .ok p =>
        if !stepOk p then .next (s.failColl c 3).tick
        else if stOpc p ≠ opc then .next s
        else match f c p with
          | .ok (s1, c1, k) => .next (s1.setColl { c1 with step := k, waitSince := s.clk }).tick
          | .gather ps => .next (s.gatherAll ps).tick
          | .wait => .next s
          | .fail k => .next (s.failColl c k).tick

/-- The step after this one. -/
def stepNext (s : State) (c : Coll) : StepOut := .ok (s, c, c.step + 1)

/-- Carry an outcome through. -/
def EngOut.andThen {α β : Type} (x : EngOut α) (f : α → EngOut β) : EngOut β :=
  match x with
  | .ok a => f a
  | .gather ps => .gather ps
  | .wait => .wait
  | .fail k => .fail k

/-- The event SEND: the source chunk is held from now on (R263). -/
def execSend (chain : Nat) (s : State) : Out :=
  runStep chain 1 s fun c p =>
    (s.chunkVal c (stSbuf p) (c.chunkNo p)).andThen fun v =>
      let dst := c.peer p 0
      let h : HeldSource := { dst := dst, seq := c.nextSeq dst, buf := stSbuf p, chunk := c.chunkNo p }
      stepNext s { s.collSend c dst (c.chunkNo p) v with held := c.held ++ [h] }

/-- The kinds of R270: with R = 1 a float destination takes a source of its own kind. -/
def kindsMeet (c : Coll) (p : Step) : Bool :=
  !stR p || bufKind (c.buf (stDbuf p)) == 3 || bufKind (c.buf (stSbuf p)) == bufKind (c.buf (stDbuf p))

/-- A chunk of zeros, of no contributor. -/
def Coll.zeroChunk (c : Coll) : Chunk := { vals := List.replicate c.che Acc.zero, cmap := 0 }

/-- With R = 1, the combination with the local chunk and the receiver's own bit (R258, R261). -/
def State.withOwn (s : State) (c : Coll) (p : Step) (v : Chunk) : EngOut Chunk :=
  if stR p then
    (s.chunkVal c (stSbuf p) (c.chunkNo p)).andThen fun x => .ok (v.combine { x with cmap := x.cmap ||| 1 <<< c.rank })
  else .ok v

/-- The peers of a RECV step, in order. -/
def Coll.peers (c : Coll) (p : Step) : List Nat := (List.range (stCntm1 p + 1)).map (c.peer p)
/-- The combination that the RECV step has formed so far. -/
def Coll.recvAcc (c : Coll) (p : Step) : RecvAcc := c.acc.getD { left := c.peers p, val := c.zeroChunk }

/-- The event RECV: it takes the messages that are there, and with the last of them writes the combination. -/
def execRecv (chain : Nat) (s : State) : Out :=
  runStep chain 2 s fun c p =>
    if !kindsMeet c p then .fail 3
    else
      let a := c.recvAcc p
      let (c1, a1) := c.takeLeft a.val a.left
      match a1.left with
      | _ :: _ => if a1.left.length = a.left.length then .wait else .ok (s, { c1 with acc := some a1 }, c.step)
      | [] =>
        (s.withOwn c p a1.val).andThen fun v =>
          (s.chunkWrite { c1 with acc := none } p (c.chunkNo p) v).andThen fun (s1, c2) => stepNext s1 c2

/-- Bytes that a message takes in staging. -/
def msgBytes (m : CollMsg) : Nat := 160 + CollForm.size m.form * m.vals.length

/-- The chunks in transit of a collective, which staging holds until they are acknowledged: those that no source buffer holds (R251,
R263). -/
def Coll.transit (c : Coll) : List CollMsg := c.unacked.filter fun m => !c.held.any fun h => h.dst == m.dst && h.seq == m.seq

/-- Bytes of a die's staging that are taken: received messages and chunks in transit (R251). -/
def State.stagingUsed (s : State) (die : Nat) : Nat :=
  ((s.colls.filter fun c => c.die == die).flatMap fun c => (c.staging ++ c.transit).map msgBytes).sum

/-- Is there room in the staging of a die's engine, 2 MiB, for another message (R251)? -/
def State.stagingRoom (s : State) (die : Nat) (m : CollMsg) : Bool := decide (s.stagingUsed die + msgBytes m ≤ 2 ^ 21)

/-- The event RRS. It waits while staging has no room for the chunk that it sends on (R251). -/
def execRrs (chain : Nat) (s : State) : Out :=
  runStep chain 3 s fun c p =>
    if !kindsMeet c p then .fail 3
    else match c.take (c.peer p 0) with
      | none => .wait
      | some (m, c1) =>
        (s.withOwn c p (msgChunk m)).andThen fun v =>
          let c2 := s.collSend c1 (c.opeer p) (c.chunkNo p) v
          if 2 ^ 21 < (s.setColl c2).stagingUsed c.die then .wait
          else if stW p then (s.chunkWrite c2 p (c.chunkNo p) v).andThen fun (s1, c3) => stepNext s1 c3 else stepNext s c2

/-- The event COPY. -/
def execCopyStep (chain : Nat) (s : State) : Out :=
  runStep chain 4 s fun c p =>
    (s.chunkVal c (stSbuf p) (c.chunkNo p)).andThen fun v =>
      (s.chunkWrite c p (c.chunkNo p) v).andThen fun (s1, c1) => stepNext s1 c1

/-- The event WAIT. -/
def execWaitStep (chain : Nat) (s : State) : Out :=
  runStep chain 5 s fun c _ => if c.unacked.isEmpty then stepNext s c else .wait

/-- The partner of a loop step: the step that TGT names, when it has the other opcode and names this one. -/
def State.partner (s : State) (c : Coll) (p : Step) (opc : Nat) : EngOut Step :=
  (s.readStep c (stTgt p)).andThen fun q => if stOpc q = opc ∧ stTgt q = c.step then .ok q else .fail 3

/-- LIM of a LOOPB step. -/
def loopLimit (c : Coll) (p : Step) : Int := (if stLnm p then (c.n : Int) else 0) + stAux p

/-- The event LOOPB. -/
def execLoopb (chain : Nat) (s : State) : Out :=
  runStep chain 6 s fun c p =>
    (s.partner c p 7).andThen fun _ =>
      let c1 := { c with counters := Sparse.set 0 c.counters (stCi p) 0 }
      if loopLimit c p ≤ 0 then .ok (s, c1, stTgt p + 1) else stepNext s c1

/-- The event LOOPE. -/
def execLoope (chain : Nat) (s : State) : Out :=
  runStep chain 7 s fun c p =>
    (s.partner c p 6).andThen fun q =>
      let k := (c.counter p + 1) % 65536
      let c1 := { c with counters := Sparse.set 0 c.counters (stCi p) k }
      if (k : Int) < loopLimit c q then .ok (s, c1, stTgt p + 1) else stepNext s c1

/-- Has DONE come from every other member (R263)? -/
def Coll.handshake (c : Coll) : Bool := (List.range c.n).all fun r => r == c.rank || c.doneFrom.contains r

/-- The event END: DONE goes to every other member; once DONE has come from each, the report is written; and when the engine's
writes are performed the completion word follows, after a failure too (R252, R263, R265). -/
def execEndStep (chain : Nat) (s : State) : Out :=
  match s.collOf chain with
  | none => .next s
  | some c =>
    match c.phase with
    | .reporting status => .next (s.failColl c status).tick
    | .ending status dropped =>
      let d := s.chain c.chain
      if s.engineQuiet c && !s.unitHeld (chainCtx d) (chainCw d) 8 then .next (s.endColl c status dropped).tick else .next s
    | .run | .stall =>
      runStep chain 0 s fun c _ =>
        if !c.doneSent then .ok (s, { c with doneSent := true }, c.step)
        else if c.handshake then .fail 0
        else .wait

/-! ## Messages (R261, R263 to R265) -/

/-- A reply to a member. -/
def State.replyMember (s : State) (m : CollMsg) (a : Answer) : State :=
  { s with replies := s.replies ++ [{ source := m.src, va := 0, answer := a }] }

/-- A member is declared failed: every pending step stops, and the report and the completion word follow. The first rank stands. -/
def State.memberFails (s : State) (c : Coll) (rank : Nat) : State :=
  if c.live then s.failColl { c with frank := rank } 1 else s

/-- What the current step waits for: the messages of these ranks, or DONE, or acknowledgements. -/
inductive Awaited where
  | messages (peers : List Nat)
  | done | acks | nothing

/-- The step's next peer comes first (R258). -/
def State.awaited (s : State) (c : Coll) : Awaited :=
  match s.readStep c c.step with
  | .ok p =>
    match stOpc p with
    | 0 => if c.doneSent && !c.handshake then .done else .nothing
    | 2 => match (c.takeLeft c.zeroChunk (c.recvAcc p).left).2.left with
      | [] => .nothing
      | ps => .messages ps
    | 3 => if (c.take (c.peer p 0)).isNone then .messages [c.peer p 0] else .nothing
    | 5 => if c.unacked.isEmpty then .nothing else .acks
    | _ => .nothing
  | .gather _ | .wait | .fail _ => .nothing

/-- Does the current step wait for a message or an acknowledgement? -/
def State.collWaits (s : State) (c : Coll) : Bool :=
  match s.awaited c with
  | .messages _ | .done | .acks => true
  | .nothing => false

/-- Is a message the next one that the current step takes (R261)? -/
def State.takesNow (s : State) (c : Coll) (m : CollMsg) : Bool :=
  m.seq == c.expected m.src && match s.awaited c with
    | .messages (p :: _) => p == m.src
    | _ => false

/-- What was awaited has come: a stalled collective runs again (R265). -/
def Coll.revive (c : Coll) (clk : Nat) : Coll := if c.phase = .stall then { c with phase := .run, waitSince := clk } else c

/-- A message meets its collective: `none` where it is refused with a hint. One that the current step takes next needs no room. -/
def State.collTake (s : State) (m : CollMsg) : Option State :=
  match s.colls.find? fun c => c.collid == m.collid && c.rank == m.dst && s.collCtx c == m.ctx && c.live with
  | none => none
  | some c =>
    if memIncarn (c.member m.src) ≠ m.srcIncarn.toNat then some (s.memberFails c m.src)
    else if c.received m.src m.seq then some (s.replyMember m (.done []))
    else
      let awaited := m.seq == c.expected m.src && match s.awaited c with
        | .messages ps => ps.contains m.src
        | _ => false
      if s.takesNow c m || s.stagingRoom c.die m then
        let c1 := if awaited then c.revive s.clk else c
        some ((s.setColl { c1 with staging := c1.staging ++ [m] }).replyMember m (.done []))
      else none

/-! ### Chunks in the bowls (R262) -/

/-- The engine of a rank of this device, as a contributor; the rank of a contributor. -/
def Coll.engineOf (c : Coll) (rank : Nat) : Nat := 64 + memDie (c.member rank)
def State.rankOf (s : State) (c : Coll) (src : Nat) : Option Nat :=
  (List.range c.n).find? fun r => memDevice (c.member r) == s.podNo && c.engineOf r == src

/-- Does a message go through the bowls: does its receiver stand at a RECV that awaits it, and that awaits messages of several engines
of this device? -/
def State.throughBowls (s : State) (c : Coll) (m : CollMsg) : Bool :=
  let here := fun (r : Nat) => memDevice (c.member r) == s.podNo && memDie (c.member r) != c.die
  here m.src && m.seq == c.expected m.src && !c.staging.any (fun x => x.src == m.src) && match s.readStep c c.step with
    | .ok p => stOpc p == 2 && stepOk p && kindsMeet c p &&
      (let left := (c.recvAcc p).left.filter here
       left.contains m.src && decide (2 ≤ left.dedup.length) && left.count m.src == 1)
    | .gather _ | .wait | .fail _ => false

/-- Is the message on its way there? -/
def State.chunkComing (s : State) (c : Coll) (m : CollMsg) : Bool :=
  let key := chunkKey c.die c.chain m.chunk
  let pair := (c.engineOf m.src, m.seq.toNat % 65536)
  (s.bowls.any fun b => b.line == key && b.pairs.contains pair) || s.net.any fun x => match x with
    | .chunk k _ ps _ _ _ => k == key && ps.contains pair
    | _ => false

/-- The elements of a message leave for the receiver's slots. -/
def State.sendChunk (s : State) (c : Coll) (m : CollMsg) : State :=
  let die := memDie (c.member m.src)
  { s with net := s.net ++ [.chunk (chunkKey c.die c.chain m.chunk) (msgChunk m) [(c.engineOf m.src, m.seq.toNat % 65536)] die false [die, c.die]] }

/-- A chunk arrives at its engine: every (source, q) pair that it carries is recorded as taken. One whose pairs have all been taken is a
duplicate; of the mixed kind there is none (R229): it would be an error in the merge. -/
def State.takeChunk (s : State) (key : Nat) (v : Chunk) (pairs : List (Nat × Nat)) : State :=
  match s.colls.find? fun c => c.chain == keyChain key && c.live with
  | none => s
  | some c =>
    match s.readStep c c.step with
    | .ok p =>
      let ranks := pairs.filterMap fun x => (s.rankOf c x.1).map fun r => (r, x.2)
      let new := ranks.filter fun x => (c.expected x.1).toNat % 65536 == x.2
      if new.isEmpty || stOpc p != 2 then s
      else if new.length < ranks.length then s.failColl c 5
      else
        let a := c.recvAcc p
        s.setColl { c.revive s.clk with
          acc := some { left := new.foldl (fun l x => l.erase x.1) a.left, val := a.val.combine v }
          taken := new.foldl (fun m x => Sparse.set 0 m x.1 (Sparse.get 0 m x.1 + 1)) c.taken }
    | .gather _ | .wait | .fail _ => s

/-! ### Sending again -/

/-- A refusal of a send (R264, R270, R304): with a hint it is sent again once that has elapsed. -/
def State.refuseSend (s : State) (chain : Nat) (m : CollMsg) (why : RefusalWhy) : State :=
  match s.collOf chain with
  | none => s
  | some c =>
    if !c.live then s
    else match why with
      | .hint h =>
        let rest := c.parked.filter fun x => !(x.1 == m.dst && x.2.1 == m.seq)
        s.setColl { c with parked := rest ++ [(m.dst, m.seq, s.clk + (h.toNat + 1) * 256)] }
      | .never => s.failColl c 6
      | .cls => s.failColl c 7
      | .stale => s.memberFails c m.dst

/-- Does a send wait for its hint? -/
def Coll.waitsHint (c : Coll) (m : CollMsg) : Bool := c.parked.any fun x => x.1 == m.dst && x.2.1 == m.seq

/-- A send is made again when its hint has elapsed. The elements of a held source that software has written since go with the
old or the new value each, a free choice (R263). -/
def State.resendColl (s : State) (chain : Nat) (m : CollMsg) : State :=
  match s.collOf chain with
  | none => s
  | some c =>
    if c.parked.any fun x => x.1 == m.dst && x.2.1 == m.seq && decide (x.2.2 ≤ s.clk) then
      let old : Chunk := msgChunk m
      let now : List Acc := match c.held.find? fun h => h.dst == m.dst && h.seq == m.seq with
        | some h => match s.chunkVal c h.buf h.chunk with
          | .ok v => ((List.range old.vals.length).zip (old.vals.zip v.vals)).map fun (j, a, b) =>
              if a == b then a else if Config.freeBit (s.key j) then a else b
          | .gather _ | .wait | .fail _ => old.vals
        | none => old.vals
      let f := chunkForm { old with vals := now }
      let m1 : CollMsg := if now == old.vals then m else { m with form := f, vals := now.map fun a => BitVec.ofNat 768 (CollForm.pack f a) }
      s.setColl { c with parked := c.parked.filter (fun x => !(x.1 == m.dst && x.2.1 == m.seq)),
                         unacked := c.unacked.map fun x => if x == m then m1 else x }
    else s

/-- A refusal with a hint: to a member of this device too, whose engine keeps the message. -/
def State.retryMember (s : State) (m : CollMsg) : State :=
  let h := BitVec.ofNat 8 (Config.freePick (s.key 3))
  let s1 := s.replyMember m (.retry h)
  match s.colls.find? fun c => c.unacked.contains m with
  | some c => s1.refuseSend c.chain m (.hint h)
  | none => s1

/-- The event COLLECTIVE_MESSAGE: taken, sent into the bowls, held in staging, discarded as a duplicate, benched, or refused. -/
def execCollectiveMessage (m : CollMsg) (s : State) : Out :=
  if !s.ready then .next s
  else if m.dstIncarn ≠ s.devIncarn then .next (s.replyMember m .refused).tick
  else if s.benched m.ctx then
    .next (if s.benchRoom m.ctx (.msg m) then (s.setBench m.ctx (s.benchOf m.ctx ++ [.msg m])).replyMember m (.done [])
      else s.retryMember m).tick
  else match s.colls.find? fun c => c.collid == m.collid && c.rank == m.dst && s.collCtx c == m.ctx && c.live &&
      memIncarn (c.member m.src) == m.srcIncarn.toNat && s.throughBowls c m with
    | some c => if s.chunkComing c m then .next s else .next (s.sendChunk c m).tick
    | none => match s.collTake m with
      | some s1 => .next s1.tick
      | none => .next (s.retryMember m).tick

/-- The messages of all collectives that are not acknowledged, in order: chain, and the message. -/
def State.unackedSends (s : State) : List (Nat × CollMsg) := s.colls.flatMap fun c => c.unacked.map fun m => (c.chain, m)

/-- The event SEND_ACKNOWLEDGEMENT: the `k`-th send that is not acknowledged has been placed by its receiver. -/
def execSendAcknowledgement (k : Nat) (s : State) : Out :=
  match s.unackedSends[k]? with
  | none => .next s
  | some (chain, m) =>
    let awaited := (s.collOf chain).any fun c => match s.awaited c with
      | .acks => true
      | _ => false
    .next { s with colls := mapIf (fun c => c.chain == chain) (fun c =>
      { (if awaited then c.revive s.clk else c) with
        unacked := c.unacked.erase m, parked := c.parked.filter fun x => !(x.1 == m.dst && x.2.1 == m.seq) }) s.colls }.tick

/-- A write of the launch unit or of an engine to another device is refused without a hint. It ends a running collective with the status
(R252, R270); that of a report, a completion word or a record's outcome is a dropped write of its chain (R425). -/
def State.refuseUnit (s : State) (chain status : Nat) : State :=
  match s.collOf chain with
  | some c => if c.live then s.failColl c status else s.unitFailed chain
  | none => s.unitFailed chain

/-- A request of this device is refused for good: of a unit, of a copy or of a thread. -/
def State.refuseFor (s : State) (owner : ThreadKey) (q : QItem) (cause status unit : Nat) : State :=
  match owner.chain with
  | some chain => s.refuseUnit chain unit
  | none => s.refuseRemote owner q cause status

/-- The event REFUSAL: a target refuses the `k`-th message; numbers beyond the messages are the collective sends. With a
hint the request is kept for re-sending. Without one, or for the class of its line, a copy ends with its status word and any
other request ends its thread's task (R160, R345). -/
def execRefusal (k : Nat) (why : RefusalWhy) (s : State) : Out :=
  match s.net[k]? with
  | some (.remote owner dev q .sent _) =>
    let s1 := { s with net := s.net.eraseIdx k }
    match why with
    | .hint h => .next { s with net := s.net.set k (.remote owner dev q (.refused h) s.clk) }.tick
    | .never => .next (s1.refuseFor owner q causeRemote copyRefused 6).settle.tick
    | .cls => .next (s1.refuseFor owner q causeAlias copyAlias 7).settle.tick
    | .stale => .next s
  | some _ => .next s
  | none =>
    match s.unackedSends[k - s.net.length]? with
    | some (chain, m) => .next (s.refuseSend chain m why).tick
    | none => .next s

/-- The event RETRY_RESEND: the hint of the `k`-th message has elapsed, and it is sent again (R304, R375); or what it waited for at its
source is complete, and it is sent (R316, R317). -/
def execRetryResend (k : Nat) (s : State) : Out :=
  match s.net[k]? with
  | some (.remote owner dev q (.refused h) at_) =>
    if at_ + (h.toNat + 1) * 256 ≤ s.clk then .next { s with net := s.net.set k (.remote owner dev q .sent s.clk) }.tick
    else .next s
  | some (.remote owner dev q .waits _) =>
    if s.waitsAtSource owner q (s.net.take k) then .next s
    else .next { s with net := s.net.set k (.remote owner dev q .sent s.clk) }.tick
  | some _ => .next s
  | none =>
    match s.unackedSends[k - s.net.length]? with
    | some (chain, m) => .next (s.resendColl chain m).tick
    | none => .next s

/-- The event DONE: a member's DONE arrives; one with another incarnation than the member table's shows that the member has failed
(R264). -/
def execDoneMsg (chain : Nat) (x : DoneFrom) (s : State) : Out :=
  let rank := x.rank
  match s.collOf chain with
  | none => .next s
  | some c =>
    if rank < c.n ∧ rank ≠ c.rank ∧ c.doneFrom.contains rank = false ∧ c.live = true then
      if memIncarn (c.member rank) ≠ x.incarn.toNat then .next (s.memberFails c rank).tick
      else
      let awaited := match s.awaited c with
        | .done => true
        | _ => false
      .next (s.setColl { (if awaited then c.revive s.clk else c) with doneFrom := rank :: c.doneFrom }).tick
    else .next s

/-- The event STALL: a step has waited longer than 2^TMO clocks, and the membership duty is told. -/
def execStall (chain : Nat) (s : State) : Out :=
  match s.collOf chain with
  | none => .next s
  | some c =>
    if c.phase = .run ∧ c.waitSince + 2 ^ c.tmo < s.clk ∧ s.collWaits c = true then
      .next { s.setColl { c with phase := .stall } with stallNotices := s.stallNotices ++ [(chain, c.collid, c.step)] }.tick
    else .next s

/-- Is the membership of a collective declared by the host (R265)? -/
def State.hostDeclares (s : State) (c : Coll) : Bool := c.host || s.dutyColl

/-- The event MEMBER_FAILED: the management core declares a member failed. -/
def execMemberFailed (chain rank : Nat) (s : State) : Out :=
  match s.collOf chain with
  | none => .next s
  | some c => if rank < c.n ∧ s.hostDeclares c = false then .next (s.memberFails c rank).tick else .next s

/-! ## The bench (R269) -/

/-- The oldest item of a bench leaves it: a write is performed, or dropped where its page no longer admits it; a message
is handled by R261, and stays while it would be refused. -/
def State.replayOne (s : State) (ctx : Nat) (x : BenchItem) (rest : List BenchItem) : State :=
  let s0 := s.setBench ctx rest
  match x with
  | .write q =>
    let s1 := { s0 with benches := s0.benches.filter fun b => b.ctx != ctx }
    match s1.admission q with
    | .unmapped =>
      let (s2, gone) := s.unmapped ctx (pageOf q.va.toNat)
      if gone then s2.setBench ctx rest else s2
    | .ok y =>
      if (s.cellAt (lineBase y.place.addr)).isSome then s.gatherAll [y.place]
      else (((s0.cutWs y.place q.data.length fun _ => true).writeBytes y.place q.data).wroteHome y.place noCore (reqCls q) noThread)
    | .retry | .bench => s
    | .refused | .aliasing => s0
  | .msg m => (s0.collTake m).getD s

/-- The event BENCH_REPLAY: one item of the bench of a context that is scheduled. -/
def execBenchReplay (ctx : Nat) (s : State) : Out :=
  if s.ready && s.scheduled ctx then
    match s.benchOf ctx with
    | [] => .next s
    | x :: rest => .next (s.replayOne ctx x rest).tick
  else .next s

end Sys2Proof.Machine
end

