-- ==== Sys2Proof/Machine/Float.lean ====
section
/-!
DEFINITION. Floating-point arithmetic (spec/04 R101 to R108).
-/
namespace Sys2Proof.Machine

open Sys2Proof

/-- The format of a floating operation type. -/
def fdt : FloatTy → DType
  | .f32 => .f32 | .f64 => .f64 | .b16 => .b16 | .h16 => .h16

/-- Data source A of a floating entry, decoded; .b16 and .h16 read bits [15:0] (R91). -/
def View.fval (v : View) (t : FloatTy) (r : RegNum) : Val := decodeCode (fdt t) (v.data r t.regs)
/-- Operand B of a floating entry, decoded. -/
def View.fsrc (v : View) (t : FloatTy) (b : Src) : Val := decodeCode (fdt t) (v.src b t.regs)
/-- The code of a source, cut to the format's width. -/
def View.fcode (v : View) (t : FloatTy) (r : RegNum) : Nat := v.data r t.regs % 2 ^ dtBits (fdt t)
def View.fcodeB (v : View) (t : FloatTy) (b : Src) : Nat := v.src b t.regs % 2 ^ dtBits (fdt t)

/-- The canonical quiet NaN of a type, with invalid for a signalling source. -/
def quietNan (t : FloatTy) (sig : Bool) : Rounded := { code := dtNan (fdt t), sts := Sts.when sig Sts.invalid }

/-- a < b with −0 below +0 (R104). -/
def minBelow (a b : Val) : Bool :=
  let c := cmpVal a b
  decide (c < 0) || (c == 0 && a.neg && !b.neg)

/-- FMIN and FMAX (R104); `mx` selects FMAX. -/
def minMax (t : FloatTy) (mx : Bool) (ca cb : Nat) : Rounded :=
  let a := decodeCode (fdt t) ca
  let b := decodeCode (fdt t) cb
  let iv := Sts.when (a.isSnan || b.isSnan) Sts.invalid
  if a.isNan && b.isNan then { code := dtNan (fdt t), sts := iv }
  else if a.isNan then { code := cb, sts := iv }
  else if b.isNan then { code := ca, sts := iv }
  else Rounded.exact (if minBelow a b != mx then ca else cb)

/-- FCMP (R105). -/
def fcmpVal (cc : FCond) (a b : Val) : Bool × Sts :=
  if a.isNan || b.isNan then
    let sig := a.isSnan || b.isSnan
    match cc with
    | .eq => (false, Sts.when sig Sts.invalid)
    | .ne => (true, Sts.when sig Sts.invalid)
    | .lt | .le | .gt | .ge => (false, Sts.invalid)
    | .un => (true, Sts.when sig Sts.invalid)
    | .ord => (false, Sts.when sig Sts.invalid)
  else
    let c := cmpVal a b
    (match cc with
     | .eq => c == 0 | .ne => c != 0 | .lt => decide (c < 0) | .le => decide (c ≤ 0)
     | .gt => decide (0 < c) | .ge => decide (0 ≤ c) | .un => false | .ord => true, Sts.none)

/-- The class bit of R106. -/
def classBit (t : DType) (c : Nat) : Nat :=
  match decodeCode t c with
  | .nan sig => if sig then 0 else 1
  | .inf neg => if neg then 2 else 9
  | .fin neg m _ =>
    let normal := decide (2 ^ dtMant t ≤ m)
    if m = 0 then (if neg then 5 else 6)
    else if normal then (if neg then 3 else 8)
    else (if neg then 4 else 7)

/-- FRINT (R107): the integer is exact in the type, and inexactness sets no flag. -/
def frintCode (t : FloatTy) (mode : Mode) (c : Nat) : Rounded :=
  match decodeCode (fdt t) c with
  | .nan sig => quietNan t sig
  | .inf _ => Rounded.exact c
  | .fin neg m e =>
    if m = 0 ∨ 0 ≤ e then Rounded.exact c
    else
      let q := rintMag mode neg m (2 ^ (-e).toNat)
      Rounded.exact (roundDy (fdt t) .rtz neg q 0).code

/-- FLDEXP (R107). An exponent beyond ±5,000 gives the same result as 5,000 does: the value is beyond every format. -/
def fldexpCode (t : FloatTy) (mode : Mode) (c : Nat) (n : Int) : Rounded :=
  match decodeCode (fdt t) c with
  | .nan sig => quietNan t sig
  | .inf _ => Rounded.exact c
  | .fin neg m e => if m = 0 then Rounded.exact c else roundDy (fdt t) mode neg m (e + max (-5000) (min 5000 n))

/-! ## The entries of R101 -/

/-- FADD. -/
def execFadd (g : Guards) (o : FloatBin) (s : State) : Out :=
  runAlu (.fadd g o) g o.b.isUniform o.d o.ty.regs s fun v =>
    fpAdd (fdt o.ty) o.mode (v.fval o.ty o.a) (v.fsrc o.ty o.b)
/-- FSUB: the second addend is −b. -/
def execFsub (g : Guards) (o : FloatBin) (s : State) : Out :=
  runAlu (.fsub g o) g o.b.isUniform o.d o.ty.regs s fun v =>
    fpAdd (fdt o.ty) o.mode (v.fval o.ty o.a) (v.fsrc o.ty o.b).negate
/-- FMUL. -/
def execFmul (g : Guards) (o : FloatBin) (s : State) : Out :=
  runAlu (.fmul g o) g o.b.isUniform o.d o.ty.regs s fun v =>
    fpMul (fdt o.ty) o.mode (v.fval o.ty o.a) (v.fsrc o.ty o.b)
/-- FFMA: one rounding of a × b + c. -/
def execFfma (g : Guards) (o : FloatTri) (s : State) : Out :=
  runAlu (.ffma g o) g o.b.isUniform o.d o.ty.regs s fun v =>
    fpFma (fdt o.ty) o.mode (v.fval o.ty o.a) (v.fsrc o.ty o.b) (v.fval o.ty o.c)
/-- FMIN. -/
def execFmin (g : Guards) (o : FloatSel) (s : State) : Out :=
  runAlu (.fmin g o) g o.b.isUniform o.d o.ty.regs s fun v =>
    minMax o.ty false (v.fcode o.ty o.a) (v.fcodeB o.ty o.b)
/-- FMAX. -/
def execFmax (g : Guards) (o : FloatSel) (s : State) : Out :=
  runAlu (.fmax g o) g o.b.isUniform o.d o.ty.regs s fun v =>
    minMax o.ty true (v.fcode o.ty o.a) (v.fcodeB o.ty o.b)
/-- FABS: the sign bit 0. -/
def execFabs (g : Guards) (o : FloatUn) (s : State) : Out :=
  runAlu (.fabs g o) g o.uniform o.d o.ty.regs s fun v =>
    Rounded.exact (v.fcode o.ty o.a % 2 ^ (dtBits (fdt o.ty) - 1))
/-- FNEG: the sign bit inverted. -/
def execFneg (g : Guards) (o : FloatUn) (s : State) : Out :=
  runAlu (.fneg g o) g o.uniform o.d o.ty.regs s fun v =>
    Rounded.exact (v.fcode o.ty o.a ^^^ 2 ^ (dtBits (fdt o.ty) - 1))
/-- FCMP. -/
def execFcmp (g : Guards) (o : FCmpOp) (s : State) : Out :=
  runCmp (.fcmp g o) g o.b.isUniform o.p s fun v => fcmpVal o.cc (v.fval o.ty o.a) (v.fsrc o.ty o.b)
/-- FCLASS. -/
def execFclass (g : Guards) (o : FloatUn) (s : State) : Out :=
  runAlu (.fclass g o) g o.uniform o.d 1 s fun v => Rounded.exact (2 ^ classBit (fdt o.ty) (v.fcode o.ty o.a))
/-- FRINT. -/
def execFrint (g : Guards) (o : FrintOp) (s : State) : Out :=
  runAlu (.frint g o) g o.uniform o.d o.ty.regs s fun v => frintCode o.ty o.mode (v.fcode o.ty o.a)
/-- FLDEXP: the exponent is a signed control operand. -/
def execFldexp (g : Guards) (o : FloatBin) (s : State) : Out :=
  runAlu (.fldexp g o) g o.b.isUniform o.d o.ty.regs s fun v =>
    fldexpCode o.ty o.mode (v.fcode o.ty o.a) (BitVec.ofNat 32 (v.ctl o.b)).toInt
/-- FCOPYSIGN: a with the sign bit of b. -/
def execFcopysign (g : Guards) (o : FloatSel) (s : State) : Out :=
  runAlu (.fcopysign g o) g o.b.isUniform o.d o.ty.regs s fun v =>
    let h := 2 ^ (dtBits (fdt o.ty) - 1)
    Rounded.exact (v.fcode o.ty o.a % h + v.fcodeB o.ty o.b / h * h)

end Sys2Proof.Machine
end

