-- ==== Sys2Proof/Machine/Convert.lean ====
section
/-!
DEFINITION. Conversions and random numbers (spec/04 R112 to R117).
-/
namespace Sys2Proof.Machine

open Sys2Proof

/-- CVT (R112): convert(a, st, 1, dt, 1, none, mode). -/
def cvtCode (o : CvtOp) (c : Nat) : Rounded :=
  convertInt o.st o.dt (convertVal (decodeCode o.st c) o.dt Scale.one 0 o.mode)

/-- CVT. -/
def execCvt (g : Guards) (o : CvtOp) (s : State) : Out :=
  runAlu (.cvt g o) g o.uniform o.d o.dt.regs s fun v => cvtCode o (v.data o.a o.st.regs)

/-- The unscaled type of CVTQ and CVTX. -/
def udt : UnscaledTy → DType
  | .f32 => .f32 | .b16 => .b16 | .h16 => .h16

/-- CVTQ (R113): `b` holds the scale byte and the extra byte. -/
def cvtqCode (o : CvtqOp) (a b : Nat) : Rounded :=
  let sc := decodeScale o.sf (b % 256)
  let x := b / 256 % 256
  if o.dequant then convertVal (decodeElem o.et a sc x) (udt o.ut) Scale.one 0 o.mode
  else convertVal (decodeCode (udt o.ut) a) o.et sc x o.mode

/-- CVTQ. -/
def execCvtq (g : Guards) (o : CvtqOp) (s : State) : Out :=
  runAlu (.cvtq g o) g o.b.isUniform o.d 1 s fun v => cvtqCode o (v.data o.a 1) (v.src o.b 1)

/-- M of R114 as m × 2^e: the largest magnitude of an element type. -/
def elemMax (t : DType) : Nat × Int :=
  match dtKind t with
  | .float =>
    match decodeFloat t (dtMaxCode t) with
    | .fin _ m e => (m, e)
    | .nan _ | .inf _ => (1, 0)
  | .signed | .unsigned => ((dtMaxI t).toNat, 0)

/-- CVTX (R114). -/
def cvtxCode (o : CvtxOp) (c : Nat) : Rounded :=
  match decodeCode (udt o.ut) c with
  | .nan _ | .inf _ =>
    { code := (match o.sf with
        | .p8 => 0xFF
        | .q8 => 0x7F), sts := Sts.invalid }
  | .fin _ m e =>
    if m = 0 then Rounded.exact (match o.sf with
      | .p8 => 0x7F
      | .q8 => 0x38)
    else
      let (mm, me) := elemMax o.et
      -- q = m × 2^e / (mm × 2^me)
      let k := e - me
      let n := if 0 ≤ k then m * 2 ^ k.toNat else m
      let d := if 0 ≤ k then mm else mm * 2 ^ (-k).toNat
      match o.sf with
      | .p8 =>
        let l := floorLog2 n d
        let exact := if 0 ≤ l then n == d * 2 ^ l.toNat else n * 2 ^ (-l).toNat == d
        let k := if exact then l else l + 1
        { code := (max (-127) (min 127 k) + 127).toNat, sts := Sts.when (decide (127 < k)) Sts.overflow }
      | .q8 =>
        let r := roundTo .e4m3 .rup false n d
        { r with code := r.code % 128 }

/-- CVTX. -/
def execCvtx (g : Guards) (o : CvtxOp) (s : State) : Out :=
  runAlu (.cvtx g o) g o.uniform o.d 1 s fun v => cvtxCode o (v.data o.a 1)

/-- `mix` of R117. -/
def mix (z : DWord) : DWord :=
  let z := (z ^^^ (z >>> 33)) * 0x8E3F4C51A7D26B19#64
  let z := (z ^^^ (z >>> 28)) * 0xC2B519E63D47F0A3#64
  z ^^^ (z >>> 31)

/-- The hash of R117. -/
def randHash (seed : DWord) (team tid a : Nat) : DWord :=
  let k := mix (seed ^^^ 0x5A173C9E0B6D48F2#64)
  let x := BitVec.ofNat 64 (team * 2 ^ 48 + tid * 2 ^ 32 + a)
  mix (mix (x ^^^ k) + k)

/-- The result of RAND from the hash (R117). -/
def randCode (t : RandTy) (h : DWord) : Nat :=
  match t with
  | .n32 => h.toNat % 2 ^ 32
  | .f32 => (roundDy .f32 .rne false (bitsNat h 40 24) (-24)).code
  | .i64 => h.toNat

/-- RAND. -/
def execRand (g : Guards) (o : RandOp) (s : State) : Out :=
  run (.rand g o) g s fun c act =>
    .ok (s.eachLane c act fun t =>
      t.putRegs o.d.val o.ty.regs (randCode o.ty (randHash c.tk.seed c.tm.team t.tid (t.reg o.a.val).toNat)))

end Sys2Proof.Machine
end

