-- ==== Sys2Proof/Machine/CrossLane.lean ====
section
/-!
DEFINITION. The cross-lane instructions that act within one warp (spec/04 R118 to R122, R125).
-/
namespace Sys2Proof.Machine

open Sys2Proof

/-- src(j): the value that warp lane `j` of the warp of `t` supplies (R118): the register of a thread of the group, active
or not, or 0. DESIGN CHOICE (log entry 67): a register at or above the allotment of a thread whose guard is false, which R66 step 6 does
not check, supplies 0, as does the offer of NBRL and NBRR. -/
def Ctx.supply (c : Ctx) (t : Thread) (a n : Nat) (j : Int) : Nat :=
  let w := c.tk.width
  match c.threads.find? fun u => warpOf w u.tid == warpOf w t.tid && (wlaneOf w u.tid : Int) == j with
  | some u => readRegs u.reg a n
  | none => 0

/-- Write to every active lane the value that the lane with the given index supplies. -/
def runMove (i : Instr) (g : Guards) (pair : Bool) (d a : RegNum) (s : State) (idx : Ctx → Thread → Int) : Out :=
  run i g s fun c act =>
    .ok (s.eachLane c act fun t => t.putRegs d.val (pairRegs pair) (c.supply t a.val (pairRegs pair) (idx c t)))

/-- PERM (R120): the index is read as unsigned; one at or beyond W gives 0, since no lane has it. -/
def execPerm (g : Guards) (o : PermOp) (s : State) : Out :=
  runMove (.perm g o) g o.pair o.d o.a s fun _ t => (t.reg o.i.val).toNat

/-- BCAST (R120). -/
def execBcast (g : Guards) (o : BcastOp) (s : State) : Out :=
  runMove (.bcast g o) g o.pair o.d o.a s fun c t =>
    match o.i with
    | .imm j => j.val
    | .sc r => ((c.warp t).sreg r.val).toNat

/-- SHUP: lane i reads lane i − n (R120). -/
def execShup (g : Guards) (o : LaneShift) (s : State) : Out :=
  runMove (.shup g o) g o.pair o.d o.a s fun c t =>
    let j := (wlaneOf c.tk.width t.tid : Int) - o.n.val
    if o.wrap then j % c.tk.width else j

/-- SHDN: lane i reads lane i + n (R120). -/
def execShdn (g : Guards) (o : LaneShift) (s : State) : Out :=
  runMove (.shdn g o) g o.pair o.d o.a s fun c t =>
    let j := (wlaneOf c.tk.width t.tid : Int) + o.n.val
    if o.wrap then j % c.tk.width else j

/-- The active lanes of the warp of `t` in which `p` holds. -/
def voters (c : Ctx) (act : List Thread) (t : Thread) (p : PredNum) : List Thread :=
  act.filter fun u => c.warpNo u == c.warpNo t && u.pred p.val

/-- VOTE (R121): over the active lanes of the warp. -/
def execVote (g : Guards) (o : VoteOp) (s : State) : Out :=
  run (.vote g o) g s fun c act =>
    .ok (s.eachLane c act fun t =>
      match o with
      | .all d p => t.setPred d.val ((voters c act t p).length == (act.filter fun u => c.warpNo u == c.warpNo t).length)
      | .any d p => t.setPred d.val (!(voters c act t p).isEmpty)
      | .ballot d p =>
        t.putRegs d.val (pairRegs c.wide) (laneMask c.tk.width (c.warpNo t) ((voters c act t p).map (·.tid)))
      | .count d p => t.putRegs d.val 1 (voters c act t p).length)

/-- MATCH (R122): the active lanes whose value equals this lane's. -/
def execMatchLanes (g : Guards) (o : LaneOp) (s : State) : Out :=
  run (.matchLanes g o) g s fun c act =>
    .ok (s.eachLane c act fun t =>
      let n := pairRegs o.pair
      let same := act.filter fun u => c.warpNo u == c.warpNo t && readRegs u.reg o.a.val n == readRegs t.reg o.a.val n
      t.putRegs o.d.val (pairRegs c.wide) (laneMask c.tk.width (c.warpNo t) (same.map (·.tid))))

end Sys2Proof.Machine
end

