-- ==== Sys2Proof/Machine/Errors.lean ====
section
/-!
DEFINITION. Errors of storage (spec/20 R404, R405, spec/09 R232), and units that leave service, rejoin or are lost (R406 to
R408).
-/
namespace Sys2Proof.Machine

open Sys2Proof

/-! ## Who is concerned -/

/-- A thread of a team whose record a fault of the whole task shows: any. -/
def State.someThread (s : State) (task team : Nat) : ThreadKey :=
  let n := match s.task? task with
    | some t => t.threads
    | none => 1
  { task := task, team := team, tid := Config.freePick (s.key 5) % max 1 n }

/-- A task ends with ECC (R404). -/
def State.endEcc (s : State) (task team reason : Nat) : State := s.endTaskLate (s.someThread task team) causeEcc reason

/-- A whole task ends with ECC: the thread whose record is shown is any thread of any of its teams (log entry 33). -/
def State.endEccTask (s : State) (t : Task) (reason : Nat) : State := s.endEcc t.id (Config.freePick (s.key 4) % max 1 t.gridSize) reason

/-- Does the lease of a task cover a page of one of the leaves? -/
def State.leaseMeets (s : State) (t : Task) (ls : List Leaf) : Bool :=
  let rs := s.leaseList (s.leaseOf t.slot)
  ls.any fun l => l.ctx == t.ctx && rs.any fun r => decide (r.1 < l.va / 65536 + 2 ^ (l.size - 16)) && decide (l.va / 65536 < r.1 + r.2.1)

/-- The leases with GRANTED = 1 whose ranges meet a leaf, in its context or, where no bind record names one, in any. -/
def State.grantsOver (s : State) (l : Leaf) : List Nat :=
  (s.tableEntries s.lsdir 65536).filter fun k =>
    let cs := s.leaseCtxs k
    bitAt (s.leaseEntry k) 63 && (cs.isEmpty || cs.contains l.ctx) &&
      (s.leaseList k).any fun r => (meetRange (r.1, r.2.1) (l.va / 65536, 2 ^ (l.size - 16))).isSome

/-- Retire the pages that `p` names (R405): tasks whose lease covers one end with ECC, the leases over them are no longer granted (R370), the
pages are unmapped from every context, and the frames are never allocated again. -/
def State.retirePages (s : State) (p : Nat → Bool) (reason : Nat) : State :=
  let ls := s.leavesOf p
  let s := (s.tasks.filter fun t => s.leaseMeets t ls).foldl (fun s t => s.endEccTask t reason) s
  let s := (ls.flatMap s.grantsOver).dedup.foldl (fun s k => s.setLeaseEntry k (setField (s.leaseEntry k) 63 1 0)) s
  ls.foldl (fun s l => (s.writePte l (setField l.pte 0 1 0)).shootLeaf l) s

/-! ## ECC (R404, R405) -/

/-- REASON of an array (R390). -/
def eccReason : ErrArray → Nat
  | .vectorFile => 1 | .scalarFile => 2 | .accFile => 3 | .scratchpad => 4 | .l1 => 5 | .l2 => 6 | .hbm => 7
  | .inningBuffer => 8 | .saveArea => 7 | .staging => 0

/-- The event CORRECTABLE_ERROR: corrected in place and entered in the error log. -/
def execCorrectableError (site : ErrSite) (s : State) : Out :=
  .next { s with errorLog := s.errorLog ++ [Config.errorEntry (s.key site.addr)] }.tick

/-- The page of a frame is retired, and the error is reported. -/
def State.retireFrame (s : State) (pa : Nat) : State :=
  let s := s.retirePages (· == pa / 65536) 9
  ({ s with retired := s.retired ++ [pa / 65536], badLines := s.badLines.filter fun l => l / 65536 != pa / 65536 }).logError (Config.errorEntry (s.key pa))

/-- An error in a partial of a line that is in an accumulate state: the gather does not end, the tasks that wait on the
line end, and the page is retired (R232). -/
def State.damageCell (s : State) (line : Nat) : State :=
  let cls := match s.cellAt line with
    | some c => c.cls
    | none => .rc
  let waiting := ((s.cellAt line).map fun c => c.waiting).getD []
  let s := s.stickCell line cls
  let hit := s.tasks.filter fun t => waiting.any fun r => match r with
    | .load ow _ _ _ _ _ _ | .atom _ ow _ _ _ _ _ | .ldaccZero _ ow _ _ _ _ => ow.task == t.id
    | .store _ w => w.owner.task == t.id
    | .contrib _ _ _ _ | .reg _ _ | .remote _ _ | .clean => false
  (hit.foldl (fun s t => s.endEccTask t 6) s).retireFrame line

/-- The event CONTRIBUTION: the `k`-th message reaches its home, a chunk its engine (R262). A second copy that carries no replay mark is an error in the merge
of the line (R229, R232). One for a line whose set has every way locked waits (R376). -/
def execContribution (k : Nat) (s : State) : Out :=
  match s.takeOrdered k with
  | some (.contribution line cls term pairs owners _ replay [], s1) =>
    if !s1.cellRoom line then .next s
    else match s1.homeMerge line cls term pairs owners replay with
    | some s2 => .next s2.tick
    | none => .next (s1.damageCell line).settle.tick
  | some (.chunk key v pairs _ _ [], s1) => .next (s1.takeChunk key v pairs).tick
  | _ => .next s

/-- The core of a site's team. -/
def State.siteCore (s : State) (site : ErrSite) : Option Nat := s.coreOf site.task site.team

/-- The event UNCORRECTABLE_ERROR. A clean line of an L1 or an L2 slice is dropped; damage in an accumulate state is that of R232; data
that a task consumes ends the task; where no task consumes it, a unit of the device finds it at its next read of the line (R270,
R290, R291); a collective ends with status 5; other damage in memory retires the page. -/
def execUncorrectableError (site : ErrSite) (s : State) : Out :=
  let p := (devPlace site.addr).line
  let chain := ((s.task? site.task).map (·.chain)).getD 0
  let ends := fun (s : State) =>
    (s.endEcc site.task site.team (eccReason site.array)).logError (Config.errorEntry (s.key site.addr)) site.team chain
  match site.array with
  | .l1 =>
    match s.l1.find? fun l => some l.core == s.siteCore site && l.place == p with
    | some l =>
      if l.dirty = 0 then .next { s with l1 := s.l1.erase l }.tick
      else if site.consumed then .next (ends { s with l1 := s.l1.erase l }).settle.tick
      else .next ({ s with l1 := s.l1.erase l }.retireFrame site.addr).settle.tick
    | none => .next s
  | .l2 =>
    if (s.cellAt p.addr).isSome || s.partials.any fun x => x.line == p.addr then .next (s.damageCell p.addr).settle.tick
    else if !site.dirty then .next { s with l2 := s.l2.filter (fun x => x.place != p), replicas := s.replicas.filter fun x => x.place != p }.tick
    else if site.consumed then .next (ends s).settle.tick
    else .next (s.retireFrame site.addr).settle.tick
  | .hbm =>
    if !site.consumed then .next (s.retireFrame site.addr).settle.tick
    else if (s.task? site.task).isSome then .next (ends s).settle.tick
    else .next { s with badLines := p.addr :: s.badLines.erase p.addr }.tick
  | .staging =>
    match s.collOf site.task with
    | some c => if c.live then .next (s.failColl c 5).tick else .next s
    | none => .next s
  | .inningBuffer | .saveArea => .next (ends s).settle.tick
  | .vectorFile | .scalarFile | .accFile | .scratchpad =>
    if site.consumed then .next (ends s).settle.tick else .next (s.logError (Config.errorEntry (s.key site.addr))).tick

/-- The event PAGE_RETIRE. -/
def execPageRetire (pa : Nat) (s : State) : Out :=
  if pa < physLimit then .next (s.retireFrame pa).settle.tick else .next s

/-! ## Units (R406 to R408) -/

/-- The cores of a league, its clubs and its slices. -/
def leagueCores (league : Nat) : List Nat := (List.range 16).map fun j => 16 * league + j

/-- Write CSTATE and VALID of the rows of a league's cores that are not fused off. -/
def State.setRows (s : State) (league cstate : Nat) (clear : Bool) : State :=
  (leagueCores league).foldl (fun s k =>
    let r := s.row k
    if rowCstate r = 1 then s
    else
      let r := setField r 61 2 cstate
      { s with remap := Sparse.set 0 s.remap k (if clear then setField r 63 1 0 else r) }) s

/-- The unit's clubs leave every directory. -/
def State.purgeDirectory (s : State) (league : Nat) : State :=
  { s with directory := s.directory.filter fun k => k % 64 / 4 != league }

/-- Is a slice of the league? -/
def sliceIn (league slice : Nat) : Bool := slice / 4 == league

/-- The unit's cores, clubs and slices hold nothing more. -/
def State.resetUnit (s : State) (league : Nat) : State :=
  let cores := leagueCores league
  { s with l2 := s.l2.filter (fun l => !sliceIn league (homeSliceOf l.place)), replicas := s.replicas.filter (fun r => r.club / 4 != league),
           l1 := s.l1.filter (fun l => !cores.contains l.core), ltb := s.ltb.filter (fun l => !cores.contains l.core),
           filters := s.filters.filter (fun x => !sliceIn league x.1), dirty := s.dirty.filter (fun x => !cores.contains x.1),
           huddles := s.huddles.filter fun h => !cores.contains (h.1 / 4) }

/-- Does a message under way come from a core or a slice of the league? Engines, the management core and the host's answers are of no
league; of the data that a slice returns, those who would read it have ended (R408). -/
def Msg.fromLeague (league : Nat) : Msg → Bool
  | .store core _ => leagueOf core == league
  | .contribution _ _ _ pairs _ _ _ _ => pairs.any fun p => decide (p.1 < 64) && sliceIn league p.1
  | .remote _ _ q _ _ => q.via.core.any fun core => leagueOf core == league
  | .chunk _ _ _ _ _ _ | .load _ _ _ | .mgmtReply _ _ _ | .passOutcome _ _ _ | .hostWrite _ _ _ | .backInval _ _ => false
  | .reg slice _ _ | .surr slice _ _ _ _ | .surrE slice _ _ _ | .none_ slice _ => sliceIn league slice
  | .regack _ line | .collect _ line => sliceIn league (cellHome line)
  | .token p _ _ _ | .probe p _ _ _ _ | .pass p _ _ _ _ _ _ _ _ => p.space == .dev && sliceIn league (homeSliceOf p)
  | .probeAck _ club _ _ => club / 4 == league

/-- Messages that a unit sent under the incarnation that it has lost are refused at their receivers and never performed
(R407). A term that one of them held is missing from its line, which stays without a sum (R232). -/
def State.refuseStale (s : State) (league : Nat) : State :=
  let stale := fun (m : Msg) => m.fromLeague league || match m with
    | .hostWrite ow _ _ => (s.coreOf ow.task ow.team).any fun core => leagueOf core == league
    | _ => false
  let old := s.net.filter stale
  old.foldl (fun s m => match m with
    | .contribution line cls _ _ _ _ _ _ | .surr _ line cls _ _ | .surrE _ line cls _ => s.stickCell line cls
    | _ => s) { s with net := s.net.filter fun m => !stale m }

/-- The event UNIT_OUT_OF_SERVICE: the league's rows go to CSTATE 2, and its teams leave it; the pages homed there are migrated
(MIGRATION), and it waits while one is left; then its cells are gathered, its partials surrendered and the bowls emptied; when
nothing is left its clubs leave the directories and it is reset. -/
def execUnitOutOfService (league : Nat) (s : State) : Out :=
  if 16 ≤ league ∨ s.ready = false then .next s
  else if (leagueCores league).any fun k => rowCstate (s.row k) != 2 && rowCstate (s.row k) != 1 then
    .next (s.setRows league 2 true).tick
  else if (s.teams.any fun tm => leagueOf tm.core == league) || !(s.leavesOf (frameIn league)).isEmpty then .next s
  else
    let cells := s.cells.filter fun c => sliceIn league (cellHome c.line) || (List.range 64).any fun j => sliceIn league j && bitAt c.h j
    let parts := s.partials.any fun x => sliceIn league x.slice
    if cells.isEmpty && !parts && s.bowls.isEmpty then .next ((s.purgeDirectory league).resetUnit league).tick
    else .next ((s.bowls.foldl State.emitBowl s).gatherAll (cells.map fun c => devPlace c.line)).tick

/-- An incarnation number advances, modulo 2^16: of a league, or under 64 of the device (R264, R407). -/
def State.advanceIncarn (s : State) (k : Nat) : State := { s with incarn := Sparse.set 0 s.incarn k (Sparse.get 0 s.incarn k + 1) }

/-- The event UNIT_REJOIN: the incarnations advance, the directories are purged, the unit comes back empty, and its rows
return to CSTATE 0. Collectives of the device see the new incarnation (R265). -/
def execUnitRejoin (league : Nat) (s : State) : Out :=
  if 16 ≤ league ∨ s.ready = false ∨ !((leagueCores league).any fun k => rowCstate (s.row k) == 2) = true then .next s
  else
    let s1 := { (s.advanceIncarn league).advanceIncarn 64 with downUnits := s.downUnits.filter (· != league) }
    let s2 := (((s1.purgeDirectory league).resetUnit league).refuseStale league).setRows league 0 false
    .next ((s2.colls.filter fun c => !s2.hostDeclares c).foldl (fun s c => s.memberFails c c.rank) s2).tick

/-- The event UNIT_LOSS: tasks with a team on the unit, and tasks whose lease covers a page homed there, end with ECC,
reason 10; those pages are retired; what the unit's caches held is gone; the device's incarnation changes, and its collectives fail: those
whose members the host declares see it in refusals (R264), as R408 says. The unit comes back by UNIT_REJOIN alone. -/
def execUnitLoss (league : Nat) (s : State) : Out :=
  if 16 ≤ league then .next s
  else
    let s1 := s.setRows league 2 true
    let hit := s1.teams.filter fun tm => leagueOf tm.core == league
    let s2 := hit.foldl (fun s tm => s.endEcc tm.task tm.team 10) s1
    let s3 := s2.retirePages (frameIn league) 10
    let lost := s3.partials.filter fun x => sliceIn league x.slice && !sliceIn league (cellHome x.line)
    let gone := fun (line : Nat) => sliceIn league (cellHome line)
    let s4 : State := { s3 with
      partials := s3.partials.filter (fun x => !sliceIn league x.slice && !gone x.line)
      cells := s3.cells.filter (fun c => !gone c.line)
      lostUnits := league :: s3.lostUnits
      downUnits := league :: s3.downUnits.filter (· != league) }
    let s5 := lost.foldl (fun s x => s.stickCell x.line x.cls) s4
    let s6 := ((s5.resetUnit league).advanceIncarn 64).logError (Config.errorEntry (s.key league))
    .next ((s6.colls.filter fun c => !s6.hostDeclares c).foldl (fun s c => s.memberFails c c.rank) s6).settle.tick

end Sys2Proof.Machine
end

