-- ==== Sys2Proof/Machine/Mgmt.lean ====
section
/-!
DEFINITION. The management core's replies to MGMT (spec/05 R147, spec/14 R310): each event serves the `k`-th request that
waits, and MGMT_REPLY delivers a reply.
-/
namespace Sys2Proof.Machine

open Sys2Proof

/-- A thread leaves its wait for a reply. -/
def Thread.answered (t : Thread) : Thread := if t.wait = .mgmt then t.ready else t

/-- The event MGMT_REPLY: the `k`-th message is a reply; it is written to s(D) of the warp, and the threads are released. -/
def execMgmtReply (k : Nat) (s : State) : Out :=
  match s.net[k]? with
  | some (.mgmtReply owners dst reply) =>
    let s1 := { s with net := s.net.eraseIdx k }
    .next (match owners with
      | [] => s1
      | o :: _ =>
        match s1.task? o.task with
        | none => s1
        | some tk =>
          let s2 := owners.foldl (fun (s : State) k => s.modThread k Thread.answered) s1
          (s2.modTeam o.task o.team fun tm => tm.modWarp (warpOf tk.width o.tid) fun w => w.setSreg dst reply).settle).tick
  | _ => .next s

/-- Take the `k`-th request if it has the code that `p` accepts. -/
def State.takeRequest (s : State) (k : Nat) (p : BitVec 8 → Bool) : Option (MgmtReq × State) :=
  match s.mgmt[k]? with
  | some q => if p q.code then some (q, { s with mgmt := s.mgmt.eraseIdx k }) else none
  | none => none

/-- Answer a request. -/
def State.answer (s : State) (q : MgmtReq) (reply : Word) : State :=
  { s with net := s.net ++ [.mgmtReply q.owners q.dst reply] }

/-- The event VERSION: the version of the firmware that runs. -/
def execVersion (k : Nat) (s : State) : Out :=
  match s.takeRequest k (· == 0) with
  | some (q, s1) => .next (s1.answer q s1.firmware.running).tick
  | none => .next s

/-- The event SETSEED. -/
def execSetseed (k : Nat) (s : State) : Out :=
  match s.takeRequest k (· == 1) with
  | some (q, s1) => .next ((s1.writeSeed q.arg).answer q 0).tick
  | none => .next s

/-- The task of a request. -/
def State.requestTask (s : State) (q : MgmtReq) : Option Task := (q.owners.head?).bind fun o => s.task? o.task

/-- Pending records of a chain for a task, if LNCH is permitted on it (R287). -/
def State.chainQuery (s : State) (tk : Task) (arg : Nat) : Nat :=
  let d := s.chain arg
  if arg < 256 ∧ chainValid d = true ∧ chainCtx d = tk.ctx then chainPending d else 0xFFFFFFFE

/-- The event CHAINQ. -/
def execChainq (k : Nat) (s : State) : Out :=
  match s.takeRequest k (· == 2) with
  | some (q, s1) =>
    let reply := match s1.requestTask q with
      | some tk => s1.chainQuery tk q.arg.toNat
      | none => 0xFFFFFFFE
    .next (s1.answer q (BitVec.ofNat 32 reply)).tick
  | none => .next s

/-- The event LEASEQ: does the address lie within the task's lease? -/
def execLeaseq (k : Nat) (s : State) : Out :=
  match s.takeRequest k (· == 3) with
  | some (q, s1) =>
    match s1.requestTask q with
    | none => .next (s1.answer q 0).tick
    | some tk =>
      if 2 ^ 57 ≤ q.arg.toNat then .next (s1.answer q 0).tick
      else match s1.leaseCheck (s1.leaseOf tk.slot) (pageOf q.arg.toNat) with
        | .covered _ => .next (s1.answer q 1).tick
        | .outside => .next (s1.answer q 0).tick
        | .revoked => .next (s1.answer q 0).tick
        | .hole h => .fault (.physicalHole h)
  | none => .next s

/-- The event NOTIFY: the value and the team are posted to the host's event queue; the reply follows the entry (R416). -/
def execNotify (k : Nat) (s : State) : Out :=
  match s.takeRequest k (· == 4) with
  | some (q, s1) =>
    let team := ((q.owners.head?).map (·.team)).getD 0
    .next (s1.postEvent { kind := 1, team := team, value := q.arg, body := 0, reply := some (q.owners, q.dst) }).tick
  | none => .next s

/-- The event UNSERVED_MGMT_CODE. -/
def execUnservedMgmtCode (k : Nat) (s : State) : Out :=
  match s.takeRequest k fun c => 4 < c.toNat with
  | some (q, s1) => .next (s1.answer q 0xFFFFFFFF).tick
  | none => .next s

end Sys2Proof.Machine
end

