-- ==== Sys2Proof/Machine/HostIf.lean ====
section
/-!
DEFINITION. The host's register window and management commands (spec/21 R410 to R416), firmware (R417), the states of the
device (R418), identity (R419 to R421), links and ports (R409, R422), power and cooling (R423, R424).
-/
namespace Sys2Proof.Machine

open Sys2Proof

/-! ## Registers (R410) -/

/-- DUTY (R312, R421): dropped whole with a reserved bit, or when a bit would rise while IDE is not established. -/
def State.writeDuty (s : State) (v : BitVec 64) : State :=
  if bitsNat v 5 59 ≠ 0 then s
  else if !s.ide && (v &&& ~~~s.windowReg 0x18) != 0 then s
  else s.setWindow 0x18 v

/-- PODID (R422): dropped once bring-up has begun. -/
def State.writePodid (s : State) (v : BitVec 64) : State :=
  if s.portsBegun then s else { s.setWindow 0x38 (BitVec.ofNat 64 (bitsNat v 0 10)) with podWritten := true }

/-- EVQBASE (R416): held entries are discarded, and EVQTAIL then restarts at EVQHEAD. The request of a discarded NOTIFY is
answered all the same (R147). -/
def State.writeEvqbase (s : State) (v : BitVec 64) : State :=
  let v' := BitVec.ofNat 64 (bitsNat v 7 50 * 128 + bitsNat v 0 4)
  let s1 := s.setWindow 0x58 v'
  if s.heldEvents.isEmpty then s1
  else
    let replies := s.heldEvents.filterMap fun e => e.reply.map fun r => Msg.mgmtReply r.1 r.2 0
    { s1.setWindow 0x68 (s1.windowReg 0x60) with heldEvents := [], net := s1.net ++ replies }

/-- EVQHEAD (R416): entries are free again, and held events are written. -/
def State.writeEvqhead (s : State) (v : BitVec 64) : State :=
  let s1 := s.setWindow 0x60 (BitVec.ofNat 64 (v.toNat % 2 ^ 32))
  s1.drainEvents s1.heldEvents

/-- PLIM (R423). -/
def State.writePlim (s : State) (v : BitVec 64) : State := if 2000 ≤ v.toNat ∧ v.toNat ≤ 8000 then s.setWindow 0x70 v else s

/-! ## Firmware (R417) -/

/-- FWCTL reads as it was last written, with the status in bits [7:4] (R410, R417). -/
def State.setFirmware (s : State) (f : Firmware) : State := { s with firmware := f }.setWindow 0x80 (setField f.control 4 4 f.status)

/-- OPEN: accepted in AWAIT IMAGE, or in READY with every bind record FREE. -/
def State.fwOpen (s : State) (v : BitVec 64) : State :=
  let free := s.slots.all fun x => x.2.state == .free
  if s.dstate = .await ∨ (s.dstate = .ready ∧ free = true) then
    { s with firmware := { s.firmware with opened := true, total := bitsNat v 32 32, staging := [] } }
  else s

/-- Bytes of a piece that FWWIN holds. -/
def Firmware.piece (f : Firmware) : List Byte := Memory.bytes f.window 0 4096

/-- A piece number: the 4 KiB of FWWIN are taken as that piece. -/
def State.fwPiece (s : State) (v : BitVec 64) : State :=
  let k := bitsNat v 8 24
  let f := s.firmware
  if f.opened && f.status != 2 && decide (4096 * k < f.total) && decide (f.total ≤ 2 ^ 23) then
    let pad := f.staging ++ List.replicate (4096 * (k + 1) - f.staging.length) 0
    { s with firmware := { f with staging := overlay pad (4096 * k) f.piece } }
  else s

/-- COMMIT: the device begins to write the slot, which is not valid until it is written. -/
def State.fwBegin (s : State) : State :=
  let f := s.firmware
  if f.opened && f.status != 2 then s.setFirmware { f with status := 2, valid := false } else s

/-- The slot has been written, or the image is rejected. -/
def State.fwFinish (s : State) : State :=
  let f := s.firmware
  if !f.opened then s
  else
    let whole := decide (f.total ≤ f.staging.length) && decide (f.total ≤ 2 ^ 23) && decide (4096 ≤ f.total)
    let f' := if whole then { f with image := f.staging.take f.total, valid := true, opened := false, staging := [], status := 0 }
      else { f with opened := false, staging := [], status := 1 }
    let s1 := s.setFirmware f'
    if s.dstate = .await ∧ whole = true then { s1 with dstate := .rom } else s1

/-- A field of the image's header. -/
def imageField (img : List Byte) (o n : Nat) : Nat := leNat ((img.drop o).take n)

/-- Bytes of an image. -/
def imageBytes (img : List Byte) (o n : Nat) : List Byte := (img.drop o).take n
def imagePubkey (img : List Byte) : List Byte := imageBytes img 64 1312
def imageSvn (img : List Byte) : Nat := imageField img 8 4
/-- DIGEST: header bytes 0 to 1,375, then the body. -/
def imageDigest (img : List Byte) : BitVec 256 := Config.sha3 (imageBytes img 0 1376 ++ imageBytes img 4096 (imageField img 12 4))

/-- The boot ROM's test of an image: its fields, the key that the fuses name, the smallest security version, and the signature. -/
def imageOk (img : List Byte) : Bool :=
  let len := imageField img 12 4
  imageField img 0 4 == 0x46574B57 && len % 4096 == 0 && decide (len ≤ 3 * 2 ^ 20) && decide (4096 + len ≤ img.length) &&
    imageField img 16 48 == 0 && imageField img 3796 300 == 0 && Config.sha3 (imagePubkey img) == Config.keyHash &&
    decide (Config.minSvn ≤ imageSvn img) && Config.sigOk (imagePubkey img) (imageBytes img 1376 2420) (imageDigest img)

/-- A write of FWCTL: OPEN, COMMIT, or a piece number. -/
def State.writeFwctl (s : State) (v : BitVec 64) : State :=
  let s := s.setFirmware { s.firmware with control := v }
  if bitAt v 0 then s.fwOpen v else if bitAt v 1 then s.fwBegin else s.fwPiece v

/-- The event SEED. -/
def execSeed (v : BitVec 64) (s : State) : Out := .next (s.writeSeed v).tick
/-- The event DUTY. -/
def execDuty (v : BitVec 64) (s : State) : Out := .next (s.writeDuty v).tick
/-- The event PODID. -/
def execPodid (v : BitVec 64) (s : State) : Out := .next (s.writePodid v).tick
/-- The event EVQBASE. -/
def execEvqbase (v : BitVec 64) (s : State) : Out := .next (s.writeEvqbase v).tick
/-- The event EVQHEAD. -/
def execEvqhead (v : BitVec 64) (s : State) : Out := .next (s.writeEvqhead v).tick
/-- The event PLIM. -/
def execPlim (v : BitVec 64) (s : State) : Out := .next (s.writePlim v).tick
/-- The event FW_OPEN: a write of FWCTL with OPEN = 1. -/
def execFwOpen (v : BitVec 64) (s : State) : Out := if bitAt v 0 then .next (s.writeFwctl v).tick else .next s
/-- The event FW_PIECE: a write of FWCTL with neither OPEN nor COMMIT. -/
def execFwPiece (v : BitVec 64) (s : State) : Out := if bitsNat v 0 2 = 0 then .next (s.writeFwctl v).tick else .next s
/-- The event FW_COMMIT: a write of FWCTL with COMMIT = 1, or the completion of the slot's write. -/
def execFwCommit (v : BitVec 64) (s : State) : Out :=
  if s.firmware.status = 2 then .next s.fwFinish.tick
  else if bitAt v 1 && !bitAt v 0 then .next (s.writeFwctl v).tick else .next s

/-! ## Management commands (R412, R413) -/

/-- The payload in MCMDBUF. -/
def State.mcmdBuf (s : State) : BitVec 512 :=
  BitVec.ofNat 512 ((List.range 8).foldl (fun n k => n + (s.windowReg (0x100 + 8 * k)).toNat * 2 ^ (64 * k)) 0)

/-- A write of MCMD with opcode `opc`: dropped before READY, or with OVR set while BUSY = 1; RESULT 1 where the duty is not
host-assisted; otherwise the command runs on the payload. -/
def mcmd (opc : Nat) (duty : State → BitVec 512 → Bool) (f : State → BitVec 512 → State × Option Nat) (v : BitVec 64) (s : State) : State :=
  if !s.ready then s.setMstat 1 7 2
  else if s.command.isSome then s.setMstat 16 1 1
  else
    let buf := s.mcmdBuf
    let s1 := s.setMstat 8 8 opc
    if !duty s buf then s1.setMstat 1 7 1
    else
      let (s2, r) := f (s1.setMstat 16 1 0) buf
      match r with
      | some k => s2.setMstat 1 7 k
      | none => { s2.setMstat 0 1 1 with command := some (v, buf) }

/-- Run a command event: only for its own opcode. -/
def runMcmd (opc : Nat) (duty : State → BitVec 512 → Bool) (f : State → BitVec 512 → State × Option Nat) (v : BitVec 64) (s : State) : Out :=
  if bitsNat v 0 8 = opc then .next (mcmd opc duty f v s).settle.tick else .next s

/-- The result of an operation as that of a command. -/
def done (x : State × Nat) : State × Option Nat := (x.1, some x.2)

/-- BINDW. -/
def cmdBindw (v : BitVec 64) (s : State) (b : BitVec 512) : State × Option Nat := done (s.bindCommand (bitsNat v 8 8) b)
/-- REMAPW. -/
def cmdRemapw (v : BitVec 64) (s : State) (b : BitVec 512) : State × Option Nat :=
  done (s.writeRow (bitsNat v 16 2) (bitsNat v 24 6) (b.extractLsb' 0 64))
/-- CHAINW. -/
def cmdChainw (v : BitVec 64) (s : State) (b : BitVec 512) : State × Option Nat := done (s.writeChain (bitsNat v 8 8) b)
/-- XLSHOOT: BUSY stays until TRANSLATION_SHOOTDOWN has made the shootdown. -/
def cmdXlshoot (s : State) (b : BitVec 512) : State × Option Nat :=
  if 2 ^ 57 < bitsNat b 64 64 + bitsNat b 128 64 then (s, some 3) else (s, none)
/-- CLASSCHG: BUSY stays until CLASS_CHANGE has made step 5 of R344. -/
def cmdClasschg (s : State) (b : BitVec 512) : State × Option Nat :=
  if 4 < bitsNat b 192 8 ∨ 2 ^ 57 ≤ bitsNat b 64 64 ∨ (s.leaf? (bitsNat b 0 16) (bitsNat b 64 64)).isNone then (s, some 3)
  else (s, none)
/-- MIGDONE: the page's held accesses are presented again. -/
def cmdMigdone (s : State) (b : BitVec 512) : State × Option Nat :=
  match s.leaf? (bitsNat b 0 16) (bitsNat b 64 64) with
  | none => (s, some 3)
  | some l => if pteMig l.pte then (s, some 2) else (s.wakeHeld l.ctx l.pages, some 0)
/-- MEMFAIL. -/
def cmdMemfail (s : State) (b : BitVec 512) : State × Option Nat :=
  let rank := bitsNat b 32 16
  match s.colls.filter fun c => c.collid.toNat == bitsNat b 0 32 && c.live && decide (rank < c.n) with
  | [] => (s, some 3)
  | cs => (cs.foldl (fun s c => s.memberFails c rank) s, some 0)
/-- Would a write change bit 63 of a lease directory entry (R413)? -/
def State.touchesGranted (s : State) (a : Nat) (w : Nat) : Bool :=
  decide (s.lsdir ≤ a) && decide (a < s.lsdir + 8 * 65536) && Memory.nat s.mem a 8 / 2 ^ 63 % 2 != w / 2 ^ 63 % 2
/-- The words of a PWRITE, with their addresses. -/
def pwriteWords (b : BitVec 512) : List (Nat × Nat) :=
  (List.range (bitsNat b 64 8)).map fun k => (bitsNat b 0 64 + 8 * k, bitsNat b (128 + 64 * k) 64)

/-- The places of the lines that words meet; the lines of a range that the predicate names. -/
def wordLines (ws : List (Nat × Nat)) : List Place := (ws.map fun x => (devPlace x.1).line).dedup
/-- The lines of a list whose cells are in an accumulate state. -/
def State.cellsAmong (s : State) (ps : List Place) : List Place := ps.filter fun p => (s.cellAt p.addr).isSome

/-- The leases whose directory entries words meet. -/
def State.leasesAt (s : State) (ws : List (Nat × Nat)) : List Nat :=
  (ws.filter fun x => decide (s.lsdir ≤ x.1) && decide (x.1 < s.lsdir + 8 * 65536)).map fun x => (x.1 - s.lsdir) / 8

/-- The words of a PWRITE are written: page table entries and lease directory entries among them take effect (R368, R372, R373, R377), the
lines are notified, and the host gives up its copies of them. -/
def State.putWords (s : State) (ws : List (Nat × Nat)) : State :=
  let s1 := ws.foldl (fun s x => s.writeBytes (devPlace x.1) (leBytes 8 x.2)) s
  let s2 := (s.leasesAt ws).foldl (fun t k => t.leaseWritten k (s.leaseEntry k) (s.leaseList k)) (s1.tablesWritten s.leaves)
  (wordLines ws).foldl (fun s p => (s.notify p noCore .rc noThread).snoopHost p noThread) s2

/-- Does a write of words set MIG of a page that a running ordered launch holds (R373)? -/
def State.movesHeld (s : State) (ws : List (Nat × Nat)) : Bool :=
  let new := (ws.foldl (fun s x => s.writeBytes (devPlace x.1) (leBytes 8 x.2)) s).leaves
  s.leaves.any fun o => !pteMig o.pte && s.ordHolds o && new.any fun l => l.ctx == o.ctx && l.va == o.va && pteMig l.pte

/-- PWRITE. Cells of its lines are gathered first; the migration of a page that a running ordered launch holds waits; and the command is
done once its write is performed at .dv (R413). -/
def cmdPwrite (s : State) (b : BitVec 512) : State × Option Nat :=
  let a := bitsNat b 0 64
  let n := bitsNat b 64 8
  let ws := pwriteWords b
  let finish := fun (s : State) => if s.releaseReady noThread .dv then ({ s with commandWritten := false }, some 0) else (s, none)
  if s.commandWritten then finish s
  else if a % 8 ≠ 0 ∨ n = 0 ∨ 6 < n ∨ physLimit < a + 8 * n ∨ ws.any (fun x => s.touchesGranted x.1 x.2) = true then (s, some 3)
  else if !(s.cellsAmong (wordLines ws)).isEmpty then (s.gatherAll (s.cellsAmong (wordLines ws)), none)
  else if s.movesHeld ws then (s, none)
  else finish { s.putWords ws with commandWritten := true }

/-- The bytes of a PCOPY are written: no cache keeps a line of the destination, the host gives up its copies, and its frames have no
previous owner. -/
def State.putCopy (s : State) (src dst n : Nat) : State :=
  let s := s.dropSpan { space := .dev, base := dst, size := n, cls := .rc }
  let s := { s with mem := Memory.copyRange s.mem src dst n }
  let s := (s.hostHeld.filter fun l => decide (src ≤ l && l < src + n) || decide (dst ≤ l && l < dst + n)).foldl
    (fun s l => s.snoopHost (devPlace l) noThread) s
  s.takeFrames (dst / 65536) (n / 65536)

/-- PCOPY: lines of the source and the destination that are in an accumulate state are gathered first; what the host holds of them it gives
up; and the command is done when every byte is written (R413). -/
def cmdPcopy (s : State) (b : BitVec 512) : State × Option Nat :=
  let (src, dst, n) := (bitsNat b 0 64, bitsNat b 64 64, bitsNat b 128 64)
  let meets := fun (x : Nat) => decide (src ≤ x && x < src + n) || decide (dst ≤ x && x < dst + n)
  let finish := fun (s : State) => if s.releaseReady noThread .dv then ({ s with commandWritten := false }, some 0) else (s, none)
  if s.commandWritten then finish s
  else if src % 65536 ≠ 0 ∨ dst % 65536 ≠ 0 ∨ n % 65536 ≠ 0 ∨ physLimit < src + n ∨ physLimit < dst + n ∨
      (src < dst + n ∧ dst < src + n) then (s, some 3)
  else
    let cells := (s.cells.filter fun c => meets c.line).map fun c => devPlace c.line
    if cells.isEmpty then finish { s.putCopy src dst n with commandWritten := true } else (s.gatherAll cells, none)
/-- LEASEGR. -/
def cmdLeasegr (s : State) (b : BitVec 512) : State × Option Nat :=
  let lease := bitsNat b 0 16
  match bitsNat b 16 8 with
  | 1 => done (s.grantLease lease)
  | 0 =>
    if (physHole (s.lsdir + 8 * lease) 8).isSome then (s, some 3)
    else (s.revokeLease lease ((s.leaseList lease).map fun r => (r.1, r.2.1)), some 0)
  | _ => (s, some 3)
/-- A thread that stopped at BKPT runs on (R414). -/
def Thread.unbreak (t : Thread) : Thread := { t with wait := if t.innEnded then .inning else .none }
/-- BKRES. -/
def cmdBkres (s : State) (b : BitVec 512) : State × Option Nat :=
  match s.tasks.find? fun t => t.chain == bitsNat b 0 16 && !t.isOver with
  | none => (s, some 3)
  | some tk =>
    let one := bitsNat b 48 8 == 0
    let pick := fun (tm : Team) (t : Thread) => t.wait == .bkpt && (!one || (tm.team == bitsNat b 16 16 && t.tid == bitsNat b 32 16))
    let mine := s.teams.filter fun tm => tm.task == tk.id
    if 1 < bitsNat b 48 8 ∨ (mine.all fun tm => tm.threads.all fun t => !pick tm t) = true then (s, some 3)
    else
      ({ s with teams := mapIf (fun tm => tm.task == tk.id) (fun tm => tm.modThreads (pick tm) Thread.unbreak) s.teams }, some 0)

/-- The event BINDW. -/
def execBindw (v : BitVec 64) (s : State) : Out := runMcmd 1 (fun s _ => s.dutySched) (cmdBindw v) v s
/-- The event REMAPW. -/
def execRemapw (v : BitVec 64) (s : State) : Out := runMcmd 2 (fun s _ => s.dutySched) (cmdRemapw v) v s
/-- The event CHAINW. -/
def execChainw (v : BitVec 64) (s : State) : Out := runMcmd 3 (fun s _ => s.dutySched) (cmdChainw v) v s
/-- The event XLSHOOT. -/
def execXlshoot (v : BitVec 64) (s : State) : Out := runMcmd 4 (fun s _ => s.dutyResid) cmdXlshoot v s
/-- The event CLASSCHG. -/
def execClasschg (v : BitVec 64) (s : State) : Out := runMcmd 5 (fun s _ => s.dutyResid) cmdClasschg v s
/-- The event MIGDONE. -/
def execMigdone (v : BitVec 64) (s : State) : Out := runMcmd 6 (fun s _ => s.dutyMigr) cmdMigdone v s
/-- The event MEMFAIL: the duty is COLL, or the collective's own record has HOST = 1 (R265). -/
def execMemfail (v : BitVec 64) (s : State) : Out :=
  runMcmd 7 (fun s b => s.dutyColl || s.colls.any fun c => c.collid.toNat == bitsNat b 0 32 && c.host) cmdMemfail v s
/-- The event PWRITE. -/
def execPwrite (v : BitVec 64) (s : State) : Out := runMcmd 8 (fun s _ => s.dutyResid || s.dutyMigr) cmdPwrite v s
/-- The event PCOPY. -/
def execPcopy (v : BitVec 64) (s : State) : Out := runMcmd 9 (fun s _ => s.dutyMigr) cmdPcopy v s
/-- The event LEASEGR. -/
def execLeasegr (v : BitVec 64) (s : State) : Out := runMcmd 10 (fun s _ => s.dutyResid) cmdLeasegr v s
/-- The event BKRES: accepted in every mode. -/
def execBkres (v : BitVec 64) (s : State) : Out := runMcmd 11 (fun _ _ => true) cmdBkres v s
/-- The event MCMD_UNASSIGNED_OPCODE: RESULT 4. -/
def execMcmdUnassignedOpcode (v : BitVec 64) (s : State) : Out :=
  let opc := bitsNat v 0 8
  if 1 ≤ opc ∧ opc ≤ 11 then .next s else .next (mcmd opc (fun _ _ => true) (fun s _ => (s, some 4)) v s).tick

/-- A PWRITE or PCOPY under way goes on (R413). -/
def State.commandStep (s : State) : State :=
  match s.command with
  | none => s
  | some (v, b) =>
    let go := fun (f : State → BitVec 512 → State × Option Nat) => match f s b with
      | (s1, some k) => s1.endCommand k
      | (s1, none) => s1
    match bitsNat v 0 8 with
    | 8 => go cmdPwrite
    | 9 => go cmdPcopy
    | _ => s

/-- The registers of the window without behaviour of their own: MCMDBUF and FWWIN keep what is written; a write anywhere
else is dropped (R410). -/
def State.plainWrite (s : State) (off : Nat) (v : BitVec 64) : State :=
  if off % 8 ≠ 0 then s
  else if 0x100 ≤ off ∧ off < 0x140 then s.setWindow off v
  else if 0x1000 ≤ off ∧ off < 0x2000 then
    { s with firmware := { s.firmware with window := Memory.put s.firmware.window (off - 0x1000) (leBytes 8 v.toNat) } }
  else s

/-- The event REGISTER_WRITE. A register with behaviour of its own acts as its own event does. -/
def execRegisterWrite (off : BitVec 16) (v : BitVec 64) (s : State) : Out :=
  match off.toNat with
  | 0x10 => execSeed v s
  | 0x18 => execDuty v s
  | 0x38 => execPodid v s
  | 0x40 => execDoorbell v s
  | 0x48 =>
    match bitsNat v 0 8 with
    | 1 => execBindw v s
    | 2 => execRemapw v s
    | 3 => execChainw v s
    | 4 => execXlshoot v s
    | 5 => execClasschg v s
    | 6 => execMigdone v s
    | 7 => execMemfail v s
    | 8 => execPwrite v s
    | 9 => execPcopy v s
    | 10 => execLeasegr v s
    | 11 => execBkres v s
    | _ => execMcmdUnassignedOpcode v s
  | 0x58 => execEvqbase v s
  | 0x60 => execEvqhead v s
  | 0x70 => execPlim v s
  | 0x80 => .next (s.writeFwctl v).tick
  | o => .next (s.plainWrite o v).tick

/-- DSTATE (R410). -/
def DState.code : DState → Nat
  | .reset => 0 | .rom => 1 | .await => 2 | .boot => 3 | .ready => 4 | .halted => 5

/-- Cores that are not fused off. -/
def coreCount : Nat := ((List.range 256).filter fun k => !Config.coreFused k).length

/-- What a read of the window returns (R410). -/
def State.hostRead (s : State) (off : Nat) : BitVec 64 :=
  if off = 0 then BitVec.ofNat 64 (0x4A17 + 0x0741 * 2 ^ 16 + (256 - coreCount) * 2 ^ 32)
  else if off = 8 then BitVec.ofNat 64 s.dstate.code
  else if off ∈ [0x10, 0x18, 0x20, 0x28, 0x30, 0x38, 0x50, 0x58, 0x60, 0x68, 0x70, 0x78, 0x80] ∨ (0x100 ≤ off ∧ off < 0x140 ∧ off % 8 = 0) then
    s.windowReg off
  else 0

/-! ## Reset and bring-up (R418) -/

/-- All state is lost but the nonvolatile slot (R417, R418); host memory is the host's. -/
def State.lose (s : State) : State :=
  { State.reset with
    hostMem := s.hostMem, agenda := s.agenda, evictPlan := s.evictPlan, freeCtr := s.freeCtr
    firmware := { Firmware.empty with image := s.firmware.image, valid := s.firmware.valid } }

/-- The event RESET. -/
def execReset (s : State) : Out := .next s.lose.tick

/-- The event POWER_GOOD: RESET goes to ROM; in ROM the slot is verified, and BOOT or AWAIT IMAGE follows. -/
def execPowerGood (s : State) : Out :=
  match s.dstate with
  | .reset => .next { s with dstate := .rom }.tick
  | .rom =>
    if s.firmware.valid && imageOk s.firmware.image then
      .next { s with dstate := .boot,
                     firmware := { s.firmware with running := BitVec.ofNat 32 (imageField s.firmware.image 4 4),
                                                   runImage := s.firmware.image } }.tick
    else .next { s with dstate := .await }.tick
  | .await | .boot | .ready | .halted => .next s

/-- The remap rows at BOOT (R426). -/
def bootRows : Sparse (BitVec 64) :=
  (List.range 256).foldl (fun m k => Sparse.set 0 m k (if Config.coreFused k then BitVec.ofNat 64 (2 ^ 61) else 0)) []

/-- Where firmware places the chain table: 16 KiB of this device's memory, aligned to a descriptor (R286, R410). -/
def chainTableAt : Nat := 64 * (Config.chainTable % (physLimit / 64 - 255))

/-- The event BOOT_DONE: every array and HBM is zero, the tables have their places, the identity key is derived from the image that runs
(R419), and the device is READY. -/
def execBootDone (s : State) : Out :=
  match s.dstate with
  | .boot =>
    let key := Config.identityKey Config.deviceSecret (imageDigest s.firmware.runImage)
    let s := { s with mem := [], remap := bootRows, incarn := [], dstate := .ready, firmware := { s.firmware with identity := some key } }
    .next (((s.setWindow 0x20 (BitVec.ofNat 64 chainTableAt)).setWindow 0x28 (BitVec.ofNat 64 Config.contextTable)).setWindow
      0x30 (BitVec.ofNat 64 Config.leaseDirectory)).tick
  | .reset | .rom | .await | .ready | .halted => .next s

/-- The event HARDWARE_FAULT_HALT: a fault in BOOT; the error log holds the cause. -/
def execHardwareFaultHalt (cause : BitVec 512) (s : State) : Out :=
  match s.dstate with
  | .boot => .next { s with dstate := .halted, errorLog := s.errorLog ++ [cause] }.tick
  | .reset | .rom | .await | .ready | .halted => .next s

/-- The event POWER_LOSS. A slot whose write was under way is invalid, as it has been since the write began. -/
def execPowerLoss (s : State) : Out := .next s.lose.tick

/-! ## Links, ports, power (R409, R422 to R424) -/

/-- The event LINK_TRAIN: the CXL link is up, at full rate and width or trained down. -/
def execLinkTrain (full wide : Bool) (s : State) : Out := .next { s with linkUp := true, linkFull := full, linkWide := wide }.tick

/-- The members of a collective on other devices. -/
def State.awayMembers (s : State) (c : Coll) : List Nat :=
  (List.range c.n).filter fun r => memDevice (c.member r) != s.podNo

/-- A port is down: the loss is logged; when it was the last one up, every collective with a member elsewhere fails, the first member declared
being any of them (R265, R422). -/
def State.portDown (s : State) (port : Nat) : State :=
  let s1 := ({ s with ports := s.ports.filter (· != port) }).logError (Config.errorEntry (s.key port))
  if s.ports.contains port && s1.ports.isEmpty then
    s1.colls.foldl (fun s c =>
      match s.awayMembers c with
      | [] => s
      | rs => if s.hostDeclares c then s else s.memberFails c (rs[Config.freePick (s.key 6) % rs.length]?.getD 0)) s1
  else s1

/-- The device joins the pod with the first port that trains after a reset: its incarnation advances (R264; DEDUCED, log entry 70). -/
def State.joinPod (s : State) : State := if s.joined then s else { s.advanceIncarn 64 with joined := true }

/-- The event PORT_TRAINING: in READY, once the host has written PODID. A port that fails stays down, or is lost, and is logged. -/
def execPortTraining (port : Fin 8) (ok : Bool) (s : State) : Out :=
  if s.ready && s.podWritten then
    let s1 := { s with portsBegun := true }
    if ok then .next { s1.joinPod with ports := port.val :: s1.ports.filter (· != port.val) }.tick
    else .next (s1.portDown port.val).tick
  else .next s

/-- The event PORT_LOSS. -/
def execPortLoss (port : Fin 8) (s : State) : Out :=
  if s.ports.contains port.val then .next (s.portDown port.val).tick else .next s

/-- The event POWER_LIMIT_THROTTLE: the clock is lowered while the demand is above PLIM, and PWRNOW stays at or below it. -/
def execPowerLimitThrottle (watts : BitVec 16) (s : State) : Out :=
  let lim := (s.windowReg 0x70).toNat
  .next { s.setWindow 0x78 (BitVec.ofNat 64 (min watts.toNat lim)) with throttled := decide (lim < watts.toNat) }.tick

/-- The event OVERTEMP_THROTTLE. -/
def execOvertempThrottle (s : State) : Out := .next { s with throttled := true }.tick

/-- The event OVERTEMP_SHUTDOWN: the device powers down. -/
def execOvertempShutdown (s : State) : Out := .next s.lose.tick

/-! ## Identity (R419 to R421) -/

/-- Is the DOE mailbox served? -/
def State.doeServed (s : State) : Bool :=
  match s.dstate with
  | .reset | .rom => false
  | .await | .boot | .ready | .halted => true

/-- A request over DOE is answered: `v` is what the answer carries beside what every device answers. -/
def State.spdm (s : State) (code v : Nat) : Out :=
  if s.doeServed then .next { s with doe := s.doe ++ [(code, Config.spdmResponse code v)] }.tick else .next s

/-- The code of an SPDM error, as the model numbers responses: to a request that the device cannot serve. -/
def spdmError : Nat := 0x7F

/-- A request whose answer is made with the identity key: an error before BOOT has derived it. -/
def State.spdmSigned (s : State) (code : Nat) : Out :=
  match s.firmware.identity with
  | some k => s.spdm code k.toNat
  | none => s.spdm spdmError code

/-- The event GET_VERSION. -/
def execGetVersion (s : State) : Out := s.spdm 1 0
/-- The event GET_CAPABILITIES. -/
def execGetCapabilities (s : State) : Out := s.spdm 2 0
/-- The event NEGOTIATE_ALGORITHMS. -/
def execNegotiateAlgorithms (s : State) : Out := s.spdm 3 0
/-- The event GET_DIGESTS. -/
def execGetDigests (s : State) : Out := s.spdmSigned 4
/-- The event GET_CERTIFICATE: slot 0 holds the chain of the identity key's certificate (R419); no other slot holds one. -/
def execGetCertificate (slot : Nat) (s : State) : Out := if slot = 0 then s.spdmSigned 5 else s.spdm spdmError 5
/-- The event CHALLENGE. -/
def execChallenge (s : State) : Out := s.spdmSigned 6
/-- A measurement (R420): the boot ROM, DIGEST and SVN of the image that runs, the fuses, DUTY and PODID. -/
def State.measured (s : State) (index : Nat) : Option (BitVec 256) :=
  match index with
  | 1 => some (Config.sha3 Config.bootRom)
  | 2 => some (Config.sha3 (leBytes 32 (imageDigest s.firmware.runImage).toNat ++ leBytes 4 (imageSvn s.firmware.runImage)))
  | 3 => some (Config.sha3 Config.fuses)
  | 4 => some (Config.sha3 (leBytes 8 (s.windowReg 0x18).toNat ++ leBytes 8 (s.windowReg 0x38).toNat))
  | _ => none
/-- The event GET_MEASUREMENTS. -/
def execGetMeasurements (index : Nat) (s : State) : Out :=
  match s.measured index with
  | some d => if s.doeServed then .next { s with doe := s.doe ++ [(7, d)] }.tick else .next s
  | none => s.spdm spdmError 7
/-- The event KEY_EXCHANGE. -/
def execKeyExchange (s : State) : Out := s.spdmSigned 8
/-- The event FINISH. -/
def execFinish (s : State) : Out := s.spdm 9 ((s.firmware.identity.map BitVec.toNat).getD 0)
/-- The event IDE_KEY_MANAGEMENT: after a session's FINISH the keys are set and IDE is established. -/
def execIdeKeyManagement (s : State) : Out :=
  ({ s with ide := s.ide || (s.doeServed && s.doe.any fun x => x.1 == 9) }).spdm 10 0

end Sys2Proof.Machine
end

