-- ==== Sys2Proof/Machine/Int.lean ====
section
/-!
DEFINITION. Integer, address, bit, logic and predicate instructions (spec/04 R93 to R100).
-/
namespace Sys2Proof.Machine

open Sys2Proof

/-- The operation width w (R94). -/
def intW (t : IntTy) : Nat := 32 * t.regs

/-- sv(x): a w-bit pattern as signed. -/
def sv (w x : Nat) : Int := if x < 2 ^ (w - 1) then (x : Int) else (x : Int) - 2 ^ w
/-- val(x): signed under .i32 and .i64, unsigned under .n32. -/
def ival (t : IntTy) (x : Nat) : Int :=
  match t with
  | .n32 => x
  | .i32 | .i64 => sv (intW t) x
/-- wrap(n): n mod 2^w. -/
def wrap (w : Nat) (i : Int) : Nat := intCode w i
/-- trunc(a / b), toward zero. -/
def truncDiv (a b : Int) : Int := Int.tdiv a b

/-- IDIV on patterns (R94). -/
def idivCode (t : IntTy) (a b : Nat) : Nat :=
  let w := intW t
  if b = 0 then 2 ^ w - 1
  else if ival t a = -(2 : Int) ^ (w - 1) ∧ ival t b = -1 then a
  else wrap w (truncDiv (ival t a) (ival t b))

/-- IREM on patterns (R94). -/
def iremCode (t : IntTy) (a b : Nat) : Nat :=
  let w := intW t
  if b = 0 then a
  else if ival t a = -(2 : Int) ^ (w - 1) ∧ ival t b = -1 then 0
  else wrap w (ival t a - ival t b * truncDiv (ival t a) (ival t b))

/-- Shifts and rotates on patterns (R94); `s` is the control operand. -/
def shlCode (w a s : Nat) : Nat := if w ≤ s then 0 else a * 2 ^ s % 2 ^ w
def shrCode (w a s : Nat) : Nat := if w ≤ s then 0 else a / 2 ^ s
def sarCode (w a s : Nat) : Nat := wrap w (sv w a / (2 : Int) ^ min s (w - 1))
def rotlCode (w a s : Nat) : Nat :=
  let k := s % w
  a * 2 ^ k % 2 ^ w + a / 2 ^ (w - k)
def rotrCode (w a s : Nat) : Nat := rotlCode w a ((w - s % w) % w)

/-- BFX and BFI (R97). -/
def bfxCode (t : IntTy) (a ctl : Nat) : Nat :=
  let w := intW t
  let pos := ctl % 256
  let len := ctl / 256 % 256
  if len = 0 ∨ w ≤ pos then 0
  else
    let n := min len (w - pos)
    let f := a / 2 ^ pos % 2 ^ n
    match t with
    | .n32 => f
    | .i32 | .i64 => wrap w (sv n f)
def bfiCode (w a b ctl : Nat) : Nat :=
  let pos := ctl % 256
  let len := ctl / 256 % 256
  if len = 0 ∨ w ≤ pos then a
  else
    let n := min len (w - pos)
    a % 2 ^ pos + b % 2 ^ n * 2 ^ pos + a / 2 ^ (pos + n) * 2 ^ (pos + n)

/-- Bit counts and reversal (R97). -/
def popCode (w a : Nat) : Nat := (List.range w).foldl (fun n i => n + (if a.testBit i then 1 else 0)) 0
def clzCode (w a : Nat) : Nat := if a = 0 then w else w - 1 - Nat.log2 a
def ctzFrom (a : Nat) : Nat → Nat → Nat
  | 0, n => n
  | fuel + 1, n => if a.testBit n then n else ctzFrom a fuel (n + 1)
def ctzCode (w a : Nat) : Nat := if a = 0 then w else ctzFrom a w 0
def brevCode (w a : Nat) : Nat := (List.range w).foldl (fun n i => n + (if a.testBit i then 2 ^ (w - 1 - i) else 0)) 0

/-- A two-source integer operation. -/
def runInt2 (i : Instr) (gs : Guards) (o : IntBin) (s : State) (f : Nat → Nat → Nat) : Out :=
  runAlu i gs o.b.isUniform o.d o.ty.regs s fun v =>
    Rounded.exact (f (v.data o.a o.ty.regs) (v.src o.b o.ty.regs))
/-- A shift or rotate: operand B is a control operand. -/
def runShift (i : Instr) (gs : Guards) (o : IntBin) (s : State) (f : Nat → Nat → Nat) : Out :=
  runAlu i gs o.b.isUniform o.d o.ty.regs s fun v => Rounded.exact (f (v.data o.a o.ty.regs) (v.ctl o.b))
/-- A one-source operation with `n` destination registers. -/
def runInt1 (i : Instr) (gs : Guards) (o : IntUn) (n : Nat) (s : State) (f : Nat → Nat) : Out :=
  runAlu i gs o.uniform o.d n s fun v => Rounded.exact (f (v.data o.a o.ty.regs))

/-! ## R94 -/

/-- IADD: d := wrap(a + b). -/
def execIadd (g : Guards) (o : IntBin) (s : State) : Out :=
  runInt2 (.iadd g o) g o s fun a b => (a + b) % 2 ^ intW o.ty
/-- ISUB: d := wrap(a − b). -/
def execIsub (g : Guards) (o : IntBin) (s : State) : Out :=
  runInt2 (.isub g o) g o s fun a b => wrap (intW o.ty) ((a : Int) - b)
/-- IMUL: d := wrap(a × b). -/
def execImul (g : Guards) (o : IntBin) (s : State) : Out :=
  runInt2 (.imul g o) g o s fun a b => a * b % 2 ^ intW o.ty
/-- IMULH: the high half of the exact product. -/
def execImulh (g : Guards) (o : IntBin) (s : State) : Out :=
  runInt2 (.imulh g o) g o s fun a b => wrap (intW o.ty) (ival o.ty a * ival o.ty b / (2 : Int) ^ intW o.ty)
/-- IMAD: d := wrap(a × b + c). -/
def execImad (g : Guards) (o : IntTri) (s : State) : Out :=
  runAlu (.imad g o) g o.b.isUniform o.d o.ty.regs s fun v =>
    Rounded.exact ((v.data o.a o.ty.regs * v.src o.b o.ty.regs + v.data o.c o.ty.regs) % 2 ^ intW o.ty)
/-- IDIV, with the fates of R95. -/
def execIdiv (g : Guards) (o : IntBin) (s : State) : Out := runInt2 (.idiv g o) g o s (idivCode o.ty)
/-- IREM, with the fates of R95. -/
def execIrem (g : Guards) (o : IntBin) (s : State) : Out := runInt2 (.irem g o) g o s (iremCode o.ty)
/-- IMIN: the operand with the smaller val. -/
def execImin (g : Guards) (o : IntBin) (s : State) : Out :=
  runInt2 (.imin g o) g o s fun a b => if ival o.ty a ≤ ival o.ty b then a else b
/-- IMAX: the operand with the larger val. -/
def execImax (g : Guards) (o : IntBin) (s : State) : Out :=
  runInt2 (.imax g o) g o s fun a b => if ival o.ty b ≤ ival o.ty a then a else b
/-- IABS: d := wrap(|sv(a)|). -/
def execIabs (g : Guards) (o : IntUn) (s : State) : Out :=
  runInt1 (.iabs g o) g o o.ty.regs s fun a => wrap (intW o.ty) (sv (intW o.ty) a).natAbs
/-- INEG: d := wrap(−a). -/
def execIneg (g : Guards) (o : IntUn) (s : State) : Out :=
  runInt1 (.ineg g o) g o o.ty.regs s fun a => wrap (intW o.ty) (-(a : Int))
/-- SHL. -/
def execShl (g : Guards) (o : IntBin) (s : State) : Out := runShift (.shl g o) g o s (shlCode (intW o.ty))
/-- SHR. -/
def execShr (g : Guards) (o : IntBin) (s : State) : Out := runShift (.shr g o) g o s (shrCode (intW o.ty))
/-- SAR. -/
def execSar (g : Guards) (o : IntBin) (s : State) : Out := runShift (.sar g o) g o s (sarCode (intW o.ty))
/-- ROTL. -/
def execRotl (g : Guards) (o : IntBin) (s : State) : Out := runShift (.rotl g o) g o s (rotlCode (intW o.ty))
/-- ROTR. -/
def execRotr (g : Guards) (o : IntBin) (s : State) : Out := runShift (.rotr g o) g o s (rotrCode (intW o.ty))
/-- LEA: d := wrap(a + b × 2^k). -/
def execLea (g : Guards) (o : LeaOp) (s : State) : Out :=
  runAlu (.lea g o) g o.b.isUniform o.d o.ty.regs s fun v =>
    Rounded.exact ((v.data o.a o.ty.regs + v.src o.b o.ty.regs * 2 ^ o.k.val) % 2 ^ intW o.ty)

/-! ## R97 -/

/-- BFX. -/
def execBfx (g : Guards) (o : IntBin) (s : State) : Out := runShift (.bfx g o) g o s (bfxCode o.ty)
/-- BFI: the control word stands in register C. -/
def execBfi (g : Guards) (o : IntTri) (s : State) : Out :=
  runAlu (.bfi g o) g o.b.isUniform o.d o.ty.regs s fun v =>
    Rounded.exact (bfiCode (intW o.ty) (v.data o.a o.ty.regs) (v.src o.b o.ty.regs) (v.data o.c 1))
/-- POPC. -/
def execPopc (g : Guards) (o : IntUn) (s : State) : Out := runInt1 (.popc g o) g o 1 s (popCode (intW o.ty))
/-- CLZ. -/
def execClz (g : Guards) (o : IntUn) (s : State) : Out := runInt1 (.clz g o) g o 1 s (clzCode (intW o.ty))
/-- CTZ. -/
def execCtz (g : Guards) (o : IntUn) (s : State) : Out := runInt1 (.ctz g o) g o 1 s (ctzCode (intW o.ty))
/-- BREV. -/
def execBrev (g : Guards) (o : IntUn) (s : State) : Out := runInt1 (.brev g o) g o o.ty.regs s (brevCode (intW o.ty))
/-- AND. -/
def execAndb (g : Guards) (o : IntBin) (s : State) : Out := runInt2 (.andb g o) g o s fun a b => a &&& b
/-- OR. -/
def execOrb (g : Guards) (o : IntBin) (s : State) : Out := runInt2 (.orb g o) g o s fun a b => a ||| b
/-- XOR. -/
def execXorb (g : Guards) (o : IntBin) (s : State) : Out := runInt2 (.xorb g o) g o s fun a b => a ^^^ b
/-- NOT: a XOR (2^w − 1). -/
def execNotb (g : Guards) (o : IntUn) (s : State) : Out :=
  runInt1 (.notb g o) g o o.ty.regs s fun a => a ^^^ (2 ^ intW o.ty - 1)
/-- ANDN: a AND NOT b. -/
def execAndn (g : Guards) (o : IntBin) (s : State) : Out :=
  runInt2 (.andn g o) g o s fun a b => a &&& (b ^^^ (2 ^ intW o.ty - 1))
/-- SEL: a where the predicate holds (p7 selects a), else b. -/
def execSel (g : Guards) (o : SelOp) (s : State) : Out :=
  run (.sel g o) g s fun c act =>
    .ok (s.eachLane c act fun t =>
      let v := c.laneView t
      t.putRegs o.d.val o.ty.regs (if t.pred o.p.val then v.data o.a o.ty.regs else v.src o.b o.ty.regs))
/-- MOV: d := b. -/
def execMov (g : Guards) (o : MovOp) (s : State) : Out :=
  runAlu (.mov g o) g o.b.isUniform o.d o.ty.regs s fun v => Rounded.exact (v.src o.b o.ty.regs)

/-- The conditions of R98 on signed differences. -/
def icondHolds (c : ICond) (a b : Int) : Bool :=
  match c with
  | .eq => a == b | .ne => a != b | .lt => decide (a < b) | .le => decide (a ≤ b)
  | .gt => decide (b < a) | .ge => decide (b ≤ a)

/-- ICMP (R98). -/
def execIcmp (g : Guards) (o : ICmpOp) (s : State) : Out :=
  runCmp (.icmp g o) g o.b.isUniform o.p s fun v =>
    (icondHolds o.cc (ival o.ty (v.data o.a o.ty.regs)) (ival o.ty (v.src o.b o.ty.regs)), Sts.none)

/-! ## Predicate logic (R100) -/

/-- A predicate operation on each active lane. -/
def runPred (i : Instr) (g : Guards) (d : PredNum) (s : State) (f : Thread → Bool) : Out :=
  runLanes i g s fun _ t => t.setPred d.val (f t)

/-- PAND. -/
def execPand (g : Guards) (o : PredBin) (s : State) : Out :=
  runPred (.pand g o) g o.d s fun t => t.pred o.a.val && t.pred o.b.val
/-- POR. -/
def execPor (g : Guards) (o : PredBin) (s : State) : Out :=
  runPred (.por g o) g o.d s fun t => t.pred o.a.val || t.pred o.b.val
/-- PXOR. -/
def execPxor (g : Guards) (o : PredBin) (s : State) : Out :=
  runPred (.pxor g o) g o.d s fun t => t.pred o.a.val != t.pred o.b.val
/-- PNOT. -/
def execPnot (g : Guards) (o : PredUn) (s : State) : Out :=
  runPred (.pnot g o) g o.d s fun t => !t.pred o.a.val

end Sys2Proof.Machine
end

