-- ==== Sys2Proof/Machine/Special.lean ====
section
/-!
DEFINITION. The correctly rounded special functions (spec/04 R109 to R111).

Roots and quotients are decided by exact integer arithmetic. The transcendental functions are enclosed in intervals of
growing precision until both ends round alike: R110 asks for the nearest value to the exact real one, and such a value is
never a rounding boundary, so some precision decides it. Should the model's fuel end first, the result is the free value
`Config.undecided`, which never replaces a decided one.
-/
namespace Sys2Proof.Machine

open Sys2Proof

/-! ## Exact functions -/

/-- A positive real known as (n / 2^k) when `ex`, or strictly between n / 2^k and (n + 1) / 2^k: rounded as R55. -/
def roundSticky (t : DType) (neg : Bool) (n k : Nat) (ex : Bool) : Rounded :=
  if ex then roundDy t .rne neg n (-(k : Int)) else roundDy t .rne neg (2 * n + 1) (-((k : Int) + 1))

/-- floor(sqrt(n / d) × 2^k) and whether it is exact. -/
def sqrtScaled (n d k : Nat) : Nat × Bool :=
  let q := n * 2 ^ (2 * k) / d
  let r := Nat.sqrt q
  (r, r * r * d == n * 2 ^ (2 * k))

/-- A dyadic m × 2^e as a quotient of naturals. -/
def dyNum (m : Nat) (e : Int) : Nat := if 0 ≤ e then m * 2 ^ e.toNat else m
def dyDen (e : Int) : Nat := if 0 ≤ e then 1 else 2 ^ (-e).toNat

/-- Binary digits after the point that decide a square root: past every rounding boundary of F64's range. -/
def sqrtDigits : Nat := 1200

/-- FSQRT of a positive finite value. -/
def sqrtRound (t : DType) (m : Nat) (e : Int) : Rounded :=
  let (r, ex) := sqrtScaled (dyNum m e) (dyDen e) sqrtDigits
  roundSticky t false r sqrtDigits ex

/-- FRSQ of a positive finite value. -/
def rsqRound (t : DType) (m : Nat) (e : Int) : Rounded :=
  let (r, ex) := sqrtScaled (dyDen e) (dyNum m e) sqrtDigits
  roundSticky t false r sqrtDigits ex

/-- (−1)^neg × (m × 2^e) / (n × 2^f), rounded to nearest even. -/
def quotRound (t : DType) (neg : Bool) (m : Nat) (e : Int) (n : Nat) (f : Int) : Rounded :=
  roundTo t .rne neg (dyNum m e * dyDen f) (dyDen e * dyNum n f)

/-! ## Fixed-point approximations: integers over 2^q, each within 2^40 units of the real value -/

/-- a × b over 2^q. -/
def fxMul (q : Nat) (a b : Int) : Int := a * b / (2 : Int) ^ q

/-- atanh-like series: sum over odd j of z^j / j; `zz` is z², `p` the power z^j. -/
def oddSeries (q : Nat) (zz : Int) : Nat → Nat → Int → Int → Int
  | 0, _, _, acc => acc
  | fuel + 1, j, p, acc => if p = 0 then acc else oddSeries q zz fuel (j + 2) (fxMul q p zz) (acc + p / j)

/-- ln 2 = 2 × atanh(1/3), over 2^q. -/
def fxLn2 (q : Nat) : Int :=
  let z := (2 : Int) ^ q / 3
  2 * oddSeries q (fxMul q z z) q 1 z 0

/-- The Taylor series of e^r: `term` is r^(n−1) / (n−1)!. -/
def expSeries (q : Nat) (r : Int) : Nat → Nat → Int → Int → Int
  | 0, _, _, acc => acc
  | fuel + 1, n, term, acc =>
    if term = 0 ∨ (term = -1 ∧ 4 < n) then acc
    else
      let t := term * r / ((2 : Int) ^ q * n)
      expSeries q r fuel (n + 1) t (acc + t)
/-- e^r for |r| below 1, over 2^q. -/
def fxExpSmall (q : Nat) (r : Int) : Int := expSeries q r q 1 ((2 : Int) ^ q) ((2 : Int) ^ q)

/-- A dyadic value over 2^q, rounded down. -/
def fxOf (q : Nat) (neg : Bool) (m : Nat) (e : Int) : Int :=
  let k := e + q
  let v : Int := if 0 ≤ k then (m * 2 ^ k.toNat : Nat) else (m / 2 ^ (-k).toNat : Nat)
  if neg then -v else v

/-- e^x as a value over 2^q times 2^k, for x over 2^q. -/
def fxExp (q : Nat) (x : Int) : Int × Int :=
  let l := fxLn2 q
  let k := x / l
  (fxExpSmall q (x - k * l), k)

/-- ln m for 1 ≤ m < 2, over 2^q: 2 × atanh((m − 1) / (m + 1)). -/
def fxLn (q : Nat) (m : Int) : Int :=
  let one := (2 : Int) ^ q
  let z := (m - one) * one / (m + one)
  2 * oddSeries q (fxMul q z z) q 1 z 0

/-- atan(1 / n), over 2^q, by its alternating series. -/
def atanInv (q : Nat) (nn : Int) : Nat → Int → Int → Bool → Int → Int
  | 0, _, _, _, acc => acc
  | fuel + 1, j, p, neg, acc =>
    if p = 0 then acc
    else atanInv q nn fuel (j + 2) (p / nn) (!neg) (if neg then acc - p / j else acc + p / j)
/-- π / 2 over 2^q, by Machin's formula. -/
def fxHalfPi (q : Nat) : Int :=
  let one := (2 : Int) ^ q
  2 * (4 * atanInv q 25 q 1 (one / 5) false 0 - atanInv q (239 * 239) q 1 (one / 239) false 0)

/-- The series of sine and cosine: `term` is the last term, `n` its degree. -/
def trigSeries (q : Nat) (rr : Int) : Nat → Int → Int → Int → Int
  | 0, _, _, acc => acc
  | fuel + 1, n, term, acc =>
    let t := -(fxMul q term rr / ((n + 1) * (n + 2)))
    if t = 0 ∨ t = 1 then acc else trigSeries q rr fuel (n + 2) t (acc + t)

/-- sin(|x|) or cos(|x|) over 2^q for a dyadic |x| = m × 2^e: the argument is reduced with 160 digits more. -/
def fxTrig (q : Nat) (cos : Bool) (m : Nat) (e : Int) : Int :=
  let qq := q + 160
  let x := fxOf qq false m e
  let h := fxHalfPi qq
  let n := x / h
  let r := (x - n * h) / (2 : Int) ^ 160
  let rr := fxMul q r r
  let sn := trigSeries q rr q 1 r r
  let cs := trigSeries q rr q 0 ((2 : Int) ^ q) ((2 : Int) ^ q)
  match (n + (if cos then 1 else 0)) % 4 with
  | 0 => sn
  | 1 => cs
  | 2 => -sn
  | _ => -cs

/-! ## Deciding the rounding -/

/-- Round the value between the two ends of (v ± 2^40) / 2^(p + 64) × 2^k, if both ends round alike. -/
def roundAt (t : DType) (p : Nat) (v k : Int) : Option Rounded :=
  let l := (v - 2 ^ 40) / 2 ^ 64
  let h := (v + 2 ^ 40) / 2 ^ 64 + 1
  let e := k - ((p : Int) + 1)
  if 0 ≤ l then
    let a := roundDy t .rne false (2 * l + 1).toNat e
    let b := roundDy t .rne false (2 * h - 1).toNat e
    if a = b then some a else none
  else if h ≤ 0 then
    let a := roundDy t .rne true (-(2 * l + 1)).toNat e
    let b := roundDy t .rne true (-(2 * h - 1)).toNat e
    if a = b then some a else none
  else none

/-- Try the precisions of a list in turn. -/
def decideRound (t : DType) (f : Nat → Int × Int) : List Nat → Option Rounded
  | [] => none
  | p :: ps =>
    let (v, k) := f (p + 64)
    match roundAt t p v k with
    | some r => some r
    | none => decideRound t f ps

/-- The precisions tried: binary digits after the point. -/
def precisions : List Nat := [192, 384, 768, 1536, 3072]

/-- The correctly rounded result; `fn` and `c` name the function and operand for the free value past the fuel. -/
def transcend (t : DType) (fn c : Nat) (f : Nat → Int × Int) : Rounded :=
  match decideRound t f precisions with
  | some r => r
  | none => { code := Config.undecided fn c % 2 ^ dtBits t, sts := Sts.inexact }

/-- |x| cut at 1,024: beyond it every function here has its limit's rounding in F32, B16 and H16. -/
def cut (m : Nat) (e : Int) : Nat × Int :=
  if floorLog2 (dyNum m e) (dyDen e) < 10 then (m, e) else (1024, 0)

/-! ## The functions by source (R111) -/

/-- One edge row of R111: the results at −∞, a negative finite source, −0, +0, +∞ and a positive finite source. -/
def edges (t : FloatTy) (v : Val) (ninf : Rounded) (negf : Nat → Int → Rounded) (nzero pzero pinf : Rounded)
    (posf : Nat → Int → Rounded) : Rounded :=
  match v with
  | .nan sig => quietNan t sig
  | .inf true => ninf
  | .inf false => pinf
  | .fin neg m e => if m = 0 then (if neg then nzero else pzero) else if neg then negf m e else posf m e

/-- "inv" of R111. -/
def inv (t : FloatTy) : Rounded := quietNan t true
def zeroOf (t : FloatTy) (neg : Bool) : Rounded := Rounded.exact (dtSign (fdt t) neg)
def infOf (t : FloatTy) (neg : Bool) : Rounded := Rounded.exact (dtSign (fdt t) neg + dtInfCode (fdt t))
/-- "dz" of R111: infinity with fpst.divzero. -/
def divZeroOf (t : FloatTy) (neg : Bool) : Rounded := { infOf t neg with sts := Sts.divzero }
/-- ±1. -/
def oneOf (t : FloatTy) (neg : Bool) : Rounded := Rounded.exact (dtSign (fdt t) neg + dtBias (fdt t) * 2 ^ dtMant (fdt t))

/-- FEXP. -/
def expVal (t : FloatTy) (c : Nat) : Rounded :=
  let f := fun (neg : Bool) (m : Nat) (e : Int) =>
    let (m, e) := cut m e
    transcend (fdt t) 0 c fun q => fxExp q (fxOf q neg m e)
  edges t (decodeCode (fdt t) c) (zeroOf t false) (f true) (oneOf t false) (oneOf t false) (infOf t false) (f false)

/-- FEXP2: an integer gives an exact power. -/
def exp2Val (t : FloatTy) (c : Nat) : Rounded :=
  let f := fun (neg : Bool) (m : Nat) (e : Int) =>
    let (m, e) := cut m e
    if 0 ≤ e ∨ m % 2 ^ (-e).toNat = 0 then
      let k := fxOf 0 neg m e
      roundDy (fdt t) .rne false 1 k
    else
      transcend (fdt t) 1 c fun q =>
        let x := fxOf q neg m e
        let k := x / (2 : Int) ^ q
        (fxExpSmall q (fxMul q (x - k * (2 : Int) ^ q) (fxLn2 q)), k)
  edges t (decodeCode (fdt t) c) (zeroOf t false) (f true) (oneOf t false) (oneOf t false) (infOf t false) (f false)

/-- FLOG2: a power of two gives an exact integer. -/
def log2Val (t : FloatTy) (c : Nat) : Rounded :=
  let f := fun (m : Nat) (e : Int) =>
    let l := Nat.log2 m
    if m = 2 ^ l then
      let k := e + l
      roundDy (fdt t) .rne (decide (k < 0)) k.natAbs 0
    else
      transcend (fdt t) 2 c fun q =>
        let z := fxLn q (fxOf q false m (-(l : Int)))
        ((e + l) * (2 : Int) ^ q + z * (2 : Int) ^ q / fxLn2 q, 0)
  edges t (decodeCode (fdt t) c) (inv t) (fun _ _ => inv t) (divZeroOf t true) (divZeroOf t true) (infOf t false) f

/-- FRCP. -/
def rcpVal (t : FloatTy) (c : Nat) : Rounded :=
  edges t (decodeCode (fdt t) c) (zeroOf t true) (fun m e => quotRound (fdt t) true 1 0 m e) (divZeroOf t true)
    (divZeroOf t false) (zeroOf t false) (fun m e => quotRound (fdt t) false 1 0 m e)

/-- FRSQ. -/
def rsqVal (t : FloatTy) (c : Nat) : Rounded :=
  edges t (decodeCode (fdt t) c) (inv t) (fun _ _ => inv t) (divZeroOf t true) (divZeroOf t false) (zeroOf t false)
    (rsqRound (fdt t))

/-- FSQRT. -/
def sqrtVal (t : FloatTy) (c : Nat) : Rounded :=
  edges t (decodeCode (fdt t) c) (inv t) (fun _ _ => inv t) (zeroOf t true) (zeroOf t false) (infOf t false)
    (sqrtRound (fdt t))

/-- FSIN and FCOS. -/
def sinVal (t : FloatTy) (c : Nat) : Rounded :=
  let f := fun (neg : Bool) (m : Nat) (e : Int) =>
    transcend (fdt t) 3 c fun q => (if neg then -(fxTrig q false m e) else fxTrig q false m e, 0)
  edges t (decodeCode (fdt t) c) (inv t) (f true) (zeroOf t true) (zeroOf t false) (inv t) (f false)
def cosVal (t : FloatTy) (c : Nat) : Rounded :=
  let f := fun (m : Nat) (e : Int) => transcend (fdt t) 4 c fun q => (fxTrig q true m e, 0)
  edges t (decodeCode (fdt t) c) (inv t) f (oneOf t false) (oneOf t false) (inv t) f

/-- FTANH: (1 − e^(−2|x|)) / (1 + e^(−2|x|)) with the sign of x. -/
def tanhVal (t : FloatTy) (c : Nat) : Rounded :=
  let f := fun (neg : Bool) (m : Nat) (e : Int) =>
    let (m, e) := cut m e
    transcend (fdt t) 5 c fun q =>
      let one := (2 : Int) ^ q
      let (v, k) := fxExp q (fxOf q true m (e + 1))
      let y := if 0 ≤ k then v * (2 : Int) ^ k.toNat else v / (2 : Int) ^ (-k).toNat
      let r := (one - y) * one / (one + y)
      (if neg then -r else r, 0)
  edges t (decodeCode (fdt t) c) (oneOf t true) (f true) (zeroOf t true) (zeroOf t false) (oneOf t false) (f false)

/-- FDIV (R110, R111). -/
def divVal (t : FloatTy) (a b : Val) : Rounded :=
  let sg := a.neg != b.neg
  match a, b with
  | .nan s, .nan u => quietNan t (s || u)
  | .nan s, _ => quietNan t s
  | _, .nan u => quietNan t u
  | .inf _, .inf _ => inv t
  | .inf _, .fin _ _ _ => infOf t sg
  | .fin _ _ _, .inf _ => zeroOf t sg
  | .fin _ m e, .fin _ n f =>
    if n = 0 then (if m = 0 then inv t else divZeroOf t sg)
    else if m = 0 then zeroOf t sg
    else quotRound (fdt t) sg m e n f

/-- A one-source special function. -/
def runSpecial (i : Instr) (g : Guards) (o : FloatUn) (s : State) (f : FloatTy → Nat → Rounded) : Out :=
  runAlu i g o.uniform o.d o.ty.regs s fun v => f o.ty (v.fcode o.ty o.a)

/-- FEXP. -/
def execFexp (g : Guards) (o : FloatUn) (s : State) : Out := runSpecial (.fexp g o) g o s expVal
/-- FEXP2. -/
def execFexp2 (g : Guards) (o : FloatUn) (s : State) : Out := runSpecial (.fexp2 g o) g o s exp2Val
/-- FLOG2. -/
def execFlog2 (g : Guards) (o : FloatUn) (s : State) : Out := runSpecial (.flog2 g o) g o s log2Val
/-- FRCP. -/
def execFrcp (g : Guards) (o : FloatUn) (s : State) : Out := runSpecial (.frcp g o) g o s rcpVal
/-- FRSQ. -/
def execFrsq (g : Guards) (o : FloatUn) (s : State) : Out := runSpecial (.frsq g o) g o s rsqVal
/-- FSQRT. -/
def execFsqrt (g : Guards) (o : FloatUn) (s : State) : Out := runSpecial (.fsqrt g o) g o s sqrtVal
/-- FDIV. -/
def execFdiv (g : Guards) (o : FloatSel) (s : State) : Out :=
  runAlu (.fdiv g o) g o.b.isUniform o.d o.ty.regs s fun v => divVal o.ty (v.fval o.ty o.a) (v.fsrc o.ty o.b)
/-- FSIN. -/
def execFsin (g : Guards) (o : FloatUn) (s : State) : Out := runSpecial (.fsin g o) g o s sinVal
/-- FCOS. -/
def execFcos (g : Guards) (o : FloatUn) (s : State) : Out := runSpecial (.fcos g o) g o s cosVal
/-- FTANH. -/
def execFtanh (g : Guards) (o : FloatUn) (s : State) : Out := runSpecial (.ftanh g o) g o s tanhVal

end Sys2Proof.Machine
end

