-- ==== Sys2Proof/Machine/Dispatch.lean ====
section
/-!
DEFINITION. The dispatch: one arm per constructor of `Instr`, each a direct call of its meaning.
-/
namespace Sys2Proof.Machine

open Sys2Proof

def exec (i : Instr) (s : State) : Host.Outcome State Fault Refusal :=
  match i with
  | .iadd g o => Sys2Proof.Machine.execIadd g o s
  | .isub g o => Sys2Proof.Machine.execIsub g o s
  | .imul g o => Sys2Proof.Machine.execImul g o s
  | .imulh g o => Sys2Proof.Machine.execImulh g o s
  | .imad g o => Sys2Proof.Machine.execImad g o s
  | .idiv g o => Sys2Proof.Machine.execIdiv g o s
  | .irem g o => Sys2Proof.Machine.execIrem g o s
  | .imin g o => Sys2Proof.Machine.execImin g o s
  | .imax g o => Sys2Proof.Machine.execImax g o s
  | .iabs g o => Sys2Proof.Machine.execIabs g o s
  | .ineg g o => Sys2Proof.Machine.execIneg g o s
  | .shl g o => Sys2Proof.Machine.execShl g o s
  | .shr g o => Sys2Proof.Machine.execShr g o s
  | .sar g o => Sys2Proof.Machine.execSar g o s
  | .rotl g o => Sys2Proof.Machine.execRotl g o s
  | .rotr g o => Sys2Proof.Machine.execRotr g o s
  | .bfx g o => Sys2Proof.Machine.execBfx g o s
  | .bfi g o => Sys2Proof.Machine.execBfi g o s
  | .popc g o => Sys2Proof.Machine.execPopc g o s
  | .clz g o => Sys2Proof.Machine.execClz g o s
  | .ctz g o => Sys2Proof.Machine.execCtz g o s
  | .brev g o => Sys2Proof.Machine.execBrev g o s
  | .andb g o => Sys2Proof.Machine.execAndb g o s
  | .orb g o => Sys2Proof.Machine.execOrb g o s
  | .xorb g o => Sys2Proof.Machine.execXorb g o s
  | .notb g o => Sys2Proof.Machine.execNotb g o s
  | .andn g o => Sys2Proof.Machine.execAndn g o s
  | .sel g o => Sys2Proof.Machine.execSel g o s
  | .icmp g o => Sys2Proof.Machine.execIcmp g o s
  | .mov g o => Sys2Proof.Machine.execMov g o s
  | .lea g o => Sys2Proof.Machine.execLea g o s
  | .pand g o => Sys2Proof.Machine.execPand g o s
  | .por g o => Sys2Proof.Machine.execPor g o s
  | .pxor g o => Sys2Proof.Machine.execPxor g o s
  | .pnot g o => Sys2Proof.Machine.execPnot g o s
  | .fadd g o => Sys2Proof.Machine.execFadd g o s
  | .fsub g o => Sys2Proof.Machine.execFsub g o s
  | .fmul g o => Sys2Proof.Machine.execFmul g o s
  | .ffma g o => Sys2Proof.Machine.execFfma g o s
  | .fmin g o => Sys2Proof.Machine.execFmin g o s
  | .fmax g o => Sys2Proof.Machine.execFmax g o s
  | .fabs g o => Sys2Proof.Machine.execFabs g o s
  | .fneg g o => Sys2Proof.Machine.execFneg g o s
  | .fcmp g o => Sys2Proof.Machine.execFcmp g o s
  | .fclass g o => Sys2Proof.Machine.execFclass g o s
  | .frint g o => Sys2Proof.Machine.execFrint g o s
  | .fldexp g o => Sys2Proof.Machine.execFldexp g o s
  | .fcopysign g o => Sys2Proof.Machine.execFcopysign g o s
  | .fexp g o => Sys2Proof.Machine.execFexp g o s
  | .fexp2 g o => Sys2Proof.Machine.execFexp2 g o s
  | .flog2 g o => Sys2Proof.Machine.execFlog2 g o s
  | .frcp g o => Sys2Proof.Machine.execFrcp g o s
  | .frsq g o => Sys2Proof.Machine.execFrsq g o s
  | .fsqrt g o => Sys2Proof.Machine.execFsqrt g o s
  | .fdiv g o => Sys2Proof.Machine.execFdiv g o s
  | .fsin g o => Sys2Proof.Machine.execFsin g o s
  | .fcos g o => Sys2Proof.Machine.execFcos g o s
  | .ftanh g o => Sys2Proof.Machine.execFtanh g o s
  | .cvt g o => Sys2Proof.Machine.execCvt g o s
  | .cvtq g o => Sys2Proof.Machine.execCvtq g o s
  | .cvtx g o => Sys2Proof.Machine.execCvtx g o s
  | .rand g o => Sys2Proof.Machine.execRand g o s
  | .perm g o => Sys2Proof.Machine.execPerm g o s
  | .bcast g o => Sys2Proof.Machine.execBcast g o s
  | .shup g o => Sys2Proof.Machine.execShup g o s
  | .shdn g o => Sys2Proof.Machine.execShdn g o s
  | .vote g o => Sys2Proof.Machine.execVote g o s
  | .matchLanes g o => Sys2Proof.Machine.execMatchLanes g o s
  | .nbrl g o => Sys2Proof.Machine.execNbrl g o s
  | .nbrr g o => Sys2Proof.Machine.execNbrr g o s
  | .ld g o => Sys2Proof.Machine.execLd g o s
  | .st g o => Sys2Proof.Machine.execSt g o s
  | .lds g o => Sys2Proof.Machine.execLds g o s
  | .sts g o => Sys2Proof.Machine.execSts g o s
  | .stPass g o => Sys2Proof.Machine.execStPass g o s
  | .atom g o => Sys2Proof.Machine.execAtom g o s
  | .cas g o => Sys2Proof.Machine.execCas g o s
  | .aacc g o => Sys2Proof.Machine.execAacc g o s
  | .ldacc g o => Sys2Proof.Machine.execLdacc g o s
  | .fence g o => Sys2Proof.Machine.execFence g o s
  | .cpyGs g o => Sys2Proof.Machine.execCpyGs g o s
  | .cpySg g o => Sys2Proof.Machine.execCpySg g o s
  | .cpyGg g o => Sys2Proof.Machine.execCpyGg g o s
  | .waitall g o => Sys2Proof.Machine.execWaitall g o s
  | .waitany g o => Sys2Proof.Machine.execWaitany g o s
  | .tagff g o => Sys2Proof.Machine.execTagff g o s
  | .tagclr g o => Sys2Proof.Machine.execTagclr g o s
  | .recd g o => Sys2Proof.Machine.execRecd g o s
  | .recq g o => Sys2Proof.Machine.execRecq g o s
  | .pref g o => Sys2Proof.Machine.execPref g o s
  | .flush g o => Sys2Proof.Machine.execFlush g o s
  | .inv g o => Sys2Proof.Machine.execInv g o s
  | .lzero g o => Sys2Proof.Machine.execLzero g o s
  | .lmov g o => Sys2Proof.Machine.execLmov g o s
  | .lfma g o => Sys2Proof.Machine.execLfma g o s
  | .ladd g o => Sys2Proof.Machine.execLadd g o s
  | .ladda g o => Sys2Proof.Machine.execLadda g o s
  | .lneg g o => Sys2Proof.Machine.execLneg g o s
  | .lscale g o => Sys2Proof.Machine.execLscale g o s
  | .lnorm g o => Sys2Proof.Machine.execLnorm g o s
  | .lrnd g o => Sys2Proof.Machine.execLrnd g o s
  | .lquo g o => Sys2Proof.Machine.execLquo g o s
  | .lload g o => Sys2Proof.Machine.execLload g o s
  | .lstore g o => Sys2Proof.Machine.execLstore g o s
  | .lxadd g o => Sys2Proof.Machine.execLxadd g o s
  | .mzero g o => Sys2Proof.Machine.execMzero g o s
  | .mma g o => Sys2Proof.Machine.execMma g o s
  | .mmas g o => Sys2Proof.Machine.execMmas g o s
  | .msel g o => Sys2Proof.Machine.execMsel g o s
  | .maddt g o => Sys2Proof.Machine.execMaddt g o s
  | .mrnd g o => Sys2Proof.Machine.execMrnd g o s
  | .mquo g o => Sys2Proof.Machine.execMquo g o s
  | .mspill g o => Sys2Proof.Machine.execMspill g o s
  | .mfill g o => Sys2Proof.Machine.execMfill g o s
  | .bra g off => Sys2Proof.Machine.execBra g off s
  | .jmpi g r => Sys2Proof.Machine.execJmpi g r s
  | .jtbl g o => Sys2Proof.Machine.execJtbl g o s
  | .call g d off => Sys2Proof.Machine.execCall g d off s
  | .calli g d r => Sys2Proof.Machine.execCalli g d r s
  | .ret g r => Sys2Proof.Machine.execRet g r s
  | .mark off => Sys2Proof.Machine.execMark off s
  | .join => Sys2Proof.Machine.execJoin s
  | .yield g => Sys2Proof.Machine.execYield g s
  | .exit g => Sys2Proof.Machine.execExit g s
  | .nop g => Sys2Proof.Machine.execNop g s
  | .rep g o => Sys2Proof.Machine.execRep g o s
  | .trap g n => Sys2Proof.Machine.execTrap g n s
  | .bkpt g n => Sys2Proof.Machine.execBkpt g n s
  | .tret => Sys2Proof.Machine.execTret s
  | .bar sc => Sys2Proof.Machine.execBar sc s
  | .bara sc => Sys2Proof.Machine.execBara sc s
  | .barw sc => Sys2Proof.Machine.execBarw sc s
  | .innend g => Sys2Proof.Machine.execInnend g s
  | .vshrink g n => Sys2Proof.Machine.execVshrink g n s
  | .vgrow g n => Sys2Proof.Machine.execVgrow g n s
  | .lnch g o => Sys2Proof.Machine.execLnch g o s
  | .mgmt g o => Sys2Proof.Machine.execMgmt g o s
  | .ctxrd g o => Sys2Proof.Machine.execCtxrd g o s
  | .ctxwr g o => Sys2Proof.Machine.execCtxwr g o s
  | .mfs g o => Sys2Proof.Machine.execMfs g o s
  | .mts g o => Sys2Proof.Machine.execMts g o s
  | .issueSlotService core squad slot => Sys2Proof.Machine.execIssueSlotService core squad slot s
  | .aging core squad => Sys2Proof.Machine.execAging core squad s
  | .watchdog core squad => Sys2Proof.Machine.execWatchdog core squad s
  | .loadCompletion k => Sys2Proof.Machine.execLoadCompletion k s
  | .copyCompletion k => Sys2Proof.Machine.execCopyCompletion k s
  | .mgmtReply k => Sys2Proof.Machine.execMgmtReply k s
  | .version k => Sys2Proof.Machine.execVersion k s
  | .setseed k => Sys2Proof.Machine.execSetseed k s
  | .chainq k => Sys2Proof.Machine.execChainq k s
  | .leaseq k => Sys2Proof.Machine.execLeaseq k s
  | .notify k => Sys2Proof.Machine.execNotify k s
  | .unservedMgmtCode k => Sys2Proof.Machine.execUnservedMgmtCode k s
  | .commit task => Sys2Proof.Machine.execCommit task s
  | .doorbell v => Sys2Proof.Machine.execDoorbell v s
  | .dequeue chain => Sys2Proof.Machine.execDequeue chain s
  | .teamStart core team => Sys2Proof.Machine.execTeamStart core team s
  | .coreClean core => Sys2Proof.Machine.execCoreClean core s
  | .bind slot r => Sys2Proof.Machine.execBind slot r s
  | .revoke slot => Sys2Proof.Machine.execRevoke slot s
  | .suspend slot => Sys2Proof.Machine.execSuspend slot s
  | .resume slot => Sys2Proof.Machine.execResume slot s
  | .drainComplete slot => Sys2Proof.Machine.execDrainComplete slot s
  | .remapRowWrite die core row => Sys2Proof.Machine.execRemapRowWrite die core row s
  | .teamSwitch core => Sys2Proof.Machine.execTeamSwitch core s
  | .preemption core => Sys2Proof.Machine.execPreemption core s
  | .teamRestore core team => Sys2Proof.Machine.execTeamRestore core team s
  | .quantumExpiry core => Sys2Proof.Machine.execQuantumExpiry core s
  | .contribution k => Sys2Proof.Machine.execContribution k s
  | .reg k => Sys2Proof.Machine.execReg k s
  | .regack k => Sys2Proof.Machine.execRegack k s
  | .collect k => Sys2Proof.Machine.execCollect k s
  | .surr k => Sys2Proof.Machine.execSurr k s
  | .surrE k => Sys2Proof.Machine.execSurrE k s
  | .noneMsg k => Sys2Proof.Machine.execNoneMsg k s
  | .partialEviction slice line => Sys2Proof.Machine.execPartialEviction slice line s
  | .gatherStart line => Sys2Proof.Machine.execGatherStart line s
  | .bowlContribution k => Sys2Proof.Machine.execBowlContribution k s
  | .bowlEmission k => Sys2Proof.Machine.execBowlEmission k s
  | .linkReplay k lost => Sys2Proof.Machine.execLinkReplay k lost s
  | .passArrival k => Sys2Proof.Machine.execPassArrival k s
  | .passOutcome k => Sys2Proof.Machine.execPassOutcome k s
  | .notificationToken k => Sys2Proof.Machine.execNotificationToken k s
  | .directoryProbe k => Sys2Proof.Machine.execDirectoryProbe k s
  | .probeAck k => Sys2Proof.Machine.execProbeAck k s
  | .pageWalk core ctx va => Sys2Proof.Machine.execPageWalk core ctx va s
  | .remoteWrite q => Sys2Proof.Machine.execRemoteWrite q s
  | .remoteWriteAck k => Sys2Proof.Machine.execRemoteWriteAck k s
  | .remoteRequest q => Sys2Proof.Machine.execRemoteRequest q s
  | .refusal k why => Sys2Proof.Machine.execRefusal k why s
  | .retryResend k => Sys2Proof.Machine.execRetryResend k s
  | .hostSnoop pa data => Sys2Proof.Machine.execHostSnoop pa data s
  | .hostStore pa data => Sys2Proof.Machine.execHostStore pa data s
  | .classChange ctx va cls => Sys2Proof.Machine.execClassChange ctx va cls s
  | .translationShootdown ctx va len => Sys2Proof.Machine.execTranslationShootdown ctx va len s
  | .migration ctx va pa => Sys2Proof.Machine.execMigration ctx va pa s
  | .leaseGrant lease => Sys2Proof.Machine.execLeaseGrant lease s
  | .leaseRevocation lease ranges => Sys2Proof.Machine.execLeaseRevocation lease ranges s
  | .collectiveDequeue chain => Sys2Proof.Machine.execCollectiveDequeue chain s
  | .send chain => Sys2Proof.Machine.execSend chain s
  | .recv chain => Sys2Proof.Machine.execRecv chain s
  | .rrs chain => Sys2Proof.Machine.execRrs chain s
  | .copyStep chain => Sys2Proof.Machine.execCopyStep chain s
  | .waitStep chain => Sys2Proof.Machine.execWaitStep chain s
  | .loopb chain => Sys2Proof.Machine.execLoopb chain s
  | .loope chain => Sys2Proof.Machine.execLoope chain s
  | .endStep chain => Sys2Proof.Machine.execEndStep chain s
  | .collectiveMessage m => Sys2Proof.Machine.execCollectiveMessage m s
  | .sendAcknowledgement k => Sys2Proof.Machine.execSendAcknowledgement k s
  | .doneMsg chain rank => Sys2Proof.Machine.execDoneMsg chain rank s
  | .stall chain => Sys2Proof.Machine.execStall chain s
  | .memberFailed chain rank => Sys2Proof.Machine.execMemberFailed chain rank s
  | .benchReplay ctx => Sys2Proof.Machine.execBenchReplay ctx s
  | .correctableError site => Sys2Proof.Machine.execCorrectableError site s
  | .uncorrectableError site => Sys2Proof.Machine.execUncorrectableError site s
  | .pageRetire pa => Sys2Proof.Machine.execPageRetire pa s
  | .unitOutOfService league => Sys2Proof.Machine.execUnitOutOfService league s
  | .unitRejoin league => Sys2Proof.Machine.execUnitRejoin league s
  | .unitLoss league => Sys2Proof.Machine.execUnitLoss league s
  | .seed v => Sys2Proof.Machine.execSeed v s
  | .duty v => Sys2Proof.Machine.execDuty v s
  | .podid v => Sys2Proof.Machine.execPodid v s
  | .evqbase v => Sys2Proof.Machine.execEvqbase v s
  | .evqhead v => Sys2Proof.Machine.execEvqhead v s
  | .plim v => Sys2Proof.Machine.execPlim v s
  | .fwOpen v => Sys2Proof.Machine.execFwOpen v s
  | .fwPiece v => Sys2Proof.Machine.execFwPiece v s
  | .fwCommit v => Sys2Proof.Machine.execFwCommit v s
  | .bindw v => Sys2Proof.Machine.execBindw v s
  | .remapw v => Sys2Proof.Machine.execRemapw v s
  | .chainw v => Sys2Proof.Machine.execChainw v s
  | .xlshoot v => Sys2Proof.Machine.execXlshoot v s
  | .classchg v => Sys2Proof.Machine.execClasschg v s
  | .migdone v => Sys2Proof.Machine.execMigdone v s
  | .memfail v => Sys2Proof.Machine.execMemfail v s
  | .pwrite v => Sys2Proof.Machine.execPwrite v s
  | .pcopy v => Sys2Proof.Machine.execPcopy v s
  | .leasegr v => Sys2Proof.Machine.execLeasegr v s
  | .bkres v => Sys2Proof.Machine.execBkres v s
  | .registerWrite off v => Sys2Proof.Machine.execRegisterWrite off v s
  | .reset => Sys2Proof.Machine.execReset s
  | .powerGood => Sys2Proof.Machine.execPowerGood s
  | .bootDone => Sys2Proof.Machine.execBootDone s
  | .hardwareFaultHalt cause => Sys2Proof.Machine.execHardwareFaultHalt cause s
  | .linkTrain full wide => Sys2Proof.Machine.execLinkTrain full wide s
  | .portTraining port ok => Sys2Proof.Machine.execPortTraining port ok s
  | .portLoss port => Sys2Proof.Machine.execPortLoss port s
  | .powerLimitThrottle watts => Sys2Proof.Machine.execPowerLimitThrottle watts s
  | .overtempThrottle => Sys2Proof.Machine.execOvertempThrottle s
  | .overtempShutdown => Sys2Proof.Machine.execOvertempShutdown s
  | .getVersion => Sys2Proof.Machine.execGetVersion s
  | .getCapabilities => Sys2Proof.Machine.execGetCapabilities s
  | .negotiateAlgorithms => Sys2Proof.Machine.execNegotiateAlgorithms s
  | .getDigests => Sys2Proof.Machine.execGetDigests s
  | .getCertificate slot => Sys2Proof.Machine.execGetCertificate slot s
  | .challenge => Sys2Proof.Machine.execChallenge s
  | .getMeasurements index => Sys2Proof.Machine.execGetMeasurements index s
  | .keyExchange => Sys2Proof.Machine.execKeyExchange s
  | .finish => Sys2Proof.Machine.execFinish s
  | .ideKeyManagement => Sys2Proof.Machine.execIdeKeyManagement s
  | .preemptionWatchdog core => Sys2Proof.Machine.execPreemptionWatchdog core s
  | .mcmdUnassignedOpcode v => Sys2Proof.Machine.execMcmdUnassignedOpcode v s
  | .powerLoss => Sys2Proof.Machine.execPowerLoss s
  | .hostWriteAcknowledgement k => Sys2Proof.Machine.execHostWriteAcknowledgement k s
  | .backInvalidationResponse k => Sys2Proof.Machine.execBackInvalidationResponse k s
  | .chainDescriptorWrite chain d => Sys2Proof.Machine.execChainDescriptorWrite chain d s
  | .homeSliceRequest r k => Sys2Proof.Machine.execHomeSliceRequest r k s

end Sys2Proof.Machine
end

