-- ==== Sys2Proof/Machine/Schedule.lean ====
section
/-!
DEFINITION. The model's schedule (spec/14 R304 to R307): which event comes next while nothing is selected. The agenda holds
the events to come; when it is empty a core clock begins, and `State.round` puts the events of one clock into it. Any
other order is that of another agenda (log entry 1).
-/
namespace Sys2Proof.Machine

open Sys2Proof

/-- The cores on which a team stands, in the order of their numbers (R346). -/
def State.activeCores (s : State) : List Nat := sortBy (fun (a b : Nat) => decide (a ≤ b)) (s.teams.map (·.core)).dedup
/-- The four squads of every active core. -/
def State.squads (s : State) : List (Nat × Nat) := s.activeCores.flatMap fun k => (List.range 4).map fun q => (k, q)

/-! ## Messages -/

/-- The event that delivers the message at index `k`. -/
def Msg.event (k : Nat) : Msg → Instr
  | .load _ _ _ => .loadCompletion k
  | .mgmtReply _ _ _ => .mgmtReply k
  | .store _ _ => .homeSliceRequest .flight k
  | .contribution _ _ _ _ _ _ _ [] | .chunk _ _ _ _ _ [] => .contribution k
  | .contribution _ _ _ _ _ _ _ (_ :: _) | .chunk _ _ _ _ _ (_ :: _) => .bowlContribution k
  | .reg _ _ _ => .reg k
  | .regack _ _ => .regack k
  | .collect _ _ => .collect k
  | .surr _ _ _ _ _ => .surr k
  | .surrE _ _ _ _ => .surrE k
  | .none_ _ _ => .noneMsg k
  | .token _ _ _ _ => .notificationToken k
  | .probe _ _ _ _ _ => .directoryProbe k
  | .probeAck _ _ _ _ => .probeAck k
  | .pass _ _ _ _ _ _ _ _ _ => .passArrival k
  | .passOutcome _ _ _ => .passOutcome k
  | .remote _ _ _ .sent _ => .remoteWriteAck k
  | .remote _ _ _ _ _ => .retryResend k
  | .hostWrite _ _ _ => .hostWriteAcknowledgement k
  | .backInval _ _ => .backInvalidationResponse k

/-- The deliveries of a clock: of the `n` messages from index `k` on, each is delivered, oldest first. One that stays where it is, because
its target refused it or cannot take it yet, is passed over. Each event is tried on the state that the ones before it leave. -/
def deliveries : Nat → Nat → State → List Instr × State
  | _, 0, s => ([], s)
  | k, n + 1, s =>
    match s.net[k]? with
    | none => ([], s)
    | some m =>
      match exec (m.event k) s with
      | .next s' =>
        let left := s'.net[k]? = s.net[k + 1]? ∧ (s'.net[k]? ≠ some m ∨ s'.net.length < s.net.length)
        let (es, t) := deliveries (if left then k else k + 1) n s'
        (m.event k :: es, t)
      | .fault _ => ([m.event k], s)
      | .refused _ => ([m.event k], s)

/-- The management core serves the requests that it holds, oldest first. -/
def mgmtEvent (q : MgmtReq) : Instr :=
  match q.code.toNat with
  | 0 => .version 0
  | 1 => .setseed 0
  | 2 => .chainq 0
  | 3 => .leaseq 0
  | 4 => .notify 0
  | _ => .unservedMgmtCode 0

/-! ## Collectives -/

/-- The event of the step that a collective stands at. -/
def State.stepEvent (s : State) (c : Coll) : List Instr :=
  match s.readStep c c.step with
  | .ok p => match stOpc p with
    | 1 => [.send c.chain]
    | 2 => [.recv c.chain]
    | 3 => [.rrs c.chain]
    | 4 => [.copyStep c.chain]
    | 5 => [.waitStep c.chain]
    | 6 => [.loopb c.chain]
    | 7 => [.loope c.chain]
    | _ => [.endStep c.chain]
  | .gather _ | .wait | .fail _ => [.endStep c.chain]

/-- Has this device placed a message of its own: taken, in staging, or on a bench? -/
def State.placedHere (s : State) (m : CollMsg) : Bool :=
  (s.colls.any fun c => c.collid == m.collid && c.rank == m.dst && s.collCtx c == m.ctx && c.received m.src m.seq) ||
    (s.benchOf m.ctx).contains (.msg m)

/-- The messages of a collective to members on this device: presented, acknowledged once placed, refused, or sent again when
their hint has elapsed. `k` is the number of the first among the sends that are not acknowledged. -/
def State.localSends (s : State) : Nat → List (Nat × CollMsg) → List Instr
  | _, [] => []
  | k, (chain, m) :: rest =>
    match s.collOf chain with
    | none => s.localSends (k + 1) rest
    | some c =>
      if !c.live || memDevice (c.member m.dst) != s.podNo then s.localSends (k + 1) rest
      else if m.dstIncarn ≠ s.devIncarn then .refusal (s.net.length + k) .stale :: s.localSends (k + 1) rest
      else if s.placedHere m then .sendAcknowledgement k :: s.localSends k rest
      else if c.waitsHint m then .retryResend (s.net.length + k) :: s.localSends (k + 1) rest
      else .collectiveMessage m :: s.localSends (k + 1) rest

/-- DONE of the members on this device. -/
def State.localDones (s : State) : List Instr :=
  s.colls.flatMap fun c => if c.doneSent then
      (s.colls.filter fun x => x.collid == c.collid && s.collCtx x == s.collCtx c && x.rank != c.rank).map fun x =>
        .doneMsg x.chain { rank := c.rank, incarn := s.devIncarn }
    else []

/-- What the collectives of the device do in a clock. -/
def State.collEvents (s : State) : List Instr :=
  s.localDones ++ s.localSends 0 s.unackedSends ++
    s.colls.flatMap (fun c => match c.phase with
      | .run => s.stepEvent c ++ [.stall c.chain]
      | .stall => []
      | .ending _ _ | .reporting _ => [.endStep c.chain]) ++
    (s.chainNumbers.filter fun k => chainKind (s.chain k)).map .collectiveDequeue ++
    s.benches.map fun b => .benchReplay b.ctx

/-! ## Launch -/

/-- The team that is placed on a core now, if any. -/
def State.placementEvent (s : State) (core : Nat) : List Instr :=
  match s.placement core with
  | some (t, x) => [if s.unplaced t x then .teamStart core x else .teamRestore core x]
  | none =>
    match s.lentPlacement core with
    | some (_, x) => [.teamStart core x]
    | none => []

/-- The dispatcher's and the launch unit's work in a clock. -/
def State.launchEvents (s : State) : List Instr :=
  (s.chainNumbers.filter fun k => !chainKind (s.chain k)).map .dequeue ++
    s.dirty.map (fun x => .coreClean x.1) ++
    s.activeCores.flatMap (fun k => [.preemption k, .preemptionWatchdog k, .quantumExpiry k, .teamSwitch k]) ++
    (s.slots.filter fun x => x.2.state == .drain).map (fun x => .drainComplete x.1) ++
    ((s.remap.filter fun x => rowValid x.2).map (·.1) ++ s.activeCores).dedup.flatMap s.placementEvent ++
    (s.tasks.filter (·.ordered)).map fun t => .commit t.id

/-! ## The host's commands and firmware -/

/-- A command under way goes on; a firmware slot that is being written is completed; the boot ROM and the boot go on. -/
def State.hostEvents (s : State) : List Instr :=
  (match s.command with
    | none => []
    | some (v, b) => match bitsNat v 0 8 with
      | 4 => [.translationShootdown (bitsNat b 0 16) (bitsNat b 64 64) (bitsNat b 128 64)]
      | 5 => [.classChange (bitsNat b 0 16) (b.extractLsb' 64 57) (BitVec.ofNat 3 (bitsNat b 192 8))]
      | _ => []) ++
    (if s.firmware.opened && s.firmware.status == 2 then [.fwCommit 2] else []) ++
    match s.dstate with
    | .rom => [.powerGood]
    | .boot => [.bootDone]
    | .reset | .await | .ready | .halted => []

/-! ## One clock -/

/-- The items of every warp's queue, oldest first: those that may leave do so in one clock. -/
def State.queueEvents (s : State) : List Instr :=
  s.activeCores.flatMap fun core => (List.range 64).flatMap fun k =>
    match s.queueTeam core k with
    | some (tm, j) => List.replicate (tm.warp j).queue.length (.homeSliceRequest (.queue core) k)
    | none => []

/-- The numbers below `n`, downward: what an event removes does not move the ones to come. -/
def downFrom (n : Nat) : List Nat := (List.range n).reverse

/-- The events of one clock: the ready threads are counted, the messages in flight arrive, the collectives and the other units do their
work, and every issue slot serves one candidate (R306). -/
def State.round (s : State) : List Instr :=
  let (arrivals, later) := deliveries 0 s.net.length s
  s.squads.flatMap (fun (k, q) => [.aging k q, .watchdog k q]) ++
    arrivals ++ later.collEvents ++
    s.mgmt.map mgmtEvent ++
    s.queueEvents ++
    (downFrom s.copies.length).map (fun k => .copyCompletion k) ++
    (downFrom s.bowls.length).filterMap (fun k => match s.bowls[k]? with
      | some b => if b.opened + 64 ≤ s.clk then some (.bowlEmission k) else none
      | none => none) ++
    s.launchEvents ++ s.hostEvents ++
    s.squads.flatMap fun (k, q) => (List.range 4).map fun slot => .issueSlotService k q slot

/-- Since when a team stands at a switch point (R237). -/
def State.noteSwitch (s : State) (tm : Team) : Team :=
  let at_ := (s.task? tm.task).any fun tk => atSwitchPoint tk tm
  { tm with switchSince := if at_ then some (tm.switchSince.getD s.clk) else none }

/-! ## The units that an instruction needs (R305) -/

/-- The threads of a group whose instruction a unit cannot accept now: the group's instruction is tried. -/
def State.tryGroup (s : State) (g : Group) : List ThreadKey :=
  let s : State := { s with cur := some g, curRest := [], blocked := [] }
  match s.issue with
  | .exec i =>
    match exec i s with
    | .next t => t.blocked
    | .fault _ => []
    | .refused _ => []
  | .next t => t.blocked
  | .stop _ => []

/-- The same for every thread of the group: without those that cannot, the rest is tried again. -/
def State.busyGroup (s : State) : Nat → Group → List ThreadKey
  | 0, _ => []
  | fuel + 1, g =>
    match s.tryGroup g with
    | [] => []
    | ks => ks ++ s.busyGroup fuel { g with members := g.members.filter fun m => !ks.any fun k => k.tid == m }

/-- The same for the threads of one candidate, those that share a lane one after the other. -/
def State.busyCand (s : State) (core : Nat) (c : CandKey) : Nat → List Ready → List ThreadKey
  | 0, _ => []
  | fuel + 1, rs =>
    match groupMembers rs with
    | [] => []
    | ms =>
      let keys := ms.map fun r => r.t.key r.tm
      ((groupsOf core c ms).flatMap fun g => s.busyGroup g.members.length g) ++
        s.busyCand core c fuel (rs.filter fun r => !keys.contains (r.t.key r.tm))

/-- The threads of the device whose next instruction the units cannot accept: they are not ready (R305). -/
def State.busyNow (s : State) : List ThreadKey :=
  let s : State := { s with busy := [], blocked := [] }
  s.squads.flatMap fun (core, squad) =>
    let rs := s.readyOf core squad
    ((rs.map s.candOf).dedup).flatMap fun c => s.busyCand core c rs.length (rs.filter fun r => s.candOf r == c)

/-- A core clock begins: the faults of the clock before are reported, what can end ends, the evictions of the plan that are due take place,
a command of the host goes on, the threads that no unit can serve are found, and the clock's events are put on the agenda. -/
def State.newClock (s : State) : State :=
  let s := s.postFaults.settle
  let s := ({ s with clk := s.clk + 1, teams := s.teams.map s.noteSwitch } : State).evictDue
  let s := ({ s with replicas := s.replicas.map s.noteVersion } : State).commandStep
  let s := { s with busy := s.busyNow }
  { s with agenda := s.round }.tick

/-- The slot of the group has served no candidate in this clock after all, and tries again. -/
def State.retrySlot (g : Group) (s : State) : State :=
  match s.task? g.task, g.members with
  | some tk, tid :: _ =>
    { s.unserve g.core tk.width tid with
      agenda := .issueSlotService g.core (squadOf tk.width tid) (slotOf tk.width tid) :: s.agenda }
  | _, _ => s

/-- After the selected group's step its next part is selected; after the last, nothing is. A slot of whose candidate no part could issue
after all tries again: one that has issued a part issues no other group in the clock (R306). -/
def State.leaveGroup (g : Group) (s : State) : State :=
  match s.curRest with
  | g' :: rest => { s with cur := some g', curRest := rest, curDone := s.curDone || s.blocked.isEmpty }
  | [] =>
    let s' : State := { s with cur := none, curDone := false }
    if s.curDone || s.blocked.isEmpty then s' else State.retrySlot g s'

end Sys2Proof.Machine
end

