-- ==== Sys2Proof/Machine/Loader.lean ====
section
/-!
DEFINITION. How one instruction is laid where the next step fetches it. The machine fetches for the selected issue group
at the group's address, through its task's lease and page table (spec/03 R61, spec/18 R366, R371). Where a group is
selected and its fetch block can be read, the bytes go there. Otherwise a launched task is set up (log entry 2): one team
of one warp per squad on core 0, an identity-mapped 1 GiB page, a lease that covers it, and thread 0 selected.
-/
namespace Sys2Proof.Machine

open Sys2Proof

/-- The 16 bytes of an instruction given by its bits: words in order, each little-endian (R59). -/
def wordBytes (nbits w : Nat) : List Byte := leBytes 16 (w % 2 ^ nbits)

/-- The place from which the selected group fetches, where 16 bytes at its address lie in one readable fetch block. -/
def State.fetchPlace (s : State) : Option Place :=
  match s.ctx with
  | none => none
  | some c =>
    let a := c.g.addr.toNat
    if a % 4 ≠ 0 ∨ 16 < a % 32 ∨ c.g.iter.isSome then none
    else match s.fetchBlock c.tk c.tm.core a c.g.members with
      | .ok _ => match s.translate c.tm.core c.tk.ctx (a / 32 * 32) with
        | .ok x => some { x.place with addr := x.place.addr + a % 32 }
        | .bad => none
        | .hole _ => none
      | .fault _ => none
      | .held _ => none
      | .gather _ => none
      | .hole _ => none

/-! ## The task that is set up -/

/-- Addresses of the tables and the code. -/
def loadContexts : Nat := 0x1000
def loadTable2 : Nat := 0x2000
def loadLeases : Nat := 0x3000
def loadRanges : Nat := 0x4000
def loadRoot : Nat := 0x8000
def loadCode : Nat := 0x10000
def loadChains : Nat := 0x40000

/-- The launch record: W = 16, Q = 1, 256 vector and 256 scalar registers, 16 long accumulators, 7 tiles, 64 KiB of
scratchpad, WDLOG 32, one logical team, entry at the code. -/
def loadRecord : BitVec 4096 :=
  BitVec.ofNat 4096 (loadCode * 2 ^ 64 + 1 * 2 ^ 192 + 16 * 2 ^ 215 + 1 * 2 ^ 222 + 7 * 2 ^ 229 + 16 * 2 ^ 233 +
    256 * 2 ^ 238 + 256 * 2 ^ 247 + 1 * 2 ^ 256 + 32 * 2 ^ 288)

/-- The task. -/
def loadTask (id : Nat) : Task :=
  { id := id, chain := 0, slot := 0, ctx := 0, recAddr := 0x20000, rec0 := loadRecord, table := [], seed := 0, phase := .live,
    bars := [], buf := [], innings := 0, ended := [], fault := 0, offers := [], started := true,
    code := [], hostCode := [] }

/-- The page table entry of the identity-mapped page: V, L, W, X, class RC. -/
def loadLeaf : Nat := 1 + 2 + 4 + 8 + 1 * 2 ^ 4

/-- A chain descriptor: VALID, context 0. -/
def loadChain : BitVec 512 := BitVec.ofNat 512 (2 ^ 135 + 0x20000 * 2 ^ 160 + 0x30000 * 2 ^ 224 + 2 ^ 288 + 2 ^ 320)

/-- The tables in memory. -/
def loadTables (m : List Host.Cell) : List Host.Cell :=
  let m := Memory.put m loadContexts (leBytes 8 loadRoot)
  let m := Memory.put m loadTable2 (leBytes 8 loadLeaf)
  let m := Memory.put m loadLeases (leBytes 8 (2 ^ 63 + loadRanges))
  let m := Memory.put m loadChains (leBytes 64 loadChain.toNat)
  let m := Memory.put m loadRanges (leBytes 16 (0x4000 * 2 ^ 56 + 2 ^ 97 + 2 ^ 98))
  Memory.put m loadRoot (leBytes 8 (1 + loadTable2 / 4096 * 2 ^ 24))

/-- The state with the task set up and the bytes at its entry. -/
def State.loaded (s : State) (bs : List Byte) : State :=
  let t := loadTask s.nextTask
  let tm : Team :=
    { task := t.id, team := 0, core := 0, phase := .run, borrower := false,
      threads := (List.range 64).map (Thread.fresh t loadCode), warps := List.replicate 4 Warp.empty,
      scratch := [], tiles := [], tags := [], passref := 0, sqBar := [], tmBar := BarInst.zero, placedAt := s.clk,
      switchSince := none }
  let s := { s with
    dstate := .ready, mem := Memory.put (loadTables s.mem) loadCode bs, tasks := [t], teams := [tm], saved := [],
    nextTask := s.nextTask + 1, ltb := [], revoked := [], revoking := [], heldPages := [],
    slots := Sparse.set Slot.zero s.slots 0 { rec0 := BitVec.ofNat 512 (2 ^ 256), state := .run, held := false, order := t.id },
    cur := some { task := t.id, team := 0, core := 0, addr := BitVec.ofNat 64 loadCode, members := [0], inRoutine := false,
                  iter := none },
    curRest := [] }
  ((s.setWindow 0x20 (BitVec.ofNat 64 loadChains)).setWindow 0x28 (BitVec.ofNat 64 loadContexts)).setWindow 0x30
    (BitVec.ofNat 64 loadLeases)

/-- Put an instruction, given by its bits, where the next step fetches it; no task has older words of its code. -/
def State.placeWord (s : State) (nbits w : Nat) : State :=
  match s.fetchPlace with
  | some p =>
    let forget := fun (t : Task) => { t with code := [], hostCode := [] }
    { s.writeBytes p (wordBytes nbits w) with tasks := s.tasks.map forget }
  | none => s.loaded (wordBytes nbits w)

/-- What the step makes of a group's outcome. -/
def groupDone (g : Group) : Out → Out
  | .next s => .next (s.leaveGroup g)
  | .fault f => .fault f
  | .refused r => .refused r

end Sys2Proof.Machine
end

