-- ==== Sys2Proof/Machine/Step.lean ====
section
/-!
DEFINITION. One step of the machine, and where a test instruction is placed (`withFetchWord`).
-/
namespace Sys2Proof.Machine

open Sys2Proof

/-- One step. With an issue group selected, its instruction is fetched, decoded and executed (R66). Otherwise the next
event of the agenda takes place; with the agenda empty a core clock begins. -/
def step (s : State) : Out :=
  match s.cur with
  | some g =>
    match s.issue with
    | .exec i => groupDone g (exec i s)
    | .next s' => .next (s'.leaveGroup g)
    | .stop f => .fault f
  | none =>
    match s.agenda with
    | e :: rest => exec e { s with agenda := rest }
    | [] => .next s.newClock

/-- `s` with an instruction, given by its bits, where the next step fetches it. -/
def State.withFetchWord (s : State) (nbits w : Nat) : State := s.placeWord nbits w

end Sys2Proof.Machine
end

