-- ==== Sys2Proof/Safety.lean ====
section
/-!
DEFINITION. What counts as a safe run, in the terms the claims use: a step that goes on, when the selected group can issue
its instruction, what an issued instruction leaves alone, and the invariants of the state.
-/
namespace Sys2Proof.Machine

open Sys2Proof

/-- A step goes on: it answers a next state. -/
def goesOn (s : State) : Prop := ∃ t, step s = .next t

/-! ## When an instruction issues -/

/-- The selected group of `s` is that of `c`, and its instruction `i` issues: every register operand is aligned and, in
each active lane, lies below the allotment (spec/01 R12, spec/03 R65), and no register that it names awaits data
(spec/14 R305). -/
structure CanIssue (s : State) (c : Ctx) (i : Instr) (gs : Guards) : Prop where
  selected : s.ctx = some c
  aligned : ∀ u ∈ i.uses c.wide, u.aligned = true
  allotted : ∀ t ∈ c.active gs, ∀ u ∈ i.uses c.wide, u.num + u.cnt ≤ allotOf c.tk t u.cls
  arrived : ∀ t ∈ c.threads, ∀ d ∈ s.pendingDests (c.key t) (c.warp t).queue, ∀ u ∈ i.uses c.wide, destMeets u d = false

/-- No active lane waits for an acquire of its own (spec/17 R335). -/
def NoAcquire (s : State) (c : Ctx) (gs : Guards) : Prop := ∀ t ∈ c.active gs, s.acqPending (c.key t) = false

/-! ## What an instruction leaves alone -/

/-- A thread without what records its progress: the program counter, the repeat state, the wait, the inning count and
the watchdog's count. -/
def Thread.still (t : Thread) : Thread :=
  { t with pc := 0, rep := Rep.none, wait := .none, innEnded := false, innpos := 0, part := 0, cut := false, atYield := false,
           dog := 0 }

/-- A thread outside the group keeps everything; a wait in YIELD may end (spec/05 R135). -/
def Bystander (x y : Thread) : Prop := y = { x with wait := y.wait }

/-- The teams of `t` are those of `s` after the group of `c` has issued an instruction that does `f` to its threads and `h` to the
warps of its team, and sends a thread that has no repeat pending to `next`: every other thread, warp and team is unchanged
(spec/00 R7, spec/03 R64). -/
def TeamsAfter (s t : State) (c : Ctx) (next : Thread → Nat) (f : Thread → Thread) (h : Nat → Warp → Warp) : Prop :=
  List.Forall₂ (fun (a b : Team) =>
    b = { a with threads := b.threads, warps := b.warps } ∧
    if a.task = c.tk.id ∧ a.team = c.tm.team then
      b.warps.length = a.warps.length ∧ (∀ k < a.warps.length, b.warp k = h k (a.warp k)) ∧
      List.Forall₂ (fun (x y : Thread) =>
        if x.tid ∈ c.g.members then
          y.still = (f x).still ∧ (c.g.iter = none → y.pc = BitVec.ofNat 64 (next x) ∧ y.rep = (f x).rep)
        else Bystander x y) a.threads b.threads
    else b.warps = a.warps ∧ List.Forall₂ Bystander a.threads b.threads) s.teams t.teams

/-- `t` is `s` after the group of `c` has issued such an instruction: every other field of the state is unchanged, memory
included. -/
def GroupEffect (s t : State) (c : Ctx) (next : Thread → Nat) (f : Thread → Thread) (h : Nat → Warp → Warp) : Prop :=
  t = { s with teams := t.teams, freeCtr := s.freeCtr + 1, blocked := [] } ∧ TeamsAfter s t c next f h

/-- The address after an instruction, pad words skipped (spec/03 R60). -/
def State.follows (s : State) (c : Ctx) (i : Instr) (x : Thread) : Nat := s.skipPads c.tk (x.pc.toNat + instrBytes i)

/-- Is the thread an active lane? -/
def Ctx.isActive (c : Ctx) (gs : Guards) (x : Thread) : Prop := x.tid ∈ (c.active gs).map (·.tid)

open Classical in
/-- Instruction `i` issues, does `f` to each active lane, and nothing else. -/
def LanesDo (i : Instr) (gs : Guards) (f : State → Ctx → Thread → Thread) : Prop :=
  ∀ s c, CanIssue s c i gs → ∃ t, exec i s = .next t ∧
    GroupEffect s t c (s.follows c i) (fun x => if c.isActive gs x then f s c x else x) fun _ w => w

open Classical in
/-- Instruction `i` issues and does `f` to each warp that has an active lane, and nothing else. -/
def WarpsDo (i : Instr) (gs : Guards) (f : State → Ctx → Nat → Warp → Warp) : Prop :=
  ∀ s c, CanIssue s c i gs → ∃ t, exec i s = .next t ∧
    GroupEffect s t c (s.follows c i) id fun k w => if k ∈ c.warps (c.active gs) then f s c k w else w

open Classical in
/-- An entry of the ALU mould (spec/03 R68 to R70, spec/04 R91, R92): each active lane writes `f` of what it reads to `n`
registers from `d` and sets the status bits `st`; in the uniform form each warp with an active lane writes its scalar
registers once, and its active lanes set the status bits. -/
def AluDoes (i : Instr) (gs : Guards) (uniform : Bool) (d : RegNum) (n : Nat) (f : View → Nat) (st : View → Sts) : Prop :=
  ∀ s c, CanIssue s c i gs → ∃ t, exec i s = .next t ∧
    GroupEffect s t c (s.follows c i)
      (fun x => if c.isActive gs x then
          if uniform then x.setSts (st (warpView (c.warp x)))
          else (x.setSts (st (c.laneView x))).putRegs d.val n (f (c.laneView x))
        else x)
      fun k w => if uniform = true ∧ k ∈ c.warps (c.active gs) then w.putRegs d.val n (f (warpView w)) else w

/-- No status bit is set. -/
def noSts (_ : View) : Sts := Sts.none

/-! ## Values, in mathematical terms -/

/-- Does val read patterns of this type as signed (spec/04 R94)? -/
def isSigned : IntTy → Bool
  | .i32 | .i64 => true
  | .n32 => false

/-- A data register of an integer entry as a w-bit pattern. -/
def View.bv (v : View) (t : IntTy) (r : RegNum) : BitVec (intW t) := BitVec.ofNat _ (v.data r t.regs)
/-- Operand B of an integer entry as a w-bit pattern. -/
def View.bvB (v : View) (t : IntTy) (b : Src) : BitVec (intW t) := BitVec.ofNat _ (v.src b t.regs)

/-- val(x) of R94. -/
def num (t : IntTy) (x : BitVec (intW t)) : Int := if isSigned t then x.toInt else x.toNat

/-- An integer entry that writes the w-bit pattern `f` and sets no status bit. -/
def IntDoes (i : Instr) (g : Guards) (ty : IntTy) (uniform : Bool) (d : RegNum) (f : View → BitVec (intW ty)) : Prop :=
  AluDoes i g uniform d ty.regs (fun v => (f v).toNat) noSts

/-- The number of leading entries of `l` that hold. -/
def leading (l : List Bool) : Nat := (l.takeWhile id).length

/-- The rational that a finite value denotes; 0 for the others. -/
def Val.rat : Val → ℚ
  | .fin n m e => (if n then -1 else 1) * (m : ℚ) * (2 : ℚ) ^ e
  | .nan _ | .inf _ => 0

/-- round(x, t, mode) of R55 for a nonzero rational. -/
def roundRat (t : DType) (mode : Mode) (x : ℚ) : Rounded := roundTo t mode (decide (x < 0)) x.num.natAbs x.den

/-- ieee(expr) of R103: its sources, whether it multiplies ∞ by 0, whether it adds ∞ and −∞, the sign of an infinity that
it involves, its exact value, and the sign that R102 gives to a zero. -/
def ieee (t : DType) (mode : Mode) (srcs : List Val) (infZero infInf : Bool) (infSign : Option Bool) (x : ℚ) (zeroSign : Bool) :
    Rounded :=
  if srcs.any Val.isNan then { code := dtNan t, sts := Sts.when (srcs.any Val.isSnan || infZero) Sts.invalid }
  else if infZero || infInf then { code := dtNan t, sts := Sts.invalid }
  else match infSign with
    | some n => Rounded.exact (dtSign t n + dtInfCode t)
    | none => if x = 0 then Rounded.exact (dtSign t zeroSign) else roundRat t mode x

/-- a + b. -/
def ieeeAdd (t : DType) (mode : Mode) (a b : Val) : Rounded :=
  ieee t mode [a, b] false (a.isInf && b.isInf && a.neg != b.neg)
    (if a.isInf then some a.neg else if b.isInf then some b.neg else none) (a.rat + b.rat)
    (if a.isZero && b.isZero && a.neg == b.neg then a.neg else mode == .rdn)
/-- a × b. -/
def ieeeMul (t : DType) (mode : Mode) (a b : Val) : Rounded :=
  ieee t mode [a, b] ((a.isInf && b.isZero) || (a.isZero && b.isInf)) false
    (if a.isInf || b.isInf then some (a.neg != b.neg) else none) (a.rat * b.rat) (a.neg != b.neg)
/-- a × b + c. -/
def ieeeFma (t : DType) (mode : Mode) (a b c : Val) : Rounded :=
  let pi := a.isInf || b.isInf
  let ps := a.neg != b.neg
  ieee t mode [a, b, c] ((a.isInf && b.isZero) || (a.isZero && b.isInf)) (pi && c.isInf && ps != c.neg)
    (if pi then some ps else if c.isInf then some c.neg else none) (a.rat * b.rat + c.rat)
    (if (a.isZero || b.isZero) && c.isZero && ps == c.neg then ps else mode == .rdn)

/-- a < b for values that are no NaN, −0 and +0 being equal. -/
def Val.lt (a b : Val) : Bool :=
  if a.isInf then a.neg && !(b.isInf && b.neg)
  else if b.isInf then !b.neg
  else decide (a.rat < b.rat)
/-- a < b with −0 below +0 (R104). -/
def Val.ltZ (a b : Val) : Bool := a.lt b || (a.isZero && b.isZero && a.neg && !b.neg)

/-- FMIN and FMAX by R104: `ca` and `cb` are the sources' codes. -/
def pickMinMax (t : DType) (mx : Bool) (ca cb : Nat) : Rounded :=
  let a := decodeCode t ca
  let b := decodeCode t cb
  { code := if a.isNan && b.isNan then dtNan t else if a.isNan then cb else if b.isNan then ca
      else if mx then (if a.ltZ b then cb else ca) else (if a.ltZ b then ca else cb),
    sts := Sts.when (a.isSnan || b.isSnan) Sts.invalid }

/-- A condition of FCMP on ordered sources, and its result on unordered ones (R105). -/
def fcondOrdered (cc : FCond) (a b : Val) : Bool :=
  match cc with
  | .eq => !a.lt b && !b.lt a | .ne => a.lt b || b.lt a | .lt => a.lt b | .le => !b.lt a
  | .gt => b.lt a | .ge => !a.lt b | .un => false | .ord => true
def fcondUnordered : FCond → Bool
  | .ne | .un => true
  | .eq | .lt | .le | .gt | .ge | .ord => false
/-- The conditions that any NaN makes invalid (R105). -/
def fcondSignals : FCond → Bool
  | .lt | .le | .gt | .ge => true
  | .eq | .ne | .un | .ord => false

/-- The bit that FCLASS sets (R106). -/
def classOf (t : DType) (a : Val) : Nat :=
  if a.isSnan then 0 else if a.isNan then 1
  else if a.isInf then (if a.neg then 2 else 9)
  else if a.isZero then (if a.neg then 5 else 6)
  else if (2 : ℚ) ^ (1 - (dtBias t : Int)) ≤ |a.rat| then (if a.neg then 3 else 8)
  else (if a.neg then 4 else 7)

/-- rint(x, mode) of R55. -/
def rintRat (mode : Mode) (x : ℚ) : Int :=
  match mode with
  | .rtz => if x < 0 then ⌈x⌉ else ⌊x⌋
  | .rup => ⌈x⌉
  | .rdn => ⌊x⌋
  | .rne =>
    let f := x - ⌊x⌋
    if f < 1 / 2 then ⌊x⌋ else if 1 / 2 < f then ⌊x⌋ + 1 else if ⌊x⌋ % 2 = 0 then ⌊x⌋ else ⌊x⌋ + 1
  | .rna => if x < 0 then ⌈x - 1 / 2⌉ else ⌊x + 1 / 2⌋

/-- A source that is no NaN, infinity or zero gives `f`; the others give what R107 says of FRINT and FLDEXP. -/
def unlessSpecial (t : DType) (c : Nat) (f : Val → Rounded) : Rounded :=
  let a := decodeCode t c
  if a.isNan then { code := dtNan t, sts := Sts.when a.isSnan Sts.invalid }
  else if a.isInf || a.isZero then Rounded.exact c
  else f a

/-- The code of an operand as a bit vector of the format's width. -/
def View.code (v : View) (t : FloatTy) (r : RegNum) : BitVec (dtBits (fdt t)) := BitVec.ofNat _ (v.data r t.regs)
def View.codeB (v : View) (t : FloatTy) (b : Src) : BitVec (dtBits (fdt t)) := BitVec.ofNat _ (v.src b t.regs)

/-- A floating entry that gives the result `f` with its status bits. -/
def FloatDoes (i : Instr) (g : Guards) (uniform : Bool) (d : RegNum) (n : Nat) (f : View → Rounded) : Prop :=
  AluDoes i g uniform d n (fun v => (f v).code) fun v => (f v).sts

/-- The results of a special function at the edges of its domain (R111): at −∞, −0, +0 and +∞, and, where the table gives one
result for them, at the negative finite sources. -/
def EdgeRow (t : FloatTy) (f : Nat → Rounded) (ninf nzero pzero pinf : Rounded) (negative : Option Rounded) : Prop :=
  ∀ c, let a := decodeCode (fdt t) c
    (a.isNan = true → f c = { code := dtNan (fdt t), sts := Sts.when a.isSnan Sts.invalid }) ∧
    (a.isInf = true → f c = if a.neg then ninf else pinf) ∧
    (a.isZero = true → f c = if a.neg then nzero else pzero) ∧
    (∀ r ∈ negative, a.rat < 0 → f c = r)

/-- ±∞, ±0 and ±1 of a type, "inv" and "dz" of R111. -/
def edgeInf (t : FloatTy) (neg : Bool) : Rounded := Rounded.exact (dtSign (fdt t) neg + dtInfCode (fdt t))
def edgeZero (t : FloatTy) (neg : Bool) : Rounded := Rounded.exact (dtSign (fdt t) neg)
def edgeOne (t : FloatTy) (neg : Bool) : Rounded := roundRat (fdt t) .rne (if neg then -1 else 1)
def edgeInv (t : FloatTy) : Rounded := { code := dtNan (fdt t), sts := Sts.invalid }
def edgeDz (t : FloatTy) (neg : Bool) : Rounded := { edgeInf t neg with sts := Sts.divzero }

/-- FDIV by R110 and R111. -/
def ieeeDiv (t : FloatTy) (a b : Val) : Rounded :=
  let sg := a.neg != b.neg
  if a.isNan || b.isNan then { code := dtNan (fdt t), sts := Sts.when (a.isSnan || b.isSnan) Sts.invalid }
  else if (a.isInf && b.isInf) || (a.isZero && b.isZero) then edgeInv t
  else if a.isInf then edgeInf t sg
  else if b.isInf || a.isZero then edgeZero t sg
  else if b.isZero then edgeDz t sg
  else roundRat (fdt t) .rne (a.rat / b.rat)

/-- The rational of a block scale; 0 for NaN. -/
def Scale.rat : Scale → ℚ
  | .nan => 0
  | .val m e => (m : ℚ) * (2 : ℚ) ^ e

/-- convert of R58 on the decoded value: `sd` is the destination's scale and `x` the extra byte of E2M1X. -/
def convertRat (v : Val) (dst : DType) (sd : Scale) (x : Nat) (mode : Mode) : Rounded :=
  let float := dtKind dst == .float
  if v.isNan then
    if !float then { code := 0, sts := Sts.satInvalid }
    else if dtHasNan dst then { code := dtNan dst, sts := Sts.when v.isSnan Sts.invalid }
    else { code := 0, sts := Sts.invalid }
  else if v.isInf then
    if !float then { code := intCode (dtBits dst) (if v.neg then dtMinI dst else dtMaxI dst), sts := Sts.satInvalid }
    else if dtInf dst then Rounded.exact (dtSign dst v.neg + dtInfCode dst)
    else if dst = .e4m3 then { code := dtNan dst, sts := Sts.invalid }
    else { code := dtSign dst v.neg + dtMaxCode dst, sts := Sts.invalid }
  else if sd = .nan then { code := 0, sts := Sts.invalid }
  else if v.rat = 0 then Rounded.exact (if float && dst != .e2m1x then dtSign dst v.neg else 0)
  else if sd.rat = 0 then { code := 0, sts := Sts.divzero }
  else
    let extra := decodeFloat .e4m3 (x % 256)
    if dst = .e2m1x ∧ extra.isNan = false ∧ v.rat = extra.rat * sd.rat then Rounded.exact 8
    else
      let r := roundRat dst mode (v.rat / sd.rat)
      if dst = .e2m1x ∧ r.code = 8 then { r with code := 0 } else r

/-- CVTX by R114. -/
def fitScale (sf : ScaleFmt) (et : DType) (a : Val) : Rounded :=
  let m : ℚ := if dtKind et = .float then (decodeCode et (dtMaxCode et)).rat else dtMaxI et
  let q := |a.rat| / m
  match sf with
  | .p8 =>
    if a.isNan || a.isInf then { code := 0xFF, sts := Sts.invalid }
    else if a.isZero then Rounded.exact 0x7F
    else
      let k := Int.clog 2 q
      { code := (max (-127) (min k 127) + 127).toNat, sts := Sts.when (decide (127 < k)) Sts.overflow }
  | .q8 =>
    if a.isNan || a.isInf then { code := 0x7F, sts := Sts.invalid }
    else if a.isZero then Rounded.exact 0x38
    else
      let r := roundRat .e4m3 .rup q
      { r with code := r.code % 128 }

/-! ## When the checks of a memory access pass -/

/-- Steps 1 to 5 of R155 (spec/06) hold in every lane of a record side: a valid record with the permission and the width,
an index inside it or dropped, an aligned address. -/
def SidePasses (sd : Side) : Prop :=
  ∀ l ∈ sd.lanes, recValid l.r = true ∧ sd.need.perm l.r = true ∧ (∀ w ∈ sd.need.width, w ≤ recEsz l.r) ∧
    (recOob l.r = true → l.inside = true) ∧ (l.inside = true → l.addr % sd.need.align = 0)

/-- A line of a DO page of this device holds no cell that must be gathered before the thread's view of it is made (R244). -/
def State.doClear (s : State) (x : Xlat) : Prop :=
  x.cls = .ord → x.place.space = .dev → s.cellAt (lineBase x.place.addr) = none

/-- Step 6 of R155 holds for each line that the lanes of a side touch with `size` bytes: leased, mapped, permitted, of an
accepted class. -/
def LinesPass (s : State) (c : Ctx) (sd : Side) (size : Nat) (k : Touch) : Prop :=
  ∀ l ∈ sd.lanes, l.inside = true → ∀ va ∈ lineVas l.addr size, ∃ x, s.lineOut c k l.t va = .ok x ∧ s.doClear x

/-- No lane's read has to wait: for a release, an acquire or the gather of a cell (spec/09 R219, R220, spec/17 R333). -/
def ReadsNow (s : State) (c : Ctx) (sd : Side) (size : Nat) (k : Touch) : Prop :=
  ∀ l ∈ sd.lanes, l.inside = true → ∀ va ∈ lineVas l.addr size, ∀ x, s.lineOut c k l.t va = .ok x → x.cls ≠ .ord →
    s.loadWaits c.tm.core (c.key l.t) x.place x.cls = false ∧ (x.place.space = .dev → s.cellAt (lineBase x.place.addr) = none)

/-! ## Memory instructions -/

/-- The lanes of a record side as the checks of R155 leave them: dropped, or with the translation of each line they touch. -/
def State.laneOks (s : State) (c : Ctx) (sd : Side) (size : Nat) (k : Touch) : List LaneOk :=
  sd.lanes.map fun l =>
    { t := l.t, dropped := !l.inside,
      lines := if l.inside then (lineVas l.addr size).filterMap fun va => match s.lineOut c k l.t va with
        | .ok x => some (va, x)
        | _ => none else []
      buf := if l.inside then some sd.buf.val else none }

/-- The side of an access through a record. -/
def recSide (c : Ctx) (act : List Thread) (a : RecAddr) (perm : BitVec 256 → Bool) (width : Option Nat) (align : Nat) : Side :=
  { buf := a.buf, lanes := c.laneIdx act a.idx a.buf (addendOf a.k), need := { perm := perm, width := width, align := align } }

/-- The instruction issues and every check of R155 on its one record side passes. -/
structure AccessPasses (s : State) (c : Ctx) (i : Instr) (gs : Guards) (sd : Side) (size : Nat) (k : Touch) : Prop where
  issues : CanIssue s c i gs
  free : NoAcquire s c gs
  side : SidePasses sd
  lines : LinesPass s c sd size k

/-- The tids of the dropped lanes. -/
def droppedTids (lanes : List LaneOk) : List Nat := (lanes.filter (·.dropped)).map (·.t.tid)

/-- The thread's view of `n` bytes on a DO page (R244). -/
def State.viewBytes (s : State) (k : ThreadKey) (x : Xlat) (n : Nat) : List Byte :=
  ((s.viewLine k x.place).drop (x.place.addr % 128)).take n

/-- The home of a line may give `line` to a load of thread `k` on a core (R332, R338, R340): its bytes, on WS pages a byte of an
unordered store of another thread in place of one, under the stores of the core that are on their way home. An SC line of
host memory is the host's. -/
def State.homeGives (s : State) (core : Nat) (k : ThreadKey) (p : Place) (cls : Cls) (line : List Byte) : Prop :=
  if cls = .sc ∧ p.space = .host then line = Memory.bytes s.hostMem (lineBase p.addr) 128
  else ∃ b : List Byte, b.length = 128 ∧ line = (s.flights core p).foldl layStore b ∧ ∀ j < 128,
    b[j]? = (s.homeLine p)[j]? ∨
      (cls = .ws ∧ ∃ x ∈ s.wsStores, x.owner ≠ k ∧ x.space = p.space ∧ ∃ v, (lineBase p.addr + j, v) ∈ x.bytes ∧ b[j]? = some v)

/-- The line that a load starts from: but for SC the copy in the L1 of its core, else what the home gives; of another device's
line the copy in the L2, else any (R337 to R341, R317). -/
def State.startLine (s : State) (core : Nat) (k : ThreadKey) (x : Xlat) (line : List Byte) : Prop :=
  match x.place.space with
  | .remote _ => ∀ l d, (s.l2.find? fun l => l.place == x.place.line && l.cls == x.cls) = some l → l.data = some d → line = lineBytes d
  | .dev | .host => match if x.cls = .sc then none else s.l1At core x.place with
    | some l => line = lineBytes l.data
    | none => s.homeGives core k x.place x.cls line

/-- The line that a load sees: that one, or a content of it that a replica in the slice of the core's club, made for the thread's
task, has had since, whole (R158). -/
def State.maySee (s : State) (core : Nat) (k : ThreadKey) (p : Place) (line seen : List Byte) : Prop :=
  seen = line ∨ ∃ r ∈ s.replicas, r.club = core / 4 ∧ r.task = k.task ∧ r.place = p.line ∧
    ∃ v ∈ r.versions, seen = (s.flights core p).foldl layStore (lineBytes v)

/-- What a load of `n` bytes at `x` may return to thread `k` (R157, R158, R244, R332, R337 to R341): on a DO page the thread's
view; elsewhere the bytes of a line that it may see, under its own queued stores. -/
def State.mayLoad (s : State) (core : Nat) (k : ThreadKey) (x : Xlat) (n : Nat) (bs : List Byte) : Prop :=
  if x.cls = .ord then bs = s.viewBytes k x n
  else ∃ line seen, s.startLine core k x line ∧ s.maySee core k x.place line seen ∧
    bs = (s.ownStores k).foldl (forward x.place n) ((seen.drop (x.place.addr % 128)).take n)

/-- Memory `m'` is `m`, but that dirty bytes of PV lines of `ls` may have gone home (R341). -/
def MemAfter (ls : List L1Line) (sp : Space) (m m' : List Host.Cell) : Prop :=
  ∀ a, Memory.read m' a = Memory.read m a ∨ ∃ l ∈ ls, l.place.space = sp ∧ lineBase l.place.addr = lineBase a ∧
    l.dirty.getLsbD (a % 128) = true ∧ Memory.read m' a = l.data.extractLsb' (8 * (a % 128)) 8

/-- The same unordered stores, known to more cores. -/
def SameStores (a b : List WsStore) : Prop := List.Forall₂ (fun x y => y = { x with seen := y.seen }) a b

/-- A pass that is superseded on its way (R351); every other message as it is. -/
def Msg.superseded : Msg → Msg
  | .pass p cls d clk target core owner also _ => .pass p cls d clk target core owner also true
  | m => m

/-- The messages `old` are those of `net`, of which passes may be superseded. -/
def Superseding (net old : List Msg) : Prop := List.Forall₂ (fun a b => b = a ∨ b = a.superseded) net old

/-- What becomes of the messages behind the `k`-th, `m`, when it goes on to its next link: what must follow it stands behind, in its order
(R226). -/
def HopsTo (m : Msg) (k : Nat) (net new : List Msg) : Prop :=
  ∃ before behind, new = net.take k ++ before ++ behind ∧ before.Sublist (net.drop k) ∧ behind.Sublist (net.drop k) ∧
    (before ++ behind).Perm (net.drop k) ∧ ∀ x ∈ before, m.ahead x = false

/-- `t` holds the messages of `s`, of which passes to clubs that dropped their region may be superseded, and behind them `new`, among
which stand the SURR.E of registered partials that made room (R220, R347). -/
def NetAfter (s t : State) (new : List Msg) : Prop :=
  ∃ (old sent : List Msg) (gone : List Partial), t.net = old ++ sent ∧
    Superseding s.net old ∧
    new.Sublist sent ∧ sent.Perm (new ++ gone.map fun x => .surrE x.slice x.line x.cls x.acc) ∧
    (∀ x ∈ gone, x ∈ s.partials ∧ x.registered = true) ∧ (∀ x ∈ s.partials, x ∈ t.partials ∨ x ∈ gone) ∧
    ∀ x ∈ t.partials, x ∈ s.partials

/-- `t` is `s` but for caches: loads have brought lines, tags and translations in, room was made for them, and acquires have
dropped lines (R335, R346 to R348). -/
def CachesOnly (s t : State) : Prop :=
  t = { s with l1 := t.l1, l2 := t.l2, replicas := t.replicas, directory := t.directory, ltb := t.ltb, wsStores := t.wsStores,
               mem := t.mem, hostMem := t.hostMem, partials := t.partials, net := t.net } ∧ NetAfter s t [] ∧
  MemAfter s.l1 .dev s.mem t.mem ∧ MemAfter s.l1 .host s.hostMem t.hostMem ∧ SameStores s.wsStores t.wsStores ∧
  (∀ r ∈ t.replicas, r ∈ s.replicas) ∧
  ∀ l ∈ t.l1, l.dirty ≠ 0 → ∃ x ∈ s.l1, x.place = l.place ∧ x.data = l.data ∧ x.dirty = l.dirty

/-- One load of a group: the thread, the translated address, the number of bytes, the bytes returned. -/
abbrev LoadDone := ThreadKey × Xlat × Nat × List Byte

/-- `t` is `s` after the loads of a group, one after another: each returns what it may, and changes caches alone. -/
def LoadsGive (core : Nat) : State → List LoadDone → State → Prop
  | s, [], t => t = s
  | s, (k, x, n, bs) :: rest, t => s.mayLoad core k x n bs ∧ ∃ u, CachesOnly s u ∧ LoadsGive core u rest t

/-- `t` is `s` after the lanes of an access have entered what `items` gives to the store queues of their warps and `buf` to the
inning buffer of the task, and `msgs` is on its way to them; dropped lanes set oobst and do `drop`. Device and host memory
and everything else keep their values; L1 lines that lie in P may be V now, and an acquire may have dropped lines. -/
def Entered (s t : State) (c : Ctx) (i : Instr) (lanes : List LaneOk) (drop : Thread → Thread) (items : List (Nat × List QItem))
    (buf : List DoEntry → List DoEntry) (msgs : List Msg) : Prop :=
  t = { s with teams := t.teams, tasks := t.tasks, net := s.net ++ msgs, l1 := t.l1, l2 := t.l2, ltb := t.ltb,
               wsStores := t.wsStores, freeCtr := s.freeCtr + 1, blocked := [] } ∧
  (∀ l ∈ t.l1, ∃ x ∈ s.l1, l = { x with st := l.st }) ∧ (∀ l ∈ t.l2, l ∈ s.l2) ∧ SameStores s.wsStores t.wsStores ∧
  t.tasks = (s.modTask c.tk.id fun tk => { tk with buf := buf tk.buf }).tasks ∧
  TeamsAfter s t c (s.follows c i) (fun x => if x.tid ∈ droppedTids lanes then drop { x with oobst := true } else x)
    fun k w => { w with queue := w.queue ++ (items.filter (·.1 == k)).flatMap (·.2) }

/-- What each lane that is not dropped gives, with the translation of its line. -/
def ofLanes {α : Type} (lanes : List LaneOk) (f : LaneOk → Xlat → List α) : List α :=
  lanes.flatMap fun l => (l.lines.take 1).flatMap fun x => f l x.2

/-- The virtual address at which a lane that is not dropped begins, and how its line was reached. -/
def LaneOk.va (l : LaneOk) : Nat := (l.lines.map (·.1)).headD 0
def LaneOk.viaOf (c : Ctx) (l : LaneOk) (x : Xlat) : Via := c.via l.buf l.va x

/-- The stores of an ST or ST.PASS as they are entered: overlaps settled (R157), one pass for each line (R162). -/
def storesOf (c : Ctx) (lanes : List LaneOk) (data : Thread → List Byte) (targets : Thread → Xlat → PassTargets) :
    List StoreLane :=
  joinPasses c [] (settleOverlap c (ofLanes lanes fun l x =>
    [{ t := l.t, via := l.viaOf c x, x := x, data := data l.t, targets := targets l.t x }]))

/-- Stores enter the inning buffer on a DO page, and the queue of their warp elsewhere, behind the release of their ordering. -/
def StoresEntered (s t : State) (c : Ctx) (i : Instr) (o : MemOrd) (lanes : List LaneOk) (ls : List StoreLane) : Prop :=
  Entered s t c i lanes id
    ((ls.filter fun l => l.x.cls ≠ .ord).map fun l =>
      (c.warpNo l.t, releaseItems (c.key l.t) (releaseOf o l.x) ++ [.store (l.write c)]))
    (fun b => (ls.filter fun l => l.x.cls = .ord).foldl (fun b l =>
      doStore (c.key l.t) l.x.place l.data l.targets b) b)
    []

/-- The read-modify-write of each lane enters its warp's queue, or on a DO page the inning buffer, where the thread's view
answers at once. -/
def AtomsEntered (s t : State) (c : Ctx) (i : Instr) (o : MemOrd) (lanes : List LaneOk) (drop : Thread → Thread)
    (item : LaneOk → Xlat → QItem) (kind : LaneOk → Xlat → DoKind)
    (answer : Option (LoadDest × (LaneOk → Xlat → List Byte))) : Prop :=
  Entered s t c i lanes drop
    (ofLanes lanes fun l x => if x.cls = .ord then [] else
      [(c.warpNo l.t, releaseItems (c.key l.t) (releaseOf o x) ++ [item l x])])
    (fun b => b ++ ofLanes lanes fun l x => if x.cls = .ord then
      [{ team := c.tm.team, tid := l.t.tid, line := lineBase x.place.addr, space := x.place.space, kind := kind l x }] else [])
    (ofLanes lanes fun l x => match answer with
      | some (dest, view) => if x.cls = .ord then [.load (c.key l.t) dest (view l x)] else []
      | none => [])

/-- The last lane whose bytes reach address `a`, out of those with an offset and `n` bytes each. -/
def lastAt (lanes : List (Thread × Nat)) (n a : Nat) : Option (Thread × Nat) :=
  lanes.reverse.find? fun x => decide (x.2 ≤ a ∧ a < x.2 + n)

/-- The scratchpad accesses of the active lanes, `n` bytes each, pass R171. -/
def ScratchPasses (c : Ctx) (gs : Guards) (n align : Nat) (off : Thread → Int) : Prop :=
  ∀ t ∈ c.active gs, 0 ≤ off t ∧ off t + n ≤ c.tk.scratchBytes ∧ off t % align = 0

/-- An instruction that stores `n` bytes of each active lane to the scratchpad and nothing else: in each byte that of the
highest-numbered lane remains. -/
def ScratchStored (s : State) (c : Ctx) (i : Instr) (gs : Guards) (n : Nat) (off : Thread → Int) (data : Thread → List Byte) : Prop :=
  ∃ put : Team → Team, exec i s = .next ((s.modTeam c.tk.id c.tm.team put).retire c i Post.none) ∧
    ∀ tm, put tm = { tm with scratch := (put tm).scratch } ∧ ∀ a,
      Memory.read (put tm).scratch a = match lastAt ((c.active gs).map fun x => (x, (off x).toNat)) n a with
        | some (x, b) => (data x).getD (a - b) 0
        | none => Memory.read tm.scratch a

/-- How FLUSH and INV touch a line: one of another class than `cls`, or of another device, is skipped. -/
def selectTouch (cls : Cls) : Touch :=
  { write := false, cls := fun _ _ => true, skip := fun x => x.cls != cls || x.place.away }
/-- The lines of class `cls` that FLUSH and INV select in the L1 of the core (R168). -/
def Selected (s : State) (c : Ctx) (gs : Guards) (o : LineSel) (cls : Cls) (l : L1Line) : Bool :=
  l.core == c.tm.core && l.cls == cls && match o with
  | .all => !(c.active gs).isEmpty
  | .line idx buf =>
    ((c.laneIdx (c.active gs) idx buf 0).filter fun x => !recValid x.r || x.inside).any fun x =>
      (lineVas x.addr 1).any fun va => match s.lineOut c (selectTouch cls) x.t va with
        | .ok y => y.cls == cls && !y.place.away && y.place.line == l.place
        | _ => false
/-- Where one line is named, the checks of its lanes pass. -/
def SelectPasses (s : State) (c : Ctx) (gs : Guards) (o : LineSel) (cls : Cls) : Prop :=
  match o with
  | .all => True
  | .line idx buf =>
    let sd : Side := { buf := buf, lanes := (c.laneIdx (c.active gs) idx buf 0).filter fun x => !recValid x.r || x.inside,
                       need := { perm := fun _ => true, width := none, align := 1 } }
    SidePasses sd ∧ LinesPass s c sd 1 (selectTouch cls)

/-- The copies that the lanes start, numbered from the next copy on (R175). -/
def copyRecs (s : State) (c : Ctx) (size : Nat) (e : RegNum) (tag : TagNum) (lanes : List CopyLane) : List CopyRec :=
  lanes.mapIdx fun j l => { id := s.nextCopy + j, owner := c.key l.t, tag := tag.val, size := size, src := l.src, dst := l.dst,
                            reg := e.val, done := none, inRoutine := c.g.inRoutine, srcBuf := l.srcBuf, dstBuf := l.dstBuf,
                            pc := c.g.addr.toNat, iter := c.g.iter }

/-- `t` is `s` after the copies of `lanes` have started, none of them to a DO page: the tag counts them, dropped lanes set
oobst, and nothing is read or written yet (R175). -/
def CopiesStarted (s t : State) (c : Ctx) (i : Instr) (size : Nat) (e : RegNum) (tag : TagNum) (lanes : List CopyLane) : Prop :=
  let dropped : List Nat := (lanes.filter fun l => l.src == .dropped || l.dst == .dropped).map (·.t.tid)
  t = ({ (s.modTeam c.tk.id c.tm.team fun tm =>
          let tm := tm.modThreads (fun t => dropped.contains t.tid) fun t => { t with oobst := true }
          if lanes = [] then tm else tm.setTag tag.val (tm.tagCount tag.val + lanes.length)) with
        copies := s.copies ++ copyRecs s c size e tag lanes, nextCopy := s.nextCopy + lanes.length } : State).retire c i Post.none

/-- A copy of these lanes may start: the tag has room, and no lane writes a DO page, or a held line that may be one. -/
def CopyStarts (s : State) (c : Ctx) (tag : TagNum) (lanes : List CopyLane) : Prop :=
  c.tm.tagCount tag.val + lanes.length ≤ 65535 ∧ ∀ l ∈ lanes, s.copyOnDo c l = false ∧ s.copyHeld c l = false

/-- The line of a DO page that a lane of a copy writes in an ordered launch, if it writes one. -/
def State.doPlace (s : State) (c : Ctx) (l : CopyLane) : Option Place :=
  match l.dst with
  | .mem va => if c.doOk then match s.lineOut c c.touchStore l.t va.toNat with
      | .ok y => if y.cls = .ord then some y.place else none
      | _ => none else none
  | .scratch _ | .dropped => none

/-- `t` is `s` after the copies of `lanes` have started: those to lines of DO pages, whose source bytes `data` gives with their
status, have entered the inning buffer where their instruction stands, and only their completion is due (R178). -/
def CopiesEntered (s t : State) (c : Ctx) (size : Nat) (e : RegNum) (tag : TagNum) (lanes : List CopyLane)
    (data : CopyLane → List Byte × Nat) : Prop :=
  let dropped : List Nat := (lanes.filter fun l => l.src == .dropped || l.dst == .dropped).map (·.t.tid)
  let enter := fun (b : List DoEntry) (l : CopyLane) => (s.doPlace c l).elim b fun p => doStore (c.key l.t) p (data l).1 [] b
  let started : List CopyRec := ((copyRecs s c size e tag lanes).zip lanes).map fun x =>
    ({ x.1 with done := (s.doPlace c x.2).map (fun _ => (data x.2).2) } : CopyRec)
  t = { s with teams := t.teams, tasks := t.tasks, l1 := t.l1, nextCopy := s.nextCopy + lanes.length, copies := s.copies ++ started } ∧
  t.teams = (s.modTeam c.tk.id c.tm.team fun tm =>
    let tm := tm.modThreads (fun t => dropped.contains t.tid) fun t => { t with oobst := true }
    if lanes = [] then tm else tm.setTag tag.val (tm.tagCount tag.val + lanes.length)).teams ∧
  t.tasks = (s.modTask c.tk.id fun tk => { tk with buf := lanes.foldl enter tk.buf }).tasks ∧
  ∀ l ∈ t.l1, ∃ x ∈ s.l1, l = { x with st := l.st }

/-- What the write of a copy's bytes at its destination in memory brings about: `out` is what its completion answers, from the state
`u` in which its source has been read, with status `st` (R175, R177). -/
def CopyLands (u : State) (c : Ctx) (x : Thread) (r : CopyRec) (va : BitVec 57) (bs : List Byte) (st : Nat) (out : Out) : Prop :=
  ∀ y, u.lineOut c { write := true, cls := fun _ z => z != .ord || false } x va.toNat = .ok y → y.cls ≠ .ord →
    let p := y.place
    let w : LaneStore := { owner := c.key x, place := p, cls := y.cls, data := bs, targets := [],
                           copy := if p.away then some r.id else none, via := c.via r.dstBuf va.toNat y }
    let ends := fun (t : State) => out = .next (t.endCopy r st).settle.tick
    u.mayLeave c.tm.core (.store w) = true →
      ((∀ d, p.space ≠ .remote d) → y.cls ≠ .sc → y.cls ≠ .pv →
        ∃ t : State, ends t ∧ t = { u with l1 := t.l1, replicas := t.replicas, net := u.net ++ [.store c.tm.core w] }) ∧
      (p.space = .dev → y.cls = .sc → u.cellAt (lineBase p.addr) = none →
        ∃ t : State, ends t ∧ t.hostMem = u.hostMem ∧ t.teams = u.teams ∧
          ∀ a, Memory.read t.mem a = if p.addr ≤ a ∧ a < p.addr + bs.length then bs.getD (a - p.addr) 0 else Memory.read u.mem a) ∧
      (p.space = .host → y.cls = .sc →
        ∃ t : State, ends t ∧ t.mem = u.mem ∧ t.teams = u.teams ∧ Msg.hostWrite (c.key x) p.addr bs ∈ t.net) ∧
      (p.space = .dev → y.cls = .pv →
        let old := (u.l1At c.tm.core p).elim (u.homeLine p) fun l => lineBytes l.data
        ∃ t : State, ends t ∧ t.teams = u.teams ∧ MemAfter u.l1 .dev u.mem t.mem ∧ MemAfter u.l1 .host u.hostMem t.hostMem ∧
          ∃ l, t.l1At c.tm.core p = some l ∧ l.cls = .pv ∧ l.st = .d ∧ (∀ j < 128,
            (lineBytes l.data)[j]? = if p.addr % 128 ≤ j ∧ j < p.addr % 128 + bs.length then bs[j - p.addr % 128]? else old[j]?) ∧
            ∀ j < 128, p.addr % 128 ≤ j → j < p.addr % 128 + bs.length → l.dirty.getLsbD j = true) ∧
      (∀ d, p.space = .remote d → ∃ t : State, out = .next t ∧ t.teams = u.teams ∧ t.mem = u.mem ∧
        t.copies = u.copies.map (fun z => if z.id = r.id then { z with sent := true } else z) ∧
        ∃ k, t.net = u.net ++ [.remote (c.key x) d (.store w) k u.clk])

/-- A copy of these lanes may start, and those to DO lines find room in the shares of their threads (R242): no destination that may
lie on a DO page is held. -/
def CopyEnters (s : State) (c : Ctx) (tag : TagNum) (lanes : List CopyLane) : Prop :=
  c.tm.tagCount tag.val + lanes.length ≤ 65535 ∧ ∀ l ∈ lanes, s.copyHeld c l = false ∧ ∀ p, s.doPlace c l = some p →
    c.tk.room (c.key l.t) (storeNeeds (c.tk.entriesOf (c.key l.t)) p) = true

/-! ## Accumulators and tiles -/

/-- LRND by R56. -/
def roundAcc (a : Acc) (t : DType) (mode : Mode) : Rounded :=
  if a.nan then nanResult t false
  else if a.pinf && a.ninf then nanResult t true
  else if a.pinf then infResult t false
  else if a.ninf then infResult t true
  else if a.value = 0 then Rounded.exact (if dtKind t = .float ∧ (a.nzt = false ∨ mode = .rdn) then dtSign t true else 0)
  else roundRat t mode ((a.value : ℚ) / 2 ^ 298)

/-- LQUO by R57, to a floating type. -/
def quoAcc (n d : Acc) (t : DType) (mode : Mode) : Rounded :=
  let sign := fun (a : Acc) => if a.ninf then true else if a.pinf then false
    else if a.value = 0 then decide (a.nzt = false ∨ mode = .rdn) else decide (a.value < 0)
  let sg := sign n != sign d
  if n.nan || d.nan then nanResult t false
  else if (n.pinf && n.ninf) || (d.pinf && d.ninf) then nanResult t true
  else if (n.pinf || n.ninf) && (d.pinf || d.ninf) then nanResult t true
  else if n.pinf || n.ninf then infResult t sg
  else if d.pinf || d.ninf then Rounded.exact (dtSign t sg)
  else if d.value = 0 ∧ n.value = 0 then nanResult t true
  else if d.value = 0 then { infResult t sg with sts := (infResult t sg).sts.or Sts.divzero }
  else if n.value = 0 then Rounded.exact (dtSign t sg)
  else roundRat t mode ((n.value : ℚ) / d.value)

/-- Two slots hold the same value and flags. -/
def Acc.same (a b : Acc) : Prop :=
  a.value = b.value ∧ a.nan = b.nan ∧ a.pinf = b.pinf ∧ a.ninf = b.ninf ∧ a.nzt = b.nzt

/-- The slot at row of thread `x` and column `n` of a tile. -/
def Team.slot (tm : Team) (c : Ctx) (x : Thread) (tile n : Nat) : Acc :=
  Sparse.get Acc.zero tm.tiles (tileKey c.tk (c.warpNo x) tile (wlaneOf c.tk.width x.tid) n)

/-- The machine after each active lane has written its row of a tile. -/
def State.rowsPut (s : State) (c : Ctx) (gs : Guards) (tile : Nat) (row : Thread → List Acc) : State :=
  (c.active gs).foldl (fun s x => s.putRow c x tile (row x)) s

/-- The images of the lanes are read, each line of an image in one load: `parts` are the bytes of each lane, line by line (R192). -/
def ImagesRead (s : State) (c : Ctx) (lanes : List LaneOk) (size : Nat) (parts : List (List (List Byte))) (t : State) : Prop :=
  List.Forall₂ (fun (l : LaneOk) ps => ps.length = (l.pieces size).length) lanes parts ∧
  LoadsGive c.tm.core (s.markDropped c lanes id) ((lanes.zip parts).flatMap fun x =>
    ((x.1.pieces size).zip x.2).map fun y => (c.key x.1.t, y.1.2.1, y.1.2.2, y.2)) t

/-- A load of images through a record: what comes of the lanes, given what their loads return. -/
def ImagesLoaded (s : State) (c : Ctx) (i : Instr) (g : Guards) (sd : Side) (size : Nat) (clean : List Byte → Prop)
    (put : State → Thread → List Byte → State) (drop : State → Thread → State) : Prop :=
  let lanes := s.laneOks c sd size c.touchLoad
  AccessPasses s c i g sd size c.touchLoad → ReadsNow s c sd size c.touchLoad →
  (∀ parts t, ImagesRead s c lanes size parts t → ∀ x ∈ lanes.zip parts, x.1.dropped = false → clean x.2.flatten) →
    ∃ s1 parts, ImagesRead s c lanes size parts s1 ∧
      exec i s = .next (((lanes.zip parts).foldl (fun s x =>
        if x.1.dropped then drop s x.1.t else put s x.1.t x.2.flatten) s1).retire c i Post.none)

/-- The stores of the images of the lanes, piece by piece; `part` pieces of a thread have entered before (R242). -/
def imageStores (c : Ctx) (lanes : List LaneOk) (size : Nat) (image : Thread → List Byte) : List StoreLane :=
  lanes.flatMap fun l => ((l.pieces size).drop l.t.part).map fun (a, x, n) =>
    { t := l.t, via := c.via l.buf a x, x := x, data := ((image l.t).drop (a - l.va)).take n, targets := [] }

/-- The lines of scales and metadata that a lane reads can be read now (R197 step 10, R203). -/
def LinesRead (s : State) (c : Ctx) (x : Thread) (refs : List LineRef) : Prop :=
  ∀ r ∈ refs, ∃ y, s.lineOut c c.touchLoad x r.va = .ok y ∧ s.doClear y ∧ (y.cls ≠ .ord →
    s.loadWaits c.tm.core (c.key x) y.place y.cls = false ∧ (y.place.space = .dev → s.cellAt (lineBase y.place.addr) = none))

/-- A lane reads its lines: `data` holds the 128 bytes that come of each of `refs`, and `rd` gives the bytes by record and offset,
those of its team's scratchpad too. -/
def LaneReads (s : State) (c : Ctx) (x : Thread) (rec : Nat → BitVec 256) (refs : List LineRef) (data : List LoadDone)
    (rd : ByteAt) : Prop :=
  (∀ o, rd none o = Memory.read c.tm.scratch o) ∧
  List.Forall₂ (fun (r : LineRef) (d : LoadDone) =>
    d.1 = c.key x ∧ s.lineOut c c.touchLoad x r.va = .ok d.2.1 ∧ d.2.2.1 = 128 ∧
    ∀ b o, lineBase (recBase (rec b) + o) = r.va → rd (some b) o = d.2.2.2.getD ((recBase (rec b) + o) % 128) 0) refs data

/-- The lanes read their lines one after another, as relaxed loads (R197 step 10, R203). -/
def MatrixReads (s : State) (c : Ctx) (act : List Thread) (rec : Nat → BitVec 256) (refs : Thread → List LineRef)
    (rds : List ByteAt) (t : State) : Prop :=
  ∃ data : List (List LoadDone), LoadsGive c.tm.core s data.flatten t ∧ data.length = act.length ∧ rds.length = act.length ∧
    ∀ x ∈ act.zip (data.zip rds), LaneReads s c x.1 rec (refs x.1) x.2.1 x.2.2

/-- A matrix instruction whose checks pass writes to the row of each active lane what `row` gives from the bytes it reads and
the old row, in any carry-save form (R50). -/
def MatrixDoes (i : Instr) (g : Guards) (tile : Nat) (ops : Ctx → Warp → MatIn)
    (row : Ctx → MatIn → ByteAt → Thread → List Acc → List Acc) : Prop :=
  ∀ s c x0 rest, CanIssue s c i g → NoAcquire s c g → c.active g = x0 :: rest →
    let m := ops c (c.warp x0)
    let rec' := fun b => recordOf c.tk (c.warp x0) b
    let refs := fun (x : Thread) => runLines rec' (m.runsA c x ++ m.runsB)
    m.fault16 (c.active g) = none → m.fault7 (s.key 1) rec' (c.active g) = none → m.fault8 c.tk (c.active g) = none →
    m.fault9 c (c.active g) = none → m.fault10 (s.key 1) rec' c (c.active g) = none →
    (∀ x ∈ c.active g, LinesRead s c x (refs x)) →
    (∀ rds t, MatrixReads s c (c.active g) rec' refs rds t → ∀ rd ∈ rds, m.metaOk rd = true) →
      ∃ s1 rds, MatrixReads s c (c.active g) rec' refs rds s1 ∧
        exec i s = .next ((((c.active g).zip rds).foldl (fun t (x : Thread × ByteAt) =>
          t.putRow c x.1 tile (s.anyRow x.1.tid (row c m x.2 x.1 (c.tileRow x.1 tile)))) s1).retire c i Post.none)

/-- A term in units of 2^-298, as accumulate adds it (R46); 0 for one that is no number. -/
def Val.units : Val → Int
  | .fin neg m e => (if neg then -1 else 1) * (if 0 ≤ e + 298 then m * 2 ^ (e + 298).toNat else m / 2 ^ (-(e + 298)).toNat : Nat)
  | .nan _ | .inf _ => 0

/-- A slot that held `a` holds `r` after the terms have been accumulated, in whatever order (R46, R47). -/
def Accumulated (a : Acc) (terms : List Val) (r : Acc) : Prop :=
  r.value = Int.bmod (a.value + (terms.map Val.units).sum) (2 ^ 640) ∧ r.nan = (a.nan || terms.any Val.isNan) ∧
  r.pinf = (a.pinf || terms.any fun v => v.isInf && !v.neg) ∧ r.ninf = (a.ninf || terms.any fun v => v.isInf && v.neg) ∧
  r.nzt = (a.nzt || terms.any fun v => !v.isNan && !v.isInf && !(v.isZero && v.neg))

/-- The product of the A element of a lane and an element of B, by logical position `k` and column `n` (R200, R201). -/
def MatIn.product (m : MatIn) (c : Ctx) (rd : ByteAt) (x : Thread) (fb : BitVec 128) (k code n : Nat) : Val :=
  let b := scaleAt rd fb (n + m.rb) (m.kb + k)
  mulVal (m.valA c rd x k) (decodeElem (fmtType fb) code b.1 b.2)

/-! ## Faults of memory and matrix instructions -/

/-- Does a lane fail step `k` of R155: an invalid record or a permission that it lacks, an element smaller than the access, an index
outside a record that traps, an address that is not aligned? -/
def LaneIdx.Fails (l : LaneIdx) (need : SideNeed) (k : Nat) : Prop :=
  match k with
  | 1 => recValid l.r = false ∨ need.perm l.r = false
  | 2 => ∃ w ∈ need.width, recEsz l.r < w
  | 3 => recOob l.r = true ∧ ¬(0 ≤ l.n ∧ l.n < recExtent l.r)
  | 4 => 0 ≤ l.n ∧ l.n < recExtent l.r ∧ recAddr l.r l.n.toNat % need.align ≠ 0
  | _ => False

/-- The group raises the fault `f` at instruction `i`, which has no other effect. -/
def Raises (s : State) (c : Ctx) (i : Instr) (f : FaultInfo) : Prop := exec i s = .next (s.raise c f).tick

open Classical in
/-- RECORD BOUND of step `k` of R155: it names the lanes of the side that fail the step, each with its index (R155, R390). -/
def BoundRaised (s : State) (c : Ctx) (i : Instr) (sd : Side) (k : Nat) : Prop :=
  let bad := sd.lanes.filter fun l => l.Fails sd.need k
  ∃ f : FaultInfo, f.cause = causeRecord ∧ f.reason = k ∧ f.buf = some sd.buf.val ∧ f.named = bad.map (·.t.tid) ∧
    f.details = bad.map (fun l => { tid := l.t.tid, index := some (BitVec.ofInt 64 l.n), faddr := none, opnd := none }) ∧ Raises s c i f

/-- The first of steps 1 to 4 of R155 that a lane of a side fails decides; of several sides the first that fails it. -/
def BoundChecked (i : Instr) (g : Guards) (sides : Ctx → List Side) : Prop :=
  ∀ s c k before sd after, CanIssue s c i g → NoAcquire s c g → 1 ≤ k → k ≤ 4 → sides c = before ++ sd :: after →
    (∀ j < k, ∀ x ∈ sides c, ∀ l ∈ x.lanes, ¬l.Fails x.need j) → (∀ x ∈ before, ∀ l ∈ x.lanes, ¬l.Fails x.need k) →
    (∃ l ∈ sd.lanes, l.Fails sd.need k) → BoundRaised s c i sd k

open Classical in
/-- A fault for the lines whose outcome is `o`: it names the lanes that touch one, each with its first such address (R160). -/
def LinesRaised (s : State) (c : Ctx) (i : Instr) (buf : Option Nat) (lanes : List (Thread × List Nat)) (out : Thread → Nat → LineOut)
    (cause reason : Nat) (o : LineOut) : Prop :=
  let bad := lanes.filter fun l => ∃ va ∈ l.2, out l.1 va = o
  ∃ f : FaultInfo, f.cause = cause ∧ f.reason = reason ∧ (buf.isSome = true → f.buf = buf) ∧ f.named = bad.map (·.1.tid) ∧
    f.details = bad.map (fun l => { tid := l.1.tid, index := none, opnd := none, faddr :=
      (l.2.find? fun va => out l.1 va = o).map lineBase }) ∧ Raises s c i f

/-- Step 6 of R155, in the order of R160, once no line is held or awaits a retry and none lies where no memory is: LEASE, REMOTE REFUSED,
CLASS, CLASS ALIAS. -/
def LinesChecked (s : State) (c : Ctx) (i : Instr) (buf : Option Nat) (lanes : List (Thread × List Nat)) (k : Touch) : Prop :=
  let out := fun (t : Thread) (va : Nat) => s.lineOut c k t va
  let none_ := fun (p : LineOut → Prop) => ∀ l ∈ lanes, ∀ va ∈ l.2, ¬p (out l.1 va)
  let some_ := fun (o : LineOut) => ∃ l ∈ lanes, ∃ va ∈ l.2, out l.1 va = o
  let raised := LinesRaised s c i buf lanes out
  none_ (fun o => (∃ p, o = .held p) ∨ (∃ a, o = .hole a) ∨ o = .retry) →
    (∀ r, some_ (.lease r) → none_ (fun o => ∃ r', o = .lease r' ∧ r' ≠ r) → raised causeLease r (.lease r)) ∧
    (none_ (fun o => ∃ r, o = .lease r) →
      (some_ .refused → raised causeRemote 0 .refused) ∧
      (none_ (· = .refused) → some_ .cls → raised causeClass 0 .cls) ∧
      (none_ (· = .refused) → none_ (· = .cls) → some_ .aliasing → raised causeAlias 0 .aliasing))

/-- The lanes of a side that are not dropped, with the lines that `size` bytes of each touch. -/
def Side.touched (sd : Side) (size : Nat) : List (Thread × List Nat) :=
  (sd.lanes.filter (·.inside)).map fun l => (l.t, lineVas l.addr size)

/-- An access of `size` bytes through one record makes the checks of R155 in their order. -/
def Checked (i : Instr) (g : Guards) (size : Nat) (sd : Ctx → Side) (k : Ctx → Touch) : Prop :=
  BoundChecked i g (fun c => [sd c]) ∧
  ∀ s c, CanIssue s c i g → NoAcquire s c g → SidePasses (sd c) → LinesChecked s c i (some (sd c).buf.val) ((sd c).touched size) (k c)

open Classical in
/-- SCRATCH BOUND for the active lanes whose offset is negative, leaves the allocation or is not a multiple of `align`, each with its
offset (R171, R176, R192). -/
def ScratchRaised (s : State) (c : Ctx) (i : Instr) (g : Guards) (n align : Nat) (off : Thread → Int) : Prop :=
  let bad := (c.active g).filter fun x => off x < 0 ∨ c.tk.scratchBytes < off x + n ∨ off x % align ≠ 0
  bad ≠ [] → ∃ f : FaultInfo, f.cause = causeScratch ∧ f.reason = 0 ∧ f.named = bad.map (·.tid) ∧
    f.details = bad.map (fun x => { tid := x.tid, index := some (BitVec.ofInt 64 (off x)), faddr := none, opnd := none }) ∧ Raises s c i f

/-- Does a matrix instruction fail step 1 to 6 of R197? -/
def MatIn.Fails (m : MatIn) (k : Nat) : Prop :=
  match k with
  | 1 => fmtOk m.fa = false ∨ ∃ fb ∈ m.fb, fmtOk fb = false
  | 2 => winOk m.win = false
  | 3 => fmtSp m.fa ≠ 0 ∨ ∃ fb ∈ m.fb, (m.sparse = true ∧ fmtSp fb = 0) ∨ (m.sparse = false ∧ fmtSp fb ≠ 0)
  | 4 => ∃ fb ∈ m.fb, widthClass (fmtType m.fa) ≠ widthClass (fmtType fb)
  | 5 => m.sparse = true ∧ m.col = false
  | 6 => m.col0 % m.k ≠ 0 ∨ m.kb % m.k ≠ 0
  | _ => False

/-- REASON of MATRIX for a step of R197. -/
def matrixReason : Nat → Nat
  | 3 => 4 | 4 => 3 | 6 => 7 | k => k

/-- The records that MMA and MMAS name for scales and metadata in memory (R22, R197). -/
def MatIn.Names (m : MatIn) (b : Nat) : Prop :=
  ∃ fb ∈ m.fb, (fmtScf m.fa ≠ 0 ∧ fmtSloc m.fa = false ∧ b = fmtSrec m.fa) ∨ (fmtScf fb ≠ 0 ∧ fmtSloc fb = false ∧ b = fmtSrec fb) ∨
    (fmtSp fb ≠ 0 ∧ fmtMloc fb = false ∧ b = fmtMrec fb)

/-- Is a run of scratchpad bytes outside the allocation, or a run of a record beyond its EXTENT × element size? -/
def Run.Leaves (tk : Task) (r : Run) : Prop := r.buf = none ∧ tk.scratchBytes < r.start + r.len
def Run.Beyond (rec : Nat → BitVec 256) (r : Run) : Prop := ∃ b ∈ r.buf, recExtent (rec b) * recEsz (rec b) < r.start + r.len

/-- Does a lane read an A element outside the allocation (R197 step 9)? -/
def MatIn.readsOutside (m : MatIn) (c : Ctx) (x : Thread) : Prop :=
  let w := dtBits (fmtType m.fa)
  ∃ k < m.k, ∃ b, unfoldBit m.win w (m.row c x) (m.col0 + k) = some b ∧ 8 * c.tk.scratchBytes < b + w

open Classical in
/-- The checks of R197 in their order; the first that fails raises its fault, and no row changes. -/
def MatrixChecked (i : Instr) (g : Guards) (ops : Ctx → Warp → MatIn) : Prop :=
  ∀ s c x0 rest, CanIssue s c i g → NoAcquire s c g → c.active g = x0 :: rest →
    let m := ops c (c.warp x0)
    let rec' := fun b => recordOf c.tk (c.warp x0) b
    let runs := fun (x : Thread) => m.runsA c x ++ m.runsB
    let all : List Nat := (c.active g).map (·.tid)
    let invalid := fun (b : Nat) => m.Names b ∧ (recValid (rec' b) = false ∨ recR (rec' b) = false)
    let odd := fun (b : Nat) => m.Names b ∧ (recStride (rec' b) ≠ recEsz (rec' b) ∨ recSwzEn (rec' b) = true)
    let eight : Prop := m.bo % 4 ≠ 0 ∨ c.tk.scratchBytes < m.bo + m.bBytes ∨ ∃ r ∈ m.runsB, r.Leaves c.tk
    let nine := (c.active g).filter fun x => m.readsOutside c x ∨ ∃ r ∈ m.runsA c x, r.Leaves c.tk
    let ten := (c.active g).filter fun x => ∃ r ∈ runs x, r.Beyond rec'
    (∀ k, 1 ≤ k → k ≤ 6 → (∀ j < k, ¬m.Fails j) → m.Fails k → Raises s c i (FaultInfo.plain causeMatrix (matrixReason k) all)) ∧
    ((∀ j, ¬m.Fails j) →
      (∀ b, invalid b → ∃ f : FaultInfo, f.cause = causeRecord ∧ f.reason = 7 ∧ f.named = all ∧ (∃ b', invalid b' ∧ f.buf = some b') ∧
        Raises s c i f) ∧
      ((∀ b, ¬invalid b) → (∃ b, odd b) → Raises s c i (FaultInfo.plain causeMatrix 8 all)) ∧
      ((∀ b, ¬invalid b ∧ ¬odd b) →
        (eight → Raises s c i (FaultInfo.plain causeScratch 0 all)) ∧
        (¬eight → nine ≠ [] → Raises s c i (FaultInfo.plain causeScratch 0 (nine.map (·.tid)))) ∧
        (¬eight → nine = [] → ten ≠ [] → ∃ f : FaultInfo, f.cause = causeRecord ∧ f.reason = 10 ∧ f.named = ten.map (·.tid) ∧
          (∃ x ∈ ten, ∃ r ∈ runs x, r.Beyond rec' ∧ f.buf = r.buf) ∧ Raises s c i f) ∧
        (¬eight → nine = [] → ten = [] →
          LinesChecked s c i none ((c.active g).map fun x => (x, (runLines rec' (runs x)).map (·.va))) c.touchLoad ∧
          ((∀ x ∈ c.active g, LinesRead s c x (runLines rec' (runs x))) →
            ∃ s1 rds, MatrixReads s c (c.active g) rec' (fun x => runLines rec' (runs x)) rds s1 ∧
              ((∃ rd ∈ rds, m.metaOk rd = false) → Raises s c i (FaultInfo.plain causeMatrix 6 all))))))

/-- MATRIX reason 9: a lane whose image has a reserved bit set keeps its state and faults, after the others have been loaded (R192,
R206). -/
def ImagesFaulted (s : State) (c : Ctx) (i : Instr) (g : Guards) (sd : Side) (size : Nat) (clean : List Byte → Bool)
    (put : State → Thread → List Byte → State) (drop : State → Thread → State) : Prop :=
  let lanes := s.laneOks c sd size c.touchLoad
  AccessPasses s c i g sd size c.touchLoad → ReadsNow s c sd size c.touchLoad →
    ∃ s1 parts, ImagesRead s c lanes size parts s1 ∧
      let bad := (lanes.zip parts).filter fun x => !x.1.dropped && !clean x.2.flatten
      (bad ≠ [] → exec i s = .next ((((lanes.zip parts).foldl (fun s x =>
        if x.1.dropped then drop s x.1.t else if clean x.2.flatten then put s x.1.t x.2.flatten else s) s1).raise c
          (FaultInfo.plain causeMatrix 9 (bad.map (·.1.t.tid)))).tick))

/-- The neighbour of a thread on the chain of its club (R123). -/
def chainNeighbour (tk : Task) (team tid : Nat) (left : Bool) : Option (Nat × Nat) :=
  let n : Int := tk.threads
  let q : Int := (team % 4 : Nat) * n + tid + if left then -1 else 1
  let u := team / 4 * 4 + (q / n).toNat
  if 0 ≤ q ∧ q < 4 * n ∧ u < tk.gridSize then some (u, (q % n).toNat) else none

/-- The `n`-th offer of a neighbour is `v` (R124): 0 of one that does not exist, or that exited before it made that many. -/
def Offered (s : State) (tk : Task) (n : BitVec 32) (v : BitVec 64) : Option (Nat × Nat) → Prop
  | none => v = 0
  | some (team, tid) =>
    let o := Sparse.get Offers.zero tk.offers (team * tk.threads + tid)
    (o.made = n ∧ v = o.last.val) ∨ (o.made = n + 1 ∧ v = o.prev.val) ∨ ((o.made - n).toInt < 0 ∧ s.hasExited tk team tid = true ∧ v = 0)

/-! ## Control -/

/-- The active lane with the thread's number, if there is one. -/
def Ctx.lane? (c : Ctx) (gs : Guards) (x : Thread) : Option Thread := (c.active gs).find? fun u => u.tid == x.tid

/-- A transfer: each active lane goes to its target, pad words skipped, and does `f`; the others go on (R126 to R130). -/
def JumpsDo (i : Instr) (g : Guards) (target : Ctx → Thread → Nat) (f : Ctx → Thread → Thread) : Prop :=
  ∀ s c, CanIssue s c i g → ∃ t, exec i s = .next t ∧
    GroupEffect s t c
      (fun x => match c.lane? g x with
        | some u => s.skipPads c.tk (target c u)
        | none => s.follows c i x)
      (fun x => if x.tid ∈ (c.active g).map (·.tid) then f c x else x) fun _ w => w

/-- The signed word at a code address, which may leave its fetch block, reads as `e` (R129). -/
def ReadsWord (s : State) (c : Ctx) (a : Nat) (e : Int) : Prop :=
  ∃ bs, s.fetchBlock c.tk c.tm.core a c.g.members = .ok bs ∧
    if a % 32 + 4 ≤ 32 then (wordAt bs (a % 32)).toInt = e
    else ∃ bs', s.fetchBlock c.tk c.tm.core (a + 4) c.g.members = .ok bs' ∧ (wordAt (bs ++ bs') (a % 32)).toInt = e

/-- What becomes of each thread of the group's team. -/
def ThreadsBecome (s t : State) (c : Ctx) (P : Thread → Thread → Prop) : Prop :=
  ∀ tid x, s.thread? { task := c.tk.id, team := c.tm.team, tid := tid } = some x →
    ∃ y, t.thread? { task := c.tk.id, team := c.tm.team, tid := tid } = some y ∧ P x y

/-- Nothing but threads and warps of teams has changed. -/
def TeamsOnly (s t : State) : Prop := t = { s with teams := t.teams, freeCtr := s.freeCtr + 1, blocked := [] }

/-! ## Special registers and the hidden state -/

/-- The word of a hidden item (R149). -/
def itemWord (s : State) (c : Ctx) (x : Thread) (item : CtxItem) : Nat :=
  let marks := (c.warp x).marks
  let rep := (x.routine.map (·.rep)).getD x.rep
  let bar := fun (sc : Fin 5) => s.barInst c.tk (instOf c.tk c.tm.team x.tid sc.val)
  match item with
  | .msdepth => marks.length
  | .msaddr e => (marks[e.val]?).elim 0 fun m => (m.rejoin.toNat + 2 ^ 57 - c.tk.entry) % 2 ^ 32
  | .msmask e => (marks[e.val]?).elim 0 fun m => m.mask.toNat % 2 ^ 32
  | .msmaskh e => (marks[e.val]?).elim 0 fun m => m.mask.toNat / 2 ^ 32
  | .repcnt => if rep.remaining = 0 then 0 else rep.iter.toNat * 2 ^ 16 + rep.remaining.toNat
  | .repcfg => rep.mask.toNat * 2 ^ 8 + rep.stride.toNat
  | .wait => match (x.routine.map (·.wait)).getD x.wait with
    | .none | .mgmt | .bkpt | .held _ _ => 0
    | .join => 1
    | .barrier sc => 2 + 2 ^ 4 * sc.val
    | .nbr => 3
    | .vgrow n => 4 + 2 ^ 8 * (n / 8)
    | .inning => 5
    | .yield _ => 6
  | .nbrcnt => x.nbrcnt.toNat
  | .nbroff => x.offer.toNat % 2 ^ 32
  | .nbroffh => x.offer.toNat / 2 ^ 32
  | .barst sc => (x.bar sc.val).rgen.toNat + if (x.bar sc.val).pending then 2 ^ 31 else 0
  | .barcnt sc => (bar sc).count.toNat
  | .bargen sc => (bar sc).gen.toNat
  | .tagcnt n => c.tm.tagCount n.val
  | .innpos => x.innpos.toNat

/-- The value of a special register in a thread (R28). -/
def specialNow (s : State) (c : Ctx) (x : Thread) (r : Special) : Nat :=
  let w := c.tk.width
  match r with
  | .lane => (x.tid / w / 4) % (64 / w) * w + x.tid % w
  | .wlane => x.tid % w
  | .warp => x.tid / w
  | .squad => x.tid / w % 4
  | .tid => x.tid
  | .width => w
  | .vallot => x.vallot
  | .team => c.tm.team
  | .club => c.tm.team / 4
  | .league => c.tm.team / 16
  | .gridsz => c.tk.gridSize
  | .seedlo => c.tk.seed.toNat % 2 ^ 32
  | .seedhi => c.tk.seed.toNat / 2 ^ 32
  | .inning => x.inning.toNat
  | .fault i => x.fault.toNat / 2 ^ (32 * i.val) % 2 ^ 32
  | .tagrdylo => ((List.range 32).map fun k => if c.tm.tagCount k = 0 then 2 ^ k else 0).sum
  | .tagrdyhi => ((List.range 32).map fun k => if c.tm.tagCount (k + 32) = 0 then 2 ^ k else 0).sum
  | .clklo => s.clk % 2 ^ 32
  | .clkhi => s.clk / 2 ^ 32 % 2 ^ 32
  | .oobst => if x.oobst then 1 else 0
  | .satst => if x.satst then 1 else 0
  | .fpst => x.fpst.toNat
  | .passref => c.tm.passref.toNat
  | .wdlim => if c.tk.wdlog = 32 then 0 else 2 ^ c.tk.wdlog % 2 ^ 32

/-! ## Collectives and commands -/

/-- The collective of the chain stands at step `p`, which has the opcode `opc`, and may run it now (R258, R259). -/
structure StepAt (s : State) (chain : Nat) (c : Coll) (p : Step) (opc : Nat) : Prop where
  here : s.collOf chain = some c
  runs : s.collRuns c = true
  step : s.readStep c c.step = .ok p
  ok : stepOk p = true
  opcode : stOpc p = opc

/-- The machine after a step of a collective: `c` is its new record, and `k` the step that it runs next. -/
def State.stepped (s : State) (clk : Nat) (c : Coll) (k : Nat) : State := (s.setColl { c with step := k, waitSince := clk }).tick

/-- MSTAT shows a command that is done: its opcode, its result, OVR cleared (R412). -/
def Commanded (u : State) (opc result : Nat) : Prop :=
  bitsNat (u.windowReg 0x50) 8 8 = opc ∧ bitsNat (u.windowReg 0x50) 1 7 = result ∧ bitsNat (u.windowReg 0x50) 16 1 = 0

/-- MSTAT shows a command that goes on: BUSY is 1. -/
def Accepted (u : State) (opc : Nat) : Prop :=
  bitsNat (u.windowReg 0x50) 8 8 = opc ∧ bitsNat (u.windowReg 0x50) 0 1 = 1

/-! ## Invariants -/

/-- Device and host memory are in canonical form: addresses rise strictly, and no listed byte is 0. -/
def State.memOk (s : State) : Prop := Memory.wf s.mem = true ∧ Memory.wf s.hostMem = true

end Sys2Proof.Machine
end

