-- ==== Sys2Proof/Certificates/Slice0/Obligations.lean ====
section
/-!
DEFINITION. The statements for the provers, by spec file.
-/
open Sys2Proof Sys2Proof.Machine

/-- R94: IADD, ISUB, IMUL, IMULH, IMAD, IDIV, IREM, IMIN, IMAX, IABS, INEG, SHL, SHR, SAR, ROTL, ROTR and LEA. -/
def Obligations.IntegerResults : Prop :=
  (∀ g (o : IntBin),
    let I (i : Guards → IntBin → Instr) (f : BitVec (intW o.ty) → BitVec (intW o.ty) → BitVec (intW o.ty)) : Prop :=
      IntDoes (i g o) g o.ty o.b.isUniform o.d fun v => f (v.bv o.ty o.a) (v.bvB o.ty o.b)
    let S (i : Guards → IntBin → Instr) (f : BitVec (intW o.ty) → Nat → BitVec (intW o.ty)) : Prop :=
      IntDoes (i g o) g o.ty o.b.isUniform o.d fun v => f (v.bv o.ty o.a) (v.ctl o.b)
    I .iadd (fun a b => a + b) ∧ I .isub (fun a b => a - b) ∧ I .imul (fun a b => a * b) ∧
    I .imulh (fun a b => BitVec.ofInt _ (num o.ty a * num o.ty b / 2 ^ intW o.ty)) ∧
    I .idiv (fun a b => if b = 0 then BitVec.allOnes _ else if isSigned o.ty then a.sdiv b else a.udiv b) ∧
    I .irem (fun a b => if b = 0 then a else if isSigned o.ty then a.srem b else a.umod b) ∧
    I .imin (fun a b => if num o.ty a ≤ num o.ty b then a else b) ∧
    I .imax (fun a b => if num o.ty b ≤ num o.ty a then a else b) ∧
    S .shl (fun a s => a <<< s) ∧ S .shr (fun a s => a >>> s) ∧ S .sar (fun a s => a.sshiftRight s) ∧
    S .rotl (fun a s => a.rotateLeft s) ∧ S .rotr (fun a s => a.rotateRight s)) ∧
  (∀ g (o : IntTri), IntDoes (.imad g o) g o.ty o.b.isUniform o.d fun v =>
    v.bv o.ty o.a * v.bvB o.ty o.b + v.bv o.ty o.c) ∧
  (∀ g (o : IntUn),
    IntDoes (.iabs g o) g o.ty o.uniform o.d (fun v => (v.bv o.ty o.a).abs) ∧
    IntDoes (.ineg g o) g o.ty o.uniform o.d (fun v => -v.bv o.ty o.a)) ∧
  (∀ g (o : LeaOp), IntDoes (.lea g o) g o.ty o.b.isUniform o.d fun v =>
    v.bv o.ty o.a + v.bvB o.ty o.b <<< o.k.val)

/-- R97: BFX, BFI, POPC, CLZ, CTZ, BREV, AND, OR, XOR, NOT, ANDN, SEL, MOV and ICMP. -/
def Obligations.BitResults : Prop :=
  (∀ g (o : IntBin),
    let w := intW o.ty
    let I (i : Guards → IntBin → Instr) (f : BitVec w → BitVec w → BitVec w) : Prop :=
      IntDoes (i g o) g o.ty o.b.isUniform o.d fun v => f (v.bv o.ty o.a) (v.bvB o.ty o.b)
    I .andb (fun a b => a &&& b) ∧ I .orb (fun a b => a ||| b) ∧ I .xorb (fun a b => a ^^^ b) ∧
    I .andn (fun a b => a &&& ~~~b) ∧
    IntDoes (.bfx g o) g o.ty o.b.isUniform o.d fun v =>
      let pos := v.ctl o.b % 256
      let len := v.ctl o.b / 256 % 256
      let f := (v.bv o.ty o.a).extractLsb' pos (min len (w - pos))
      if len = 0 ∨ w ≤ pos then 0 else if isSigned o.ty then f.signExtend w else f.setWidth w) ∧
  (∀ g (o : IntTri), let w := intW o.ty
    IntDoes (.bfi g o) g o.ty o.b.isUniform o.d fun v =>
      let pos := v.data o.c 1 % 256
      let len := v.data o.c 1 / 256 % 256
      let m : BitVec w := (BitVec.allOnes (min len (w - pos))).setWidth w <<< pos
      if len = 0 ∨ w ≤ pos then v.bv o.ty o.a else (v.bv o.ty o.a &&& ~~~m) ||| (v.bvB o.ty o.b <<< pos &&& m)) ∧
  (∀ g (o : IntUn), let w := intW o.ty
    let C (i : Guards → IntUn → Instr) (f : BitVec w → Nat) : Prop :=
      AluDoes (i g o) g o.uniform o.d 1 (fun v => f (v.bv o.ty o.a)) noSts
    C .popc (fun a => (List.range w).countP fun k => a.getLsbD k) ∧
    C .clz (fun a => leading ((List.range w).map fun k => !a.getMsbD k)) ∧
    C .ctz (fun a => leading ((List.range w).map fun k => !a.getLsbD k)) ∧
    IntDoes (.brev g o) g o.ty o.uniform o.d (fun v => (v.bv o.ty o.a).reverse) ∧
    IntDoes (.notb g o) g o.ty o.uniform o.d (fun v => ~~~v.bv o.ty o.a)) ∧
  (∀ g (o : MovOp), IntDoes (.mov g o) g o.ty o.b.isUniform o.d fun v => v.bvB o.ty o.b) ∧
  (∀ g (o : SelOp), LanesDo (.sel g o) g fun _ c x => x.putRegs o.d.val o.ty.regs
    (if x.pred o.p.val then (c.laneView x).bv o.ty o.a else (c.laneView x).bvB o.ty o.b).toNat) ∧
  (∀ g (o : ICmpOp), LanesDo (.icmp g o) g fun _ c x =>
    let v := if o.b.isUniform then warpView (c.warp x) else c.laneView x
    let a := num o.ty (v.bv o.ty o.a)
    let b := num o.ty (v.bvB o.ty o.b)
    x.setPred o.p.val (match o.cc with
      | .eq => a = b | .ne => a ≠ b | .lt => a < b | .le => a ≤ b | .gt => b < a | .ge => b ≤ a : Bool))

/-- R100 and R13: predicate logic on each active lane; p7 reads 1 whatever is written to it. -/
def Obligations.PredicateLogic : Prop :=
  (∀ g (o : PredBin),
    LanesDo (.pand g o) g (fun _ _ x => x.setPred o.d.val (x.pred o.a.val && x.pred o.b.val)) ∧
    LanesDo (.por g o) g (fun _ _ x => x.setPred o.d.val (x.pred o.a.val || x.pred o.b.val)) ∧
    LanesDo (.pxor g o) g (fun _ _ x => x.setPred o.d.val (x.pred o.a.val ^^ x.pred o.b.val))) ∧
  (∀ g (o : PredUn), LanesDo (.pnot g o) g (fun _ _ x => x.setPred o.d.val (!x.pred o.a.val))) ∧
  (∀ (x : Thread) (p q : PredNum) (b : Bool), x.pred 7 = true ∧ x.setPred 7 b = x ∧
    (x.setPred p.val b).pred q.val = if q = p ∧ p ≠ 7 then b else x.pred q.val)

/-- R102, R103: FADD, FSUB, FMUL and FFMA round their exact rational result once. -/
def Obligations.FloatArithmetic : Prop :=
  (∀ g (o : FloatBin),
    let F (i : Guards → FloatBin → Instr) (f : DType → Mode → Val → Val → Rounded) : Prop :=
      FloatDoes (i g o) g o.b.isUniform o.d o.ty.regs fun v => f (fdt o.ty) o.mode (v.fval o.ty o.a) (v.fsrc o.ty o.b)
    F .fadd ieeeAdd ∧ F .fsub (fun t m a b => ieeeAdd t m a b.negate) ∧ F .fmul ieeeMul) ∧
  (∀ g (o : FloatTri), FloatDoes (.ffma g o) g o.b.isUniform o.d o.ty.regs fun v =>
    ieeeFma (fdt o.ty) o.mode (v.fval o.ty o.a) (v.fsrc o.ty o.b) (v.fval o.ty o.c))

/-- R104 to R106: FMIN, FMAX and FCLASS; FCMP writes the ordered condition, or the unordered result with its invalid flag. -/
def Obligations.FloatSelect : Prop :=
  (∀ g (o : FloatSel),
    FloatDoes (.fmin g o) g o.b.isUniform o.d o.ty.regs
      (fun v => pickMinMax (fdt o.ty) false (v.code o.ty o.a).toNat (v.codeB o.ty o.b).toNat) ∧
    FloatDoes (.fmax g o) g o.b.isUniform o.d o.ty.regs
      (fun v => pickMinMax (fdt o.ty) true (v.code o.ty o.a).toNat (v.codeB o.ty o.b).toNat)) ∧
  (∀ g (o : FloatUn), FloatDoes (.fclass g o) g o.uniform o.d 1 fun v =>
    Rounded.exact (2 ^ classOf (fdt o.ty) (v.fval o.ty o.a))) ∧
  (∀ g (o : FCmpOp), LanesDo (.fcmp g o) g fun _ c x =>
    let v := if o.b.isUniform then warpView (c.warp x) else c.laneView x
    let a := v.fval o.ty o.a
    let b := v.fsrc o.ty o.b
    let nan := a.isNan || b.isNan
    (x.setSts (Sts.when (a.isSnan || b.isSnan || (nan && fcondSignals o.cc)) Sts.invalid)).setPred o.p.val
      (if nan then fcondUnordered o.cc else fcondOrdered o.cc a b))

/-- R107: FRINT, FLDEXP, FABS, FNEG and FCOPYSIGN. -/
def Obligations.FloatMoves : Prop :=
  (∀ g (o : FrintOp), FloatDoes (.frint g o) g o.uniform o.d o.ty.regs fun v =>
    unlessSpecial (fdt o.ty) (v.code o.ty o.a).toNat fun a =>
      let q := rintRat o.mode a.rat
      Rounded.exact (if q = 0 then dtSign (fdt o.ty) a.neg else (roundRat (fdt o.ty) .rne q).code)) ∧
  (∀ g (o : FloatBin), FloatDoes (.fldexp g o) g o.b.isUniform o.d o.ty.regs fun v =>
    unlessSpecial (fdt o.ty) (v.code o.ty o.a).toNat fun a =>
      roundRat (fdt o.ty) o.mode (a.rat * 2 ^ (BitVec.ofNat 32 (v.ctl o.b)).toInt)) ∧
  (∀ g (o : FloatUn),
    AluDoes (.fabs g o) g o.uniform o.d o.ty.regs (fun v => (v.code o.ty o.a &&& ~~~BitVec.intMin _).toNat) noSts ∧
    AluDoes (.fneg g o) g o.uniform o.d o.ty.regs (fun v => (v.code o.ty o.a ^^^ BitVec.intMin _).toNat) noSts) ∧
  (∀ g (o : FloatSel), AluDoes (.fcopysign g o) g o.b.isUniform o.d o.ty.regs (fun v =>
    ((v.code o.ty o.a &&& ~~~BitVec.intMin _) ||| (v.codeB o.ty o.b &&& BitVec.intMin _)).toNat) noSts)

/-- R55: round gives the nearest code by the mode, saturates or overflows beyond the format, and sets exactly the flags named. -/
def Obligations.RoundOnce : Prop :=
  ∀ (t : DType) (mode : Mode) (x : ℚ), x ≠ 0 →
    let r := roundRat t mode x
    match dtKind t with
    | .signed | .unsigned =>
      let q := rintRat mode x
      r = { code := intCode (dtBits t) (max (dtMinI t) (min q (dtMaxI t))),
            sts := { fp := if (q : ℚ) ≠ x then 16 else 0, sat := decide (dtMaxI t < q ∨ q < dtMinI t) } }
    | .float =>
      let emin : Int := 1 - dtBias t
      let e := max (Int.log 2 |x|) emin
      let u : ℚ := 2 ^ (e - dtMant t)
      let y : ℚ := rintRat mode (x / u) * u
      let neg := decide (x < 0)
      if (decodeCode t (dtMaxCode t)).rat < |y| then
        r = { code := dtSign t neg + if dtInf t ∧ (mode = .rne ∨ mode = .rna ∨ (mode = .rup ∧ 0 < x) ∨ (mode = .rdn ∧ x < 0))
                        then dtInfCode t else dtMaxCode t,
              sts := { fp := 4 ||| 16, sat := false } }
      else
        r.code < 2 ^ dtBits t ∧ (decodeCode t r.code).isNan = false ∧ (decodeCode t r.code).isInf = false ∧
        (decodeCode t r.code).rat = y ∧ (decodeCode t r.code).neg = neg ∧
        r.sts = { fp := (if y ≠ x then 16 else 0) ||| (if |x| < 2 ^ emin ∧ y ≠ x then 8 else 0), sat := false }

/-- R110 and R111: the special functions, their edges, and the results that are exact or a quotient. How the other values are
computed is the model's choice (log entry 10). -/
def Obligations.SpecialFunctions : Prop :=
  (∀ g (o : FloatUn),
    let F (i : Guards → FloatUn → Instr) (f : FloatTy → Nat → Rounded) : Prop :=
      FloatDoes (i g o) g o.uniform o.d o.ty.regs fun v => f o.ty (v.code o.ty o.a).toNat
    F .fexp expVal ∧ F .fexp2 exp2Val ∧ F .flog2 log2Val ∧ F .frcp rcpVal ∧ F .frsq rsqVal ∧ F .fsqrt sqrtVal ∧
    F .fsin sinVal ∧ F .fcos cosVal ∧ F .ftanh tanhVal) ∧
  (∀ g (o : FloatSel), FloatDoes (.fdiv g o) g o.b.isUniform o.d o.ty.regs fun v =>
    ieeeDiv o.ty (v.fval o.ty o.a) (v.fsrc o.ty o.b)) ∧
  ∀ t : FloatTy,
    EdgeRow t (expVal t) (edgeZero t false) (edgeOne t false) (edgeOne t false) (edgeInf t false) none ∧
    EdgeRow t (exp2Val t) (edgeZero t false) (edgeOne t false) (edgeOne t false) (edgeInf t false) none ∧
    EdgeRow t (log2Val t) (edgeInv t) (edgeDz t true) (edgeDz t true) (edgeInf t false) (some (edgeInv t)) ∧
    EdgeRow t (rcpVal t) (edgeZero t true) (edgeDz t true) (edgeDz t false) (edgeZero t false) none ∧
    EdgeRow t (rsqVal t) (edgeInv t) (edgeDz t true) (edgeDz t false) (edgeZero t false) (some (edgeInv t)) ∧
    EdgeRow t (sqrtVal t) (edgeInv t) (edgeZero t true) (edgeZero t false) (edgeInf t false) (some (edgeInv t)) ∧
    EdgeRow t (sinVal t) (edgeInv t) (edgeZero t true) (edgeZero t false) (edgeInv t) none ∧
    EdgeRow t (cosVal t) (edgeInv t) (edgeOne t false) (edgeOne t false) (edgeInv t) none ∧
    EdgeRow t (tanhVal t) (edgeOne t true) (edgeZero t true) (edgeZero t false) (edgeOne t false) none ∧
    ∀ c, let a := decodeCode (fdt t) c
      a.isNan = false → a.isInf = false → a.rat ≠ 0 →
        rcpVal t c = roundRat (fdt t) .rne (1 / a.rat) ∧
        (∀ k : Int, t ≠ .f64 → a.rat = k → exp2Val t c = roundRat (fdt t) .rne (2 ^ k)) ∧
        (∀ k : Int, a.rat = 2 ^ k → k ≠ 0 → log2Val t c = roundRat (fdt t) .rne k) ∧
        (a.rat = 1 → log2Val t c = Rounded.exact 0)

/-- R58, R112 to R114: CVT, CVTQ and CVTX; two integer formats set no fpst bit. That the source is tested before the scale is
the model's reading (log entry 52). -/
def Obligations.Conversions : Prop :=
  (∀ g (o : CvtOp), FloatDoes (.cvt g o) g o.uniform o.d o.dt.regs fun v =>
    let r := convertRat (decodeCode o.st (v.data o.a o.st.regs)) o.dt Scale.one 0 o.mode
    if dtKind o.st ≠ .float ∧ dtKind o.dt ≠ .float then { r with sts := { r.sts with fp := 0 } } else r) ∧
  (∀ g (o : CvtqOp), FloatDoes (.cvtq g o) g o.b.isUniform o.d 1 fun v =>
    let a := v.data o.a 1
    let sc := decodeScale o.sf (v.src o.b 1 % 256)
    let x := v.src o.b 1 / 256 % 256
    if o.dequant then convertRat (decodeElem o.et a sc x) (udt o.ut) Scale.one 0 o.mode
    else convertRat (decodeCode (udt o.ut) a) o.et sc x o.mode) ∧
  (∀ g (o : CvtxOp), FloatDoes (.cvtx g o) g o.uniform o.d 1 fun v => fitScale o.sf o.et (decodeCode (udt o.ut) (v.data o.a 1)))

/-- R117: RAND hashes the seed, the logical team, the team-local thread number and the counter. -/
def Obligations.RandomNumbers : Prop :=
  ∀ g (o : RandOp), LanesDo (.rand g o) g fun _ c x =>
    let k := mix (c.tk.seed ^^^ 0x5A173C9E0B6D48F2)
    let a : BitVec 64 := BitVec.ofNat 64 (c.tm.team * 2 ^ 48) + BitVec.ofNat 64 (x.tid * 2 ^ 32) + (x.reg o.a.val).setWidth 64
    let h := mix (mix (a ^^^ k) + k)
    match o.ty with
    | .n32 => x.setReg o.d.val (h.setWidth 32)
    | .f32 =>
      let n := (h >>> 40).toNat
      x.setReg o.d.val (if n = 0 then 0 else BitVec.ofNat 32 (roundRat .f32 .rne ((n : ℚ) / 2 ^ 24)).code)
    | .i64 => x.setPair o.d.val h

/-- R118, R120 to R122: PERM, BCAST, SHUP and SHDN write src(j), which is 0 where no thread of the group is warp lane j; VOTE and
MATCH count the active lanes of the warp. -/
def Obligations.CrossLane : Prop :=
  (∀ g (o : PermOp), LanesDo (.perm g o) g fun _ c x =>
    x.putRegs o.d.val (pairRegs o.pair) (c.supply x o.a.val (pairRegs o.pair) (x.reg o.i.val).toNat)) ∧
  (∀ g (o : BcastOp), LanesDo (.bcast g o) g fun _ c x =>
    x.putRegs o.d.val (pairRegs o.pair) (c.supply x o.a.val (pairRegs o.pair) (match o.i with
      | .imm j => (j.val : Int)
      | .sc r => ((c.warp x).sreg r.val).toNat))) ∧
  (∀ g (o : LaneShift), let at_ (c : Ctx) (j : Int) : Int := if o.wrap then j % c.tk.width else j
    LanesDo (.shup g o) g (fun _ c x => x.putRegs o.d.val (pairRegs o.pair)
      (c.supply x o.a.val (pairRegs o.pair) (at_ c ((wlaneOf c.tk.width x.tid : Int) - o.n.val)))) ∧
    LanesDo (.shdn g o) g (fun _ c x => x.putRegs o.d.val (pairRegs o.pair)
      (c.supply x o.a.val (pairRegs o.pair) (at_ c ((wlaneOf c.tk.width x.tid : Int) + o.n.val))))) ∧
  (∀ (c : Ctx) (x : Thread) (a n : Nat) (j : Int),
    let is_ (u : Thread) : Prop := u ∈ c.threads ∧ c.warpNo u = c.warpNo x ∧ (wlaneOf c.tk.width u.tid : Int) = j
    ((∃ u, is_ u) → ∃ u, is_ u ∧ c.supply x a n j = readRegs u.reg a n) ∧ ((¬∃ u, is_ u) → c.supply x a n j = 0) ∧
    (0 < c.tk.width → (j < 0 ∨ (c.tk.width : Int) ≤ j) → c.supply x a n j = 0)) ∧
  (∀ g (o : VoteOp), LanesDo (.vote g o) g fun _ c x =>
    let mine := (c.active g).filter fun u => c.warpNo u == c.warpNo x
    match o with
    | .all d p => x.setPred d.val (mine.all fun u => u.pred p.val)
    | .any d p => x.setPred d.val (mine.any fun u => u.pred p.val)
    | .ballot d p => x.putRegs d.val (pairRegs c.wide)
        (laneMask c.tk.width (c.warpNo x) ((mine.filter fun u => u.pred p.val).map (·.tid)))
    | .count d p => x.putRegs d.val 1 (mine.countP fun u => u.pred p.val)) ∧
  (∀ g (o : LaneOp), LanesDo (.matchLanes g o) g fun _ c x =>
    let n := pairRegs o.pair
    let mine := (c.active g).filter fun u => c.warpNo u == c.warpNo x
    x.putRegs o.d.val (pairRegs c.wide) (laneMask c.tk.width (c.warpNo x)
      ((mine.filter fun u => readRegs u.reg o.a.val n == readRegs x.reg o.a.val n).map (·.tid)))) ∧
  (∀ (w k : Nat) (ts : List Nat) (j : Nat),
    (laneMask w k ts).testBit j = ts.any fun t => warpOf w t == k && wlaneOf w t == j)

/-- R153, R156, R157, R166: LD and plain LDACC read memory, lane by lane, and write none but what their caches evict; the data
of each lane that is not dropped is on its way to its registers, and dropped lanes receive zero. Only an LD .repl adds
replicas, of what the home holds. That a load takes its value when it issues, and what it may see of a replicated line, are
the model's readings (log entries 50 and 38). -/
def Obligations.LoadData : Prop :=
  let Loads (i : Instr) (g : Guards) (n : Nat) (sd : Ctx → Side) (dest : LoadDest) (zero : Thread → Thread) (repl : Bool) : Prop :=
    ∀ s c, AccessPasses s c i g (sd c) n c.touchLoad → ReadsNow s c (sd c) n c.touchLoad →
      ∃ (t u : State) (data : List LoadDone), exec i s = .next t ∧
        List.Forall₂ (fun (l : LaneIdx) (d : LoadDone) =>
          d.1 = c.key l.t ∧ s.lineOut c c.touchLoad l.t l.addr = .ok d.2.1 ∧ d.2.2.1 = n)
          ((sd c).lanes.filter LaneIdx.inside) data ∧
        LoadsGive c.tm.core s data u ∧
        t = { u with teams := t.teams, net := t.net, l2 := t.l2, replicas := t.replicas, partials := t.partials,
                     freeCtr := s.freeCtr + 1, blocked := [] } ∧
        NetAfter s t (data.map fun d => .load d.1 dest d.2.2.2) ∧
        (repl = false → t.l2 = u.l2 ∧ t.replicas = u.replicas ∧ t.partials = u.partials) ∧
        (∀ r ∈ t.replicas, r ∈ s.replicas ∨
          (r.club = c.tm.core / 4 ∧ r.task = c.tk.id ∧ r.versions = [lineOfBytes (u.homeLine r.place)])) ∧
        TeamsAfter s t c (u.follows c i)
          (fun x => if x.tid ∈ droppedTids (s.laneOks c (sd c) n c.touchLoad) then zero { x with oobst := true } else x)
          (fun _ w => w)
  (∀ g (o : MemOp), let n := widthBytes o.width
    Loads (.ld g o) g n (fun c => recSide c (c.active g) o.addr recR (some n) n) (.regs o.d.val o.width)
      (fun x => x.putLoaded o.d.val o.width (List.replicate n 0)) (o.hint == .repl)) ∧
  (∀ g (o : LdaccOp), o.zero = false →
    Loads (.ldacc g o) g 128 (fun c => recSide c (c.active g) o.addr recR none 128) (.la o.d.val)
      (fun x => x.setLa o.d.val Acc.zero) false)

/-- R157, R161, R162: ST and ST.PASS enter the bytes of each lane's registers for the translated address of its element; where lanes overlap
outside DO pages, each byte entered is that of the highest-numbered lane that writes it, and every lane enters as many bytes as it stores.
One pass for each line, instruction and warp is the model's reading (log entry 21). -/
def Obligations.StoreIssue : Prop :=
  (∀ g (o : MemOp) s c, let n := widthBytes o.width
    let sd := recSide c (c.active g) o.addr recW (some n) n
    let lanes := s.laneOks c sd n c.touchStore
    AccessPasses s c (.st g o) g sd n c.touchStore → noRoom c lanes (storeEntries c) = [] →
      ∃ t, exec (.st g o) s = .next t ∧
        StoresEntered s t c (.st g o) o.ord lanes (storesOf c lanes (fun x => x.storeBytes o.d.val o.width) fun _ _ => [])) ∧
  (∀ g (o : PassOp) s c, let n := widthBytes o.width
    let passes := fun (x : Thread) => recP (c.recOf o.buf x)
    let touch : Touch := { write := true, cls := fun x k => match k with | .pv => !passes x | .ord => c.doOk | .sc | .rc | .ws => true }
    let sd := recSide c (c.active g) { idx := o.idx, buf := o.buf, k := none } recW (some n) n
    let lanes := s.laneOks c sd n touch
    AccessPasses s c (.stPass g o) g sd n touch → noRoom c lanes (storeEntries c) = [] →
      ∃ t, exec (.stPass g o) s = .next t ∧
        StoresEntered s t c (.stPass g o) o.ord lanes (storesOf c lanes (fun x => x.storeBytes o.d.val o.width) fun x l =>
          if passes x && l.place.space == .dev then passTargets c o.kind o.e x else [])) ∧
  (∀ (c : Ctx) (ls : List StoreLane), (∀ l ∈ ls, l.x.cls ≠ .ord) →
    List.Forall₂ (fun a b => b.t = a.t ∧ b.x = a.x ∧ b.targets = a.targets ∧ b.data.length = a.data.length)
      ls (settleOverlap c ls) ∧
    ∀ (i : Nat) (hi : i < (settleOverlap c ls).length) (j : Nat), j < ((settleOverlap c ls)[i]).data.length →
      ∀ (k : Nat) (hk : k < ls.length), i ≤ k →
        let p := ((settleOverlap c ls)[i]).x.place
        let covers := fun (l : StoreLane) => l.x.place.space = p.space ∧ l.x.place.addr ≤ p.addr + j ∧
          p.addr + j < l.x.place.addr + l.data.length
        covers ls[k] → (∀ m (hm : m < ls.length), k < m → ¬covers ls[m]) →
          ((settleOverlap c ls)[i]).data[j]? = (ls[k]).data[p.addr + j - (ls[k]).x.place.addr]?)

/-- R163 to R166: ATOM, CAS, AACC and LDACC .zero enter one indivisible step for each lane that is not dropped; ATOM and CAS write what
their function gives for the old value, on 32-bit and 64-bit patterns. -/
def Obligations.AtomicIssue : Prop :=
  (∀ g (o : AtomOp) s c, let n := if o.wide then 8 else 4
    let sd := recSide c (c.active g) o.addr recA (some n) n
    let lanes := s.laneOks c sd n c.touchAtom
    let req := fun (l : LaneOk) => AtomReq.atom o.fn o.wide (BitVec.ofNat 64 (readRegs l.t.reg o.d.val (n / 4)))
    AccessPasses s c (.atom g o) g sd n c.touchAtom → c.g.members.Nodup → noRoom c lanes (fun _ => 1) = [] →
      ∃ t, exec (.atom g o) s = .next t ∧
        AtomsEntered s t c (.atom g o) o.ord lanes (fun x => x.putRegs o.d.val (n / 4) 0)
          (fun l x => .atom (c.key l.t) x.place x.cls (req l) o.d.val (s.howAtom c l o.ord l.va x))
          (fun l x => .atom (req l) x.place)
          (some (.regs o.d.val (if o.wide then .w64 else .w32), fun l x => s.viewBytes (c.key l.t) x n))) ∧
  (∀ g (o : CasOp) s c, let n := if o.wide then 8 else 4
    let sd := recSide c (c.active g) o.addr recA (some n) n
    let lanes := s.laneOks c sd n c.touchAtom
    let req := fun (l : LaneOk) => AtomReq.cas o.wide (BitVec.ofNat 64 (readRegs l.t.reg o.d.val (n / 4)))
      (BitVec.ofNat 64 (readRegs l.t.reg (o.d.val + n / 4) (n / 4)))
    AccessPasses s c (.cas g o) g sd n c.touchAtom → c.g.members.Nodup → noRoom c lanes (fun _ => 1) = [] →
      ∃ t, exec (.cas g o) s = .next t ∧
        AtomsEntered s t c (.cas g o) o.ord lanes (fun x => x.putRegs o.d.val (n / 4) 0)
          (fun l x => .atom (c.key l.t) x.place x.cls (req l) o.d.val (s.howAtom c l o.ord l.va x))
          (fun l x => .atom (req l) x.place)
          (some (.regs o.d.val (if o.wide then .w64 else .w32), fun l x => s.viewBytes (c.key l.t) x n))) ∧
  (∀ g (o : AaccOp) s c,
    let sd := recSide c (c.active g) o.addr recA none 128
    let lanes := s.laneOks c sd 128 c.touchAacc
    AccessPasses s c (.aacc g o) g sd 128 c.touchAacc → noRoom c lanes (fun _ => 1) = [] →
      ∃ t, exec (.aacc g o) s = .next t ∧
        AtomsEntered s t c (.aacc g o) o.ord lanes id
          (fun l x => .aacc (c.key l.t) x.place x.cls (aaccTerm l.t o.src) (l.viaOf c x))
          (fun l _ => .aacc (aaccTerm l.t o.src)) none) ∧
  (∀ g (o : LdaccOp) s c, o.zero = true →
    let sd := recSide c (c.active g) o.addr (fun r => recR r && recA r) none 128
    let lanes := s.laneOks c sd 128 c.touchLdaccZero
    AccessPasses s c (.ldacc g o) g sd 128 c.touchLdaccZero → c.g.members.Nodup → noRoom c lanes (fun _ => 1) = [] →
      ∃ t, exec (.ldacc g o) s = .next t ∧
        AtomsEntered s t c (.ldacc g o) o.ord lanes (fun x => x.setLa o.d.val Acc.zero)
          (fun l x => .ldaccZero (c.key l.t) x.place x.cls o.d.val (s.howAtom c l o.ord l.va x)) (fun _ _ => .ldaccZero)
          (some (.la o.d.val, fun l x => s.viewBytes (c.key l.t) x 128))) ∧
  (∀ (wide : Bool) (d e : BitVec 64), let w := if wide then 64 else 32
    let D : BitVec w := d.setWidth w
    ∀ m : BitVec w,
      let new := fun (f : AtomFn) => (AtomReq.atom f wide d).new m.toNat
      new .add = (m + D).toNat ∧ new .smin = (if m.sle D then m else D).toNat ∧ new .smax = (if m.sle D then D else m).toNat ∧
      new .umin = (if m.ule D then m else D).toNat ∧ new .umax = (if m.ule D then D else m).toNat ∧
      new .and = (m &&& D).toNat ∧ new .or = (m ||| D).toNat ∧ new .xor = (m ^^^ D).toNat ∧ new .exch = D.toNat ∧
      (AtomReq.cas wide d e).new m.toNat = (if m = D then e.setWidth w else m).toNat)

/-- R171: LDS reads the team's scratchpad, and STS writes it; of overlapping lanes the highest-numbered one's byte remains, and
no other byte changes. -/
def Obligations.ScratchAccess : Prop :=
  (∀ g (o : ScratchOp) s c, let n := widthBytes o.width
    CanIssue s c (.lds g o) g → NoAcquire s c g → ScratchPasses c g n n (scratchOff c o) →
      ∃ t, exec (.lds g o) s = .next t ∧ GroupEffect s t c (s.follows c (.lds g o))
        (fun x => if x.tid ∈ (c.active g).map (·.tid) then
          x.putLoaded o.d.val o.width (c.tm.scratchBytes (scratchOff c o x).toNat n) else x) fun _ w => w) ∧
  (∀ g (o : ScratchOp) s c, let n := widthBytes o.width
    CanIssue s c (.sts g o) g → NoAcquire s c g → s.releasing c (c.active g) = [] → ScratchPasses c g n n (scratchOff c o) →
      ScratchStored s c (.sts g o) g n (scratchOff c o) fun x => x.storeBytes o.d.val o.width)

/-- R167, R168, R173: FENCE, PREF, FLUSH and INV. -/
def Obligations.FencesAndLines : Prop :=
  (∀ g (o : FenceOp) s c, CanIssue s c (.fence g o) g → NoAcquire s c g →
    match o.kind with
    | .rel => ∃ t, exec (.fence g o) s = .next t ∧ Entered s t c (.fence g o) [] id
        ((c.active g).map fun x => (c.warpNo x, [.release (c.key x) o.scope])) id []
    | .acq => (∀ x ∈ c.active g, s.readsPending (c.key x) = false) →
        exec (.fence g o) s =
          .next ((if (c.active g).isEmpty then s else s.acquire c.tm.core o.scope).retire c (.fence g o) Post.none)
    | .full => (∀ x ∈ c.active g, s.outstanding (c.key x) o.scope = false) →
        exec (.fence g o) s =
          .next ((if (c.active g).isEmpty then s else (s.released c (c.active g)).acquire c.tm.core o.scope).retire c (.fence g o)
            Post.none)) ∧
  (∀ g (o : PrefOp) s c, CanIssue s c (.pref g o) g →
    ∃ t u : State, exec (.pref g o) s = .next t ∧ TeamsAfter s t c (u.follows c (.pref g o)) id (fun _ w => w) ∧
      t = { u with teams := t.teams, freeCtr := s.freeCtr + 1, blocked := [] } ∧
      (o.hint ≠ .repl → CachesOnly s u ∧ (o.hint ≠ .keep → u.l1 = s.l1 ∧ u.mem = s.mem ∧ u.hostMem = s.hostMem)) ∧
      (o.hint = .repl → u = { s with l2 := u.l2, replicas := u.replicas, partials := u.partials, net := u.net } ∧
        NetAfter s u [] ∧ ∀ r ∈ u.replicas, r ∈ s.replicas ∨
        (r.club = c.tm.core / 4 ∧ r.task = c.tk.id ∧ r.versions = [lineOfBytes (s.homeLine r.place)]))) ∧
  (∀ g (o : LineSel) s c, CanIssue s c (.flush g o) g → NoAcquire s c g → SelectPasses s c g o .pv →
    (∀ x ∈ c.active g, s.pvQueued (c.key x) = false) →
      exec (.flush g o) s = .next ((s.l1Clean (Selected s c g o .pv)).retire c (.flush g o) Post.none)) ∧
  (∀ g (o : LineSel) s c, CanIssue s c (.inv g o) g → NoAcquire s c g → SelectPasses s c g o .ws →
      exec (.inv g o) s = .next ((s.l1Evict (Selected s c g o .ws)).retire c (.inv g o) Post.none)) ∧
  (∀ (s : State) (q : L1Line → Bool), (∀ l ∈ s.l1, q l = true → l.dirty = 0) →
    s.l1Evict q = { s with l1 := s.l1.filter fun l => !q l }) ∧
  (∀ (s : State) (q : L1Line → Bool), let t := s.l1Clean q
    t = { s with l1 := t.l1, mem := t.mem, hostMem := t.hostMem } ∧
    t.l1 = s.l1.map (fun l => if q l = true ∧ l.st = .d then { l with st := .v, dirty := 0 } else l) ∧
    MemAfter (s.l1.filter q) .dev s.mem t.mem ∧ MemAfter (s.l1.filter q) .host s.hostMem t.hostMem ∧
    ∀ l ∈ s.l1, q l = true → l.place.space = .dev →
      (∀ x ∈ s.l1, q x = true → x.place.space = .dev → lineBase x.place.addr = lineBase l.place.addr → x.dirty ≠ 0 → x = l) →
      ∀ j < 128, l.dirty.getLsbD j = true →
        Memory.read t.mem (lineBase l.place.addr + j) = l.data.extractLsb' (8 * j) 8)

/-- R175, R176, R178: CPY.GS, CPY.SG and CPY.GG start one copy for each active lane; one to a line of a DO page enters the inning
buffer at once, where its instruction stands in the program order. -/
def Obligations.CopyIssue : Prop :=
  (∀ g (o : CopyOp) s c, let n := copyBytes o.size
    let src := copySide c (c.active g) n o.a o.buf recR
    let lanes := (src.lanes.zip (copyOffs c (c.active g) o.d)).map fun (l, _, off) =>
      ({ t := l.t, src := l.side, dst := .scratch off.toNat, srcBuf := some o.buf.val } : CopyLane)
    CanIssue s c (.cpyGs g o) g → NoAcquire s c g → SidePasses src →
    ScratchPasses c g n n (fun x => ((c.laneView x).vs o.d).toNat) → CopyStarts s c o.tag lanes →
      ∃ t, exec (.cpyGs g o) s = .next t ∧ CopiesStarted s t c (.cpyGs g o) n o.e o.tag lanes) ∧
  (∀ g (o : CopyOp) s c, let n := copyBytes o.size
    let dst := copySide c (c.active g) n o.d o.buf recW
    let lanes := (dst.lanes.zip (copyOffs c (c.active g) o.a)).map fun (l, _, off) =>
      ({ t := l.t, src := .scratch off.toNat, dst := l.side, dstBuf := some o.buf.val } : CopyLane)
    CanIssue s c (.cpySg g o) g → NoAcquire s c g → SidePasses dst →
    ScratchPasses c g n n (fun x => ((c.laneView x).vs o.a).toNat) →
    (CopyStarts s c o.tag lanes → ∃ t, exec (.cpySg g o) s = .next t ∧ CopiesStarted s t c (.cpySg g o) n o.e o.tag lanes) ∧
    (CopyEnters s c o.tag lanes → ∃ u, exec (.cpySg g o) s = .next (u.retire c (.cpySg g o) Post.none) ∧
      CopiesEntered s u c n o.e o.tag lanes fun l => match l.src with
        | .scratch off => (Memory.bytes c.tm.scratch off n, 0)
        | _ => ([], 0))) ∧
  (∀ g (o : CopyGGOp) s c, let n := copyBytes o.size
    let src := copySide c (c.active g) n o.a o.srec recR
    let dst := copySide c (c.active g) n o.d o.drec recW
    let lanes := (src.lanes.zip dst.lanes).map fun (a, b) =>
      ({ t := a.t, src := a.side, dst := b.side, srcBuf := some o.srec.val, dstBuf := some o.drec.val } : CopyLane)
    CanIssue s c (.cpyGg g o) g → NoAcquire s c g → SidePasses src → SidePasses dst →
    (CopyStarts s c o.tag lanes → ∃ t, exec (.cpyGg g o) s = .next t ∧ CopiesStarted s t c (.cpyGg g o) n o.e o.tag lanes) ∧
    (CopyEnters s c o.tag lanes → ∀ l p, lanes = [l] → s.doPlace c l = some p →
      (l.src = .dropped → ∃ u, exec (.cpyGg g o) s = .next (u.retire c (.cpyGg g o) Post.none) ∧
        CopiesEntered s u c n o.e o.tag lanes fun _ => (List.replicate n 0, 1)) ∧
      ∀ va y, l.src = .mem va → s.lineOut c c.touchLoad l.t va.toNat = .ok y →
        (if y.cls = .ord then s.doClear y
          else s.loadWaits c.tm.core (c.key l.t) y.place y.cls = false ∧ s.copyMeets c y = false) →
        ∃ v u bs, CachesOnly s v ∧ s.mayLoad c.tm.core (c.key l.t) y n bs ∧
          exec (.cpyGg g o) s = .next (u.retire c (.cpyGg g o) Post.none) ∧
          (v.doPlace c l = some p → CopiesEntered v u c n o.e o.tag lanes fun _ => (bs, 0))))

/-- R179, R180: the tag instructions; WAITANY and TAGFF give the least ready tag of the set, or 64. TAGCLR cancels a subset of
the copies under its tags that have not begun, and goes on when no copy is left under them and they are ready; till then the
group stays at it. That a copy begins and ends in one step is the model's reading (log entry 24). -/
def Obligations.TagInstructions : Prop :=
  (∀ g (o : TagSet) s c, CanIssue s c (.waitall g o) g →
    (∀ x ∈ c.active g, ∀ n ∈ tagSet (c.warp x) o, c.tm.tagCount n = 0) →
      ∃ t, exec (.waitall g o) s = .next t ∧ GroupEffect s t c (s.follows c (.waitall g o)) id fun _ w => w) ∧
  (∀ g (o : TagQuery) (any : Bool) s c, let i : Instr := if any then .waitany g o else .tagff g o
    CanIssue s c i g →
    (any = true → ∀ x ∈ c.active g, tagSet (c.warp x) o.set = [] ∨ ∃ n ∈ tagSet (c.warp x) o.set, c.tm.tagCount n = 0) →
      ∃ t, exec i s = .next t ∧
        let v := fun (w : Warp) => BitVec.ofNat 32 (lowestReady c.tm (tagSet w o.set))
        GroupEffect s t c (s.follows c i)
          (fun x => match o.d with
            | .vec r => if x.tid ∈ (c.active g).map (·.tid) then x.setReg r.val (v (c.warp x)) else x
            | .sc _ => x)
          fun k w => match o.d with
            | .vec _ => w
            | .sc r => if k ∈ c.warps (c.active g) then w.setSreg r.val (v w) else w) ∧
  (∀ (tm : Team) (w : Warp) (ts : TagSet), let v := lowestReady tm (tagSet w ts)
    (v = 64 ∧ ∀ n ∈ tagSet w ts, tm.tagCount n ≠ 0) ∨
    (v ∈ tagSet w ts ∧ tm.tagCount v = 0 ∧ ∀ n ∈ tagSet w ts, tm.tagCount n = 0 → v ≤ n)) ∧
  (∀ g (o : TagSet) s c, CanIssue s c (.tagclr g o) g →
    let tags := (c.active g).flatMap fun x => tagSet (c.warp x) o
    let mine := fun (r : CopyRec) => r.owner.task = c.tk.id ∧ r.owner.team = c.tm.team ∧ r.tag ∈ tags
    let after := fun (gone : List CopyRec) => gone.foldl (fun s r => s.endCopy r copyCancelled) s
    let settled := fun (u : State) => (∀ r ∈ u.copies, ¬mine r) ∧
      ∀ tm, u.team? c.tk.id c.tm.team = some tm → ∀ x ∈ c.active g, ∀ n ∈ tagSet (c.warp x) o, tm.tagCount n = 0
    (settled s → exec (.tagclr g o) s = .next (s.retire c (.tagclr g o) Post.none)) ∧
    ∃ gone : List CopyRec, gone.Sublist s.copies ∧ (∀ r ∈ gone, mine r ∧ r.done = none ∧ r.sent = false) ∧
      ((settled (after gone) ∧ exec (.tagclr g o) s = .next ((after gone).retire c (.tagclr g o) Post.none)) ∨
       (¬settled (after gone) ∧ gone ≠ [] ∧
          exec (.tagclr g o) s = .next ((after gone).retire c (.tagclr g o) { Post.none with stay := c.g.members })) ∨
       (¬settled (after gone) ∧ gone = [] ∧ ∃ ts, exec (.tagclr g o) s = .next (s.stalled c ts))))

/-- R182, R183: RECD and RECQ act once for each warp; every element of a derived record is the element of its source that
START places first. -/
def Obligations.RecordInstructions : Prop :=
  (∀ g (o : RecdOp) s c, CanIssue s c (.recd g o) g →
    let new := fun (w : Warp) => recDerive (recordOf c.tk w o.b.val) (w.spair o.a.val).toNat (w.spair (o.a.val + 2)).toNat o.drop o.trap
    (∀ k ∈ c.warps (c.active g), (new (c.tm.warp k)).isSome = true) →
      ∃ t, exec (.recd g o) s = .next t ∧ GroupEffect s t c (s.follows c (.recd g o)) id fun k w =>
        if k ∈ c.warps (c.active g) then
          { w with recs := Sparse.set 0 w.recs (o.d.val - 48) ((new (c.tm.warp k)).getD 0) } else w) ∧
  (∀ g (o : RecqOp), WarpsDo (.recq g o) g fun _ c _ w =>
    let r := recordOf c.tk w o.b.val
    match o.item with
    | .base => w.setSpair o.d.val (BitVec.ofNat 64 (recBase r))
    | .extent => w.setSpair o.d.val (BitVec.ofNat 64 (recExtent r))
    | .stride => w.setSreg o.d.val (BitVec.ofNat 32 (recStride r))
    | .esize => w.setSreg o.d.val (BitVec.ofNat 32 (recEsz r))
    | .flags => w.setSreg o.d.val (BitVec.ofBool (recSwzEn r) ++ BitVec.ofBool (recValid r) ++ BitVec.ofBool (recRdonly r) ++
        BitVec.ofBool (recOob r) ++ BitVec.ofBool (recP r) ++ BitVec.ofBool (recA r) ++ BitVec.ofBool (recW r) ++
        BitVec.ofBool (recR r) |>.setWidth 32)) ∧
  (∀ r start ext drop trap r', recDerive r start ext drop trap = some r' →
    recValid r = true ∧ start + ext ≤ recExtent r ∧ recOk r' = true ∧
    recBase r' = recBase r + start * recStride r ∧ recExtent r' = ext ∧ recStride r' = recStride r ∧ recEsz r' = recEsz r ∧
    recR r' = (recR r && !drop.getLsbD 0) ∧ recW r' = (recW r && !drop.getLsbD 1) ∧ recA r' = (recA r && !drop.getLsbD 2) ∧
    recP r' = (recP r && !drop.getLsbD 3) ∧ recOob r' = (recOob r || trap) ∧ recValid r' = true ∧
    ∀ n, recAddr r' n = recAddr r (start + n))

/-- R46, R47: accumulate adds the term exactly, modulo 2^640 units of 2^-298; combination adds two values; the value and flags
after a set of terms do not depend on their order. -/
def Obligations.AccumulatorSums : Prop :=
  (∀ (a : Acc) (n : Bool) (m : Nat) (e k : Int), (Val.fin n m e).rat * 2 ^ (298 : Nat) = k →
    let b := a.addTerm (.fin n m e)
    b.value = Int.bmod (a.value + k) (2 ^ 640) ∧ b.nzt = (a.nzt || !(n && m == 0)) ∧ b.nan = a.nan ∧ b.pinf = a.pinf ∧
      b.ninf = a.ninf) ∧
  (∀ (a : Acc) (q : Bool), a.addTerm (.nan q) = { a with nan := true } ∧ a.addTerm (.inf false) = { a with pinf := true } ∧
    a.addTerm (.inf true) = { a with ninf := true }) ∧
  (∀ a b : Acc, let r := a.combine b
    r.value = Int.bmod (a.value + b.value) (2 ^ 640) ∧ r.nan = (a.nan || b.nan) ∧ r.pinf = (a.pinf || b.pinf) ∧
      r.ninf = (a.ninf || b.ninf) ∧ r.nzt = (a.nzt || b.nzt)) ∧
  (∀ (a : Acc) (l l' : List Val), l.Perm l' → (l.foldl Acc.addTerm a).same (l'.foldl Acc.addTerm a)) ∧
  (∀ (a : Acc) (l l' : List Acc), l.Perm l' → (l.foldl Acc.combine a).same (l'.foldl Acc.combine a)) ∧
  (∀ (a b : Acc) (l : List Val), (l.foldl Acc.addTerm (a.combine b)).same (a.combine (l.foldl Acc.addTerm b)))

/-- R189, R191: the long-accumulator instructions on each active lane; a written slot holds its value in any carry-save form.
The carries are free values (log entry 7); that an integer zero product adds +0 is the model's reading (log entry 9). -/
def Obligations.LongAccumulators : Prop :=
  (∀ g (d : LaNum), LanesDo (.lzero g d) g fun _ _ x => x.setLa d.val Acc.zero) ∧
  (∀ g (o : LaPair),
    LanesDo (.lmov g o) g (fun s _ x => x.setLa o.d.val (s.anyForm x.tid (x.la o.a.val))) ∧
    LanesDo (.ladda g o) g (fun s _ x => x.setLa o.d.val (s.anyForm x.tid ((x.la o.d.val).combine (x.la o.a.val)))) ∧
    LanesDo (.lneg g o) g (fun s _ x => x.setLa o.d.val (s.anyForm x.tid (x.la o.a.val).negate)) ∧
    LanesDo (.lnorm g o) g (fun _ _ x => x.setLa o.d.val (x.la o.a.val).normal) ∧
    LanesDo (.lxadd g o) g (fun s c x => x.setLa o.d.val (s.anyForm x.tid
      (((c.threads.filter fun u => c.warpNo u == c.warpNo x).map fun u => u.la o.a.val).foldl Acc.combine Acc.zero)))) ∧
  (∀ g (o : LfmaOp), LanesDo (.lfma g o) g fun s c x => x.setLa o.d.val (s.anyForm x.tid ((x.la o.d.val).addTerm
    (intTerm o.ty (mulVal (decodeCode (termDt o.ty) (x.reg o.a.val).toNat)
      (decodeCode (termDt o.ty) ((c.laneView x).vs o.b).toNat)))))) ∧
  (∀ g (o : LaddOp), LanesDo (.ladd g o) g fun s c x => x.setLa o.d.val (s.anyForm x.tid ((x.la o.d.val).addTerm
    (intTerm o.ty (decodeCode (termDt o.ty) ((c.laneView x).vsN o.a (if o.ty = .i64 then 2 else 1))))))) ∧
  (∀ g (o : LscaleOp), LanesDo (.lscale g o) g fun s c x =>
    let k := match o.k with
      | .imm k => k.toInt
      | .sc r => ((c.warp x).sreg r.val).toInt
    (x.setSts (Sts.when ((x.la o.a.val).scaleBy k).2 Sts.inexact)).setLa o.d.val
      (s.anyForm x.tid ((x.la o.a.val).scaleBy k).1)) ∧
  (∀ (s : State) (k : Nat) (a : Acc), (s.anyForm k a).same a ∧ a.normal.same a ∧ a.normal.cy = 0) ∧
  (∀ a : Acc, let b := a.negate
    b.value = Int.bmod (-a.value) (2 ^ 640) ∧ b.nan = a.nan ∧ b.pinf = a.ninf ∧ b.ninf = a.pinf ∧
      b.nzt = if b.value = 0 then !a.nzt else a.nzt) ∧
  (∀ (a : Acc) (k : Int), let x : ℚ := a.value * 2 ^ k
    (a.scaleBy k).1.value = Int.bmod ⌊x⌋ (2 ^ 640) ∧ ((a.scaleBy k).2 = true ↔ (⌊x⌋ : ℚ) ≠ x) ∧
      (a.scaleBy k).1.nan = a.nan ∧ (a.scaleBy k).1.pinf = a.pinf ∧ (a.scaleBy k).1.ninf = a.ninf ∧ (a.scaleBy k).1.nzt = a.nzt)

/-- R56, R57, R190, R205: LRND, LQUO, MRND and MQUO round the accumulator, or the exact quotient, once. -/
def Obligations.AccumulatorRounding : Prop :=
  (∀ g (o : LrndOp), LanesDo (.lrnd g o) g fun _ _ x =>
    let r := roundAcc (x.la o.a.val) (rndDt o.ty) o.mode
    (x.setSts r.sts).putRegs o.d.val (if o.ty = .f64 then 2 else 1) r.code) ∧
  (∀ g (o : LquoOp), dtKind (rndDt o.ty) = .float → LanesDo (.lquo g o) g fun _ _ x =>
    let r := quoAcc (x.la o.a.val) (x.la o.b.val) (rndDt o.ty) o.mode
    (x.setSts r.sts).putRegs o.d.val (if o.ty = .f64 then 2 else 1) r.code) ∧
  (∀ g (o : MrndOp), LanesDo (.mrnd g o) g fun _ c x =>
    (List.range 16).foldl (fun y n =>
      let r := roundAcc (c.tm.slot c x o.a.val n) (rndDt o.ty) o.mode
      (y.setSts r.sts).putRegs (o.d.val + (if o.ty = .f64 then 2 else 1) * n) (if o.ty = .f64 then 2 else 1) r.code) x) ∧
  (∀ g (o : MquoOp), dtKind (rndDt o.ty) = .float → LanesDo (.mquo g o) g fun _ c x =>
    (List.range 16).foldl (fun y n =>
      let r := quoAcc (c.tm.slot c x o.a.val n) (x.la o.b.val) (rndDt o.ty) o.mode
      (y.setSts r.sts).putRegs (o.d.val + (if o.ty = .f64 then 2 else 1) * n) (if o.ty = .f64 then 2 else 1) r.code) x)

/-- R192, R206: LSTORE and MSPILL write the raw images; LLOAD and MFILL of clean images restore them, and zero what a dropped
lane would fill. That each line's piece of an image moves at once is the model's choice (log entry 61; R192 gives 32 bytes). -/
def Obligations.AccumulatorMemory : Prop :=
  let Spills (i : Instr) (g : Guards) (a : SpillAddr) (size : Nat) (image : Ctx → Thread → List Byte) : Prop :=
    ∀ s c, match a.buf with
      | none => CanIssue s c i g → NoAcquire s c g → s.releasing c (c.active g) = [] → ScratchPasses c g size 32 (spillOff c a) →
          ScratchStored s c i g size (spillOff c a) (image c)
      | some b =>
        let sd := spillSide c (c.active g) a b recW
        let lanes := s.laneOks c sd size c.touchStore
        AccessPasses s c i g sd size c.touchStore →
        (∀ l ∈ lanes, piecesNow c l.t ((l.pieces size).drop l.t.part) = ((l.pieces size).drop l.t.part).length) →
          ∃ t, exec i s = .next t ∧
            StoresEntered s t c i .relaxed lanes (joinPasses c [] (settleOverlap c (imageStores c lanes size (image c))))
  let Fills (i : Instr) (g : Guards) (a : SpillAddr) (size : Nat) (clean : List Byte → Prop)
      (put : Ctx → State → Thread → List Byte → State) (drop : Ctx → State → Thread → State) : Prop :=
    ∀ s c, match a.buf with
      | none => CanIssue s c i g → NoAcquire s c g → ScratchPasses c g size 32 (spillOff c a) →
          (∀ x ∈ c.active g, clean (c.tm.scratchBytes (spillOff c a x).toNat size)) →
          exec i s = .next (((c.active g).foldl
            (fun s x => put c s x (c.tm.scratchBytes (spillOff c a x).toNat size)) s).retire c i Post.none)
      | some b => ImagesLoaded s c i g (spillSide c (c.active g) a b recR) size clean (put c) (drop c)
  (∀ g (o : LmemOp),
    Spills (.lstore g o) g o.addr 96 (fun _ x => (x.la o.la.val).bytes) ∧
    Fills (.lload g o) g o.addr 96 (fun bs => leNat bs / 2 ^ 724 % 2 ^ 44 = 0)
      (fun c s x bs => s.modThread (c.key x) fun y => y.setLa o.la.val (Acc.ofBytes bs))
      (fun c s x => s.modThread (c.key x) fun y => y.setLa o.la.val Acc.zero)) ∧
  (∀ g (o : MmemOp),
    Spills (.mspill g o) g o.addr 1536 (fun c x => (List.range 16).flatMap fun n => (c.tm.slot c x o.ta.val n).bytes) ∧
    Fills (.mfill g o) g o.addr 1536 (fun bs => ∀ b ∈ rowImages bs, leNat b / 2 ^ 724 % 2 ^ 44 = 0)
      (fun c s x bs => s.putRow c x o.ta.val ((rowImages bs).map Acc.ofBytes))
      (fun c s x => s.putRow c x o.ta.val (List.replicate 16 Acc.zero))) ∧
  (∀ a : Acc, Acc.ofBytes a.bytes = a ∧ a.bytes.length = 96)

/-- R198 to R202, R205: MZERO, MADDT, MMA, MMAS and MSEL write the rows of the active lanes; no other slot changes. A slot of MMA
accumulates the product of each logical position of its row and column, one of MMAS that of each position that the column stores, and one of
MSEL the codes that its column selects. The carries are free values (log entry 7). -/
def Obligations.MatrixRows : Prop :=
  (∀ g (d : TaNum) s c, CanIssue s c (.mzero g d) g →
    exec (.mzero g d) s = .next ((s.rowsPut c g d.val fun _ => List.replicate 16 Acc.zero).retire c (.mzero g d) Post.none)) ∧
  (∀ g (o : TaPair) s c, CanIssue s c (.maddt g o) g →
    exec (.maddt g o) s = .next ((s.rowsPut c g o.d.val fun x => s.anyRow x.tid ((List.range 16).map fun n =>
      (c.tm.slot c x o.d.val n).combine (c.tm.slot c x o.a.val n))).retire c (.maddt g o) Post.none)) ∧
  (∀ g (o : MmaOp), MatrixDoes (.mma g o) g o.ta.val (mmaIn false o) mmaRow ∧
    MatrixDoes (.mmas g o) g o.ta.val (mmaIn true o) mmaRow) ∧
  (∀ g (o : MselOp), MatrixDoes (.msel g o) g o.ta.val (fun c w =>
    { fa := c.tk.fmt o.fa.val, fb := none, sparse := false, col := o.col, win := c.tk.win o.win.val,
      row0 := (w.sreg o.a.val).toNat, col0 := (w.sreg (o.a.val + 1)).toNat, bo := (w.sreg o.b.val).toNat,
      kb := (w.sreg (o.b.val + 1)).toNat, rb := 0 }) mselRow) ∧
  (∀ (s : State) (c : Ctx) (g : Guards) (tile : Nat) (row : Thread → List Acc),
    (∀ x ∈ c.active g, (row x).length = 16) → ((c.active g).map (·.tid)).Nodup → geometryOk c.tk = true →
    (∀ x ∈ c.active g, x.tid < c.tk.threads) → tile < c.tk.tiles →
    ∃ put : Team → Team, s.rowsPut c g tile row = s.modTeam c.tk.id c.tm.team put ∧
      ∀ tm, put tm = { tm with tiles := (put tm).tiles } ∧
        (∀ x ∈ c.active g, ∀ n < 16, some ((put tm).slot c x tile n) = (row x)[n]?) ∧
        ∀ k, (∀ x ∈ c.active g, ∀ n < 16, k ≠ tileKey c.tk (c.warpNo x) tile (wlaneOf c.tk.width x.tid) n) →
          Sparse.get Acc.zero (put tm).tiles k = Sparse.get Acc.zero tm.tiles k) ∧
  (∀ (c : Ctx) (m : MatIn) rd x (old : List Acc) n a, old.length = 16 → old[n]? = some a →
    (∀ fb, m.fb = some fb → let w := dtBits (fmtType fb)
      let g := groupStored fb
      (m.sparse = false → ∃ r, (mmaRow c m rd x old)[n]? = some r ∧
        Accumulated a ((List.range m.k).map fun k => m.product c rd x fb k
          (c.tm.scratchCode (8 * m.bo + (if m.col then n * m.k + k else k * 16 + n) * w) w) n) r) ∧
      (m.sparse = true → m.metaOk rd = true → ∃ r, (mmaRow c m rd x old)[n]? = some r ∧
        Accumulated a ((List.range (m.k / 12)).flatMap fun u => (List.range g).map fun t =>
          m.product c rd x fb (12 * u + (groupIdx rd fb (n + m.rb) (m.kb / 12 + u)).getD t 0)
            (c.tm.scratchCode (8 * m.bo + (n * (m.k * g / 12) + u * g + t) * w) w) n) r)) ∧
    ∃ r, (mselRow c m rd x old)[n]? = some r ∧
      Accumulated a (((List.range m.k).filter fun k =>
        c.tm.scratchCode (8 * m.bo + (if m.col then n * m.k + k else k * 16 + n)) 1 == 1).map fun k => .fin false (m.codeA c x k) 0) r) ∧
  (∀ (tm : Team) bit w j, w ≤ 32 → j < w → tm.scratchCode bit w < 2 ^ w ∧
    (tm.scratchCode bit w).testBit j = (Memory.read tm.scratch ((bit + j) / 8)).getLsbD ((bit + j) % 8)) ∧
  (∀ x w r q, winIdent x = true → unfoldBit x w r q = some (8 * (winSbase x + r * winIstr x) + w * q)) ∧
  (∀ x w r q, winIdent x = false →
    let (T, H, W) := (winT x, winH x, winW x)
    let (ot, oh, ow) := (T.out.toNat, H.out.toNat, W.out.toNat)
    let cs := winC x
    ((winN x * ot * oh * ow ≤ r ∨ T.ker * H.ker * W.ker * cs ≤ q) → unfoldBit x w r q = none) ∧
    (r < winN x * ot * oh * ow → q < T.ker * H.ker * W.ker * cs →
      let pw := if winOrd x = 0 then r % ow else if winOrd x = 1 then r / oh % ow else r / ot % ow
      let ph := if winOrd x = 0 then r / ow % oh else if winOrd x = 1 then r % oh else r / (ot * ow) % oh
      let pt := if winOrd x = 2 then r % ot else r / (ow * oh) % ot
      let t : Int := pt * T.str - T.lo + q / (cs * W.ker * H.ker) * T.dil
      let h : Int := ph * H.str - H.lo + q / (cs * W.ker) % H.ker * H.dil
      let v : Int := pw * W.str - W.lo + q / cs % W.ker * W.dil
      let inside := 0 ≤ t ∧ t < T.dim ∧ 0 ≤ h ∧ h < H.dim ∧ 0 ≤ v ∧ v < W.dim
      let e : Int := (((r / (ot * oh * ow) : Nat) * T.dim + t) * H.dim + h) * W.dim + v
      winOrd x < 3 → (¬inside → unfoldBit x w r q = none) ∧
        (inside → unfoldBit x w r q = some (8 * winSbase x + w * (e.toNat * cs + q % cs))))) ∧
  (∀ (s : State) (tid : Nat) (row : List Acc), row.length = 16 →
    List.Forall₂ Acc.same (s.anyRow tid row) row) ∧
  (∀ tk : Task, geometryOk tk = true →
    (∀ tid j, tid < tk.threads → j < tk.accs →
      laSlot tk tid j = 2048 * (tid / tk.width % 4) + (tid / tk.width / 4 * tk.width + tid % tk.width) * tk.accs + j ∧
      laSlot tk tid j / 2048 = tid / tk.width % 4 ∧ laSlot tk tid j % 2048 < tk.warps * tk.width * tk.accs) ∧
    (∀ k tile row col, k < 4 * tk.warps → tile < tk.tiles → row < tk.width → col < 16 →
      tileKey tk k tile row col = 2048 * (k % 4) + (tk.warps * tk.width * tk.accs + (k / 4 * tk.tiles + tile) * tk.width * 16) +
        (row * 16 + col) ∧
      tileKey tk k tile row col / 2048 = k % 4 ∧ tk.warps * tk.width * tk.accs ≤ tileKey tk k tile row col % 2048))

/-- R126 to R130: BRA, JMPI, JTBL, CALL, CALLI and RET. That a target below 0 wraps modulo 2^64 is the model's choice (log entry 57). -/
def Obligations.Transfers : Prop :=
  let at_ (c : Ctx) (off : BitVec 32) : Nat := (((c.g.addr.toNat : Int) + off.toInt) % 2 ^ 64).toNat
  let link (c : Ctx) : Word := BitVec.ofNat 32 ((c.g.addr.toNat + 8 + 2 ^ 57 - c.tk.entry) % 2 ^ 32)
  (∀ g off, JumpsDo (.bra g off) g (fun c _ => at_ c off) fun _ x => x) ∧
  (∀ g d off, JumpsDo (.call g d off) g (fun c _ => at_ c off) fun c x => x.setReg d.val (link c)) ∧
  (∀ g r, JumpsDo (.jmpi g r) g (fun c u => c.tk.entry + ((c.laneView u).vs r).toNat) fun _ x => x) ∧
  (∀ g r, JumpsDo (.ret g r) g (fun c u => c.tk.entry + ((c.laneView u).vs r).toNat) fun _ x => x) ∧
  (∀ g d r, JumpsDo (.calli g d r) g (fun c u => c.tk.entry + ((c.laneView u).vs r).toNat) fun c x => x.setReg d.val (link c)) ∧
  (∀ g (o : JtblOp) s c (e : Thread → Int), CanIssue s c (.jtbl g o) g →
    let idx := fun (u : Thread) => ((c.laneView u).vs o.idx).toNat
    (∀ u ∈ c.active g, idx u < o.entries.val ∧ ReadsWord s c (at_ c o.table + 4 * idx u) (e u)) →
      ∃ t, exec (.jtbl g o) s = .next t ∧ GroupEffect s t c
        (fun x => match c.lane? g x with
          | some u => s.skipPads c.tk (((at_ c o.table : Int) + e u) % 2 ^ 64).toNat
          | none => s.follows c (.jtbl g o) x) id fun _ w => w) ∧
  (∀ g (o : JtblOp) s c, CanIssue s c (.jtbl g o) g →
    (∃ u ∈ c.active g, o.entries.val ≤ ((c.laneView u).vs o.idx).toNat) →
      ∃ f : FaultInfo, f.cause = causeTable ∧
        f.named = ((c.active g).filter fun u => decide (o.entries.val ≤ ((c.laneView u).vs o.idx).toNat)).map (·.tid) ∧
        exec (.jtbl g o) s = .next (s.raise c f).tick)

/-- R131, R132, R134: MARK pushes one entry for each warp; a ninth raises JOIN STACK. JOIN waits until every member of the top entry has
arrived or exited; the last arrival removes the entry and sends its members on; a JOIN elsewhere raises JOIN STACK and does
nothing else. That MARK's rejoin address wraps modulo 2^64 is the model's choice (log entry 57). -/
def Obligations.MarkAndJoin : Prop :=
  let al := Guards.always
  (∀ off s c, CanIssue s c (.mark off) al →
    (∀ k ∈ c.warps (c.active al), ((c.tm.warp k).stack c.g.inRoutine).length < 8) →
      ∃ t, exec (.mark off) s = .next t ∧ GroupEffect s t c (s.follows c (.mark off)) id fun k w =>
        if k ∈ c.warps (c.active al) then
          w.setStack c.g.inRoutine (w.stack c.g.inRoutine ++
            [{ rejoin := BitVec.ofNat 64 (s.skipPads c.tk (((c.g.addr.toNat : Int) + off.toInt) % 2 ^ 64).toNat),
               mask := BitVec.ofNat 64 (laneMask c.tk.width k ((c.active al).map (·.tid))), written := false }])
        else w) ∧
  (∀ off s c, CanIssue s c (.mark off) al →
    (∃ k ∈ c.warps (c.active al), 8 ≤ ((c.tm.warp k).stack c.g.inRoutine).length) →
      exec (.mark off) s = .next (s.raise c (FaultInfo.plain causeJoin 0 c.g.members)).tick) ∧
  -- JOIN: every thread of the group arrives, and what this completes is left
  (∀ s c, CanIssue s c .join al → (∀ x ∈ c.active al, rejoinsAt c.tk.width c.tm c.g.inRoutine x c.g.addr = true) →
    exec .join s = .next (((s.eachLane c (c.active al) fun x =>
        { x with wait := .join, innEnded := x.innEnded || (c.tk.ordered && !c.g.inRoutine) }).joinChecks c.tk c.tm.team
          c.g.inRoutine c.g.members).retire c .join { Post.none with hold := c.g.members })) ∧
  -- an arrival that completes no entry waits at the JOIN
  (∀ s c, let r := c.g.inRoutine
    let mine : List Nat := (c.active al).map (·.tid)
    let arrived := fun (x : Thread) => if x.tid ∈ mine then { x with wait := .join } else x
    CanIssue s c .join al → (∀ x ∈ c.active al, rejoinsAt c.tk.width c.tm r x c.g.addr = true) →
    (∀ tm ∈ s.teams, tm.task = c.tk.id → tm.team = c.tm.team → ∀ k, ∀ e ∈ (tm.warp k).stack r,
      entryDone c.tk.width k r (tm.threads.map arrived) ((tm.warp k).stack r) e = false) →
      ∃ t, exec .join s = .next t ∧ GroupEffect s t c (fun x => x.pc.toNat) id (fun _ w => w) ∧
        ThreadsBecome s t c fun x y => x.tid ∈ mine → y.wait = .join) ∧
  -- the last arrival at the newest entry of a warp removes it and sends its members on
  (∀ s c k st e, let r := c.g.inRoutine
    let W := c.tk.width
    CanIssue s c .join al → 0 < W → c.active al ≠ [] → (c.tm.warp k).stack r = st ++ [e] → e.rejoin = c.g.addr →
    (∀ m ∈ c.g.members, warpOf W m = k ∧ e.mask.getLsbD (wlaneOf W m) = true) →
    (∀ x ∈ c.threads, x.routine.isSome = r) →
    (∀ l < W, e.mask.getLsbD l = true → ∀ x, c.tm.thread? (k * W + l) = some x →
      x.exited = true ∨ x.tid ∈ (c.active al).map (·.tid) ∨ (x.routine.isSome = r ∧ x.wait = .join)) →
    (∀ e' ∈ st, ∃ l < W, e.mask.getLsbD l = true ∧ e'.mask.getLsbD l = true ∧
      ∃ u, c.tm.thread? (k * W + l) = some u ∧ u.exited = false) →
      ∃ t, exec .join s = .next t ∧ TeamsOnly s t ∧
        (∀ tm, t.team? c.tk.id c.tm.team = some tm → (tm.warp k).stack r = st) ∧
        ThreadsBecome s t c fun x y => warpOf W x.tid = k → e.mask.getLsbD (wlaneOf W x.tid) = true → x.exited = false →
          y.still = x.still ∧ y.pc = BitVec.ofNat 64 (s.skipPads c.tk (x.pc.toNat + 8)) ∧
          (c.tk.ordered = false → x.innEnded = false → y.wait = .none)) ∧
  (∀ s c, CanIssue s c .join al → (∃ x ∈ c.active al, rejoinsAt c.tk.width c.tm c.g.inRoutine x c.g.addr = false) →
    exec .join s = .next (s.raise c (FaultInfo.plain causeJoin 0
      (((c.active al).filter fun x => !rejoinsAt c.tk.width c.tm c.g.inRoutine x c.g.addr).map (·.tid)))).tick) ∧
  (∀ (w k : Nat) (r : Bool) (ts : List Thread) (st : List MarkEntry) (e : MarkEntry),
    entryDone w k r ts st e = true ↔ e.mask ≠ 0 ∧ ∀ l < w, e.mask.getLsbD l = true →
      ∀ x, ts.find? (fun x => x.tid == k * w + l) = some x →
        x.exited = true ∨ (x.routine.isSome = r ∧ x.wait = .join ∧ topEntry st l = some e)) ∧
  (∀ (w : Nat) (tm : Team) (r : Bool) (x : Thread) (a : BitVec 64),
    rejoinsAt w tm r x a = true ↔ ∃ e, topEntry ((tm.warp (warpOf w x.tid)).stack r) (wlaneOf w x.tid) = some e ∧ e.rejoin = a)

/-- R123, R124, R133, R135 to R137, R144, R145: NBRL, NBRR, EXIT, YIELD, NOP, REP, INNEND, VSHRINK and VGROW. When a thread
waits in VGROW, and which threads a YIELD waits for, are the model's readings (log entries 18 and 19). -/
def Obligations.ThreadProgress : Prop :=
  (∀ g s c, CanIssue s c (.nop g) g →
    ∃ t, exec (.nop g) s = .next t ∧ GroupEffect s t c (s.follows c (.nop g)) id fun _ w => w) ∧
  (∀ g s c, CanIssue s c (.yield g) g →
    let o := s.squadReady c.tm.core c.squad (c.threads.map c.key)
    ∃ t, exec (.yield g) s = .next t ∧ TeamsOnly s t ∧
      GroupEffect s t c (s.follows c (.yield g)) id (fun _ w => w) ∧
      (c.tk.ordered = false → (∀ m ∈ c.g.members, (c.tm.thread? m).isSome = true) →
        ThreadsBecome s t c fun x y => x.tid ∈ (c.active g).map (·.tid) →
          y.atYield = true ∧ y.wait = if o = [] then .none else .yield o)) ∧
  (∀ g (o : RepOp) s c, CanIssue s c (.rep g o) g →
    let n := fun (x : Thread) => match o.count with
      | .imm n => n.val
      | .sc r => ((c.warp x).sreg r.val).toNat % 65536
    ∃ t, exec (.rep g o) s = .next t ∧ GroupEffect s t c
      (fun x => match c.lane? g x with
        | some u => if n u = 0 then s.skipPads c.tk (s.afterInstr c.tk (s.skipPads c.tk (c.g.addr.toNat + 8)))
            else s.follows c (.rep g o) x
        | none => s.follows c (.rep g o) x)
      (fun x => if x.tid ∈ (c.active g).map (·.tid) ∧ n x ≠ 0 then
          { x with rep := { remaining := BitVec.ofNat 16 (n x), iter := 0, stride := BitVec.ofNat 8 o.stride.val, mask := o.mask } }
        else x) fun _ w => w) ∧
  (∀ g s c, CanIssue s c (.innend g) g → c.g.inRoutine = false →
    ∃ t, exec (.innend g) s = .next t ∧ GroupEffect s t c (s.follows c (.innend g)) id (fun _ w => w) ∧
      (c.tk.ordered = true → ThreadsBecome s t c fun x y => x.tid ∈ (c.active g).map (·.tid) → y.innEnded = true)) ∧
  (∀ g (n : Fin 33) s c, CanIssue s c (.vshrink g n) g → c.g.inRoutine = false →
    (∀ x ∈ c.active g, 8 * n.val < x.vallot → ∀ d ∈ s.pendingDests (c.key x) (c.warp x).queue, ∀ r w, d = .regs r w →
      rangesMeet r w.regs (8 * n.val) (x.vallot - 8 * n.val) = false) →
      ∃ t, exec (.vshrink g n) s = .next t ∧ GroupEffect s t c (s.follows c (.vshrink g n))
        (fun x => if x.tid ∈ (c.active g).map (·.tid) ∧ 8 * n.val < x.vallot then
          { x with regs := x.regs.filter fun r => decide (r.1 < 8 * n.val), vallot := 8 * n.val } else x) fun _ w => w) ∧
  (∀ g (n : Fin 33) s c, CanIssue s c (.vgrow g n) g → c.g.inRoutine = false →
    let m := min (8 * n.val) c.tk.vregs
    ∃ t, exec (.vgrow g n) s = .next t ∧
      GroupEffect s t c (s.follows c (.vgrow g n))
        (fun x => if x.tid ∈ (c.active g).map (·.tid) ∧ x.vallot < m ∧ s.rowsLent c.tm (squadOf c.tk.width x.tid) m = false then
          { x with vallot := m } else x) (fun _ w => w) ∧
      ThreadsBecome s t c fun x y => x.tid ∈ (c.active g).map (·.tid) → x.vallot < m →
        s.rowsLent c.tm (squadOf c.tk.width x.tid) m = true → y.wait = .vgrow m) ∧
  (∀ (s : State) (tm : Team) (q m : Nat), s.rowsLent tm q m = true ↔
    tm.borrower = false ∧ ∃ x ∈ s.teams, x.core = tm.core ∧ x.borrower = true ∧ x.lentAbove.getD q 0 < m) ∧
  (∀ g s c, CanIssue s c (.exit g) g →
    let s1 := (c.active g).foldl (fun s x => [0, 1, 2, 3, 4].foldl (fun s sc => s.withdraw c.tk c.tm.team x sc) s) s
    exec (.exit g) s = .next (State.afterExit
      ((s1.eachLane c (c.active g) fun x => { x with exited := true, wait := .none, rep := Rep.none, innEnded := true }).retire
        c (.exit g) { Post.none with hold := (c.active g).map (·.tid) }) c.tk c.tm.team ((c.active g).map (·.tid)))) ∧
  (∀ g (o : LaneOp) (left : Bool) s c, let i : Instr := if left then .nbrl g o else .nbrr g o
    CanIssue s c i g → c.tk.linked = true → c.g.inRoutine = false →
    let offer := fun (x : Thread) => BitVec.ofNat 64 (readRegs x.reg o.a.val (pairRegs o.pair))
    let s1 := c.threads.foldl (fun s x => s.modTask c.tk.id fun tk =>
      let at_ := c.tm.team * tk.threads + x.tid
      let old := Sparse.get Offers.zero tk.offers at_
      let now : Offers := { made := x.nbrcnt + 1, last := { val := offer x, pair := o.pair },
                            prev := if old.made = x.nbrcnt + 1 then old.prev else old.last }
      { tk with offers := Sparse.set Offers.zero tk.offers at_ now }) s
    let again := c.threads.filter fun x => (Sparse.get Offers.zero c.tk.offers (c.tm.team * c.tk.threads + x.tid)).made == x.nbrcnt + 1
    exec i s = .next (((s1.eachLane c c.threads fun x =>
        { x with wait := .nbr, offer := offer x, innEnded := x.innEnded || c.tk.ordered }).sweepExchanges c.tk.id).retire c i
          { Post.none with hold := c.g.members, quiet := again.map (·.tid) })) ∧
  (∀ (tk : Task) team tid left, team < tk.gridSize → tid < tk.threads → neighbour tk team tid left = chainNeighbour tk team tid left) ∧
  -- an exchange that both neighbours have made is complete: an active lane has its neighbour's offer, and the thread goes on
  (∀ (s : State) id tk, s.task? id = some tk → tk.linked = true → ∃ t, s.sweepExchanges id = t ∧ t = { s with teams := t.teams } ∧
    List.Forall₂ (fun (a b : Team) => (a.task ≠ id → b = a) ∧ (a.task = id → b = { a with threads := b.threads } ∧
      List.Forall₂ (fun (x y : Thread) =>
        let n := x.nbrcnt + 1
        let made := fun left v => Offered s tk n v (neighbour tk a.team x.tid left)
        let goes := fun (z : Thread) => y = { (s.advance tk 8 (x.rep.remaining ≠ 0) z).ready with nbrcnt := n, offer := 0 }
        ((x.wait ≠ .nbr ∨ x.exited = true) → y = x) ∧
        (x.wait = .nbr → x.exited = false → ∀ l r, made true l → made false r → ∀ g (o : LaneOp), o.pair = false →
          let active := guardHolds g.g1 x = true ∧ guardHolds g.g2 x = true
          (s.instrAt tk a x = some (.nbrl g o) →
            (active → goes (x.setReg o.d.val (l.setWidth 32))) ∧ (¬active → goes x)) ∧
          (s.instrAt tk a x = some (.nbrr g o) →
            (active → goes (x.setReg o.d.val (r.setWidth 32))) ∧ (¬active → goes x))))
        a.threads b.threads)) s.teams t.teams)

/-- R140, R392 to R394, R414: TRAP and BKPT enter or stop each active thread at the instruction after them; TRET resumes the
interrupted context, and outside a routine raises ILLEGAL INSTRUCTION. That TRAP retires and that BKPT posts one event for
each lane are the model's readings (log entry 17). -/
def Obligations.TrapsAndReturns : Prop :=
  (∀ g n s c, CanIssue s c (.trap g n) g → c.g.inRoutine = false → s.hasRoutine c.tk = true →
    let f := { FaultInfo.plain causeTrap 0 ((c.active g).map (·.tid)) with code := n.toNat }
    ∃ t, exec (.trap g n) s = .next t ∧ TeamsOnly s t ∧ ThreadsBecome s t c fun x y =>
      x.tid ∈ (c.active g).map (·.tid) →
        y.pc = BitVec.ofNat 64 (s.skipPads c.tk (s.skipPads c.tk (c.tk.entry + 8))) ∧ y.rep = Rep.none ∧ y.wait = .none ∧
        y.fault = faultRecord c.tk c.tm.team c.g.addr.toNat f none x.tid ∧
        (∃ r, y.routine = some r ∧ r.kind = .trap ∧ r.rep = x.rep ∧
          r.resume = BitVec.ofNat 64 (s.skipPads c.tk (c.g.addr.toNat + 8))) ∧
        y.regs = x.regs ∧ y.preds = x.preds ∧ y.las = x.las) ∧
  (∀ g n s c, CanIssue s c (.trap g n) g → c.g.inRoutine = false → s.hasRoutine c.tk = false → c.active g ≠ [] →
    exec (.trap g n) s = .next (s.raise c
      { FaultInfo.plain causeTrap 0 ((c.active g).map (·.tid)) with code := n.toNat }).tick) ∧
  (∀ g n s c, CanIssue s c (.bkpt g n) g →
    if c.tk.debug = true ∧ c.g.inRoutine = false then
      let f := { FaultInfo.plain causeBkpt 0 ((c.active g).map (·.tid)) with code := n.toNat }
      let rec0 := faultRecord c.tk c.tm.team c.g.addr.toNat f none
      exec (.bkpt g n) s = .next (((c.active g).foldl (fun s x => s.postEvent
          { kind := 2, team := c.tm.team, value := BitVec.ofNat 64 c.tk.chain, body := rec0 x.tid, reply := none })
        (s.eachLane c (c.active g) fun x => { x with wait := .bkpt, fault := rec0 x.tid })).retire c (.bkpt g n) Post.none)
    else ∃ t, exec (.bkpt g n) s = .next t ∧ GroupEffect s t c (s.follows c (.bkpt g n)) id fun _ w => w) ∧
  (∀ s c, CanIssue s c .tret Guards.always → c.g.inRoutine = true →
    let ready := s.squadReady c.tm.core c.squad (c.threads.map c.key) ++ c.resumeReady
    let s1 := (s.eachLane c (c.active Guards.always) fun x => match x.routine with
        | some r => if r.kind = .save then { x with saved := true } else x.leaveRoutine r (ready.filter (· != c.key x)) c.tk
        | none => x).modTeam c.tk.id c.tm.team fun tm =>
      (c.warps (c.active Guards.always)).foldl (fun tm k => tm.dropRoutineMarks c.tk.width k) tm
    exec .tret s = .next (((s1.retire c .tret { Post.none with stay := c.g.members }).noteIssued (c.threads.map c.key)).resumeWaits
      c.tk c.tm.team ((c.threads.filter fun x => x.routine.any fun r => r.kind != .save).map (·.tid)))) ∧
  (∀ s c, CanIssue s c .tret Guards.always → c.g.inRoutine = false →
    exec .tret s = .next (((s.raise c (c.illegalInfo 7)).tick.noteIssued (c.threads.map c.key)).resumeWaits c.tk c.tm.team [])) ∧
  (∀ (x : Thread) (r : Routine) (o : List ThreadKey) (tk : Task), r.staged = Staged.empty → r.committed = false →
    let y := x.leaveRoutine r o tk
    y.pc = r.resume ∧ y.rep = r.rep ∧ y.wait = (if x.innEnded = true ∧ r.wait = .none then .inning else r.wait) ∧ y.routine = none ∧ y.regs = x.regs ∧ y.preds = x.preds ∧
      y.las = x.las ∧ y.bars = x.bars ∧ y.innpos = x.innpos ∧ y.nbrcnt = x.nbrcnt ∧ y.offer = x.offer)

/-- R141 to R143: BAR and BARA count an arrival behind a release, after the wait for an arrival of their own that is still pending; BARW
passes behind an acquire once the generation has moved, and waits until then; the arrival that makes the count whole begins the next
generation with count 0, and the threads that wait for it go on. -/
def Obligations.Barriers : Prop :=
  let al := Guards.always
  (∀ (wait : Bool) (sc : Scope) s c, let i : Instr := if wait then .bar sc else .bara sc
    let n := scopeNo sc
    let early := (c.active al).filter fun x => s.arrivedNow c x n
    let go := (c.active al).filter fun x => !s.arrivedNow c x n
    CanIssue s c i al → c.g.inRoutine = false → (∀ x ∈ go, s.outstanding (c.key x) sc = false) →
      exec i s = .next (((instsOf c.tk c.tm.team (go.map (·.tid)) n).foldl (fun s j => s.barCheck c.tk j)
        (((go.foldl (fun s x => s.arrive c.tk c.tm.team x.tid n)
              ((if go.any fun x => (x.bar n).pending then s.acquire c.tm.core sc else s).released c go)).eachLane c go fun x =>
            { x with innEnded := x.innEnded || c.tk.ordered, wait := if wait then .barrier (Fin.ofNat 5 n) else x.wait }).eachLane
          c early fun x => { x with wait := .barrier (Fin.ofNat 5 n) })).retire c i { Post.none with quiet := early.map (·.tid) })) ∧
  (∀ (wait : Bool) (sc : Scope) s c, let i : Instr := if wait then .bar sc else .bara sc
    CanIssue s c i al → c.g.inRoutine = false →
    let go := (c.active al).filter fun x => !s.arrivedNow c x (scopeNo sc)
    (∃ x ∈ go, s.outstanding (c.key x) sc = true) → exec i s = .next (s.stalled c (go.map (·.tid)))) ∧
  -- an arrival of the current generation is still pending: the threads wait for it at the instruction
  (∀ (wait : Bool) (sc : Scope) s c, let i : Instr := if wait then .bar sc else .bara sc
    let n := scopeNo sc
    CanIssue s c i al → c.g.inRoutine = false → (∀ m ∈ c.g.members, (c.tm.thread? m).isSome = true) →
    (∀ x ∈ c.active al, s.arrivedNow c x n = true) →
      ∃ t, exec i s = .next t ∧ GroupEffect s t c (fun x => x.pc.toNat) id (fun _ w => w) ∧
        ThreadsBecome s t c fun x y => x.tid ∈ (c.active al).map (·.tid) → y.wait = .barrier (Fin.ofNat 5 n)) ∧
  -- the last arrival, outside an ordered launch: the generation moves, and who waits for it goes on
  (∀ (wait : Bool) (sc : Scope) s c j, let i : Instr := if wait then .bar sc else .bara sc
    let n := scopeNo sc
    let act := c.active al
    CanIssue s c i al → c.g.inRoutine = false → sc ≠ .sy → c.tk.ordered = false → act ≠ [] →
    instsOf c.tk c.tm.team (act.map (·.tid)) n = [j] →
    (∀ x ∈ act, (x.bar n).pending = false ∧ s.outstanding (c.key x) sc = false) →
    (s.barInst c.tk j).count.toNat + act.length = s.liveParticipants c.tk j → s.liveParticipants c.tk j < 2 ^ 32 →
      ∃ t, exec i s = .next t ∧ t.barInst c.tk j = { count := 0, gen := (s.barInst c.tk j).gen + 1 } ∧
        ∀ k x, s.thread? k = some x → k.task = c.tk.id → j.has c.tk k.team x.tid = true → x.innEnded = false →
          (wait = true ∧ k.team = c.tm.team ∧ x.tid ∈ act.map (·.tid)) ∨
            (¬(k.team = c.tm.team ∧ x.tid ∈ act.map (·.tid)) ∧ x.wait.isBarrier n = true ∧ (x.bar n).rgen = (s.barInst c.tk j).gen) →
          ∃ y, t.thread? k = some y ∧ y.wait = .none ∧ (y.bar n).pending = false) ∧
  (∀ (sc : Scope) s c, let n := scopeNo sc
    let act := c.active al
    CanIssue s c (.barw sc) al → c.g.inRoutine = false →
    let gen := fun (x : Thread) => (s.barInst c.tk (instOf c.tk c.tm.team x.tid n)).gen
    let passed := act.filter fun x => (x.bar n).pending && (x.bar n).rgen != gen x
    let waits := act.filter fun x => (x.bar n).pending && (x.bar n).rgen == gen x
    exec (.barw sc) s = .next ((((if passed = [] then s else s.acquire c.tm.core sc).eachLane c passed fun x =>
        x.setBar n { x.bar n with pending := false }).eachLane c waits fun x =>
          { x with wait := .barrier (Fin.ofNat 5 n) }).retire c (.barw sc) Post.none)) ∧
  (∀ (sc : Scope) s c, CanIssue s c (.barw sc) al → c.g.inRoutine = false →
    (∀ x ∈ c.active al, (x.bar (scopeNo sc)).pending = false) →
      ∃ t, exec (.barw sc) s = .next t ∧ GroupEffect s t c (s.follows c (.barw sc)) id fun _ w => w) ∧
  (∀ (s : State) (tk : Task) (tm : Team) (tid n : Nat) (x : Thread), s.team? tk.id tm.team = some tm → s.task? tk.id = some tk →
    tm.thread? tid = some x →
    let b := s.barInst tk (instOf tk tm.team tid n)
    let t := s.arrive tk tm.team tid n
    t.barInst tk (instOf tk tm.team tid n) = { b with count := b.count + 1 } ∧
      t.thread? { task := tk.id, team := tm.team, tid := tid } = some (x.setBar n { pending := true, rgen := b.gen })) ∧
  (∀ (s : State) (tk : Task) (j : Inst) (g : BitVec 31), let t := s.releaseBarrier tk j g
    t = { s with teams := t.teams, l1 := t.l1, wsStores := t.wsStores } ∧ (∀ l ∈ t.l1, l ∈ s.l1) ∧
      SameStores s.wsStores t.wsStores ∧ ∀ k x, s.thread? k = some x → ∃ y, t.thread? k = some y ∧
        y = if k.task = tk.id ∧ j.has tk k.team x.tid = true ∧ x.wait.isBarrier j.scope = true ∧ (x.bar j.scope).rgen ≠ g then
          (x.setBar j.scope { x.bar j.scope with pending := false }).ready else x)

/-- R146, R147: LNCH advances the tail of a permitted chain once for each warp after its release, or writes status 1; MGMT sends
one request for each warp after a release at .dv, and its threads wait for the reply. -/
def Obligations.LaunchAndManagement : Prop :=
  (∀ g (o : LnchOp) s c, CanIssue s c (.lnch g o) g → c.g.inRoutine = false →
    releaseWaits s c (c.active g) (if o.sys then .sy else .dv) = [] →
      ∃ adv : State → Nat → State,
        (∀ u k, let n := ((c.tm.warp k).sreg o.a.val).toNat
          if n < 256 ∧ chainValid (u.chain n) = true ∧ chainCtx (u.chain n) = c.tk.ctx ∧ chainPending (u.chain n) + o.n.val < 2 ^ 31 then
            ∃ d, chainTail d = (chainTail (u.chain n) + o.n.val) % 2 ^ 32 ∧
              (∀ j, j < 288 ∨ 320 ≤ j → d.getLsbD j = (u.chain n).getLsbD j) ∧
              adv u k = (u.setChain n d).modTeam c.tk.id c.tm.team fun tm => tm.modWarp k fun w => w.setSreg o.d.val 0
          else adv u k = u.modTeam c.tk.id c.tm.team fun tm => tm.modWarp k fun w => w.setSreg o.d.val 1) ∧
        exec (.lnch g o) s = .next (((c.warps (c.active g)).foldl adv (s.released c (c.active g))).retire c (.lnch g o) Post.none)) ∧
  (∀ g (o : MgmtOp) s c, CanIssue s c (.mgmt g o) g → releaseWaits s c (c.active g) .dv = [] →
    ∃ t, exec (.mgmt g o) s = .next t ∧
      t = { s.released c (c.active g) with teams := t.teams, mgmt := t.mgmt, freeCtr := s.freeCtr + 1, blocked := [] } ∧
      t.mgmt = s.mgmt ++ (c.warps (c.active g)).map (fun k =>
        { owners := ((c.active g).filter fun x => c.warpNo x == k).map c.key, dst := o.d.val, code := o.code,
          arg := (c.tm.warp k).spair o.a.val }) ∧
      TeamsAfter s t c (s.follows c (.mgmt g o)) id (fun _ w => w) ∧
      ThreadsBecome s t c fun x y => x.tid ∈ (c.active g).map (·.tid) → y.wait = .mgmt)

/-- R149, R150: CTXRD reads the item's word; CTXWR in a routine stages thread-scope items and writes the others at once, and outside
one it raises ILLEGAL INSTRUCTION. That mark items beyond the depth read 0 and that the last active lane's value stands in TAGCNT, BARCNT and
BARGEN are the model's choices (log entry 57), as are NBROFFH of a one-word exchange (log entry 56) and which lanes a record names and
that no active lane is needed (log entry 67). -/
def Obligations.HiddenState : Prop :=
  (∀ g d item, LanesDo (.ctxrd g { item := item, r := .vec d }) g fun s c x => x.setReg d.val (BitVec.ofNat 32 (itemWord s c x item))) ∧
  (∀ g d item, WarpsDo (.ctxrd g { item := item, r := .sc d }) g fun s c k w =>
    w.setSreg d.val (BitVec.ofNat 32 (((c.active g).find? fun x => c.warpNo x == k).elim 0 fun x => itemWord s c x item))) ∧
  (∀ g (o : CtxOp) s c, CanIssue s c (.ctxwr g o) g → c.g.inRoutine = false →
    exec (.ctxwr g o) s = .next (s.raise c (FaultInfo.plain causeIllegal 7 c.g.members)).tick) ∧
  (∀ g (o : CtxOp) s c, CanIssue s c (.ctxwr g o) g → c.g.inRoutine = true →
    let v := fun (x : Thread) => (c.laneView x).vs o.r
    let last := (c.active g).getLast?
    let lastIn := fun (k : Nat) => ((c.active g).filter fun x => c.warpNo x == k).getLast?
    (o.item.perThread = true → (o.item = .wait → ∀ x ∈ c.active g, (v x).toNat % 16 ≤ 6) →
      ∃ t, exec (.ctxwr g o) s = .next t ∧ GroupEffect s t c (s.follows c (.ctxwr g o))
        (fun x => if x.tid ∈ (c.active g).map (·.tid) then
            { x with routine := x.routine.map fun r => { r with staged := r.staged.put o.item (v x) } }
          else x) fun _ w => w) ∧
    (c.active g = [] → ∃ t, exec (.ctxwr g o) s = .next t ∧ GroupEffect s t c (s.follows c (.ctxwr g o)) id fun _ w => w) ∧
    (o.item = .msdepth → (∀ k ∈ c.warps (c.active g), ∀ x ∈ lastIn k, (v x).toNat % 16 ≤ 8) →
      ∃ t, exec (.ctxwr g o) s = .next t ∧ GroupEffect s t c (s.follows c (.ctxwr g o)) id fun k w =>
        match if k ∈ c.warps (c.active g) then lastIn k else none with
        | some x =>
          let n := (v x).toNat % 16
          let m : MarkEntry := { rejoin := BitVec.ofNat 64 c.tk.entry, mask := 0, written := true }
          { w with marks := w.marks.take n ++ List.replicate (n - w.marks.length) m }
        | none => w) ∧
    (o.item = .msdepth → (∃ k ∈ c.warps (c.active g), ∃ x ∈ lastIn k, 8 < (v x).toNat % 16) →
      exec (.ctxwr g o) s = .next (s.raise c (FaultInfo.plain causeJoin 0 ((c.active g).map (·.tid)))).tick) ∧
    (o.item = .wait → (∃ x ∈ c.active g, 6 < (v x).toNat % 16) →
      exec (.ctxwr g o) s = .next (s.raise c (FaultInfo.plain causeIllegal 7 c.g.members)).tick) ∧
    (∀ e, o.item = .msaddr e → ∃ t, exec (.ctxwr g o) s = .next t ∧ GroupEffect s t c (s.follows c (.ctxwr g o)) id fun k w =>
      match if k ∈ c.warps (c.active g) then lastIn k else none with
      | some x => { w with marks := w.marks.modify e.val fun m =>
          { m with rejoin := BitVec.ofNat 64 (c.tk.entry + (v x).toNat), written := true } }
      | none => w) ∧
    (∀ n x, o.item = .tagcnt n → last = some x →
      exec (.ctxwr g o) s = .next ((s.modTeam c.tk.id c.tm.team fun tm => tm.setTag n.val ((v x).toNat % 65536)).retire c
        (.ctxwr g o) Post.none)) ∧
    (∀ sc x, o.item = .barcnt sc ∨ o.item = .bargen sc → last = some x →
      let at_ := instOf c.tk c.tm.team x.tid sc.val
      let old := s.barInst c.tk at_
      exec (.ctxwr g o) s = .next ((s.setBarInst c.tk at_
        (if o.item = .barcnt sc then { old with count := v x } else { old with gen := (v x).setWidth 31 })).retire c
          (.ctxwr g o) Post.none)))

/-- R28 to R30: MFS copies a special register or a pair, MTS writes the defined bits of one. That MFS of passref waits for
earlier releases is the model's reading (log entry 20). -/
def Obligations.SpecialRegisters : Prop :=
  (∀ g (o : MfsOp) s c, CanIssue s c (.mfs g o) g → (o.sr = .passref → s.releasing c (c.active g) = []) →
    let n := if o.w then 2 else 1
    let val := fun x => specialNow s c x o.sr + if o.w then 2 ^ 32 * specialNow s c x (Special.highHalf o.sr) else 0
    ∃ t, exec (.mfs g o) s = .next t ∧ match o.d with
      | .vec d => GroupEffect s t c (s.follows c (.mfs g o))
          (fun x => if x.tid ∈ (c.active g).map (·.tid) then x.putRegs d.val n (val x) else x) fun _ w => w
      | .sc d => GroupEffect s t c (s.follows c (.mfs g o)) id fun k w =>
          match (c.active g).find? fun x => c.warpNo x == k with
          | some u => w.putRegs d.val n (val u)
          | none => w) ∧
  (∀ g (o : MtsOp) s c, CanIssue s c (.mts g o) g →
    let v := fun (x : Thread) => (c.laneView x).vs o.src
    (o.sr = .passref → exec (.mts g o) s = .next ((match (c.active g).getLast? with
      | some x => s.modTeam c.tk.id c.tm.team fun tm =>
          { tm with passref := v x + if tm.refusedAt = s.clk then tm.refused else 0 }
      | none => s).retire c (.mts g o) Post.none)) ∧
    (o.sr ≠ .passref → ∃ t, exec (.mts g o) s = .next t ∧ GroupEffect s t c (s.follows c (.mts g o))
      (fun x => if x.tid ∈ (c.active g).map (·.tid) then
          match o.sr with
          | .oobst => { x with oobst := (v x).getLsbD 0 }
          | .satst => { x with satst := (v x).getLsbD 0 }
          | .fpst => { x with fpst := (v x).setWidth 5 }
          | _ => x
        else x) fun _ w => w))

/-- R155, R159, R160: the checks of every access through a record fail in their order: RECORD BOUND with the step as REASON, the lanes that
fail it and their indices; then LEASE, REMOTE REFUSED, CLASS and CLASS ALIAS with the lanes and lines; which classes each instruction
accepts; and nothing else happens. That the lease and the walk are asked in the order of log entry 60 is the model's reading. -/
def Obligations.AccessFaults : Prop :=
  (∀ g (o : MemOp), let n := widthBytes o.width
    Checked (.ld g o) g n (fun c => recSide c (c.active g) o.addr recR (some n) n) Ctx.touchLoad ∧
    Checked (.st g o) g n (fun c => recSide c (c.active g) o.addr recW (some n) n) Ctx.touchStore) ∧
  (∀ g (o : PassOp), let n := widthBytes o.width
    Checked (.stPass g o) g n (fun c => recSide c (c.active g) { idx := o.idx, buf := o.buf, k := none } recW (some n) n) fun c =>
      { write := true, cls := fun x k => match k with | .pv => !recP (c.recOf o.buf x) | .ord => c.doOk | .sc | .rc | .ws => true }) ∧
  (∀ g (o : AtomOp), let n := if o.wide then 8 else 4
    Checked (.atom g o) g n (fun c => recSide c (c.active g) o.addr recA (some n) n) Ctx.touchAtom) ∧
  (∀ g (o : CasOp), let n := if o.wide then 8 else 4
    Checked (.cas g o) g n (fun c => recSide c (c.active g) o.addr recA (some n) n) Ctx.touchAtom) ∧
  (∀ g (o : AaccOp), Checked (.aacc g o) g 128 (fun c => recSide c (c.active g) o.addr recA none 128) Ctx.touchAacc) ∧
  (∀ g (o : LdaccOp),
    (o.zero = false → Checked (.ldacc g o) g 128 (fun c => recSide c (c.active g) o.addr recR none 128) Ctx.touchLoad) ∧
    (o.zero = true →
      Checked (.ldacc g o) g 128 (fun c => recSide c (c.active g) o.addr (fun r => recR r && recA r) none 128) Ctx.touchLdaccZero)) ∧
  (∀ g (o : LmemOp) b, o.addr.buf = some b →
    Checked (.lload g o) g 96 (fun c => spillSide c (c.active g) o.addr b recR) Ctx.touchLoad ∧
    Checked (.lstore g o) g 96 (fun c => spillSide c (c.active g) o.addr b recW) Ctx.touchStore) ∧
  (∀ g (o : MmemOp) b, o.addr.buf = some b →
    Checked (.mfill g o) g 1536 (fun c => spillSide c (c.active g) o.addr b recR) Ctx.touchLoad ∧
    Checked (.mspill g o) g 1536 (fun c => spillSide c (c.active g) o.addr b recW) Ctx.touchStore) ∧
  (∀ g (o : CopyOp), let n := copyBytes o.size
    BoundChecked (.cpyGs g o) g (fun c => [copySide c (c.active g) n o.a o.buf recR]) ∧
    BoundChecked (.cpySg g o) g (fun c => [copySide c (c.active g) n o.d o.buf recW])) ∧
  (∀ g (o : CopyGGOp), let n := copyBytes o.size
    BoundChecked (.cpyGg g o) g fun c => [copySide c (c.active g) n o.a o.srec recR, copySide c (c.active g) n o.d o.drec recW]) ∧
  -- the classes that each accepts
  (∀ (c : Ctx) x, let own := c.tk.ordered && !c.g.inRoutine
    c.touchLoad.cls x .ord = own ∧ c.touchStore.cls x .ord = own ∧ c.touchAtom.cls x .ord = own ∧ c.touchAacc.cls x .ord = own ∧
    c.touchLdaccZero.cls x .ord = own ∧
    (∀ k, k ≠ .ord → c.touchLoad.cls x k = true ∧ c.touchStore.cls x k = true) ∧
    (∀ k, k ≠ .ord → (c.touchAtom.cls x k = true ↔ k = .sc ∨ k = .rc)) ∧
    ∀ k, k ≠ .ord → (c.touchAacc.cls x k = true ↔ k ≠ .ws) ∧ (c.touchLdaccZero.cls x k = true ↔ k ≠ .ws)) ∧
  (∀ (s : State) c k x va wr y, va < 2 ^ 57 → s.leaseCheck (s.leaseOf c.tk.slot) (va / 65536) = .covered wr →
    s.translate c.tm.core c.tk.ctx va = .ok y → k.skip y = false →
    let held := y.mig = true ∨ (c.tk.ctx, va / 65536) ∈ s.heldPages
    let barred := y.place.space = .host ∧ (y.cls = .pv ∨ y.cls = .ord)
    (k.write = true → wr = false → s.lineOut c k x va = .lease 4) ∧
    ((k.write = true → wr = true) → held → s.lineOut c k x va = .held (va / 65536)) ∧
    ((k.write = true → wr = true) → ¬held → k.write = true → y.canWrite = false → s.lineOut c k x va = .lease 4) ∧
    ((k.write = true → wr = true ∧ y.canWrite = true) → ¬held → (y.place.space = .dev → y.place.line.addr + 128 ≤ 2 ^ 40) →
      (s.lineOut c k x va = .cls ↔ barred ∨ k.cls x y.cls = false) ∧
      (barred → s.lineOut c k x va = .cls) ∧
      (¬barred → k.cls x y.cls = true → s.aliased c.tm.core y = true → s.lineOut c k x va = .aliasing) ∧
      (¬barred → k.cls x y.cls = true → s.aliased c.tm.core y = false → (∀ d, y.place.space ≠ .remote d) → s.lineOut c k x va = .ok y)))

/-- R171, R176, R182, R192, R197, R206: SCRATCH BOUND of LDS, STS, image moves and copies with the lanes and their offsets; RECORD BOUND of
RECD; the checks of a matrix instruction in their order; and MATRIX reason 9 of an image with a reserved bit set, after the other lanes have
been loaded. That steps 7 and 8 of R197 test in the order of log entries 65 and 67 is the model's reading. -/
def Obligations.ScratchAndMatrixFaults : Prop :=
  (∀ g (o : ScratchOp) s c, let n := widthBytes o.width
    (CanIssue s c (.lds g o) g → NoAcquire s c g → ScratchRaised s c (.lds g o) g n n (scratchOff c o)) ∧
    (CanIssue s c (.sts g o) g → NoAcquire s c g → ScratchRaised s c (.sts g o) g n n (scratchOff c o))) ∧
  (∀ g (o : LmemOp) s c, o.addr.buf = none →
    (CanIssue s c (.lload g o) g → NoAcquire s c g → ScratchRaised s c (.lload g o) g 96 32 (spillOff c o.addr)) ∧
    (CanIssue s c (.lstore g o) g → NoAcquire s c g → ScratchRaised s c (.lstore g o) g 96 32 (spillOff c o.addr))) ∧
  (∀ g (o : MmemOp) s c, o.addr.buf = none →
    (CanIssue s c (.mfill g o) g → NoAcquire s c g → ScratchRaised s c (.mfill g o) g 1536 32 (spillOff c o.addr)) ∧
    (CanIssue s c (.mspill g o) g → NoAcquire s c g → ScratchRaised s c (.mspill g o) g 1536 32 (spillOff c o.addr))) ∧
  (∀ g (o : CopyOp) s c, let n := copyBytes o.size
    (CanIssue s c (.cpyGs g o) g → NoAcquire s c g → SidePasses (copySide c (c.active g) n o.a o.buf recR) →
      ScratchRaised s c (.cpyGs g o) g n n fun x => ((c.laneView x).vs o.d).toNat) ∧
    (CanIssue s c (.cpySg g o) g → NoAcquire s c g → SidePasses (copySide c (c.active g) n o.d o.buf recW) →
      ScratchRaised s c (.cpySg g o) g n n fun x => ((c.laneView x).vs o.a).toNat)) ∧
  (∀ g (o : RecdOp) s c, CanIssue s c (.recd g o) g →
    let new := fun (k : Nat) => recDerive (recordOf c.tk (c.tm.warp k) o.b.val) ((c.tm.warp k).spair o.a.val).toNat
      ((c.tm.warp k).spair (o.a.val + 2)).toNat o.drop o.trap
    let bad := (c.active g).filter fun x => (new (c.warpNo x)).isNone
    bad ≠ [] → ∃ f : FaultInfo, f.cause = causeRecord ∧ f.reason = 12 ∧ f.named = bad.map (·.tid) ∧ f.buf = some o.b.val ∧
      Raises s c (.recd g o) f) ∧
  (∀ r start ext drop trap, (recValid r = false ∨ recExtent r < start + ext ∨
      (recSwzEn r = true ∧ start * recStride r % 2 ^ (recSwzSrc r + recSwzWid r) ≠ 0) ∨ 2 ^ 57 ≤ recBase r + start * recStride r) →
    recDerive r start ext drop trap = none) ∧
  (∀ g (o : MmaOp), MatrixChecked (.mma g o) g (mmaIn false o) ∧ MatrixChecked (.mmas g o) g (mmaIn true o)) ∧
  (∀ g (o : MselOp), MatrixChecked (.msel g o) g fun c w =>
    { fa := c.tk.fmt o.fa.val, fb := none, sparse := false, col := o.col, win := c.tk.win o.win.val,
      row0 := (w.sreg o.a.val).toNat, col0 := (w.sreg (o.a.val + 1)).toNat, bo := (w.sreg o.b.val).toNat,
      kb := (w.sreg (o.b.val + 1)).toNat, rb := 0 }) ∧
  (let Filled (i : Instr) (g : Guards) (a : SpillAddr) (size : Nat) (clean : List Byte → Bool)
      (put : Ctx → State → Thread → List Byte → State) (drop : Ctx → State → Thread → State) : Prop :=
    ∀ s c, match a.buf with
      | none =>
        let image := fun (x : Thread) => c.tm.scratchBytes (spillOff c a x).toNat size
        let bad := (c.active g).filter fun x => !clean (image x)
        CanIssue s c i g → NoAcquire s c g → ScratchPasses c g size 32 (spillOff c a) → bad ≠ [] →
          exec i s = .next ((((c.active g).filter fun x => clean (image x)).foldl (fun s x => put c s x (image x)) s).raise c
            (FaultInfo.plain causeMatrix 9 (bad.map (·.tid)))).tick
      | some b => ImagesFaulted s c i g (spillSide c (c.active g) a b recR) size clean (put c) (drop c)
   (∀ g (o : LmemOp), Filled (.lload g o) g o.addr 96 (fun bs => leNat bs / 2 ^ 724 % 2 ^ 44 == 0)
      (fun c s x bs => s.modThread (c.key x) fun y => y.setLa o.la.val (Acc.ofBytes bs))
      fun c s x => s.modThread (c.key x) fun y => y.setLa o.la.val Acc.zero) ∧
   ∀ g (o : MmemOp), Filled (.mfill g o) g o.addr 1536 (fun bs => (rowImages bs).all fun b => leNat b / 2 ^ 724 % 2 ^ 44 == 0)
      (fun c s x bs => s.putRow c x o.ta.val ((rowImages bs).map Acc.ofBytes))
      fun c s x => s.putRow c x o.ta.val (List.replicate 16 Acc.zero))

/-- R125, R139, R393: the instructions that a trap routine may not hold, NBRL and NBRR outside a launch on linked clubs, and what REP may
not repeat raise ILLEGAL INSTRUCTION with REASON 7 for the whole group, and do nothing else. -/
def Obligations.IllegalForms : Prop :=
  (∀ s c, let al := Guards.always
    let barred := fun (i : Instr) (g : Guards) =>
      CanIssue s c i g → c.g.inRoutine = true → Raises s c i (FaultInfo.plain causeIllegal 7 c.g.members)
    (∀ sc, barred (.bar sc) al ∧ barred (.bara sc) al ∧ barred (.barw sc) al) ∧
    ∀ g, barred (.innend g) g ∧ (∀ o, barred (.nbrl g o) g ∧ barred (.nbrr g o) g) ∧ (∀ o, barred (.lnch g o) g) ∧
      (∀ n, barred (.vshrink g n) g ∧ barred (.vgrow g n) g) ∧ ∀ n, barred (.trap g n) g) ∧
  (∀ g (o : LaneOp) s c, c.tk.linked = false →
    (CanIssue s c (.nbrl g o) g → Raises s c (.nbrl g o) (FaultInfo.plain causeIllegal 7 c.g.members)) ∧
    (CanIssue s c (.nbrr g o) g → Raises s c (.nbrr g o) (FaultInfo.plain causeIllegal 7 c.g.members))) ∧
  (∀ (s : State) g c bs f len i, s.cur = some g → s.ctx = some c → g.addr.toNat % 4 = 0 → g.iter.isSome = true →
    let o := g.addr.toNat % 32
    s.fetchBlock c.tk c.tm.core g.addr.toNat g.members = .ok bs → lenOf (wordAt bs o) = some len → o + len.bytes ≤ 32 →
    f = Fields.ofWords len (wordAt bs o) (wordAt bs (o + 4)) (wordAt bs (o + 8)) (wordAt bs (o + 12)) →
    (∃ e, decodeFields f = .ok i e) →
    ((0x300 ≤ f.op.val ∧ f.op.val ≤ 0x318) ∨
      ∃ x : RegField, (c.rep.mask.getLsbD 0 = true ∧ x = .fD ∨ c.rep.mask.getLsbD 1 = true ∧ x = .fA ∨
        c.rep.mask.getLsbD 2 = true ∧ x = .fB ∨ c.rep.mask.getLsbD 3 = true ∧ x = .fC) ∧ ∀ u ∈ i.uses c.wide, u.fld ≠ x) →
      step s = .next ((s.raise c (FaultInfo.plain causeIllegal 7 g.members)).tick.leaveGroup g))

/-- R66 step 6, R389, R392, R395: an ALU instruction with an operand at or above the allotment of an active lane raises
REGISTER BOUND; a raised fault enters the trap routine of every thread of the group where there is one, and ends the task
otherwise. That every thread of the group enters its routine, and the details of a record, are the model's readings (log
entries 15 and 16). -/
def Obligations.ExceptionEntry : Prop :=
  (∀ i f s c, i.fields = some f → f.op.val < 0x1C6 → s.ctx = some c → (∀ u ∈ i.uses c.wide, u.aligned = true) →
    let beyond := fun (x : Thread) => (i.uses c.wide).any fun u => decide (allotOf c.tk x u.cls < u.num + u.cnt)
    (∃ x ∈ c.active f.guards, beyond x = true) →
      ∃ info : FaultInfo, info.cause = causeRegister ∧ info.named = ((c.active f.guards).filter beyond).map (·.tid) ∧
        exec i s = .next (s.raise c info).tick) ∧
  (∀ (s : State) c f, causeEnds f.cause = false → c.g.inRoutine = false → s.hasRoutine c.tk = true →
    let t := s.raise c f
    t = { s with teams := t.teams } ∧
    List.Forall₂ (fun (a b : Team) =>
      { b with threads := [], warps := [] } = { a with threads := [], warps := [] } ∧
      (∀ k, { b.warp k with routineMarks := [] } = { a.warp k with routineMarks := [] }) ∧
      if a.task = c.tk.id ∧ a.team = c.tm.team then
        List.Forall₂ (fun (x y : Thread) => if x.tid ∈ c.g.members then
            y = { x with routine := some { kind := .fault, resume := c.g.addr, rep := x.rep, wait := x.wait,
                                           staged := Staged.empty, committed := false },
                         rep := Rep.none, wait := .none, atYield := false, dog := 0,
                         fault := faultRecord c.tk c.tm.team c.g.addr.toNat f c.g.iter x.tid,
                         pc := BitVec.ofNat 64 (s.skipPads c.tk (c.tk.entry + 8)) }
          else (x.routine = none → y = x) ∧ y = { x with pc := y.pc, wait := y.wait }) a.threads b.threads
      else b = a) s.teams t.teams) ∧
  (∀ (s : State) c f, (causeEnds f.cause = true ∨ c.g.inRoutine = true ∨ s.hasRoutine c.tk = false) →
    (∀ x ∈ s.tasks, x.id = c.tk.id → x.phase = .live) → f.named ≠ [] →
    let r := faultRecord c.tk c.tm.team c.g.addr.toNat f c.g.iter (f.named.foldl Nat.min (f.named.headD 0))
    let t := s.raise c f
    t = { s with teams := t.teams, tasks := t.tasks } ∧ (t.tasks = (s.modTask c.tk.id fun tk =>
      { tk with phase := .ending 2 (r.extractLsb' 0 32) (r.extractLsb' 384 16), fault := r, faultAt := some s.clk }).tasks)) ∧
  (∀ (s : State) tk r q, (∀ x ∈ s.tasks, x.id = tk.id → x.phase = .live) →
    let first := bitsNat q 384 16 < bitsNat r 384 16 ∨
      (bitsNat q 384 16 = bitsNat r 384 16 ∧ bitsNat q 404 12 < bitsNat r 404 12)
    (first → (s.endTaskFault tk r).endTaskFault tk q = s.endTaskFault tk q) ∧
    (¬first → (s.endTaskFault tk r).endTaskFault tk q = s.endTaskFault tk r)) ∧
  (∀ (s : State) tk r, (∀ x ∈ s.tasks, x.id = tk.id → x.phase ≠ .live ∧ x.faultAt = none) → s.endTaskFault tk r = s) ∧
  (∀ (s : State) (tk : Task), s.tasks.filter (fun x => x.faultAt.isSome) = [tk] →
    s.postFaults = (let t := s.modTask tk.id fun x => { x with faultAt := none }
      if s.dutyFault then t.postEvent { kind := 2, team := bitsNat tk.fault 384 16, value := BitVec.ofNat 64 tk.chain,
                                        body := tk.fault, reply := none }
      else t)) ∧
  (∀ tk team pc f iter tid, let r := faultRecord tk team pc f iter tid
    f.cause < 256 → f.reason < 256 → f.code < 256 → pc < 2 ^ 57 →
    f.details = [] → f.buf = none → iter = none → laneMask tk.width (warpOf tk.width tid) f.named < 2 ^ 64 →
    tid < 4096 → team < 65536 →
      bitsNat r 0 8 = f.cause ∧ bitsNat r 8 8 = f.reason ∧ bitsNat r 16 8 = f.code ∧
      (r.getLsbD 24 = f.named.contains tid) ∧ bitsNat r 25 39 = 0 ∧ bitsNat r 64 57 = pc ∧ bitsNat r 121 7 = 0 ∧
      bitsNat r 128 32 = (pc + 2 ^ 57 - tk.entry) % 2 ^ 32 ∧
      bitsNat r 160 64 = laneMask tk.width (warpOf tk.width tid) f.named ∧ bitsNat r 224 160 = 0 ∧
      bitsNat r 384 16 = team ∧ bitsNat r 400 2 = tid / tk.width % 4 ∧ bitsNat r 402 2 = 0 ∧ bitsNat r 404 12 = tid ∧
      bitsNat r 416 96 = 0)

/-- R64, R137, R238, R239: what the members of a group leave an instruction with. Those of `stay` keep everything but a wait; the
others count toward the inning outside a routine of an ordered launch, and leave for their jump, for the next iteration of a
repeat, or for the next instruction, unless they hold. -/
def Obligations.Retirement : Prop :=
  ∀ (s : State) c i p, let t := s.retire c i p
    let pc (x : Thread) : BitVec 64 :=
      if x.tid ∈ p.hold ∨ x.tid ∈ p.quiet then x.pc
      else match p.jumps.find? fun j => j.1 == x.tid with
        | some j => BitVec.ofNat 64 (s.skipPads c.tk j.2)
        | none => if c.g.iter.isSome ∧ 1 < x.rep.remaining.toNat then x.pc else BitVec.ofNat 64 (s.follows c i x)
    t = { s with teams := t.teams, freeCtr := s.freeCtr + 1, blocked := [] } ∧
    List.Forall₂ (fun (a b : Team) =>
      b = { a with threads := b.threads } ∧
      if a.task = c.tk.id ∧ a.team = c.tm.team then
        List.Forall₂ (fun (x y : Thread) =>
          if x.tid ∈ c.g.members ∧ x.tid ∉ p.stay then
            let counts := c.tk.ordered = true ∧ x.routine = none ∧ x.tid ∉ p.quiet
            y.still = x.still ∧ y.pc = pc x ∧ y.dog = 0 ∧
            (counts → y.innpos = x.innpos + 1 ∧
              (y.innEnded = true ↔ x.innEnded = true ∨ c.tk.inningLen ≤ (x.innpos + 1).toNat) ∧
              (x.wait = .none → y.wait = if y.innEnded then .inning else .none)) ∧
            (¬counts → y.innpos = x.innpos ∧ y.innEnded = x.innEnded ∧ (x.wait = .none → y.wait = .none)) ∧
            (c.g.iter = none ∨ x.tid ∈ p.hold ∨ x.tid ∈ p.quiet → y.rep = x.rep) ∧
            (c.g.iter.isSome → x.tid ∉ p.hold → x.tid ∉ p.quiet → p.jumps = [] →
              if 1 < x.rep.remaining.toNat then
                y.rep = { x.rep with iter := x.rep.iter + 1, remaining := x.rep.remaining - 1 }
              else y.rep = Rep.none)
          else Bystander x y) a.threads b.threads
      else List.Forall₂ Bystander a.threads b.threads) s.teams t.teams

/-- R66: when the bytes at the address of the selected group decode to an instruction, the step executes it; the group is then
no longer selected, the next part of its candidate is, and a slot whose group could not issue is tried again. The schedule and
the retry of a slot are the model's (log entries 1 and 3). -/
def Obligations.StepRunsDecoded : Prop :=
  (∀ (s : State) g c bs i len, s.cur = some g → s.ctx = some c → g.iter = none →
    let a := g.addr.toNat
    let o := a % 32
    a % 4 = 0 → s.fetchBlock c.tk c.tm.core a g.members = .ok bs → o + len.bytes ≤ 32 →
    decodeWords (wordAt bs o) (wordAt bs (o + 4)) (wordAt bs (o + 8)) (wordAt bs (o + 12)) = .ok i len →
      step s = match exec i s with
        | .next t => .next (t.leaveGroup g)
        | .fault f => .fault f
        | .refused r => .refused r) ∧
  (∀ (t : State) g g' rest, t.curRest = g' :: rest →
    t.leaveGroup g = { t with cur := some g', curRest := rest, curDone := t.curDone || t.blocked.isEmpty }) ∧
  (∀ (t : State) g, t.curRest = [] → (t.blocked = [] ∨ t.curDone = true) →
    t.leaveGroup g = { t with cur := none, curDone := false }) ∧
  (∀ (t : State) g tk m ms, t.curRest = [] → t.blocked ≠ [] → t.curDone = false → t.task? g.task = some tk → g.members = m :: ms →
    let again : Instr := .issueSlotService g.core (m / tk.width % 4) (m / tk.width / 4 % (64 / tk.width))
    t.leaveGroup g = { ({ t with cur := none, curDone := false } : State).unserve g.core tk.width m with agenda := again :: t.agenda }) ∧
  (∀ (s : State) e rest, s.cur = none → s.agenda = e :: rest → step s = exec e { s with agenda := rest }) ∧
  (∀ s : State, s.cur = none → s.agenda = [] → ∃ t, step s = .next t ∧ t.clk = s.postFaults.settle.clk + 1)

/-- R60, R62, R66 steps 2 to 4, R61: a group whose instruction cannot be fetched or decoded raises FETCH BOUNDARY or ILLEGAL
INSTRUCTION with the step that failed; a pad word is skipped, and on a held page the group waits. Which words of code that is
rewritten while it runs a fetch sees is a free value (log entry 49). -/
def Obligations.FetchFaults : Prop :=
  ∀ (s : State) g c, s.cur = some g → s.ctx = some c →
    let a := g.addr.toNat
    let o := a % 32
    let raised := fun f => step s = .next ((s.raise c f).tick.leaveGroup g)
    (a % 4 ≠ 0 → ∃ f : FaultInfo, f.cause = causeFetch ∧ f.named = g.members ∧ raised f) ∧
    (∀ p, a % 4 = 0 → s.fetchBlock c.tk c.tm.core a g.members = .held p →
      step s = .next ((s.holdThreads c p g.members).tick.leaveGroup g)) ∧
    ∀ bs, a % 4 = 0 → s.fetchBlock c.tk c.tm.core a g.members = .ok bs →
      (lenOf (wordAt bs o) = none → wordAt bs o ≠ padWord → raised (FaultInfo.plain causeIllegal 2 g.members)) ∧
      (wordAt bs o = padWord → step s = .next ((s.eachLane c c.threads fun x =>
        { x with pc := BitVec.ofNat 64 (s.skipPads c.tk (a + 4)) }).tick.leaveGroup g)) ∧
      ∀ len, lenOf (wordAt bs o) = some len →
        (32 < o + len.bytes → ∃ f : FaultInfo, f.cause = causeFetch ∧ f.named = g.members ∧ raised f) ∧
        (o + len.bytes ≤ 32 → g.iter = none → ∀ e,
          decodeWords (wordAt bs o) (wordAt bs (o + 4)) (wordAt bs (o + 8)) (wordAt bs (o + 12)) = .bad e →
            raised (FaultInfo.plain causeIllegal e.step g.members))

/-- Words of the spec's examples decode to the instructions that they stand for (R31, R63, R85, R137, R152 and the examples of
spec/06 to spec/08). -/
def Obligations.DecodedWords : Prop :=
  let al := Guards.always
  decodeWords 0x05877802 0x00000203 0x00000010 0 =
    .ok (.ld al { width := .w32, ord := .relaxed, hint := .none, d := 5, addr := { idx := .vec 3, buf := 2, k := some 16 } }) .w3 ∧
  decodeWords 0x02377071 0x0A020005 0 0 = .ok (.icmp al { ty := .i32, cc := .lt, p := 2, a := 5, b := .imm8 10 }) .w2 ∧
  decodeWords 0x0807740D 0x01030201 0 0 =
    .ok (.ffma al { ty := .f32, mode := .rtz, d := 8, a := 1, b := .vec 2, c := 3 }) .w2 ∧
  decodeWords 0x02077A09 0x00010301 0 0 = .ok (.lfma al { ty := .f32, d := 2, a := 1, b := .vec 3 }) .w2 ∧
  decodeWords 0x00177A87 0x00000604 0x00001210 0 =
    .ok (.mma al { col := true, ta := 1, fa := 0, fb := 1, win := 2, a := 4, b := 6, m := none }) .w4 ∧
  decodeWords 0x07877812 0x00000406 0x00000102 0 =
    .ok (.stPass al { width := .w32, ord := .relaxed, hint := .none, d := 7, idx := .vec 6, buf := 4, kind := .club, e := 2 }) .w3 ∧
  decodeWords 0x00072C01 0xFFFFFFE8 0 0 = .ok (.bra { al with g1 := { neg := false, pred := 2 } } 0xFFFFFFE8) .w2 ∧
  decodeWords 0x03077605 0x10090201 0 0 =
    .ok (.cvtq al { ut := .f32, et := .e2m1x, sf := .p8, dequant := false, mode := .rne, d := 3, a := 1, b := .vec 2 }) .w2 ∧
  decodeWords 0x03077E01 0 0 0 = .ok (.mfs al { w := false, d := .vec 3, sr := .lane }) .w2 ∧
  decodeWords 0xFFFFFFFC 0 0 0 = .bad .notInstruction

/-- Every instruction that step 4 of R66 accepts is decoded from its own encoding, whatever follows it. -/
def Obligations.EncodeThenDecode : Prop :=
  ∀ (i : Instr) f tail, i.fields = some f → i.wf = true → decode (encode i ++ tail) = .ok i f.len

/-- A step keeps device and host memory in canonical form. -/
def Obligations.MemoryStaysCanonical : Prop := ∀ s t : State, s.memOk → step s = .next t → t.memOk

/-- R410, R418: at reset no team, task or message stands and memory lists nothing; a read of the register window gives DEVID its vendor,
part and count of fused cores, PLIM 8,000, and every other offset 0, DSTATE among them; memory is in canonical form; and the first step of
the device begins a clock. That memory, the tables, and CHTAB, CXTAB and LSDIR read 0 before BOOT is the model's choice (log entries 4
and 5). -/
def Obligations.ResetState : Prop :=
  let s := State.reset
  s.memOk ∧ s.dstate = .reset ∧ s.clk = 0 ∧ s.teams = [] ∧ s.tasks = [] ∧ s.saved = [] ∧ s.net = [] ∧ s.l1 = [] ∧ s.ltb = [] ∧
    (∀ a, Memory.read s.mem a = 0) ∧ (∀ n, s.chain n = 0) ∧ (∀ n, Sparse.get Slot.zero s.slots n = Slot.zero) ∧
    (s.hostRead 0).extractLsb' 0 16 = 0x4A17 ∧ (s.hostRead 0).extractLsb' 16 16 = 0x0741 ∧
    ((s.hostRead 0).extractLsb' 32 32).toNat = ((List.range 256).filter fun k => Config.coreFused k).length ∧
    s.hostRead 0x70 = 8000 ∧ (∀ o, o ≠ 0 → o ≠ 0x70 → s.hostRead o = 0) ∧ s.command = none ∧ s.heldEvents = [] ∧ s.errorLog = [] ∧
    ∃ t, step s = .next t ∧ t.clk = 1

/-- R305 to R307: a clock begins with the squad's ready threads in their entries, and counts every candidate that it does not
serve; the service of an issue slot selects one candidate among the threads that were ready then: of those passed over for 256
clocks or more the one that waited longest, and otherwise one that fills the most lanes; its groups have threads of that
candidate alone, at its address. That a borrower's threads of a candidate issue behind the host's is the model's reading (log
entry 13). -/
def Obligations.IssueSlots : Prop :=
  (∀ (s : State) core squad slot, s.cur = none → s.ready = true → (∀ x ∈ (s.huddle core squad).served, x.slot ≠ slot) →
    let rs := s.readyNow core squad
    let h := (s.huddle core squad).forget slot ((s.candThreads (s.huddle core squad) rs).map (·.1))
    let cs := (s.candThreads h rs).filter fun x => x.1.slot == slot
    let lanes := fun (k : CandKey) => laneCount ((cs.filter fun x => x.1 == k).map (·.2))
    let aged := fun (k : CandKey) => if 256 ≤ h.agedBy k then h.agedBy k else 0
    (cs = [] → exec (.issueSlotService core squad slot) s = .next (s.setHuddle core squad h)) ∧
    (cs ≠ [] → ∃ t g k, exec (.issueSlotService core squad slot) s = .next t ∧
      t = { s with huddles := t.huddles, cur := some g, curRest := t.curRest } ∧
      t.huddle core squad = { h with served := k :: h.served } ∧
      (∀ q ∈ g :: t.curRest, q.core = core ∧ q.addr = k.pc ∧ q.inRoutine = k.inRoutine ∧ q.iter = k.iter ∧ q.members ≠ [] ∧
        (∀ m ∈ q.members, ∃ r, (k, r) ∈ cs ∧ r.t.tid = m) ∧ ∃ r, (k, r) ∈ cs ∧ q.task = r.tk.id ∧ q.team = r.tm.team) ∧
      ∀ x ∈ cs, aged x.1 ≤ aged k ∧ (aged x.1 = aged k → aged k = 0 → lanes x.1 ≤ lanes k))) ∧
  (∀ (s : State) core squad slot, (s.cur.isSome = true ∨ s.ready = false ∨ ∃ x ∈ (s.huddle core squad).served, x.slot = slot) →
    exec (.issueSlotService core squad slot) s = .next s) ∧
  (∀ (s : State) core squad,
    let rs := s.readyOf core squad
    let h := (s.huddle core squad).refresh (rs.map (·.t.pc))
    ∃ t, exec (.aging core squad) s = .next t ∧ t = { s with huddles := t.huddles, freeCtr := s.freeCtr + 1, blocked := [] } ∧
      let n := t.huddle core squad
      n.served = [] ∧ n.ready = rs.map (fun r => r.t.key r.tm) ∧ n.entries = h.entries ∧ n.overflow = h.overflow ∧
      (∀ x ∈ s.candThreads h rs, (x.1, (if x.1 ∈ h.served then 0 else h.passedBy x.1) + 1) ∈ n.passed) ∧
      (∀ y ∈ n.passed, ∃ r, (y.1, r) ∈ s.candThreads h rs)) ∧
  (∀ (s : State) core squad, s.overdue core squad = [] →
    let ready := (s.readyOf core squad).map fun r => r.t.key r.tm
    ∃ t, exec (.watchdog core squad) s = .next t ∧ t = { s with teams := t.teams, freeCtr := s.freeCtr + 1, blocked := [] } ∧
      List.Forall₂ (fun (a b : Team) => b = { a with threads := b.threads } ∧
        List.Forall₂ (fun (x y : Thread) =>
          let mine := a.core = core ∧ squadOf (((s.task? a.task).map (·.width)).getD 16) x.tid = squad
          (¬mine → y = x) ∧ (mine → y = { x with dog := (if x.key a ∈ ready then x.dog + 1 else 0) })) a.threads b.threads)
        s.teams t.teams) ∧
  (∀ (s : State) core squad r rest, s.overdue core squad = r :: rest →
    ∃ (u : State) (rec0 : BitVec 512), u = { s with teams := u.teams } ∧ bitsNat rec0 0 8 = causeWatchdog ∧
      exec (.watchdog core squad) s = .next (u.endTaskFault r.tk rec0).settle.tick)

/-- R153, R157, R310: data that arrives is written to its registers, extended as its width says; a management reply is written to
the scalar register of its warp, and its threads are released. -/
def Obligations.Deliveries : Prop :=
  (∀ (s : State) k owner dest bs, s.net[k]? = some (.load owner dest bs) →
    exec (.loadCompletion k) s = .next (({ s with net := s.net.eraseIdx k } : State).modThread owner fun x => x.takeData dest bs).tick) ∧
  (∀ (x : Thread) d (b0 b1 b2 b3 : Byte),
    x.takeData (.regs d .n8) [b0] = x.setReg d (b0.setWidth 32) ∧
    x.takeData (.regs d .i8) [b0] = x.setReg d (b0.signExtend 32) ∧
    x.takeData (.regs d .n16) [b0, b1] = x.setReg d ((b1 ++ b0).setWidth 32) ∧
    x.takeData (.regs d .i16) [b0, b1] = x.setReg d ((b1 ++ b0).signExtend 32) ∧
    x.takeData (.regs d .w32) [b0, b1, b2, b3] = x.setReg d (b3 ++ b2 ++ b1 ++ b0)) ∧
  (∀ (x : Thread) d n, n < 2 ^ 64 → x.takeData (.regs d .w64) (leBytes 8 n) =
    (x.setReg d (BitVec.ofNat 32 n)).setReg (d + 1) (BitVec.ofNat 32 (n / 2 ^ 32))) ∧
  (∀ (x : Thread) d n, n < 2 ^ 128 → x.takeData (.regs d .w128) (leBytes 16 n) =
    (((x.setReg d (BitVec.ofNat 32 n)).setReg (d + 1) (BitVec.ofNat 32 (n / 2 ^ 32))).setReg (d + 2)
      (BitVec.ofNat 32 (n / 2 ^ 64))).setReg (d + 3) (BitVec.ofNat 32 (n / 2 ^ 96))) ∧
  (∀ (s : State) k o os dst reply tk, s.net[k]? = some (.mgmtReply (o :: os) dst reply) → s.task? o.task = some tk →
    ∃ u : State, exec (.mgmtReply k) s = .next u.settle.tick ∧ u = { s with net := s.net.eraseIdx k, teams := u.teams } ∧
      (∀ tm, s.team? o.task o.team = some tm → ∃ tm', u.team? o.task o.team = some tm' ∧
        tm'.warps = tm.warps.modify (o.tid / tk.width) fun w => w.setSreg dst reply) ∧
      ∀ key ∈ o :: os, ∀ x, s.thread? key = some x → x.wait = .mgmt →
        ∃ y, u.thread? key = some y ∧ y.wait = if x.innEnded = true ∧ x.routine = none then .inning else .none)

/-- R310: what the management core does with a request and what it replies. VERSION's value and what is held before the ring
exists are the model's (log entries 12 and 42). -/
def Obligations.ManagementCodes : Prop :=
  ∀ (s : State) k q, s.mgmt[k]? = some q →
    let s1 : State := { s with mgmt := s.mgmt.eraseIdx k }
    let answered := fun (u : State) (v : Word) => ({ u with net := u.net ++ [.mgmtReply q.owners q.dst v] } : State).tick
    (q.code = 0 → exec (.version k) s = .next (answered s1 s.firmware.running)) ∧
    (q.code = 1 → ∃ sw : SeedWrite, exec (.setseed k) s = .next (answered
      { s1.setWindow 0x10 q.arg with seedWrite := some sw } 0) ∧ sw.clk = s.clk ∧
      (∀ x, s.seedWrite = some x → x.clk = s.clk → sw.old = x.old ∧ sw.writes = x.writes ++ [{ val := q.arg, rung := [] }]) ∧
      ((∀ x, s.seedWrite = some x → x.clk ≠ s.clk) → sw.old = s.windowReg 0x10 ∧ sw.writes = [{ val := q.arg, rung := [] }])) ∧
    (∀ o os tk, q.owners = o :: os → s.task? o.task = some tk →
      (q.code = 2 → let d := s.chain q.arg.toNat
        exec (.chainq k) s = .next (answered s1 (
          if q.arg.toNat < 256 ∧ chainValid d = true ∧ chainCtx d = tk.ctx then BitVec.ofNat 32 (chainTail d + 2 ^ 32 - chainDeq d)
          else 0xFFFFFFFE))) ∧
      (q.code = 3 → 2 ^ 57 ≤ q.arg.toNat → exec (.leaseq k) s = .next (answered s1 0)) ∧
      (q.code = 3 → q.arg.toNat < 2 ^ 57 → ∀ wr, s.leaseCheck (s.leaseOf tk.slot) (q.arg.toNat / 65536) = .covered wr →
        exec (.leaseq k) s = .next (answered s1 1)) ∧
      (q.code = 3 → q.arg.toNat < 2 ^ 57 → s.leaseCheck (s.leaseOf tk.slot) (q.arg.toNat / 65536) = .outside →
        exec (.leaseq k) s = .next (answered s1 0)) ∧
      (q.code = 4 → ∀ n, s.heldEvents = [] → s.ringLog = some n → s.ringUsed ≠ 2 ^ n →
        let tail := (s.windowReg 0x68).toNat
        let at_ := 128 * bitsNat (s.windowReg 0x58) 7 50 + 128 * (tail % 2 ^ n)
        let entry := leBytes 4 1 ++ leBytes 4 o.team ++ leBytes 8 q.arg.toNat ++ List.replicate 112 0
        exec (.notify k) s = .next (answered (({ s1 with hostMem := Memory.put s.hostMem at_ entry } : State).setWindow 0x68
          (BitVec.ofNat 64 ((tail + 1) % 2 ^ 32))) 0)) ∧
      (q.code = 4 → ∀ n, s.ringLog = some n → (s.ringUsed = 2 ^ n ∨ s.heldEvents ≠ []) →
        exec (.notify k) s = .next ({ s1 with heldEvents := s.heldEvents ++
          [{ kind := 1, team := o.team, value := q.arg, body := 0, reply := some (q.owners, q.dst) }] } : State).tick)) ∧
    (4 < q.code.toNat → exec (.unservedMgmtCode k) s = .next (answered s1 0xFFFFFFFF))

/-- R332, R163, R169, R334: the oldest item of a warp's queue that may leave it leaves: no item passes an earlier release of its
thread, no release an earlier item of its thread, and the accesses to this device and the host leave in order. A release is performed; a store to SC memory writes
its bytes at the home, one to RC or WS memory goes on its way and writes them when it arrives; an atomic writes its new value
and answers the old one; an AACC at the home slice adds its term to the cell. Every other byte of memory keeps its value. When
an item leaves its queue is the model's reading (log entry 50). -/
def Obligations.QueueItems : Prop :=
  let stores := fun (s u : State) (w : LaneStore) => u.hostMem = s.hostMem ∧
    ∀ a, Memory.read u.mem a = if w.place.addr ≤ a ∧ a < w.place.addr + w.data.length then w.data.getD (a - w.place.addr) 0
      else Memory.read s.mem a
  (∀ (s : State) core queue j q, s.firstGo core queue = some j → queue[j]? = some q →
    s.mayLeave core q = true ∧ ∀ x ∈ queue.take j, (x.owner = q.owner → x.isRelease = false ∧ q.isRelease = false) ∧
      (q.isRelease = false → q.away = false → x.isRelease = true ∨ x.away = true)) ∧
  (∀ (s : State) core warp tm k, s.queueTeam core warp = some (tm, k) → s.firstGo core (tm.warp k).queue = none →
    exec (.homeSliceRequest (.queue core) warp) s = .next s) ∧
  (∀ (s : State) core warp tm k j q, s.queueTeam core warp = some (tm, k) → s.firstGo core (tm.warp k).queue = some j →
    (tm.warp k).queue[j]? = some q →
    let s1 := s.modTeam tm.task tm.team fun x => x.modWarp k fun w => { w with queue := (tm.warp k).queue.eraseIdx j }
    let ev := exec (.homeSliceRequest (.queue core) warp) s
    (∀ ow sc, q = .release ow sc → ev = .next (s1.noteRelease ow).settle.tick) ∧
    (∀ w, q = .store w → (∀ d, w.place.space ≠ .remote d) → w.cls ≠ .pv → w.cls ≠ .sc →
      ∃ u : State, ev = .next u.settle.tick ∧
        u = { s1 with l1 := u.l1, replicas := u.replicas, net := s.net ++ [.store core w] }) ∧
    (∀ w, q = .store w → w.place.space = .dev → w.cls = .sc → w.targets = [] → s.cellAt (lineBase w.place.addr) = none →
      ∃ u : State, ev = .next u.settle.tick ∧ u.teams = s1.teams ∧ stores s u w) ∧
    (∀ ow p cls op d how, q = .atom ow p cls op d how → p.space = .dev → s.cellAt (lineBase p.addr) = none →
      let old := Memory.nat s.mem p.addr op.size
      ∃ u : State, ev = .next u.settle.tick ∧ u.hostMem = s.hostMem ∧ u.teams = s1.teams ∧
        Msg.load ow (.regs d op.width) (leBytes op.size old) ∈ u.net ∧
        ∀ a, Memory.read u.mem a = if p.addr ≤ a ∧ a < p.addr + op.size then (leBytes op.size (op.new old)).getD (a - p.addr) 0
          else Memory.read s.mem a) ∧
    (∀ ow p cls term via, q = .aacc ow p cls term via → p.space = .dev → cls ≠ .pv → homeSliceOf p = core / 4 →
      (∀ x ∈ s.cells, x.line = lineBase p.addr → x.gath = false) →
      ∃ u : State, ev = .next u.settle.tick ∧ u.mem = s.mem ∧ u.teams = s1.teams ∧
        ∃ cell, u.cellAt (lineBase p.addr) = some cell ∧ cell.base = match s.cellAt (lineBase p.addr) with
          | some x => x.base.combine term
          | none => (cellOf (Memory.bytes s.mem (lineBase p.addr) 128)).combine term)) ∧
  (∀ (s : State) k core w, s.net[k]? = some (.store core w) →
    let held := storeBehind core w (s.net.take k) || s.noWay (homeSliceOf w.place) w.place
    (held = true → exec (.homeSliceRequest .flight k) s = .next s) ∧
    (held = false → w.place.space = .dev → w.targets = [] → s.cellAt (lineBase w.place.addr) = none →
      ∃ u : State, exec (.homeSliceRequest .flight k) s = .next u.settle.tick ∧ u.teams = s.teams ∧ stores s u w))

/-- R175, R177, R185: a copy reads its source, writes its destination, writes its status word and lowers the counter of its
tag; one to another device ends at its acknowledgement. A dropped source gives zeros, a dropped destination nothing, and both
status 1. That a copy reads and writes in one step is the model's form (log entry 24). -/
def Obligations.CopyEnds : Prop :=
  ∀ (s : State) k r, s.copies[k]? = some r →
    (∀ (u : State) st, let e := u.endCopy r st
      e = { u with teams := e.teams, copies := u.copies.filter fun x => x.id != r.id } ∧
      ∀ tm, u.team? r.owner.task r.owner.team = some tm → ∃ tm', e.team? r.owner.task r.owner.team = some tm' ∧
        tm'.tagCount r.tag = tm.tagCount r.tag - 1 ∧ tm'.scratch = tm.scratch ∧ tm'.warps = tm.warps ∧
        tm'.threads = tm.threads.map fun x => if x.tid = r.owner.tid then x.setReg r.reg (BitVec.ofNat 32 st) else x) ∧
    (∀ st, r.done = some st → exec (.copyCompletion k) s = .next (s.endCopy r st).settle.tick) ∧
    (r.done = none → r.sent = true → exec (.copyCompletion k) s = .next s) ∧
    (∀ c x, r.done = none → r.sent = false → s.ctxOf r.owner r.inRoutine = some (c, x) →
      (∀ va o y, r.src = .mem va → r.dst = .scratch o → s.lineOut c c.touchLoad x va.toNat = .ok y →
        (if y.cls = .ord then s.doClear y
          else s.loadWaits c.tm.core (c.key x) y.place y.cls = false ∧ s.copyMeets c y = false) →
          ∃ u bs, CachesOnly s u ∧ s.mayLoad c.tm.core (c.key x) y r.size bs ∧
            exec (.copyCompletion k) s = .next ((u.modTeam c.tk.id c.tm.team fun tm =>
              { tm with scratch := Memory.put tm.scratch o bs }).endCopy r 0).settle.tick) ∧
      (∀ va vb y, r.src = .mem va → r.dst = .mem vb → s.lineOut c c.touchLoad x va.toNat = .ok y →
        (if y.cls = .ord then s.doClear y
          else s.loadWaits c.tm.core (c.key x) y.place y.cls = false ∧ s.copyMeets c y = false) →
          ∃ u bs, CachesOnly s u ∧ s.mayLoad c.tm.core (c.key x) y r.size bs ∧
            CopyLands u c x r vb bs 0 (exec (.copyCompletion k) s)) ∧
      (∀ o vb, r.src = .scratch o → r.dst = .mem vb →
        CopyLands s c x r vb (Memory.bytes c.tm.scratch o r.size) 0 (exec (.copyCompletion k) s)) ∧
      (∀ vb, r.src = .dropped → r.dst = .mem vb →
        CopyLands s c x r vb (List.replicate r.size 0) 1 (exec (.copyCompletion k) s)) ∧
      (∀ o, r.src = .dropped → r.dst = .scratch o →
        exec (.copyCompletion k) s = .next ((s.modTeam c.tk.id c.tm.team fun tm =>
          { tm with scratch := Memory.put tm.scratch o (List.replicate r.size 0) }).endCopy r 1).settle.tick) ∧
      (r.dst = .dropped → exec (.copyCompletion k) s = .next (s.endCopy r 1).settle.tick))

/-- R286, R287, R290, R291, R295, R297, R32: a doorbell advances a chain's tail; the dequeue takes the record that NEXT names,
which is STAGED when it passes every test and ends with SCODE 1 and the test's number otherwise; a team starts from zeroed
state on a clean core; the management core writes descriptors. A misaligned NEXT that stops the chain, and a descriptor's
write under ERR, are the model's readings (log entry 34). -/
def Obligations.LaunchEvents : Prop :=
  (∀ (s : State) (v : BitVec 64),
    let n := v.toNat % 256
    let count := v.toNat / 2 ^ 16 % 2 ^ 16
    let d := s.chain n
    (s.ready = false → exec (.doorbell v) s = .next (s.setMstat 1 7 2).tick) ∧
    (s.ready = true → bitsNat v 32 32 = 0 → bitsNat v 8 8 = 0 → count ≠ 0 → chainValid d = true →
      ∃ d' sw, exec (.doorbell v) s = .next ({ s.setChain n d' with seedWrite := sw } : State).tick ∧
        (∀ x ∈ sw, ∃ y ∈ s.seedWrite, x.clk = y.clk ∧ x.old = y.old ∧ x.writes.map (·.val) = y.writes.map (·.val)) ∧ if chainPending d + count < 2 ^ 31 then
          chainTail d' = (chainTail d + count) % 2 ^ 32 ∧ ∀ j, j < 288 ∨ 320 ≤ j → d'.getLsbD j = d.getLsbD j
        else chainErr d' = true ∧ ∀ j, j ≠ 136 → d'.getLsbD j = d.getLsbD j)) ∧
  (∀ (s : State) n d, s.memOk → n < 256 → let t := s.setChain n d
    t = { s with mem := t.mem } ∧ t.chain n = d ∧ (∀ k, k ≠ n → t.chain k = s.chain k) ∧
    ∀ a, a < s.chtab + 64 * n ∨ s.chtab + 64 * n + 64 ≤ a → Memory.read t.mem a = Memory.read s.mem a) ∧
  (∀ (s : State) n slot ctx a bs, let t := newTask s n slot ctx a bs
    ((∀ x, s.seedWrite = some x → x.clk ≠ s.clk) → t.seed = s.windowReg 0x10) ∧
    ∀ x, s.seedWrite = some x → x.clk = s.clk → (∀ v ∈ x.writes, v.rung = []) → t.seed = x.old) ∧
  (∀ (s : State) n slot nb bs, let d := s.chain n
    let a := leNat nb % 2 ^ 57
    s.ready = true → chainValid d = true → chainErr d = false → chainKind d = false → chainPending d ≠ 0 →
    (∀ x ∈ s.tasks, x.chain ≠ n) → s.boundSlot n = some slot → s.unitRead (chainCtx d) (chainAddr d) 8 = some nb →
    s.unitHeld (chainCtx d) (chainAddr d) 8 = false → s.unitHeld (chainCtx d) a 512 = false →
    s.unitCells (chainCtx d) (chainAddr d) 8 = [] → s.unitCells (chainCtx d) a 512 = [] →
    (a = 0 ∨ a % 512 ≠ 0 → exec (.dequeue n) s = .next (s.setChain n (chainSetErr d)).tick) ∧
    (a ≠ 0 → a % 512 = 0 → s.unitRead (chainCtx d) a 512 = some bs →
      let t0 := newTask s n slot (chainCtx d) a bs
      let table := s.readTable t0
      let t := { t0 with table := table.getD [] }
      s.unitHeld (chainCtx d) t0.recTab 2048 = false → s.unitCells (chainCtx d) t0.recTab 2048 = [] →
      (s.orderedBusy t = true ∨ s.reservable t = false → exec (.dequeue n) s = .next s.tick) ∧
      (s.orderedBusy t = false → s.reservable t = true →
        ∃ d' u, chainAddr d' = a ∧ chainDeq d' = (chainDeq d + 1) % 2 ^ 32 ∧ chainTail d' = chainTail d ∧
          (∀ j, j < 160 ∨ (217 ≤ j ∧ j < 320) ∨ 352 ≤ j → d'.getLsbD j = d.getLsbD j) ∧
          u = { s.setChain n d' with nextTask := s.nextTask + 1 } ∧
          (firstFailed t table = 0 → exec (.dequeue n) s = .next ({ u.setSlot slot { s.slot slot with state := .staged, order := s.nextTask } with
            tasks := s.tasks ++ [t] } : State).tick) ∧
          (firstFailed t table ≠ 0 → exec (.dequeue n) s = .next ({ u with
            tasks := s.tasks ++ [{ t with phase := .ending 1 (BitVec.ofNat 32 (firstFailed t table)) 0, isOver := true }] } : State).settle.tick)))) ∧
  (∀ (s : State) core t team, s.placement core = some (t, team) → s.unplaced t team = true →
    ∃ tm u, exec (.teamStart core team) s = .next u ∧ u.teams = s.teams ++ [tm] ∧ u.mem = s.mem ∧
      (u.slot t.slot).state = .run ∧ (∀ l ∈ u.l1, l.core ≠ core) ∧
      tm.task = t.id ∧ tm.team = team ∧ tm.core = core ∧ tm.borrower = false ∧ tm.threads.length = t.threads ∧
      tm.scratch = [] ∧ tm.tiles = [] ∧ tm.passref = 0 ∧ tm.sqBar = [] ∧ tm.tmBar = BarInst.zero ∧ (∀ n, tm.tagReady n = true) ∧
      (∀ w ∈ tm.warps, w.scalars = [] ∧ w.marks = [] ∧ w.queue = []) ∧
      ∀ x ∈ tm.threads, x.pc = BitVec.ofNat 64 (s.skipPads t t.entry) ∧ x.vallot = t.vregs ∧ (∀ r, x.reg r = 0) ∧ x.preds = 0 ∧
        (∀ n, x.la n = Acc.zero) ∧ x.fault = 0 ∧ x.rep = Rep.none ∧ x.oobst = false ∧ x.satst = false ∧ x.fpst = 0 ∧
        x.wait = .none ∧ x.exited = false ∧ x.inning = 0) ∧
  (∀ (s : State) core t team, s.placement core = none → s.lentPlacement core = some (t, team) →
    ∃ tm u, exec (.teamStart core team) s = .next u ∧ u.teams = s.teams ++ [tm] ∧ MemAfter s.l1 .dev s.mem u.mem ∧
      (u.slot t.slot).state = .run ∧ (∀ l ∈ u.l1, l.core ≠ core) ∧ tm.task = t.id ∧ tm.team = team ∧ tm.core = core ∧
      tm.borrower = true ∧ tm.scratch = [] ∧ ∀ x ∈ tm.threads, x.pc = BitVec.ofNat 64 (s.skipPads t t.entry) ∧ x.vallot = t.vregs) ∧
  (∀ (s : State) core, Sparse.get 0 s.dirty core ≠ 0 →
    ∃ u, exec (.coreClean core) s = .next u ∧ u = { s with dirty := u.dirty, freeCtr := s.freeCtr + 1, blocked := [] } ∧
      Sparse.get 0 u.dirty core = 0 ∧ ∀ k, k ≠ core → Sparse.get 0 u.dirty k = Sparse.get 0 s.dirty k) ∧
  (∀ (s : State) n d, s.ready = true → s.dutySched = false → n < 256 → chainOk d = true →
    (chainValid (s.chain n) = false ∨ chainErr (s.chain n) = true) →
      exec (.chainDescriptorWrite n d) s = .next (s.setChain n d).tick)

/-- R293, R294, R235, R412: the commands of the slot table as the management core gives them, and the writing of a remap row.
The results of commands where the text is silent are the model's readings (log entry 34). -/
def Obligations.BindEvents : Prop :=
  ∀ (s : State) k, s.ready = true → s.dutySched = false →
    (∀ r, k < 64 → (s.slot k).state = .free → s.bindOk r = true →
      (∀ x ∈ s.slots, x.2.state ≠ .free → bindChain x.2.rec0 ≠ bindChain r) →
        ∃ r', (∀ j, 8 ≤ j → r'.getLsbD j = r.getLsbD j) ∧
          exec (.bind k r) s = .next (s.setSlot k { rec0 := r', state := .bound, held := false, order := 0 }).settle.tick) ∧
    ((s.slot k).state = .bound → exec (.revoke k) s = .next (s.setSlot k Slot.zero).settle.tick) ∧
    ((s.slot k).state = .staged ∨ (s.slot k).state = .run ∨ (s.slot k).state = .susp →
      ∃ u : State, exec (.revoke k) s = .next u.settle.tick ∧
        u = { s.setSlot k { s.slot k with state := .drain } with tasks := u.tasks } ∧
        u.tasks = s.tasks.map fun t => if t.slot = k ∧ t.isOver = false then { t with phase := .ending 3 0 0 } else t) ∧
    (∀ t, (s.slot k).state = .run → s.slotTask k = some t →
      ∃ u : State, exec (.suspend k) s = .next u.settle.tick ∧
        u = { s.setSlot k { s.slot k with state := .susp, held := true } with teams := u.teams } ∧
        List.Forall₂ (fun (a b : Team) => b = { a with phase := b.phase } ∧
          (a.task ≠ t.id ∨ a.phase ≠ .run → b = a) ∧
          (a.task = t.id → a.phase = .run → b.phase = .saving s.clk (s.hasRoutine t))) s.teams u.teams) ∧
    ((s.slot k).state = .susp → exec (.resume k) s = .next (s.setSlot k { s.slot k with held := false }).settle.tick) ∧
    (∀ t, s.slotTask k = some t → (s.slot k).state = .drain → (s.outcome t).isSome = true →
      ∃ u : State, exec (.drainComplete k) s = .next u.settle.tick ∧ u = { s with slots := u.slots, tasks := u.tasks } ∧
        u.slot k = Slot.zero ∧ (∀ j, j ≠ k → u.slot j = s.slot j) ∧
        u.tasks = s.tasks.map fun x => if x.id = t.id then { x with isOver := true } else x) ∧
    (∀ die core row, die < 4 → core < 64 → s.downUnits.contains (leagueOf (64 * die + core)) = true → rowCstate row = 0 →
      exec (.remapRowWrite die core row) s = .next s.settle.tick) ∧
    (∀ die core row, die < 4 → core < 64 → (s.downUnits.contains (leagueOf (64 * die + core)) = false ∨ rowCstate row ≠ 0) →
      ∃ u : State, exec (.remapRowWrite die core row) s = .next u.settle.tick ∧ u = { s with remap := u.remap } ∧
        u.row (64 * die + core) = row ∧ ∀ n, n ≠ 64 * die + core → u.row n = s.row n)

/-- R237, R300, R301, R382, R397: a team that must leave its core begins its save, and one without a routine leaves it, with
its save area, once it has drained; the watchdog of a save; and the restore. What a save keeps beside the area is the model's
reading (log entry 36). -/
def Obligations.Switching : Prop :=
  (∀ (s : State) core tm tk, (s.teams.find? fun x => x.core == core && (x.phase != .run || s.preempts x)) = some tm →
    s.task? tm.task = some tk → exec (.preemption core) s = .next (s.startSave tk tm).settle.tick) ∧
  (∀ (s : State) core tm tk, s.teams.find? (s.quantumRun core) = some tm → s.task? tm.task = some tk →
    exec (.quantumExpiry core) s = .next (s.startSave tk tm).settle.tick) ∧
  (∀ (s : State) core tm tk t, s.task? tm.task = some tk → s.rowTask core = some t →
    let mine := (s.slot tk.slot).rec0
    s.quantumRun core tm = true ↔ tm.core = core ∧ tm.phase = .run ∧ bindTsp mine = 1 ∧
      tm.placedAt + 1024 * bindQuant mine ≤ s.clk ∧ t.id ≠ tk.id ∧ bindPrio (s.slot t.slot).rec0 = bindPrio mine ∧
      s.wantsCore t core = true) ∧
  (∀ (s : State) core,
    let leaving := s.teams.filter fun x => x.core == core && (s.task? x.task).any fun tk => s.switches tk x
    leaving ≠ [] → ∃ tm ∈ leaving, ∃ tk, s.task? tm.task = some tk ∧
      exec (.teamSwitch core) s = .next (s.startSave tk tm).settle.tick ∧
      ∀ x ∈ leaving, tm.switchSince.getD s.clk < x.switchSince.getD s.clk ∨
        (tm.switchSince.getD s.clk = x.switchSince.getD s.clk ∧ tm.team ≤ x.team)) ∧
  (∀ (s : State) tk tm, s.task? tm.task = some tk → s.team? tm.task tm.team = some tm → tm.phase = .run →
    s.hasRoutine tk = false → s.drained tm = true → tk.id = tm.task →
      let u := s.startSave tk tm
      (∃ x : SavedTeam, u.saved = s.saved ++ [x] ∧ x.task = tm.task ∧ x.team = tm.team ∧ x.area = areaOf tk tm ∧ x.offSince = s.clk) ∧
      ∀ y ∈ u.teams, ¬(y.task = tm.task ∧ y.team = tm.team)) ∧
  (∀ (s : State) core tm tk since, s.teams = [tm] → tm.core = core → tm.phase = .saving since true → s.task? tm.task = some tk →
    since + 2 ^ tk.wdlog ≤ s.clk → tk.stopped = false → (∃ x ∈ tm.threads, x.exited = false ∧ x.saved = false) →
      ∃ (u : State) (r : BitVec 512), u = { s with teams := u.teams } ∧ bitsNat r 0 8 = causeWatchdog ∧
        exec (.preemptionWatchdog core) s = .next (u.endTaskFault tk r).settle.tick) ∧
  (∀ (s : State) core team tk sv, s.placement core = some (tk, team) →
    (s.saved.find? fun v => v.task == tk.id && v.team == team) = some sv → Memory.nat sv.area 132 4 < 2 ^ 31 →
    areaFits tk sv.area = true →
      let s1 := { s with saved := s.saved.filter fun v => !(v.task == tk.id && v.team == team) }
      let tm := s1.restoreTeam tk sv core
      exec (.teamRestore core team) s = .next (((({ s1 with teams := s.teams ++ [tm] } : State).placed tk).reformYields tk
        team).resumeWaits tk team ((tm.threads.filter fun x => !x.exited).map (·.tid))).settle.tick) ∧
  (∀ (tk : Task) (sv : SavedTeam) (x : Thread), savedExited tk sv.area x.tid = false →
    let y := restoreThread tk sv x
    let word := fun o => BitVec.ofNat 32 (Memory.nat sv.area (256 + x.tid * threadBlock tk + o) 4)
    y.tid = x.tid ∧ y.vallot = (word 8).toNat ∧ y.innpos = word 60 ∧ y.inning = word 76 ∧ y.nbrcnt = word 28 ∧
      ∀ r < tk.vregs, y.reg r = word (128 + 4 * r))

/-- R239, R240, R243: a commit applies the entries of every buffer in ascending team, then tid, then program order; once the
last has been performed the innings of the task and of its threads advance, and the threads that waited at the inning's end go
on. A commit that goes on over several steps, and one that has begun is applied whole, are the model's readings (log entry
26). -/
def Obligations.InningCommit : Prop :=
  (∀ (s : State) task tk, s.task? task = some tk → tk.committing = none → s.commitReady tk = true →
    s.cells = [] → s.partials = [] → s.termsComing (fun _ => true) = false → s.remotePending tk.id (fun _ => true) = false →
    (∀ e ∈ tk.buf, e.space = .dev ∧ e.kind.targets = [] ∧ ∀ term, e.kind ≠ .aacc term) →
    ∃ u : State, exec (.commit task) s = .next u.settle.tick ∧ u.hostMem = s.hostMem ∧
      u.mem = (commitOrder tk.buf).foldl
        (fun m e => Memory.put m e.line (applyDo (Memory.bytes m (lineBase e.line) 128) e.kind)) s.mem ∧
      u.tasks = (s.modTask task fun t => { t with innings := t.innings + 1, buf := [], committing := none }).tasks ∧
      List.Forall₂ (fun (a b : Team) => b = { a with threads := b.threads } ∧
        if a.task = tk.id then
          List.Forall₂ (fun (x y : Thread) => if x.exited then y = x else
            y.innEnded = false ∧ y.inning = x.inning + 1 ∧ y.innpos = 0 ∧ (x.wait = .inning → y.wait = .none) ∧
            (x.wait ≠ .inning → y.wait = x.wait) ∧ y.regs = x.regs ∧ y.pc = x.pc) a.threads b.threads
        else b.threads = a.threads) s.teams u.teams) ∧
  (∀ (s : State) task tk es, s.task? task = some tk → tk.committing = some es →
    exec (.commit task) s = .next (s.commit tk es).settle.tick) ∧
  (∀ (s : State) task tk, s.task? task = some tk → tk.committing = none → s.commitReady tk = false →
    exec (.commit task) s = .next s) ∧
  (∀ (tk : Task) (s : State) es, let r := State.commitEntries tk s es
    (∃ done, es = done ++ r.2) ∧
    (s.commit tk es).mem = r.1.mem ∧
    (r.2 ≠ [] → s.commit tk es = r.1.modTask tk.id fun t => { t with committing := some r.2 })) ∧
  (∀ buf : List DoEntry, (commitOrder buf).Perm buf ∧
    (commitOrder buf).Pairwise (fun a b => a.team < b.team ∨ (a.team = b.team ∧ a.tid ≤ b.tid)) ∧
    ∀ team tid, ((commitOrder buf).filter fun e => e.team == team && e.tid == tid) =
      buf.filter fun e => e.team == team && e.tid == tid) ∧
  (∀ (bs : List Byte) data mask targets, bs.length = 128 →
    let out := applyDo bs (.store data mask targets)
    out.length = 128 ∧ ∀ j < 128, out.getD j 0 = if mask.getLsbD j then data.extractLsb' (8 * j) 8 else bs.getD j 0)

/-- R218 to R222, R226 to R229, R262, R376: what each message of exact merging does where it arrives, with no earlier message that must
arrive before it on the way; a message for a line whose set has every way locked waits. That one entry of a switch holds a whole chunk
of a collective, counted once for each element, is the model's (log entry 63), as is the order of a slice's REG, SURR and SURR.E of one
line (log entry 59). -/
def Obligations.MergeMessages : Prop :=
  (∀ (s : State) k m, s.net[k]? = some m →
    ((∀ x ∈ s.net.take k, x.ahead m = false) → s.takeOrdered k = some (m, { s with net := s.net.eraseIdx k })) ∧
    ((∃ x ∈ s.net.take k, x.ahead m = true) → s.takeOrdered k = none)) ∧
  (∀ j line cls acc ow, let surr : Msg := .surr j line cls acc ow
    Msg.ahead (.reg j line cls) surr = true ∧ surr.ahead (.reg j line cls) = true ∧
    Msg.ahead (.surrE j line cls acc) surr = true ∧ surr.ahead (.surrE j line cls acc) = true) ∧
  (∀ (s s1 : State) k line cls term pairs owners die,
    s.takeOrdered k = some (.contribution line cls term pairs owners die false [], s1) → s1.cellRoom line = true → s.hasMerged (cellHome line) pairs = false →
      ∃ u c, exec (.contribution k) s = .next (State.tick u) ∧ u.mem = s.mem ∧ u.cellAt line = some c ∧
        match s.cellAt line with
        | some old => u.net = s1.net ∧ if old.gath = true then c = { old with queue := old.queue ++ [.contrib term cls pairs owners] }
            else c = { old with base := old.base.combine term }
        | none => c.base = (cellOf (Memory.bytes s.mem line 128)).combine term ∧ c.h = 0 ∧ c.gath = false) ∧
  (∀ (s s1 : State) k line cls term pairs owners die,
    s.takeOrdered k = some (.contribution line cls term pairs owners die true [], s1) → s1.cellRoom line = true →
    s.hasMerged (cellHome line) pairs = true → exec (.contribution k) s = .next s1.tick) ∧
  (∀ (s s1 : State) k line cls term pairs owners die replay, s1.cellRoom line = false →
    s.takeOrdered k = some (.contribution line cls term pairs owners die replay [], s1) → exec (.contribution k) s = .next s) ∧
  (∀ (s s1 : State) k j line cls acc owners, s1.cellRoom line = false →
    (s.takeOrdered k = some (.reg j line cls, s1) → exec (.reg k) s = .next s) ∧
    (s.takeOrdered k = some (.surr j line cls acc owners, s1) → exec (.surr k) s = .next s) ∧
    (s.takeOrdered k = some (.surrE j line cls acc, s1) → exec (.surrE k) s = .next s)) ∧
  (∀ (s s1 : State) k j line cls, s.takeOrdered k = some (.reg j line cls, s1) → s1.cellRoom line = true → j < 64 →
    ∃ u c, exec (.reg k) s = .next (State.tick u) ∧ u.mem = s.mem ∧ u.cellAt line = some c ∧
      match s.cellAt line with
      | some old => if old.gath = true then c = { old with queue := old.queue ++ [.reg j cls] } ∧ u.net = s1.net
          else c.h.getLsbD j = true ∧ (∀ i, i ≠ j → c.h.getLsbD i = old.h.getLsbD i) ∧ u.net = s1.net ++ [.regack j line]
      | none => c.h.getLsbD j = true ∧ u.net.getLast? = some (.regack j line)) ∧
  (∀ (s s1 : State) k j line, s.takeOrdered k = some (.regack j line, s1) → (j, line) ∈ s.discards →
    exec (.regack k) s = .next ({ s1 with discards := s.discards.erase (j, line) } : State).tick) ∧
  (∀ (s s1 : State) k j line, s.takeOrdered k = some (.regack j line, s1) → (j, line) ∉ s.discards →
    let known := fun (x : Partial) => if x.slice = j ∧ x.line = line then { x with registered := true, owners := [] } else x
    exec (.regack k) s = .next ({ s1 with partials := s.partials.map known } : State).tick) ∧
  (∀ (s s1 : State) k j line, s.takeOrdered k = some (.collect j line, s1) →
    match s.partialAt j line with
    | some x => ∃ u, exec (.collect k) s = .next (State.tick u) ∧ u.partialAt j line = none ∧ u.net = s1.net ++ [.surr j line x.cls x.acc x.owners] ∧
        u.mem = s.mem ∧ u.cells = s.cells ∧ (x.registered = false → (j, line) ∈ u.discards)
    | none => exec (.collect k) s = .next ({ s1 with net := s1.net ++ [.none_ j line] } : State).tick) ∧
  (∀ (s s1 : State) k j line cls acc owners c, j < 64 → s.cellAt line = some c →
    let h := c.h &&& ~~~((1 : BitVec 64) <<< j)
    let s2 := s1.modCell line fun x => { x with base := x.base.combine acc, h := x.h &&& ~~~((1 : BitVec 64) <<< j) }
    let t := (if c.gath = true ∧ h = 0 ∧ c.stuck = false then s2.endGather line else s2).tick
    h.getLsbD j = false ∧
    ((∀ r ∈ c.queue, r.isReg j = false) → s.takeOrdered k = some (.surr j line cls acc owners, s1) → exec (.surr k) s = .next t) ∧
    (s.takeOrdered k = some (.surrE j line cls acc, s1) → exec (.surrE k) s = .next t)) ∧
  (∀ (s s1 : State) k j line cls acc, s.cellAt line = none → s.takeOrdered k = some (.surrE j line cls acc, s1) → s1.cellRoom line = true →
    ∃ u c, exec (.surrE k) s = .next (State.tick u) ∧ u.mem = s.mem ∧ u.cellAt line = some c ∧
      c.base = (cellOf (Memory.bytes s.mem line 128)).combine acc) ∧
  (∀ (s s1 : State) k j line, s.takeOrdered k = some (.none_ j line, s1) → exec (.noneMsg k) s = .next s1.tick) ∧
  (∀ (s : State) j line x, s.partialAt j line = some x → x.registered = true →
    ∃ u, exec (.partialEviction j line) s = .next (State.tick u) ∧ u.partialAt j line = none ∧ u.net = s.net ++ [.surrE j line x.cls x.acc] ∧
      u.mem = s.mem) ∧
  (∀ (s : State) line c, s.cellAt line = some c → c.gath = false → c.h ≠ 0 → line % 128 = 0 →
    ∃ u, exec (.gatherStart line) s = .next (State.tick u) ∧ u.mem = s.mem ∧
      u.net = s.net ++ ((List.range 64).filter fun j => c.h.getLsbD j).map (fun j => .collect j line) ∧
      u.cellAt line = some { c with gath := true, waiting := c.waiting ++ [.clean] }) ∧
  (∀ (s s1 : State) k line cls term pairs owners from_ die path,
    s.takeOrdered k = some (.contribution line cls term pairs owners from_ false (die :: path), s1) →
    let m : Msg := .contribution line cls term pairs owners from_ false (die :: path)
    (s.bowlAt die line = none → ((s.bowls.filter fun b => b.die == die).map BowlEntry.size).sum < 4096 →
      let b : BowlEntry := { die := die, line := line, cls := cls, kind := .cell term, pairs := pairs, owners := owners, opened := s.clk }
      ∃ net, HopsTo m k s1.net net ∧
        exec (.bowlContribution k) s = .next ({ s1 with bowls := s.bowls ++ [b], net := net } : State).tick) ∧
    (∀ b a, s.bowlAt die line = some b → b.cls = cls → b.kind = .cell a → (∀ x ∈ pairs, b.seqOf x.1 = none) →
      ∃ u b', exec (.bowlContribution k) s = .next (State.tick u) ∧ u.bowlAt die line = some b' ∧ b'.kind = .cell (a.combine term) ∧
        b'.pairs = b.pairs ++ pairs ∧ HopsTo m k s1.net u.net) ∧
    (∀ b x, s.bowlAt die line = some b → x ∈ pairs → b.seqOf x.1 = some x.2 →
      ∃ net, HopsTo m k s1.net net ∧ exec (.bowlContribution k) s = .next ({ s1 with net := net } : State).tick)) ∧
  (∀ (s s1 : State) k key (v : Chunk) pairs from_ die path,
    s.takeOrdered k = some (.chunk key v pairs from_ false (die :: path), s1) →
    let m : Msg := .chunk key v pairs from_ false (die :: path)
    (s.bowlAt die key = none → ((s.bowls.filter fun b => b.die == die).map BowlEntry.size).sum + v.vals.length ≤ 4096 →
      let b : BowlEntry := { die := die, line := key, cls := .rc, kind := .chunk v, pairs := pairs, owners := [], opened := s.clk }
      ∃ net, HopsTo m k s1.net net ∧
        exec (.bowlContribution k) s = .next ({ s1 with bowls := s.bowls ++ [b], net := net } : State).tick) ∧
    (∀ b w, s.bowlAt die key = some b → b.cls = .rc → b.kind = .chunk w → (∀ x ∈ pairs, b.seqOf x.1 = none) →
      ∃ u b', exec (.bowlContribution k) s = .next (State.tick u) ∧ u.bowlAt die key = some b' ∧ b'.pairs = b.pairs ++ pairs ∧
        b'.kind = .chunk { vals := (w.vals.zip v.vals).map fun x => x.1.combine x.2, cmap := w.cmap ||| v.cmap } ∧
        HopsTo m k s1.net u.net)) ∧
  (∀ (s : State) k b, s.bowls[k]? = some b →
    ∃ u m, exec (.bowlEmission k) s = .next (State.tick u) ∧ u.bowlAt b.die b.line = none ∧ u.mem = s.mem ∧ u.net = s.net ++ [m] ∧
      (∀ a, b.kind = .cell a → ∃ path, m = .contribution b.line b.cls a b.pairs b.owners b.die false path) ∧
      ∀ v, b.kind = .chunk v → ∃ path, m = .chunk b.line v b.pairs b.die false path) ∧
  (∀ (s : State) k line cls term pairs owners die r p ps,
    s.net[k]? = some (.contribution line cls term pairs owners die r (p :: ps)) →
      let again := fun (ow : List ThreadKey) => Msg.contribution line cls term pairs ow die true (p :: ps)
      (exec (.linkReplay k true) s = .next ({ s with net := s.net.set k (again owners) } : State).tick) ∧
      (exec (.linkReplay k false) s = .next ({ s with net := s.net.take (k + 1) ++ again [] :: s.net.drop (k + 1) } : State).tick))

/-- R346, R347, R350 to R352, R29: a token, in the order of its home die's tokens, and a probe invalidate the copies of their
line that other cores hold, and supersede its passes that were sent before; a pass is installed, dropped where it is
superseded, or refused where its team does not run, where 32 passed lines lie in the L1, or where the filter has no way; a
refusal counts in passref. That WS lines keep their copies but not their passes, and how the clubs' sets are found, are the
model's readings (log entries 22, 38 and 40). -/
def Obligations.CoherenceMessages : Prop :=
  (∀ (s : State) k p core cls owner, s.net[k]? = some (.token p core cls owner) →
    (tokenBefore (homeDieOf p) (s.net.take k) = true → exec (.notificationToken k) s = .next s) ∧
    (tokenBefore (homeDieOf p) (s.net.take k) = false →
      ∃ u, exec (.notificationToken k) s = .next (State.tick u) ∧ u = { s with net := u.net, l1 := u.l1 } ∧
        u.net = (stalePasses p.line (fun c => dieOf c == homeDieOf p) k s.net).eraseIdx k ∧
        (cls = .ws → u.l1 = s.l1) ∧
        (cls ≠ .ws → ∀ l, l ∈ u.l1 ↔ l ∈ s.l1 ∧
          ¬(l.place = p.line ∧ dieOf l.core = homeDieOf p ∧ l.core ≠ core ∧ l.cls ≠ .pv ∧ l.cls ≠ .ws)))) ∧
  (∀ (s : State) k p club core cls owner, s.net[k]? = some (.probe p club core cls owner) →
    ∃ u held, exec (.directoryProbe k) s = .next (State.tick u) ∧ u = { s with net := u.net, l1 := u.l1 } ∧
      (cls = .ws → u.l1 = s.l1) ∧
      (cls ≠ .ws → ∀ l, l ∈ u.l1 ↔ l ∈ s.l1 ∧ ¬(l.place = p.line ∧ l.core / 4 = club ∧ l.core ≠ core ∧ l.cls ≠ .pv ∧ l.cls ≠ .ws)) ∧
      u.net = (stalePasses p.line (fun c => c / 4 == club) k s.net).eraseIdx k ++ [.probeAck p club held owner] ∧
      (held = true ↔ ∃ l ∈ u.l1, l.core / 4 = club ∧ l.place.space = p.space ∧ l.place.addr / 512 = p.addr / 512)) ∧
  (∀ (p : Place) (q : Nat → Bool) (k j : Nat) (net : List Msg) pl cls d at_ tg core ow also st, j < k →
    net[j]? = some (.pass pl cls d at_ tg core ow also st) →
      (stalePasses p q k net)[j]? = some (.pass pl cls d at_ tg core ow also (st || (pl == p && q core)))) ∧
  (∀ (s : State) k p club held owner, s.net[k]? = some (.probeAck p club held owner) →
    let s1 := { s with net := s.net.eraseIdx k }
    exec (.probeAck k) s = .next (if held = true ∨ s.clubHolds p club = true ∨ passComing p club s1.net = true then s1
      else { s1 with directory := s.directory.filter (· != dirKey p club) }).tick) ∧
  (∀ (s : State) k p cls data at_ target core owner also stale,
    s.net[k]? = some (.pass p cls data at_ target core owner also stale) →
    let gone := s.net.eraseIdx k
    let old := stale || ownNotice p core (s.net.drop (k + 1))
    let refused := exec (.passArrival k) s = .next ({ s with net := gone ++ [.passOutcome owner also true] } : State).tick
    let installed := fun (st : LineState) => ∃ u l, exec (.passArrival k) s = .next (State.tick u) ∧
      (∃ old, Superseding gone old ∧ u.net = old ++ [.passOutcome owner also false]) ∧ MemAfter s.l1 .dev s.mem u.mem ∧ l ∈ u.l1 ∧ l.core = core ∧ l.place = p ∧
      l.st = st ∧ (s.flights core p = [] → l.data = data) ∧ ∀ x ∈ u.l1, x = l ∨ x ∈ s.l1
    (s.runsTeam owner.task target core = false → refused) ∧
    (s.runsTeam owner.task target core = true → (old = true ∨ s.lineHeld p = true) →
      exec (.passArrival k) s = .next ({ s with net := gone ++ [.passOutcome owner also false] } : State).tick) ∧
    (s.runsTeam owner.task target core = true → old = false → s.lineHeld p = false →
      (∀ l, s.l1At core p = some l → l.core = core → l.place = p → installed l.st) ∧
      (s.l1At core p = none → p = p.line → if 32 ≤ s.passCount core ∨ s.filterFull core p = true then refused else installed .p))) ∧
  (∀ (s : State) core p, s.filterFull core p = true →
    16 ≤ ((s.l1.filter fun l => l.core / 4 == core / 4).map (·.place)).dedup.length ∧
      ∀ l ∈ s.l1, l.core / 4 = core / 4 → l.place ≠ p.line) ∧
  (∀ (s : State) k owner also, s.net[k]? = some (.passOutcome owner also false) →
    exec (.passOutcome k) s = .next ({ s with net := s.net.eraseIdx k } : State).tick) ∧
  (∀ (s : State) k owner also tm, s.net[k]? = some (.passOutcome owner also true) → s.team? owner.task owner.team = some tm →
    ∃ u tm', exec (.passOutcome k) s = .next (State.tick u) ∧ u.team? owner.task owner.team = some tm' ∧
      tm' = { tm with passref := tm.passref + 1, refused := tm.refusedIn s.clk + 1, refusedAt := s.clk })

/-- R316, R317, R355, R356, R268, R375: the answers of other devices to this one's requests, the requests of remote
initiators, and the host's memory traffic. Another device's answers and hints are free, and the tests of a request and of the
bench are the model's readings (log entries 23, 27, 28 and 29), as are what a refused write cuts off behind it and the order in which the
host acknowledges writes (log entry 66). -/
def Obligations.RemoteMessages : Prop :=
  (∀ (s : State) k owner d q at_, s.net[k]? = some (.remote owner d q .sent at_) →
    let s1 : State := { s with net := s.net.eraseIdx k }
    let next := fun (p : Place) => ({ s1 with l2 := s.l2.filter fun l => l.place != p.line } : State)
    (∀ w, q = .store w → w.cls ≠ .pv → w.copy = none → exec (.remoteWriteAck k) s = .next (next w.place).settle.tick) ∧
    (∀ w id r, q = .store w → w.cls ≠ .pv → w.copy = some id → (s.copies.find? fun x => x.id == id) = some r →
      exec (.remoteWriteAck k) s = .next ((next w.place).endCopy r (if r.src = .dropped then 1 else 0)).settle.tick) ∧
    (∀ ow p cls op dst how, q = .atom ow p cls op dst how → cls ≠ .pv → how.acq = none → how.silent = false →
      ∃ bs, bs.length = op.size ∧ exec (.remoteWriteAck k) s =
        .next ({ next p with net := (next p).net ++ [.load owner (.regs dst op.width) bs] } : State).settle.tick) ∧
    (∀ h, exec (.refusal k (.hint h)) s = .next ({ s with net := s.net.set k (.remote owner d q (.refused h) s.clk) } : State).tick) ∧
    (∀ chain, owner.chain = some chain →
      exec (.refusal k .never) s = .next (s1.refuseUnit chain 6).settle.tick ∧
      exec (.refusal k .cls) s = .next (s1.refuseUnit chain 7).settle.tick) ∧
    (owner.chain = none → s.copyOf q = none →
      exec (.refusal k .never) s = .next ((s1.cutBehind owner q).endTaskLate owner causeRemote 0 q.via).settle.tick ∧
      exec (.refusal k .cls) s = .next ((s1.cutBehind owner q).endTaskLate owner causeAlias 0 q.via).settle.tick) ∧
    (∀ w id r, owner.chain = none → q = .store w → w.copy = some id → (s.copies.find? fun x => x.id == id) = some r →
      exec (.refusal k .never) s = .next (s1.endCopy r 0x12).settle.tick ∧
      exec (.refusal k .cls) s = .next (s1.endCopy r 0x11).settle.tick)) ∧
  (∀ (s : State) chain status, s.refuseUnit chain status = match s.collOf chain with
    | some c => if c.live then s.failColl c status else s.unitFailed chain
    | none => s.unitFailed chain) ∧
  (∀ (s : State) k owner d q at_, s.net[k]? = some (.remote owner d q .waits at_) →
    exec (.retryResend k) s = if s.waitsAtSource owner q (s.net.take k) then .next s
      else .next ({ s with net := s.net.set k (.remote owner d q .sent s.clk) } : State).tick) ∧
  (∀ (s : State) owner q before p d q' st at_ x, q.place? = some p → .remote owner d q' st at_ ∈ before → q'.place? = some x →
    x.line = p.line → s.waitsAtSource owner q before = true) ∧
  (∀ (s : State) owner cause reason (v : Via) tk pc, s.task? owner.task = some tk → tk.phase = .live → cause < 256 → reason < 256 →
    v.pc = some pc → pc < 2 ^ 57 →
    ∃ t, (s.endTaskLate owner cause reason v).task? owner.task = some t ∧ t.stopped = true ∧ bitsNat t.fault 0 8 = cause ∧
      bitsNat t.fault 8 8 = reason ∧ bitsNat t.fault 64 57 = pc) ∧
  (∀ (s : State) k owner d q h at_, s.net[k]? = some (.remote owner d q (.refused h) at_) →
    exec (.retryResend k) s = if at_ + (h.toNat + 1) * 256 ≤ s.clk then
        .next ({ s with net := s.net.set k (.remote owner d q .sent s.clk) } : State).tick
      else .next s) ∧
  (∀ (s : State) q, s.ready = true → reqOk q = true →
    let i : Instr := if q.kind = .write then .remoteWrite q else .remoteRequest q
    let replied := fun (u : State) a => ({ u with replies := s.replies ++ [{ source := q.source, va := q.va, answer := a }] } : State).tick
    match s.admission q with
    | .ok x => (∀ c, s.cellAt (lineBase x.place.addr) = some c → q.kind = .aacc ∧ c.gath = false) → x.place.space = .dev →
      ∃ u a, exec i s = .next (replied u (.done a)) ∧ u.hostMem = s.hostMem ∧
        (q.kind = .write → a = [] ∧ ∀ n, Memory.read u.mem n =
          if x.place.addr ≤ n ∧ n < x.place.addr + q.data.length then q.data.getD (n - x.place.addr) 0 else Memory.read s.mem n) ∧
        (q.kind = .read → a = Memory.bytes s.mem x.place.addr q.len ∧ u.mem = s.mem) ∧
        (q.kind = .atomic ∨ q.kind = .cas →
          let r := reqAtom q
          a = Memory.bytes s.mem x.place.addr r.size ∧ u.mem = Memory.put s.mem x.place.addr
            (leBytes r.size (r.new (Memory.nat s.mem x.place.addr r.size)))) ∧
        (q.kind = .aacc → a = [] ∧ u.mem = s.mem) ∧
        (q.kind = .ldaccZero → a = cellBytes (cellOf (Memory.bytes s.mem x.place.addr 128)) ∧
          u.mem = Memory.put s.mem x.place.addr (cellBytes Acc.zero))
    | .bench => ∃ u, exec i s = .next (replied u (.done [])) ∧ u.benchOf q.ctx = s.benchOf q.ctx ++ [.write q] ∧ u.mem = s.mem
    | .retry => ∃ h, exec i s = .next (replied s (.retry h))
    | .unmapped =>
      let told := fun (x : Nat × Nat × Bool) => x.1 = q.ctx ∧ x.2.1 = q.va.toNat / 65536
      ∃ u a, exec i s = .next (replied u a) ∧ u = { s with residNotices := u.residNotices } ∧ (a = .refused ∨ ∃ h, a = .retry h) ∧
        ((∀ x ∈ s.residNotices, ¬told x) → u.residNotices = s.residNotices ++ [(q.ctx, q.va.toNat / 65536, false)] ∧
          ∃ h, a = .retry h) ∧
        ((∃ x ∈ s.residNotices, told x) → (∀ x ∈ s.residNotices, told x → x.2.2 = true) → u = s ∧ a = .refused)
    | .refused => exec i s = .next (replied s .refused)
    | .aliasing => exec i s = .next (replied s .aliasing)) ∧
  (∀ (s : State) q, s.benched q.ctx = true →
    (q.kind = .write → s.benchRoom q.ctx (.write q) = true → s.admission q = .bench) ∧
    (q.kind = .write → s.benchRoom q.ctx (.write q) = false → s.admission q = .retry) ∧ (q.kind ≠ .write → s.admission q = .retry)) ∧
  (∀ (s : State) q x, s.benched q.ctx = false → s.walkXlat q.ctx q.va.toNat = .ok x → x.mig = false →
    (q.ctx, q.va.toNat / 65536) ∉ s.heldPages →
    (reqWrites q = true → x.canWrite = false → s.admission q = .refused) ∧
    (x.place.space = .dev → x.cls ≠ .pv → x.cls ≠ .ord → (reqWrites q = true → x.canWrite = true) →
      x.place.addr / 128 * 128 + 128 ≤ 2 ^ 40 → s.tagDiffers x.place (reqCls q) = false →
        s.admission q = if s.cellRoom (x.place.addr / 128 * 128) then .ok x else .retry)) ∧
  (∀ (s : State) pa data, pa % 128 + data.length ≤ 128 →
    let line : Place := { space := .host, addr := pa / 128 * 128 }
    let u := s.cutWs { space := .host, addr := pa } data.length fun _ => true
    exec (.hostSnoop pa data) s = .next ({ u with hostMem := Memory.put s.hostMem pa data, l1 := s.l1.filter (fun l => l.place != line),
                                                  l2 := s.l2.filter fun l => l.place != line } : State).tick) ∧
  (∀ (s : State) pa data, s.ready = true → inWindow pa data.length = true → pa % 128 + data.length ≤ 128 → data ≠ [] →
    s.cellAt (pa / 128 * 128) = none → s.cellRoom (pa / 128 * 128) = true →
      ∃ u, exec (.hostStore pa data) s = .next (State.tick u) ∧ u.mem = Memory.put s.mem pa data ∧ u.hostMem = s.hostMem ∧
        u.teams = s.teams ∧ ∀ l, l ≠ pa / 128 * 128 → (l ∈ u.hostHeld ↔ l ∈ s.hostHeld)) ∧
  (∀ (s : State) pa, s.ready = true → inWindow pa 1 = true → s.cellAt (pa / 128 * 128) = none → s.cellRoom (pa / 128 * 128) = true →
    ∃ u, exec (.hostStore pa []) s = .next (State.tick u) ∧ u = { s with hostHeld := u.hostHeld }) ∧
  (∀ (s : State) k owner a bs, s.net[k]? = some (.hostWrite owner a bs) →
    (hostBefore a (s.net.take k) = true → exec (.hostWriteAcknowledgement k) s = .next s) ∧
    (hostBefore a (s.net.take k) = false → exec (.hostWriteAcknowledgement k) s =
      .next ({ s with net := s.net.eraseIdx k, hostMem := Memory.put s.hostMem a bs } : State).settle.tick)) ∧
  (∀ (s : State) k owner line, s.net[k]? = some (.backInval owner line) →
    exec (.backInvalidationResponse k) s = .next ({ s with net := s.net.eraseIdx k,
                                                           hostHeld := s.hostHeld.filter (· != line) } : State).settle.tick)

/-- R343, R344, R364, R367 to R374: walks, class changes, shootdowns, migrations, and the granting and revoking of leases. The
two halves of a class change and a migration, and the bind record of a lease, are the model's (log entries 30 and 31). -/
def Obligations.PageEvents : Prop :=
  (∀ (s : State) core ctx (va : BitVec 57) e base size, core < 256 → s.walk ctx va.toNat = .leaf e base size →
    (∀ l ∈ s.ltb, ¬(l.core = core ∧ l.ctx = ctx ∧ l.page = va.toNat / 65536)) →
      let entry : LtbEntry := { core := core, ctx := ctx, page := va.toNat / 65536, pte := e,
                                base := base + va.toNat % 2 ^ size / 65536 * 65536 }
      exec (.pageWalk core ctx va) s = .next ({ s with ltb := entry :: s.ltb } : State).tick) ∧
  (∀ (s : State) ctx (va : BitVec 57) (cls : BitVec 3) l, s.ready = true → s.dutyResid = false → s.command = none →
    s.leaf? ctx va.toNat = some l → cls.toNat ≤ 4 → (l.inWindow = true → cls ≠ 2 ∧ cls ≠ 4) → pteMig l.pte = false →
    (s.leafHeld l = false → s.ordHolds l = false → (cls = 2 → s.ordReaches l = false) → ∃ e, pteClass e = cls.toNat ∧ (∀ j, j < 4 ∨ 7 ≤ j → e.getLsbD j = l.pte.getLsbD j) ∧
      exec (.classChange ctx va cls) s = .next ((((s.writePte l e).shootLeaf l).holdLeaf l).drainPage l).tick) ∧
    (s.leafHeld l = true → pteClass l.pte = cls.toNat → s.quiet l = true →
      exec (.classChange ctx va cls) s = .next ((s.dropPage l).wakeHeld ctx l.pages).tick)) ∧
  (∀ (s : State) ctx va len, s.ready = true → s.command = none → 0 < len →
    let shot := fun (page : Nat) => va / 65536 ≤ page ∧ page ≤ (va + len - 1) / 65536
    ∃ u, exec (.translationShootdown ctx va len) s = .next (State.tick u) ∧ u = { s with ltb := u.ltb, revoked := u.revoked } ∧
      (∀ x, x ∈ u.ltb ↔ x ∈ s.ltb ∧ ¬(x.ctx = ctx ∧ shot x.page)) ∧ (∀ x ∈ s.revoked, x ∈ u.revoked) ∧
      (s.revoking = [] → u.revoked = s.revoked) ∧
      ∀ lease old r page, (lease, old) ∈ s.revoking → ctx ∈ s.leaseCtxs lease → r ∈ s.removedRanges lease old → r.1 ≤ page →
        page < r.1 + r.2 → shot page → u.leaseGone lease page = .revoked) ∧
  (∀ (s : State) ctx (va : BitVec 57) pa l, s.ready = true → s.leaf? ctx va.toNat = some l →
    (s.dutyMigr = false ∨ (ctx, l.va / 65536) ∈ s.moves) → pteSpace l.pte = .dev → s.frameOk pa l.size = true →
    (pteMig l.pte = false → s.leafHeld l = false → s.ordHolds l = false →
      ∃ e, pteMig e = true ∧ (∀ j, j ≠ 7 → e.getLsbD j = l.pte.getLsbD j) ∧
        exec (.migration ctx va pa) s = .next ({ (((s.writePte l e).shootLeaf l).holdLeaf l).drainPage l with
          moves := (ctx, l.va / 65536) :: s.moves } : State).tick) ∧
    (pteMig l.pte = false → s.ordHolds l = true → exec (.migration ctx va pa) s = .next s) ∧
    (pteMig l.pte = true → s.quiet l = false → exec (.migration ctx va pa) s = .next (s.drainPage l).tick) ∧
    (pteMig l.pte = true → s.quiet l = true → ∃ e freed, pteMig e = false ∧ ptePa e = pa / 4096 % 2 ^ 40 * 4096 ∧ pteSpace e = .dev ∧
      (∀ j, j < 7 ∨ j = 10 ∨ j = 11 ∨ j = 22 ∨ j = 23 → e.getLsbD j = l.pte.getLsbD j) ∧
      (∀ f, Sparse.get 0 freed f = if pa / 65536 ≤ f ∧ f < pa / 65536 + 2 ^ (l.size - 16) then 0
        else if f ∈ l.frames then ctx + 1 else Sparse.get 0 s.freed f) ∧
      let d := (s.dropPage l).dropSpan { l.span with base := pa }
      let copied : State := { d with mem := Memory.copyRange d.mem l.base pa (2 ^ l.size), freed := freed }
      exec (.migration ctx va pa) s = .next ({ ((copied.writePte l e).shootLeaf l).wakeHeld ctx l.pages with
        moves := s.moves.erase (ctx, l.va / 65536) } : State).tick)) ∧
  (∀ (m : List Host.Cell) src dst n a, Memory.wf m = true → Memory.read (Memory.copyRange m src dst n) a =
    if dst ≤ a ∧ a < dst + n then Memory.read m (a - dst + src) else Memory.read m a) ∧
  (∀ (s : State) lease, s.ready = true → s.dutyResid = false → lease < 65536 → s.lsdir + 8 * lease + 8 ≤ 2 ^ 40 →
    s.leaseCtxs lease ≠ [] → s.leaseList lease ≠ [] → (∀ c ∈ s.leaseCtxs lease, ∀ r ∈ s.leaseList lease, s.rangeResident c r = true) →
      ∃ u, exec (.leaseGrant lease) s = .next (State.tick u) ∧ (u.leaseEntry lease).getLsbD 63 = true ∧
        (∀ j, j ≠ 63 → (u.leaseEntry lease).getLsbD j = (s.leaseEntry lease).getLsbD j) ∧ ∀ x ∈ u.revoked, x.1 ≠ lease) ∧
  (∀ (s : State) lease ranges, s.ready = true → s.dutyResid = false → lease < 65536 → s.lsdir + 8 * lease + 8 ≤ 2 ^ 40 →
    let a0 : Nat := 16 * bitsNat (s.leaseEntry lease) 4 53
    let rest := ranges.foldl (fun rs r => rs.flatMap (cutRange (bitsNat r 0 41, bitsNat r 56 41))) (s.leaseList lease)
    (∀ a ∈ s.leaseList lease, a.1 + a.2.1 ≤ 2 ^ 41) → a0 + 16 * rest.length ≤ 2 ^ 40 →
    (a0 + 16 * rest.length ≤ s.lsdir + 8 * lease ∨ s.lsdir + 8 * lease + 8 ≤ a0) →
    ∃ u, exec (.leaseRevocation lease ranges) s = .next (State.tick u) ∧ u.teams = s.teams ∧
      (rest = [] → (u.leaseEntry lease).getLsbD 63 = false) ∧ (u.leaseEntry lease).getLsbD 62 = false ∧
      ∀ r ∈ ranges, ∀ a ∈ s.leaseList lease, ∀ page, a.1 ≤ page → page < a.1 + a.2.1 → bitsNat r 0 41 ≤ page →
        page < bitsNat r 0 41 + bitsNat r 56 41 → u.leaseCheck lease page = .revoked)

/-- R252, R256, R258, R259, R261, R263 to R265, R268, R269: what a collective's dequeue, each step of its program, each
message and each reply does. Statuses where the text is silent, the sizes of messages and the bench's replay are the model's
readings (log entries 29, 32 and 63). -/
def Obligations.Collectives : Prop :=
  (∀ (s : State) n bs, let d := s.chain n
    let a := chainAddr d + 128 * (chainDeq d % 2 ^ chainRlog d)
    s.ready = true → chainValid d = true → chainErr d = false → chainKind d = true → chainPending d ≠ 0 →
    (∀ c ∈ s.colls, c.chain ≠ n) → (s.colls.filter fun c => c.die == chainDie d).length < 8 → s.unitHeld (chainCtx d) a 128 = false →
    s.unitCells (chainCtx d) a 128 = [] → s.unitRead (chainCtx d) a 128 = some bs →
      let c := newColl n (chainDie d) a s.clk bs
      ∃ d', chainDeq d' = (chainDeq d + 1) % 2 ^ 32 ∧ (∀ j, j < 320 ∨ 352 ≤ j → d'.getLsbD j = d.getLsbD j) ∧
        let take := fun (c : Coll) =>
          ({ s.setChain n d' with colls := s.colls ++ [c], heldSources := s.heldSources.filter fun x => x.1 != n } : State)
        (∀ c1, s.validColl c = .ok (some c1) → exec (.collectiveDequeue n) s = .next (take c1).tick) ∧
        (s.validColl c = .ok none → exec (.collectiveDequeue n) s = .next ((take c).failColl c 3).tick) ∧
        (∀ k, s.validColl c = .fail k → exec (.collectiveDequeue n) s = .next ((take c).failColl c k).tick)) ∧
  (∀ (s : State) c k, let w := s.unitWrites (unitOwner c.chain) (s.collCtx c) c.repAddr (c.report k)
    s.failColl c k = if s.unitHeld (s.collCtx c) c.repAddr (c.report k).length = true then s.setColl { c with phase := .reporting k }
      else w.1.setColl { c with phase := .ending k w.2 }) ∧
  (∀ (c : Coll) p m c1, c.take p = some (m, c1) → m ∈ c.staging ∧ m.src = p ∧ m.seq = BitVec.ofNat 32 (Sparse.get 0 c.taken p) ∧
    c1 = { c with taken := Sparse.set 0 c.taken p (Sparse.get 0 c.taken p + 1),
                  staging := c.staging.filter fun x => !(x.src == p && x.seq == m.seq) }) ∧
  (∀ (c : Coll) v p ps, (c.take p = none → c.takeLeft v (p :: ps) = (c, { left := p :: ps, val := v })) ∧
    ∀ m c1, c.take p = some (m, c1) → c.takeLeft v (p :: ps) = c1.takeLeft (v.combine (msgChunk m)) ps) ∧
  (∀ (s : State) n c p, let at_ : Nat := Sparse.get 0 c.counters (stCi p)
    let chunk := c.chunkNo p
    let q := fun dst => Sparse.get 0 c.sent dst
    let sends := fun (c : Coll) dst (v : Chunk) (c' : Coll) => ∃ m : CollMsg,
      c' = { c with sent := Sparse.set 0 c.sent dst (q dst + 1), unacked := c.unacked ++ [m] } ∧
      m.collid = c.collid ∧ m.src = c.rank ∧ m.dst = dst ∧ m.chunk = chunk ∧ m.seq = BitVec.ofNat 32 (q dst) ∧ m.cmap = v.cmap ∧
      m.ctx = s.collCtx c ∧ (msgChunk m).vals.length = v.vals.length
    let peer := fun (m : Nat) =>
      (((c.rank : Int) + (p.extractLsb' 112 16).toInt + (p.extractLsb' 104 8).toInt * at_ + m) % (c.n : Int)).toNat
    chunk = (((if stCrm p then (c.rank : Int) else 0) + (p.extractLsb' 88 16).toInt + (p.extractLsb' 80 8).toInt * at_) % (c.nch : Int)).toNat ∧
    (StepAt s n c p 1 → ∀ v, s.chunkVal c (stSbuf p) chunk = .ok v →
      ∃ c', sends c (peer 0) v c' ∧ exec (.send n) s = .next (s.stepped s.clk { c' with
        held := c.held ++ [{ dst := peer 0, seq := BitVec.ofNat 32 (q (peer 0)), buf := stSbuf p, chunk := chunk }] } (c.step + 1))) ∧
    (StepAt s n c p 2 → kindsMeet c p = true →
      let a := c.acc.getD { left := (List.range (stCntm1 p + 1)).map peer, val := c.zeroChunk }
      let r := c.takeLeft a.val a.left
      (a.left ≠ [] → r.2.left = a.left → exec (.recv n) s = .next s) ∧
      (r.2.left ≠ [] → r.2.left.length < a.left.length →
        exec (.recv n) s = .next (s.stepped s.clk { r.1 with acc := some r.2 } c.step)) ∧
      (r.2.left = [] → ∀ v s1 c2, s.withOwn c p r.2.val = .ok v → s.chunkWrite { r.1 with acc := none } p chunk v = .ok (s1, c2) →
        exec (.recv n) s = .next (s1.stepped s.clk c2 (c.step + 1)))) ∧
    (StepAt s n c p 3 → kindsMeet c p = true → ∀ m c1 v, c.take (peer 0) = some (m, c1) → s.withOwn c p (msgChunk m) = .ok v →
      let opeer := (((c.rank : Int) + (p.extractLsb' 48 16).toInt + (p.extractLsb' 104 8).toInt * at_) % (c.n : Int)).toNat
      ∃ c2, sends c1 opeer v c2 ∧ (2 ^ 21 < (s.setColl c2).stagingUsed c.die → exec (.rrs n) s = .next s) ∧
        ((s.setColl c2).stagingUsed c.die ≤ 2 ^ 21 → stW p = false → exec (.rrs n) s = .next (s.stepped s.clk c2 (c.step + 1))) ∧
        ((s.setColl c2).stagingUsed c.die ≤ 2 ^ 21 → stW p = true → ∀ s1 c3, s.chunkWrite c2 p chunk v = .ok (s1, c3) →
          exec (.rrs n) s = .next (s1.stepped s.clk c3 (c.step + 1)))) ∧
    (StepAt s n c p 4 → ∀ v s1 c1, s.chunkVal c (stSbuf p) chunk = .ok v → s.chunkWrite c p chunk v = .ok (s1, c1) →
      exec (.copyStep n) s = .next (s1.stepped s.clk c1 (c.step + 1))) ∧
    (StepAt s n c p 5 → exec (.waitStep n) s = .next (if c.unacked = [] then s.stepped s.clk c (c.step + 1) else s)) ∧
    (StepAt s n c p 6 → ∀ q, s.readStep c (stTgt p) = .ok q → stOpc q = 7 → stTgt q = c.step →
      let lim := (if stLnm p then (c.n : Int) else 0) + (p.extractLsb' 48 16).toInt
      exec (.loopb n) s = .next (s.stepped s.clk { c with counters := Sparse.set 0 c.counters (stCi p) 0 }
        (if lim ≤ 0 then stTgt p + 1 else c.step + 1))) ∧
    (StepAt s n c p 7 → ∀ q, s.readStep c (stTgt p) = .ok q → stOpc q = 6 → stTgt q = c.step →
      let lim := (if stLnm q then (c.n : Int) else 0) + (q.extractLsb' 48 16).toInt
      let k : Nat := (at_ + 1) % 65536
      exec (.loope n) s = .next (s.stepped s.clk { c with counters := Sparse.set 0 c.counters (stCi p) k }
        (if (k : Int) < lim then stTgt p + 1 else c.step + 1))) ∧
    (StepAt s n c p 0 → c.doneSent = false → exec (.endStep n) s = .next (s.stepped s.clk { c with doneSent := true } c.step)) ∧
    (StepAt s n c p 0 → c.doneSent = true → (∀ r < c.n, r = c.rank ∨ r ∈ c.doneFrom) →
      exec (.endStep n) s = .next (s.failColl c 0).tick) ∧
    (StepAt s n c p 0 → c.doneSent = true → (∃ r < c.n, r ≠ c.rank ∧ r ∉ c.doneFrom) → exec (.endStep n) s = .next s)) ∧
  (∀ (s : State) n c k dropped, s.collOf n = some c → c.phase = .ending k dropped →
    let d := s.chain c.chain
    exec (.endStep n) s =
      .next (if s.engineQuiet c ∧ s.unitHeld (chainCtx d) (chainCw d) 8 = false then (s.endColl c k dropped).tick else s)) ∧
  (∀ (s : State) n c k, s.collOf n = some c → c.phase = .reporting k → exec (.endStep n) s = .next (s.failColl c k).tick) ∧
  (∀ (s : State) m, s.ready = true →
    let placed := fun (u : State) a => ({ u with replies := s.replies ++ [{ source := m.src, va := 0, answer := a }] } : State).tick
    let retried := ∃ h u, exec (.collectiveMessage m) s = .next (State.tick u) ∧
      u = { s with colls := u.colls, replies := s.replies ++ [{ source := m.src, va := 0, answer := .retry h }] } ∧
      ((∀ c ∈ s.colls, m ∉ c.unacked) → u.colls = s.colls)
    (m.dstIncarn ≠ s.devIncarn → exec (.collectiveMessage m) s = .next (placed s .refused)) ∧
    (m.dstIncarn = s.devIncarn → s.benched m.ctx = true →
      (s.benchRoom m.ctx (.msg m) = true →
        exec (.collectiveMessage m) s = .next (placed (s.setBench m.ctx (s.benchOf m.ctx ++ [.msg m])) (.done []))) ∧
      (s.benchRoom m.ctx (.msg m) = false → retried)) ∧
    (m.dstIncarn = s.devIncarn → s.benched m.ctx = false →
      let meets := fun (c : Coll) => c.collid == m.collid && c.rank == m.dst && s.collCtx c == m.ctx && c.live
      (∀ c, (s.colls.find? fun c => meets c && memIncarn (c.member m.src) == m.srcIncarn.toNat && s.throughBowls c m) = some c →
        exec (.collectiveMessage m) s = .next (if s.chunkComing c m then s else (s.sendChunk c m).tick)) ∧
      ((∀ c ∈ s.colls, s.throughBowls c m = false) →
        (s.colls.find? meets = none → retried) ∧
        (∀ c, s.colls.find? meets = some c →
          (memIncarn (c.member m.src) ≠ m.srcIncarn.toNat →
            exec (.collectiveMessage m) s = .next (s.failColl { c with frank := m.src } 1).tick) ∧
          (memIncarn (c.member m.src) = m.srcIncarn.toNat →
            (c.received m.src m.seq = true → exec (.collectiveMessage m) s = .next (placed s (.done []))) ∧
            (c.received m.src m.seq = false → (s.takesNow c m = true ∨ s.stagingRoom c.die m = true) →
              ∃ c', exec (.collectiveMessage m) s = .next (placed (s.setColl c') (.done [])) ∧ c'.chain = c.chain ∧
                c'.staging = c.staging ++ [m] ∧ c'.taken = c.taken ∧ c'.step = c.step ∧ (c.phase = .run → c'.phase = .run) ∧
                (s.takesNow c m = true → c'.phase = .run) ∧ (m.seq ≠ c.expected m.src → c'.phase = c.phase)) ∧
            (c.received m.src m.seq = false → s.takesNow c m = false → s.stagingRoom c.die m = false → retried)))))) ∧
  (∀ (c : Coll) p q, c.received p q = true ↔
    2 ^ 31 ≤ (q - BitVec.ofNat 32 (Sparse.get 0 c.taken p)).toNat ∨ ∃ x ∈ c.staging, x.src = p ∧ x.seq = q) ∧
  (∀ (s : State) k n m, s.unackedSends[k]? = some (n, m) →
    let waits : Prop := ∃ c p, s.collOf n = some c ∧ s.readStep c c.step = .ok p ∧ stOpc p = 5 ∧ c.unacked ≠ []
    ∃ u, exec (.sendAcknowledgement k) s = .next (State.tick u) ∧ u = { s with colls := u.colls } ∧
      List.Forall₂ (fun (a b : Coll) =>
        (a.chain ≠ n → b = a) ∧
        (a.chain = n → b.unacked = a.unacked.erase m ∧ b.step = a.step ∧ b.sent = a.sent ∧ b.staging = a.staging ∧
          (waits → a.phase = .stall → b.phase = .run) ∧ ((¬waits ∨ a.phase ≠ .stall) → b.phase = a.phase))) s.colls u.colls) ∧
  (∀ (s : State) n rank incarn c, s.collOf n = some c → rank < c.n → rank ≠ c.rank → rank ∉ c.doneFrom → c.live = true →
    (memIncarn (c.member rank) ≠ incarn.toNat →
      exec (.doneMsg n { rank := rank, incarn := incarn }) s = .next (s.failColl { c with frank := rank } 1).tick) ∧
    (memIncarn (c.member rank) = incarn.toNat → ∃ c', exec (.doneMsg n { rank := rank, incarn := incarn }) s = .next (s.setColl c').tick ∧ c'.doneFrom = rank :: c.doneFrom ∧ c'.chain = c.chain ∧
      c'.step = c.step ∧ (c.phase = .run → c'.phase = .run) ∧
      (∀ p, s.readStep c c.step = .ok p → stOpc p = 0 → c.doneSent = true → c'.phase = .run))) ∧
  (∀ (s : State) n c, s.collOf n = some c → c.phase = .run → c.waitSince + 2 ^ c.tmo < s.clk → s.collWaits c = true →
    exec (.stall n) s = .next ({ s.setColl { c with phase := .stall } with
      stallNotices := s.stallNotices ++ [(n, c.collid, c.step)] } : State).tick) ∧
  (∀ (s : State) n rank c, s.collOf n = some c → c.live = true → rank < c.n → c.host = false → s.dutyColl = false →
    exec (.memberFailed n rank) s = .next (s.failColl { c with frank := rank } 1).tick) ∧
  (∀ (s : State) j n m c, s.unackedSends[j]? = some (n, m) → s.collOf n = some c → c.live = true →
    let k := s.net.length + j
    (∀ h, exec (.refusal k (.hint h)) s = .next (s.setColl { c with
      parked := (c.parked.filter fun x => !(x.1 == m.dst && x.2.1 == m.seq)) ++ [(m.dst, m.seq, s.clk + (h.toNat + 1) * 256)] }).tick) ∧
    exec (.refusal k .never) s = .next (s.failColl c 6).tick ∧ exec (.refusal k .cls) s = .next (s.failColl c 7).tick ∧
    exec (.refusal k .stale) s = .next (s.failColl { c with frank := m.dst } 1).tick ∧
    ((∀ x ∈ c.parked, ¬(x.1 = m.dst ∧ x.2.1 = m.seq ∧ x.2.2 ≤ s.clk)) → exec (.retryResend k) s = .next s.tick) ∧
    ((∃ x ∈ c.parked, x.1 = m.dst ∧ x.2.1 = m.seq ∧ x.2.2 ≤ s.clk) → ∃ c', exec (.retryResend k) s = .next (s.setColl c').tick ∧
      c'.chain = c.chain ∧ c'.parked = (c.parked.filter fun x => !(x.1 == m.dst && x.2.1 == m.seq)) ∧
      c'.unacked.map (·.seq) = c.unacked.map (·.seq))) ∧
  (∀ (s : State) ctx rest, s.ready = true → s.scheduled ctx = true →
    (∀ q y, s.benchOf ctx = .write q :: rest →
      ({ s with benches := s.benches.filter fun b => b.ctx != ctx } : State).admission q = .ok y →
      s.cellAt (lineBase y.place.addr) = none → y.place.space = .dev →
        ∃ u, exec (.benchReplay ctx) s = .next (State.tick u) ∧ u.benchOf ctx = rest ∧ u.mem = Memory.put s.mem y.place.addr q.data) ∧
    (∀ m u, s.benchOf ctx = .msg m :: rest → (s.setBench ctx rest).collTake m = some u →
      exec (.benchReplay ctx) s = .next u.tick))

/-- R404 to R408: corrected and uncorrected errors, the retirement of a page, and a league's leaving, rejoining and loss. An
entry of the error log is free, and what a retirement unmaps is the model's reading (log entries 33 and 44). -/
def Obligations.ErrorsAndUnits : Prop :=
  (∀ (s : State) site, ∃ e, exec (.correctableError site) s = .next ({ s with errorLog := s.errorLog ++ [e] } : State).tick) ∧
  (∀ (s : State) task team reason tk, s.task? task = some tk → tk.phase = .live → reason < 256 →
    ∃ t, (s.endEcc task team reason).task? task = some t ∧ t.stopped = true ∧ bitsNat t.fault 0 8 = causeEcc ∧
      bitsNat t.fault 8 8 = reason) ∧
  (∀ (s : State) site, let line := (devPlace site.addr).line
    let held := fun (l : L1Line) => some l.core == s.coreOf site.task site.team && l.place == line
    let chain : Nat := match s.task? site.task with
      | some t => t.chain
      | none => 0
    let ends := fun (u : State) reason => ∃ e,
      exec (.uncorrectableError site) s = .next ((u.endEcc site.task site.team reason).logError e site.team chain).settle.tick
    (site.consumed = true → (site.array = .vectorFile → ends s 1) ∧ (site.array = .scalarFile → ends s 2) ∧
      (site.array = .accFile → ends s 3) ∧ (site.array = .scratchpad → ends s 4) ∧
      (site.array = .hbm → (s.task? site.task).isSome = true → ends s 7) ∧ (site.array = .inningBuffer → ends s 8)) ∧
    (∀ l, site.array = .l1 → s.l1.find? held = some l → let u : State := { s with l1 := s.l1.erase l }
      (l.dirty = 0 → exec (.uncorrectableError site) s = .next u.tick) ∧
      (l.dirty ≠ 0 → site.consumed = true → ends u 5) ∧
      (l.dirty ≠ 0 → site.consumed = false → exec (.uncorrectableError site) s = .next (u.retireFrame site.addr).settle.tick)) ∧
    (site.array = .l2 → s.cellAt line.addr = none → (∀ x ∈ s.partials, x.line ≠ line.addr) →
      (site.dirty = false → let kept := s.l2.filter fun x => x.place != line
        exec (.uncorrectableError site) s =
          .next ({ s with l2 := kept, replicas := s.replicas.filter fun x => x.place != line } : State).tick) ∧
      (site.dirty = true → site.consumed = true → ends s 6) ∧
      (site.dirty = true → site.consumed = false → exec (.uncorrectableError site) s = .next (s.retireFrame site.addr).settle.tick)) ∧
    (site.array = .l2 → (s.cellAt line.addr ≠ none ∨ ∃ x ∈ s.partials, x.line = line.addr) →
      exec (.uncorrectableError site) s = .next (s.damageCell line.addr).settle.tick) ∧
    (site.array = .hbm → site.consumed = true → s.task? site.task = none →
      exec (.uncorrectableError site) s = .next ({ s with badLines := line.addr :: s.badLines.erase line.addr } : State).tick) ∧
    (site.array = .hbm → site.consumed = false → exec (.uncorrectableError site) s = .next (s.retireFrame site.addr).settle.tick) ∧
    (∀ c, site.array = .staging → s.collOf site.task = some c → c.live = true →
      exec (.uncorrectableError site) s = .next (s.failColl c 5).tick)) ∧
  (∀ (s : State) e team chain k, s.ringLog = some k → s.ringFree = true → s.heldEvents = [] → team < 2 ^ 16 → chain < 256 →
    let u := s.logError e team chain
    let a : Nat := 128 * bitsNat (s.windowReg 0x58) 7 50 + 128 * ((s.windowReg 0x68).toNat % 2 ^ k)
    u.errorLog = s.errorLog ++ [e] ∧ (u.windowReg 0x68).toNat = ((s.windowReg 0x68).toNat + 1) % 2 ^ 32 ∧ u.mem = s.mem ∧
      Memory.nat u.hostMem a 4 = 3 ∧ Memory.nat u.hostMem (a + 4) 4 = team ∧ Memory.nat u.hostMem (a + 8) 8 = chain ∧
      Memory.nat u.hostMem (a + 64) 64 = e.toNat) ∧
  (∀ (s : State) pa, pa < 2 ^ 40 → ∃ u : State, exec (.pageRetire pa) s = .next u.settle.tick ∧
    u.retired = s.retired ++ [pa / 65536] ∧ u.errorLog.length = s.errorLog.length + 1) ∧
  (∀ (s : State) league, league < 16 → s.ready = true →
    ((∃ k < 16, rowCstate (s.row (16 * league + k)) ≠ 2 ∧ rowCstate (s.row (16 * league + k)) ≠ 1) →
      ∃ u, exec (.unitOutOfService league) s = .next (State.tick u) ∧ u = { s with remap := u.remap } ∧ ∀ n,
        if n / 16 = league ∧ rowCstate (s.row n) ≠ 1 then rowCstate (u.row n) = 2 ∧ rowValid (u.row n) = false else u.row n = s.row n) ∧
    ((∀ k < 16, rowCstate (s.row (16 * league + k)) = 2 ∨ rowCstate (s.row (16 * league + k)) = 1) →
      ((∃ tm ∈ s.teams, tm.core / 16 = league) ∨ s.leavesOf (frameIn league) ≠ []) →
      exec (.unitOutOfService league) s = .next s)) ∧
  (∀ (s : State) league, league < 16 → s.ready = true → (∃ k < 16, rowCstate (s.row (16 * league + k)) = 2) → s.colls = [] →
    ∃ u, exec (.unitRejoin league) s = .next (State.tick u) ∧ u.mem = s.mem ∧ u.teams = s.teams ∧
      Sparse.get 0 u.incarn league = Sparse.get 0 s.incarn league + 1 ∧ Sparse.get 0 u.incarn 64 = Sparse.get 0 s.incarn 64 + 1 ∧
      (∀ n, n / 16 = league → rowCstate (s.row n) ≠ 1 → rowCstate (u.row n) = 0) ∧ league ∉ u.downUnits ∧
      (∀ l ∈ u.l1, l.core / 16 ≠ league) ∧ (∀ l ∈ u.l2, homeSliceOf l.place / 4 ≠ league) ∧ ∀ r ∈ u.replicas, r.club / 4 ≠ league) ∧
  (∀ (s : State) league, league < 16 →
    ∃ u : State, exec (.unitLoss league) s = .next u.settle.tick ∧ league ∈ u.lostUnits ∧ league ∈ u.downUnits ∧
      Sparse.get 0 u.incarn 64 = Sparse.get 0 s.incarn 64 + 1 ∧ (∀ l ∈ u.l1, l.core / 16 ≠ league) ∧
      ∀ tm ∈ s.teams, tm.core / 16 = league → ∀ tk, u.task? tm.task = some tk → tk.stopped = true)

/-- R410 to R414, R416, R417, R423: the host's writes of the register window and its management commands. Held events, the two
halves of a COMMIT and writes before READY are the model's readings (log entries 42 and 43). -/
def Obligations.HostRegisters : Prop :=
  (∀ (s : State) v, ∃ w : SeedWrite, exec (.seed v) s = .next ({ s.setWindow 0x10 v with seedWrite := some w } : State).tick ∧
    w.clk = s.clk ∧ (∀ x ∈ s.seedWrite, x.clk = s.clk → w.old = x.old ∧ w.writes = x.writes ++ [{ val := v, rung := [] }]) ∧
    ((∀ x ∈ s.seedWrite, x.clk ≠ s.clk) → w.old = s.windowReg 0x10 ∧ w.writes = [{ val := v, rung := [] }])) ∧
  (∀ (s : State) (v : BitVec 64), v.toNat < 32 → (s.ide = true ∨ v &&& ~~~s.windowReg 0x18 = 0) →
    exec (.duty v) s = .next (s.setWindow 0x18 v).tick) ∧
  (∀ (s : State) (v : BitVec 64), (32 ≤ v.toNat ∨ (s.ide = false ∧ v &&& ~~~s.windowReg 0x18 ≠ 0)) → exec (.duty v) s = .next s.tick) ∧
  (∀ (s : State) v, exec (.podid v) s = .next (if s.portsBegun then s
    else { s.setWindow 0x38 (BitVec.ofNat 64 (v.toNat % 1024)) with podWritten := true }).tick) ∧
  (∀ (s : State) v, let base : BitVec 64 := BitVec.ofNat 64 (v.toNat / 2 ^ 7 % 2 ^ 50 * 128 + v.toNat % 16)
    (s.heldEvents = [] → exec (.evqbase v) s = .next (s.setWindow 0x58 base).tick ∧
      exec (.evqhead v) s = .next (s.setWindow 0x60 (BitVec.ofNat 64 (v.toNat % 2 ^ 32))).tick) ∧
    (s.heldEvents ≠ [] → ∃ ms, exec (.evqbase v) s = .next ({ (s.setWindow 0x58 base).setWindow 0x68 (s.windowReg 0x60) with
      heldEvents := [], net := s.net ++ ms } : State).tick)) ∧
  (∀ (s : State) v, exec (.plim v) s = .next (if 2000 ≤ v.toNat ∧ v.toNat ≤ 8000 then s.setWindow 0x70 v else s).tick) ∧
  (∀ (s : State) v, let f := s.firmware
    let k := bitsNat v 8 24
    let shows := fun (u : State) status => (∀ j, j < 4 ∨ 8 ≤ j → (u.windowReg 0x80).getLsbD j = v.getLsbD j) ∧
      bitsNat (u.windowReg 0x80) 4 4 = status % 16 ∧ ∀ off, off ≠ 0x80 → u.windowReg off = s.windowReg off
    (v.getLsbD 0 = true → (s.dstate = .await ∨ (s.dstate = .ready ∧ ∀ x ∈ s.slots, x.2.state = .free)) →
      let f1 := { f with control := v, opened := true, total := bitsNat v 32 32, staging := [] }
      ∃ u, exec (.fwOpen v) s = .next (State.tick u) ∧ shows u f.status ∧ u = { s with window := u.window, firmware := f1 }) ∧
    (v.toNat % 4 = 0 → f.opened = true → f.status ≠ 2 → 4096 * k < f.total → f.total ≤ 2 ^ 23 →
      ∃ u st, exec (.fwPiece v) s = .next (State.tick u) ∧ shows u f.status ∧
        u = { s with window := u.window, firmware := { f with control := v, staging := st } } ∧
        (∀ j < 4096, st.getD (4096 * k + j) 0 = Memory.read f.window j) ∧
        ∀ j, j < 4096 * k ∨ 4096 * (k + 1) ≤ j → st.getD j 0 = f.staging.getD j 0) ∧
    (v.getLsbD 1 = true → v.getLsbD 0 = false → f.opened = true → f.status ≠ 2 →
      ∃ u, exec (.fwCommit v) s = .next (State.tick u) ∧ shows u 2 ∧
        u = { s with window := u.window, firmware := { f with control := v, status := 2, valid := false } }) ∧
    (f.opened = true → f.status = 2 → 4096 ≤ f.total → f.total ≤ f.staging.length → f.total ≤ 2 ^ 23 →
      let whole : Firmware := { f with image := f.staging.take f.total, valid := true, opened := false, staging := [], status := 0 }
      ∃ u, exec (.fwCommit v) s = .next (State.tick u) ∧ u.firmware = whole ∧ bitsNat (u.windowReg 0x80) 4 4 = 0 ∧
        u.dstate = if s.dstate = .await then .rom else s.dstate)) ∧
  (∀ (s : State) v, s.ready = true → s.command = none →
    let b := s.mcmdBuf
    let opc := v.toNat % 256
    (opc = 1 → s.dutySched = true → let r := s.bindCommand (bitsNat v 8 8) b
      ∃ u : State, exec (.bindw v) s = .next u.settle.tick ∧ Commanded u 1 r.2 ∧ u.slots = r.1.slots ∧ u.tasks = r.1.tasks) ∧
    (opc = 2 → s.dutySched = true → let k : Nat := 64 * bitsNat v 16 2 + bitsNat v 24 6
      let row := b.extractLsb' 0 64
      ((k / 16 ∉ s.downUnits ∨ rowCstate row ≠ 0) → ∃ u : State, exec (.remapw v) s = .next u.settle.tick ∧ Commanded u 2 0 ∧
        ∀ n, u.row n = if n = k then row else s.row n) ∧
      (k / 16 ∈ s.downUnits → rowCstate row = 0 →
        ∃ u : State, exec (.remapw v) s = .next u.settle.tick ∧ Commanded u 2 2 ∧ u.remap = s.remap)) ∧
    (opc = 3 → s.dutySched = true → let r := s.writeChain (bitsNat v 8 8) b
      ∃ u : State, exec (.chainw v) s = .next u.settle.tick ∧ Commanded u 3 r.2 ∧ u.mem = r.1.mem) ∧
    (opc = 4 → s.dutyResid = true → bitsNat b 64 64 + bitsNat b 128 64 ≤ 2 ^ 57 →
      ∃ u : State, exec (.xlshoot v) s = .next u.settle.tick ∧ Accepted u 4 ∧ u.command = some (v, b)) ∧
    (opc = 5 → s.dutyResid = true → bitsNat b 192 8 ≤ 4 → bitsNat b 64 64 < 2 ^ 57 →
      (s.leaf? (bitsNat b 0 16) (bitsNat b 64 64)).isSome = true →
      ∃ u : State, exec (.classchg v) s = .next u.settle.tick ∧ Accepted u 5 ∧ u.command = some (v, b)) ∧
    (opc = 6 → s.dutyMigr = true → ∀ l, s.leaf? (bitsNat b 0 16) (bitsNat b 64 64) = some l →
      (pteMig l.pte = true → ∃ u : State, exec (.migdone v) s = .next u.settle.tick ∧ Commanded u 6 2 ∧ u.heldPages = s.heldPages) ∧
      (pteMig l.pte = false →
        ∃ u : State, exec (.migdone v) s = .next u.settle.tick ∧ Commanded u 6 0 ∧ ∀ n ∈ l.pages, (l.ctx, n) ∉ u.heldPages)) ∧
    (opc = 7 → (s.dutyColl = true ∨ ∃ c ∈ s.colls, c.collid.toNat = bitsNat b 0 32 ∧ c.host = true) → let rank := bitsNat b 32 16
      let named := fun (c : Coll) => c.collid.toNat = bitsNat b 0 32 ∧ c.live = true ∧ rank < c.n
      ((∃ c ∈ s.colls, named c) → ∃ u : State, exec (.memfail v) s = .next u.settle.tick ∧ Commanded u 7 0 ∧
        (∀ c ∈ u.colls, ¬named c) ∧ ∀ c ∈ s.colls, named c → ∃ c' ∈ u.colls, c'.chain = c.chain ∧ c'.frank = rank) ∧
      ((∀ c ∈ s.colls, ¬named c) → ∃ u : State, exec (.memfail v) s = .next u.settle.tick ∧ Commanded u 7 3 ∧ u.colls = s.colls)) ∧
    (opc = 8 → (s.dutyResid = true ∨ s.dutyMigr = true) → s.commandWritten = false → let a := bitsNat b 0 64
      let n := bitsNat b 64 8
      let ws := pwriteWords b
      let words := Memory.put s.mem a (leBytes (8 * n) (b.toNat / 2 ^ 128))
      let busy := s.cellsAmong (wordLines ws)
      let p := s.putWords ws
      a % 8 = 0 → 1 ≤ n → n ≤ 6 → a + 8 * n ≤ 2 ^ 40 →
      ((∀ k < n, s.lsdir ≤ a + 8 * k → a + 8 * k < s.lsdir + 8 * 65536 →
          (Memory.nat s.mem (a + 8 * k) 8).testBit 63 = b.getLsbD (128 + 64 * k + 63)) →
        (busy ≠ [] → ∃ u : State, exec (.pwrite v) s = .next u.settle.tick ∧ Accepted u 8 ∧ u.command = some (v, b) ∧
          u.mem = (s.gatherAll busy).mem) ∧
        (busy = [] → s.movesHeld ws = true →
          ∃ u : State, exec (.pwrite v) s = .next u.settle.tick ∧ Accepted u 8 ∧ u.command = some (v, b) ∧ u.mem = s.mem) ∧
        (busy = [] → s.movesHeld ws = false → ∃ u : State, exec (.pwrite v) s = .next u.settle.tick ∧ u.mem = p.mem ∧
          ((∀ l ∈ State.leaves { s with mem := words }, ∃ o ∈ s.leaves, o.same l = true) → u.mem = words) ∧
          (p.releaseReady noThread .dv = true → Commanded u 8 0 ∧ u.command = none) ∧
          (p.releaseReady noThread .dv = false → Accepted u 8 ∧ u.command = some (v, b) ∧ u.commandWritten = true))) ∧
      ((∃ k < n, s.lsdir ≤ a + 8 * k ∧ a + 8 * k < s.lsdir + 8 * 65536 ∧
          (Memory.nat s.mem (a + 8 * k) 8).testBit 63 ≠ b.getLsbD (128 + 64 * k + 63)) →
        ∃ u : State, exec (.pwrite v) s = .next u.settle.tick ∧ Commanded u 8 3 ∧ u.mem = s.mem)) ∧
    (opc = 9 → s.dutyMigr = true → s.commandWritten = false → let src := bitsNat b 0 64
      let dst := bitsNat b 64 64
      let n := bitsNat b 128 64
      let meets := fun (c : HomeCell) => (src ≤ c.line ∧ c.line < src + n) ∨ (dst ≤ c.line ∧ c.line < dst + n)
      let p := s.putCopy src dst n
      src % 65536 = 0 → dst % 65536 = 0 → n % 65536 = 0 → src + n ≤ 2 ^ 40 → dst + n ≤ 2 ^ 40 → (dst + n ≤ src ∨ src + n ≤ dst) →
      ((∀ c ∈ s.cells, ¬meets c) → ∃ u : State, exec (.pcopy v) s = .next u.settle.tick ∧
        (Memory.wf s.mem = true → ∀ x, Memory.read u.mem x =
          if dst ≤ x ∧ x < dst + n then Memory.read s.mem (x - dst + src) else Memory.read s.mem x) ∧
        (p.releaseReady noThread .dv = true → Commanded u 9 0 ∧ u.command = none) ∧
        (p.releaseReady noThread .dv = false → Accepted u 9 ∧ u.command = some (v, b) ∧ u.commandWritten = true)) ∧
      ((∃ c ∈ s.cells, meets c) →
        ∃ u : State, exec (.pcopy v) s = .next u.settle.tick ∧ Accepted u 9 ∧ u.command = some (v, b))) ∧
    (opc = 10 → s.dutyResid = true → let lease := bitsNat b 0 16
      (bitsNat b 16 8 = 1 → let r := s.grantLease lease
        ∃ u : State, exec (.leasegr v) s = .next u.settle.tick ∧ Commanded u 10 r.2 ∧ u.mem = r.1.mem ∧ u.revoked = r.1.revoked) ∧
      (bitsNat b 16 8 = 0 → s.lsdir + 8 * lease + 8 ≤ 2 ^ 40 →
        let r := s.revokeLease lease ((s.leaseList lease).map fun r => (r.1, r.2.1))
        ∃ u : State, exec (.leasegr v) s = .next u.settle.tick ∧ Commanded u 10 0 ∧ u.mem = r.mem ∧ u.revoked = r.revoked) ∧
      (2 ≤ bitsNat b 16 8 → ∃ u : State, exec (.leasegr v) s = .next u.settle.tick ∧ Commanded u 10 3 ∧ u.mem = s.mem)) ∧
    (opc = 11 → let goes := fun (x : Thread) => { x with wait := if x.innEnded then .inning else .none }
      (∀ tk tm x, (s.tasks.find? fun t => t.chain == bitsNat b 0 16 && !t.isOver) = some tk → tm ∈ s.teams → tm.task = tk.id →
        x ∈ tm.threads → x.wait = .bkpt →
        (bitsNat b 48 8 = 0 → tm.team = bitsNat b 16 16 → x.tid = bitsNat b 32 16 →
          ∃ u : State, exec (.bkres v) s = .next u.settle.tick ∧ Commanded u 11 0 ∧ ∃ tm' ∈ u.teams, goes x ∈ tm'.threads) ∧
        (bitsNat b 48 8 = 1 → ∃ u : State, exec (.bkres v) s = .next u.settle.tick ∧ Commanded u 11 0 ∧
          (∃ tm' ∈ u.teams, goes x ∈ tm'.threads) ∧ ∀ tm' ∈ u.teams, tm'.task = tk.id → ∀ y ∈ tm'.threads, y.wait ≠ .bkpt)) ∧
      ((∀ t ∈ s.tasks, t.chain = bitsNat b 0 16 → t.isOver = true) →
        ∃ u : State, exec (.bkres v) s = .next u.settle.tick ∧ Commanded u 11 3 ∧ u.teams = s.teams)) ∧
    (opc = 0 ∨ 11 < opc → ∃ u, exec (.mcmdUnassignedOpcode v) s = .next (State.tick u) ∧ Commanded u opc 4) ∧
    (let denied := fun (i : Instr) => ∃ u : State, exec i s = .next u.settle.tick ∧ u = { s with window := u.window } ∧
        bitsNat (u.windowReg 0x50) 1 7 = 1 ∧ ∀ k, k ≠ 0x50 → u.windowReg k = s.windowReg k
     (s.dutySched = false → (opc = 1 → denied (.bindw v)) ∧ (opc = 2 → denied (.remapw v)) ∧ (opc = 3 → denied (.chainw v))) ∧
     (s.dutyResid = false → (opc = 4 → denied (.xlshoot v)) ∧ (opc = 5 → denied (.classchg v)) ∧ (opc = 10 → denied (.leasegr v)) ∧
       (s.dutyMigr = false → opc = 8 → denied (.pwrite v))) ∧
     (s.dutyMigr = false → (opc = 6 → denied (.migdone v)) ∧ (opc = 9 → denied (.pcopy v))) ∧
     (s.dutyColl = false → (∀ c ∈ s.colls, c.collid.toNat = bitsNat b 0 32 → c.host = false) → opc = 7 → denied (.memfail v)))) ∧
  (∀ (s : State) v, s.ready = true → s.command.isSome = true →
    let opc := v.toNat % 256
    let overrun := fun (i : Instr) => ∃ u : State, exec i s = .next u.settle.tick ∧ u = { s with window := u.window } ∧
      bitsNat (u.windowReg 0x50) 16 1 = 1 ∧ ∀ k, k ≠ 0x50 → u.windowReg k = s.windowReg k
    (opc = 1 → overrun (.bindw v)) ∧ (opc = 2 → overrun (.remapw v)) ∧ (opc = 3 → overrun (.chainw v)) ∧
      (opc = 4 → overrun (.xlshoot v)) ∧ (opc = 5 → overrun (.classchg v)) ∧ (opc = 6 → overrun (.migdone v)) ∧
      (opc = 7 → overrun (.memfail v)) ∧ (opc = 8 → overrun (.pwrite v)) ∧ (opc = 10 → overrun (.leasegr v)) ∧
      (opc = 11 → overrun (.bkres v)) ∧ (opc = 9 → overrun (.pcopy v))) ∧
  (∀ (s : State) v b, s.command = some (v, b) → s.commandWritten = true → (v.toNat % 256 = 8 ∨ v.toNat % 256 = 9) →
    (s.releaseReady noThread .dv = false → s.commandStep = s) ∧
    (s.releaseReady noThread .dv = true → s.commandStep.command = none ∧ bitsNat (s.commandStep.windowReg 0x50) 0 8 = 0)) ∧
  (∀ (s : State) v, let opc := v.toNat % 256
    let put := fun off => exec (.registerWrite off v) s
    put 0x10 = exec (.seed v) s ∧ put 0x18 = exec (.duty v) s ∧ put 0x38 = exec (.podid v) s ∧ put 0x40 = exec (.doorbell v) s ∧
    put 0x58 = exec (.evqbase v) s ∧ put 0x60 = exec (.evqhead v) s ∧ put 0x70 = exec (.plim v) s ∧
    (v.getLsbD 0 = true → put 0x80 = exec (.fwOpen v) s) ∧
    (v.getLsbD 0 = false → v.getLsbD 1 = true → s.firmware.status ≠ 2 → put 0x80 = exec (.fwCommit v) s) ∧ (v.toNat % 4 = 0 → put 0x80 = exec (.fwPiece v) s) ∧
    (opc = 1 → put 0x48 = exec (.bindw v) s) ∧ (opc = 2 → put 0x48 = exec (.remapw v) s) ∧ (opc = 3 → put 0x48 = exec (.chainw v) s) ∧
    (opc = 4 → put 0x48 = exec (.xlshoot v) s) ∧ (opc = 5 → put 0x48 = exec (.classchg v) s) ∧
    (opc = 6 → put 0x48 = exec (.migdone v) s) ∧ (opc = 7 → put 0x48 = exec (.memfail v) s) ∧
    (opc = 8 → put 0x48 = exec (.pwrite v) s) ∧ (opc = 9 → put 0x48 = exec (.pcopy v) s) ∧
    (opc = 10 → put 0x48 = exec (.leasegr v) s) ∧ (opc = 11 → put 0x48 = exec (.bkres v) s) ∧
    (opc = 0 ∨ 11 < opc → put 0x48 = exec (.mcmdUnassignedOpcode v) s) ∧
    (∀ k < 8, put (BitVec.ofNat 16 (0x100 + 8 * k)) = .next (s.setWindow (0x100 + 8 * k) v).tick) ∧
    (∀ k < 512, put (BitVec.ofNat 16 (0x1000 + 8 * k)) = .next ({ s with firmware := { s.firmware with
      window := Memory.put s.firmware.window (8 * k) (leBytes 8 v.toNat) } } : State).tick) ∧
    put 0x88 = .next s.tick)

/-- R409, R418 to R424, R426: reset and bring-up, links, ports, power and temperature; once the boot ROM has run, each request
over DOE is answered with some response and changes nothing else, and a key management request after a session's FINISH
establishes IDE. What survives a reset, what firmware fixes, and the DOE responses are the model's (log entries 6, 12, 46 and
47). -/
def Obligations.PowerAndLinks : Prop :=
  ∀ s : State,
    let lost := s.lose.tick
    exec .reset s = .next lost ∧ exec .powerLoss s = .next lost ∧ exec .overtempShutdown s = .next lost ∧
    (lost.dstate = .reset ∧ lost.mem = [] ∧ lost.teams = [] ∧ lost.tasks = [] ∧ lost.window = State.reset.window ∧ lost.l1 = [] ∧
      lost.firmware.image = s.firmware.image ∧ lost.firmware.valid = s.firmware.valid ∧ lost.hostMem = s.hostMem) ∧
    (s.dstate = .reset → exec .powerGood s = .next ({ s with dstate := .rom } : State).tick) ∧
    (s.dstate = .rom → s.firmware.valid = true → imageOk s.firmware.image = true →
      ∃ u, exec .powerGood s = .next (State.tick u) ∧ u.dstate = .boot ∧ u.mem = s.mem ∧ u.firmware.runImage = s.firmware.image) ∧
    (s.dstate = .rom → (s.firmware.valid = false ∨ imageOk s.firmware.image = false) →
      exec .powerGood s = .next ({ s with dstate := .await } : State).tick) ∧
    (s.dstate = .boot → ∃ u, exec .bootDone s = .next (State.tick u) ∧ u.dstate = .ready ∧ u.mem = [] ∧ u.hostMem = s.hostMem ∧
      (∀ k < 256, rowValid (u.row k) = false ∧ rowCstate (u.row k) = if Config.coreFused k then 1 else 0) ∧
      u.chtab = chainTableAt ∧ (∀ n, u.chain n = 0) ∧ u.cxtab = Config.contextTable % 2 ^ 64 ∧ u.lsdir = Config.leaseDirectory % 2 ^ 64 ∧
      u.firmware.identity = some (Config.identityKey Config.deviceSecret (imageDigest s.firmware.runImage))) ∧
    (∀ e, s.dstate = .boot →
      exec (.hardwareFaultHalt e) s = .next ({ s with dstate := .halted, errorLog := s.errorLog ++ [e] } : State).tick) ∧
    (∀ full wide, exec (.linkTrain full wide) s = .next ({ s with linkUp := true, linkFull := full, linkWide := wide } : State).tick) ∧
    (∀ port : Fin 8, s.ready = true → s.podWritten = true →
      (∃ u, exec (.portTraining port true) s = .next (State.tick u) ∧ port.val ∈ u.ports ∧ u.portsBegun = true ∧ u.mem = s.mem ∧
        u.joined = true ∧ Sparse.get 0 u.incarn 64 = Sparse.get 0 s.incarn 64 + if s.joined then 0 else 1) ∧
      ((port.val ∉ s.ports ∨ ∃ p ∈ s.ports, p ≠ port) →
        ∃ u, exec (.portTraining port false) s = .next (State.tick u) ∧ port.val ∉ u.ports ∧ u.errorLog.length = s.errorLog.length + 1) ∧
      (s.ports = [port.val] → ∃ u, exec (.portTraining port false) s = .next (State.tick u) ∧ u.ports = [] ∧
        ∀ c ∈ u.colls, s.hostDeclares c = false → s.awayMembers c ≠ [] → c.live = false)) ∧
    (∀ port : Fin 8, port.val ∈ s.ports → (∃ p ∈ s.ports, p ≠ port.val) →
      ∃ u, exec (.portLoss port) s = .next (State.tick u) ∧ u.ports = s.ports.filter (· != port.val) ∧ u.colls = s.colls ∧
        u.errorLog.length = s.errorLog.length + 1) ∧
    (∀ port : Fin 8, s.ports = [port.val] → ∃ u, exec (.portLoss port) s = .next (State.tick u) ∧ u.ports = [] ∧
      ∀ c ∈ u.colls, s.hostDeclares c = false → s.awayMembers c ≠ [] → c.live = false) ∧
    (∀ watts : BitVec 16, let lim := (s.windowReg 0x70).toNat
      ∃ u, exec (.powerLimitThrottle watts) s = .next (State.tick u) ∧ (u.windowReg 0x78).toNat = min watts.toNat lim ∧
        (u.throttled = true ↔ lim < watts.toNat) ∧ u = { s with window := u.window, throttled := u.throttled }) ∧
    exec .overtempThrottle s = .next ({ s with throttled := true } : State).tick ∧
    (s.doeServed = true →
      let answered := fun (i : Instr) (code : Nat) => ∃ r, exec i s = .next ({ s with doe := s.doe ++ [(code, r)] } : State).tick
      let refused := 0x7F
      answered .getVersion 1 ∧ answered .getCapabilities 2 ∧ answered .negotiateAlgorithms 3 ∧ answered .finish 9 ∧
      (s.firmware.identity ≠ none →
        answered .getDigests 4 ∧ answered (.getCertificate 0) 5 ∧ answered .challenge 6 ∧ answered .keyExchange 8) ∧
      (s.firmware.identity = none →
        answered .getDigests refused ∧ answered (.getCertificate 0) refused ∧ answered .challenge refused ∧ answered .keyExchange refused) ∧
      (∀ slot, slot ≠ 0 → answered (.getCertificate slot) refused) ∧
      (∀ i d, s.measured i = some d → exec (.getMeasurements i) s = .next ({ s with doe := s.doe ++ [(7, d)] } : State).tick) ∧
      (∀ i, i = 0 ∨ 4 < i → answered (.getMeasurements i) refused) ∧
      ∃ r, exec .ideKeyManagement s = .next ({ s with
        doe := s.doe ++ [(10, r)], ide := s.ide || s.doe.any fun x => x.1 == 9 } : State).tick)
end

