-- ==== Sys2Proof/Laws/State.lean ====
section
/-!
SUPPORT. One lemma for each field of the state and each of the plain updates: what the update leaves of the field.
-/
namespace Sys2Proof.Machine

@[simp] theorem State.tick_clk (s : State) : s.tick.clk = s.clk := rfl
@[simp] theorem State.tick_dstate (s : State) : s.tick.dstate = s.dstate := rfl
@[simp] theorem State.tick_window (s : State) : s.tick.window = s.window := rfl
@[simp] theorem State.tick_mem (s : State) : s.tick.mem = s.mem := rfl
@[simp] theorem State.tick_hostMem (s : State) : s.tick.hostMem = s.hostMem := rfl
@[simp] theorem State.tick_slots (s : State) : s.tick.slots = s.slots := rfl
@[simp] theorem State.tick_remap (s : State) : s.tick.remap = s.remap := rfl
@[simp] theorem State.tick_tasks (s : State) : s.tick.tasks = s.tasks := rfl
@[simp] theorem State.tick_teams (s : State) : s.tick.teams = s.teams := rfl
@[simp] theorem State.tick_saved (s : State) : s.tick.saved = s.saved := rfl
@[simp] theorem State.tick_nextTask (s : State) : s.tick.nextTask = s.nextTask := rfl
@[simp] theorem State.tick_dirty (s : State) : s.tick.dirty = s.dirty := rfl
@[simp] theorem State.tick_huddles (s : State) : s.tick.huddles = s.huddles := rfl
@[simp] theorem State.tick_l1 (s : State) : s.tick.l1 = s.l1 := rfl
@[simp] theorem State.tick_l2 (s : State) : s.tick.l2 = s.l2 := rfl
@[simp] theorem State.tick_replicas (s : State) : s.tick.replicas = s.replicas := rfl
@[simp] theorem State.tick_ltb (s : State) : s.tick.ltb = s.ltb := rfl
@[simp] theorem State.tick_revoked (s : State) : s.tick.revoked = s.revoked := rfl
@[simp] theorem State.tick_revoking (s : State) : s.tick.revoking = s.revoking := rfl
@[simp] theorem State.tick_freed (s : State) : s.tick.freed = s.freed := rfl
@[simp] theorem State.tick_badLines (s : State) : s.tick.badLines = s.badLines := rfl
@[simp] theorem State.tick_inningPool (s : State) : s.tick.inningPool = s.inningPool := rfl
@[simp] theorem State.tick_seedWrite (s : State) : s.tick.seedWrite = s.seedWrite := rfl
@[simp] theorem State.tick_heldPages (s : State) : s.tick.heldPages = s.heldPages := rfl
@[simp] theorem State.tick_moves (s : State) : s.tick.moves = s.moves := rfl
@[simp] theorem State.tick_hostMoves (s : State) : s.tick.hostMoves = s.hostMoves := rfl
@[simp] theorem State.tick_residNotices (s : State) : s.tick.residNotices = s.residNotices := rfl
@[simp] theorem State.tick_cells (s : State) : s.tick.cells = s.cells := rfl
@[simp] theorem State.tick_partials (s : State) : s.tick.partials = s.partials := rfl
@[simp] theorem State.tick_bowls (s : State) : s.tick.bowls = s.bowls := rfl
@[simp] theorem State.tick_filters (s : State) : s.tick.filters = s.filters := rfl
@[simp] theorem State.tick_discards (s : State) : s.tick.discards = s.discards := rfl
@[simp] theorem State.tick_seqs (s : State) : s.tick.seqs = s.seqs := rfl
@[simp] theorem State.tick_merged (s : State) : s.tick.merged = s.merged := rfl
@[simp] theorem State.tick_directory (s : State) : s.tick.directory = s.directory := rfl
@[simp] theorem State.tick_wsStores (s : State) : s.tick.wsStores = s.wsStores := rfl
@[simp] theorem State.tick_net (s : State) : s.tick.net = s.net := rfl
@[simp] theorem State.tick_copies (s : State) : s.tick.copies = s.copies := rfl
@[simp] theorem State.tick_nextCopy (s : State) : s.tick.nextCopy = s.nextCopy := rfl
@[simp] theorem State.tick_mgmt (s : State) : s.tick.mgmt = s.mgmt := rfl
@[simp] theorem State.tick_colls (s : State) : s.tick.colls = s.colls := rfl
@[simp] theorem State.tick_heldSources (s : State) : s.tick.heldSources = s.heldSources := rfl
@[simp] theorem State.tick_stallNotices (s : State) : s.tick.stallNotices = s.stallNotices := rfl
@[simp] theorem State.tick_benches (s : State) : s.tick.benches = s.benches := rfl
@[simp] theorem State.tick_replies (s : State) : s.tick.replies = s.replies := rfl
@[simp] theorem State.tick_heldEvents (s : State) : s.tick.heldEvents = s.heldEvents := rfl
@[simp] theorem State.tick_errorLog (s : State) : s.tick.errorLog = s.errorLog := rfl
@[simp] theorem State.tick_retired (s : State) : s.tick.retired = s.retired := rfl
@[simp] theorem State.tick_lostUnits (s : State) : s.tick.lostUnits = s.lostUnits := rfl
@[simp] theorem State.tick_downUnits (s : State) : s.tick.downUnits = s.downUnits := rfl
@[simp] theorem State.tick_joined (s : State) : s.tick.joined = s.joined := rfl
@[simp] theorem State.tick_commandWritten (s : State) : s.tick.commandWritten = s.commandWritten := rfl
@[simp] theorem State.tick_incarn (s : State) : s.tick.incarn = s.incarn := rfl
@[simp] theorem State.tick_firmware (s : State) : s.tick.firmware = s.firmware := rfl
@[simp] theorem State.tick_command (s : State) : s.tick.command = s.command := rfl
@[simp] theorem State.tick_ide (s : State) : s.tick.ide = s.ide := rfl
@[simp] theorem State.tick_doe (s : State) : s.tick.doe = s.doe := rfl
@[simp] theorem State.tick_ports (s : State) : s.tick.ports = s.ports := rfl
@[simp] theorem State.tick_podWritten (s : State) : s.tick.podWritten = s.podWritten := rfl
@[simp] theorem State.tick_portsBegun (s : State) : s.tick.portsBegun = s.portsBegun := rfl
@[simp] theorem State.tick_linkUp (s : State) : s.tick.linkUp = s.linkUp := rfl
@[simp] theorem State.tick_linkFull (s : State) : s.tick.linkFull = s.linkFull := rfl
@[simp] theorem State.tick_linkWide (s : State) : s.tick.linkWide = s.linkWide := rfl
@[simp] theorem State.tick_throttled (s : State) : s.tick.throttled = s.throttled := rfl
@[simp] theorem State.tick_hostHeld (s : State) : s.tick.hostHeld = s.hostHeld := rfl
@[simp] theorem State.tick_agenda (s : State) : s.tick.agenda = s.agenda := rfl
@[simp] theorem State.tick_cur (s : State) : s.tick.cur = s.cur := rfl
@[simp] theorem State.tick_curRest (s : State) : s.tick.curRest = s.curRest := rfl
@[simp] theorem State.tick_evictPlan (s : State) : s.tick.evictPlan = s.evictPlan := rfl
@[simp] theorem State.tick_busy (s : State) : s.tick.busy = s.busy := rfl
@[simp] theorem State.tick_curDone (s : State) : s.tick.curDone = s.curDone := rfl

@[simp] theorem State.setWindow_clk (s : State) (o : Nat) (v : BitVec 64) : (s.setWindow o v).clk = s.clk := rfl
@[simp] theorem State.setWindow_dstate (s : State) (o : Nat) (v : BitVec 64) : (s.setWindow o v).dstate = s.dstate := rfl
@[simp] theorem State.setWindow_mem (s : State) (o : Nat) (v : BitVec 64) : (s.setWindow o v).mem = s.mem := rfl
@[simp] theorem State.setWindow_hostMem (s : State) (o : Nat) (v : BitVec 64) : (s.setWindow o v).hostMem = s.hostMem := rfl
@[simp] theorem State.setWindow_slots (s : State) (o : Nat) (v : BitVec 64) : (s.setWindow o v).slots = s.slots := rfl
@[simp] theorem State.setWindow_remap (s : State) (o : Nat) (v : BitVec 64) : (s.setWindow o v).remap = s.remap := rfl
@[simp] theorem State.setWindow_tasks (s : State) (o : Nat) (v : BitVec 64) : (s.setWindow o v).tasks = s.tasks := rfl
@[simp] theorem State.setWindow_teams (s : State) (o : Nat) (v : BitVec 64) : (s.setWindow o v).teams = s.teams := rfl
@[simp] theorem State.setWindow_saved (s : State) (o : Nat) (v : BitVec 64) : (s.setWindow o v).saved = s.saved := rfl
@[simp] theorem State.setWindow_nextTask (s : State) (o : Nat) (v : BitVec 64) : (s.setWindow o v).nextTask = s.nextTask := rfl
@[simp] theorem State.setWindow_dirty (s : State) (o : Nat) (v : BitVec 64) : (s.setWindow o v).dirty = s.dirty := rfl
@[simp] theorem State.setWindow_huddles (s : State) (o : Nat) (v : BitVec 64) : (s.setWindow o v).huddles = s.huddles := rfl
@[simp] theorem State.setWindow_l1 (s : State) (o : Nat) (v : BitVec 64) : (s.setWindow o v).l1 = s.l1 := rfl
@[simp] theorem State.setWindow_l2 (s : State) (o : Nat) (v : BitVec 64) : (s.setWindow o v).l2 = s.l2 := rfl
@[simp] theorem State.setWindow_replicas (s : State) (o : Nat) (v : BitVec 64) : (s.setWindow o v).replicas = s.replicas := rfl
@[simp] theorem State.setWindow_ltb (s : State) (o : Nat) (v : BitVec 64) : (s.setWindow o v).ltb = s.ltb := rfl
@[simp] theorem State.setWindow_revoked (s : State) (o : Nat) (v : BitVec 64) : (s.setWindow o v).revoked = s.revoked := rfl
@[simp] theorem State.setWindow_revoking (s : State) (o : Nat) (v : BitVec 64) : (s.setWindow o v).revoking = s.revoking := rfl
@[simp] theorem State.setWindow_freed (s : State) (o : Nat) (v : BitVec 64) : (s.setWindow o v).freed = s.freed := rfl
@[simp] theorem State.setWindow_badLines (s : State) (o : Nat) (v : BitVec 64) : (s.setWindow o v).badLines = s.badLines := rfl
@[simp] theorem State.setWindow_inningPool (s : State) (o : Nat) (v : BitVec 64) : (s.setWindow o v).inningPool = s.inningPool := rfl
@[simp] theorem State.setWindow_seedWrite (s : State) (o : Nat) (v : BitVec 64) : (s.setWindow o v).seedWrite = s.seedWrite := rfl
@[simp] theorem State.setWindow_heldPages (s : State) (o : Nat) (v : BitVec 64) : (s.setWindow o v).heldPages = s.heldPages := rfl
@[simp] theorem State.setWindow_moves (s : State) (o : Nat) (v : BitVec 64) : (s.setWindow o v).moves = s.moves := rfl
@[simp] theorem State.setWindow_hostMoves (s : State) (o : Nat) (v : BitVec 64) : (s.setWindow o v).hostMoves = s.hostMoves := rfl
@[simp] theorem State.setWindow_residNotices (s : State) (o : Nat) (v : BitVec 64) : (s.setWindow o v).residNotices = s.residNotices := rfl
@[simp] theorem State.setWindow_cells (s : State) (o : Nat) (v : BitVec 64) : (s.setWindow o v).cells = s.cells := rfl
@[simp] theorem State.setWindow_partials (s : State) (o : Nat) (v : BitVec 64) : (s.setWindow o v).partials = s.partials := rfl
@[simp] theorem State.setWindow_bowls (s : State) (o : Nat) (v : BitVec 64) : (s.setWindow o v).bowls = s.bowls := rfl
@[simp] theorem State.setWindow_filters (s : State) (o : Nat) (v : BitVec 64) : (s.setWindow o v).filters = s.filters := rfl
@[simp] theorem State.setWindow_discards (s : State) (o : Nat) (v : BitVec 64) : (s.setWindow o v).discards = s.discards := rfl
@[simp] theorem State.setWindow_seqs (s : State) (o : Nat) (v : BitVec 64) : (s.setWindow o v).seqs = s.seqs := rfl
@[simp] theorem State.setWindow_merged (s : State) (o : Nat) (v : BitVec 64) : (s.setWindow o v).merged = s.merged := rfl
@[simp] theorem State.setWindow_directory (s : State) (o : Nat) (v : BitVec 64) : (s.setWindow o v).directory = s.directory := rfl
@[simp] theorem State.setWindow_wsStores (s : State) (o : Nat) (v : BitVec 64) : (s.setWindow o v).wsStores = s.wsStores := rfl
@[simp] theorem State.setWindow_net (s : State) (o : Nat) (v : BitVec 64) : (s.setWindow o v).net = s.net := rfl
@[simp] theorem State.setWindow_copies (s : State) (o : Nat) (v : BitVec 64) : (s.setWindow o v).copies = s.copies := rfl
@[simp] theorem State.setWindow_nextCopy (s : State) (o : Nat) (v : BitVec 64) : (s.setWindow o v).nextCopy = s.nextCopy := rfl
@[simp] theorem State.setWindow_mgmt (s : State) (o : Nat) (v : BitVec 64) : (s.setWindow o v).mgmt = s.mgmt := rfl
@[simp] theorem State.setWindow_colls (s : State) (o : Nat) (v : BitVec 64) : (s.setWindow o v).colls = s.colls := rfl
@[simp] theorem State.setWindow_heldSources (s : State) (o : Nat) (v : BitVec 64) : (s.setWindow o v).heldSources = s.heldSources := rfl
@[simp] theorem State.setWindow_stallNotices (s : State) (o : Nat) (v : BitVec 64) : (s.setWindow o v).stallNotices = s.stallNotices := rfl
@[simp] theorem State.setWindow_benches (s : State) (o : Nat) (v : BitVec 64) : (s.setWindow o v).benches = s.benches := rfl
@[simp] theorem State.setWindow_replies (s : State) (o : Nat) (v : BitVec 64) : (s.setWindow o v).replies = s.replies := rfl
@[simp] theorem State.setWindow_heldEvents (s : State) (o : Nat) (v : BitVec 64) : (s.setWindow o v).heldEvents = s.heldEvents := rfl
@[simp] theorem State.setWindow_errorLog (s : State) (o : Nat) (v : BitVec 64) : (s.setWindow o v).errorLog = s.errorLog := rfl
@[simp] theorem State.setWindow_retired (s : State) (o : Nat) (v : BitVec 64) : (s.setWindow o v).retired = s.retired := rfl
@[simp] theorem State.setWindow_lostUnits (s : State) (o : Nat) (v : BitVec 64) : (s.setWindow o v).lostUnits = s.lostUnits := rfl
@[simp] theorem State.setWindow_downUnits (s : State) (o : Nat) (v : BitVec 64) : (s.setWindow o v).downUnits = s.downUnits := rfl
@[simp] theorem State.setWindow_joined (s : State) (o : Nat) (v : BitVec 64) : (s.setWindow o v).joined = s.joined := rfl
@[simp] theorem State.setWindow_commandWritten (s : State) (o : Nat) (v : BitVec 64) : (s.setWindow o v).commandWritten = s.commandWritten := rfl
@[simp] theorem State.setWindow_incarn (s : State) (o : Nat) (v : BitVec 64) : (s.setWindow o v).incarn = s.incarn := rfl
@[simp] theorem State.setWindow_firmware (s : State) (o : Nat) (v : BitVec 64) : (s.setWindow o v).firmware = s.firmware := rfl
@[simp] theorem State.setWindow_command (s : State) (o : Nat) (v : BitVec 64) : (s.setWindow o v).command = s.command := rfl
@[simp] theorem State.setWindow_ide (s : State) (o : Nat) (v : BitVec 64) : (s.setWindow o v).ide = s.ide := rfl
@[simp] theorem State.setWindow_doe (s : State) (o : Nat) (v : BitVec 64) : (s.setWindow o v).doe = s.doe := rfl
@[simp] theorem State.setWindow_ports (s : State) (o : Nat) (v : BitVec 64) : (s.setWindow o v).ports = s.ports := rfl
@[simp] theorem State.setWindow_podWritten (s : State) (o : Nat) (v : BitVec 64) : (s.setWindow o v).podWritten = s.podWritten := rfl
@[simp] theorem State.setWindow_portsBegun (s : State) (o : Nat) (v : BitVec 64) : (s.setWindow o v).portsBegun = s.portsBegun := rfl
@[simp] theorem State.setWindow_linkUp (s : State) (o : Nat) (v : BitVec 64) : (s.setWindow o v).linkUp = s.linkUp := rfl
@[simp] theorem State.setWindow_linkFull (s : State) (o : Nat) (v : BitVec 64) : (s.setWindow o v).linkFull = s.linkFull := rfl
@[simp] theorem State.setWindow_linkWide (s : State) (o : Nat) (v : BitVec 64) : (s.setWindow o v).linkWide = s.linkWide := rfl
@[simp] theorem State.setWindow_throttled (s : State) (o : Nat) (v : BitVec 64) : (s.setWindow o v).throttled = s.throttled := rfl
@[simp] theorem State.setWindow_hostHeld (s : State) (o : Nat) (v : BitVec 64) : (s.setWindow o v).hostHeld = s.hostHeld := rfl
@[simp] theorem State.setWindow_agenda (s : State) (o : Nat) (v : BitVec 64) : (s.setWindow o v).agenda = s.agenda := rfl
@[simp] theorem State.setWindow_cur (s : State) (o : Nat) (v : BitVec 64) : (s.setWindow o v).cur = s.cur := rfl
@[simp] theorem State.setWindow_curRest (s : State) (o : Nat) (v : BitVec 64) : (s.setWindow o v).curRest = s.curRest := rfl
@[simp] theorem State.setWindow_evictPlan (s : State) (o : Nat) (v : BitVec 64) : (s.setWindow o v).evictPlan = s.evictPlan := rfl
@[simp] theorem State.setWindow_blocked (s : State) (o : Nat) (v : BitVec 64) : (s.setWindow o v).blocked = s.blocked := rfl
@[simp] theorem State.setWindow_busy (s : State) (o : Nat) (v : BitVec 64) : (s.setWindow o v).busy = s.busy := rfl
@[simp] theorem State.setWindow_curDone (s : State) (o : Nat) (v : BitVec 64) : (s.setWindow o v).curDone = s.curDone := rfl
@[simp] theorem State.setWindow_freeCtr (s : State) (o : Nat) (v : BitVec 64) : (s.setWindow o v).freeCtr = s.freeCtr := rfl

@[simp] theorem State.modTask_clk (s : State) (i : Nat) (f : Task → Task) : (s.modTask i f).clk = s.clk := rfl
@[simp] theorem State.modTask_dstate (s : State) (i : Nat) (f : Task → Task) : (s.modTask i f).dstate = s.dstate := rfl
@[simp] theorem State.modTask_window (s : State) (i : Nat) (f : Task → Task) : (s.modTask i f).window = s.window := rfl
@[simp] theorem State.modTask_mem (s : State) (i : Nat) (f : Task → Task) : (s.modTask i f).mem = s.mem := rfl
@[simp] theorem State.modTask_hostMem (s : State) (i : Nat) (f : Task → Task) : (s.modTask i f).hostMem = s.hostMem := rfl
@[simp] theorem State.modTask_slots (s : State) (i : Nat) (f : Task → Task) : (s.modTask i f).slots = s.slots := rfl
@[simp] theorem State.modTask_remap (s : State) (i : Nat) (f : Task → Task) : (s.modTask i f).remap = s.remap := rfl
@[simp] theorem State.modTask_teams (s : State) (i : Nat) (f : Task → Task) : (s.modTask i f).teams = s.teams := rfl
@[simp] theorem State.modTask_saved (s : State) (i : Nat) (f : Task → Task) : (s.modTask i f).saved = s.saved := rfl
@[simp] theorem State.modTask_nextTask (s : State) (i : Nat) (f : Task → Task) : (s.modTask i f).nextTask = s.nextTask := rfl
@[simp] theorem State.modTask_dirty (s : State) (i : Nat) (f : Task → Task) : (s.modTask i f).dirty = s.dirty := rfl
@[simp] theorem State.modTask_huddles (s : State) (i : Nat) (f : Task → Task) : (s.modTask i f).huddles = s.huddles := rfl
@[simp] theorem State.modTask_l1 (s : State) (i : Nat) (f : Task → Task) : (s.modTask i f).l1 = s.l1 := rfl
@[simp] theorem State.modTask_l2 (s : State) (i : Nat) (f : Task → Task) : (s.modTask i f).l2 = s.l2 := rfl
@[simp] theorem State.modTask_replicas (s : State) (i : Nat) (f : Task → Task) : (s.modTask i f).replicas = s.replicas := rfl
@[simp] theorem State.modTask_ltb (s : State) (i : Nat) (f : Task → Task) : (s.modTask i f).ltb = s.ltb := rfl
@[simp] theorem State.modTask_revoked (s : State) (i : Nat) (f : Task → Task) : (s.modTask i f).revoked = s.revoked := rfl
@[simp] theorem State.modTask_revoking (s : State) (i : Nat) (f : Task → Task) : (s.modTask i f).revoking = s.revoking := rfl
@[simp] theorem State.modTask_freed (s : State) (i : Nat) (f : Task → Task) : (s.modTask i f).freed = s.freed := rfl
@[simp] theorem State.modTask_badLines (s : State) (i : Nat) (f : Task → Task) : (s.modTask i f).badLines = s.badLines := rfl
@[simp] theorem State.modTask_inningPool (s : State) (i : Nat) (f : Task → Task) : (s.modTask i f).inningPool = s.inningPool := rfl
@[simp] theorem State.modTask_seedWrite (s : State) (i : Nat) (f : Task → Task) : (s.modTask i f).seedWrite = s.seedWrite := rfl
@[simp] theorem State.modTask_heldPages (s : State) (i : Nat) (f : Task → Task) : (s.modTask i f).heldPages = s.heldPages := rfl
@[simp] theorem State.modTask_moves (s : State) (i : Nat) (f : Task → Task) : (s.modTask i f).moves = s.moves := rfl
@[simp] theorem State.modTask_hostMoves (s : State) (i : Nat) (f : Task → Task) : (s.modTask i f).hostMoves = s.hostMoves := rfl
@[simp] theorem State.modTask_residNotices (s : State) (i : Nat) (f : Task → Task) : (s.modTask i f).residNotices = s.residNotices := rfl
@[simp] theorem State.modTask_cells (s : State) (i : Nat) (f : Task → Task) : (s.modTask i f).cells = s.cells := rfl
@[simp] theorem State.modTask_partials (s : State) (i : Nat) (f : Task → Task) : (s.modTask i f).partials = s.partials := rfl
@[simp] theorem State.modTask_bowls (s : State) (i : Nat) (f : Task → Task) : (s.modTask i f).bowls = s.bowls := rfl
@[simp] theorem State.modTask_filters (s : State) (i : Nat) (f : Task → Task) : (s.modTask i f).filters = s.filters := rfl
@[simp] theorem State.modTask_discards (s : State) (i : Nat) (f : Task → Task) : (s.modTask i f).discards = s.discards := rfl
@[simp] theorem State.modTask_seqs (s : State) (i : Nat) (f : Task → Task) : (s.modTask i f).seqs = s.seqs := rfl
@[simp] theorem State.modTask_merged (s : State) (i : Nat) (f : Task → Task) : (s.modTask i f).merged = s.merged := rfl
@[simp] theorem State.modTask_directory (s : State) (i : Nat) (f : Task → Task) : (s.modTask i f).directory = s.directory := rfl
@[simp] theorem State.modTask_wsStores (s : State) (i : Nat) (f : Task → Task) : (s.modTask i f).wsStores = s.wsStores := rfl
@[simp] theorem State.modTask_net (s : State) (i : Nat) (f : Task → Task) : (s.modTask i f).net = s.net := rfl
@[simp] theorem State.modTask_copies (s : State) (i : Nat) (f : Task → Task) : (s.modTask i f).copies = s.copies := rfl
@[simp] theorem State.modTask_nextCopy (s : State) (i : Nat) (f : Task → Task) : (s.modTask i f).nextCopy = s.nextCopy := rfl
@[simp] theorem State.modTask_mgmt (s : State) (i : Nat) (f : Task → Task) : (s.modTask i f).mgmt = s.mgmt := rfl
@[simp] theorem State.modTask_colls (s : State) (i : Nat) (f : Task → Task) : (s.modTask i f).colls = s.colls := rfl
@[simp] theorem State.modTask_heldSources (s : State) (i : Nat) (f : Task → Task) : (s.modTask i f).heldSources = s.heldSources := rfl
@[simp] theorem State.modTask_stallNotices (s : State) (i : Nat) (f : Task → Task) : (s.modTask i f).stallNotices = s.stallNotices := rfl
@[simp] theorem State.modTask_benches (s : State) (i : Nat) (f : Task → Task) : (s.modTask i f).benches = s.benches := rfl
@[simp] theorem State.modTask_replies (s : State) (i : Nat) (f : Task → Task) : (s.modTask i f).replies = s.replies := rfl
@[simp] theorem State.modTask_heldEvents (s : State) (i : Nat) (f : Task → Task) : (s.modTask i f).heldEvents = s.heldEvents := rfl
@[simp] theorem State.modTask_errorLog (s : State) (i : Nat) (f : Task → Task) : (s.modTask i f).errorLog = s.errorLog := rfl
@[simp] theorem State.modTask_retired (s : State) (i : Nat) (f : Task → Task) : (s.modTask i f).retired = s.retired := rfl
@[simp] theorem State.modTask_lostUnits (s : State) (i : Nat) (f : Task → Task) : (s.modTask i f).lostUnits = s.lostUnits := rfl
@[simp] theorem State.modTask_downUnits (s : State) (i : Nat) (f : Task → Task) : (s.modTask i f).downUnits = s.downUnits := rfl
@[simp] theorem State.modTask_joined (s : State) (i : Nat) (f : Task → Task) : (s.modTask i f).joined = s.joined := rfl
@[simp] theorem State.modTask_commandWritten (s : State) (i : Nat) (f : Task → Task) : (s.modTask i f).commandWritten = s.commandWritten := rfl
@[simp] theorem State.modTask_incarn (s : State) (i : Nat) (f : Task → Task) : (s.modTask i f).incarn = s.incarn := rfl
@[simp] theorem State.modTask_firmware (s : State) (i : Nat) (f : Task → Task) : (s.modTask i f).firmware = s.firmware := rfl
@[simp] theorem State.modTask_command (s : State) (i : Nat) (f : Task → Task) : (s.modTask i f).command = s.command := rfl
@[simp] theorem State.modTask_ide (s : State) (i : Nat) (f : Task → Task) : (s.modTask i f).ide = s.ide := rfl
@[simp] theorem State.modTask_doe (s : State) (i : Nat) (f : Task → Task) : (s.modTask i f).doe = s.doe := rfl
@[simp] theorem State.modTask_ports (s : State) (i : Nat) (f : Task → Task) : (s.modTask i f).ports = s.ports := rfl
@[simp] theorem State.modTask_podWritten (s : State) (i : Nat) (f : Task → Task) : (s.modTask i f).podWritten = s.podWritten := rfl
@[simp] theorem State.modTask_portsBegun (s : State) (i : Nat) (f : Task → Task) : (s.modTask i f).portsBegun = s.portsBegun := rfl
@[simp] theorem State.modTask_linkUp (s : State) (i : Nat) (f : Task → Task) : (s.modTask i f).linkUp = s.linkUp := rfl
@[simp] theorem State.modTask_linkFull (s : State) (i : Nat) (f : Task → Task) : (s.modTask i f).linkFull = s.linkFull := rfl
@[simp] theorem State.modTask_linkWide (s : State) (i : Nat) (f : Task → Task) : (s.modTask i f).linkWide = s.linkWide := rfl
@[simp] theorem State.modTask_throttled (s : State) (i : Nat) (f : Task → Task) : (s.modTask i f).throttled = s.throttled := rfl
@[simp] theorem State.modTask_hostHeld (s : State) (i : Nat) (f : Task → Task) : (s.modTask i f).hostHeld = s.hostHeld := rfl
@[simp] theorem State.modTask_agenda (s : State) (i : Nat) (f : Task → Task) : (s.modTask i f).agenda = s.agenda := rfl
@[simp] theorem State.modTask_cur (s : State) (i : Nat) (f : Task → Task) : (s.modTask i f).cur = s.cur := rfl
@[simp] theorem State.modTask_curRest (s : State) (i : Nat) (f : Task → Task) : (s.modTask i f).curRest = s.curRest := rfl
@[simp] theorem State.modTask_evictPlan (s : State) (i : Nat) (f : Task → Task) : (s.modTask i f).evictPlan = s.evictPlan := rfl
@[simp] theorem State.modTask_blocked (s : State) (i : Nat) (f : Task → Task) : (s.modTask i f).blocked = s.blocked := rfl
@[simp] theorem State.modTask_busy (s : State) (i : Nat) (f : Task → Task) : (s.modTask i f).busy = s.busy := rfl
@[simp] theorem State.modTask_curDone (s : State) (i : Nat) (f : Task → Task) : (s.modTask i f).curDone = s.curDone := rfl
@[simp] theorem State.modTask_freeCtr (s : State) (i : Nat) (f : Task → Task) : (s.modTask i f).freeCtr = s.freeCtr := rfl

@[simp] theorem State.modTeam_clk (s : State) (i j : Nat) (f : Team → Team) : (s.modTeam i j f).clk = s.clk := rfl
@[simp] theorem State.modTeam_dstate (s : State) (i j : Nat) (f : Team → Team) : (s.modTeam i j f).dstate = s.dstate := rfl
@[simp] theorem State.modTeam_window (s : State) (i j : Nat) (f : Team → Team) : (s.modTeam i j f).window = s.window := rfl
@[simp] theorem State.modTeam_mem (s : State) (i j : Nat) (f : Team → Team) : (s.modTeam i j f).mem = s.mem := rfl
@[simp] theorem State.modTeam_hostMem (s : State) (i j : Nat) (f : Team → Team) : (s.modTeam i j f).hostMem = s.hostMem := rfl
@[simp] theorem State.modTeam_slots (s : State) (i j : Nat) (f : Team → Team) : (s.modTeam i j f).slots = s.slots := rfl
@[simp] theorem State.modTeam_remap (s : State) (i j : Nat) (f : Team → Team) : (s.modTeam i j f).remap = s.remap := rfl
@[simp] theorem State.modTeam_tasks (s : State) (i j : Nat) (f : Team → Team) : (s.modTeam i j f).tasks = s.tasks := rfl
@[simp] theorem State.modTeam_saved (s : State) (i j : Nat) (f : Team → Team) : (s.modTeam i j f).saved = s.saved := rfl
@[simp] theorem State.modTeam_nextTask (s : State) (i j : Nat) (f : Team → Team) : (s.modTeam i j f).nextTask = s.nextTask := rfl
@[simp] theorem State.modTeam_dirty (s : State) (i j : Nat) (f : Team → Team) : (s.modTeam i j f).dirty = s.dirty := rfl
@[simp] theorem State.modTeam_huddles (s : State) (i j : Nat) (f : Team → Team) : (s.modTeam i j f).huddles = s.huddles := rfl
@[simp] theorem State.modTeam_l1 (s : State) (i j : Nat) (f : Team → Team) : (s.modTeam i j f).l1 = s.l1 := rfl
@[simp] theorem State.modTeam_l2 (s : State) (i j : Nat) (f : Team → Team) : (s.modTeam i j f).l2 = s.l2 := rfl
@[simp] theorem State.modTeam_replicas (s : State) (i j : Nat) (f : Team → Team) : (s.modTeam i j f).replicas = s.replicas := rfl
@[simp] theorem State.modTeam_ltb (s : State) (i j : Nat) (f : Team → Team) : (s.modTeam i j f).ltb = s.ltb := rfl
@[simp] theorem State.modTeam_revoked (s : State) (i j : Nat) (f : Team → Team) : (s.modTeam i j f).revoked = s.revoked := rfl
@[simp] theorem State.modTeam_revoking (s : State) (i j : Nat) (f : Team → Team) : (s.modTeam i j f).revoking = s.revoking := rfl
@[simp] theorem State.modTeam_freed (s : State) (i j : Nat) (f : Team → Team) : (s.modTeam i j f).freed = s.freed := rfl
@[simp] theorem State.modTeam_badLines (s : State) (i j : Nat) (f : Team → Team) : (s.modTeam i j f).badLines = s.badLines := rfl
@[simp] theorem State.modTeam_inningPool (s : State) (i j : Nat) (f : Team → Team) : (s.modTeam i j f).inningPool = s.inningPool := rfl
@[simp] theorem State.modTeam_seedWrite (s : State) (i j : Nat) (f : Team → Team) : (s.modTeam i j f).seedWrite = s.seedWrite := rfl
@[simp] theorem State.modTeam_heldPages (s : State) (i j : Nat) (f : Team → Team) : (s.modTeam i j f).heldPages = s.heldPages := rfl
@[simp] theorem State.modTeam_moves (s : State) (i j : Nat) (f : Team → Team) : (s.modTeam i j f).moves = s.moves := rfl
@[simp] theorem State.modTeam_hostMoves (s : State) (i j : Nat) (f : Team → Team) : (s.modTeam i j f).hostMoves = s.hostMoves := rfl
@[simp] theorem State.modTeam_residNotices (s : State) (i j : Nat) (f : Team → Team) : (s.modTeam i j f).residNotices = s.residNotices := rfl
@[simp] theorem State.modTeam_cells (s : State) (i j : Nat) (f : Team → Team) : (s.modTeam i j f).cells = s.cells := rfl
@[simp] theorem State.modTeam_partials (s : State) (i j : Nat) (f : Team → Team) : (s.modTeam i j f).partials = s.partials := rfl
@[simp] theorem State.modTeam_bowls (s : State) (i j : Nat) (f : Team → Team) : (s.modTeam i j f).bowls = s.bowls := rfl
@[simp] theorem State.modTeam_filters (s : State) (i j : Nat) (f : Team → Team) : (s.modTeam i j f).filters = s.filters := rfl
@[simp] theorem State.modTeam_discards (s : State) (i j : Nat) (f : Team → Team) : (s.modTeam i j f).discards = s.discards := rfl
@[simp] theorem State.modTeam_seqs (s : State) (i j : Nat) (f : Team → Team) : (s.modTeam i j f).seqs = s.seqs := rfl
@[simp] theorem State.modTeam_merged (s : State) (i j : Nat) (f : Team → Team) : (s.modTeam i j f).merged = s.merged := rfl
@[simp] theorem State.modTeam_directory (s : State) (i j : Nat) (f : Team → Team) : (s.modTeam i j f).directory = s.directory := rfl
@[simp] theorem State.modTeam_wsStores (s : State) (i j : Nat) (f : Team → Team) : (s.modTeam i j f).wsStores = s.wsStores := rfl
@[simp] theorem State.modTeam_net (s : State) (i j : Nat) (f : Team → Team) : (s.modTeam i j f).net = s.net := rfl
@[simp] theorem State.modTeam_copies (s : State) (i j : Nat) (f : Team → Team) : (s.modTeam i j f).copies = s.copies := rfl
@[simp] theorem State.modTeam_nextCopy (s : State) (i j : Nat) (f : Team → Team) : (s.modTeam i j f).nextCopy = s.nextCopy := rfl
@[simp] theorem State.modTeam_mgmt (s : State) (i j : Nat) (f : Team → Team) : (s.modTeam i j f).mgmt = s.mgmt := rfl
@[simp] theorem State.modTeam_colls (s : State) (i j : Nat) (f : Team → Team) : (s.modTeam i j f).colls = s.colls := rfl
@[simp] theorem State.modTeam_heldSources (s : State) (i j : Nat) (f : Team → Team) : (s.modTeam i j f).heldSources = s.heldSources := rfl
@[simp] theorem State.modTeam_stallNotices (s : State) (i j : Nat) (f : Team → Team) : (s.modTeam i j f).stallNotices = s.stallNotices := rfl
@[simp] theorem State.modTeam_benches (s : State) (i j : Nat) (f : Team → Team) : (s.modTeam i j f).benches = s.benches := rfl
@[simp] theorem State.modTeam_replies (s : State) (i j : Nat) (f : Team → Team) : (s.modTeam i j f).replies = s.replies := rfl
@[simp] theorem State.modTeam_heldEvents (s : State) (i j : Nat) (f : Team → Team) : (s.modTeam i j f).heldEvents = s.heldEvents := rfl
@[simp] theorem State.modTeam_errorLog (s : State) (i j : Nat) (f : Team → Team) : (s.modTeam i j f).errorLog = s.errorLog := rfl
@[simp] theorem State.modTeam_retired (s : State) (i j : Nat) (f : Team → Team) : (s.modTeam i j f).retired = s.retired := rfl
@[simp] theorem State.modTeam_lostUnits (s : State) (i j : Nat) (f : Team → Team) : (s.modTeam i j f).lostUnits = s.lostUnits := rfl
@[simp] theorem State.modTeam_downUnits (s : State) (i j : Nat) (f : Team → Team) : (s.modTeam i j f).downUnits = s.downUnits := rfl
@[simp] theorem State.modTeam_joined (s : State) (i j : Nat) (f : Team → Team) : (s.modTeam i j f).joined = s.joined := rfl
@[simp] theorem State.modTeam_commandWritten (s : State) (i j : Nat) (f : Team → Team) : (s.modTeam i j f).commandWritten = s.commandWritten := rfl
@[simp] theorem State.modTeam_incarn (s : State) (i j : Nat) (f : Team → Team) : (s.modTeam i j f).incarn = s.incarn := rfl
@[simp] theorem State.modTeam_firmware (s : State) (i j : Nat) (f : Team → Team) : (s.modTeam i j f).firmware = s.firmware := rfl
@[simp] theorem State.modTeam_command (s : State) (i j : Nat) (f : Team → Team) : (s.modTeam i j f).command = s.command := rfl
@[simp] theorem State.modTeam_ide (s : State) (i j : Nat) (f : Team → Team) : (s.modTeam i j f).ide = s.ide := rfl
@[simp] theorem State.modTeam_doe (s : State) (i j : Nat) (f : Team → Team) : (s.modTeam i j f).doe = s.doe := rfl
@[simp] theorem State.modTeam_ports (s : State) (i j : Nat) (f : Team → Team) : (s.modTeam i j f).ports = s.ports := rfl
@[simp] theorem State.modTeam_podWritten (s : State) (i j : Nat) (f : Team → Team) : (s.modTeam i j f).podWritten = s.podWritten := rfl
@[simp] theorem State.modTeam_portsBegun (s : State) (i j : Nat) (f : Team → Team) : (s.modTeam i j f).portsBegun = s.portsBegun := rfl
@[simp] theorem State.modTeam_linkUp (s : State) (i j : Nat) (f : Team → Team) : (s.modTeam i j f).linkUp = s.linkUp := rfl
@[simp] theorem State.modTeam_linkFull (s : State) (i j : Nat) (f : Team → Team) : (s.modTeam i j f).linkFull = s.linkFull := rfl
@[simp] theorem State.modTeam_linkWide (s : State) (i j : Nat) (f : Team → Team) : (s.modTeam i j f).linkWide = s.linkWide := rfl
@[simp] theorem State.modTeam_throttled (s : State) (i j : Nat) (f : Team → Team) : (s.modTeam i j f).throttled = s.throttled := rfl
@[simp] theorem State.modTeam_hostHeld (s : State) (i j : Nat) (f : Team → Team) : (s.modTeam i j f).hostHeld = s.hostHeld := rfl
@[simp] theorem State.modTeam_agenda (s : State) (i j : Nat) (f : Team → Team) : (s.modTeam i j f).agenda = s.agenda := rfl
@[simp] theorem State.modTeam_cur (s : State) (i j : Nat) (f : Team → Team) : (s.modTeam i j f).cur = s.cur := rfl
@[simp] theorem State.modTeam_curRest (s : State) (i j : Nat) (f : Team → Team) : (s.modTeam i j f).curRest = s.curRest := rfl
@[simp] theorem State.modTeam_evictPlan (s : State) (i j : Nat) (f : Team → Team) : (s.modTeam i j f).evictPlan = s.evictPlan := rfl
@[simp] theorem State.modTeam_blocked (s : State) (i j : Nat) (f : Team → Team) : (s.modTeam i j f).blocked = s.blocked := rfl
@[simp] theorem State.modTeam_busy (s : State) (i j : Nat) (f : Team → Team) : (s.modTeam i j f).busy = s.busy := rfl
@[simp] theorem State.modTeam_curDone (s : State) (i j : Nat) (f : Team → Team) : (s.modTeam i j f).curDone = s.curDone := rfl
@[simp] theorem State.modTeam_freeCtr (s : State) (i j : Nat) (f : Team → Team) : (s.modTeam i j f).freeCtr = s.freeCtr := rfl

@[simp] theorem State.eachLane_clk (s : State) (c : Ctx) (l : List Thread) (f : Thread → Thread) : (s.eachLane c l f).clk = s.clk := rfl
@[simp] theorem State.eachLane_dstate (s : State) (c : Ctx) (l : List Thread) (f : Thread → Thread) : (s.eachLane c l f).dstate = s.dstate := rfl
@[simp] theorem State.eachLane_window (s : State) (c : Ctx) (l : List Thread) (f : Thread → Thread) : (s.eachLane c l f).window = s.window := rfl
@[simp] theorem State.eachLane_mem (s : State) (c : Ctx) (l : List Thread) (f : Thread → Thread) : (s.eachLane c l f).mem = s.mem := rfl
@[simp] theorem State.eachLane_hostMem (s : State) (c : Ctx) (l : List Thread) (f : Thread → Thread) : (s.eachLane c l f).hostMem = s.hostMem := rfl
@[simp] theorem State.eachLane_slots (s : State) (c : Ctx) (l : List Thread) (f : Thread → Thread) : (s.eachLane c l f).slots = s.slots := rfl
@[simp] theorem State.eachLane_remap (s : State) (c : Ctx) (l : List Thread) (f : Thread → Thread) : (s.eachLane c l f).remap = s.remap := rfl
@[simp] theorem State.eachLane_tasks (s : State) (c : Ctx) (l : List Thread) (f : Thread → Thread) : (s.eachLane c l f).tasks = s.tasks := rfl
@[simp] theorem State.eachLane_saved (s : State) (c : Ctx) (l : List Thread) (f : Thread → Thread) : (s.eachLane c l f).saved = s.saved := rfl
@[simp] theorem State.eachLane_nextTask (s : State) (c : Ctx) (l : List Thread) (f : Thread → Thread) : (s.eachLane c l f).nextTask = s.nextTask := rfl
@[simp] theorem State.eachLane_dirty (s : State) (c : Ctx) (l : List Thread) (f : Thread → Thread) : (s.eachLane c l f).dirty = s.dirty := rfl
@[simp] theorem State.eachLane_huddles (s : State) (c : Ctx) (l : List Thread) (f : Thread → Thread) : (s.eachLane c l f).huddles = s.huddles := rfl
@[simp] theorem State.eachLane_l1 (s : State) (c : Ctx) (l : List Thread) (f : Thread → Thread) : (s.eachLane c l f).l1 = s.l1 := rfl
@[simp] theorem State.eachLane_l2 (s : State) (c : Ctx) (l : List Thread) (f : Thread → Thread) : (s.eachLane c l f).l2 = s.l2 := rfl
@[simp] theorem State.eachLane_replicas (s : State) (c : Ctx) (l : List Thread) (f : Thread → Thread) : (s.eachLane c l f).replicas = s.replicas := rfl
@[simp] theorem State.eachLane_ltb (s : State) (c : Ctx) (l : List Thread) (f : Thread → Thread) : (s.eachLane c l f).ltb = s.ltb := rfl
@[simp] theorem State.eachLane_revoked (s : State) (c : Ctx) (l : List Thread) (f : Thread → Thread) : (s.eachLane c l f).revoked = s.revoked := rfl
@[simp] theorem State.eachLane_revoking (s : State) (c : Ctx) (l : List Thread) (f : Thread → Thread) : (s.eachLane c l f).revoking = s.revoking := rfl
@[simp] theorem State.eachLane_freed (s : State) (c : Ctx) (l : List Thread) (f : Thread → Thread) : (s.eachLane c l f).freed = s.freed := rfl
@[simp] theorem State.eachLane_badLines (s : State) (c : Ctx) (l : List Thread) (f : Thread → Thread) : (s.eachLane c l f).badLines = s.badLines := rfl
@[simp] theorem State.eachLane_inningPool (s : State) (c : Ctx) (l : List Thread) (f : Thread → Thread) : (s.eachLane c l f).inningPool = s.inningPool := rfl
@[simp] theorem State.eachLane_seedWrite (s : State) (c : Ctx) (l : List Thread) (f : Thread → Thread) : (s.eachLane c l f).seedWrite = s.seedWrite := rfl
@[simp] theorem State.eachLane_heldPages (s : State) (c : Ctx) (l : List Thread) (f : Thread → Thread) : (s.eachLane c l f).heldPages = s.heldPages := rfl
@[simp] theorem State.eachLane_moves (s : State) (c : Ctx) (l : List Thread) (f : Thread → Thread) : (s.eachLane c l f).moves = s.moves := rfl
@[simp] theorem State.eachLane_hostMoves (s : State) (c : Ctx) (l : List Thread) (f : Thread → Thread) : (s.eachLane c l f).hostMoves = s.hostMoves := rfl
@[simp] theorem State.eachLane_residNotices (s : State) (c : Ctx) (l : List Thread) (f : Thread → Thread) : (s.eachLane c l f).residNotices = s.residNotices := rfl
@[simp] theorem State.eachLane_cells (s : State) (c : Ctx) (l : List Thread) (f : Thread → Thread) : (s.eachLane c l f).cells = s.cells := rfl
@[simp] theorem State.eachLane_partials (s : State) (c : Ctx) (l : List Thread) (f : Thread → Thread) : (s.eachLane c l f).partials = s.partials := rfl
@[simp] theorem State.eachLane_bowls (s : State) (c : Ctx) (l : List Thread) (f : Thread → Thread) : (s.eachLane c l f).bowls = s.bowls := rfl
@[simp] theorem State.eachLane_filters (s : State) (c : Ctx) (l : List Thread) (f : Thread → Thread) : (s.eachLane c l f).filters = s.filters := rfl
@[simp] theorem State.eachLane_discards (s : State) (c : Ctx) (l : List Thread) (f : Thread → Thread) : (s.eachLane c l f).discards = s.discards := rfl
@[simp] theorem State.eachLane_seqs (s : State) (c : Ctx) (l : List Thread) (f : Thread → Thread) : (s.eachLane c l f).seqs = s.seqs := rfl
@[simp] theorem State.eachLane_merged (s : State) (c : Ctx) (l : List Thread) (f : Thread → Thread) : (s.eachLane c l f).merged = s.merged := rfl
@[simp] theorem State.eachLane_directory (s : State) (c : Ctx) (l : List Thread) (f : Thread → Thread) : (s.eachLane c l f).directory = s.directory := rfl
@[simp] theorem State.eachLane_wsStores (s : State) (c : Ctx) (l : List Thread) (f : Thread → Thread) : (s.eachLane c l f).wsStores = s.wsStores := rfl
@[simp] theorem State.eachLane_net (s : State) (c : Ctx) (l : List Thread) (f : Thread → Thread) : (s.eachLane c l f).net = s.net := rfl
@[simp] theorem State.eachLane_copies (s : State) (c : Ctx) (l : List Thread) (f : Thread → Thread) : (s.eachLane c l f).copies = s.copies := rfl
@[simp] theorem State.eachLane_nextCopy (s : State) (c : Ctx) (l : List Thread) (f : Thread → Thread) : (s.eachLane c l f).nextCopy = s.nextCopy := rfl
@[simp] theorem State.eachLane_mgmt (s : State) (c : Ctx) (l : List Thread) (f : Thread → Thread) : (s.eachLane c l f).mgmt = s.mgmt := rfl
@[simp] theorem State.eachLane_colls (s : State) (c : Ctx) (l : List Thread) (f : Thread → Thread) : (s.eachLane c l f).colls = s.colls := rfl
@[simp] theorem State.eachLane_heldSources (s : State) (c : Ctx) (l : List Thread) (f : Thread → Thread) : (s.eachLane c l f).heldSources = s.heldSources := rfl
@[simp] theorem State.eachLane_stallNotices (s : State) (c : Ctx) (l : List Thread) (f : Thread → Thread) : (s.eachLane c l f).stallNotices = s.stallNotices := rfl
@[simp] theorem State.eachLane_benches (s : State) (c : Ctx) (l : List Thread) (f : Thread → Thread) : (s.eachLane c l f).benches = s.benches := rfl
@[simp] theorem State.eachLane_replies (s : State) (c : Ctx) (l : List Thread) (f : Thread → Thread) : (s.eachLane c l f).replies = s.replies := rfl
@[simp] theorem State.eachLane_heldEvents (s : State) (c : Ctx) (l : List Thread) (f : Thread → Thread) : (s.eachLane c l f).heldEvents = s.heldEvents := rfl
@[simp] theorem State.eachLane_errorLog (s : State) (c : Ctx) (l : List Thread) (f : Thread → Thread) : (s.eachLane c l f).errorLog = s.errorLog := rfl
@[simp] theorem State.eachLane_retired (s : State) (c : Ctx) (l : List Thread) (f : Thread → Thread) : (s.eachLane c l f).retired = s.retired := rfl
@[simp] theorem State.eachLane_lostUnits (s : State) (c : Ctx) (l : List Thread) (f : Thread → Thread) : (s.eachLane c l f).lostUnits = s.lostUnits := rfl
@[simp] theorem State.eachLane_downUnits (s : State) (c : Ctx) (l : List Thread) (f : Thread → Thread) : (s.eachLane c l f).downUnits = s.downUnits := rfl
@[simp] theorem State.eachLane_joined (s : State) (c : Ctx) (l : List Thread) (f : Thread → Thread) : (s.eachLane c l f).joined = s.joined := rfl
@[simp] theorem State.eachLane_commandWritten (s : State) (c : Ctx) (l : List Thread) (f : Thread → Thread) : (s.eachLane c l f).commandWritten = s.commandWritten := rfl
@[simp] theorem State.eachLane_incarn (s : State) (c : Ctx) (l : List Thread) (f : Thread → Thread) : (s.eachLane c l f).incarn = s.incarn := rfl
@[simp] theorem State.eachLane_firmware (s : State) (c : Ctx) (l : List Thread) (f : Thread → Thread) : (s.eachLane c l f).firmware = s.firmware := rfl
@[simp] theorem State.eachLane_command (s : State) (c : Ctx) (l : List Thread) (f : Thread → Thread) : (s.eachLane c l f).command = s.command := rfl
@[simp] theorem State.eachLane_ide (s : State) (c : Ctx) (l : List Thread) (f : Thread → Thread) : (s.eachLane c l f).ide = s.ide := rfl
@[simp] theorem State.eachLane_doe (s : State) (c : Ctx) (l : List Thread) (f : Thread → Thread) : (s.eachLane c l f).doe = s.doe := rfl
@[simp] theorem State.eachLane_ports (s : State) (c : Ctx) (l : List Thread) (f : Thread → Thread) : (s.eachLane c l f).ports = s.ports := rfl
@[simp] theorem State.eachLane_podWritten (s : State) (c : Ctx) (l : List Thread) (f : Thread → Thread) : (s.eachLane c l f).podWritten = s.podWritten := rfl
@[simp] theorem State.eachLane_portsBegun (s : State) (c : Ctx) (l : List Thread) (f : Thread → Thread) : (s.eachLane c l f).portsBegun = s.portsBegun := rfl
@[simp] theorem State.eachLane_linkUp (s : State) (c : Ctx) (l : List Thread) (f : Thread → Thread) : (s.eachLane c l f).linkUp = s.linkUp := rfl
@[simp] theorem State.eachLane_linkFull (s : State) (c : Ctx) (l : List Thread) (f : Thread → Thread) : (s.eachLane c l f).linkFull = s.linkFull := rfl
@[simp] theorem State.eachLane_linkWide (s : State) (c : Ctx) (l : List Thread) (f : Thread → Thread) : (s.eachLane c l f).linkWide = s.linkWide := rfl
@[simp] theorem State.eachLane_throttled (s : State) (c : Ctx) (l : List Thread) (f : Thread → Thread) : (s.eachLane c l f).throttled = s.throttled := rfl
@[simp] theorem State.eachLane_hostHeld (s : State) (c : Ctx) (l : List Thread) (f : Thread → Thread) : (s.eachLane c l f).hostHeld = s.hostHeld := rfl
@[simp] theorem State.eachLane_agenda (s : State) (c : Ctx) (l : List Thread) (f : Thread → Thread) : (s.eachLane c l f).agenda = s.agenda := rfl
@[simp] theorem State.eachLane_cur (s : State) (c : Ctx) (l : List Thread) (f : Thread → Thread) : (s.eachLane c l f).cur = s.cur := rfl
@[simp] theorem State.eachLane_curRest (s : State) (c : Ctx) (l : List Thread) (f : Thread → Thread) : (s.eachLane c l f).curRest = s.curRest := rfl
@[simp] theorem State.eachLane_evictPlan (s : State) (c : Ctx) (l : List Thread) (f : Thread → Thread) : (s.eachLane c l f).evictPlan = s.evictPlan := rfl
@[simp] theorem State.eachLane_blocked (s : State) (c : Ctx) (l : List Thread) (f : Thread → Thread) : (s.eachLane c l f).blocked = s.blocked := rfl
@[simp] theorem State.eachLane_busy (s : State) (c : Ctx) (l : List Thread) (f : Thread → Thread) : (s.eachLane c l f).busy = s.busy := rfl
@[simp] theorem State.eachLane_curDone (s : State) (c : Ctx) (l : List Thread) (f : Thread → Thread) : (s.eachLane c l f).curDone = s.curDone := rfl
@[simp] theorem State.eachLane_freeCtr (s : State) (c : Ctx) (l : List Thread) (f : Thread → Thread) : (s.eachLane c l f).freeCtr = s.freeCtr := rfl

@[simp] theorem State.eachWarp_clk (s : State) (c : Ctx) (l : List Thread) (f : Nat → Warp → Warp) : (s.eachWarp c l f).clk = s.clk := rfl
@[simp] theorem State.eachWarp_dstate (s : State) (c : Ctx) (l : List Thread) (f : Nat → Warp → Warp) : (s.eachWarp c l f).dstate = s.dstate := rfl
@[simp] theorem State.eachWarp_window (s : State) (c : Ctx) (l : List Thread) (f : Nat → Warp → Warp) : (s.eachWarp c l f).window = s.window := rfl
@[simp] theorem State.eachWarp_mem (s : State) (c : Ctx) (l : List Thread) (f : Nat → Warp → Warp) : (s.eachWarp c l f).mem = s.mem := rfl
@[simp] theorem State.eachWarp_hostMem (s : State) (c : Ctx) (l : List Thread) (f : Nat → Warp → Warp) : (s.eachWarp c l f).hostMem = s.hostMem := rfl
@[simp] theorem State.eachWarp_slots (s : State) (c : Ctx) (l : List Thread) (f : Nat → Warp → Warp) : (s.eachWarp c l f).slots = s.slots := rfl
@[simp] theorem State.eachWarp_remap (s : State) (c : Ctx) (l : List Thread) (f : Nat → Warp → Warp) : (s.eachWarp c l f).remap = s.remap := rfl
@[simp] theorem State.eachWarp_tasks (s : State) (c : Ctx) (l : List Thread) (f : Nat → Warp → Warp) : (s.eachWarp c l f).tasks = s.tasks := rfl
@[simp] theorem State.eachWarp_saved (s : State) (c : Ctx) (l : List Thread) (f : Nat → Warp → Warp) : (s.eachWarp c l f).saved = s.saved := rfl
@[simp] theorem State.eachWarp_nextTask (s : State) (c : Ctx) (l : List Thread) (f : Nat → Warp → Warp) : (s.eachWarp c l f).nextTask = s.nextTask := rfl
@[simp] theorem State.eachWarp_dirty (s : State) (c : Ctx) (l : List Thread) (f : Nat → Warp → Warp) : (s.eachWarp c l f).dirty = s.dirty := rfl
@[simp] theorem State.eachWarp_huddles (s : State) (c : Ctx) (l : List Thread) (f : Nat → Warp → Warp) : (s.eachWarp c l f).huddles = s.huddles := rfl
@[simp] theorem State.eachWarp_l1 (s : State) (c : Ctx) (l : List Thread) (f : Nat → Warp → Warp) : (s.eachWarp c l f).l1 = s.l1 := rfl
@[simp] theorem State.eachWarp_l2 (s : State) (c : Ctx) (l : List Thread) (f : Nat → Warp → Warp) : (s.eachWarp c l f).l2 = s.l2 := rfl
@[simp] theorem State.eachWarp_replicas (s : State) (c : Ctx) (l : List Thread) (f : Nat → Warp → Warp) : (s.eachWarp c l f).replicas = s.replicas := rfl
@[simp] theorem State.eachWarp_ltb (s : State) (c : Ctx) (l : List Thread) (f : Nat → Warp → Warp) : (s.eachWarp c l f).ltb = s.ltb := rfl
@[simp] theorem State.eachWarp_revoked (s : State) (c : Ctx) (l : List Thread) (f : Nat → Warp → Warp) : (s.eachWarp c l f).revoked = s.revoked := rfl
@[simp] theorem State.eachWarp_revoking (s : State) (c : Ctx) (l : List Thread) (f : Nat → Warp → Warp) : (s.eachWarp c l f).revoking = s.revoking := rfl
@[simp] theorem State.eachWarp_freed (s : State) (c : Ctx) (l : List Thread) (f : Nat → Warp → Warp) : (s.eachWarp c l f).freed = s.freed := rfl
@[simp] theorem State.eachWarp_badLines (s : State) (c : Ctx) (l : List Thread) (f : Nat → Warp → Warp) : (s.eachWarp c l f).badLines = s.badLines := rfl
@[simp] theorem State.eachWarp_inningPool (s : State) (c : Ctx) (l : List Thread) (f : Nat → Warp → Warp) : (s.eachWarp c l f).inningPool = s.inningPool := rfl
@[simp] theorem State.eachWarp_seedWrite (s : State) (c : Ctx) (l : List Thread) (f : Nat → Warp → Warp) : (s.eachWarp c l f).seedWrite = s.seedWrite := rfl
@[simp] theorem State.eachWarp_heldPages (s : State) (c : Ctx) (l : List Thread) (f : Nat → Warp → Warp) : (s.eachWarp c l f).heldPages = s.heldPages := rfl
@[simp] theorem State.eachWarp_moves (s : State) (c : Ctx) (l : List Thread) (f : Nat → Warp → Warp) : (s.eachWarp c l f).moves = s.moves := rfl
@[simp] theorem State.eachWarp_hostMoves (s : State) (c : Ctx) (l : List Thread) (f : Nat → Warp → Warp) : (s.eachWarp c l f).hostMoves = s.hostMoves := rfl
@[simp] theorem State.eachWarp_residNotices (s : State) (c : Ctx) (l : List Thread) (f : Nat → Warp → Warp) : (s.eachWarp c l f).residNotices = s.residNotices := rfl
@[simp] theorem State.eachWarp_cells (s : State) (c : Ctx) (l : List Thread) (f : Nat → Warp → Warp) : (s.eachWarp c l f).cells = s.cells := rfl
@[simp] theorem State.eachWarp_partials (s : State) (c : Ctx) (l : List Thread) (f : Nat → Warp → Warp) : (s.eachWarp c l f).partials = s.partials := rfl
@[simp] theorem State.eachWarp_bowls (s : State) (c : Ctx) (l : List Thread) (f : Nat → Warp → Warp) : (s.eachWarp c l f).bowls = s.bowls := rfl
@[simp] theorem State.eachWarp_filters (s : State) (c : Ctx) (l : List Thread) (f : Nat → Warp → Warp) : (s.eachWarp c l f).filters = s.filters := rfl
@[simp] theorem State.eachWarp_discards (s : State) (c : Ctx) (l : List Thread) (f : Nat → Warp → Warp) : (s.eachWarp c l f).discards = s.discards := rfl
@[simp] theorem State.eachWarp_seqs (s : State) (c : Ctx) (l : List Thread) (f : Nat → Warp → Warp) : (s.eachWarp c l f).seqs = s.seqs := rfl
@[simp] theorem State.eachWarp_merged (s : State) (c : Ctx) (l : List Thread) (f : Nat → Warp → Warp) : (s.eachWarp c l f).merged = s.merged := rfl
@[simp] theorem State.eachWarp_directory (s : State) (c : Ctx) (l : List Thread) (f : Nat → Warp → Warp) : (s.eachWarp c l f).directory = s.directory := rfl
@[simp] theorem State.eachWarp_wsStores (s : State) (c : Ctx) (l : List Thread) (f : Nat → Warp → Warp) : (s.eachWarp c l f).wsStores = s.wsStores := rfl
@[simp] theorem State.eachWarp_net (s : State) (c : Ctx) (l : List Thread) (f : Nat → Warp → Warp) : (s.eachWarp c l f).net = s.net := rfl
@[simp] theorem State.eachWarp_copies (s : State) (c : Ctx) (l : List Thread) (f : Nat → Warp → Warp) : (s.eachWarp c l f).copies = s.copies := rfl
@[simp] theorem State.eachWarp_nextCopy (s : State) (c : Ctx) (l : List Thread) (f : Nat → Warp → Warp) : (s.eachWarp c l f).nextCopy = s.nextCopy := rfl
@[simp] theorem State.eachWarp_mgmt (s : State) (c : Ctx) (l : List Thread) (f : Nat → Warp → Warp) : (s.eachWarp c l f).mgmt = s.mgmt := rfl
@[simp] theorem State.eachWarp_colls (s : State) (c : Ctx) (l : List Thread) (f : Nat → Warp → Warp) : (s.eachWarp c l f).colls = s.colls := rfl
@[simp] theorem State.eachWarp_heldSources (s : State) (c : Ctx) (l : List Thread) (f : Nat → Warp → Warp) : (s.eachWarp c l f).heldSources = s.heldSources := rfl
@[simp] theorem State.eachWarp_stallNotices (s : State) (c : Ctx) (l : List Thread) (f : Nat → Warp → Warp) : (s.eachWarp c l f).stallNotices = s.stallNotices := rfl
@[simp] theorem State.eachWarp_benches (s : State) (c : Ctx) (l : List Thread) (f : Nat → Warp → Warp) : (s.eachWarp c l f).benches = s.benches := rfl
@[simp] theorem State.eachWarp_replies (s : State) (c : Ctx) (l : List Thread) (f : Nat → Warp → Warp) : (s.eachWarp c l f).replies = s.replies := rfl
@[simp] theorem State.eachWarp_heldEvents (s : State) (c : Ctx) (l : List Thread) (f : Nat → Warp → Warp) : (s.eachWarp c l f).heldEvents = s.heldEvents := rfl
@[simp] theorem State.eachWarp_errorLog (s : State) (c : Ctx) (l : List Thread) (f : Nat → Warp → Warp) : (s.eachWarp c l f).errorLog = s.errorLog := rfl
@[simp] theorem State.eachWarp_retired (s : State) (c : Ctx) (l : List Thread) (f : Nat → Warp → Warp) : (s.eachWarp c l f).retired = s.retired := rfl
@[simp] theorem State.eachWarp_lostUnits (s : State) (c : Ctx) (l : List Thread) (f : Nat → Warp → Warp) : (s.eachWarp c l f).lostUnits = s.lostUnits := rfl
@[simp] theorem State.eachWarp_downUnits (s : State) (c : Ctx) (l : List Thread) (f : Nat → Warp → Warp) : (s.eachWarp c l f).downUnits = s.downUnits := rfl
@[simp] theorem State.eachWarp_joined (s : State) (c : Ctx) (l : List Thread) (f : Nat → Warp → Warp) : (s.eachWarp c l f).joined = s.joined := rfl
@[simp] theorem State.eachWarp_commandWritten (s : State) (c : Ctx) (l : List Thread) (f : Nat → Warp → Warp) : (s.eachWarp c l f).commandWritten = s.commandWritten := rfl
@[simp] theorem State.eachWarp_incarn (s : State) (c : Ctx) (l : List Thread) (f : Nat → Warp → Warp) : (s.eachWarp c l f).incarn = s.incarn := rfl
@[simp] theorem State.eachWarp_firmware (s : State) (c : Ctx) (l : List Thread) (f : Nat → Warp → Warp) : (s.eachWarp c l f).firmware = s.firmware := rfl
@[simp] theorem State.eachWarp_command (s : State) (c : Ctx) (l : List Thread) (f : Nat → Warp → Warp) : (s.eachWarp c l f).command = s.command := rfl
@[simp] theorem State.eachWarp_ide (s : State) (c : Ctx) (l : List Thread) (f : Nat → Warp → Warp) : (s.eachWarp c l f).ide = s.ide := rfl
@[simp] theorem State.eachWarp_doe (s : State) (c : Ctx) (l : List Thread) (f : Nat → Warp → Warp) : (s.eachWarp c l f).doe = s.doe := rfl
@[simp] theorem State.eachWarp_ports (s : State) (c : Ctx) (l : List Thread) (f : Nat → Warp → Warp) : (s.eachWarp c l f).ports = s.ports := rfl
@[simp] theorem State.eachWarp_podWritten (s : State) (c : Ctx) (l : List Thread) (f : Nat → Warp → Warp) : (s.eachWarp c l f).podWritten = s.podWritten := rfl
@[simp] theorem State.eachWarp_portsBegun (s : State) (c : Ctx) (l : List Thread) (f : Nat → Warp → Warp) : (s.eachWarp c l f).portsBegun = s.portsBegun := rfl
@[simp] theorem State.eachWarp_linkUp (s : State) (c : Ctx) (l : List Thread) (f : Nat → Warp → Warp) : (s.eachWarp c l f).linkUp = s.linkUp := rfl
@[simp] theorem State.eachWarp_linkFull (s : State) (c : Ctx) (l : List Thread) (f : Nat → Warp → Warp) : (s.eachWarp c l f).linkFull = s.linkFull := rfl
@[simp] theorem State.eachWarp_linkWide (s : State) (c : Ctx) (l : List Thread) (f : Nat → Warp → Warp) : (s.eachWarp c l f).linkWide = s.linkWide := rfl
@[simp] theorem State.eachWarp_throttled (s : State) (c : Ctx) (l : List Thread) (f : Nat → Warp → Warp) : (s.eachWarp c l f).throttled = s.throttled := rfl
@[simp] theorem State.eachWarp_hostHeld (s : State) (c : Ctx) (l : List Thread) (f : Nat → Warp → Warp) : (s.eachWarp c l f).hostHeld = s.hostHeld := rfl
@[simp] theorem State.eachWarp_agenda (s : State) (c : Ctx) (l : List Thread) (f : Nat → Warp → Warp) : (s.eachWarp c l f).agenda = s.agenda := rfl
@[simp] theorem State.eachWarp_cur (s : State) (c : Ctx) (l : List Thread) (f : Nat → Warp → Warp) : (s.eachWarp c l f).cur = s.cur := rfl
@[simp] theorem State.eachWarp_curRest (s : State) (c : Ctx) (l : List Thread) (f : Nat → Warp → Warp) : (s.eachWarp c l f).curRest = s.curRest := rfl
@[simp] theorem State.eachWarp_evictPlan (s : State) (c : Ctx) (l : List Thread) (f : Nat → Warp → Warp) : (s.eachWarp c l f).evictPlan = s.evictPlan := rfl
@[simp] theorem State.eachWarp_blocked (s : State) (c : Ctx) (l : List Thread) (f : Nat → Warp → Warp) : (s.eachWarp c l f).blocked = s.blocked := rfl
@[simp] theorem State.eachWarp_busy (s : State) (c : Ctx) (l : List Thread) (f : Nat → Warp → Warp) : (s.eachWarp c l f).busy = s.busy := rfl
@[simp] theorem State.eachWarp_curDone (s : State) (c : Ctx) (l : List Thread) (f : Nat → Warp → Warp) : (s.eachWarp c l f).curDone = s.curDone := rfl
@[simp] theorem State.eachWarp_freeCtr (s : State) (c : Ctx) (l : List Thread) (f : Nat → Warp → Warp) : (s.eachWarp c l f).freeCtr = s.freeCtr := rfl

@[simp] theorem State.tick_freeCtr (s : State) : s.tick.freeCtr = s.freeCtr + 1 := rfl
@[simp] theorem State.tick_blocked (s : State) : s.tick.blocked = [] := rfl
@[simp] theorem State.setWindow_window (s : State) (o : Nat) (v : BitVec 64) :
    (s.setWindow o v).window = Sparse.set 0 s.window o v := rfl

end Sys2Proof.Machine
end

