-- ==== Sys2Proof/Laws/Issue.lean ====
section
/-!
SUPPORT. What issuing an instruction does: the checks that `run` makes pass where `CanIssue` holds, and what the retirement
of a group leaves alone.
-/
namespace Sys2Proof.Machine

open Sys2Proof

/-! ## The checks -/

theorem failing_nil {us : List RegUse} {tk : Task} {t : Thread} (h : ∀ u ∈ us, u.num + u.cnt ≤ allotOf tk t u.cls) :
    failing us tk t = [] := by
  rw [failing, List.filterMap_eq_nil_iff]
  intro u hu
  simp [overOf, h u hu]

/-- REGISTER BOUND is not raised where every operand lies below its allotment. -/
theorem State.boundFault_none {s : State} {c : Ctx} {act : List Thread} {us : List RegUse}
    (h : ∀ t ∈ act, ∀ u ∈ us, u.num + u.cnt ≤ allotOf c.tk t u.cls) : s.boundFault c act us = none := by
  have : (act.filter fun t => !(failing us c.tk t).isEmpty) = [] := by
    rw [List.filter_eq_nil_iff]
    intro t ht
    simp [failing_nil (h t ht)]
  simp [State.boundFault, this]

theorem State.waiting_nil {s : State} {c : Ctx} {us : List RegUse}
    (h : ∀ t ∈ c.threads, ∀ d ∈ s.pendingDests (c.key t) (c.warp t).queue, ∀ u ∈ us, destMeets u d = false) :
    s.waiting c us = [] := by
  rw [State.waiting, List.map_eq_nil_iff, List.filter_eq_nil_iff]
  intro t ht
  simp only [List.any_eq_true, not_exists, not_and]
  intro d hd u hu hm
  simp [h t ht d hd u hu] at hm

/-- Where the instruction can issue, `run` performs its own effect on the active lanes. -/
theorem run_issues {s : State} {c : Ctx} {i : Instr} {gs : Guards} (h : CanIssue s c i gs)
    (k : Ctx → List Thread → Eff) : run i gs s k = s.finish c i (k c (c.active gs)) := by
  have ha : ((i.uses c.wide).all RegUse.aligned) = true := List.all_eq_true.2 h.aligned
  simp [run, h.selected, ha, State.boundFault_none h.allotted, State.waiting_nil h.arrived]

theorem runMem_issues {s : State} {c : Ctx} {i : Instr} {gs : Guards} (h : CanIssue s c i gs) (hm : NoAcquire s c gs)
    (k : Ctx → List Thread → Eff) : runMem i gs s k = s.finish c i (k c (c.active gs)) := by
  have : s.memWaits c (c.active gs) = [] := by
    rw [State.memWaits, List.map_eq_nil_iff, List.filter_eq_nil_iff]
    intro t ht
    simp [hm t ht]
  rw [runMem, run_issues h]
  simp [this]

/-! ## Pad words depend on memory alone -/

theorem State.skipPads_teams (s : State) (x : List Team) (tk : Task) (a : Nat) :
    ({ s with teams := x } : State).skipPads tk a = s.skipPads tk a := by
  have hp : ∀ a, ({ s with teams := x } : State).peekWord tk a = s.peekWord tk a := fun _ => rfl
  have hf : ∀ n a, ({ s with teams := x } : State).skipPadsFrom tk n a = s.skipPadsFrom tk n a := by
    intro n
    induction n with
    | zero => exact fun _ => rfl
    | succ n ih => intro a; simp [State.skipPadsFrom, hp, ih]
  simp [State.skipPads, hf]

/-! ## Retirement -/

theorem Thread.still_wait (t : Thread) (w : Wait) : ({ t with wait := w } : Thread).still = t.still := rfl

theorem State.advance_still (s : State) (tk : Task) (len : Nat) (r : Bool) (t : Thread) :
    (s.advance tk len r t).still = t.still := by
  unfold State.advance
  split <;> rfl

theorem State.advance_plain (s : State) (tk : Task) (len : Nat) (t : Thread) :
    s.advance tk len false t = { t with pc := BitVec.ofNat 64 (s.skipPads tk (t.pc.toNat + len)) } := rfl

theorem State.retireThread_still (s : State) (c : Ctx) (len : Nat) (t : Thread) :
    (s.retireThread c len Post.none t).still = t.still := by
  have : (s.retireThread c len Post.none t).still = (s.advance c.tk len c.g.iter.isSome t).still := rfl
  rw [this, State.advance_still]

theorem State.retireThread_pc (s : State) (c : Ctx) (len : Nat) (t : Thread) (h : c.g.iter = none) :
    (s.retireThread c len Post.none t).pc = BitVec.ofNat 64 (s.skipPads c.tk (t.pc.toNat + len)) ∧
      (s.retireThread c len Post.none t).rep = t.rep := by
  have : c.g.iter.isSome = false := by simp [h]
  constructor
  · have h1 : (s.retireThread c len Post.none t).pc = (s.advance c.tk len c.g.iter.isSome t).pc := rfl
    rw [h1, this, State.advance_plain]
  · have h1 : (s.retireThread c len Post.none t).rep = (s.advance c.tk len c.g.iter.isSome t).rep := rfl
    rw [h1, this, State.advance_plain]

theorem State.retireThread_tid (s : State) (c : Ctx) (len : Nat) (t : Thread) :
    (s.retireThread c len Post.none t).tid = t.tid := by
  have : (s.retireThread c len Post.none t).tid = (s.advance c.tk len c.g.iter.isSome t).tid := rfl
  rw [this]
  unfold State.advance
  split <;> rfl

/-- What a team becomes that loses nothing but progress, when the group of `c` retires from the state `s'`. -/
def retiredTeam (s' : State) (c : Ctx) (len : Nat) (ks : List ThreadKey) (b : Team) : Team :=
  let b1 := if b.task == c.tk.id && b.team == c.tm.team then
    b.modThreads (fun t => c.g.members.contains t.tid) (s'.retireThread c len Post.none) else b
  { b1 with threads := b1.threads.map fun t => t.issued ks.contains }

/-- A YIELD wait that sees others issue changes the wait alone. -/
theorem Thread.issued_bystander (t : Thread) (p : ThreadKey → Bool) : Bystander t (t.issued p) := by
  unfold Thread.issued Bystander
  split
  · split <;> rfl
  · rfl

theorem State.retire_eq (s' : State) (c : Ctx) (i : Instr) :
    s'.retire c i Post.none = { s' with
      teams := s'.teams.map (retiredTeam s' c (instrBytes i)
        (c.g.members.map fun m => { task := c.tk.id, team := c.tm.team, tid := m }))
      freeCtr := s'.freeCtr + 1, blocked := [] } := by
  have h : (c.g.members.filter fun m => !Post.none.stay.contains m) = c.g.members := by simp [Post.none]
  simp only [State.retire, h]
  simp only [State.noteIssued, State.noteGone, State.tick, State.modTeam, mapIf, List.map_map]
  rfl

/-- The group of `c` retires after its threads were changed by `g` and its warps by `h`: nothing else is changed. -/
theorem groupEffect_retire {s : State} {c : Ctx} {i : Instr} {F : Team → Team} {g : Thread → Thread}
    {h : Nat → Warp → Warp} (hF : ∀ a, F a = { a with threads := a.threads.map g, warps := (F a).warps })
    (hw : ∀ a : Team, (F a).warps.length = a.warps.length ∧ ∀ k < a.warps.length, (F a).warp k = h k (a.warp k))
    (hm : ∀ x, x.tid ∉ c.g.members → g x = x) (ht : ∀ x, (g x).tid = x.tid) (hp : ∀ x, (g x).pc = x.pc) :
    GroupEffect s ((s.modTeam c.tk.id c.tm.team F).retire c i Post.none) c (s.follows c i) g h := by
  rw [State.retire_eq]
  refine ⟨rfl, ?_⟩
  show List.Forall₂ _ s.teams (List.map _ (mapIf _ F s.teams))
  rw [mapIf, List.map_map, List.forall₂_map_right_iff, List.forall₂_same]
  intro a _
  generalize hp' : (c.g.members.map fun m => ({ task := c.tk.id, team := c.tm.team, tid := m } : ThreadKey)) = ks
  have hstill : ∀ x : Thread, (x.issued ks.contains).still = x.still ∧ (x.issued ks.contains).pc = x.pc ∧
      (x.issued ks.contains).rep = x.rep := fun x => by
    have := Thread.issued_bystander x ks.contains
    rw [this]
    exact ⟨rfl, rfl, rfl⟩
  by_cases hk : a.task = c.tk.id ∧ a.team = c.tm.team
  · have hb : (a.task == c.tk.id && a.team == c.tm.team) = true := by simp [hk]
    have hb' : ((F a).task == c.tk.id && (F a).team == c.tm.team) = true := by rw [hF]; simp [hk]
    simp only [Function.comp_apply, hb, if_true, retiredTeam, hb']
    have key : ∀ x, if x.tid ∈ c.g.members then
        ((s.modTeam c.tk.id c.tm.team F).retireThread c (instrBytes i) Post.none (g x)).still = (g x).still ∧
        (c.g.iter = none →
          ((s.modTeam c.tk.id c.tm.team F).retireThread c (instrBytes i) Post.none (g x)).pc = BitVec.ofNat 64 (s.follows c i x) ∧
          ((s.modTeam c.tk.id c.tm.team F).retireThread c (instrBytes i) Post.none (g x)).rep = (g x).rep)
        else g x = x := by
      intro x
      split
      · refine ⟨State.retireThread_still _ _ _ _, fun hi => ?_⟩
        obtain ⟨h1, h2⟩ := State.retireThread_pc (s.modTeam c.tk.id c.tm.team F) c (instrBytes i) (g x) hi
        refine ⟨?_, h2⟩
        rw [h1, hp, State.follows, State.modTeam, State.skipPads_teams]
      · next hx => exact hm x hx
    have hthr : (F a).threads = a.threads.map g := by rw [hF]
    rw [if_pos hk]
    refine ⟨?_, (hw a).1, (hw a).2, ?_⟩
    · simp only [Team.modThreads]
      rw [hF]
    · simp only [Team.modThreads, mapIf, hthr]
      rw [List.map_map, List.map_map, List.forall₂_map_right_iff, List.forall₂_same]
      intro x _
      have := key x
      simp only [Function.comp_apply, List.contains_iff_mem, ht] at this ⊢
      split
      · next hx =>
        rw [if_pos hx] at this
        obtain ⟨h1, h2, h3⟩ := hstill ((s.modTeam c.tk.id c.tm.team F).retireThread c (instrBytes i) Post.none (g x))
        rw [h1, h2, h3]
        exact this
      · next hx =>
        rw [if_neg hx] at this
        rw [this]
        exact Thread.issued_bystander _ _
  · have hb : (a.task == c.tk.id && a.team == c.tm.team) = false := by
      simpa [Bool.and_eq_false_iff, Classical.not_and_iff_not_or_not] using hk
    simp only [Function.comp_apply, hb, Bool.false_eq_true, if_false, retiredTeam, if_neg hk]
    refine ⟨trivial, trivial, ?_⟩
    rw [List.forall₂_map_right_iff, List.forall₂_same]
    exact fun x _ => Thread.issued_bystander _ _

/-! ## Lanes and warps -/

theorem Ctx.thread_tid {c : Ctx} {t : Thread} (h : t ∈ c.threads) : t.tid ∈ c.g.members := by
  obtain ⟨m, hm, ht⟩ := List.mem_filterMap.1 h
  have := List.find?_some ht
  simp only [beq_iff_eq] at this
  exact this ▸ hm

theorem Ctx.active_tid {c : Ctx} {gs : Guards} {n : Nat} (h : n ∈ (c.active gs).map (·.tid)) : n ∈ c.g.members := by
  obtain ⟨t, ht, rfl⟩ := List.mem_map.1 h
  exact Ctx.thread_tid (List.mem_of_mem_filter ht)

theorem State.modTeam_modTeam (s : State) (i j : Nat) (f g : Team → Team) (hf : ∀ a, (f a).task = a.task ∧ (f a).team = a.team) :
    (s.modTeam i j f).modTeam i j g = s.modTeam i j (g ∘ f) := by
  simp only [State.modTeam, mapIf, List.map_map]
  congr 1
  apply List.map_congr_left
  intro a _
  by_cases h : a.task = i ∧ a.team = j
  · simp [h.1, h.2, (hf a).1, (hf a).2]
  · simp [h]

theorem foldl_modWarp (ks : List Nat) (h : Nat → Warp → Warp) (a : Team) (hn : ks.Nodup) :
    let b := ks.foldl (fun (tm : Team) k => tm.modWarp k (h k)) a
    b = { a with warps := b.warps } ∧ b.warps.length = a.warps.length ∧
      ∀ k < a.warps.length, b.warp k = if k ∈ ks then h k (a.warp k) else a.warp k := by
  induction ks generalizing a with
  | nil => simp
  | cons j t ih =>
    obtain ⟨hj, ht⟩ := List.nodup_cons.1 hn
    obtain ⟨h1, h2, h3⟩ := ih (a.modWarp j (h j)) ht
    have hl : (a.modWarp j (h j)).warps.length = a.warps.length := by simp [Team.modWarp]
    refine ⟨?_, by simpa [hl] using h2, ?_⟩
    · simp only [List.foldl_cons]
      rw [h1]
      rfl
    · intro k hk
      simp only [List.foldl_cons]
      rw [h3 k (by rw [hl]; exact hk)]
      have hw : (a.modWarp j (h j)).warp k = if k = j then h j (a.warp k) else a.warp k := by
        simp only [Team.warp, Team.modWarp, List.getD_eq_getElem?_getD, List.getElem?_modify]
        by_cases e : j = k
        · subst e; simp [hk]
        · simp [e, Ne.symm e]
      rw [hw]
      by_cases e : k = j
      · subst e; simp [hj]
      · simp [e]

/-- An instruction whose own effect is `f` on each active lane. -/
theorem lanesDo_of {i : Instr} {gs : Guards} {f : State → Ctx → Thread → Thread}
    (h : ∀ s, exec i s = run i gs s fun c act => .ok (s.eachLane c act (f s c)))
    (ht : ∀ s c x, (f s c x).tid = x.tid) (hp : ∀ s c x, (f s c x).pc = x.pc) : LanesDo i gs f := by
  intro s c hc
  refine ⟨_, by rw [h, run_issues hc]; rfl, ?_⟩
  simp only [State.eachLane]
  refine groupEffect_retire ?_ ?_ ?_ ?_ ?_
  · intro a
    simp [Team.modThreads, mapIf, Ctx.isActive]
  · intro a
    exact ⟨rfl, fun _ _ => rfl⟩
  · intro x hx
    rw [if_neg]
    exact fun ha => hx (Ctx.active_tid ha)
  · intro x; split <;> simp [ht]
  · intro x; split <;> simp [hp]

/-- An instruction whose own effect is `f` on each warp that has an active lane. -/
theorem warpsDo_of {i : Instr} {gs : Guards} {f : State → Ctx → Nat → Warp → Warp}
    (h : ∀ s, exec i s = run i gs s fun c act => .ok (s.eachWarp c act (f s c))) : WarpsDo i gs f := by
  intro s c hc
  refine ⟨_, by rw [h, run_issues hc]; rfl, ?_⟩
  simp only [State.eachWarp]
  refine groupEffect_retire ?_ ?_ ?_ ?_ ?_
  · intro a
    have := foldl_modWarp (c.warps (c.active gs)) (f s c) a (List.nodup_dedup _)
    conv_lhs => rw [this.1]
    simp
  · intro a
    have := foldl_modWarp (c.warps (c.active gs)) (f s c) a (List.nodup_dedup _)
    refine ⟨this.2.1, fun k hk => ?_⟩
    exact this.2.2 k hk
  · exact fun _ _ => rfl
  · exact fun _ => rfl
  · exact fun _ => rfl

theorem Thread.putRegs_tid (t : Thread) (r n v : Nat) : (t.putRegs r n v).tid = t.tid ∧ (t.putRegs r n v).pc = t.pc := by
  unfold Thread.putRegs; split <;> exact ⟨rfl, rfl⟩

/-- An entry of the ALU mould does what its result function says. -/
theorem aluDoes_of {i : Instr} {gs : Guards} {u : Bool} {d : RegNum} {n : Nat} {r : View → Rounded}
    (h : ∀ s, exec i s = runAlu i gs u d n s r) : AluDoes i gs u d n (fun v => (r v).code) fun v => (r v).sts := by
  intro s c hc
  cases u with
  | false =>
    refine ⟨_, by rw [h, runAlu, run_issues hc]; rfl, ?_⟩
    simp only [State.eachLane, Bool.false_eq_true, if_false]
    refine groupEffect_retire ?_ ?_ ?_ ?_ ?_
    · intro a
      simp [Team.modThreads, mapIf, Ctx.isActive]
    · intro a
      exact ⟨rfl, fun _ _ => by simp [Team.warp, Team.modThreads]⟩
    · intro x hx
      rw [if_neg]
      exact fun ha => hx (Ctx.active_tid ha)
    · intro x; split
      · rw [(Thread.putRegs_tid _ _ _ _).1]; rfl
      · rfl
    · intro x; split
      · rw [(Thread.putRegs_tid _ _ _ _).2]; rfl
      · rfl
  | true =>
    refine ⟨_, by rw [h, runAlu, run_issues hc]; rfl, ?_⟩
    simp only [State.eachLane, State.eachWarp, if_true]
    rw [State.modTeam_modTeam]
    swap
    · exact fun _ => ⟨rfl, rfl⟩
    have fw := fun a => foldl_modWarp (c.warps (c.active gs)) (fun _ w => w.putRegs d.val n (r (warpView w)).code) a
      (List.nodup_dedup _)
    refine groupEffect_retire ?_ ?_ ?_ ?_ ?_
    · intro a
      simp only [Function.comp_apply]
      conv_lhs => rw [(fw _).1]
      simp [Team.modThreads, mapIf, Ctx.isActive]
    · intro a
      simp only [Function.comp_apply]
      refine ⟨(fw _).2.1, fun k hk => ?_⟩
      refine ((fw (a.modThreads _ _)).2.2 k hk).trans ?_
      simp only [true_and]
      rfl
    · intro x hx
      rw [if_neg]
      exact fun ha => hx (Ctx.active_tid ha)
    · intro x; split <;> rfl
    · intro x; split <;> rfl

end Sys2Proof.Machine
end

