-- ==== Sys2Proof/Laws/Sparse.lean ====
section
/-!
SUPPORT. Laws of canonical maps and of byte memory: what a read finds after a write, and that every memory operation keeps
the canonical form.
-/
namespace Sys2Proof.Machine

variable {α : Type}

/-! ## Reads after writes -/

theorem Sparse.get_erase_same (d : α) (m : Sparse α) (n : Nat) : Sparse.get d (Sparse.erase m n) n = d := by
  induction m with
  | nil => rfl
  | cons x t ih =>
    obtain ⟨k, v⟩ := x
    by_cases h : n = k
    · simp [Sparse.erase, h] at ih ⊢
      exact h ▸ ih
    · simp [Sparse.erase, Sparse.get, h, ih]

theorem Sparse.get_erase_other (d : α) (m : Sparse α) {n a : Nat} (h : a ≠ n) :
    Sparse.get d (Sparse.erase m n) a = Sparse.get d m a := by
  induction m with
  | nil => rfl
  | cons x t ih =>
    obtain ⟨k, v⟩ := x
    by_cases hk : n = k
    · subst hk
      simp [Sparse.erase, Sparse.get, h, ih]
    · simp [Sparse.erase, Sparse.get, hk, ih]

theorem Sparse.get_add_same (d : α) (m : Sparse α) (n : Nat) (v : α) (h : ∀ x ∈ m, x.1 ≠ n) :
    Sparse.get d (Sparse.add m n v) n = v := by
  induction m with
  | nil => simp [Sparse.add, Sparse.get]
  | cons x t ih =>
    obtain ⟨k, w⟩ := x
    have hk : n ≠ k := fun e => h (k, w) (by simp) e.symm
    by_cases hlt : n < k
    · simp [Sparse.add, hlt, Sparse.get]
    · simp [Sparse.add, hlt, Sparse.get, hk, ih fun x hx => h x (by simp [hx])]

theorem Sparse.get_add_other (d : α) (m : Sparse α) {n a : Nat} (v : α) (h : a ≠ n) :
    Sparse.get d (Sparse.add m n v) a = Sparse.get d m a := by
  induction m with
  | nil => simp [Sparse.add, Sparse.get, h]
  | cons x t ih =>
    obtain ⟨k, w⟩ := x
    by_cases hlt : n < k
    · simp [Sparse.add, hlt, Sparse.get, h]
    · simp [Sparse.add, hlt, Sparse.get, ih]

theorem Sparse.erase_absent (m : Sparse α) (n : Nat) : ∀ x ∈ Sparse.erase m n, x.1 ≠ n := by
  induction m with
  | nil => simp [Sparse.erase]
  | cons x t ih =>
    obtain ⟨k, v⟩ := x
    by_cases h : n = k
    · rw [Sparse.erase, if_pos h]
      exact ih
    · simp only [Sparse.erase, h, if_false, List.mem_cons, forall_eq_or_imp]
      exact ⟨fun e => h e.symm, ih⟩

variable [DecidableEq α]

/-- A read after a write to the same place gives the value written. -/
@[simp] theorem Sparse.get_set_same (d : α) (m : Sparse α) (n : Nat) (v : α) :
    Sparse.get d (Sparse.set d m n v) n = v := by
  unfold Sparse.set
  split
  · next h => rw [Sparse.get_erase_same, h]
  · exact Sparse.get_add_same d _ n v (Sparse.erase_absent m n)

/-- A write leaves every other place alone. -/
theorem Sparse.get_set_other (d : α) (m : Sparse α) {n a : Nat} (v : α) (h : a ≠ n) :
    Sparse.get d (Sparse.set d m n v) a = Sparse.get d m a := by
  unfold Sparse.set
  split
  · exact Sparse.get_erase_other d m h
  · rw [Sparse.get_add_other d _ v h, Sparse.get_erase_other d m h]

theorem Sparse.get_set (d : α) (m : Sparse α) (n a : Nat) (v : α) :
    Sparse.get d (Sparse.set d m n v) a = if a = n then v else Sparse.get d m a := by
  split
  · next h => rw [h, Sparse.get_set_same]
  · next h => exact Sparse.get_set_other d m v h

/-! ## The canonical form -/

theorem Sparse.wfFrom_cons {d : α} {lo : Option Nat} {k : Nat} {v : α} {t : Sparse α} :
    Sparse.wfFrom d lo ((k, v) :: t) = true ↔ (∀ l ∈ lo, l < k) ∧ v ≠ d ∧ Sparse.wfFrom d (some k) t = true := by
  cases lo <;> simp [Sparse.wfFrom, and_assoc]

theorem Sparse.wfFrom_weaken {d : α} {lo lo' : Option Nat} {m : Sparse α}
    (h : ∀ k, (∀ l ∈ lo, l < k) → ∀ l ∈ lo', l < k) (hm : Sparse.wfFrom d lo m = true) : Sparse.wfFrom d lo' m = true := by
  cases m with
  | nil => rfl
  | cons x t => exact Sparse.wfFrom_cons.2 ⟨h _ (Sparse.wfFrom_cons.1 hm).1, (Sparse.wfFrom_cons.1 hm).2⟩

theorem Sparse.wfFrom_erase {d : α} {lo : Option Nat} {m : Sparse α} (n : Nat) (h : Sparse.wfFrom d lo m = true) :
    Sparse.wfFrom d lo (Sparse.erase m n) = true := by
  induction m generalizing lo with
  | nil => rfl
  | cons x t ih =>
    obtain ⟨k, v⟩ := x
    obtain ⟨h1, h2, h3⟩ := Sparse.wfFrom_cons.1 h
    rw [Sparse.erase]
    split
    · exact Sparse.wfFrom_weaken (fun j hj l hl => lt_trans (h1 l hl) (hj k rfl)) (ih h3)
    · exact Sparse.wfFrom_cons.2 ⟨h1, h2, ih h3⟩

theorem Sparse.wfFrom_add {d : α} {lo : Option Nat} {m : Sparse α} {n : Nat} {v : α} (hv : v ≠ d)
    (hn : ∀ l ∈ lo, l < n) (ha : ∀ x ∈ m, x.1 ≠ n) (h : Sparse.wfFrom d lo m = true) :
    Sparse.wfFrom d lo (Sparse.add m n v) = true := by
  induction m generalizing lo with
  | nil => exact Sparse.wfFrom_cons.2 ⟨hn, hv, rfl⟩
  | cons x t ih =>
    obtain ⟨k, w⟩ := x
    obtain ⟨h1, h2, h3⟩ := Sparse.wfFrom_cons.1 h
    have hk : k ≠ n := ha (k, w) (by simp)
    rw [Sparse.add]
    split
    · next hlt => exact Sparse.wfFrom_cons.2 ⟨hn, hv, Sparse.wfFrom_cons.2 ⟨by simpa using hlt, h2, h3⟩⟩
    · exact Sparse.wfFrom_cons.2 ⟨h1, h2, ih (by simp; omega) (fun x hx => ha x (by simp [hx])) h3⟩

/-- A write keeps the canonical form. -/
theorem Sparse.wf_set {d : α} {m : Sparse α} (n : Nat) (v : α) (h : Sparse.wf d m = true) :
    Sparse.wf d (Sparse.set d m n v) = true := by
  unfold Sparse.set Sparse.wf
  split
  · exact Sparse.wfFrom_erase n h
  · next hv =>
      exact Sparse.wfFrom_add hv (by simp) (Sparse.erase_absent m n) (Sparse.wfFrom_erase n h)

/-- Dropping entries keeps the canonical form. -/
theorem Sparse.wfFrom_filter {d : α} {lo : Option Nat} {m : Sparse α} (p : Nat × α → Bool)
    (h : Sparse.wfFrom d lo m = true) : Sparse.wfFrom d lo (m.filter p) = true := by
  induction m generalizing lo with
  | nil => rfl
  | cons x t ih =>
    obtain ⟨k, v⟩ := x
    obtain ⟨h1, h2, h3⟩ := Sparse.wfFrom_cons.1 h
    rw [List.filter_cons]
    split
    · exact Sparse.wfFrom_cons.2 ⟨h1, h2, ih h3⟩
    · exact Sparse.wfFrom_weaken (fun j hj l hl => lt_trans (h1 l hl) (hj k rfl)) (ih h3)

theorem Sparse.wf_filter {d : α} {m : Sparse α} (p : Nat × α → Bool) (h : Sparse.wf d m = true) :
    Sparse.wf d (m.filter p) = true := Sparse.wfFrom_filter p h

/-! ## Byte memory -/

theorem Memory.wf_write {m : List Host.Cell} (a : Nat) (b : Byte) (h : Memory.wf m = true) :
    Memory.wf (Memory.write m a b) = true := Sparse.wf_set a b h

theorem Memory.wf_put {m : List Host.Cell} (a : Nat) (bs : List Byte) (h : Memory.wf m = true) :
    Memory.wf (Memory.put m a bs) = true := by
  induction bs generalizing m a with
  | nil => exact h
  | cons b t ih => exact ih (a + 1) (Memory.wf_write a b h)

theorem Memory.wf_copyRange {m : List Host.Cell} (src dst n : Nat) (h : Memory.wf m = true) :
    Memory.wf (Memory.copyRange m src dst n) = true := by
  unfold Memory.copyRange
  have : ∀ (l : List Host.Cell) (k : List Host.Cell), Memory.wf k = true →
      Memory.wf (l.foldl (fun k x => Memory.write k (x.1 - src + dst) x.2) k) = true := by
    intro l
    induction l with
    | nil => exact fun _ hk => hk
    | cons x t ih => exact fun k hk => ih _ (Memory.wf_write _ _ hk)
  exact this _ _ (Sparse.wf_filter _ h)

@[simp] theorem Memory.read_write_same (m : List Host.Cell) (a : Nat) (b : Byte) :
    Memory.read (Memory.write m a b) a = b := Sparse.get_set_same _ _ _ _

theorem Memory.read_write_other (m : List Host.Cell) {a n : Nat} (b : Byte) (h : a ≠ n) :
    Memory.read (Memory.write m n b) a = Memory.read m a := Sparse.get_set_other _ _ _ h

/-- Below the first byte written, memory is unchanged. -/
theorem Memory.read_put_below (m : List Host.Cell) {a n : Nat} (bs : List Byte) (h : a < n) :
    Memory.read (Memory.put m n bs) a = Memory.read m a := by
  induction bs generalizing m n with
  | nil => rfl
  | cons b t ih =>
    rw [Memory.put, ih _ (by omega), Memory.read_write_other _ _ (by omega)]

/-- Outside the bytes written, memory is unchanged. -/
theorem Memory.read_put_outside (m : List Host.Cell) {a n : Nat} (bs : List Byte) (h : a < n ∨ n + bs.length ≤ a) :
    Memory.read (Memory.put m n bs) a = Memory.read m a := by
  induction bs generalizing m n with
  | nil => rfl
  | cons b t ih =>
    simp only [List.length_cons] at h
    rw [Memory.put, ih _ (by omega), Memory.read_write_other _ _ (by omega)]

/-- A byte written is read back. -/
theorem Memory.read_put_inside (m : List Host.Cell) (n j : Nat) (bs : List Byte) (h : j < bs.length) :
    Memory.read (Memory.put m n bs) (n + j) = bs[j] := by
  induction bs generalizing m n j with
  | nil => simp at h
  | cons b t ih =>
    cases j with
    | zero => simp [Memory.put, Memory.read_put_below]
    | succ j =>
      have := ih (Memory.write m n b) (n + 1) j (by simpa using h)
      simpa [Memory.put, Nat.add_assoc, Nat.add_comm 1 j] using this

/-- Cells at other addresses do not matter to a read. -/
theorem Memory.read_filter {m : List Host.Cell} {p : Host.Cell → Bool} {a : Nat} (h : ∀ b, p (a, b) = true) :
    Memory.read (m.filter p) a = Memory.read m a := by
  induction m with
  | nil => rfl
  | cons x t ih =>
    obtain ⟨k, v⟩ := x
    unfold Memory.read at ih ⊢
    by_cases hk : a = k
    · subst hk; simp [h, Sparse.get]
    · rw [List.filter_cons]
      split <;> simp only [Sparse.get, hk, if_false] <;> exact ih

/-- The bytes of a range are read one by one. -/
theorem Memory.bytes_eq (m : List Host.Cell) (a n : Nat) :
    Memory.bytes m a n = (List.range n).map fun j => Memory.read m (a + j) := by
  unfold Memory.bytes
  refine List.map_congr_left fun j hj => Memory.read_filter fun b => ?_
  simp [List.mem_range.mp hj]

end Sys2Proof.Machine
end

