-- ==== Sys2Proof/Laws/MemOk.lean ====
section
/-!
SUPPORT. The shared operations keep device and host memory in canonical form (`State.memOk`).
-/
namespace Sys2Proof.Machine

open Sys2Proof

/-- Memory is all that the form speaks of. -/
theorem State.memOk_of {s t : State} (h : s.memOk) (hm : t.mem = s.mem) (hh : t.hostMem = s.hostMem) : t.memOk := by
  unfold State.memOk; rw [hm, hh]; exact h

/-- A fold of an operation that keeps the form keeps it. -/
theorem foldl_memOk {α : Type} {f : State → α → State} (hf : ∀ s a, s.memOk → (f s a).memOk) :
    ∀ (l : List α) (s : State), s.memOk → (l.foldl f s).memOk
  | [], _, h => h
  | a :: l, s, h => foldl_memOk hf l (f s a) (hf s a h)

/-- The same where the fold carries another value beside the state. -/
theorem foldl_snd_memOk {α β : Type} {f : β × State → α → β × State} (hf : ∀ x a, x.2.memOk → (f x a).2.memOk) :
    ∀ (l : List α) (x : β × State), x.2.memOk → (l.foldl f x).2.memOk
  | [], _, h => h
  | a :: l, x, h => foldl_snd_memOk hf l (f x a) (hf x a h)

theorem foldl_fst_memOk {α β : Type} {f : State × β → α → State × β} (hf : ∀ x a, x.1.memOk → (f x a).1.memOk) :
    ∀ (l : List α) (x : State × β), x.1.memOk → (l.foldl f x).1.memOk
  | [], _, h => h
  | a :: l, x, h => foldl_fst_memOk hf l (f x a) (hf x a h)

/-! ## Bytes and lines -/

theorem State.writeBytes_memOk {s : State} (p : Place) (bs : List Byte) (h : s.memOk) : (s.writeBytes p bs).memOk := by
  unfold State.writeBytes
  split
  · exact ⟨Memory.wf_put _ _ h.1, h.2⟩
  · exact ⟨h.1, Memory.wf_put _ _ h.2⟩
  · exact h

theorem State.writeMasked_memOk {s : State} (p : Place) (bs : List Byte) (m : BitVec 128) (h : s.memOk) :
    (s.writeMasked p bs m).memOk := State.writeBytes_memOk _ _ h

/-- Dirty lines go home. -/
theorem writeBack_memOk {s : State} (ls : List L1Line) (h : s.memOk) :
    (ls.foldl (fun s l => if l.dirty = 0 then s else s.writeMasked l.place (lineBytes l.data) l.dirty) s).memOk :=
  foldl_memOk (fun s l hs => by split <;> [exact hs; exact State.writeMasked_memOk _ _ _ hs]) ls s h

theorem State.l1Evict_memOk {s : State} (q : L1Line → Bool) (h : s.memOk) : (s.l1Evict q).memOk :=
  State.memOk_of (writeBack_memOk _ h) rfl rfl
theorem State.l1Clean_memOk {s : State} (q : L1Line → Bool) (h : s.memOk) : (s.l1Clean q).memOk :=
  State.memOk_of (writeBack_memOk _ h) rfl rfl

theorem State.filterRoom_memOk {s : State} (core : Nat) (p : Place) (h : s.memOk) : (s.filterRoom core p).memOk := by
  unfold State.filterRoom
  split
  · split <;> [exact State.l1Evict_memOk _ h; exact h]
  · exact h
theorem State.l1Room_memOk {s : State} (core : Nat) (p : Place) (h : s.memOk) : (s.l1Room core p).memOk := by
  unfold State.l1Room
  dsimp only
  split
  · exact h
  · split
    · exact h
    · split <;> [exact State.l1Evict_memOk _ h; exact h]
theorem State.l1Put_memOk {s : State} (l : L1Line) (h : s.memOk) : (s.l1Put l).memOk := h
theorem State.l1Touch_memOk {s : State} (core : Nat) (p : Place) (h : s.memOk) : (s.l1Touch core p).memOk := h
theorem State.dirRoom_memOk {s : State} (p : Place) (h : s.memOk) : (s.dirRoom p).memOk := by
  unfold State.dirRoom
  dsimp only
  split
  · exact h
  · split
    · exact h
    · split <;> [exact State.memOk_of (State.l1Evict_memOk _ h) rfl rfl; exact h]
theorem State.dirSet_memOk {s : State} (p : Place) (club : Nat) (h : s.memOk) : (s.dirSet p club).memOk := by
  unfold State.dirSet
  dsimp only
  split
  · exact h
  · split <;> [exact h; exact State.memOk_of (State.dirRoom_memOk p h) rfl rfl]
theorem State.l2Room_memOk {s : State} (slice : Nat) (p : Place) (h : s.memOk) : (s.l2Room slice p).memOk := by
  unfold State.l2Room
  dsimp only
  split
  · exact h
  · split <;> exact h
theorem State.tagL2_memOk {s : State} (p : Place) (cls : Cls) (h : s.memOk) : (s.tagL2 p cls).memOk := by
  unfold State.tagL2
  split
  · split <;> exact h
  · exact State.memOk_of (State.l2Room_memOk _ _ h) rfl rfl
theorem State.fillL2_memOk {s : State} (p : Place) (cls : Cls) (cp : Nat) (h : s.memOk) : (s.fillL2 p cls cp).memOk := by
  unfold State.fillL2; split <;> [exact h; exact State.tagL2_memOk _ _ h]
theorem State.fillL1_memOk {s : State} (core : Nat) (p : Place) (cls : Cls) (cp : Nat) (bs : List Byte) (h : s.memOk) :
    (s.fillL1 core p cls cp bs).memOk := by
  have h1 := State.fillL2_memOk p cls cp h
  unfold State.fillL1
  dsimp only
  split
  · exact h1
  · exact State.dirSet_memOk _ _ (State.l1Put_memOk _ (State.l1Room_memOk _ _ (State.filterRoom_memOk _ _ h1)))
theorem State.replicate_memOk {s : State} (core task : Nat) (x : Xlat) (h : s.memOk) : (s.replicate core task x).memOk := by
  unfold State.replicate
  extract_lets p club may
  clear_value may
  split
  · exact State.memOk_of (State.l2Room_memOk club p h) rfl rfl
  · exact h
theorem State.acquire_memOk {s : State} (core : Nat) (sc : Scope) (h : s.memOk) : (s.acquire core sc).memOk := by
  cases sc <;> exact h
theorem State.acquireIf_memOk {s : State} (core : Nat) (o : Option Scope) (h : s.memOk) : (s.acquireIf core o).memOk := by
  cases o <;> [exact h; exact State.acquire_memOk _ _ h]

/-! ## Notification and the home -/

theorem State.notify_memOk {s : State} (p : Place) (core : Nat) (cls : Cls) (ow : ThreadKey) (h : s.memOk) :
    (s.notify p core cls ow).memOk := h
theorem State.snoopHost_memOk {s : State} (p : Place) (ow : ThreadKey) (h : s.memOk) : (s.snoopHost p ow).memOk := by
  unfold State.snoopHost; split <;> [(split <;> exact h); exact h; exact h]
theorem State.noteWriter_memOk {s : State} (k : ThreadKey) (p : Place) (h : s.memOk) : (s.noteWriter k p).memOk := h
theorem State.wroteHome_memOk {s : State} (p : Place) (core : Nat) (cls : Cls) (ow : ThreadKey) (h : s.memOk) :
    (s.wroteHome p core cls ow).memOk :=
  State.tagL2_memOk _ _ (State.noteWriter_memOk _ _ (State.snoopHost_memOk _ _ (State.notify_memOk _ _ _ _ h)))
theorem State.sendPasses_memOk {s : State} (w : LaneStore) (h : s.memOk) : (s.sendPasses w).memOk := by
  unfold State.sendPasses
  refine foldl_memOk (fun s tg hs => ?_) _ _ h
  dsimp only
  split <;> [exact State.memOk_of (State.dirSet_memOk _ _ hs) rfl rfl; exact hs]
theorem State.reply_memOk {s : State} (ow : ThreadKey) (d : LoadDest) (bs : List Byte) (h : s.memOk) : (s.reply ow d bs).memOk := h
theorem State.replyTo_memOk {s : State} (q : RemoteReq) (a : Answer) (h : s.memOk) : (s.replyTo q a).memOk := h
theorem State.cutWs_memOk {s : State} (p : Place) (n : Nat) (q : WsStore → Bool) (h : s.memOk) : (s.cutWs p n q).memOk := h

/-- What the device wrote of a host line before goes to the host's memory in the order of the messages. -/
theorem hostWrites_wf (mine : Nat → Bool) : ∀ (l : List Msg) (m : Sparse Byte), Memory.wf m = true →
    Memory.wf (l.foldl (fun mem m => match m with
      | .hostWrite _ a d => if mine a then Memory.put mem a d else mem
      | _ => mem) m) = true
  | [], _, h => h
  | x :: l, m, h => by
    rw [List.foldl_cons]
    refine hostWrites_wf mine l _ ?_
    split
    · split <;> [exact Memory.wf_put _ _ h; exact h]
    · exact h

theorem State.writeAtomic_memOk {s : State} (p : Place) (bs : List Byte) (ow : ThreadKey) (h : s.memOk) :
    (s.writeAtomic p bs ow).memOk := by
  unfold State.writeAtomic
  split
  · exact ⟨h.1, Memory.wf_put _ _ (hostWrites_wf _ _ _ h.2)⟩
  · exact State.writeBytes_memOk _ _ h
  · exact State.writeBytes_memOk _ _ h
theorem State.writeStore_memOk {s : State} (core : Nat) (w : LaneStore) (h : s.memOk) : (s.writeStore core w).memOk := by
  unfold State.writeStore
  dsimp only
  have h1 : (match w.place.space with
      | .host => s.putHost w.place.addr w.data w.owner
      | .dev | .remote _ => s.writeBytes w.place w.data).memOk := by
    split <;> [exact h; exact State.writeBytes_memOk _ _ h; exact State.writeBytes_memOk _ _ h]
  split <;> [exact State.memOk_of h1 rfl rfl; exact h1]

theorem State.modCell_memOk {s : State} (line : Nat) (f : HomeCell → HomeCell) (h : s.memOk) : (s.modCell line f).memOk := h
theorem State.addHome_memOk {s : State} (line : Nat) (cls : Cls) (t : Acc) (h : s.memOk) : (s.addHome line cls t).memOk := by
  unfold State.addHome
  split <;> [exact h; exact State.memOk_of (State.wroteHome_memOk _ _ _ _ h) rfl rfl]
theorem State.regHome_memOk {s : State} (line : Nat) (cls : Cls) (j : Nat) (h : s.memOk) : (s.regHome line cls j).memOk :=
  State.memOk_of (State.addHome_memOk line cls Acc.zero h) rfl rfl

theorem State.serveAt_memOk {s : State} (q : RemoteReq) (p : Place) (h : s.memOk) : (s.serveAt q p).memOk := by
  have hw : ∀ bs, (((s.writeBytes p bs).cutWs p bs.length fun _ => true).wroteHome p noCore (reqCls q) noThread).memOk :=
    fun bs => State.wroteHome_memOk _ _ _ _ (State.cutWs_memOk _ _ _ (State.writeBytes_memOk _ _ h))
  unfold State.serveAt
  dsimp only
  split
  · exact State.replyTo_memOk _ _ (hw _)
  · exact State.replyTo_memOk _ _ h
  · exact State.replyTo_memOk _ _ (hw _)
  · exact State.replyTo_memOk _ _ (hw _)
  · exact State.replyTo_memOk _ _ (State.addHome_memOk _ _ _ h)
  · exact State.replyTo_memOk _ _ (hw _)

theorem State.performHome_memOk {s : State} (r : HomeReq) (later : List HomeReq) (h : s.memOk) :
    (s.performHome r later).memOk := by
  cases r with
  | load ow core p cls n dest how =>
    refine State.acquireIf_memOk _ _ (State.reply_memOk _ _ _ ?_)
    split
    · exact State.l1Touch_memOk _ _ (State.fillL2_memOk _ _ _ h)
    · split <;> [exact State.fillL1_memOk _ _ _ _ _ h; exact State.fillL2_memOk _ _ _ h]
  | store core w => exact State.sendPasses_memOk _ (State.wroteHome_memOk _ _ _ _ (State.writeStore_memOk _ _ h))
  | atom core ow p cls op dst how =>
    exact State.acquireIf_memOk _ _ (State.reply_memOk _ _ _ (State.wroteHome_memOk _ _ _ _
      (State.writeAtomic_memOk _ _ _ h)))
  | ldaccZero core ow p cls dst how =>
    exact State.acquireIf_memOk _ _ (State.reply_memOk _ _ _ (State.wroteHome_memOk _ _ _ _
      (State.writeAtomic_memOk _ _ _ h)))
  | remote q p => exact State.serveAt_memOk _ _ h
  | contrib _ _ _ _ => exact h
  | reg _ _ => exact h
  | clean => exact h

theorem State.takeQueued_memOk {s : State} (line : Nat) (r : HomeReq) (h : s.memOk) : (s.takeQueued line r).memOk := by
  cases r with
  | contrib _ _ _ _ => exact State.addHome_memOk _ _ _ h
  | reg _ _ => exact State.regHome_memOk _ _ _ h
  | load _ _ _ _ _ _ _ => exact State.performHome_memOk _ _ h
  | store _ _ => exact State.performHome_memOk _ _ h
  | atom _ _ _ _ _ _ _ => exact State.performHome_memOk _ _ h
  | ldaccZero _ _ _ _ _ _ => exact State.performHome_memOk _ _ h
  | remote _ _ => exact State.performHome_memOk _ _ h
  | clean => exact State.performHome_memOk _ _ h

theorem State.performAll_memOk : ∀ (rs : List HomeReq) {s : State}, s.memOk → (s.performAll rs).memOk
  | [], _, h => h
  | r :: rest, _, h => State.performAll_memOk rest (State.performHome_memOk r rest h)

theorem State.endGather_memOk {s : State} (line : Nat) (h : s.memOk) : (s.endGather line).memOk := by
  unfold State.endGather
  split
  · exact h
  · refine foldl_memOk (fun _ r hs => State.takeQueued_memOk line r hs) _ _
      (State.performAll_memOk _ (State.tagL2_memOk _ _ (State.writeBytes_memOk _ _ ?_)))
    exact h
theorem State.startGather_memOk {s : State} (line : Nat) (h : s.memOk) : (s.startGather line).memOk := by
  unfold State.startGather
  split
  · exact h
  · split
    · exact h
    · split
      · exact State.endGather_memOk _ h
      · exact h
theorem State.accessHome_memOk {s : State} (p : Place) (r : HomeReq) (h : s.memOk) : (s.accessHome p r).memOk := by
  unfold State.accessHome
  dsimp only
  split
  · exact State.startGather_memOk _ (State.modCell_memOk _ _ h)
  · exact State.performHome_memOk _ _ h

theorem State.evict_memOk {s : State} (e : Evict) (h : s.memOk) : (s.evict e).memOk := by
  cases e with
  | l1 core p => exact State.l1Evict_memOk _ h
  | l2 p => unfold State.evict; dsimp only; split <;> first | exact State.accessHome_memOk _ _ h | exact h
  | replica club p => exact h
theorem State.evictDue_memOk {s : State} (h : s.memOk) : s.evictDue.memOk :=
  foldl_memOk (fun _ _ hs => State.evict_memOk _ hs) _ _ (foldl_memOk (fun _ e hs => State.evict_memOk e hs) _ _ h)

theorem State.contribute_memOk {s : State} (j line : Nat) (cls : Cls) (t : Acc) (ow : ThreadKey) (h : s.memOk) :
    (s.contribute j line cls t ow).memOk := h
theorem State.homeAdd_memOk {s : State} (line : Nat) (cls : Cls) (t : Acc) (ps : List (Nat × Nat)) (ows : List ThreadKey)
    (h : s.memOk) : (s.homeAdd line cls t ps ows).memOk := by
  unfold State.homeAdd
  split
  · split <;> [exact State.modCell_memOk _ _ h; exact State.addHome_memOk _ _ _ h]
  · exact State.addHome_memOk _ _ _ h
theorem State.presentAacc_memOk {s : State} (core : Nat) (ow : ThreadKey) (p : Place) (cls : Cls) (t : Acc) (h : s.memOk) :
    (s.presentAacc core ow p cls t).memOk := by
  unfold State.presentAacc
  extract_lets line j s1 s2 s3 mine kept filters
  have h1 : s1.memOk := h
  have h2 : s2.memOk := State.wroteHome_memOk p core cls ow h1
  have h3 : s3.memOk := State.l2Room_memOk j p h2
  clear_value s3 filters s2 s1
  split
  · exact State.homeAdd_memOk _ _ _ _ _ h1
  · split
    · exact h1
    · split
      · exact State.memOk_of h3 rfl rfl
      · exact State.contribute_memOk _ _ _ _ _ (State.memOk_of h2 rfl rfl)

theorem State.takePass_memOk {s : State} (p : Place) (cls : Cls) (d : BitVec 1024) (task tg core : Nat) (st : Bool)
    (h : s.memOk) : (s.takePass p cls d task tg core st).1.memOk := by
  unfold State.takePass
  dsimp only
  split
  · exact h
  · split
    · exact h
    · split
      · exact h
      · split <;> [exact h; exact State.dirSet_memOk _ _ (State.l1Put_memOk _ (State.l1Room_memOk _ _ h))]

/-! ## What does not touch memory -/

theorem State.modTeam_memOk {s : State} (i j : Nat) (f : Team → Team) (h : s.memOk) : (s.modTeam i j f).memOk := h
theorem State.modTask_memOk {s : State} (i : Nat) (f : Task → Task) (h : s.memOk) : (s.modTask i f).memOk := h
theorem State.tick_memOk {s : State} (h : s.memOk) : s.tick.memOk := h
theorem State.setWindow_memOk {s : State} (o : Nat) (v : BitVec 64) (h : s.memOk) : (s.setWindow o v).memOk := h
theorem State.stalled_memOk {s : State} (c : Ctx) (ts : List Nat) (h : s.memOk) : (s.stalled c ts).memOk := h
theorem State.retrySlot_memOk {s : State} (g : Group) (h : s.memOk) : (State.retrySlot g s).memOk := by
  unfold State.retrySlot; split <;> exact h
theorem State.leaveGroup_memOk {s : State} (g : Group) (h : s.memOk) : (s.leaveGroup g).memOk := by
  unfold State.leaveGroup
  split
  · exact h
  · split <;> [exact h; exact State.retrySlot_memOk g h]
theorem State.retire_memOk {s : State} (c : Ctx) (i : Instr) (p : Post) (h : s.memOk) : (s.retire c i p).memOk := h

/-! ## Events for the host, exceptions -/

theorem State.writeEvent_memOk {s : State} (k : Nat) (e : Event) (h : s.memOk) : (s.writeEvent k e).memOk := by
  have h1 : Memory.wf (Memory.put s.hostMem (128 * bitsNat (s.windowReg 0x58) 7 50 + 128 * ((s.windowReg 0x68).toNat % 2 ^ k))
      e.bytes) = true := Memory.wf_put _ _ h.2
  unfold State.writeEvent
  dsimp only
  split <;> exact ⟨h.1, h1⟩
theorem State.postEvent_memOk {s : State} (e : Event) (h : s.memOk) : (s.postEvent e).memOk := by
  unfold State.postEvent
  split
  · split <;> [exact State.writeEvent_memOk _ _ h; exact h]
  · exact h
theorem State.drainEvents_memOk : ∀ (es : List Event) {s : State}, s.memOk → (State.drainEvents s es).memOk
  | [], _, h => h
  | e :: es, s, h => by
    unfold State.drainEvents
    split
    · split <;> [exact State.drainEvents_memOk es (State.writeEvent_memOk _ _ h); exact h]
    · exact h
theorem State.logError_memOk {s : State} (e : BitVec 512) (h : s.memOk) : (s.logError e).memOk := State.postEvent_memOk _ h

theorem State.endTaskFault_memOk {s : State} (tk : Task) (r : BitVec 512) (h : s.memOk) : (s.endTaskFault tk r).memOk := h

theorem State.postFaults_memOk {s : State} (h : s.memOk) : s.postFaults.memOk :=
  foldl_memOk (fun _ _ hs => by dsimp only; split <;> [exact State.postEvent_memOk _ hs; exact hs]) _ _ h

/-- An exception writes memory only through the host's event ring. -/
theorem State.raise_memOk {s : State} (c : Ctx) (f : FaultInfo) (h : s.memOk) : (s.raise c f).memOk := by
  unfold State.raise
  dsimp only
  split <;> [exact State.endTaskFault_memOk _ _ h; exact h]

/-- An instruction of the Norzel set keeps the form if its own effect on the active lanes does. -/
theorem run_memOk {i : Instr} {gs : Guards} {s : State} {k : Ctx → List Thread → Eff} (h : s.memOk)
    (hd : ∀ c act u p, k c act = .done u p → u.memOk) (hf : ∀ c act u f, k c act = .faultAfter u f → u.memOk) :
    ∀ t, run i gs s k = .next t → t.memOk := by
  intro t ht
  unfold run at ht
  split at ht
  · cases ht; exact h
  · rename_i c _
    dsimp only at ht
    split at ht
    · split at ht
      · cases ht; exact State.tick_memOk (State.raise_memOk _ _ h)
      · split at ht
        · unfold State.finish at ht
          split at ht
          · cases ht; exact State.retire_memOk _ _ _ (hd _ _ _ _ ‹_›)
          · cases ht; exact State.tick_memOk (State.raise_memOk _ _ h)
          · cases ht; exact State.tick_memOk (State.raise_memOk _ _ (hf _ _ _ _ ‹_›))
          · cases ht; exact State.stalled_memOk _ _ h
          · cases ht
        · cases ht; exact State.stalled_memOk _ _ h
    · cases ht; exact State.tick_memOk (State.raise_memOk _ _ h)

/-- The same for the instructions that check what earlier accesses leave to wait for. -/
theorem runMem_memOk {i : Instr} {gs : Guards} {s : State} {k : Ctx → List Thread → Eff} (h : s.memOk)
    (hd : ∀ c act u p, k c act = .done u p → u.memOk) (hf : ∀ c act u f, k c act = .faultAfter u f → u.memOk) :
    ∀ t, runMem i gs s k = .next t → t.memOk := by
  refine run_memOk h (fun c act u p hu => ?_) fun c act u f hu => ?_
  · split at hu <;> [exact hd _ _ _ _ hu; cases hu]
  · split at hu <;> [exact hf _ _ _ _ hu; cases hu]

/-! ## Store queues and loads -/

theorem State.updateOwnL1_memOk {s : State} (core : Nat) (p : Place) (bs : List Byte) (h : s.memOk) :
    (s.updateOwnL1 core p bs).memOk := by
  unfold State.updateOwnL1; split <;> exact h
theorem State.storePv_memOk {s : State} (core : Nat) (p : Place) (bs : List Byte) (cp : Nat) (h : s.memOk) :
    (s.storePv core p bs cp).memOk := by
  have h1 : (match s.l1At core p with
    | some _ => s
    | none => s.fillL1 core p .pv cp (s.homeLine p)).memOk := by split <;> [exact h; exact State.fillL1_memOk _ _ _ _ _ h]
  unfold State.storePv
  dsimp only
  split <;> [exact h1; exact State.memOk_of h1 rfl rfl]
theorem State.sendRemote_memOk {s : State} (ow : ThreadKey) (d : Nat) (p : Place) (q : QItem) (h : s.memOk) :
    (s.sendRemote ow d p q).memOk := h
theorem State.enqueue_memOk {s : State} (c : Ctx) (k : Nat) (qs : List QItem) (h : s.memOk) : (s.enqueue c k qs).memOk := h
theorem State.enqueueLanes_memOk {s : State} (c : Ctx) (xs : List (Thread × List QItem)) (h : s.memOk) :
    (s.enqueueLanes c xs).memOk := foldl_memOk (fun _ _ hs => State.enqueue_memOk _ _ _ hs) _ _ h

/-- What an item does when it leaves its queue keeps the form. -/
theorem State.leave_memOk {s : State} (core : Nat) (q : QItem) (h : s.memOk) : (s.leave core q).memOk := by
  cases q with
  | store w =>
    unfold State.leave
    dsimp only
    split
    · exact State.sendRemote_memOk _ _ _ _ h
    · exact State.storePv_memOk _ _ _ _ h
    · exact State.accessHome_memOk _ _ (State.updateOwnL1_memOk core w.place w.data h)
    · exact State.memOk_of (State.updateOwnL1_memOk core w.place w.data (State.noteWriter_memOk w.owner w.place h)) rfl rfl
  | atom ow p cls op dst how =>
    unfold State.leave
    dsimp only
    split <;> [exact State.sendRemote_memOk _ _ _ _ h; exact State.accessHome_memOk _ _ h; exact State.accessHome_memOk _ _ h]
  | aacc ow p cls term via =>
    unfold State.leave
    dsimp only
    split
    · exact State.sendRemote_memOk _ _ _ _ h
    · exact State.storePv_memOk _ _ _ _ h
    · exact State.presentAacc_memOk _ _ _ _ _ h
    · exact State.wroteHome_memOk _ _ _ _ (State.writeAtomic_memOk _ _ _ h)
  | ldaccZero ow p cls dst how =>
    unfold State.leave
    dsimp only
    split
    · exact State.sendRemote_memOk _ _ _ _ h
    · exact State.acquireIf_memOk _ _ (State.reply_memOk _ _ _ (State.storePv_memOk _ _ _ _ h))
    · exact State.accessHome_memOk _ _ h
  | release _ _ => exact h

theorem State.remoteLine_memOk {s : State} (p : Place) (cls : Cls) (cp : Nat) (h : s.memOk) : (s.remoteLine p cls cp).2.memOk := by
  unfold State.remoteLine
  split
  · exact h
  · dsimp only
    split <;> [exact State.memOk_of (State.l2Room_memOk _ _ h) rfl rfl; exact h]

theorem State.loadBytes_memOk {s : State} (core : Nat) (k : ThreadKey) (x : Xlat) (n : Nat) (h : s.memOk) :
    (s.loadBytes core k x n).2.memOk := by
  unfold State.loadBytes
  dsimp only
  split
  · exact State.remoteLine_memOk _ _ _ h
  all_goals
    split
    · exact State.l1Touch_memOk _ _ (State.fillL2_memOk _ _ _ h)
    · split <;> [exact State.l1Touch_memOk _ _ h; exact State.fillL1_memOk _ _ _ _ _ h]
theorem State.loadLane_memOk {s : State} (core : Nat) (k : ThreadKey) (x : Xlat) (n : Nat) (d : LoadDest)
    (acq : Option Scope) (h : s.memOk) : (s.loadLane core k x n d acq).memOk := by
  unfold State.loadLane
  dsimp only
  split
  · exact State.accessHome_memOk _ _ h
  · exact State.acquireIf_memOk _ _ (State.reply_memOk _ _ _ (State.loadBytes_memOk core k x n h))

end Sys2Proof.Machine
end

