-- ==== Sys2Proof/Tests/Slice0.lean ====
section
/-!
SUPPORT. Tests on fixed values, from the encodings and worked examples of the spec, and a witness for the hypotheses of each
statement.
-/
namespace Sys2Proof.Tests
set_option Elab.async false

open Sys2Proof Sys2Proof.Machine

/-! ## Decoding: words written out from the spec's encodings -/

/-- R93 (IADD, 0x000): LEN 01, guards 7, MOD 0 (.i32, registers), D 3, A 1, B 2. -/
theorem test_decode_iadd : decodeWords 0x03077001 0x00000201 0 0 =
    .ok (.iadd .always { ty := .i32, d := 3, a := 1, b := .vec 2 }) .w2 := by decide +kernel
/-- R96 (MOV, 0x01D), .i64, 128-bit form: MOD 1011. -/
theorem test_decode_mov64 : decodeWords 0x04B77077 0x00000000 0x89ABCDEF 0x01234567 =
    .ok (.mov .always { ty := .i64, d := 4, b := .imm64 0x0123456789ABCDEF }) .w4 := by decide +kernel
/-- R100 (PAND, 0x020). -/
theorem test_decode_pand : decodeWords 0x01077081 0x00000302 0 0 = .ok (.pand .always { d := 1, a := 2, b := 3 }) .w2 := by
  decide +kernel
/-- R101: `ffma.f32.rtz v8, v1, v2, v3`. -/
theorem test_decode_ffma : decodeWords 0x0807740D 0x01030201 0 0 =
    .ok (.ffma .always { ty := .f32, mode := .rtz, d := 8, a := 1, b := .vec 2, c := 3 }) .w2 := by decide +kernel
/-- R109 (FRCP, 0x143), .b16: MOD 1000. -/
theorem test_decode_frcp : decodeWords 0x0287750D 0x00000009 0 0 =
    .ok (.frcp .always { ty := .b16, uniform := false, d := 2, a := 9 }) .w2 := by decide +kernel
/-- R115: CVTQ to E2M1X under P8, from the bytes of the example. -/
theorem test_decode_cvtq : decode [0x05, 0x76, 0x07, 0x03, 0x01, 0x02, 0x09, 0x10] =
    .ok (.cvtq .always { ut := .f32, et := .e2m1x, sf := .p8, dequant := false, mode := .rne, d := 3, a := 1, b := .vec 2 }) .w2 := by
  decide +kernel
/-- R119 (VOTE, 0x1C4), .ballot: MOD 2. -/
theorem test_decode_vote : decodeWords 0x05277711 0x00000002 0 0 = .ok (.vote .always (.ballot 5 2)) .w2 := by decide +kernel
/-- R152: `ld.i32 v5, b2[v3 + 16]`. -/
theorem test_decode_ld : decodeWords 0x05877802 0x00000203 0x00000010 0 =
    .ok (.ld .always { width := .w32, ord := .relaxed, hint := .none, d := 5, addr := { idx := .vec 3, buf := 2, k := some 16 } })
      .w3 := by decide +kernel
/-- R161: `st.pass.club.i32 b4[v6], v7, s2`. -/
theorem test_decode_st_pass : decodeWords 0x07877812 0x00000406 0x00000102 0 =
    .ok (.stPass .always { width := .w32, ord := .relaxed, hint := .none, d := 7, idx := .vec 6, buf := 4, kind := .club, e := 2 })
      .w3 := by decide +kernel
/-- R188: `lfma.f32 la2, v1, v3`. -/
theorem test_decode_lfma : decodeWords 0x02077A09 0x00010301 0 0 =
    .ok (.lfma .always { ty := .f32, d := 2, a := 1, b := .vec 3 }) .w2 := by decide +kernel
/-- R196: `mma.col ta1, f0, f1, w2, s4, s6`. -/
theorem test_decode_mma : decodeWords 0x00177A87 0x00000604 0x00001210 0 =
    .ok (.mma .always { col := true, ta := 1, fa := 0, fb := 1, win := 2, a := 4, b := 6, m := none }) .w4 := by decide +kernel
/-- R126: `bra odd ?!p1` with the offset 0x18, from its stored bytes. -/
theorem test_decode_bra : decode [0x01, 0x9C, 0x07, 0x00, 0x18, 0x00, 0x00, 0x00] =
    .ok (.bra { g1 := { neg := true, pred := 1 }, g2 := .always } 0x18) .w2 := by decide +kernel
/-- R129: `jtbl v4, ops` with 5 entries at +0x60, from its stored bytes. -/
theorem test_decode_jtbl : decode [0x0A, 0x7C, 0x07, 0x00, 0x04, 0x00, 0x00, 0x05, 0x60, 0x00, 0x00, 0x00] =
    .ok (.jtbl .always { idx := .vec 4, entries := 5, table := 0x60 }) .w3 := by decide +kernel
/-- R30: `mfs v3, lane`. -/
theorem test_decode_mfs : decodeWords 0x03077E01 0 0 0 = .ok (.mfs .always { w := false, d := .vec 3, sr := .lane }) .w2 := by
  decide +kernel
/-- R60: a pad word is no instruction; R66 step 2. -/
theorem test_decode_pad : decodeWords 0xFFFFFFFC 0 0 0 = .bad .notInstruction := by decide +kernel
/-- R76: an unassigned opcode; R66 step 3 (0x01F). -/
theorem test_decode_unassigned : decodeWords 0x0007707D 0 0 0 = .bad .unassigned := by decide +kernel
/-- R66 step 4: MADDT has no 96-bit form. -/
theorem test_decode_length : decodeWords 0x00077A92 0 0 0 = .bad .badLength := by decide +kernel
/-- R66 step 4: JOIN with a guard. -/
theorem test_decode_join_guarded : decodeWords 0x00072C1D 0 0 0 = .bad .badField := by decide +kernel
/-- R63: the word of a guarded BRA, written from its fields. -/
theorem test_encode_bra : encode (.bra { g1 := { neg := true, pred := 1 }, g2 := .always } 0x18) =
    [0x01, 0x9C, 0x07, 0x00, 0x18, 0x00, 0x00, 0x00] := by decide +kernel

/-! ## WellFormed: an ill-formed term for each check, refused -/

/-- R70: a 64-bit immediate belongs to .i64. -/
theorem test_wf_imm64 : Instr.wf (.iadd .always { ty := .i32, d := 0, a := 0, b := .imm64 0 }) = false := by decide
/-- R70: a 16-bit format takes an immediate below 2^16. -/
theorem test_wf_imm_b16 : Instr.wf (.fadd .always { ty := .b16, mode := .rne, d := 0, a := 0, b := .imm32 0x10000 }) = false := by
  decide
/-- R70: a floating entry has no 8-bit immediate. -/
theorem test_wf_imm8 : Instr.wf (.fmin .always { ty := .f32, d := 0, a := 0, b := .imm8 1 }) = false := by decide
/-- R109: FDIV has no immediate form. -/
theorem test_wf_fdiv : Instr.wf (.fdiv .always { ty := .f32, d := 0, a := 0, b := .imm32 1 }) = false := by decide
/-- R93: IABS takes no .n32. -/
theorem test_wf_iabs : Instr.wf (.iabs .always { ty := .n32, uniform := false, d := 0, a := 0 }) = false := by decide
/-- R96: SEL has no uniform form. -/
theorem test_wf_sel : Instr.wf (.sel .always { ty := .i32, d := 0, a := 0, b := .uni 1, p := 0 }) = false := by decide
/-- R13: p7 is no destination. -/
theorem test_wf_p7 : Instr.wf (.icmp .always { ty := .i32, cc := .eq, p := 7, a := 0, b := .vec 0 }) = false ∧
    Instr.wf (.pand .always { d := 7, a := 0, b := 0 }) = false ∧ Instr.wf (.vote .always (.all 7 0)) = false := by decide
/-- R109: FEXP takes no .f64. -/
theorem test_wf_fexp : Instr.wf (.fexp .always { ty := .f64, uniform := false, d := 0, a := 0 }) = false := by decide
/-- R112: CVT does not take E2M1X. -/
theorem test_wf_cvt : Instr.wf (.cvt .always { dt := .e2m1x, st := .f32, mode := .rne, uniform := false, d := 0, a := 0 }) = false := by
  decide
/-- R113, R23: Q8 does not scale E5M2. -/
theorem test_wf_cvtx : Instr.wf (.cvtx .always { ut := .f32, et := .e5m2, sf := .q8, uniform := false, d := 0, a := 0 }) = false := by
  decide
/-- `b0[v0]`. -/
def rec0 : RecAddr := { idx := .vec 0, buf := 0, k := none }

/-- R154: an LD does not release, and a store has no .repl. -/
theorem test_wf_ord :
    Instr.wf (.ld .always { width := .w32, ord := .rel .sy, hint := .none, d := 0, addr := rec0 }) = false ∧
    Instr.wf (.st .always { width := .w32, ord := .relaxed, hint := .repl, d := 0, addr := rec0 }) = false := by decide
/-- R181: RECD writes b48 to b63. -/
theorem test_wf_recd : Instr.wf (.recd .always { d := 47, b := 0, a := 0, drop := 0, trap := false }) = false := by decide
/-- R188: LFMA takes no .i64, and LQUO no integer type. -/
theorem test_wf_acc : Instr.wf (.lfma .always { ty := .i64, d := 0, a := 0, b := .vec 0 }) = false ∧
    Instr.wf (.lquo .always { ty := .i32, mode := .rne, d := 0, a := 0, b := 0 }) = false := by decide
/-- R71: an offset is a multiple of 4. -/
theorem test_wf_offset : Instr.wf (.bra .always 2) = false ∧ Instr.wf (.mark 6) = false := by decide
/-- R129, R146: a table of no entries; a launch of no records. -/
theorem test_wf_counts : Instr.wf (.jtbl .always { idx := .vec 0, entries := 0, table := 0 }) = false ∧
    Instr.wf (.lnch .always { sys := false, d := 0, a := 0, n := 0 }) = false := by decide
/-- R141: no barrier at .sy. -/
theorem test_wf_bar : Instr.wf (.bar .sy) = false ∧ Instr.wf (.bara .sy) = false ∧ Instr.wf (.barw .sy) = false := by decide
/-- R151, R30: a scalar register takes no thread-scope item; MTS writes no read-only register. -/
theorem test_wf_special : Instr.wf (.ctxrd .always { r := .sc 0, item := .repcnt }) = false ∧
    Instr.wf (.mfs .always { w := false, d := .sc 0, sr := .lane }) = false ∧
    Instr.wf (.mfs .always { w := true, d := .vec 0, sr := .lane }) = false ∧
    Instr.wf (.mts .always { sr := .clklo, src := .vec 0 }) = false := by decide
/-- R12: a pair begins at an even register, and 16 pairs do not fit from v226. -/
theorem test_wf_registers : Instr.wf (.iadd .always { ty := .i64, d := 1, a := 0, b := .vec 0 }) = false ∧
    Instr.wf (.mrnd .always { ty := .f64, mode := .rne, d := 226, a := 0 }) = false := by decide

/-! ## Results: one step on a small state -/

abbrev al : Guards := .always

/-- Thread 0 of a fresh launch about to execute `i` (16 lanes, one warp per squad). -/
def start (i : Instr) : State := State.reset.loaded (encode i)
/-- The first four threads in the group. -/
def four (s : State) : State := { s with cur := s.cur.map fun g => { g with members := [0, 1, 2, 3] } }
/-- `f` done to every thread, and `h` to every warp. -/
def withT (s : State) (f : Thread → Thread) : State := s.modTeam 0 0 fun tm => tm.modThreads (fun _ => true) f
def withW (s : State) (h : Warp → Warp) : State := s.modTeam 0 0 fun tm => { tm with warps := tm.warps.map h }
def tm0 (s : State) : Team := s.teams.headD
  { task := 0, team := 0, core := 0, phase := .run, borrower := false, threads := [], warps := [], scratch := [], tiles := [],
    tags := [], passref := 0, sqBar := [], tmBar := BarInst.zero, placedAt := 0, switchSince := none }
def th (s : State) (n : Nat) : Thread := ((tm0 s).thread? n).getD (Thread.fresh (loadTask 0) 0 n)
def after (s : State) : State :=
  match step s with
  | .next t => t
  | .fault _ | .refused _ => State.reset
/-- The machine after `i`, with the registers `rs` of each thread set before. -/
def run (i : Instr) (rs : List (Nat × Word)) : State := after (withT (start i) fun x => { x with regs := rs })
/-- Register `r` of thread 0 after `i`. -/
def val (i : Instr) (rs : List (Nat × Word)) (r : Nat) : Word := (th (run i rs) 0).reg r

def bin (ty : IntTy) (d a : Nat) (b : Src) : IntBin := { ty := ty, d := Fin.ofNat 256 d, a := Fin.ofNat 256 a, b := b }
def fbin (ty : FloatTy) (m : Mode) : FloatBin := { ty := ty, mode := m, d := 3, a := 1, b := .vec 2 }
def fun1 (ty : FloatTy) : FloatUn := { ty := ty, uniform := false, d := 3, a := 1 }

/-- R94: the sum is kept modulo 2^32; a source is the destination. -/
theorem test_iadd : val (.iadd al (bin .i32 1 1 (.imm8 1))) [(1, 0x7FFFFFFF)] 1 = 0x80000000 := by decide +kernel
/-- R94, R70: an 8-bit immediate is sign-extended. -/
theorem test_isub : val (.isub al (bin .i32 3 1 (.imm8 0xFF))) [(1, 5)] 3 = 6 := by decide +kernel
/-- R94: (-1) * (-1) = 1 and (2^32 - 1)^2 = (2^32 - 2) * 2^32 + 1. -/
theorem test_imulh : val (.imulh al (bin .i32 3 1 (.vec 1))) [(1, 0xFFFFFFFF)] 3 = 0 ∧
    val (.imulh al (bin .n32 3 1 (.vec 1))) [(1, 0xFFFFFFFF)] 3 = 0xFFFFFFFE := by decide +kernel
/-- R94: 7 * 6 + 5. -/
theorem test_imad : val (.imad al { ty := .i32, d := 4, a := 1, b := .vec 2, c := 3 }) [(1, 7), (2, 6), (3, 5)] 4 = 47 := by
  decide +kernel
/-- R94: a division by 0 gives all ones, and the most negative number divided by -1 itself. -/
theorem test_idiv : val (.idiv al (bin .i32 3 1 (.vec 2))) [(1, 7)] 3 = 0xFFFFFFFF ∧
    val (.idiv al (bin .i32 3 1 (.vec 2))) [(1, 0x80000000), (2, 0xFFFFFFFF)] 3 = 0x80000000 := by decide +kernel
/-- R94: -7 = -3 * 2 - 1. -/
theorem test_irem : val (.irem al (bin .i32 3 1 (.imm8 2))) [(1, 0xFFFFFFF9)] 3 = 0xFFFFFFFF := by decide +kernel
/-- R94: a carry passes from the low register of a pair to the high one. -/
theorem test_iadd64 : (let s := run (.iadd al (bin .i64 4 2 (.imm8 1))) [(2, 0xFFFFFFFF), (3, 6)]
    ((th s 0).reg 4, (th s 0).reg 5)) = (0, 7) := by decide +kernel
/-- R94: arithmetic and logical shifts of a negative number. -/
theorem test_shifts : val (.sar al (bin .i32 3 1 (.imm8 4))) [(1, 0x80000000)] 3 = 0xF8000000 ∧
    val (.shr al (bin .i32 3 1 (.imm8 4))) [(1, 0x80000000)] 3 = 0x08000000 := by decide +kernel
/-- R94. -/
theorem test_rotl : val (.rotl al (bin .i32 3 1 (.imm8 8))) [(1, 0x12345678)] 3 = 0x34567812 := by decide +kernel
/-- R97: the example `bfx.i32 v1, v2, 0x0504`. -/
theorem test_bfx : val (.bfx al (bin .i32 1 2 (.imm32 0x0504))) [(2, 0x1E0)] 1 = 0xFFFFFFFE := by decide +kernel
/-- R97. -/
theorem test_counts : val (.popc al { ty := .i32, uniform := false, d := 3, a := 1 }) [(1, 0xF00F)] 3 = 8 ∧
    val (.clz al { ty := .i32, uniform := false, d := 3, a := 1 }) [] 3 = 32 ∧
    val (.ctz al { ty := .i32, uniform := false, d := 3, a := 1 }) [(1, 0x50)] 3 = 4 := by decide +kernel
/-- R98: -1 is below 10 as .i32 and above it as .n32. -/
theorem test_icmp : (th (run (.icmp al { ty := .i32, cc := .lt, p := 2, a := 5, b := .imm8 10 }) [(5, 0xFFFFFFFF)]) 0).pred 2 = true ∧
    (th (run (.icmp al { ty := .n32, cc := .lt, p := 2, a := 5, b := .imm8 10 }) [(5, 0xFFFFFFFF)]) 0).pred 2 = false := by
  decide +kernel
/-- R64: a thread whose guard fails keeps its registers and goes on. -/
theorem test_guard : (let s := run (.iadd { g1 := { neg := false, pred := 0 }, g2 := .always } (bin .i32 3 1 (.imm8 1))) [(1, 4)]
    ((th s 0).reg 3, (th s 0).pc)) = (0, 0x10008) := by decide +kernel
/-- R69: the uniform form writes the scalar register of the warp. -/
theorem test_uniform : (let s := after (withW (start (.iadd al (bin .i32 3 1 (.uni 2)))) fun w => { w with scalars := [(1, 30), (2, 12)] })
    (((tm0 s).warp 0).sreg 3, (th s 0).reg 3)) = (42, 0) := by decide +kernel

/-- R103: the example of FFMA, 2^-22 under RTZ and one unit more under RUP, inexact (bit 4 of fpst). -/
theorem test_ffma : ([Mode.rtz, .rup].map fun m =>
    let x := th (run (.ffma al { ty := .f32, mode := m, d := 8, a := 1, b := .vec 2, c := 3 })
      [(1, 0x3F800001), (2, 0x3F800001), (3, 0xBF800000)]) 0
    (x.reg 8, x.fpst)) = [(0x34800000, 16), (0x34800001, 16)] := by decide +kernel
/-- R102: 1 + (-1) is +0, and -0 under RDN. -/
theorem test_fadd_zero : val (.fadd al (fbin .f32 .rne)) [(1, 0x3F800000), (2, 0xBF800000)] 3 = 0 ∧
    val (.fadd al (fbin .f32 .rdn)) [(1, 0x3F800000), (2, 0xBF800000)] 3 = 0x80000000 := by decide +kernel
/-- R55: the example of 2^24 + 1 in the five modes. -/
theorem test_round_modes : [Mode.rne, .rtz, .rdn, .rup, .rna].map (fun m => (roundTo .f32 m false (2 ^ 24 + 1) 1).code) =
    [0x4B800000, 0x4B800000, 0x4B800000, 0x4B800001, 0x4B800001] := by decide +kernel
/-- R104: -0 is below +0, and a number is preferred to a NaN. -/
theorem test_fmin : val (.fmin al { ty := .f32, d := 3, a := 1, b := .vec 2 }) [(1, 0), (2, 0x80000000)] 3 = 0x80000000 ∧
    val (.fmin al { ty := .f32, d := 3, a := 1, b := .vec 2 }) [(1, 0x7FC00000), (2, 0x40000000)] 3 = 0x40000000 := by decide +kernel
/-- R105: an unordered comparison for .ne holds, for .lt it does not and is invalid (bit 0 of fpst). -/
theorem test_fcmp : (let s := fun cc => run (.fcmp al { ty := .f32, cc := cc, p := 1, a := 1, b := .vec 1 }) [(1, 0x7FC00000)]
    ((th (s .ne) 0).pred 1, (th (s .ne) 0).fpst, (th (s .lt) 0).pred 1, (th (s .lt) 0).fpst)) = (true, 0, false, 1) := by
  decide +kernel
/-- R106: +0 is class 6 and a negative subnormal class 4. -/
theorem test_fclass : val (.fclass al (fun1 .f32)) [] 3 = 64 ∧ val (.fclass al (fun1 .f32)) [(1, 0x80000001)] 3 = 16 := by
  decide +kernel
/-- R107: 2.5 rounds to 2 under RNE. -/
theorem test_frint : val (.frint al { ty := .f32, uniform := false, mode := .rne, d := 3, a := 1 }) [(1, 0x40200000)] 3 = 0x40000000 := by
  decide +kernel
/-- R111: 1/0 is +∞ with divzero (bit 1 of fpst); 1/√4 is 1/2; 2^3 is 8; log2(1/4) is -2. -/
theorem test_special_functions : (let s := run (.frcp al (fun1 .f32)) []
      ((th s 0).reg 3, (th s 0).fpst)) = (0x7F800000, 2) ∧
    val (.frsq al (fun1 .f32)) [(1, 0x40800000)] 3 = 0x3F000000 ∧ val (.fexp2 al (fun1 .f32)) [(1, 0x40400000)] 3 = 0x41000000 ∧
    val (.flog2 al (fun1 .f32)) [(1, 0x3E800000)] 3 = 0xC0000000 := by decide +kernel
/-- R111: FDIV 1/3 rounds to nearest, ties to even. -/
theorem test_fdiv : val (.fdiv al { ty := .f32, d := 3, a := 1, b := .vec 2 }) [(1, 0x3F800000), (2, 0x40400000)] 3 = 0x3EAAAAAB := by
  decide +kernel

/-- R115: the example of CVTX and CVTQ: 5.0 under P8 to E2M1 and to E2M1X, and back. -/
theorem test_cvtx : val (.cvtx al { ut := .f32, et := .e2m1, sf := .p8, uniform := false, d := 2, a := 1 }) [(1, 0x40A00000)] 2 = 0x7F := by
  decide +kernel
theorem test_cvtq : (let q := fun et => ({ ut := .f32, et := et, sf := .p8, dequant := false, mode := .rne, d := 3, a := 1,
                                           b := .vec 2 } : CvtqOp)
    (val (.cvtq al (q .e2m1)) [(1, 0x40A00000), (2, 0x7F)] 3, val (.cvtq al (q .e2m1x)) [(1, 0x40A00000), (2, 0x4A7F)] 3,
     val (.cvtq al { q .e2m1 with dequant := true }) [(1, 6), (2, 0x7F)] 3,
     val (.cvtq al { q .e2m1x with dequant := true }) [(1, 8), (2, 0x4A7F)] 3)) = (6, 8, 0x40800000, 0x40A00000) := by decide +kernel
/-- R55: 300 saturates an I8 at 127 and sets satst. -/
theorem test_cvt_saturates :
    (let x := th (run (.cvt al { dt := .i8, st := .f32, mode := .rne, uniform := false, d := 3, a := 1 }) [(1, 0x43960000)]) 0
    ((x.reg 3).toNat % 256, x.satst)) = (127, true) := by decide +kernel
/-- R40: the codes of the E2M1X example: 1.5, -1.5 and 5. -/
theorem test_decode_e2m1x : [7, 15, 8].map (fun c =>
    (convertVal (decodeElem .e2m1x c (decodeScale .p8 0x7D) 0x5A) .f32 Scale.one 0 .rne).code) =
      [0x3FC00000, 0xBFC00000, 0x40A00000] := by decide +kernel

/-- R120: PERM in a group of threads 0 to 3: lane 0 reads lane 3, lane 1 reads an absent lane, lane 2 an index beyond W. -/
theorem test_perm : (let s := after (withT (four (start (.perm al { pair := false, d := 9, a := 1, i := 2 })))
      fun x => { x with regs := [(1, BitVec.ofNat 32 (100 + x.tid)), (2, [3, 5, 16, 2].getD x.tid 0)] })
    [0, 1, 2, 3].map fun k => (th s k).reg 9) = [103, 0, 0, 102] := by decide +kernel
/-- R121: .ballot over four active lanes, of which 1 and 3 hold p1. -/
theorem test_vote : (let s := after (withT (four (start (.vote al (.ballot 9 1)))) fun x => { x with preds := if x.tid % 2 = 1 then 2 else 0 })
    [0, 1, 2, 3].map fun k => (th s k).reg 9) = [10, 10, 10, 10] := by decide +kernel
/-- R120: SHUP by one, without and with .wrap (lane 0 reads lane -1, or lane 15, which is not in the group). -/
theorem test_shup : (let s := fun wrap => after (withT (four (start (.shup al { wrap := wrap, pair := false, d := 9, a := 1, n := 1 })))
      fun x => { x with regs := [(1, BitVec.ofNat 32 (100 + x.tid))] })
    [0, 1, 2, 3].map fun k => (th (s false) k).reg 9) = [0, 100, 101, 102] := by decide +kernel
/-- R122. -/
theorem test_match : (let s := after (withT (four (start (.matchLanes al { pair := false, d := 9, a := 1 })))
      fun x => { x with regs := [(1, [7, 8, 7, 9].getD x.tid 0)] })
    [0, 1, 2, 3].map fun k => (th s k).reg 9) = [5, 2, 5, 8] := by decide +kernel

/-- R47: the example of 2^24 + 1 - 2^24 in an accumulator: 1 exactly, and seg4 holds bit 42. -/
theorem test_accumulate : (let f := fun c => decodeCode .f32 c
    let a := ((Acc.zero.addTerm (f 0x4B800000)).addTerm (f 0x3F800000)).addTerm (f 0xCB800000)
    (a.value, a.nzt, (accRound a .f32 .rne).code, (a.normal.bytes.drop 32).take 8)) =
      (2 ^ 298, true, 0x3F800000, [0, 0, 0, 0, 0, 4, 0, 0]) := by decide +kernel
/-- R56: an accumulator to which nothing has been added rounds to -0. -/
theorem test_lrnd_empty : val (.lrnd al { ty := .f32, mode := .rne, d := 3, a := 0 }) [] 3 = 0x80000000 := by decide +kernel
/-- R189: 3 * 0.5. -/
theorem test_product_term : (Acc.zero.addTerm (mulVal (decodeCode .f32 0x40400000) (decodeCode .f32 0x3F000000))).value =
    3 * 2 ^ 297 := by decide +kernel
/-- R198: the elements of the window example. -/
def win0 : BitVec 256 := BitVec.ofNat 256 (0x4000 + 4 * 2 ^ 24 + 2 ^ 40 + 2 ^ 52 + 6 * 2 ^ 64 + 8 * 2 ^ 76 + 2 ^ 88 + 3 * 2 ^ 92 +
  3 * 2 ^ 96 + 2 ^ 100 + 2 ^ 104 + 2 ^ 108 + 2 ^ 112 + 2 ^ 116 + 2 ^ 120 + 2 ^ 136 + 2 ^ 140 + 2 ^ 144 + 2 ^ 148)
theorem test_unfold : winOk win0 = true ∧ unfoldBit win0 8 19 17 = some (8 * 0x404D) ∧ unfoldBit win0 8 16 0 = none ∧
    unfoldBit win0 8 16 40 = none ∧ unfoldBit win0 8 31 35 = none := by decide +kernel

/-! ## Memory, control and events -/

/-- A record of 16 words from 0x40000, all permissions, out-of-bounds elements dropped (R18). -/
def words : BitVec 256 := BitVec.ofNat 256 (0x40000 + 16 * 2 ^ 64 + 4 * 2 ^ 104 + 2 * 2 ^ 128 + 15 * 2 ^ 146 + 2 ^ 152)
/-- The same with elements of 8 bytes and a stride of 8, and of 16 bytes with a stride of 128. -/
def dwords : BitVec 256 := BitVec.ofNat 256 (0x40000 + 16 * 2 ^ 64 + 8 * 2 ^ 104 + 3 * 2 ^ 128 + 15 * 2 ^ 146 + 2 ^ 152)
def lines : BitVec 256 := BitVec.ofNat 256 (0x40000 + 16 * 2 ^ 64 + 128 * 2 ^ 104 + 4 * 2 ^ 128 + 15 * 2 ^ 146 + 2 ^ 152)
/-- `i` about to execute with b48 to b50 of each warp, registers and scalar registers set. -/
def ready (i : Instr) (rs ss : List (Nat × Word)) : State :=
  withW (withT (start i) fun x => { x with regs := rs }) fun w => { w with recs := [(0, words), (1, dwords), (2, lines)], scalars := ss }
/-- `b48[v1]`, `b49[v1]` and `b50[v1]`. -/
def w48 : RecAddr := { idx := .vec 1, buf := 48, k := none }
def w49 : RecAddr := { idx := .vec 1, buf := 49, k := none }
def w50 : RecAddr := { idx := .vec 1, buf := 50, k := none }
def ld48 : Instr := .ld al { width := .w32, ord := .relaxed, hint := .none, d := 5, addr := w48 }
def st48 : Instr := .st al { width := .w32, ord := .relaxed, hint := .none, d := 5, addr := w48 }
/-- What a state comes to by an event. -/
def then_ (s : State) (e : Instr) : State :=
  match exec e s with
  | .next t => t
  | .fault _ | .refused _ => State.reset

/-- R157: the data of `ld.i32 v5, b48[v1]` at index 3 is on its way after the issue, and in v5 once it has arrived. -/
theorem test_ld : (let s := ready ld48 [(1, 3)] []
    let t := after { s with mem := Memory.put s.mem 0x4000C [0x78, 0x56, 0x34, 0x12] }
    (t.net, (th (then_ t (.loadCompletion 0)) 0).reg 5)) =
      ([.load { task := 0, team := 0, tid := 0 } (.regs 5 .w32) [0x78, 0x56, 0x34, 0x12]], 0x12345678) := by decide +kernel
/-- R155 step 3: index 16 of 16 elements is dropped; the register reads 0 and oobst is set. -/
theorem test_ld_dropped : (let x := th (after (ready ld48 [(1, 16), (5, 7)] [])) 0
    (x.reg 5, x.oobst)) = (0, true) := by decide +kernel
/-- R157, R332: a store waits in its warp's queue, leaves it for the home slice, and is written there. -/
theorem test_st : (let t := after (ready st48 [(1, 3), (5, 0x12345678)] [])
    let u := then_ t (.homeSliceRequest (.queue 0) 0)
    let v := then_ u (.homeSliceRequest .flight 0)
    (((tm0 t).warp 0).queue.length, ((tm0 u).warp 0).queue.length, Memory.bytes u.mem 0x4000C 4, Memory.bytes v.mem 0x4000C 4)) =
      (1, 0, [0, 0, 0, 0], [0x78, 0x56, 0x34, 0x12]) := by decide +kernel
/-- R163: an ATOM .add stores the sum. -/
theorem test_atom : (let s := ready (.atom al { fn := .add, wide := false, ord := .relaxed, d := 5, addr := w48 }) [(1, 1), (5, 7)] []
    let u := then_ (after { s with mem := Memory.put s.mem 0x40004 [5] }) (.homeSliceRequest (.queue 0) 0)
    Memory.bytes u.mem 0x40004 4) = [12, 0, 0, 0] := by decide +kernel
/-- R171: STS writes the low 16 bits of v5 at 0x102, and an LDS .i16 sign-extends them. -/
theorem test_sts : (tm0 (run (.sts al { width := .n16, d := 5, off := .reg (.vec 1), k := none }) [(1, 0x102), (5, 0x1234ABCD)])).scratch =
    [(0x102, 0xCD), (0x103, 0xAB)] := by decide +kernel
theorem test_lds : (let s := (withT (start (.lds al { width := .i16, d := 5, off := .zero false, k := some 2 })) fun x => x).modTeam 0 0 fun tm => { tm with scratch := [(2, 0x01), (3, 0x80)] }
    (th (after s) 0).reg 5) = 0xFFFF8001 := by decide +kernel
/-- R180: with tag 3 busy and tags 1 and 3 in the set, TAGFF gives 1. -/
theorem test_tagff : (let s := (ready (.tagff al { d := .sc 4, set := .pair 2 }) [] [(2, 0xA), (3, 0)]).modTeam 0 0 fun tm => { tm with tags := [(3, 1)] }
    ((tm0 (after s)).warp 0).sreg 4) = 1 := by decide +kernel
/-- R182, R183: a record of 4 elements from the 8th on, without W. -/
theorem test_recd : (let r := ((tm0 (after (ready (.recd al { d := 60, b := 48, a := 4, drop := 2, trap := true }) []
      [(4, 8), (6, 4)]))).warp 0).recs.find? fun x => x.1 == 12
    r.map fun x => (recBase x.2, recExtent x.2, recW x.2, recR x.2, recOob x.2)) = some (0x40020, 4, false, true, true) := by
  decide +kernel

/-- R126: a branch back by 8, and a call, which leaves the offset of the next instruction from the entry. -/
theorem test_bra : (th (run (.bra al 0xFFFFFFF8) []) 0).pc = 0xFFF8 := by decide +kernel
theorem test_call : (let x := th (run (.call al 2 0x40) []) 0
    (x.pc, x.reg 2)) = (0x10040, 8) := by decide +kernel
/-- R131: MARK records the rejoin point and the group. -/
theorem test_mark : ((tm0 (after (four (start (.mark 0x38))))).warp 0).marks =
    [{ rejoin := 0x10038, mask := 15, written := false }] := by decide +kernel
/-- R133: the thread has exited, the others have not. -/
theorem test_exit : (let s := run (.exit al) []
    ((th s 0).exited, (th s 1).exited)) = (true, false) := by decide +kernel
/-- R137: three iterations, D advancing by one. -/
theorem test_rep : (th (run (.rep al { count := .imm 3, stride := 1, mask := 1 }) []) 0).rep =
    { remaining := 3, iter := 0, stride := 1, mask := 1 } := by decide +kernel
/-- R142: thread 0 waits at the barrier of its team, where it has been counted. -/
theorem test_bar : (let s := run (.bar .tm) []
    ((th s 0).wait, (tm0 s).tmBar.count)) = (.barrier 1, 1) := by decide +kernel
/-- R144: VSHRINK to 16 registers loses v16 and keeps v15. -/
theorem test_vshrink : (let x := th (run (.vshrink al 2) [(15, 1), (16, 2)]) 0
    (x.vallot, x.reg 15, x.reg 16)) = (16, 1, 0) := by decide +kernel
/-- R140, R395: without a trap routine, TRAP ends the task with SCODE 2 and the cause 0x0B. -/
theorem test_trap : (let s := run (.trap al 5) []
    (s.tasks.map fun t => match t.phase with
      | .ending c _ _ => (c, bitsNat t.fault 0 8, bitsNat t.fault 16 8)
      | .live | .closing _ => (0, 0, 0))) = [(2, causeTrap, 5)] := by decide +kernel
/-- R28: the thread number and warp lane of thread 3. -/
theorem test_mfs : (let s := fun r => after (four (start (.mfs al { w := false, d := .vec 3, sr := r })))
    ((th (s .tid) 3).reg 3, (th (s .wlane) 2).reg 3, (th (s .width) 0).reg 3)) = (3, 2, 16) := by decide +kernel
/-- R30: MTS writes the five bits of fpst. -/
theorem test_mts : (th (run (.mts al { sr := .fpst, src := .vec 1 }) [(1, 0xFF)]) 0).fpst = 31 := by decide +kernel
/-- R149: the number of entries of the stack. -/
theorem test_ctxrd : (let s := withW (start (.ctxrd al { r := .sc 4, item := .msdepth })) fun w =>
      { w with marks := [{ rejoin := 0x10038, mask := 15, written := false }] }
    ((tm0 (after s)).warp 0).sreg 4) = 1 := by decide +kernel
/-- R147: the request of an MGMT, code 0; the management core answers VERSION; the reply reaches s4. -/
theorem test_mgmt : (let s := run (.mgmt al { d := 4, a := 2, code := 0 }) []
    let u := then_ { s with firmware := { Firmware.empty with running := 77 } } (.version 0)
    (s.mgmt.length, (th s 0).wait, ((tm0 (then_ u (.mgmtReply 0))).warp 0).sreg 4, (th (then_ u (.mgmtReply 0)) 0).wait)) =
      (1, .mgmt, 77, .none) := by decide +kernel
/-- R410: the duty register takes the five duty bits. -/
theorem test_duty : ((then_ { State.reset with ide := true } (.duty 31)).windowReg 0x18,
    (then_ { State.reset with ide := true } (.duty 32)).windowReg 0x18) = (31, 0) := by decide +kernel
/-- R418: without an image the boot ROM awaits one. -/
theorem test_power : (then_ (then_ State.reset .powerGood) .powerGood).dstate = .await := by decide +kernel

/-! ## Witnesses: states and operands that meet the hypotheses of the statements -/

/-- The context of the selected group; of the fresh launch where none is selected. -/
def cx (s : State) : Ctx := s.ctx.getD
  { g := { task := 0, team := 0, core := 0, addr := 0, members := [], inRoutine := false, iter := none }, tk := loadTask 0, tm := tm0 s }

def canIssueB (s : State) (i : Instr) (gs : Guards) : Bool :=
  let c := cx s
  s.ctx.isSome && (i.uses c.wide).all RegUse.aligned &&
    (c.active gs).all (fun t => (i.uses c.wide).all fun u => decide (u.num + u.cnt ≤ allotOf c.tk t u.cls)) &&
    c.threads.all fun t => (s.pendingDests (c.key t) (c.warp t).queue).all fun d => (i.uses c.wide).all fun u => !destMeets u d

theorem canIssue_of {s : State} {i : Instr} {gs : Guards} (h : canIssueB s i gs = true) : CanIssue s (cx s) i gs := by
  simp only [canIssueB, Bool.and_eq_true, List.all_eq_true, decide_eq_true_eq, Bool.not_eq_true'] at h
  obtain ⟨⟨⟨h1, h2⟩, h3⟩, h4⟩ := h
  obtain ⟨c, hc⟩ := Option.isSome_iff_exists.mp h1
  exact ⟨by simp [cx, hc], h2, h3, h4⟩

def freeB (s : State) (gs : Guards) : Bool := ((cx s).active gs).all fun t => !s.acqPending ((cx s).key t)
theorem noAcquire_of {s : State} {gs : Guards} (h : freeB s gs = true) : NoAcquire s (cx s) gs := by
  simpa [freeB, NoAcquire] using h

def sideB (sd : Side) : Bool := sd.lanes.all fun l => recValid l.r && sd.need.perm l.r && sd.need.width.all (fun w => decide (w ≤ recEsz l.r)) &&
  (!recOob l.r || l.inside) && (!l.inside || l.addr % sd.need.align == 0)
theorem sidePasses_of {sd : Side} (h : sideB sd = true) : SidePasses sd := by
  intro l hl
  have := List.all_eq_true.mp h l hl
  simp only [Bool.and_eq_true, Bool.or_eq_true, Bool.not_eq_true', beq_iff_eq] at this
  obtain ⟨⟨⟨⟨h1, h2⟩, h3⟩, h4⟩, h5⟩ := this
  refine ⟨h1, h2, fun w hw => ?_, fun ho => by simp_all, fun hi => by simp_all⟩
  cases hn : sd.need.width <;> simp_all

def linesB (s : State) (c : Ctx) (sd : Side) (n : Nat) (k : Touch) (ok : LaneIdx → Xlat → Bool) : Bool :=
  sd.lanes.all fun l => !l.inside || (lineVas l.addr n).all fun va => match s.lineOut c k l.t va with
    | .ok x => ok l x && (x.cls != .ord || x.place.space != .dev || (s.cellAt (lineBase x.place.addr)).isNone)
    | _ => false
theorem linesPass_of {s : State} {c : Ctx} {sd : Side} {n : Nat} {k : Touch} {ok : LaneIdx → Xlat → Bool}
    (h : linesB s c sd n k ok = true) : LinesPass s c sd n k := by
  intro l hl hi va hva
  have := List.all_eq_true.mp h l hl
  simp only [hi, Bool.not_true, Bool.false_or] at this
  have := List.all_eq_true.mp this va hva
  split at this
  · rename_i x hx
    refine ⟨x, hx, fun h1 h2 => ?_⟩
    simp only [h1, h2, Bool.and_eq_true, bne_self_eq_false, Bool.false_or, Option.isNone_iff_eq_none] at this
    exact this.2
  · cases this

/-- Whether a read of the line may be performed now. -/
def readB (s : State) (c : Ctx) (l : LaneIdx) (x : Xlat) : Bool :=
  !s.loadWaits c.tm.core (c.key l.t) x.place x.cls && (x.place.space != .dev || (s.cellAt (lineBase x.place.addr)).isNone)
theorem readsNow_of {s : State} {c : Ctx} {sd : Side} {n : Nat} {k : Touch} (h : linesB s c sd n k (readB s c) = true) :
    ReadsNow s c sd n k := by
  intro l hl hi va hva x hx _
  have := List.all_eq_true.mp h l hl
  simp only [hi, Bool.not_true, Bool.false_or] at this
  have := List.all_eq_true.mp this va hva
  rw [hx] at this
  simp only [readB, Bool.and_eq_true, Bool.or_eq_true, Bool.not_eq_true', bne_iff_ne, Option.isNone_iff_eq_none] at this
  exact ⟨this.1.1, fun hd => this.1.2.resolve_left fun hn => hn hd⟩

theorem access_of {s : State} {i : Instr} {gs : Guards} {sd : Side} {n : Nat} {k : Touch}
    (h : (canIssueB s i gs && freeB s gs && sideB sd && linesB s (cx s) sd n k fun _ _ => true) = true) :
    AccessPasses s (cx s) i gs sd n k := by
  simp only [Bool.and_eq_true] at h
  exact ⟨canIssue_of h.1.1.1, noAcquire_of h.1.1.2, sidePasses_of h.1.2, linesPass_of h.2⟩

theorem block_of {b : Block} {p : List Byte → Bool} (h : (match b with
    | .ok bs => p bs
    | _ => false) = true) : ∃ bs, b = .ok bs ∧ p bs = true := by
  cases b <;> simp_all
theorem next_of {o : Out} (h : (match o with
    | .next _ => true
    | _ => false) = true) : ∃ t, o = .next t := by
  cases o <;> simp_all

/-- Every operand at the last register of its allotment. -/
theorem witness_IntegerResults : let i : Instr := .iadd al (bin .i32 255 255 (.vec 255))
    CanIssue (start i) (cx (start i)) i al := canIssue_of (by decide +kernel)
theorem witness_BitResults : let i : Instr := .bfi al { ty := .i64, d := 254, a := 0, b := .uni 254, c := 255 }
    CanIssue (start i) (cx (start i)) i al := canIssue_of (by decide +kernel)
theorem witness_PredicateLogic : let i : Instr := .pnot { g1 := { neg := true, pred := 6 }, g2 := .always } { d := 6, a := 7 }
    CanIssue (start i) (cx (start i)) i { g1 := { neg := true, pred := 6 }, g2 := .always } := canIssue_of (by decide +kernel)
theorem witness_FloatArithmetic : let i : Instr := .ffma al { ty := .f64, mode := .rne, d := 254, a := 0, b := .sc 254, c := 2 }
    CanIssue (start i) (cx (start i)) i al := canIssue_of (by decide +kernel)
theorem witness_FloatSelect : let i : Instr := .fclass al (fun1 .f64)
    CanIssue (start (.fmax al { ty := .f32, d := 255, a := 0, b := .vec 1 })) (cx (start (.fmax al { ty := .f32, d := 255, a := 0, b := .vec 1 })))
      (.fmax al { ty := .f32, d := 255, a := 0, b := .vec 1 }) al ∧ i.uses false ≠ [] :=
  ⟨canIssue_of (by decide +kernel), by decide⟩
theorem witness_FloatSelect_fcmp : let i : Instr := .fcmp al { ty := .b16, cc := .ord, p := 6, a := 0, b := .imm32 0xFFFF }
    CanIssue (start i) (cx (start i)) i al := canIssue_of (by decide +kernel)
theorem witness_FloatMoves : let i : Instr := .fldexp al (fbin .h16 .rna)
    CanIssue (start i) (cx (start i)) i al := canIssue_of (by decide +kernel)
theorem witness_RoundOnce : (1 : ℚ) ≠ 0 := one_ne_zero
/-- A NaN, an infinity, a zero of each sign and a negative source of the f32 table. -/
theorem witness_SpecialFunctions : let i : Instr := .ftanh al (fun1 .f32)
    CanIssue (start i) (cx (start i)) i al ∧ (decodeCode .f32 0x7F800001).isNan = true ∧ (decodeCode .f32 0xFF800000).isInf = true ∧
      (decodeCode .f32 0x80000000).isZero = true ∧ decodeCode .f32 0x40000000 = .fin false 0x800000 (-22) :=
  ⟨canIssue_of (by decide +kernel), by decide +kernel⟩
theorem witness_Conversions : let i : Instr := .cvt al { dt := .f64, st := .i8, mode := .rup, uniform := true, d := 254, a := 255 }
    CanIssue (start i) (cx (start i)) i al := canIssue_of (by decide +kernel)
theorem witness_RandomNumbers : let i : Instr := .rand al { ty := .i64, d := 254, a := 255 }
    CanIssue (start i) (cx (start i)) i al := canIssue_of (by decide +kernel)
theorem witness_CrossLane : let i : Instr := .bcast al { pair := true, d := 254, a := 0, i := .sc 255 }
    CanIssue (start i) (cx (start i)) i al := canIssue_of (by decide +kernel)

theorem witness_LoadData : let s := ready ld48 [(1, 15)] []
    let sd := recSide (cx s) ((cx s).active al) w48 recR (some 4) 4
    AccessPasses s (cx s) ld48 al sd 4 (cx s).touchLoad ∧ ReadsNow s (cx s) sd 4 (cx s).touchLoad :=
  ⟨access_of (by decide +kernel), readsNow_of (by decide +kernel)⟩
theorem witness_LoadData_ldacc : let i : Instr := .ldacc al { zero := false, ord := .relaxed, d := 15, addr := w50 }
    let s := ready i [(1, 0)] []
    let sd := recSide (cx s) ((cx s).active al) w50 recR none 128
    AccessPasses s (cx s) i al sd 128 (cx s).touchLoad ∧ ReadsNow s (cx s) sd 128 (cx s).touchLoad :=
  ⟨access_of (by decide +kernel), readsNow_of (by decide +kernel)⟩
theorem witness_StoreIssue : let s := ready st48 [(1, 15)] []
    let sd := recSide (cx s) ((cx s).active al) w48 recW (some 4) 4
    AccessPasses s (cx s) st48 al sd 4 (cx s).touchStore ∧ noRoom (cx s) (s.laneOks (cx s) sd 4 (cx s).touchStore) (storeEntries (cx s)) = [] :=
  ⟨access_of (by decide +kernel), by decide +kernel⟩
/-- Two lanes that store 4 bytes each, 2 of them the same. -/
def overlap : List StoreLane := [0, 2].map fun k =>
  { t := Thread.fresh (loadTask 0) 0 k, x := { place := devPlace (0x40000 + k), cls := .rc, canWrite := true, canExec := true, mig := false, cp := 0 },
    data := [1, 2, 3, 4], targets := [], via := {} }
theorem witness_StoreIssue_overlap : (∀ l ∈ overlap, l.x.cls ≠ .ord) ∧ 1 < overlap.length ∧
    (settleOverlap (cx (start ld48)) overlap).map (·.data) = [[1, 2, 1, 2], [1, 2, 3, 4]] := by decide +kernel
theorem witness_AtomicIssue : let i : Instr := .cas al { wide := true, ord := .relaxed, d := 252, addr := w49 }
    let s := ready i [(1, 15)] []
    let sd := recSide (cx s) ((cx s).active al) w49 recA (some 8) 8
    AccessPasses s (cx s) i al sd 8 (cx s).touchAtom ∧ (cx s).g.members.Nodup ∧
      noRoom (cx s) (s.laneOks (cx s) sd 8 (cx s).touchAtom) (fun _ => 1) = [] :=
  ⟨access_of (by decide +kernel), by decide +kernel, by decide +kernel⟩
theorem witness_AtomicIssue_aacc : let i : Instr := .aacc al { src := .la 15, ord := .relaxed, addr := w50 }
    let s := ready i [(1, 15)] []
    let sd := recSide (cx s) ((cx s).active al) w50 recA none 128
    AccessPasses s (cx s) i al sd 128 (cx s).touchAacc ∧ noRoom (cx s) (s.laneOks (cx s) sd 128 (cx s).touchAacc) (fun _ => 1) = [] :=
  ⟨access_of (by decide +kernel), by decide +kernel⟩
theorem witness_ScratchAccess : let i : Instr := .sts al { width := .w128, d := 252, off := .reg (.vec 1), k := none }
    let s := ready i [(1, 65520)] []
    CanIssue s (cx s) i al ∧ NoAcquire s (cx s) al ∧
      ScratchPasses (cx s) al 16 16 (scratchOff (cx s) { width := .w128, d := 252, off := .reg (.vec 1), k := none }) :=
  ⟨canIssue_of (by decide +kernel), noAcquire_of (by decide +kernel), by unfold ScratchPasses; decide +kernel⟩
theorem witness_FencesAndLines : let i : Instr := .fence al { kind := .full, scope := .dv }
    let s := ready i [] []
    CanIssue s (cx s) i al ∧ NoAcquire s (cx s) al ∧ ∀ x ∈ (cx s).active al, s.outstanding ((cx s).key x) .dv = false :=
  ⟨canIssue_of (by decide +kernel), noAcquire_of (by decide +kernel), by decide +kernel⟩
theorem witness_FencesAndLines_flush : let i : Instr := .flush al (.line (.vec 1) 48)
    let s := ready i [(1, 15)] []
    CanIssue s (cx s) i al ∧ NoAcquire s (cx s) al ∧ SelectPasses s (cx s) al (.line (.vec 1) 48) .pv ∧
      SelectPasses s (cx s) al (.line (.vec 1) 48) .ws ∧ ∀ x ∈ (cx s).active al, s.pvQueued ((cx s).key x) = false :=
  ⟨canIssue_of (by decide +kernel), noAcquire_of (by decide +kernel),
    ⟨sidePasses_of (by decide +kernel), linesPass_of (ok := fun _ _ => true) (by decide +kernel)⟩,
    ⟨sidePasses_of (by decide +kernel), linesPass_of (ok := fun _ _ => true) (by decide +kernel)⟩, by decide +kernel⟩
def cpy : CopyOp := { size := .b4, hint := .none, d := .vec 2, a := .vec 1, buf := 48, e := 9, tag := 63 }
theorem witness_CopyIssue : let i : Instr := .cpyGs al cpy
    let s := ready i [(1, 15), (2, 65532)] []
    let src := copySide (cx s) ((cx s).active al) 4 cpy.a cpy.buf recR
    let ls := (src.lanes.zip (copyOffs (cx s) ((cx s).active al) cpy.d)).map fun x => ({ t := x.1.t, src := x.1.side, dst := .scratch x.2.2.toNat } : CopyLane)
    CanIssue s (cx s) i al ∧ NoAcquire s (cx s) al ∧ SidePasses src ∧
      ScratchPasses (cx s) al 4 4 (fun x => (((cx s).laneView x).vs cpy.d).toNat) ∧ CopyStarts s (cx s) cpy.tag ls ∧ ls.length = 1 :=
  ⟨canIssue_of (by decide +kernel), noAcquire_of (by decide +kernel), sidePasses_of (by decide +kernel),
    by unfold ScratchPasses; decide +kernel, by unfold CopyStarts; decide +kernel, by decide +kernel⟩
theorem witness_TagInstructions : let i : Instr := .waitany al { d := .sc 255, set := .all }
    let s := ready i [] []
    CanIssue s (cx s) i al ∧ ∃ n ∈ tagSet Warp.empty .all, (cx s).tm.tagCount n = 0 :=
  ⟨canIssue_of (by decide +kernel), by decide +kernel⟩
theorem witness_TagInstructions_tagclr : let i : Instr := .tagclr al (.one 63)
    let s := ready i [] []
    CanIssue s (cx s) i al ∧ s.copies = [] ∧ (cx s).tm.tagCount 63 = 0 := ⟨canIssue_of (by decide +kernel), by decide +kernel⟩
/-- The whole record, and an empty one at its end. -/
theorem witness_RecordInstructions : let i : Instr := .recd al { d := 63, b := 48, a := 252, drop := 15, trap := false }
    CanIssue (ready i [] []) (cx (ready i [] [])) i al ∧ (recDerive words 0 16 15 false).isSome = true ∧
      (recDerive words 16 0 0 true).isSome = true ∧ (recDerive words 16 1 0 true).isSome = false :=
  ⟨canIssue_of (by decide +kernel), by decide +kernel⟩
theorem witness_AccumulatorSums : (Val.fin true 3 (-1)).rat * 2 ^ (298 : Nat) = ((-3 * 2 ^ 297 : Int) : ℚ) := by
  have h : (2 : ℚ) ^ (298 : Nat) = 2 * 2 ^ (297 : Nat) := by rw [pow_succ]; ring
  rw [h]; push_cast; simp only [Val.rat, if_true]
  generalize (2 : ℚ) ^ (297 : Nat) = p
  norm_num; ring
theorem witness_LongAccumulators : let i : Instr := .lxadd al { d := 15, a := 15 }
    CanIssue (start i) (cx (start i)) i al := canIssue_of (by decide +kernel)
theorem witness_AccumulatorRounding : let i : Instr := .mquo al { ty := .f64, mode := .rdn, d := 224, a := 6, b := 15 }
    CanIssue (start i) (cx (start i)) i al ∧ dtKind (rndDt .f64) = .float := ⟨canIssue_of (by decide +kernel), by decide⟩

/-- `i` at 0x10040 of a kernel with a trap routine (a BRA at its entry, R379), thread 0 selected; in the routine itself when
`inside`. -/
def trapped (i : Instr) (inside : Bool) (kind : RoutineKind) : State :=
  let s := start (.bra al 0x80)
  let s := { s with mem := Memory.put s.mem 0x10040 (encode i), cur := s.cur.map fun g => { g with addr := 0x10040, inRoutine := inside } }
  withT s fun x => { x with
    pc := 0x10040
    routine := if inside then some { kind := kind, resume := 0x10048, rep := Rep.none, wait := .none, staged := Staged.empty, committed := false }
      else none }

theorem witness_AccumulatorMemory : let o : LmemOp := { la := 15, addr := { a := .vec 1, buf := none, k := 1 } }
    let s := ready (.lload al o) [(1, 65408)] []
    CanIssue s (cx s) (.lload al o) al ∧ NoAcquire s (cx s) al ∧ ScratchPasses (cx s) al 96 32 (spillOff (cx s) o.addr) ∧
      ∀ x ∈ (cx s).active al, leNat ((cx s).tm.scratchBytes (spillOff (cx s) o.addr x).toNat 96) / 2 ^ 724 % 2 ^ 44 = 0 :=
  ⟨canIssue_of (by decide +kernel), noAcquire_of (by decide +kernel), by unfold ScratchPasses; decide +kernel, by decide +kernel⟩
theorem witness_AccumulatorMemory_record : let o : LmemOp := { la := 15, addr := { a := .vec 1, buf := some 50, k := 0 } }
    let s := ready (.lstore al o) [(1, 14)] []
    let sd := spillSide (cx s) ((cx s).active al) o.addr 50 recW
    AccessPasses s (cx s) (.lstore al o) al sd 96 (cx s).touchStore ∧
      ∀ l ∈ s.laneOks (cx s) sd 96 (cx s).touchStore,
        piecesNow (cx s) l.t ((l.pieces 96).drop l.t.part) = ((l.pieces 96).drop l.t.part).length :=
  ⟨access_of (by decide +kernel), by decide +kernel⟩
/-- A launch with f0 and f1 E4M3 unscaled and an identity window w2 of 64-byte rows (R22, R25). -/
def mmaState (i : Instr) : State :=
  let s := ready i [] [(6, 0x8000)]
  { s with tasks := s.tasks.map fun t => { t with
      rec0 := t.rec0 ||| BitVec.ofNat 4096 (4 * 2 ^ 1024 + 4 * 2 ^ 1152 + (2 ^ 20 + 64 * 2 ^ 152) * 2 ^ 2560) } }
def mma0 : MmaOp := { col := true, ta := 6, fa := 0, fb := 1, win := 2, a := 4, b := 6, m := none }
theorem witness_MatrixRows : let i : Instr := .mma al mma0
    let s := mmaState i
    let m := mmaIn false mma0 (cx s) (((cx s).tm.warp 0))
    CanIssue s (cx s) i al ∧ NoAcquire s (cx s) al ∧ ((cx s).active al).map (·.tid) = [0] ∧
      (m.fault16 ((cx s).active al)).isNone ∧ (m.fault7 (s.key 1) (recordOf (cx s).tk ((cx s).tm.warp 0)) ((cx s).active al)).isNone ∧
      (m.fault8 (cx s).tk ((cx s).active al)).isNone ∧ (m.fault9 (cx s) ((cx s).active al)).isNone ∧
      (m.fault10 (s.key 1) (recordOf (cx s).tk ((cx s).tm.warp 0)) (cx s) ((cx s).active al)).isNone ∧
      (∀ x ∈ (cx s).active al, m.runsA (cx s) x ++ m.runsB = []) ∧ ∀ rd, m.metaOk rd = true :=
  ⟨canIssue_of (by decide +kernel), noAcquire_of (by decide +kernel), by decide +kernel, by decide +kernel, by decide +kernel,
    by decide +kernel, by decide +kernel, by decide +kernel, by decide +kernel, fun _ => rfl⟩

/-- The last entry of a table, and the first index beyond it. -/
def table : Instr := .jtbl al { idx := .vec 1, entries := 5, table := 0x10 }
theorem witness_Transfers : (let s := ready table [(1, 4)] []
    CanIssue s (cx s) table al ∧ (∀ u ∈ (cx s).active al, (((cx s).laneView u).vs (.vec 1)).toNat < 5) ∧
      ∃ bs, s.fetchBlock (cx s).tk 0 0x10020 [0] = .ok bs ∧ decide ((wordAt bs 0).toInt = 0) = true) ∧
    (let s := ready table [(1, 5)] []
    CanIssue s (cx s) table al ∧ ∃ u ∈ (cx s).active al, 5 ≤ (((cx s).laneView u).vs (.vec 1)).toNat) :=
  ⟨⟨canIssue_of (by decide +kernel), by decide +kernel, block_of (by decide +kernel)⟩, canIssue_of (by decide +kernel), by decide +kernel⟩
/-- JOIN at the rejoin point of the top entry, at another address, and MARK on a stack of 7 and of 8 entries. -/
def entry (a : BitVec 64) : MarkEntry := { rejoin := a, mask := 1, written := false }
def stacked (i : Instr) (es : List MarkEntry) : State := withW (start i) fun w => { w with marks := es }
theorem witness_MarkAndJoin :
    (let s := stacked .join [entry 0x10000]
    CanIssue s (cx s) .join al ∧ ∀ x ∈ (cx s).active al, rejoinsAt 16 (cx s).tm false x 0x10000 = true) ∧
    (let s := stacked .join [entry 0x10008]
    CanIssue s (cx s) .join al ∧ ∃ x ∈ (cx s).active al, rejoinsAt 16 (cx s).tm false x 0x10000 = false) ∧
    (let s := stacked (.mark 8) (List.replicate 7 (entry 0x10008))
    CanIssue s (cx s) (.mark 8) al ∧ ¬∃ k ∈ (cx s).warps ((cx s).active al), 8 ≤ (((cx s).tm.warp k).stack false).length) ∧
    (let s := stacked (.mark 8) (List.replicate 8 (entry 0x10008))
    CanIssue s (cx s) (.mark 8) al ∧ ∃ k ∈ (cx s).warps ((cx s).active al), 8 ≤ (((cx s).tm.warp k).stack false).length) :=
  ⟨⟨canIssue_of (by decide +kernel), by decide +kernel⟩, ⟨canIssue_of (by decide +kernel), by decide +kernel⟩,
    ⟨canIssue_of (by decide +kernel), by decide +kernel⟩, canIssue_of (by decide +kernel), by decide +kernel⟩
/-- An entry that awaits another thread: the arrival completes none. -/
theorem witness_MarkAndJoin_waits : let s := stacked .join [{ entry 0x10000 with mask := 3 }]
    CanIssue s (cx s) .join al ∧ (∀ x ∈ (cx s).active al, rejoinsAt 16 (cx s).tm false x 0x10000 = true) ∧
      ∀ tm ∈ s.teams, tm.task = 0 → tm.team = 0 → ∀ k, ∀ e ∈ (tm.warp k).stack false,
        entryDone 16 k false (tm.threads.map fun x => if x.tid ∈ [0] then { x with wait := .join } else x) ((tm.warp k).stack false) e = false := by
  refine ⟨canIssue_of (by decide +kernel), by decide +kernel, ?_⟩
  have h : ∀ tm ∈ (stacked .join [{ entry 0x10000 with mask := 3 }]).teams, tm.warps.length = 4 ∧ ∀ k < 4,
      ∀ e ∈ (tm.warp k).stack false,
        entryDone 16 k false (tm.threads.map fun x => if x.tid ∈ [0] then { x with wait := .join } else x) ((tm.warp k).stack false) e = false := by
    decide +kernel
  intro tm ht _ _ k e he
  rcases Nat.lt_or_ge k 4 with hk | hk
  · exact (h tm ht).2 k hk e he
  · rw [Team.warp, List.getD_eq_default _ _ (by rw [(h tm ht).1]; exact hk)] at he
    cases he
/-- The last arrival at the newest entry of warp 0, over an entry that holds another member still waited for. -/
theorem witness_MarkAndJoin_last : let s := stacked .join [{ entry 0x10010 with mask := 3 }, entry 0x10000]
    CanIssue s (cx s) .join al ∧ (cx s).tk.width = 16 ∧ (cx s).active al ≠ [] ∧
      ((cx s).tm.warp 0).stack false = [{ entry 0x10010 with mask := 3 }] ++ [entry 0x10000] ∧
      (∀ m ∈ (cx s).g.members, warpOf 16 m = 0 ∧ (entry 0x10000).mask.getLsbD (wlaneOf 16 m) = true) ∧
      (∀ x ∈ (cx s).threads, x.routine.isSome = false) ∧
      (∀ l < 16, (entry 0x10000).mask.getLsbD l = true → ((cx s).tm.thread? l).all fun x => x.tid ∈ ((cx s).active al).map (·.tid)) ∧
      (entry 0x10000).mask.getLsbD 0 = true ∧ ((cx s).tm.thread? 0).any fun x => !x.exited := by
  refine ⟨canIssue_of (by decide +kernel), ?_⟩; decide +kernel
theorem witness_ThreadProgress : (let i : Instr := .vshrink al 0
    let s := ready i [] []
    CanIssue s (cx s) i al ∧ (cx s).g.inRoutine = false ∧ ∀ x ∈ (cx s).active al, s.pendingDests ((cx s).key x) ((cx s).warp x).queue = []) ∧
    (let i : Instr := .vgrow al 32
    CanIssue (start i) (cx (start i)) i al ∧ (cx (start i)).tm.borrower = false) ∧
    (let i : Instr := .exit al
    CanIssue (start i) (cx (start i)) i al) :=
  ⟨⟨canIssue_of (by decide +kernel), by decide +kernel⟩, ⟨canIssue_of (by decide +kernel), by decide +kernel⟩, canIssue_of (by decide +kernel)⟩
/-- A launch on linked clubs (bit 295 of the record). -/
theorem witness_ThreadProgress_nbrl : let i : Instr := .nbrl al { pair := true, d := 254, a := 0 }
    let s := { start i with tasks := (start i).tasks.map fun t => { t with rec0 := t.rec0 ||| BitVec.ofNat 4096 (2 ^ 295) } }
    CanIssue s (cx s) i al ∧ (cx s).tk.linked = true ∧ (cx s).g.inRoutine = false := ⟨canIssue_of (by decide +kernel), by decide +kernel⟩
theorem witness_TrapsAndReturns :
    (let s := trapped (.trap al 255) false .trap
    CanIssue s (cx s) (.trap al 255) al ∧ (cx s).g.inRoutine = false ∧ s.hasRoutine (cx s).tk = true) ∧
    (let s := start (.trap al 0)
    CanIssue s (cx s) (.trap al 0) al ∧ s.hasRoutine (cx s).tk = false ∧ (cx s).active al ≠ []) ∧
    (let s := trapped .tret true .trap
    CanIssue s (cx s) .tret al ∧ (cx s).g.inRoutine = true) ∧
    (let s := trapped .tret false .trap
    CanIssue s (cx s) .tret al ∧ (cx s).g.inRoutine = false) :=
  ⟨⟨canIssue_of (by decide +kernel), by decide +kernel, by decide +kernel⟩, ⟨canIssue_of (by decide +kernel), by decide +kernel, by decide +kernel⟩,
    ⟨canIssue_of (by decide +kernel), by decide +kernel⟩, canIssue_of (by decide +kernel), by decide +kernel⟩
def idle0 : State := start (.nop al)
theorem witness_Barriers : let s := start (.bar .dv)
    CanIssue s (cx s) (.bar .dv) al ∧ (cx s).g.inRoutine = false ∧
      ∀ x ∈ (cx s).active al, (x.bar 4).pending = false ∧ s.outstanding ((cx s).key x) .dv = false :=
  ⟨canIssue_of (by decide +kernel), by decide +kernel, by decide +kernel⟩
/-- An access not yet performed; an arrival of this generation; the last of 64 arrivals; BARW after and before the generation moves. -/
theorem witness_Barriers_fates :
    (let s := withW (start (.bar .dv)) fun w => { w with queue := [.release { task := 0, team := 0, tid := 0 } .sy] }
    CanIssue s (cx s) (.bar .dv) al ∧
      ∃ x ∈ ((cx s).active al).filter fun x => !s.arrivedNow (cx s) x 4, s.outstanding ((cx s).key x) .dv = true) ∧
    (let s := withT (start (.bara .sy)) fun x => x.setBar 5 { pending := true, rgen := 0 }
    CanIssue s (cx s) (.bara .sy) al ∧ (∀ m ∈ (cx s).g.members, ((cx s).tm.thread? m).isSome = true) ∧
      ∀ x ∈ (cx s).active al, s.arrivedNow (cx s) x 5 = true) ∧
    (let s := (start (.bar .tm)).modTeam 0 0 fun tm => { tm with tmBar := { count := 63, gen := 0 } }
    CanIssue s (cx s) (.bar .tm) al ∧ (cx s).tk.ordered = false ∧ 
      (instsOf (cx s).tk 0 (((cx s).active al).map (·.tid)) 1).map (fun j => (j.scope, j.team, j.squad)) = [(1, 0, 0)] ∧
      (∀ x ∈ (cx s).active al, (x.bar 1).pending = false ∧ s.outstanding ((cx s).key x) .tm = false) ∧
      (s.barInst (cx s).tk ⟨1, 0, 0⟩).count.toNat + ((cx s).active al).length = s.liveParticipants (cx s).tk ⟨1, 0, 0⟩ ∧
      s.liveParticipants (cx s).tk ⟨1, 0, 0⟩ = 64) ∧
    (∀ b ∈ [(⟨true, 0⟩ : BarRec), ⟨true, 2 ^ 31 - 1⟩, ⟨false, 0⟩],
      canIssueB (withT (start (.barw .sq)) fun x => x.setBar 0 b) (.barw .sq) al = true) ∧
    (idle0.team? 0 0).isSome = true ∧ (idle0.task? 0).isSome = true ∧ ((tm0 idle0).thread? 63).isSome = true ∧
    (idle0.thread? { task := 0, team := 0, tid := 63 }).isSome = true :=
  ⟨⟨canIssue_of (by decide +kernel), by decide +kernel⟩, ⟨canIssue_of (by decide +kernel), by decide +kernel⟩,
    ⟨canIssue_of (by decide +kernel), by decide +kernel⟩, by decide +kernel⟩
theorem witness_LaunchAndManagement : (let i : Instr := .lnch al { sys := true, d := 4, a := 5, n := 255 }
    let s := ready i [] []
    CanIssue s (cx s) i al ∧ (cx s).g.inRoutine = false ∧ releaseWaits s (cx s) ((cx s).active al) .sy = [] ∧
      chainValid (s.chain 0) = true ∧ chainCtx (s.chain 0) = (cx s).tk.ctx ∧ chainPending (s.chain 0) + 255 < 2 ^ 31) ∧
    (let i : Instr := .mgmt al { d := 255, a := 254, code := 255 }
    let s := ready i [] []
    CanIssue s (cx s) i al ∧ releaseWaits s (cx s) ((cx s).active al) .dv = []) :=
  ⟨⟨canIssue_of (by decide +kernel), by decide +kernel, by decide +kernel⟩, canIssue_of (by decide +kernel), by decide +kernel⟩
/-- WAIT takes the code 6 and not 7; MSDEPTH takes 8 and not 9. -/
def ctxwr0 (item : CtxItem) : Instr := .ctxwr al { r := .vec 1, item := item }
def inRoutine (item : CtxItem) (v : Word) : State := withT (trapped (ctxwr0 item) true .restore) fun x => { x with regs := [(1, v)] }
theorem witness_HiddenState :
    (let s := trapped (ctxwr0 .wait) false .trap
    CanIssue s (cx s) (ctxwr0 .wait) al ∧ (cx s).g.inRoutine = false) ∧
    (∀ p ∈ [(CtxItem.wait, (6 : Word)), (.wait, 7), (.msdepth, 8), (.msdepth, 9), (.msaddr 7, 0), (.tagcnt 63, 65535), (.barcnt 4, 1),
        (.innpos, 5)],
      let s := inRoutine p.1 p.2
      canIssueB s (ctxwr0 p.1) al = true ∧ (cx s).g.inRoutine = true ∧ ((cx s).active al).map (fun x => x.reg 1) = [p.2]) ∧
    (let i : Instr := .ctxrd al { r := .vec 255, item := .innpos }
    CanIssue (start i) (cx (start i)) i al) :=
  ⟨⟨canIssue_of (by decide +kernel), by decide +kernel⟩, by decide +kernel, canIssue_of (by decide +kernel)⟩
theorem witness_SpecialRegisters : (let i : Instr := .mfs al { w := true, d := .sc 254, sr := .clklo }
    CanIssue (start i) (cx (start i)) i al) ∧
    (let i : Instr := .mfs al { w := false, d := .vec 0, sr := .passref }
    CanIssue (start i) (cx (start i)) i al ∧ (start i).releasing (cx (start i)) ((cx (start i)).active al) = []) ∧
    (let i : Instr := .mts al { sr := .passref, src := .vec 0 }
    CanIssue (start i) (cx (start i)) i al) :=
  ⟨canIssue_of (by decide +kernel), ⟨canIssue_of (by decide +kernel), by decide +kernel⟩, canIssue_of (by decide +kernel)⟩
/-- An allotment of 64 vector registers, and an operand v64; a fault with and without a trap routine. -/
theorem witness_ExceptionEntry : (let i : Instr := .iadd al (bin .i32 0 64 (.vec 63))
    let s := withT (start i) fun x => { x with vallot := 64 }
    s.ctx.isSome = true ∧ (∀ u ∈ i.uses false, u.aligned = true) ∧ ∃ x ∈ (cx s).active al,
      (i.uses false).any (fun u => decide (allotOf (cx s).tk x u.cls < u.num + u.cnt)) = true) ∧
    (let s := trapped (.nop al) false .trap
    s.ctx.isSome = true ∧ causeEnds causeRegister = false ∧ (cx s).g.inRoutine = false ∧ s.hasRoutine (cx s).tk = true) ∧
    (let s := start (.nop al)
    s.ctx.isSome = true ∧ s.hasRoutine (cx s).tk = false ∧ (cx s).tk.stopped = false) := by decide +kernel
theorem witness_StepRunsDecoded : let s := start (.nop al)
    s.cur.isSome = true ∧ s.ctx.isSome = true ∧ ∃ bs, s.fetchBlock (cx s).tk 0 0x10000 [0] = .ok bs ∧
      decide (decodeWords (wordAt bs 0) (wordAt bs 4) (wordAt bs 8) (wordAt bs 12) = .ok (.nop al) .w2) = true :=
  ⟨by decide +kernel, by decide +kernel, block_of (by decide +kernel)⟩
/-- The last instruction that a block holds, the first that leaves it, an unassigned opcode and a pad word. -/
theorem witness_FetchFaults : (∃ bs, (start (.nop al)).fetchBlock (cx (start (.nop al))).tk 0 0x10018 [0] = .ok bs ∧
      decide (lenOf (wordAt bs 24) = none) = true) ∧ 24 + Len.w2.bytes ≤ 32 ∧ 32 < 24 + Len.w3.bytes ∧ lenOf 0x05877802 = some .w3 ∧
    decodeWords 0x0007707D 0 0 0 = .bad .unassigned :=
  ⟨block_of (by decide +kernel), by decide +kernel⟩
theorem witness_EncodeThenDecode : let i : Instr := .mma al mma0
    i.wf = true ∧ i.fields.isSome = true ∧ decode (encode i ++ [0xFF]) = .ok i .w4 := by decide +kernel
theorem witness_MemoryStaysCanonical : State.reset.memOk ∧ ∃ t, step State.reset = .next t := ⟨⟨rfl, rfl⟩, next_of (by decide +kernel)⟩

/-- The device with its tables, a chain, a bound record that runs, and no task. -/
def dev : State := { State.reset.loaded [] with cur := none, tasks := [], teams := [] }
/-- A launch whose threads may issue. -/
def idle : State := { start (.nop al) with cur := none }
def key0 : ThreadKey := { task := 0, team := 0, tid := 0 }
def withNet (m : Msg) : State := { idle with net := [m] }

/-- A clock has begun: a candidate of the squad, and none of another core; the slot once it has been served. -/
def aged : State := then_ idle (.aging 0 0)
theorem witness_IssueSlots : aged.cur = none ∧ aged.ready = true ∧ (∀ x ∈ (aged.huddle 0 0).served, x.slot ≠ 0) ∧
    (let rs := aged.readyNow 0 0
    let h := (aged.huddle 0 0).forget 0 ((aged.candThreads (aged.huddle 0 0) rs).map (·.1))
    ((aged.candThreads h rs).filter fun x => x.1.slot == 0).isEmpty = false) ∧ (aged.readyNow 1 0).isEmpty = true ∧
    (∃ x ∈ ((then_ aged (.issueSlotService 0 0 0)).huddle 0 0).served, x.slot = 0) ∧
    idle.candThreads ((idle.huddle 0 0).refresh ((idle.readyOf 0 0).map (·.t.pc))) (idle.readyOf 0 0) ≠ [] := by decide +kernel
/-- The watchdog's limit: 2^32 clocks ready and not issued, and one less. -/
theorem witness_IssueSlots_watchdog : (let s := withT idle fun x => { x with dog := if x.tid = 0 then 2 ^ 32 else 0 }
    (s.overdue 0 0).isEmpty = false) ∧ (let s := withT idle fun x => { x with dog := 2 ^ 32 - 2 }
    (s.overdue 0 0).isEmpty = true) := by decide +kernel
theorem witness_Deliveries : (let s := withNet (.load key0 (.regs 255 .n8) [0xFF])
    s.net[0]? = some (.load key0 (.regs 255 .n8) [0xFF])) ∧
    (let s := withNet (.mgmtReply [key0] 255 7)
    s.net[0]? = some (.mgmtReply [key0] 255 7) ∧ (s.task? 0).isSome = true) := by decide +kernel
def asks (code : BitVec 8) (arg : BitVec 64) : State :=
  { idle with mgmt := [{ owners := [key0], dst := 4, code := code, arg := arg }] }
/-- The codes 0 to 5; an address inside and outside the lease; the first number that is no chain. -/
theorem witness_ManagementCodes : (∀ n ∈ [0, 1, 2, 3, 4, 5], ((asks (BitVec.ofNat 8 n) 0).mgmt[0]?.map (·.code)) = some (BitVec.ofNat 8 n)) ∧
    (idle.task? 0).isSome = true ∧ idle.leaseCheck (idle.leaseOf 0) 0 = .covered true ∧ idle.leaseCheck (idle.leaseOf 0) 0x4000 = .outside ∧
    (let s := idle.setWindow 0x58 4
    s.heldEvents = [] ∧ s.ringLog = some 4 ∧ s.ringUsed ≠ 16) ∧
    (let s := (idle.setWindow 0x58 4).setWindow 0x68 16
    s.ringLog = some 4 ∧ s.ringUsed = 16) := by decide +kernel
/-- The oldest item of a queue, for each kind of item. -/
def queued (q : QItem) : State := withW idle fun w => { w with queue := [q] }
def store0 : LaneStore := { owner := key0, place := devPlace 0x40000, cls := .rc, data := [1, 2], targets := [] }
def how0 : HowAtom := { acq := none }
theorem witness_QueueItems : ∀ q ∈ [QItem.release key0 .sy, .store store0, .store { store0 with cls := .sc },
      .atom key0 (devPlace 0x40000) .rc (.atom .add false 1) 5 how0],
    let s := queued q
    (s.queueTeam 0 0).map (fun x => (x.1.team, x.2)) = some (0, 0) ∧ ((tm0 s).warp 0).queue = [q] ∧ s.mayLeave 0 q = true ∧
      s.cellAt 0x40000 = none ∧ store0.place.space = .dev ∧ store0.targets = [] := by decide +kernel
/-- A release behind a store that has not left. -/
theorem witness_QueueItems_wait : let s := { queued (.release key0 .sy) with net := [.remote key0 1 (.store store0) .sent 0] }
    s.mayLeave 0 (.release key0 .sy) = false := by decide +kernel
theorem onCore (core : Nat) (h : homeSliceOf (devPlace 0x40000) = core / 4) :
    let q := QItem.aacc key0 (devPlace 0x40000) .rc Acc.zero {}
    let s := { queued q with teams := (queued q).teams.map fun tm => { tm with core := core } }
    (s.queueTeam core 0).map (fun x => (x.1.team, x.2)) = some (0, 0) ∧ ((tm0 s).warp 0).queue = [q] ∧ s.mayLeave core q = true ∧
      homeSliceOf (devPlace 0x40000) = core / 4 ∧ s.cells = [] := by
  intro q s
  have hq : (queued (QItem.aacc key0 (devPlace 0x40000) .rc Acc.zero {})).teams =
      [tm0 (queued (QItem.aacc key0 (devPlace 0x40000) .rc Acc.zero {}))] := by decide +kernel
  have hb : (let tm := tm0 (queued (QItem.aacc key0 (devPlace 0x40000) .rc Acc.zero {}))
      tm.borrower = false ∧ tm.team = 0 ∧ 0 < tm.warps.length ∧
        (tm.warp 0).queue = [QItem.aacc key0 (devPlace 0x40000) .rc Acc.zero {}]) ∧
      (queued (QItem.aacc key0 (devPlace 0x40000) .rc Acc.zero {})).net = [] ∧
      (queued (QItem.aacc key0 (devPlace 0x40000) .rc Acc.zero {})).cells = [] ∧
      (queued (QItem.aacc key0 (devPlace 0x40000) .rc Acc.zero {})).bowls = [] ∧
      (queued (QItem.aacc key0 (devPlace 0x40000) .rc Acc.zero {})).l2 = [] ∧
      (queued (QItem.aacc key0 (devPlace 0x40000) .rc Acc.zero {})).partials = [] ∧
      (queued (QItem.aacc key0 (devPlace 0x40000) .rc Acc.zero {})).replicas = [] := by decide +kernel
  obtain ⟨⟨hb1, hb2, hb3, hb4⟩, hn, hc, hw, hl, hp, hr⟩ := hb
  have ht : s.teams = [{ tm0 (queued q) with core := core }] := by simp only [s, q, hq]; rfl
  refine ⟨?_, ?_, ?_, h, hc⟩
  · simp [State.queueTeam, ht, q, hb1, hb2, hb3]
  · simp only [tm0, ht]; exact hb4
  · simp only [State.mayLeave, State.homeReads, State.flights, State.unacked, State.waitsWay, State.noWay, State.waysTaken, s, q, hn, hc, hw,
      hl, hp, hr]; simp [Place.away, devPlace]
/-- An AACC on a core of the line's home slice. -/
theorem witness_QueueItems_aacc : let q := QItem.aacc key0 (devPlace 0x40000) .rc Acc.zero {}
    let core := 4 * (Config.homeSlice (devPlace 0x40000).lineNo % 64)
    let s := { queued q with teams := (queued q).teams.map fun tm => { tm with core := core } }
    (s.queueTeam core 0).map (fun x => (x.1.team, x.2)) = some (0, 0) ∧ ((tm0 s).warp 0).queue = [q] ∧ s.mayLeave core q = true ∧
      homeSliceOf (devPlace 0x40000) = core / 4 ∧ s.cells = [] := by
  exact onCore _ (by simp only [homeSliceOf]; omega)
theorem witness_QueueItems_flight : let s := withNet (.store 0 store0)
    storeBehind 0 store0 (s.net.take 0) = false ∧ s.noWay (homeSliceOf store0.place) store0.place = false ∧ s.cellAt 0x40000 = none ∧
      storeBehind 0 store0 (s.net.take 1) = true := by decide +kernel
def copy0 (src dst : CopySide) (done : Option Nat) : CopyRec :=
  { id := 0, owner := key0, tag := 63, size := 16, src := src, dst := dst, reg := 255, done := done }
theorem witness_CopyEnds : let s := idle
    (s.ctxOf key0 false).isSome = true ∧ ((s.ctxOf key0 false).map fun x =>
      match s.lineOut x.1 x.1.touchLoad x.2 0x40000, s.lineOut x.1 { write := true, cls := fun _ z => z != .ord || false } x.2 0x40000 with
      | .ok y, .ok z => y.cls == .rc && !s.loadWaits 0 key0 y.place y.cls && !s.copyMeets x.1 y && z.cls == .rc && z.place.space == .dev
      | _, _ => false) = some true ∧
    s.mayLeave 0 (.store { store0 with data := List.replicate 16 0 }) = true ∧
    (copy0 .dropped (.scratch 0) none).done = none ∧ (copy0 .dropped (.scratch 0) none).sent = false ∧
    (copy0 (.mem 0x40000) (.scratch 0) (some 1)).done = some 1 ∧ ({ copy0 (.scratch 0) (.mem 0x40000) none with sent := true } : CopyRec).sent = true := by
  decide +kernel

/-- A chain with room for one more, and one without; a bound slot, an anchor that names a record, and one that names none. -/
def chained (tail : Nat) : State := dev.setChain 0 (setField (setField (setField loadChain 160 57 0x50000) 288 32 tail) 320 32 0)
theorem witness_LaunchEvents : dev.ready = true ∧ (let v : BitVec 64 := 1 * 2 ^ 16
    bitsNat v 32 32 = 0 ∧ bitsNat v 8 8 = 0 ∧ v.toNat / 2 ^ 16 % 2 ^ 16 ≠ 0) ∧ State.reset.ready = false ∧
    chainPending ((chained (2 ^ 31 - 2)).chain 0) + 1 < 2 ^ 31 ∧ ¬chainPending ((chained (2 ^ 31 - 1)).chain 0) + 1 < 2 ^ 31 ∧
    (∀ a ∈ [0, 0x20000], let s := { (chained 1).setSlot 0 { rec0 := BitVec.ofNat 512 (2 ^ 256), state := .bound, held := false, order := 0 } with
        mem := Memory.put (chained 1).mem 0x50000 (leBytes 8 a) }
      let d := s.chain 0
      chainValid d = true ∧ chainErr d = false ∧ chainKind d = false ∧ chainPending d ≠ 0 ∧ s.tasks = [] ∧ s.boundSlot 0 = some 0 ∧
        s.unitRead 0 (chainAddr d) 8 = some (leBytes 8 a) ∧ s.unitCells 0 (chainAddr d) 8 = [] ∧ s.unitCells 0 a 512 = [] ∧
        (s.unitRead 0 a 512).isSome = true) := by decide +kernel
/-- A staged record with a row for its team on core 0. -/
def placing : State :=
  let s := { dev with tasks := [{ loadTask 0 with started := false }], remap := [(0, BitVec.ofNat 64 (2 ^ 63))] }
  s.setSlot 0 { rec0 := BitVec.ofNat 512 (2 ^ 256), state := .staged, held := false, order := 0 }
theorem witness_LaunchEvents_start : (placing.placement 0).map (fun x => (x.1.id, x.2)) = some (0, 0) ∧
    placing.unplaced (loadTask 0) 0 = true := by decide +kernel
theorem witness_LaunchEvents_clean : Sparse.get 0 ({ dev with dirty := [(255, 7)] } : State).dirty 255 ≠ 0 := by decide +kernel
/-- An ordered launch, and one whose buffers do not fit. -/
theorem witness_LaunchEvents_ordered : (let t := { loadTask 0 with rec0 := loadRecord ||| BitVec.ofNat 4096 (2 ^ 296 + 2 ^ 297) }
    t.ordered = true ∧ dev.orderedBusy t = false ∧ dev.reservable t = true ∧
      ({ dev with inningPool := 0 } : State).reservable t = false) := by decide +kernel
def managed : State := dev.setWindow 0x18 0
theorem witness_LaunchEvents_descriptor : managed.ready = true ∧ managed.dutySched = false ∧ chainOk (setField loadChain 160 57 0x50000) = true ∧
    chainValid (managed.chain 255) = false := by decide +kernel
theorem witness_BindEvents : (managed.slot 63).state = .free ∧ managed.bindOk (BitVec.ofNat 512 (5 * 2 ^ 192)) = true ∧
    (∀ x ∈ managed.slots, bindChain x.2.rec0 ≠ 5) ∧ (managed.slot 0).state = .run ∧ (idle.slotTask 0).isSome = true ∧
    (let s := { idle.setSlot 0 { idle.slot 0 with state := .drain } with tasks := [{ loadTask 0 with phase := .ending 0 0 0 }], teams := [] }
    (s.slotTask 0).isSome = true ∧ (s.slot 0).state = .drain ∧ (s.task? 0).any (fun (t : Task) => (s.outcome t).isSome) = true) ∧
    (∀ st ∈ [SlotState.bound, .staged, .susp, .drain], ((managed.setSlot 1 { Slot.zero with state := st }).slot 1).state = st) := by
  decide +kernel
/-- A team whose row has gone; one whose save began 2^32 clocks ago; a saved team that fits. -/
theorem witness_Switching : (let s := { idle with remap := [(0, BitVec.ofNat 64 (2 ^ 61))] }
    ((s.teams.find? fun x => x.core == 0 && (x.phase != .run || s.preempts x)).map (·.team)) = some 0) ∧
    (let s := { idle with clk := 2 ^ 32, teams := [{ tm0 idle with phase := .saving 0 true }] }
    s.teams.length = 1 ∧ 0 + 2 ^ (loadTask 0).wdlog ≤ s.clk ∧ (loadTask 0).stopped = false) ∧
    (let tm := { tm0 idle with threads := (List.range 4).map (Thread.fresh (loadTask 0) 0) }
    Memory.nat (areaOf (loadTask 0) tm) 132 4 < 2 ^ 31 ∧ areaFits (loadTask 0) (areaOf (loadTask 0) tm) = true) := by
  refine ⟨by decide +kernel, by decide +kernel, by decide +kernel⟩
theorem witness_Switching_save : idle.hasRoutine (loadTask 0) = false ∧ idle.drained (tm0 idle) = true ∧ (tm0 idle).phase = .run := by
  decide +kernel
/-- A quantum of 1,024 clocks has run, and another record of the same priority waits for the core. -/
theorem witness_Switching_quantum : let other := { loadTask 0 with id := 1, slot := 1, chain := 1, started := false }
    let mine := BitVec.ofNat 512 (2 ^ 256 + 2 ^ 206 + 2 ^ 208)
    let s := { idle with clk := 2 ^ 20, tasks := idle.tasks ++ [other], remap := [(0, BitVec.ofNat 64 (2 ^ 63 + 2 ^ 48))] }
    let s := (s.setSlot 0 { s.slot 0 with rec0 := mine }).setSlot 1 { rec0 := mine, state := .staged, held := false, order := 1 }
    bindTsp mine = 1 ∧ bindQuant mine = 1 ∧ (s.rowTask 0).map (·.id) = some 1 ∧
      (s.teams.find? (s.quantumRun 0)).map (·.team) = some 0 := by decide +kernel
/-- A team that was saved whole and is placed again. -/
theorem witness_Switching_restore : let tm := { tm0 idle with threads := (List.range 4).map (Thread.fresh (loadTask 0) 0) }
    let v : SavedTeam :=
      { task := 0, team := 0, area := areaOf (loadTask 0) tm, offSince := 0, innEnded := [], inning := 0, parts := [], faults := [] }
    let s := { idle with teams := [], remap := [(0, BitVec.ofNat 64 (2 ^ 63))], saved := [v] }
    (s.placement 0).map (fun x => (x.1.id, x.2)) = some (0, 0) ∧ (s.saved.find? fun v => v.task == 0 && v.team == 0).isSome = true ∧
      (s.saved.all fun v => decide (Memory.nat v.area 132 4 < 2 ^ 31) && areaFits (loadTask 0) v.area &&
        !savedExited (loadTask 0) v.area 3) = true := by decide +kernel
/-- A team at a switch point whose row names another logical team. -/
theorem witness_Switching_switch : let s := withT { idle with remap := [(0, BitVec.ofNat 64 (2 ^ 63 + 1))] } fun x => { x with wait := .barrier 4 }
    (s.teams.filter fun x => x.core == 0 && (s.task? x.task).any fun tk => s.switches tk x).length = 1 := by decide +kernel
/-- An ordered launch of one team whose threads have all ended their inning, with one entry in its buffer. -/
def ordered : State :=
  let e : DoEntry := { team := 0, tid := 0, line := 0x40000, kind := .store 7 1 [] }
  withT { idle with tasks := [{ loadTask 0 with rec0 := loadRecord ||| BitVec.ofNat 4096 (2 ^ 296 + 2 ^ 297), buf := [e] }] }
    fun x => { x with innEnded := true, wait := .inning }
theorem witness_InningCommit : ∃ tk, ordered.task? 0 = some tk ∧ ordered.commitReady tk = true ∧ tk.committing = none ∧ tk.buf ≠ [] ∧
    ordered.cells = [] ∧ ordered.termsComing (fun _ => true) = false ∧ ordered.remotePending tk.id (fun _ => true) = false ∧
    (tk.buf.all fun e => e.space == .dev && e.kind.targets == [] && match e.kind with
      | .aacc _ => false
      | _ => true) = true := by
  refine ⟨(ordered.task? 0).getD (loadTask 0), ?_⟩; decide +kernel
theorem witness_InningCommit_on : (∃ tk, idle.task? 0 = some tk ∧ tk.committing = none ∧ idle.commitReady tk = false) ∧
    (let s := ordered.modTask 0 fun t => { t with committing := some t.buf }
    (s.task? 0).any (fun (tk : Task) => tk.committing.isSome) = true) := by
  refine ⟨⟨(idle.task? 0).getD (loadTask 0), by decide +kernel⟩, by decide +kernel⟩
def cell0 (gath : Bool) (h : BitVec 64) : HomeCell :=
  { line := 0x40000, cls := .rc, base := Acc.zero, h := h, gath := gath, waiting := [], queue := [], stuck := false }
def part0 : Partial := { slice := 63, line := 0x40000, cls := .rc, acc := Acc.zero, registered := true, owners := [] }
def contrib (replay : Bool) (path : List Nat) : Msg := .contribution 0x40000 .rc Acc.zero [(3, 9)] [] 0 replay path
def chunk0 : Chunk := { vals := [Acc.zero], cmap := 1 }
def bowl0 : BowlEntry := { die := 3, line := 0x40000, cls := .rc, kind := .cell Acc.zero, pairs := [(3, 9)], owners := [], opened := 0 }
def bowl1 : BowlEntry := { bowl0 with line := 2 ^ 60, kind := .chunk chunk0, pairs := [(64, 9)] }
theorem witness_MergeMessages :
    (∀ m ∈ [contrib false [], contrib true [], .reg 63 0x40000 .rc, .regack 63 0x40000, .collect 63 0x40000, .surr 63 0x40000 .rc Acc.zero [],
        .surrE 63 0x40000 .rc Acc.zero, .none_ 63 0x40000, contrib false [3], .chunk (2 ^ 60) chunk0 [(65, 9)] 0 false [3]],
      (({ dev with net := [m] } : State).takeOrdered 0).map (·.1) = some m) ∧
    dev.hasMerged (cellHome 0x40000) [(3, 9)] = false ∧ (63, 0x40000) ∉ dev.discards ∧
    (63, 0x40000) ∈ ({ dev with discards := [(63, 0x40000)] } : State).discards ∧
    (let s := { dev with partials := [part0] }
    (s.partialAt 63 0x40000).isSome = true ∧ part0.registered = true ∧ (s.partialAt 62 0x40000).isNone = true) ∧
    (∀ g ∈ [false, true], (({ dev with cells := [cell0 g 1] } : State).cellAt 0x40000) = some (cell0 g 1)) ∧ dev.cellAt 0x40000 = none ∧
    (let s := { dev with bowls := [bowl0, bowl1] }
    s.bowls[0]? = some bowl0 ∧ s.bowls[1]? = some bowl1 ∧ s.bowlAt 3 0x40000 = some bowl0 ∧ s.bowlAt 3 (2 ^ 60) = some bowl1 ∧
      s.bowlAt 2 0x40000 = none ∧ s.bowlAt 2 (2 ^ 60) = none ∧ bowl0.seqOf 3 = some 9 ∧ bowl0.seqOf 4 = none ∧ bowl1.seqOf 65 = none ∧
      ((s.bowls.filter fun b => b.die == 3).map BowlEntry.size).sum + 1 ≤ 4096) := by
  decide +kernel
/-- A pair that the home of the line has recorded. -/
theorem witness_MergeMessages_replay : ({ dev with merged := [(3, cellHome 0x40000, 9)] } : State).hasMerged (cellHome 0x40000) [(3, 9)] = true := by
  simp [State.hasMerged]
def line0 : Place := devPlace 0x40000
theorem witness_CoherenceMessages :
    (∀ m ∈ [Msg.token line0 0 .rc key0, .token line0 0 .ws key0, .probe line0 63 0 .rc key0, .probe line0 63 0 .ws key0, .probeAck line0 63 true key0,
        .pass line0 .rc 0 0 0 0 key0 [] false, .passOutcome key0 [] false, .passOutcome key0 [] true],
      (({ idle with net := [m] } : State).net[0]?) = some m) ∧
    tokenBefore (homeDieOf line0) [] = false ∧ (∀ d, ownNotice line0 0 ((withNet (.pass line0 .rc 0 0 0 0 key0 [] d)).net.drop 1) = false) ∧
    idle.runsTeam 0 0 0 = true ∧ idle.runsTeam 0 1 0 = false ∧ idle.lineHeld line0 = false ∧ (idle.l1At 0 line0).isNone = true ∧
    line0.line = line0 ∧ idle.filterFull 0 line0 = false ∧ idle.passCount 0 < 32 ∧ (idle.team? 0 0).isSome = true ∧
    32 ≤ ({ idle with l1 := List.replicate 32 { core := 0, place := line0, cls := .rc, st := .p, data := 0, dirty := 0 } } : State).passCount 0 ∧
    (({ idle with l1 := [{ core := 0, place := line0, cls := .rc, st := .v, data := 0, dirty := 0 }] } : State).l1At 0 line0).isSome = true := by
  decide +kernel
theorem witness_CoherenceMessages_order : tokenBefore (homeDieOf line0) [.token line0 0 .rc key0] = true := by simp [tokenBefore]
/-- Sixteen lines of the set of line 0 in a club that does not hold it. -/
def fullSet : State :=
  { idle with l1 := (List.range 16).map fun k => { core := 3, place := { space := .host, addr := 128 * k }, cls := .rc, st := .v, data := 0, dirty := 0 } }
theorem witness_CoherenceMessages_full : 16 ≤ ((fullSet.l1.filter fun l => l.core / 4 == 0 / 4).map (·.place)).dedup.length ∧
    (∀ l ∈ fullSet.l1, l.place ≠ line0) := by decide +kernel
/-- R341, R348: an evicted line in D writes its dirty byte home and nothing else; one that is not due yet stays. -/
theorem test_evict_dirty :
    let l : L1Line := { core := 0, place := line0, cls := .pv, st := .d, data := BitVec.ofNat 1024 0xABCD, dirty := 2 }
    let s := { idle with l1 := [l, { l with core := 4 }], evictPlan := [(idle.clk, .l1 0 line0), (idle.clk + 1, .l1 4 line0)] }
    s.evictDue.l1 = [{ l with core := 4 }] ∧ s.evictDue.evictPlan = [(idle.clk + 1, .l1 4 line0)] ∧
      Memory.read s.evictDue.mem 0x40001 = 0xAB ∧ Memory.read s.evictDue.mem 0x40000 = Memory.read idle.mem 0x40000 := by
  decide +kernel
/-- R158: a load under .repl keeps the line only when the record has RDONLY = 1; a replica that agrees with the home gives
the home's bytes. -/
theorem test_replicas :
    let i : Instr := .ld al { width := .w32, ord := .relaxed, hint := .repl, d := 5, addr := w48 }
    let plain := ready i [(1, 0)] []
    let s := withW plain fun w => { w with recs := [(0, words ||| (1 : BitVec 256) <<< 151)] }
    let kept := fun (s : State) => match exec i s with
      | .next t => t.replicas.map fun r => (r.club, r.task, r.versions == [lineOfBytes (s.homeLine r.place)])
      | _ => [(99, 99, false)]
    kept plain = [] ∧ kept s = [(0, 0, true)] ∧
      (let r : Replica := { club := 0, task := 0, place := line0, cls := .rc, versions := [lineOfBytes (s.homeLine line0)], writers := [] }
      ({ s with replicas := [r] } : State).seenLine 0 key0 line0 (s.homeLine line0) = s.homeLine line0) := by
  decide +kernel
def req (kind : RemoteKind) (va : BitVec 57) (data : List Byte) : RemoteReq :=
  { kind := kind, source := 1, ctx := 0, va := va, cls := 1, len := 128, data := data, fn := .add, wide := false }
/-- A request for each kind at the edges of a line; a page that is mapped, and a context that is not scheduled. -/
theorem witness_RemoteMessages :
    (∀ q ∈ [req .write 0x4007F [1], req .read 0x40000 [], req .atomic 0x4007C [1, 0, 0, 0], req .cas 0x4007C [], req .aacc 0x40000 [],
        req .ldaccZero 0x40000 []], reqOk q = true ∧ (match idle.admission q with
          | .ok x => x.place.space == .dev && (idle.cellAt (lineBase x.place.addr)).isNone
          | _ => false) = true) ∧
    idle.ready = true ∧ idle.benched 0 = false ∧ idle.benched 1 = true ∧ idle.heldPages = [] ∧
    (match idle.walkXlat 0 0x4007F with
      | .ok x => !x.mig && x.canWrite && x.place.space == .dev && x.cls == .rc && decide (x.place.addr / 128 * 128 + 128 ≤ 2 ^ 40)
      | _ => false) = true ∧
    (∀ q ∈ [QItem.store store0, .store { store0 with copy := some 0 }, .atom key0 line0 .rc (.cas true 0 1) 4 how0],
      ∀ st ∈ [RemoteSt.sent, .refused 0, .waits],
        ({ dev with net := [.remote key0 1 q st 0] } : State).net[0]? = some (.remote key0 1 q st 0)) ∧
    (dev.copyOf (.store store0)).isNone = true ∧
    (({ idle with copies := [copy0 .dropped (.mem 0x40000) none] } : State).copies.find? fun x => x.id == 0).isSome = true ∧
    idle.waitsAtSource key0 (.store store0) [.remote key0 1 (.store store0) .sent 0] = true ∧ idle.waitsAtSource key0 (.store store0) [] = false ∧ hostBefore 0x40000 [] = false ∧
    hostBefore 0x40000 [.hostWrite key0 0x40000 [1]] = true ∧ store0.cls ≠ .pv ∧
    (idle.task? 0).isSome = true ∧ (loadTask 0).stopped = false := by decide +kernel
theorem witness_RemoteMessages_bench : idle.benchRoom 1 (.write (req .write 0x40000 [1])) = true := by
  have h : 1 ≤ 2 ^ (10 + Config.benchLog 1 % 11) := Nat.one_le_two_pow
  simpa [State.benchRoom, State.benchOf, idle, start, State.loaded, State.reset, BenchItem.entries, req, State.setWindow] using h
/-- The host's window holds a byte wherever it lies. -/
theorem witness_RemoteMessages_host : inWindow cxlBase 1 = true ∧ idle.cells = [] ∧ (4095 : Nat) % 128 + 1 ≤ 128 := by
  refine ⟨?_, by decide +kernel, by decide⟩
  have : cxlBase < 2 ^ 40 - 2 ^ 36 + 1 := Nat.mod_lt _ (by decide)
  simp [inWindow, physLimit]; omega
/-- A page of the fresh launch; a lease of it; a class that the window forbids is not asked for. -/
theorem witness_PageEvents : (match idle.walk 0 0x4007F with
      | .leaf _ base size => base == 0 && size == 30
      | _ => false) = true ∧ idle.ready = true ∧ managed.dutyResid = false ∧ managed.dutyMigr = false ∧ idle.command = none ∧ idle.ltb = [] ∧
    (match managed.leaf? 0 0x40000 with
      | some l => !pteMig l.pte && !managed.ordHolds l && !managed.leafHeld l && pteSpace l.pte == .dev && managed.frameOk (2 ^ 30) l.size
      | none => false) = true ∧
    managed.lsdir + 8 * 0 + 8 ≤ 2 ^ 40 ∧ managed.leaseCtxs 0 ≠ [] ∧ managed.leaseList 0 ≠ [] := by decide +kernel
/-- A collective of two ranks at a step of each opcode, read from 0x50000. -/
def coll0 : Coll := newColl 1 0 0x60000 0 (leBytes 128 (0x50000 + 0x51000 * 2 ^ 64 + 0x52000 * 2 ^ 128 + 2 * 2 ^ 240 + 2 * 2 ^ 256 +
  2 ^ 272 + 2 ^ 288 + 20 * 2 ^ 304 + (0x70000 + 2 * 2 ^ 57 + 2 ^ 100) * 2 ^ 512))
def stepping (ps : List Nat) : State :=
  let s := { dev with colls := [coll0], mem := Memory.put dev.mem 0x50000 (ps.flatMap fun p => leBytes 16 p) }
  s.setChain 1 (BitVec.ofNat 512 (2 ^ 135 + 2 ^ 137 + 2 * 2 ^ 140 + 0x60000 * 2 ^ 160))
theorem witness_Collectives : ∀ p ∈ [0, 1, 2, 3, 4, 5, 6 + 2 ^ 36, 7 + 2 ^ 36], let s := stepping [p, 0]
    s.collOf 1 = some coll0 ∧ s.collRuns coll0 = true ∧ stepOk (BitVec.ofNat 128 p) = true ∧
    (match s.readStep coll0 coll0.step with
      | .ok q => q == BitVec.ofNat 128 p && stOpc q == p % 16
      | _ => false) = true ∧ coll0.unacked = [] ∧ coll0.phase = .run := by decide +kernel
/-- A chunk of a float buffer is read; a record is dequeued; a stall is due after 2^20 clocks. -/
theorem witness_Collectives_data : (match (stepping [1, 0]).chunkVal coll0 0 0 with
      | .ok v => v.vals.length == 1
      | _ => false) = true ∧ kindsMeet coll0 2 = true ∧
    (let s := { stepping [0, 0] with colls := [] }
    let s := s.setChain 1 (setField (s.chain 1) 288 32 1)
    let d := s.chain 1
    chainValid d = true ∧ chainErr d = false ∧ chainKind d = true ∧ chainPending d ≠ 0 ∧ s.unitCells 0 0x60000 128 = [] ∧
      (s.unitRead 0 0x60000 128).isSome = true) ∧ coll0.tmo = 20 ∧ 1 < coll0.n ∧ coll0.rank = 0 := by decide +kernel
theorem witness_Collectives_bench : let q := BenchItem.write (req .write 0x40000 [1])
    let s := { idle with benches := [{ ctx := 0, items := [q] }] }
    s.ready = true ∧ s.scheduled 0 = true ∧ s.benchOf 0 = [q] ∧ (match ({ s with benches := [] } : State).admission (req .write 0x40000 [1]) with
      | .ok y => y.place.space == .dev
      | _ => false) = true := by decide +kernel
theorem witness_ErrorsAndUnits : (idle.task? 0).isSome = true ∧ (loadTask 0).stopped = false ∧ dev.ready = true ∧
    (∃ k < 16, rowCstate (dev.row (16 * 15 + k)) ≠ 2 ∧ rowCstate (dev.row (16 * 15 + k)) ≠ 1) ∧
    (let s := { dev with remap := [(240, BitVec.ofNat 64 (2 * 2 ^ 61))] }
    (∃ k < 16, rowCstate (s.row (16 * 15 + k)) = 2) ∧ s.colls = []) ∧
    (let l : L1Line := { core := 0, place := line0, cls := .rc, st := .v, data := 0, dirty := 0 }
    ({ idle with l1 := [l] } : State).l1.find? (fun l => some l.core == idle.coreOf 0 0 && l.place == line0.line) = some l) := by decide +kernel
/-- The duties at 31 and 32; firmware pieces; each command with a payload that it accepts. -/
def duties : State := { dev with ide := true, dstate := .ready }.setWindow 0x18 31
theorem witness_HostRegisters : (31 : BitVec 64).toNat < 32 ∧ 32 ≤ (32 : BitVec 64).toNat ∧ duties.dutySched = true ∧ duties.dutyResid = true ∧
    duties.dutyMigr = true ∧ duties.dutyColl = true ∧ managed.dutySched = false ∧ duties.ready = true ∧ duties.command = none ∧
    dev.heldEvents = [] ∧ (duties.leaf? 0 0).isSome = true ∧
    (let f := { Firmware.empty with opened := true, total := 4096, staging := List.replicate 4096 0 }
    4096 * 0 < f.total ∧ f.total ≤ 2 ^ 23 ∧ f.status ≠ 2 ∧ f.total ≤ f.staging.length) := by decide +kernel
theorem witness_HostRegisters_bkres : let s := withT idle fun x => { x with wait := if x.tid = 63 then .bkpt else .none }
    (s.tasks.find? fun t => t.chain == 0).isSome = true ∧ (th s 63).wait = .bkpt ∧ (tm0 s).threads.length = 64 := by decide +kernel
theorem witness_PowerAndLinks : State.reset.dstate = .reset ∧ ({ State.reset with dstate := .rom } : State).firmware.valid = false ∧
    ({ State.reset with dstate := .boot } : State).dstate = .boot ∧ (let s := { dev with podWritten := true, ports := [0, 7] }
    s.ready = true ∧ s.podWritten = true ∧ 7 ∈ s.ports ∧ ∃ p ∈ s.ports, p ≠ 7) ∧ dev.doeServed = true := by decide +kernel

/-- A collective of three ranks: itself on die 0, and ranks 1 and 2 on dies 1 and 2 of this device. -/
def coll3 : Coll := { coll0 with rec0 := coll0.rec0 ||| BitVec.ofNat 1024 (2 ^ 240), members := [0, 1, 2] }
def collMsg (src : Nat) (q : BitVec 32) : CollMsg :=
  { collid := 0, ctx := 0, src := src, dst := 0, srcIncarn := 0, dstIncarn := 0, chunk := 0, form := .cell, seq := q, cmap := 2, vals := [0] }
/-- The step RECV of both peers (CNTM1 = 1, PEER = 1), and RRS from rank 1. -/
def recv2 : Nat := 2 + 16 + 2 ^ 17 + 2 ^ 112
def rrs1 : Nat := 3 + 2 ^ 17 + 2 ^ 112
def atStep (p : Nat) (c : Coll) : State := { stepping [p, 0] with colls := [c] }
def full : List CollMsg := List.replicate 43 { collMsg 2 9 with vals := List.replicate 512 0 }
theorem witness_Collectives_steps :
    -- RECV: nothing has come; one message of two; both. RRS with its message. LOOPE at step 1.
    (∀ x ∈ [([], [1, 2]), ([collMsg 1 0], [2]), ([collMsg 1 0, collMsg 2 0], []), ([collMsg 2 0], [1, 2])],
      let c := { coll3 with staging := x.1 }
      let s := atStep recv2 c
      s.collRuns c = true ∧ kindsMeet c (BitVec.ofNat 128 recv2) = true ∧
        (c.takeLeft c.zeroChunk ((List.range 2).map (c.peer (BitVec.ofNat 128 recv2)))).2.left = x.2 ∧
        (match s.chunkWrite c (BitVec.ofNat 128 recv2) 0 c.zeroChunk with
          | .ok _ => true
          | _ => false) = true) ∧
    (let c := { coll3 with staging := [collMsg 1 0] }
    (c.take 1).isSome = true ∧ (c.take 2).isSome = false ∧ (match (atStep rrs1 c).withOwn c (BitVec.ofNat 128 rrs1) (msgChunk (collMsg 1 0)) with
        | .ok _ => true
        | _ => false) = true) ∧
    (let s := stepping [6 + 2 ^ 36, 7]
    (match s.readStep coll0 1, s.readStep coll0 0 with
      | .ok p, .ok q => stOpc p == 7 && stTgt p == 0 && stOpc q == 6 && stTgt q == 1
      | _, _ => false) = true) ∧
    -- END: DONE of nobody, and of all
    (∃ r < coll0.n, r ≠ coll0.rank ∧ r ∉ coll0.doneFrom) ∧ (∀ r < coll0.n, r = coll0.rank ∨ r ∈ [1]) ∧
    (let c := { coll0 with phase := .ending 0 false }
    (atStep 0 c).engineQuiet c = true) ∧
    (match (stepping [1, 0]).validColl coll0, (stepping [1, 0]).validColl { coll0 with rec0 := coll0.rec0 ||| BitVec.ofNat 1024 (2 ^ 57) },
        (stepping [1, 0]).validColl { coll0 with rec0 := coll0.rec0 ||| BitVec.ofNat 1024 (2 ^ 56) } with
      | .ok (some _), .ok none, .fail _ => true
      | _, _, _ => false) = true := by
  decide +kernel
theorem witness_Collectives_messages :
    (∀ x ∈ [({ collMsg 1 0 with dstIncarn := 1 }, 0), ({ collMsg 1 0 with ctx := 1 }, 1), (collMsg 1 0, 2), ({ collMsg 1 0 with collid := 5 }, 3),
        ({ collMsg 1 0 with srcIncarn := 7 }, 4), (collMsg 2 (BitVec.ofNat 32 (2 ^ 32 - 1)), 5), (collMsg 2 7, 6)], let m : CollMsg := x.1
      let s := atStep (if x.2 = 2 then recv2 else rrs1) coll3
      let meets := s.colls.find? fun c => c.collid == m.collid && c.rank == m.dst && s.collCtx c == m.ctx && c.live
      decide (m.dstIncarn = s.devIncarn) = (x.2 != 0) ∧ s.benched m.ctx = (x.2 == 1) ∧ meets.isSome = (x.2 != 1 && x.2 != 3) ∧
        (x.2 ≠ 1 → s.throughBowls coll3 m = (x.2 == 2) ∧ s.chunkComing coll3 m = false) ∧
        (x.2 ≠ 1 → decide (memIncarn (coll3.member m.src) = m.srcIncarn.toNat) = (x.2 != 4)) ∧
        (5 ≤ x.2 → coll3.received m.src m.seq = (x.2 == 5) ∧ s.stagingRoom 0 m = true)) ∧
    (let b : BowlEntry := { bowl1 with die := 0, line := chunkKey 0 1 0, pairs := [(65, 0)] }
    ({ atStep recv2 coll3 with bowls := [b] } : State).chunkComing coll3 (collMsg 1 0) = true) ∧
    -- full staging: the message that the step takes next has its place, another has none
    (let c := { coll3 with staging := full }
    let s := atStep rrs1 c
    s.takesNow c (collMsg 1 0) = true ∧ s.takesNow c (collMsg 1 1) = false ∧ s.stagingRoom 0 (collMsg 1 1) = false ∧
      s.throughBowls c (collMsg 1 0) = false ∧ c.received 1 0 = false ∧ c.received 1 1 = false) := by
  decide +kernel
theorem witness_Collectives_replies :
    (let c := { coll3 with unacked := [collMsg 0 0], parked := [(0, 0, 256)] }
    let s := { atStep 5 c with clk := 256 }
    s.unackedSends[0]? = some (1, collMsg 0 0) ∧ (∃ x ∈ c.parked, x.1 = (collMsg 0 0).dst ∧ x.2.1 = (collMsg 0 0).seq ∧ x.2.2 ≤ s.clk) ∧
      s.collWaits c = true ∧ c.waitSince + 2 ^ c.tmo < 2 ^ 20 + 1) ∧
    (let c := { coll3 with unacked := [collMsg 0 0], parked := [(0, 0, 256)] }
    ∀ x ∈ c.parked, ¬(x.1 = (collMsg 0 0).dst ∧ x.2.1 = (collMsg 0 0).seq ∧ x.2.2 ≤ 255)) ∧
    coll3.live = true ∧ coll3.host = false ∧ managed.dutyColl = false ∧ 2 < coll3.n ∧
    (let c := coll3
    let m := collMsg 1 0
    let s := atStep rrs1 c
    s.ready = true ∧ s.scheduled 0 = true ∧ (s.collTake m).isSome = true) := by decide +kernel
theorem bench_full (n : Nat) (hn : 2 ^ 20 ≤ n) : let q := BenchItem.msg (collMsg 1 0)
    ({ idle with benches := [{ ctx := 1, items := List.replicate n q }] } : State).benchRoom 1 q = false := by
  intro q
  have h' : 2 ^ (10 + Config.benchLog 1 % 11) ≤ 2 ^ 20 := Nat.pow_le_pow_right (by decide) (by omega)
  have e : q.entries = 2 := by decide
  have b : ({ idle with benches := [{ ctx := 1, items := List.replicate n q }] } : State).benchOf 1 = List.replicate n q := rfl
  simp only [State.benchRoom, b, List.map_replicate, e, List.sum_replicate, smul_eq_mul, decide_eq_false_iff_not, not_le]
  exact lt_of_le_of_lt (le_trans h' hn) (by omega)
theorem witness_Collectives_bench_room : let q := BenchItem.msg (collMsg 1 0)
    idle.benchRoom 1 q = true ∧ ({ idle with benches := [{ ctx := 1, items := List.replicate (2 ^ 20) q }] } : State).benchRoom 1 q = false := by
  refine ⟨?_, bench_full (2 ^ 20) (Nat.le_refl _)⟩
  have h : 2 ≤ 2 ^ (10 + Config.benchLog 1 % 11) := le_trans (by decide : 2 ≤ 2 ^ 10) (Nat.pow_le_pow_right (by decide) (by omega))
  have e : BenchItem.entries (.msg (collMsg 1 0)) = 2 := by decide
  have b : idle.benchOf 1 = [] := by decide +kernel
  simpa only [State.benchRoom, b, e, List.map_nil, List.sum_nil, Nat.zero_add, decide_eq_true_eq] using h
/-- A page that is held, one that migrates, one that an ordered launch holds, and a cell of it. -/
theorem witness_PageEvents_states : (match managed.leaf? 0 0x40000 with
    | none => false
    | some l =>
      let held := { managed with heldPages := [(0, 0)] }
      let moving := managed.writePte l (l.pte ||| 128)
      let ord := managed.writePte l (l.pte ^^^ 48)
      let ord := { ord with tasks := [{ loadTask 0 with rec0 := loadRecord ||| BitVec.ofNat 4096 (2 ^ 296 + 2 ^ 297), table := [(0, words)] }] }
      held.leafHeld l && pteClass l.pte == 1 && held.quiet l && !({ held with cells := [cell0 false 1] } : State).quiet l &&
        (match moving.leaf? 0 0x40000, ord.leaf? 0 0x40000 with
        | some m, some o => pteMig m.pte && moving.quiet m && !({ moving with cells := [cell0 false 1] } : State).quiet m &&
            pteSpace m.pte == .dev && moving.frameOk (2 ^ 30) m.size && !pteMig o.pte && ord.ordHolds o
        | _, _ => false) &&
        (0, l.va / 65536) ∈ ({ duties with moves := [(0, 0)] } : State).moves) = true := by decide +kernel
def errAt (a : ErrArray) (consumed dirty : Bool) : ErrSite :=
  { array := a, task := 0, team := 0, addr := 0x40000, consumed := consumed, dirty := dirty }
/-- Clean and dirty lines of L1; a line of L2 that no cell or partial holds; memory that no task reads; a collective; a league with and without
a team, all of whose cores are out of service. -/
theorem witness_ErrorsAndUnits_sites :
    (∀ d ∈ [false, true], let l : L1Line :=
        { core := 0, place := line0, cls := .pv, st := if d then .d else .v, data := 0, dirty := if d then 1 else 0 }
      ({ idle with l1 := [l] } : State).l1.find? (fun l => some l.core == idle.coreOf 0 0 && l.place == line0.line) = some l) ∧
    (devPlace (errAt .l2 true true).addr).line = line0 ∧ idle.cellAt line0.addr = none ∧ (∀ x ∈ idle.partials, x.line ≠ line0.addr) ∧
    dev.task? 0 = none := by decide +kernel
theorem witness_ErrorsAndUnits_staging : let c := { coll0 with chain := 0 }
    ({ dev with colls := [c] } : State).collOf 0 = some c ∧ c.live = true := by decide +kernel
theorem witness_ErrorsAndUnits_units : ∀ l ∈ [0, 15],
    let s := { idle with remap := (List.range 16).map fun k => (16 * l + k, BitVec.ofNat 64 (2 ^ 62)) }
    (∀ k < 16, rowCstate (s.row (16 * l + k)) = 2 ∨ rowCstate (s.row (16 * l + k)) = 1) ∧ s.ready = true ∧
      ((∃ tm ∈ s.teams, tm.core / 16 = l) ↔ l = 0) := by decide +kernel

/-- The command buffer with a payload. -/
def payload (s : State) (b : Nat) : State :=
  (List.range 8).foldl (fun s k => s.setWindow (0x100 + 8 * k) (BitVec.ofNat 64 (b / 2 ^ (64 * k)))) s
theorem witness_HostRegisters_payload : (payload duties (2 ^ 250 + 5)).mcmdBuf.toNat = 2 ^ 250 + 5 := by decide +kernel
theorem witness_HostRegisters_commands :
    -- CLASSCHG and MIGDONE of a page, one that migrates and one that does not
    (match duties.leaf? 0 0x40000 with
      | some l => !pteMig l.pte && ((duties.writePte l (l.pte ||| 128)).leaf? 0 0x40000).any fun x => pteMig x.pte
      | none => false) = true ∧
    -- MEMFAIL: a running collective that has the rank, and none; a host-assisted one without the duty
    (let s := { duties with colls := [coll0] }
    (∃ c ∈ s.colls, c.collid.toNat = 0 ∧ c.live = true ∧ 1 < c.n) ∧ ∀ c ∈ s.colls, ¬(c.collid.toNat = 7 ∧ c.live = true ∧ 1 < c.n)) ∧
    (∃ c ∈ ({ managed with colls := [{ coll0 with rec0 := coll0.rec0 ||| BitVec.ofNat 1024 (2 ^ 312) }] } : State).colls,
      c.collid.toNat = 0 ∧ c.host = true) ∧
    -- PWRITE of six words outside the directory, and of one in it that would change GRANTED
    (let s := payload duties (0x100000 + 6 * 2 ^ 64)
    s.lsdir + 8 * 65536 ≤ 0x100000 ∧ bitsNat s.mcmdBuf 0 64 = 0x100000 ∧ bitsNat s.mcmdBuf 64 8 = 6) ∧
    (let s := payload duties (duties.lsdir + 2 ^ 64)
    bitsNat s.mcmdBuf 0 64 = s.lsdir ∧ (Memory.nat s.mem s.lsdir 8).testBit 63 ≠ s.mcmdBuf.getLsbD 191) ∧
    -- PCOPY with no cell in the source, and with one
    (∀ c ∈ duties.cells, c.line < 0x40000 ∨ 0x50000 ≤ c.line) ∧ (∃ c ∈ ({ duties with cells := [cell0 false 1] } : State).cells,
      0x40000 ≤ c.line ∧ c.line < 0x50000) ∧
    -- BKRES of a running task's thread, and of no task; a command that goes on
    (let s := { withT idle fun x => { x with wait := if x.tid = 63 then .bkpt else .none } with dstate := .ready }
    (s.tasks.find? fun t => t.chain == 0 && !t.isOver).isSome = true ∧ (∃ tm ∈ s.teams, tm.task = 0 ∧ tm.team = 0 ∧ ∃ x ∈ tm.threads, x.tid = 63 ∧
      x.wait = .bkpt) ∧ ∀ t ∈ s.tasks, t.chain = 1 → t.isOver = true) ∧
    (let s := { duties with command := some (9, 0) }
    s.ready = true ∧ s.command.map (·.1) = some 9) ∧
    managed.dutyResid = false ∧ managed.dutyMigr = false ∧ managed.dutyColl = false ∧ managed.ready = true ∧ managed.command = none ∧
    (let e : Event := { kind := 1, team := 0, value := 0, body := 0, reply := none }
    ({ duties with heldEvents := [e] } : State).heldEvents ≠ []) ∧ (2000 : BitVec 64).toNat ≤ 8000 ∧ ¬(2000 ≤ (1999 : BitVec 64).toNat) := by decide +kernel


/-! ## Faults, at the first value that fails each check -/

/-- Cause and reason of the fault of each task, with the active lanes and the index that it records. -/
def causes (s : State) : List (Nat × Nat × Nat × Nat) :=
  s.tasks.map fun t => (bitsNat t.fault 0 8, bitsNat t.fault 8 8, bitsNat t.fault 160 64, bitsNat t.fault 224 64)
/-- The page of the launch with other bits in its entry. -/
def repaged (s : State) (x : BitVec 64) : State := (s.leaf? 0 0x40000).elim s fun l => s.writePte l (l.pte ^^^ x)
/-- `s` with another record in b48. -/
def withRec (s : State) (r : BitVec 256) : State := withW s fun w => { w with recs := [(0, r)] }
def atom48 : Instr := .atom al { fn := .add, wide := false, ord := .relaxed, d := 5, addr := w48 }
/-- R155 steps 1 to 4: no W; 8 bytes from elements of 4; index 16 of 16 under OOB; a base of 2 modulo 4. -/
theorem test_record_bound : causes (after (withRec (ready st48 [(1, 3)] []) (words ^^^ BitVec.ofNat 256 (2 ^ 147)))) = [(causeRecord, 1, 1, 3)] ∧
    causes (after (ready (.st al { width := .w64, ord := .relaxed, hint := .none, d := 4, addr := w48 }) [(1, 3)] [])) =
      [(causeRecord, 2, 1, 3)] ∧
    causes (after (withRec (ready st48 [(1, 16)] []) (words ||| BitVec.ofNat 256 (2 ^ 150)))) = [(causeRecord, 3, 1, 16)] ∧
    causes (after (withRec (ready ld48 [(1, 15)] []) (words + 2))) = [(causeRecord, 4, 1, 15)] := by decide +kernel
/-- R159: a DO page outside an ordered launch, and an atomic on a WS page, raise CLASS; R160: a line that the core holds under another
class raises CLASS ALIAS, and a page without W and one outside the lease end the task with LEASE. -/
theorem test_line_faults : causes (after (repaged (ready ld48 [(1, 3)] []) 0x30)) = [(causeClass, 0, 1, 0)] ∧
    causes (after (repaged (ready atom48 [(1, 3)] []) 0x20)) = [(causeClass, 0, 1, 0)] ∧
    causes (after { ready ld48 [(1, 3)] [] with l1 := [{ core := 0, place := line0, cls := .sc, st := .v, data := 0, dirty := 0 }] }) =
      [(causeAlias, 0, 1, 0)] ∧
    causes (after (repaged (ready st48 [(1, 3)] []) 4)) = [(causeLease, 4, 1, 0)] ∧
    (let s := ready ld48 [(1, 3)] []
    causes (after { s with mem := Memory.put s.mem loadRanges (leBytes 16 0) })) = [(causeLease, 1, 1, 0)] := by decide +kernel
/-- R171: the last half word of the scratchpad does not hold a word. R182: 9 elements from the 8th on of 16. -/
theorem test_scratch_bound : causes (after (ready (.lds al { width := .w32, d := 5, off := .reg (.vec 1), k := none }) [(1, 65534)] [])) =
      [(causeScratch, 0, 1, 65534)] ∧
    causes (after (ready (.recd al { d := 60, b := 48, a := 4, drop := 2, trap := true }) [] [(4, 8), (6, 9)])) = [(causeRecord, 12, 1, 0)] := by
  decide +kernel
/-- R197: steps 2, 6 and 8: a window of no operand, a column that is no multiple of K, B at an odd offset and beyond the scratchpad. R206: an
image with bit 724 set. -/
theorem test_matrix_reasons :
    (causes (after (ready (.mma al mma0) [] [(6, 0x8000)]))).map (fun x => (x.1, x.2.1)) = [(causeMatrix, 2)] ∧
    (causes (after (withW (mmaState (.mma al mma0)) fun w => { w with scalars := [(5, 1)] }))).map (fun x => (x.1, x.2.1)) = [(causeMatrix, 7)] ∧
    (causes (after (withW (mmaState (.mma al mma0)) fun w => { w with scalars := [(6, 2)] }))).map (fun x => (x.1, x.2.1)) = [(causeScratch, 0)] ∧
    (causes (after (withW (mmaState (.mma al mma0)) fun w => { w with scalars := [(6, 65532)] }))).map (fun x => (x.1, x.2.1)) =
      [(causeScratch, 0)] ∧
    (let s := (ready (.lload al { la := 15, addr := { a := .vec 1, buf := none, k := 0 } }) [] []).modTeam 0 0 fun tm =>
      { tm with scratch := [(90, 0x10)] }
    (causes (after s)).map (fun x => (x.1, x.2.1))) = [(causeMatrix, 9)] := by decide +kernel
/-- Thread 0 about to execute `i` as the first iteration of a repeat of two. -/
def repeated (i : Instr) (mask : BitVec 4) : State :=
  let s := withT (start i) fun x => { x with rep := { remaining := 2, iter := 0, stride := 1, mask := mask } }
  { s with cur := s.cur.map fun g => { g with iter := some 0 } }
/-- R393: BAR in a trap routine; R125: NBRL in a launch that is not linked; R139: REP of an EXIT, and of an ICMP under the mask of D. -/
theorem test_illegal_forms : ∀ s ∈ [trapped (.bar .tm) true .trap, start (.nbrl al { pair := false, d := 3, a := 1 }), repeated (.exit al) 0,
      repeated (.icmp al { ty := .i32, cc := .lt, p := 2, a := 5, b := .imm8 10 }) 1],
    (causes (after s)).map (fun x => (x.1, x.2.1)) = [(causeIllegal, 7)] := by decide +kernel

/-! ## Witnesses of the statements about faults, and of clauses over several events -/

/-- Index 16 under OOB fails step 3 and none before; a line of DO passes the sides, is not held, and is refused for its class. -/
theorem witness_AccessFaults : let s := withRec (ready st48 [(1, 16)] []) (words ||| BitVec.ofNat 256 (2 ^ 150))
    let sd := recSide (cx s) ((cx s).active al) w48 recW (some 4) 4
    CanIssue s (cx s) st48 al ∧ NoAcquire s (cx s) al ∧ (∃ l ∈ sd.lanes, sd.lanes.length = 1 ∧ recOob l.r = true ∧ ¬(0 ≤ l.n ∧ l.n < recExtent l.r)) ∧
      ∀ l ∈ sd.lanes, recValid l.r = true ∧ sd.need.perm l.r = true ∧ 4 ≤ recEsz l.r :=
  ⟨canIssue_of (by decide +kernel), noAcquire_of (by decide +kernel), by decide +kernel, by decide +kernel⟩
theorem witness_AccessFaults_lines : let s := repaged (ready ld48 [(1, 15)] []) 0x30
    let sd := recSide (cx s) ((cx s).active al) w48 recR (some 4) 4
    CanIssue s (cx s) ld48 al ∧ NoAcquire s (cx s) al ∧ SidePasses sd ∧ sd.touched 4 ≠ [] ∧
      ∀ l ∈ sd.touched 4, ∀ va ∈ l.2, s.lineOut (cx s) (cx s).touchLoad l.1 va = .cls :=
  ⟨canIssue_of (by decide +kernel), noAcquire_of (by decide +kernel), sidePasses_of (by decide +kernel), by decide +kernel, by decide +kernel⟩
/-- A page of the lease that is RC and writable, held and not held, for a load and a store. -/
theorem witness_AccessFaults_outcomes : let s := ready ld48 [] []
    s.leaseCheck (s.leaseOf (cx s).tk.slot) (0x40000 / 65536) = .covered true ∧ (match s.translate 0 0 0x40000 with
      | .ok y => !y.mig && y.canWrite && y.place.space == .dev && y.cls == .rc && !(cx s).touchStore.skip y && !s.aliased 0 y
      | _ => false) = true ∧ (0, 0x40000 / 65536) ∈ ({ s with heldPages := [(0, 4)] } : State).heldPages := by decide +kernel
/-- An offset that leaves the scratchpad; an empty derivation; B at an odd offset after five steps that pass; an image with a bit set. -/
theorem witness_ScratchAndMatrixFaults :
    (let o : ScratchOp := { width := .w32, d := 5, off := .reg (.vec 1), k := none }
    let s := ready (.sts al o) [(1, 65536)] []
    CanIssue s (cx s) (.sts al o) al ∧ NoAcquire s (cx s) al ∧
      ∃ x ∈ (cx s).active al, ((cx s).tk.scratchBytes : Int) < scratchOff (cx s) o x + 4) ∧
    (let i : Instr := .recd al { d := 63, b := 48, a := 252, drop := 0, trap := false }
    let s := ready i [] [(252, 16), (254, 1)]
    CanIssue s (cx s) i al ∧ recDerive words 16 1 0 false = none ∧ recExtent words < 16 + 1) ∧
    (let s := withW (mmaState (.mma al mma0)) fun w => { w with scalars := [(6, 2)] }
    let m := mmaIn false mma0 (cx s) ((cx s).tm.warp 0)
    CanIssue s (cx s) (.mma al mma0) al ∧ NoAcquire s (cx s) al ∧ ((cx s).active al).length = 1 ∧ (m.fault16 ((cx s).active al)).isNone ∧
      (m.fault7 (s.key 1) (recordOf (cx s).tk ((cx s).tm.warp 0)) ((cx s).active al)).isNone ∧ m.bo % 4 ≠ 0) ∧
    (let o : LmemOp := { la := 15, addr := { a := .vec 1, buf := none, k := 0 } }
    let s := (ready (.lload al o) [] []).modTeam 0 0 fun tm => { tm with scratch := [(90, 0x10)] }
    CanIssue s (cx s) (.lload al o) al ∧ NoAcquire s (cx s) al ∧ ScratchPasses (cx s) al 96 32 (spillOff (cx s) o.addr) ∧
      ∃ x ∈ (cx s).active al, leNat ((cx s).tm.scratchBytes (spillOff (cx s) o.addr x).toNat 96) / 2 ^ 724 % 2 ^ 44 ≠ 0) :=
  ⟨⟨canIssue_of (by decide +kernel), noAcquire_of (by decide +kernel), by decide +kernel⟩, ⟨canIssue_of (by decide +kernel), by decide +kernel⟩,
    ⟨canIssue_of (by decide +kernel), noAcquire_of (by decide +kernel), by decide +kernel⟩,
    canIssue_of (by decide +kernel), noAcquire_of (by decide +kernel), by unfold ScratchPasses; decide +kernel, by decide +kernel⟩
/-- The last opcode that REP may not repeat, and the first beyond; a field without a register. -/
theorem witness_IllegalForms : (let s := trapped (.bar .tm) true .trap
    CanIssue s (cx s) (.bar .tm) al ∧ (cx s).g.inRoutine = true) ∧
    (let i : Instr := .nbrr al { pair := false, d := 255, a := 255 }
    CanIssue (start i) (cx (start i)) i al ∧ (cx (start i)).tk.linked = false) ∧
    (let s := repeated (.exit al) 0
    s.cur.isSome = true ∧ s.ctx.isSome = true ∧ (s.cur.any fun g => g.iter.isSome) = true ∧
      ∃ bs, s.fetchBlock (cx s).tk 0 0x10000 [0] = .ok bs ∧ (lenOf (wordAt bs 0) == some .w2) = true) :=
  ⟨⟨canIssue_of (by decide +kernel), by decide +kernel⟩, ⟨canIssue_of (by decide +kernel), by decide +kernel⟩, by decide +kernel, by decide +kernel,
    by decide +kernel, block_of (by decide +kernel)⟩
/-- Two faults of one clock, of teams 0 and 1 and then of threads 5 and 3; an ended task whose fault has been reported. -/
theorem witness_ExceptionEntry_first : (let r := fun (team tid : Nat) => faultRecord (loadTask 0) team 0x10000 (FaultInfo.plain causeTrap 0 [tid]) none tid
    (bitsNat (r 0 63) 384 16 < bitsNat (r 1 0) 384 16) ∧
    (bitsNat (r 1 3) 384 16 = bitsNat (r 1 5) 384 16 ∧ bitsNat (r 1 3) 404 12 < bitsNat (r 1 5) 404 12) ∧
    (∀ x ∈ idle0.tasks, x.phase = .live) ∧
    (idle0.endTaskFault (loadTask 0) (r 0 0)).tasks.filter (fun x => x.faultAt.isSome) ≠ []) ∧
    (let s := (idle0.endTaskFault (loadTask 0) 1).postFaults
    ∀ x ∈ s.tasks, x.phase ≠ .live ∧ x.faultAt = none) := by decide +kernel
/-- MMAS whose metadata names ascending positions; a window that unfolds, and an identity one. -/
theorem witness_MatrixRows_sums : winIdent win0 = false ∧ winIdent (BitVec.ofNat 256 (2 ^ 20 + 64 * 2 ^ 152)) = true ∧ winOrd win0 < 3 ∧
    geometryOk (loadTask 0) = true ∧ (loadTask 0).tiles = 7 ∧ 63 < (loadTask 0).threads ∧
    (let m := mmaIn true { mma0 with m := none } (cx (mmaState (.mma al mma0))) Warp.empty
    m.sparse = true ∧ m.fb.isSome = true) := by decide +kernel
theorem witness_MatrixRows_meta : let m : MatIn := { mmaIn true mma0 (cx (mmaState (.mma al mma0))) Warp.empty with fb := some (BitVec.ofNat 128 (2 ^ 8)) }
    m.sparse = true ∧ 12 ≤ m.k ∧ m.metaOk (fun _ o => [0x10, 0x32, 0x54].getD (o % 3) 0) = true ∧ m.metaOk (fun _ _ => 0) = false := by decide +kernel
/-- Threads 0 to 3 of a linked launch wait in their first exchange, an NBRL; all have offered, and thread 2 has gone on to the second. -/
def linked0 : State :=
  let i : Instr := .nbrl al { pair := false, d := 3, a := 1 }
  let off := fun (k : Nat) => (k, ({ made := if k = 2 then 2 else 1, last := { val := BitVec.ofNat 64 (100 + k), pair := false },
                                     prev := { val := BitVec.ofNat 64 (50 + k), pair := false } } : Offers))
  let s := withT (start i) fun x => { x with wait := if x.tid < 2 then .nbr else .none }
  { s with tasks := s.tasks.map fun t => { t with rec0 := t.rec0 ||| BitVec.ofNat 4096 (2 ^ 295), offers := (List.range 64).map off } }
theorem witness_ThreadProgress_exchange : (linked0.task? 0).any (fun (tk : Task) => tk.linked && linked0.hasExited tk 0 0 == false &&
      neighbour tk 0 0 true == none && neighbour tk 0 0 false == some (0, 1) && neighbour tk 0 1 false == some (0, 2) &&
      linked0.instrAt tk (tm0 linked0) (th linked0 1) == some (.nbrl al { pair := false, d := 3, a := 1 }) &&
      (Sparse.get Offers.zero tk.offers 1).made == 1 && (Sparse.get Offers.zero tk.offers 2).made == 1 + 1) = true ∧
    (th linked0 1).wait = .nbr ∧ (th linked0 1).nbrcnt = 0 := by decide +kernel
/-- R124: the left neighbour's value, 0 at the end of the chain. -/
theorem test_exchange : (let s := linked0.sweepExchanges 0
    ((th s 0).reg 3, (th s 1).reg 3, (th s 1).wait, (th s 1).nbrcnt, (th s 1).pc)) = (0, 100, .none, 1, 0x10008) := by decide +kernel
/-- One team of a launch that borrows: no scratchpad, long accumulators or tiles, and 8 registers a thread, beside a host that has
shrunk to 16. -/
def lending : State :=
  let small : BitVec 4096 := BitVec.ofNat 4096 (0x10000 * 2 ^ 64 + 1 * 2 ^ 192 + 16 * 2 ^ 215 + 1 * 2 ^ 222 + 8 * 2 ^ 238 + 16 * 2 ^ 247 + 32 * 2 ^ 288)
  let other : Task := { loadTask 0 with id := 1, slot := 1, chain := 1, started := false, rec0 := small }
  let s := withT { idle with tasks := idle.tasks ++ [other], remap := [(0, BitVec.ofNat 64 (2 ^ 63 + 2 ^ 48))] } fun x => { x with vallot := 16 }
  s.setSlot 1 { rec0 := BitVec.ofNat 512 (2 ^ 256 + 2 ^ 205 + 2 ^ 192), state := .run, held := false, order := 1 }
theorem witness_LaunchEvents_lent : (lending.placement 0).isNone = true ∧ (lending.lentPlacement 0).map (fun x => (x.1.id, x.2)) = some (1, 0) := by
  decide +kernel
/-- The first descriptor's neighbour; a seed written before a dequeue of the same clock, and one written in an earlier clock. -/
theorem witness_LaunchEvents_seed : dev.memOk ∧ (let w : SeedWrite := { clk := dev.clk, old := 7, writes := [{ val := 9, rung := [] }] }
    (newTask { dev with seedWrite := some w } 0 0 0 0 []).seed = 7 ∧ (newTask { dev with seedWrite := some w, clk := dev.clk + 1 } 0 0 0 0 []).seed =
      dev.windowReg 0x10) := ⟨⟨by decide +kernel, by decide +kernel⟩, by decide +kernel⟩
/-- A row of league 15 while the league is out of service, and back in it. -/
theorem witness_BindEvents_down : (let s := { managed with downUnits := [15] }
    s.downUnits.contains (leagueOf (64 * 3 + 63)) = true ∧ s.downUnits.contains (leagueOf (64 * 3 + 47)) = false) ∧
    rowCstate 0 = 0 ∧ rowCstate (BitVec.ofNat 64 (2 ^ 61)) ≠ 0 := by decide +kernel
theorem witness_Switching_unsaved : ∃ x ∈ (tm0 idle).threads, x.exited = false ∧ x.saved = false := by decide +kernel
/-- The oldest item of a queue that may leave is the second, where a store waits for the home's answer to a load and a release before it. -/
theorem witness_QueueItems_first : (queued (.store store0)).firstGo 0 [.store store0] = some 0 ∧
    (let s := { queued (.release key0 .sy) with net := [.remote key0 1 (.store store0) .sent 0] }
    s.firstGo 0 [.release key0 .sy, .store store0] = none) ∧ idle.firstGo 0 [] = none := by decide +kernel
/-- Two lines share a set of the L2, however the sets are found. -/
theorem same_set : ∃ a b : Nat, a ≠ b ∧ l2SetOf (devPlace (128 * a)) = l2SetOf (devPlace (128 * b)) := by
  obtain ⟨a, b, hne, h⟩ := Finite.exists_ne_map_eq_of_infinite fun k : Nat =>
    (⟨l2SetOf (devPlace (128 * k)), Nat.mod_lt _ (by decide)⟩ : Fin 4096)
  exact ⟨a, b, hne, congrArg Fin.val h⟩
/-- A set whose ways are all locked by partials that are not registered yet. -/
theorem witness_MergeMessages_locked : ∃ (s : State) (line : Nat), s.cellRoom line = false ∧
    ∀ m : Msg, ({ s with net := [m] } : State).takeOrdered 0 = some (m, { s with net := [] }) := by
  obtain ⟨a, b, hne, h⟩ := same_set
  let x : Partial := { slice := homeSliceOf (devPlace (128 * b)), line := 128 * a, cls := .rc, acc := Acc.zero, registered := false, owners := [] }
  let s : State := { State.reset with partials := List.replicate 16 x }
  have e : devPlace (128 * b) ≠ devPlace (128 * a) := by simp [devPlace]; omega
  have l : (devPlace (128 * b)).line = devPlace (128 * b) := by simp [Place.line, devPlace, lineBase, Nat.mul_comm]
  have w : s.waysTaken (homeSliceOf (devPlace (128 * b))) (devPlace (128 * b)) = List.replicate 16 (devPlace (128 * a)) := by
    simp [State.waysTaken, s, State.reset, x, h]
  have d : s.mayDrop (homeSliceOf (devPlace (128 * b))) (devPlace (128 * a)) = false := by
    simp [State.mayDrop, s, State.reset, x]
  refine ⟨s, 128 * b, ?_, fun m => rfl⟩
  simp [State.cellRoom, State.noWay, w, d, l, e]
  rfl
/-- A copy from the scratchpad, and a dropped one, to a DO page of an ordered launch: it has a place in the inning buffer, and room there. -/
def orderedCopy (i : Instr) (rs : List (Nat × Word)) : State :=
  let s := repaged (ready i rs []) 0x30
  { s with tasks := s.tasks.map fun t => { t with rec0 := t.rec0 ||| BitVec.ofNat 4096 (2 ^ 296 + 2 ^ 297) } }
theorem witness_CopyIssue_enters : let i : Instr := .cpySg al { cpy with d := .vec 1, a := .vec 2 }
    let s := orderedCopy i [(1, 15), (2, 65532)]
    let dst := copySide (cx s) ((cx s).active al) 4 (.vec 1) 48 recW
    let ls := (dst.lanes.zip (copyOffs (cx s) ((cx s).active al) (.vec 2))).map fun x =>
      ({ t := x.1.t, src := .scratch x.2.2.toNat, dst := x.1.side } : CopyLane)
    CanIssue s (cx s) i al ∧ NoAcquire s (cx s) al ∧ SidePasses dst ∧ (cx s).tm.tagCount 63 + ls.length ≤ 65535 ∧ ls.length = 1 ∧
      (ls.all fun l => !s.copyHeld (cx s) l && (s.doPlace (cx s) l).any fun p =>
        (cx s).tk.room ((cx s).key l.t) (storeNeeds ((cx s).tk.entriesOf ((cx s).key l.t)) p)) = true :=
  ⟨canIssue_of (by decide +kernel), noAcquire_of (by decide +kernel), sidePasses_of (by decide +kernel), by decide +kernel, by decide +kernel,
    by decide +kernel⟩
/-- The destination of a copy in an RC, an SC and a PV page, with nothing before it. -/
theorem witness_CopyEnds_lands : ∀ x ∈ [((0 : BitVec 64), Cls.rc), (0x10, .sc), (0x50, .pv)], let s := repaged idle x.1
    ((s.ctxOf key0 false).map fun y =>
      match s.lineOut y.1 { write := true, cls := fun _ z => z != .ord || false } y.2 0x40000 with
      | .ok z => z.cls == x.2 && z.place.space == .dev && (s.cellAt 0x40000).isNone &&
          s.mayLeave 0 (.store { store0 with place := z.place, cls := z.cls })
      | _ => false) = some true := by decide +kernel
/-- A refusal of an engine's write; a write that an earlier one of its thread holds back, and one that nothing holds. -/
theorem witness_RemoteMessages_unit : (unitOwner 255).chain = some 255 ∧ key0.chain = none ∧
    (let s := { dev with net := [.remote (unitOwner 255) 1 (.store store0) .sent 0] }
    s.net[0]? = some (.remote (unitOwner 255) 1 (.store store0) .sent 0) ∧ s.collOf 255 = none) := by decide +kernel
/-- A page that is not resident, before and after the duty has answered for it; a place for the host's store. -/
theorem witness_RemoteMessages_unmapped : (let q := req .read (BitVec.ofNat 57 (2 ^ 40)) []
    reqOk q = true ∧ (match idle.admission q with
      | .unmapped => true
      | _ => false) = true ∧ (∃ x ∈ ({ idle with residNotices := [(0, 2 ^ 24, true)] } : State).residNotices, x.1 = q.ctx ∧
        x.2.1 = q.va.toNat / 65536 ∧ x.2.2 = true)) ∧ idle.residNotices = [] ∧ idle.cellRoom 0x40000 = true ∧ idle.cellAt 0x40000 = none := by
  decide +kernel
/-- A lease of one page that is resident; one whose list a host's write has shortened, and which a shootdown of the page revokes. -/
def leased : State := { managed with mem := Memory.put managed.mem loadRanges (leBytes 16 (2 ^ 56 + 2 ^ 97 + 2 ^ 98)) }
theorem witness_PageEvents_lease : leased.leaseCtxs 0 = [0] ∧ leased.leaseList 0 = [(0, 1, true)] ∧ leased.rangeResident 0 (0, 1, true) = true ∧
    leased.lsdir + 8 * 0 + 8 ≤ 16 * bitsNat (leased.leaseEntry 0) 4 53 ∧
    (let s := { leased with revoking := [(0, [(0, 2, true)])] }
    s.removedRanges 0 [(0, 2, true)] = [(1, 1)] ∧ (0, [(0, 2, true)]) ∈ s.revoking) := by decide +kernel
/-- A frame for a migration within the device; a page whose move the host has begun. -/
theorem witness_PageEvents_copy : Memory.wf leased.mem = true ∧ (leased.leaf? 0 0x40000).any (fun l => pteSpace l.pte == .dev &&
    leased.frameOk (2 ^ 30) l.size) = true ∧ leased.dutyMigr = false := by decide +kernel
/-- A report whose page is held and one whose page is not; RRS with a place in staging and without; a DONE of another incarnation. -/
theorem witness_Collectives_waits :
    (let s := atStep 0 coll3
    s.unitHeld (s.collCtx coll3) coll3.repAddr (coll3.report 5).length = false ∧
      ({ s with heldPages := [(0, coll3.repAddr / 65536)] } : State).unitHeld (s.collCtx coll3) coll3.repAddr (coll3.report 5).length = true) ∧
    (let c := { coll3 with staging := [collMsg 1 0] }
    (atStep rrs1 c).stagingUsed 0 ≤ 2 ^ 21 ∧ ({ c with staging := collMsg 1 0 :: full } : Coll).staging.length = 44 ∧
      2 ^ 21 < (atStep rrs1 { c with staging := collMsg 1 0 :: full ++ full ++ full ++ full ++ full ++ full ++ full ++ full ++ full ++ full ++ full }).stagingUsed 0) ∧
    (let c := { coll3 with phase := .reporting 5 }
    (atStep 0 c).collOf 1 = some c) ∧
    memIncarn (coll3.member 2) = (0 : BitVec 16).toNat ∧ memIncarn (coll3.member 2) ≠ (1 : BitVec 16).toNat := by decide +kernel
/-- The ring has a place; a league whose units are down. -/
theorem witness_ErrorsAndUnits_ring : (let s := idle.setWindow 0x58 4
    s.ringLog = some 4 ∧ s.ringFree = true ∧ s.heldEvents = []) ∧
    (let s := ((idle.setWindow 0x58 4).setWindow 0x68 16)
    s.ringFree = false) := by decide +kernel
/-- PWRITE of a line with a cell, and of one without; a write that has been performed, and one behind a token; a page table entry that an
ordered launch holds. -/
theorem witness_HostRegisters_pwrite :
    (let b : BitVec 512 := BitVec.ofNat 512 (0x100000 + 2 ^ 64)
    duties.commandWritten = false ∧ duties.cellsAmong (wordLines (pwriteWords b)) = [] ∧ duties.movesHeld (pwriteWords b) = false ∧
      ({ duties with cells := [{ cell0 false 1 with line := 0x100000 }] } : State).cellsAmong (wordLines (pwriteWords b)) ≠ []) ∧
    duties.releaseReady noThread .dv = true ∧
    ({ duties with net := [.token line0 0 .rc noThread] } : State).releaseReady noThread .dv = false ∧
    (let s := { duties with command := some (9, 0), commandWritten := true }
    s.command = some (9, 0) ∧ (9 : BitVec 64).toNat % 256 = 9) := by decide +kernel
/-- A DO page of an ordered launch whose entry a PWRITE would mark as migrating. -/
theorem witness_HostRegisters_moves : (let s := repaged duties 0x30
    let s := { s with tasks := [{ loadTask 0 with rec0 := loadRecord ||| BitVec.ofNat 4096 (2 ^ 296 + 2 ^ 297), table := [(0, words)] }] }
    s.movesHeld [(loadTable2, (31 ^^^ 0x30) + 128)] = true) := by decide +kernel
/-- A last port; a device that has joined a pod, and one that has not; a device with an identity and one without. -/
theorem witness_PowerAndLinks_ports : ({ dev with ports := [7], podWritten := true } : State).ports = [7] ∧ dev.joined = false ∧
    ({ dev with joined := true } : State).joined = true ∧ dev.firmware.identity = none ∧
    ({ dev with firmware := { dev.firmware with identity := some 5 } } : State).firmware.identity ≠ none ∧
    (∀ i ∈ [1, 2, 3, 4], (dev.measured i).isSome = true) ∧ dev.measured 0 = none ∧ dev.measured 5 = none := by
  refine ⟨rfl, rfl, rfl, by decide +kernel, by simp, by intro i hi; fin_cases hi <;> rfl, rfl, rfl⟩

end Sys2Proof.Tests
end

/-!
The canonical form of device and host memory is kept by every step (O42). Memory is written by few operations; each operation
of the model has one lemma here that it keeps the form, in the order in which the model defines them, and the lemmas of `run`,
`runMem` and the other shared frames carry the form from an effect to the instruction's outcome.
-/
namespace Sys2Proof.Machine

open Sys2Proof

/-! ## Outcomes whose states are in canonical form -/

/-- The next state of an outcome, where there is one, is in canonical form. -/
def OutOk : Out → Prop
  | .next s => s.memOk
  | .fault _ => True
  | .refused _ => True

/-- The state that an effect leaves, where it leaves one, is in canonical form. -/
def EffOk : Eff → Prop
  | .done s _ => s.memOk
  | .faultAfter s _ => s.memOk
  | .fault _ => True
  | .stall _ => True
  | .hole _ => True

/-- The same for what comes of an attempt to copy. -/
def CopyEndOk : CopyEnd → Prop
  | .done s _ => s.memOk
  | .sent s => s.memOk
  | .wait s => s.memOk
  | .lease _ _ _ => True
  | .hole _ => True

/-- What a collective engine's operation gives satisfies `p`, where it gives anything. -/
def EngOk {α : Type} (p : α → Prop) : EngOut α → Prop
  | .ok a => p a
  | .gather _ => True
  | .wait => True
  | .fail _ => True

theorem copyEndOk_of_eq {x y : CopyEnd} (h : CopyEndOk x) (e : x = y) : CopyEndOk y := e ▸ h

theorem outOk_iff {o : Out} : OutOk o ↔ ∀ t, o = .next t → t.memOk := by
  cases o <;> simp [OutOk]

theorem effOk_iff {e : Eff} :
    EffOk e ↔ (∀ u p, e = .done u p → u.memOk) ∧ ∀ u f, e = .faultAfter u f → u.memOk := by
  cases e <;> simp [EffOk]

/-- An instruction keeps the form if its own effect does. -/
theorem run_outOk {i : Instr} {gs : Guards} {s : State} {k : Ctx → List Thread → Eff} (h : s.memOk)
    (hk : ∀ c act, EffOk (k c act)) : OutOk (run i gs s k) :=
  outOk_iff.2 (run_memOk h (fun c act => (effOk_iff.1 (hk c act)).1) fun c act => (effOk_iff.1 (hk c act)).2)

theorem runMem_outOk {i : Instr} {gs : Guards} {s : State} {k : Ctx → List Thread → Eff} (h : s.memOk)
    (hk : ∀ c act, EffOk (k c act)) : OutOk (runMem i gs s k) :=
  outOk_iff.2 (runMem_memOk h (fun c act => (effOk_iff.1 (hk c act)).1) fun c act => (effOk_iff.1 (hk c act)).2)

theorem after_outOk {o : Out} {f : State → State} (ho : OutOk o) (hf : ∀ u, u.memOk → (f u).memOk) : OutOk (after o f) := by
  cases o with
  | next u => exact hf u ho
  | fault r => trivial
  | refused r => trivial

theorem afterGroup_outOk {s : State} {o : Out} {f : Ctx → State → State} (ho : OutOk o)
    (hf : ∀ c u, u.memOk → (f c u).memOk) : OutOk (afterGroup s o f) := by
  unfold afterGroup
  split
  · exact after_outOk ho (hf _)
  · exact ho

variable {s : State}

/-! ## Choices and the end of an event -/

theorem State.ite_memOk {p : Prop} [Decidable p] {a b : State} (ha : a.memOk) (hb : b.memOk) : (if p then a else b).memOk := by
  split <;> [exact ha; exact hb]
theorem ite_outOk {p : Prop} [Decidable p] {a b : Out} (ha : OutOk a) (hb : OutOk b) : OutOk (if p then a else b) := by
  split <;> [exact ha; exact hb]
theorem ite_fst_memOk {α : Type} {p : Prop} [Decidable p] {a b : State × α} (ha : a.1.memOk) (hb : b.1.memOk) :
    (if p then a else b).1.memOk := by
  split <;> [exact ha; exact hb]
theorem outOk_tick (h : s.memOk) : OutOk (.next s.tick) := State.tick_memOk h
theorem ite_effOk {p : Prop} [Decidable p] {a b : Eff} (ha : EffOk a) (hb : EffOk b) : EffOk (if p then a else b) := by
  split <;> [exact ha; exact hb]

/-! ## Lanes and warps: registers alone change -/

theorem runLanes_outOk {i : Instr} {gs : Guards} {f : Ctx → Thread → Thread} (h : s.memOk) : OutOk (runLanes i gs s f) :=
  run_outOk h fun _ _ => h
theorem runAlu_outOk {i : Instr} {gs : Guards} {uniform : Bool} {d : RegNum} {n : Nat} {f : View → Rounded} (h : s.memOk) :
    OutOk (runAlu i gs uniform d n s f) :=
  run_outOk h fun _ _ => by cases uniform <;> exact h
theorem runInt2_outOk {i : Instr} {gs : Guards} {o : IntBin} {f : Nat → Nat → Nat} (h : s.memOk) : OutOk (runInt2 i gs o s f) :=
  runAlu_outOk h
theorem runShift_outOk {i : Instr} {gs : Guards} {o : IntBin} {f : Nat → Nat → Nat} (h : s.memOk) :
    OutOk (runShift i gs o s f) := runAlu_outOk h
theorem runInt1_outOk {i : Instr} {gs : Guards} {o : IntUn} {n : Nat} {f : Nat → Nat} (h : s.memOk) :
    OutOk (runInt1 i gs o n s f) := runAlu_outOk h
theorem runSpecial_outOk {i : Instr} {g : Guards} {o : FloatUn} {f : FloatTy → Nat → Rounded} (h : s.memOk) :
    OutOk (runSpecial i g o s f) := runAlu_outOk h
theorem runPred_outOk {i : Instr} {g : Guards} {d : PredNum} {f : Thread → Bool} (h : s.memOk) : OutOk (runPred i g d s f) :=
  runLanes_outOk h
theorem runLa_outOk {i : Instr} {g : Guards} {d : LaNum} {f : Ctx → Thread → Acc} (h : s.memOk) : OutOk (runLa i g d s f) :=
  runLanes_outOk h
theorem runCmp_outOk {i : Instr} {gs : Guards} {uniform : Bool} {p : PredNum} {f : View → Bool × Sts} (h : s.memOk) :
    OutOk (runCmp i gs uniform p s f) := run_outOk h fun _ _ => h
theorem runMove_outOk {i : Instr} {gs : Guards} {pair : Bool} {d a : RegNum} {idx : Ctx → Thread → Int} (h : s.memOk) :
    OutOk (runMove i gs pair d a s idx) := run_outOk h fun _ _ => h
theorem runJump_outOk {i : Instr} {gs : Guards} {target : Ctx → Thread → Nat} {f : Ctx → Thread → Thread} (h : s.memOk) :
    OutOk (runJump i gs s target f) := run_outOk h fun _ _ => h
theorem outsideRoutine_effOk {c : Ctx} {e : Eff} (h : EffOk e) : EffOk (c.outsideRoutine e) := by
  unfold Ctx.outsideRoutine
  split
  · trivial
  · exact h

/-! ## Translation and the checks before an access -/

theorem State.fillLtb_memOk (core ctx va : Nat) (h : s.memOk) : (s.fillLtb core ctx va).memOk := by
  unfold State.fillLtb
  split
  · exact h
  · split <;> exact h
theorem State.fillLtbs_memOk (c : Ctx) (lanes : List LaneOk) (h : s.memOk) : (s.fillLtbs c lanes).memOk :=
  foldl_memOk (fun _ _ hs => foldl_memOk (fun _ _ hu => State.fillLtb_memOk _ _ _ hu) _ _ hs) _ _ h
theorem State.gatherAll_memOk (ps : List Place) (h : s.memOk) : (s.gatherAll ps).memOk :=
  foldl_memOk (fun _ _ hs => State.accessHome_memOk _ _ hs) _ _ h
theorem State.holdThreads_memOk (c : Ctx) (page : Nat) (tids : List Nat) (h : s.memOk) : (s.holdThreads c page tids).memOk := h
theorem State.markDropped_memOk (c : Ctx) (lanes : List LaneOk) (f : Thread → Thread) (h : s.memOk) :
    (s.markDropped c lanes f).memOk := h
theorem State.cutInning_memOk (c : Ctx) (tids : List Nat) (h : s.memOk) : (s.cutInning c tids).memOk := h

/-- The checks of lanes keep the form if what follows them does. -/
theorem State.translateRefs_effOk {c : Ctx} {k : Touch} {lanes : List (Thread × Bool × List LineRef)}
    {ok : List LaneOk → Eff} (h : s.memOk) (hk : ∀ ls, EffOk (ok ls)) : EffOk (s.translateRefs c k lanes ok) := by
  unfold State.translateRefs
  dsimp only
  split
  · trivial
  split
  · exact h
  split
  · trivial
  split
  · trivial
  split
  · exact hk _
  split
  · trivial
  · exact State.gatherAll_memOk _ h
theorem State.checkSide_effOk {c : Ctx} {sd : Side} {n : Nat} {k : Touch} {ok : List LaneOk → Eff} (h : s.memOk)
    (hk : ∀ ls, EffOk (ok ls)) : EffOk (s.checkSide c sd n k ok) := by
  unfold State.checkSide
  split
  · trivial
  · exact State.translateRefs_effOk h hk

/-! ## Loads, stores and atomics of lanes -/

theorem State.putEntry_memOk (k : ThreadKey) (p : Place) (kind : DoKind) (h : s.memOk) : (s.putEntry k p kind).memOk := h
theorem State.loadOne_memOk (c : Ctx) (o : MemOrd) (n : Nat) (d : LoadDest) (l : LaneOk) (h : s.memOk) :
    (s.loadOne c o n d l).memOk := by
  unfold State.loadOne
  split
  · split
    · exact State.acquireIf_memOk _ _ (State.reply_memOk _ _ _ (State.l1Touch_memOk _ _ h))
    · exact State.loadLane_memOk _ _ _ _ _ _ h
  · exact h
theorem State.replicateLanes_memOk (c : Ctx) (buf : RecNum) (lanes : List LaneOk) (h : s.memOk) :
    (s.replicateLanes c buf lanes).memOk :=
  foldl_memOk (fun _ l hs => by
    split
    · exact foldl_memOk (fun _ _ hu => State.replicate_memOk _ _ _ hu) _ _ hs
    · exact hs) _ _ h
theorem State.putStores_memOk (c : Ctx) (o : MemOrd) (ls : List StoreLane) (h : s.memOk) : (s.putStores c o ls).memOk :=
  foldl_memOk (fun _ _ hs => by dsimp only; split <;> exact hs) _ _ h
theorem storeLanes_effOk {c : Ctx} {o : MemOrd} {lanes : List LaneOk} {data : Thread → List Byte}
    {targets : Thread → Xlat → PassTargets} (h : s.memOk) : EffOk (storeLanes s c o lanes data targets) :=
  State.cutInning_memOk _ _ (State.putStores_memOk _ _ _ (State.markDropped_memOk _ _ _ (State.fillLtbs_memOk _ _ h)))

theorem execLd_outOk (g : Guards) (o : MemOp) (h : s.memOk) : OutOk (execLd g o s) :=
  runMem_outOk h fun c act => State.checkSide_effOk h fun lanes => by
    split
    · have hl := foldl_memOk (fun u l hu => State.loadOne_memOk c o.ord (widthBytes o.width) (.regs o.d.val o.width) l hu) lanes _
        (State.markDropped_memOk c lanes (fun t => t.putLoaded o.d.val o.width (List.replicate (widthBytes o.width) 0))
          (State.fillLtbs_memOk c lanes h))
      dsimp only
      split
      · exact State.replicateLanes_memOk _ _ _ hl
      · exact hl
    · trivial
theorem execLdacc_outOk (g : Guards) (o : LdaccOp) (h : s.memOk) : OutOk (execLdacc g o s) :=
  runMem_outOk h fun c act => State.checkSide_effOk h fun lanes => by
    split
    · refine State.cutInning_memOk _ _ (foldl_memOk (fun u l hu => ?_) _ _ (State.markDropped_memOk _ _ _
        (State.fillLtbs_memOk _ _ h)))
      dsimp only
      split
      · split
        · refine State.acquireIf_memOk _ _ ?_
          split <;> exact hu
        · split
          · exact State.enqueue_memOk _ _ _ hu
          · exact State.loadLane_memOk _ _ _ _ _ _ hu
      · exact hu
    · trivial
theorem execSt_outOk (g : Guards) (o : MemOp) (h : s.memOk) : OutOk (execSt g o s) :=
  runMem_outOk h fun _ _ => State.checkSide_effOk h fun _ => storeLanes_effOk h
theorem execStPass_outOk (g : Guards) (o : PassOp) (h : s.memOk) : OutOk (execStPass g o s) :=
  runMem_outOk h fun _ _ => State.checkSide_effOk h fun _ => storeLanes_effOk h
theorem atomLanes_outOk {i : Instr} {g : Guards} {a : RecAddr} {ord : MemOrd} {d : RegNum} {wide : Bool}
    {req : Thread → AtomReq} (h : s.memOk) : OutOk (atomLanes i g a ord d wide s req) :=
  runMem_outOk h fun c act => State.checkSide_effOk h fun lanes => by
    refine State.cutInning_memOk _ _ (foldl_memOk (fun u l hu => ?_) _ _ (State.markDropped_memOk _ _ _
      (State.fillLtbs_memOk _ _ h)))
    dsimp only
    split
    · split
      · exact State.acquireIf_memOk _ _ (State.putEntry_memOk _ _ _ (State.reply_memOk _ _ _ (State.l1Touch_memOk _ _ hu)))
      · exact State.enqueue_memOk _ _ _ hu
    · exact hu
theorem execAacc_outOk (g : Guards) (o : AaccOp) (h : s.memOk) : OutOk (execAacc g o s) :=
  runMem_outOk h fun c act => State.checkSide_effOk h fun lanes => by
    refine State.cutInning_memOk _ _ (foldl_memOk (fun u l hu => ?_) _ _ (State.markDropped_memOk _ _ _
      (State.fillLtbs_memOk _ _ h)))
    dsimp only
    split
    · split
      · exact State.putEntry_memOk _ _ _ (State.l1Touch_memOk _ _ hu)
      · exact State.enqueue_memOk _ _ _ hu
    · exact hu

/-! ## Prefetches and the maintenance of lines -/

theorem State.prefetchL2_memOk (x : Xlat) (h : s.memOk) : (s.prefetchL2 x).memOk := by
  unfold State.prefetchL2
  split
  · exact State.remoteLine_memOk _ _ _ h
  all_goals
    split
    · exact h
    · exact State.fillL2_memOk _ _ _ h
theorem execPref_outOk (g : Guards) (o : PrefOp) (h : s.memOk) : OutOk (execPref g o s) :=
  run_outOk h fun c act => by
    refine foldl_memOk (fun u l hu => ?_) _ _ h
    split
    · split
      · split
        · exact State.fillL1_memOk _ _ _ _ _ hu
        · exact hu
      · split
        · exact State.replicate_memOk _ _ _ hu
        · exact hu
      all_goals exact State.prefetchL2_memOk _ hu
    all_goals exact hu
theorem lineSelect_effOk {c : Ctx} {act : List Thread} {sel : LineSel} {cls : Cls} {k : (L1Line → Bool) → Eff} (h : s.memOk)
    (hk : ∀ q, EffOk (k q)) : EffOk (lineSelect s c act sel cls k) := by
  cases sel with
  | all => exact hk _
  | line idx buf => exact State.checkSide_effOk h fun _ => hk _
theorem execFlush_outOk (g : Guards) (o : LineSel) (h : s.memOk) : OutOk (execFlush g o s) :=
  runMem_outOk h fun c act => by
    split
    · exact lineSelect_effOk h fun _ => State.l1Clean_memOk _ h
    · trivial
theorem execInv_outOk (g : Guards) (o : LineSel) (h : s.memOk) : OutOk (execInv g o s) :=
  runMem_outOk h fun _ _ => lineSelect_effOk h fun _ => State.l1Evict_memOk _ h

/-! ## The scratchpad, fences and records -/

theorem execLds_outOk (g : Guards) (o : ScratchOp) (h : s.memOk) : OutOk (execLds g o s) :=
  runMem_outOk h fun c act => by dsimp only; split <;> [trivial; exact h]
theorem execSts_outOk (g : Guards) (o : ScratchOp) (h : s.memOk) : OutOk (execSts g o s) :=
  runMem_outOk h fun c act => by
    dsimp only
    split
    · trivial
    · split <;> [exact h; trivial]
theorem State.noteRelease_memOk (k : ThreadKey) (h : s.memOk) : (s.noteRelease k).memOk := h
theorem State.released_memOk (c : Ctx) (act : List Thread) (h : s.memOk) : (s.released c act).memOk :=
  foldl_memOk (fun _ _ hs => State.noteRelease_memOk _ hs) _ _ h
theorem execFence_outOk (g : Guards) (o : FenceOp) (h : s.memOk) : OutOk (execFence g o s) :=
  runMem_outOk h fun c act => by
    split
    · exact State.enqueueLanes_memOk _ _ h
    · split
      · unfold Eff.ok
        split
        · exact h
        · exact State.acquire_memOk _ _ h
      · trivial
    · split
      · unfold Eff.ok
        split
        · exact h
        · exact State.acquire_memOk _ _ (State.released_memOk _ _ h)
      · trivial
theorem execRecd_outOk (g : Guards) (o : RecdOp) (h : s.memOk) : OutOk (execRecd g o s) :=
  run_outOk h fun c act => by dsimp only; split <;> [exact h; trivial]
theorem execRecq_outOk (g : Guards) (o : RecqOp) (h : s.memOk) : OutOk (execRecq g o s) := run_outOk h fun _ _ => h

/-! ## Images of accumulators and tiles -/

theorem State.readPieces_memOk (c : Ctx) (l : LaneOk) (n : Nat) (h : s.memOk) : (s.readPieces c l n).2.memOk :=
  foldl_snd_memOk (fun x a hx => by
    dsimp only
    split
    · exact State.l1Touch_memOk _ _ hx
    · exact State.acquireIf_memOk _ _ (State.loadBytes_memOk _ _ _ _ hx)) _ _ h
/-- Lanes that did their part are followed by a fault where others could not. -/
theorem okOrFault_effOk {p : Prop} [Decidable p] {f : FaultInfo} (h : s.memOk) :
    EffOk (if p then .ok s else .faultAfter s f) := by
  split <;> exact h
theorem loadImages_effOk {c : Ctx} {lanes : List LaneOk} {n : Nat} {bad : List Byte → Bool}
    {put : State → Thread → List Byte → State} {drop : State → Thread → State} (h : s.memOk)
    (hp : ∀ u t bs, u.memOk → (put u t bs).memOk) (hd : ∀ u t, u.memOk → (drop u t).memOk) :
    EffOk (loadImages s c lanes n bad put drop) := by
  unfold loadImages
  split
  · trivial
  split
  · exact State.gatherAll_memOk _ h
  split
  · refine okOrFault_effOk (foldl_fst_memOk (fun x l hx => ?_) _ _ (State.markDropped_memOk _ _ _ (State.fillLtbs_memOk _ _ h)))
    dsimp only
    split
    · exact hd _ _ hx
    · split
      · exact State.readPieces_memOk _ _ _ hx
      · exact hp _ _ _ (State.readPieces_memOk _ _ _ hx)
  · trivial
theorem fillImages_effOk {c : Ctx} {act : List Thread} {a : SpillAddr} {n : Nat} {bad : List Byte → Bool}
    {put : State → Thread → List Byte → State} (h : s.memOk) (hp : ∀ u t bs, u.memOk → (put u t bs).memOk) :
    EffOk (fillImages s c act a n bad put) := by
  unfold fillImages
  split
  · trivial
  · exact okOrFault_effOk (foldl_memOk (fun _ _ hu => hp _ _ _ hu) _ _ h)
theorem runFill_outOk {i : Instr} {g : Guards} {a : SpillAddr} {n : Nat} {bad : List Byte → Bool}
    {put : Ctx → State → Thread → List Byte → State} {drop : Ctx → State → Thread → State} (h : s.memOk)
    (hp : ∀ c u t bs, u.memOk → (put c u t bs).memOk) (hd : ∀ c u t, u.memOk → (drop c u t).memOk) :
    OutOk (runFill i g a n s bad put drop) :=
  runMem_outOk h fun c act => by
    split
    · exact fillImages_effOk h (hp c)
    · exact State.checkSide_effOk h fun _ => loadImages_effOk h (hp c) (hd c)
theorem storeImages_effOk {c : Ctx} {lanes : List LaneOk} {n : Nat} {image : Thread → List Byte} (h : s.memOk) :
    EffOk (storeImages s c lanes n image) :=
  State.cutInning_memOk _ _ (foldl_memOk (fun _ _ hu => by dsimp only; split <;> exact hu) _ _
    (State.putStores_memOk _ _ _ (State.markDropped_memOk _ _ _ (State.fillLtbs_memOk _ _ h))))
theorem runSpill_outOk {i : Instr} {g : Guards} {a : SpillAddr} {n : Nat} {image : Ctx → Thread → List Byte} (h : s.memOk) :
    OutOk (runSpill i g a n s image) :=
  runMem_outOk h fun c act => by
    split
    · split
      · trivial
      · split <;> [exact h; trivial]
    · exact State.checkSide_effOk h fun _ => storeImages_effOk h

/-! ## Copies -/

theorem State.copySource_ok {c : Ctx} {t : Thread} {n : Nat} {src : CopySide} {k : State → List Byte → Nat → CopyEnd}
    (h : s.memOk) (hk : ∀ u bs st, u.memOk → CopyEndOk (k u bs st)) : CopyEndOk (s.copySource c t n src k) := by
  cases src with
  | dropped => exact hk _ _ _ h
  | scratch o => exact hk _ _ _ h
  | mem va =>
    unfold State.copySource
    dsimp only
    split
    case h_1 => exact h
    case h_2 => exact h
    case h_3 => trivial
    case h_4 => trivial
    case h_5 => exact h
    case h_6 => exact h
    case h_7 => exact h
    case h_8 =>
      split
      · exact State.gatherAll_memOk _ h
      split
      · exact hk _ _ _ (State.l1Touch_memOk _ _ h)
      split
      · exact h
      · exact hk _ _ _ (State.loadBytes_memOk _ _ _ _ h)
theorem State.copyDest_ok {c : Ctx} {t : Thread} {r : CopyRec} {inning : Bool} {bs : List Byte} {st : Nat} (h : s.memOk) :
    CopyEndOk (s.copyDest c t r inning bs st) := by
  unfold State.copyDest
  split
  · exact h
  · exact h
  · split
    case h_1 => exact h
    case h_2 => exact h
    case h_3 => trivial
    case h_4 => trivial
    case h_5 => exact h
    case h_6 => exact h
    case h_7 => exact h
    case h_8 =>
      extract_lets key
      split
      · exact h
      · split
        · exact h
        · split <;> exact State.leave_memOk _ _ h
theorem State.performCopy_ok {c : Ctx} {t : Thread} {r : CopyRec} {inning : Bool} (h : s.memOk) :
    CopyEndOk (s.performCopy c t r inning) := by
  unfold State.performCopy
  split
  · exact h
  · exact State.copySource_ok h fun _ _ _ hu => State.copyDest_ok hu
theorem State.startCopy_memOk (c : Ctx) (n : Nat) (e : RegNum) (tag : TagNum) (l : CopyLane) (h : s.memOk) :
    (s.startCopy c n e tag l).memOk := by
  unfold State.startCopy
  extract_lets r s1 s2
  have h2 : s2.memOk := h
  clear_value s2
  split
  next hx =>
    split at hx
    · split at hx
      · next hd =>
        have h3 := copyEndOk_of_eq (State.performCopy_ok h2) hd
        cases hx
        exact h3
      all_goals cases hx; exact h2
    · cases hx; exact h2
theorem issueCopies_effOk {c : Ctx} {n : Nat} {e : RegNum} {tag : TagNum} {lanes : List CopyLane} (h : s.memOk) :
    EffOk (issueCopies s c n e tag lanes) := by
  unfold issueCopies
  dsimp only
  split
  · trivial
  split
  · exact State.gatherAll_memOk _ h
  split
  · refine State.cutInning_memOk _ _ (foldl_memOk (fun _ _ hu => State.startCopy_memOk _ _ _ _ _ hu) _ _ ?_)
    exact h
  · trivial
theorem execCpyGs_outOk (g : Guards) (o : CopyOp) (h : s.memOk) : OutOk (execCpyGs g o s) :=
  runMem_outOk h fun c act => by
    dsimp only
    split
    · trivial
    · split <;> [trivial; exact issueCopies_effOk h]
theorem execCpySg_outOk (g : Guards) (o : CopyOp) (h : s.memOk) : OutOk (execCpySg g o s) :=
  runMem_outOk h fun c act => by
    dsimp only
    split
    · trivial
    · split <;> [trivial; exact issueCopies_effOk h]
theorem execCpyGg_outOk (g : Guards) (o : CopyGGOp) (h : s.memOk) : OutOk (execCpyGg g o s) :=
  runMem_outOk h fun c act => by dsimp only; split <;> [trivial; exact issueCopies_effOk h]

/-! ## Tags -/

theorem State.endCopy_memOk (r : CopyRec) (st : Nat) (h : s.memOk) : (s.endCopy r st).memOk := h
theorem State.endByLease_memOk (c : Ctx) (r : CopyRec) (reason addr : Nat) (dst : Bool) (h : s.memOk) :
    (s.endByLease c r reason addr dst).memOk := h
theorem putTagNo_memOk (c : Ctx) (act : List Thread) (o : TagQuery) (h : s.memOk) : (putTagNo s c act o).memOk := by
  unfold putTagNo
  dsimp only
  split <;> exact h
theorem execWaitall_outOk (g : Guards) (o : TagSet) (h : s.memOk) : OutOk (execWaitall g o s) :=
  run_outOk h fun _ _ => by split <;> [exact h; trivial]
theorem execWaitany_outOk (g : Guards) (o : TagQuery) (h : s.memOk) : OutOk (execWaitany g o s) :=
  run_outOk h fun _ _ => by split <;> [exact putTagNo_memOk _ _ _ h; trivial]
theorem execTagclr_outOk (g : Guards) (o : TagSet) (h : s.memOk) : OutOk (execTagclr g o s) :=
  run_outOk h fun c act => by
    extract_lets tags mine s1 left
    have h1 : s1.memOk := foldl_memOk (fun _ _ hu => State.endCopy_memOk _ _ hu) _ _ h
    clear_value s1
    split
    · split <;> [trivial; exact h1]
    split
    · split
      · exact h1
      · split <;> [trivial; exact h1]
    · exact h1

/-! ## Exact merging -/

theorem State.takeOrdered_memOk {k : Nat} {m : Msg} {u : State} (h : s.memOk) (ht : s.takeOrdered k = some (m, u)) : u.memOk := by
  unfold State.takeOrdered at ht
  split at ht
  · split at ht
    · cases ht
    · cases ht; exact h
  · cases ht
theorem State.takeMsg_memOk {k : Nat} {m : Msg} {u : State} (h : s.memOk) (ht : s.takeMsg k = some (m, u)) : u.memOk := by
  obtain ⟨x, _, hx⟩ := Option.map_eq_some_iff.1 ht
  cases hx
  exact h
theorem State.hop_memOk (k : Nat) (m : Msg) {f : State → State} (hf : ∀ u, u.memOk → (f u).memOk) (h : s.memOk) :
    (s.hop k m f).memOk :=
  hf { s with net := s.net.take k ++ (splitBehind [m] (s.net.drop k)).2 } h
theorem State.recordPairs_memOk (home : Nat) (ps : List (Nat × Nat)) (h : s.memOk) : (s.recordPairs home ps).memOk :=
  foldl_memOk (fun _ _ hu => by exact hu) _ _ h
theorem State.stickCell_memOk (line : Nat) (cls : Cls) (h : s.memOk) : (s.stickCell line cls).memOk :=
  State.modCell_memOk _ _ (State.addHome_memOk _ _ _ h)
theorem State.homeMerge_memOk {line : Nat} {cls : Cls} {t : Acc} {ps : List (Nat × Nat)} {ows : List ThreadKey} {replay : Bool}
    {u : State} (h : s.memOk) (hm : s.homeMerge line cls t ps ows replay = some u) : u.memOk := by
  unfold State.homeMerge at hm
  dsimp only at hm
  split at hm
  · split at hm <;> cases hm
    exact h
  · cases hm
    exact State.homeAdd_memOk _ _ _ _ _ (State.recordPairs_memOk _ _ h)
theorem State.surrender_memOk (j line : Nat) (cls : Cls) (t : Acc) (h : s.memOk) : (s.surrender j line cls t).memOk := by
  have ha := State.addHome_memOk line cls t h
  unfold State.surrender
  dsimp only
  split
  · exact State.ite_memOk (State.endGather_memOk _ ha) ha
  · exact ha
theorem State.voidReg_memOk (j line : Nat) (h : s.memOk) : (s.voidReg j line).memOk := by
  unfold State.voidReg
  split
  · exact State.ite_memOk h h
  · exact h

theorem execReg_outOk (k : Nat) (h : s.memOk) : OutOk (execReg k s) := by
  unfold execReg
  split
  · next ht =>
    have h1 := State.takeOrdered_memOk h ht
    refine ite_outOk h (outOk_tick ?_)
    split
    · exact State.ite_memOk (State.modCell_memOk _ _ h1) (State.regHome_memOk _ _ _ h1)
    · exact State.regHome_memOk _ _ _ h1
  · exact h
theorem execRegack_outOk (k : Nat) (h : s.memOk) : OutOk (execRegack k s) := by
  unfold execRegack
  split
  · next ht =>
    have h1 := State.takeOrdered_memOk h ht
    exact ite_outOk h1 h1
  · exact h
theorem execCollect_outOk (k : Nat) (h : s.memOk) : OutOk (execCollect k s) := by
  unfold execCollect
  split
  · next ht =>
    have h1 := State.takeOrdered_memOk h ht
    split <;> exact h1
  · exact h
theorem execSurr_outOk (k : Nat) (h : s.memOk) : OutOk (execSurr k s) := by
  unfold execSurr
  split
  · next ht =>
    exact ite_outOk h (outOk_tick (State.surrender_memOk _ _ _ _ (State.voidReg_memOk _ _ (State.takeOrdered_memOk h ht))))
  · exact h
theorem execSurrE_outOk (k : Nat) (h : s.memOk) : OutOk (execSurrE k s) := by
  unfold execSurrE
  split
  · next ht => exact ite_outOk h (outOk_tick (State.surrender_memOk _ _ _ _ (State.takeOrdered_memOk h ht)))
  · exact h
theorem execNoneMsg_outOk (k : Nat) (h : s.memOk) : OutOk (execNoneMsg k s) := by
  unfold execNoneMsg
  split
  · next ht =>
    have h1 := State.takeOrdered_memOk h ht
    exact h1
  · exact h
theorem execPartialEviction_outOk (slice line : Nat) (h : s.memOk) : OutOk (execPartialEviction slice line s) := by
  unfold execPartialEviction
  split
  · exact ite_outOk h h
  · exact h
theorem execGatherStart_outOk (line : Nat) (h : s.memOk) : OutOk (execGatherStart line s) := by
  unfold execGatherStart
  split
  · exact ite_outOk h (outOk_tick (State.accessHome_memOk _ _ h))
  · exact h

/-! ## Bowls -/

theorem State.emitBowl_memOk (b : BowlEntry) (h : s.memOk) : (s.emitBowl b).memOk := h
theorem State.emitBowls_memOk (bs : List BowlEntry) (h : s.memOk) : (bs.foldl State.emitBowl s).memOk :=
  foldl_memOk (fun _ _ hu => State.emitBowl_memOk _ hu) _ _ h
theorem State.bowlTake_memOk (e : BowlEntry) (replay : Bool) (h : s.memOk) : (s.bowlTake e replay).memOk := by
  unfold State.bowlTake
  dsimp only
  split
  · exact State.ite_memOk (State.ite_memOk h h) (State.ite_memOk h (State.ite_memOk h (State.ite_memOk h h)))
  · exact State.ite_memOk h (State.ite_memOk h h)
theorem execBowlContribution_outOk (k : Nat) (h : s.memOk) : OutOk (execBowlContribution k s) := by
  unfold execBowlContribution
  split
  · next ht => exact outOk_tick (State.hop_memOk _ _ (fun _ hu => State.bowlTake_memOk _ _ hu) (State.takeOrdered_memOk h ht))
  · next ht => exact outOk_tick (State.hop_memOk _ _ (fun _ hu => State.bowlTake_memOk _ _ hu) (State.takeOrdered_memOk h ht))
  · exact h
theorem execBowlEmission_outOk (k : Nat) (h : s.memOk) : OutOk (execBowlEmission k s) := by
  unfold execBowlEmission
  split <;> exact h
theorem execLinkReplay_outOk (k : Nat) (lost : Bool) (h : s.memOk) : OutOk (execLinkReplay k lost s) := by
  unfold execLinkReplay
  split
  · exact ite_outOk h h
  · exact h
  · exact h

/-! ## Coherence -/

theorem execNotificationToken_outOk (k : Nat) (h : s.memOk) : OutOk (execNotificationToken k s) := by
  unfold execNotificationToken
  split
  · exact ite_outOk h (outOk_tick (State.ite_memOk h h))
  · exact h
theorem execDirectoryProbe_outOk (k : Nat) (h : s.memOk) : OutOk (execDirectoryProbe k s) := by
  unfold execDirectoryProbe
  split
  · extract_lets net s1 s2
    have h2 : s2.memOk := State.ite_memOk h h
    clear_value s2
    exact h2
  · exact h
theorem execProbeAck_outOk (k : Nat) (h : s.memOk) : OutOk (execProbeAck k s) := by
  unfold execProbeAck
  split
  · exact ite_outOk h h
  · exact h
theorem execPassArrival_outOk (k : Nat) (h : s.memOk) : OutOk (execPassArrival k s) := by
  unfold execPassArrival
  split
  · exact outOk_tick (State.memOk_of (State.takePass_memOk (s := { s with net := s.net.eraseIdx k }) _ _ _ _ _ _ _ h) rfl rfl)
  · exact h
theorem State.addRefusal_memOk (ow : ThreadKey) (h : s.memOk) : (s.addRefusal ow).memOk := h
theorem execPassOutcome_outOk (k : Nat) (h : s.memOk) : OutOk (execPassOutcome k s) := by
  unfold execPassOutcome
  split
  · exact outOk_tick (State.ite_memOk (State.addRefusal_memOk (s := { s with net := s.net.eraseIdx k }) _ h) h)
  · exact h
theorem execPageWalk_outOk (core ctx : Nat) (va : BitVec 57) (h : s.memOk) : OutOk (execPageWalk core ctx va s) :=
  ite_outOk (outOk_tick (State.fillLtb_memOk _ _ _ h)) h
theorem execLoadCompletion_outOk (k : Nat) (h : s.memOk) : OutOk (execLoadCompletion k s) := by
  unfold execLoadCompletion
  split
  · next ht =>
    have h1 := State.takeMsg_memOk h ht
    exact h1
  · exact h

/-! ## Chain descriptors and the writes of units -/

theorem State.setChain_memOk (n : Nat) (d : BitVec 512) (h : s.memOk) : (s.setChain n d).memOk :=
  State.ite_memOk ⟨Memory.wf_put _ _ h.1, h.2⟩ h
theorem State.unitFailed_memOk (chain : Nat) (h : s.memOk) : (s.unitFailed chain).memOk :=
  State.postEvent_memOk _ (State.setChain_memOk _ _ h)
theorem State.unitWrite_memOk {ow : ThreadKey} {ctx va : Nat} {bs : List Byte} {u : State} (h : s.memOk)
    (hu : s.unitWrite ow ctx va bs = some u) : u.memOk := by
  unfold State.unitWrite at hu
  split at hu
  · split at hu
    · cases hu
    · split at hu
      · cases hu
      · split at hu
        · cases hu
          split
          · exact State.accessHome_memOk _ _ h
          · exact State.snoopHost_memOk _ _ (State.notify_memOk _ _ _ _ (State.writeBytes_memOk _ _ (State.cutWs_memOk _ _ _ h)))
        · cases hu; exact h
        · cases hu; exact h
  · cases hu
  · cases hu
theorem State.unitWrites_memOk (ow : ThreadKey) (ctx va : Nat) (bs : List Byte) (h : s.memOk) :
    (s.unitWrites ow ctx va bs).1.memOk :=
  foldl_fst_memOk (fun x _ hx => by
    dsimp only
    split
    · next hu => exact State.unitWrite_memOk hx hu
    · exact hx) _ _ h

/-! ## The end of teams and tasks -/

theorem State.noteGone_memOk (p : ThreadKey → Bool) (h : s.memOk) : (s.noteGone p).memOk := h
theorem State.leaveCore_memOk (tm : Team) (h : s.memOk) : (s.leaveCore tm).memOk := by
  have hl := State.l1Evict_memOk (fun l => l.core == tm.core) h
  exact State.ite_memOk (State.ite_memOk hl hl) hl
theorem State.endTeams_memOk (h : s.memOk) : s.endTeams.memOk :=
  foldl_memOk (fun _ _ hu => State.ite_memOk (State.ite_memOk (State.noteGone_memOk _ (State.leaveCore_memOk _ hu)) hu)
    (State.ite_memOk (State.modTask_memOk _ _ (State.leaveCore_memOk _ hu)) hu)) _ _ h
theorem State.releaseSlot_memOk (t : Task) (h : s.memOk) : (s.releaseSlot t).memOk := h
theorem State.releaseSlots_memOk (h : s.memOk) : s.releaseSlots.memOk :=
  foldl_memOk (fun _ _ hu => State.ite_memOk (State.releaseSlot_memOk _ hu) hu) _ _ h
theorem State.writeOutcome_memOk (t : Task) (code detail team : Nat) (h : s.memOk) :
    (s.writeOutcome t code detail team).memOk :=
  State.modTask_memOk _ _ (State.unitWrites_memOk _ _ _ _ (State.noteGone_memOk (s := { s with
    saved := s.saved.filter (fun x => x.task != t.id), replicas := s.replicas.filter fun x => x.task != t.id }) _ h))
theorem State.complete_memOk (t : Task) (dropped : Bool) (h : s.memOk) : (s.complete t dropped).memOk := by
  have h1 : ({ s with tasks := s.tasks.filter fun x => x.id != t.id } : State).memOk := h
  have hw := fun n d ow ctx va bs => State.unitWrites_memOk ow ctx va bs (State.setChain_memOk n d h1)
  exact State.ite_memOk (State.unitFailed_memOk _ (State.ite_memOk (State.unitFailed_memOk _ (hw _ _ _ _ _ _)) (hw _ _ _ _ _ _)))
    (State.ite_memOk (State.unitFailed_memOk _ (hw _ _ _ _ _ _)) (hw _ _ _ _ _ _))
theorem State.endTask_memOk (t : Task) (h : s.memOk) : (s.endTask t).memOk := by
  unfold State.endTask
  split
  · exact State.ite_memOk (State.complete_memOk _ _ h) h
  all_goals
    split
    · exact State.ite_memOk (State.writeOutcome_memOk _ _ _ _ h) h
    · exact h
theorem State.endTasks_memOk (h : s.memOk) : s.endTasks.memOk :=
  foldl_memOk (fun _ _ hu => State.endTask_memOk _ hu) _ _ (State.releaseSlots_memOk h)
/-- What ends with an event writes memory through the home alone. -/
theorem State.settle_memOk (h : s.memOk) : s.settle.memOk := State.endTasks_memOk (State.endTeams_memOk h)
theorem outOk_settle (h : s.memOk) : OutOk (.next s.settle.tick) := outOk_tick (State.settle_memOk h)

theorem execCopyCompletion_outOk (k : Nat) (h : s.memOk) : OutOk (execCopyCompletion k s) := by
  unfold execCopyCompletion
  split
  · exact h
  split
  · exact outOk_settle (State.endCopy_memOk _ _ h)
  split
  · exact h
  split
  · exact h
  · split
    · next hd =>
      have h1 := copyEndOk_of_eq (State.performCopy_ok h) hd
      exact outOk_settle (State.endCopy_memOk _ _ h1)
    · next hd =>
      have h1 := copyEndOk_of_eq (State.performCopy_ok h) hd
      exact h1
    · next hd => exact copyEndOk_of_eq (State.performCopy_ok h) hd
    · exact outOk_settle (State.endCopy_memOk _ _ (State.endByLease_memOk _ _ _ _ _ h))
    · trivial
theorem execHomeSliceRequest_outOk (r : SliceReq) (k : Nat) (h : s.memOk) : OutOk (execHomeSliceRequest r k s) := by
  cases r with
  | queue core =>
    unfold execHomeSliceRequest
    dsimp only
    split
    · exact h
    · split
      · exact h
      · exact outOk_settle (State.leave_memOk _ _ (State.modTeam_memOk _ _ _ h))
  | flight =>
    unfold execHomeSliceRequest
    dsimp only
    split
    · exact ite_outOk h (outOk_settle (State.accessHome_memOk (s := { s with net := s.net.eraseIdx k }) _ _ h))
    · exact h

/-! ## Barriers and exchanges -/

theorem State.joinChecks_memOk (tk : Task) (team : Nat) (inRoutine : Bool) (tids : List Nat) (h : s.memOk) :
    (s.joinChecks tk team inRoutine tids).memOk := h
theorem State.setBarInst_memOk (tk : Task) (i : Inst) (b : BarInst) (h : s.memOk) : (s.setBarInst tk i b).memOk := by
  unfold State.setBarInst
  split <;> exact h
theorem State.releaseBarrier_memOk (tk : Task) (i : Inst) (gen : BitVec 31) (h : s.memOk) :
    (s.releaseBarrier tk i gen).memOk :=
  State.memOk_of (foldl_memOk (fun _ core hu => State.acquire_memOk core .dv hu) _ s h) rfl rfl
theorem State.barCheck_memOk (tk : Task) (i : Inst) (h : s.memOk) : (s.barCheck tk i).memOk :=
  State.ite_memOk (State.releaseBarrier_memOk _ _ _ (State.setBarInst_memOk _ _ _ h)) h
theorem State.barChecks_memOk (tk : Task) (is : List Inst) (h : s.memOk) : (is.foldl (fun u i => u.barCheck tk i) s).memOk :=
  foldl_memOk (fun _ _ hu => State.barCheck_memOk _ _ hu) _ _ h
theorem State.arrive_memOk (tk : Task) (team tid scope : Nat) (h : s.memOk) : (s.arrive tk team tid scope).memOk :=
  State.modTeam_memOk _ _ _ (State.setBarInst_memOk _ _ _ h)
theorem State.withdraw_memOk (tk : Task) (team : Nat) (t : Thread) (scope : Nat) (h : s.memOk) :
    (s.withdraw tk team t scope).memOk := State.ite_memOk (State.setBarInst_memOk _ _ _ h) h
theorem State.sweepExchanges_memOk (id : Nat) (h : s.memOk) : (s.sweepExchanges id).memOk := by
  unfold State.sweepExchanges
  split
  · exact h
  · exact State.ite_memOk h h

/-! ## Control -/

theorem State.codeWord_effOk {c : Ctx} {a : Nat} {k : Int → Eff} (h : s.memOk) (hk : ∀ e, EffOk (k e)) :
    EffOk (s.codeWord c a k) := by
  unfold State.codeWord
  extract_lets post held gather
  have hg : ∀ p, EffOk (gather p) := fun p => by
    dsimp only [gather]
    split
    · trivial
    · exact State.gatherAll_memOk _ h
  split
  · trivial
  · exact h
  · exact hg _
  · trivial
  · split
    · exact hk _
    · split
      · trivial
      · exact h
      · exact hg _
      · trivial
      · exact hk _
theorem State.tableJumps_effOk {c : Ctx} {table : Nat} {k : List (Nat × Nat) → Eff} (h : s.memOk) (hk : ∀ js, EffOk (k js)) :
    ∀ (idx js : List (Nat × Nat)), EffOk (s.tableJumps c table k idx js)
  | [], _ => hk _
  | _ :: rest, _ => State.codeWord_effOk h fun _ => State.tableJumps_effOk h hk rest _
theorem execJtbl_outOk (g : Guards) (o : JtblOp) (h : s.memOk) : OutOk (execJtbl g o s) :=
  run_outOk h fun c act => by
    dsimp only
    split
    · exact State.tableJumps_effOk h (fun _ => by exact h) _ _
    · trivial
theorem execMark_outOk (off : BitVec 32) (h : s.memOk) : OutOk (execMark off s) :=
  run_outOk h fun c act => by dsimp only; split <;> [trivial; exact h]
theorem execJoin_outOk (h : s.memOk) : OutOk (execJoin s) :=
  run_outOk h fun c act => by dsimp only; split <;> [exact h; trivial]
theorem State.afterExit_memOk (tk : Task) (team : Nat) (tids : List Nat) (h : s.memOk) : (s.afterExit tk team tids).memOk :=
  State.settle_memOk (State.sweepExchanges_memOk _ (State.barChecks_memOk _ _
    (State.joinChecks_memOk _ _ _ _ (State.joinChecks_memOk _ _ _ _ (State.modTeam_memOk _ _ _ h)))))
theorem execExit_outOk (g : Guards) (h : s.memOk) : OutOk (execExit g s) :=
  afterGroup_outOk
    (run_outOk h fun _ _ => State.modTeam_memOk _ _ _ (foldl_memOk (fun _ _ hu =>
      foldl_memOk (fun _ _ hv => State.withdraw_memOk _ _ _ _ hv) _ _ hu) _ _ h))
    fun _ _ hu => State.afterExit_memOk _ _ _ hu
theorem execTrap_outOk (g : Guards) (n : BitVec 8) (h : s.memOk) : OutOk (execTrap g n s) :=
  run_outOk h fun c act => outsideRoutine_effOk (by
    dsimp only
    split
    · exact h
    · split <;> [exact h; trivial])
theorem execBkpt_outOk (g : Guards) (n : BitVec 8) (h : s.memOk) : OutOk (execBkpt g n s) :=
  run_outOk h fun c act => by
    split
    · exact foldl_memOk (fun _ _ hu => State.postEvent_memOk _ hu) _ _ h
    · exact h

theorem State.modThread_memOk (k : ThreadKey) (f : Thread → Thread) (h : s.memOk) : (s.modThread k f).memOk := h
/-- The waits that threads resume after a routine or a restore. -/
theorem State.resumeWaits_memOk (tk : Task) (team : Nat) (tids : List Nat) (h : s.memOk) :
    (s.resumeWaits tk team tids).memOk := by
  unfold State.resumeWaits
  split
  · exact h
  · refine State.sweepExchanges_memOk _ (foldl_memOk (fun _ _ hu => State.modTask_memOk _ _ hu) _ _
      (foldl_memOk (fun u t hu => ?_) _ _ (State.joinChecks_memOk _ _ _ _
        (foldl_memOk (fun _ _ hu => State.raise_memOk _ _ (State.modThread_memOk _ _ hu)) _ _ h))))
    split
    · exact State.ite_memOk hu (State.modThread_memOk _ _ hu)
    · exact State.ite_memOk (State.releaseBarrier_memOk _ _ _ hu) (State.modThread_memOk _ _ hu)
    · exact hu
theorem execTret_outOk (h : s.memOk) : OutOk (execTret s) :=
  afterGroup_outOk (run_outOk h fun _ _ => by split <;> [exact h; trivial])
    fun _ _ hu => State.resumeWaits_memOk _ _ _ (State.noteGone_memOk _ hu)

theorem State.arriveAll_memOk (c : Ctx) (sc : Scope) (wait : Bool) (go early : List Thread) (h : s.memOk) :
    (s.arriveAll c sc wait go early).memOk :=
  State.barChecks_memOk _ _ (State.modTeam_memOk _ _ _ (State.modTeam_memOk _ _ _
    (foldl_memOk (fun _ _ hu => State.arrive_memOk _ _ _ _ hu) _ _ (State.released_memOk _ _
      (State.ite_memOk (State.acquire_memOk _ _ h) h)))))
theorem runArrive_outOk {i : Instr} {sc : Scope} {wait : Bool} (h : s.memOk) : OutOk (runArrive i s sc wait) :=
  run_outOk h fun c act => outsideRoutine_effOk (by
    dsimp only
    split
    · exact State.arriveAll_memOk _ _ _ _ _ h
    · trivial)
theorem execBarw_outOk (sc : Scope) (h : s.memOk) : OutOk (execBarw sc s) :=
  run_outOk h fun _ _ => outsideRoutine_effOk
    (State.modTeam_memOk _ _ _ (State.modTeam_memOk _ _ _ (State.ite_memOk h (State.acquire_memOk _ _ h))))
theorem execInnend_outOk (g : Guards) (h : s.memOk) : OutOk (execInnend g s) :=
  run_outOk h fun _ _ => outsideRoutine_effOk (State.ite_memOk h h)
theorem execVshrink_outOk (g : Guards) (n : Fin 33) (h : s.memOk) : OutOk (execVshrink g n s) :=
  run_outOk h fun _ _ => outsideRoutine_effOk (by dsimp only; split <;> [exact h; trivial])
theorem execVgrow_outOk (g : Guards) (n : Fin 33) (h : s.memOk) : OutOk (execVgrow g n s) :=
  run_outOk h fun _ _ => outsideRoutine_effOk h
theorem runExchange_outOk {i : Instr} {g : Guards} {o : LaneOp} (h : s.memOk) : OutOk (runExchange i g o s) :=
  run_outOk h fun c act => by
    split
    · trivial
    · exact State.sweepExchanges_memOk _ (State.modTeam_memOk _ _ _
        (foldl_memOk (fun _ _ hu => State.modTask_memOk _ _ hu) _ _ h))

/-! ## Special registers, launches and requests -/

theorem execMfs_outOk (g : Guards) (o : MfsOp) (h : s.memOk) : OutOk (execMfs g o s) :=
  run_outOk h fun c act => by
    split
    · split <;> exact h
    · trivial
theorem execMts_outOk (g : Guards) (o : MtsOp) (h : s.memOk) : OutOk (execMts g o s) :=
  run_outOk h fun c act => by
    dsimp only
    split
    · split <;> exact h
    · exact h
theorem execCtxrd_outOk (g : Guards) (o : CtxOp) (h : s.memOk) : OutOk (execCtxrd g o s) :=
  run_outOk h fun c act => by split <;> exact h
theorem State.putShared_memOk (c : Ctx) (t : Thread) (i : CtxItem) (v : Word) (h : s.memOk) :
    (s.putShared c t i v).memOk := by
  unfold State.putShared
  dsimp only
  split
  · exact State.setBarInst_memOk _ _ _ h
  · exact State.setBarInst_memOk _ _ _ h
  all_goals exact h
theorem execCtxwr_outOk (g : Guards) (o : CtxOp) (h : s.memOk) : OutOk (execCtxwr g o s) :=
  run_outOk h fun c act => by
    dsimp only
    split
    · trivial
    split
    · split <;> [trivial; exact h]
    split
    · trivial
    split
    · exact State.putShared_memOk _ _ _ _ h
    · exact h
theorem State.launchTail_memOk (c : Ctx) (chain n : Nat) (h : s.memOk) : (s.launchTail c chain n).2.memOk := by
  unfold State.launchTail
  dsimp only
  split
  · split <;> [exact State.setChain_memOk _ _ h; exact h]
  · exact h
theorem execLnch_outOk (g : Guards) (o : LnchOp) (h : s.memOk) : OutOk (execLnch g o s) :=
  run_outOk h fun c act => outsideRoutine_effOk (by
    split
    · exact foldl_memOk (fun _ _ hu => State.modTeam_memOk _ _ _ (State.launchTail_memOk _ _ _ hu)) _ _
        (State.released_memOk _ _ h)
    · trivial)
theorem execMgmt_outOk (g : Guards) (o : MgmtOp) (h : s.memOk) : OutOk (execMgmt g o s) :=
  run_outOk h fun c act => by
    split
    · exact State.memOk_of (State.released_memOk c act h) rfl rfl
    · trivial

/-! ## Chains and the launch unit -/

theorem State.ringDoorbell_memOk (v : BitVec 64) (h : s.memOk) : (s.ringDoorbell v).memOk := by
  unfold State.ringDoorbell
  extract_lets chain n d
  split
  · exact h
  split
  · exact h
  split
  · exact State.memOk_of (State.setChain_memOk chain _ h) rfl rfl
  · exact State.setChain_memOk _ _ h
theorem State.writeChain_memOk (chain : Nat) (d : BitVec 512) (h : s.memOk) : (s.writeChain chain d).1.memOk := by
  unfold State.writeChain
  split
  · exact h
  · split <;> [exact h; exact State.setChain_memOk _ _ h]
theorem execChainDescriptorWrite_outOk (chain : Nat) (d : BitVec 512) (h : s.memOk) :
    OutOk (execChainDescriptorWrite chain d s) := ite_outOk (outOk_tick (State.writeChain_memOk _ _ h)) h
theorem State.stopChain_memOk (chain : Nat) (h : s.memOk) : (s.stopChain chain).memOk := State.setChain_memOk _ _ h
theorem State.takeRecord_memOk (chain slot a : Nat) (bs : List Byte) (h : s.memOk) : (s.takeRecord chain slot a bs).memOk := by
  unfold State.takeRecord
  extract_lets d t0 table t s1 b
  have h1 : s1.memOk := State.setChain_memOk _ _ h
  clear_value s1
  split
  · exact h
  · split
    · exact h1
    · exact State.settle_memOk (s := { s1 with tasks := _, nextTask := _ }) h1
theorem execDequeue_outOk (chain : Nat) (h : s.memOk) : OutOk (execDequeue chain s) := by
  have hstop : OutOk (.next (s.stopChain chain).tick) := outOk_tick (State.stopChain_memOk _ h)
  have hgather : ∀ ps, OutOk (.next (s.gatherAll ps).tick) := fun _ => outOk_tick (State.gatherAll_memOk _ h)
  unfold execDequeue
  extract_lets d
  refine ite_outOk h ?_
  split
  · exact h
  refine ite_outOk h ?_
  split
  · exact hstop
  refine ite_outOk h (ite_outOk (hgather _) (ite_outOk hstop ?_))
  split
  · exact hstop
  · extract_lets tab table
    clear_value table
    exact ite_outOk h (ite_outOk (outOk_tick (State.takeRecord_memOk _ _ _ _ h)) (hgather _))

theorem State.setSlot_memOk (k : Nat) (x : Slot) (h : s.memOk) : (s.setSlot k x).memOk := State.memOk_of h rfl rfl
theorem State.bind_memOk (k : Nat) (r : BitVec 512) (h : s.memOk) : (s.bind k r).1.memOk := by
  unfold State.bind
  repeat' split
  all_goals exact h
theorem State.revoke_memOk (k : Nat) (h : s.memOk) : (s.revoke k).1.memOk := by
  unfold State.revoke
  split
  · exact h
  · exact h
  · exact State.setSlot_memOk _ _ h
  all_goals exact State.memOk_of (State.setSlot_memOk k { s.slot k with state := .drain } h) rfl rfl
theorem State.beginSave_memOk (t : Task) (team : Nat) (h : s.memOk) : (s.beginSave t team).memOk := h
theorem State.suspend_memOk (k : Nat) (h : s.memOk) : (s.suspend k).1.memOk := by
  unfold State.suspend
  split
  · exact foldl_memOk (fun _ _ hu => State.beginSave_memOk _ _ hu) _ _ h
  · exact h
theorem State.resume_memOk (k : Nat) (h : s.memOk) : (s.resume k).1.memOk := by
  unfold State.resume
  split <;> exact h
theorem State.bindCommand_memOk (k : Nat) (r : BitVec 512) (h : s.memOk) : (s.bindCommand k r).1.memOk := by
  unfold State.bindCommand
  split
  · exact h
  split
  · exact h
  · exact State.bind_memOk _ _ h
  · exact State.revoke_memOk _ h
  · exact State.suspend_memOk _ h
  · exact State.resume_memOk _ h
  · exact h
theorem State.writeRow_memOk (die core : Nat) (row : BitVec 64) (h : s.memOk) : (s.writeRow die core row).1.memOk := by
  unfold State.writeRow
  split
  · exact h
  · split <;> exact h
theorem mgmtSched_outOk {f : State → State × Nat} (h : s.memOk) (hf : (f s).1.memOk) : OutOk (mgmtSched s f) :=
  ite_outOk (outOk_settle hf) h
theorem execDrainComplete_outOk (slot : Nat) (h : s.memOk) : OutOk (execDrainComplete slot s) := by
  unfold execDrainComplete
  split
  · exact h
  · exact ite_outOk (outOk_settle (State.releaseSlot_memOk _ h)) h

/-! ## The dispatcher -/

theorem State.placed_memOk (t : Task) (h : s.memOk) : (s.placed t).memOk := h
theorem execTeamStart_outOk (core team : Nat) (h : s.memOk) : OutOk (execTeamStart core team s) := by
  unfold execTeamStart
  extract_lets s1 start
  have hs : ∀ t b, OutOk (start t b) := fun t b => by
    have hc : s1.memOk := State.acquire_memOk core .dv (State.l1Evict_memOk (fun l => l.core == core) h)
    exact outOk_tick (State.placed_memOk _ (State.memOk_of hc rfl rfl))
  split
  · exact ite_outOk (hs _ _) h
  · split
    · exact ite_outOk (hs _ _) h
    · exact h
theorem execCoreClean_outOk (core : Nat) (h : s.memOk) : OutOk (execCoreClean core s) := ite_outOk h h

/-! ## Matrix instructions -/

theorem State.putRow_memOk (c : Ctx) (t : Thread) (tile : Nat) (row : List Acc) (h : s.memOk) : (s.putRow c t tile row).memOk := h
theorem State.readLines_memOk (c : Ctx) (l : LaneOk) (h : s.memOk) : (State.readLines s c l).2.memOk :=
  foldl_snd_memOk (fun _ _ hx => by exact State.readPieces_memOk _ _ _ hx) _ _ h
theorem runMatrix_outOk {i : Instr} {g : Guards} {tile : Nat} {ops : Ctx → Warp → MatIn}
    {f : Ctx → MatIn → ByteAt → Thread → List Acc → List Acc} (h : s.memOk) : OutOk (runMatrix i g tile s ops f) :=
  runMem_outOk h fun c act => by
    split
    · exact h
    · dsimp only
      split
      case h_6 =>
        refine State.translateRefs_effOk h fun lanes => ?_
        split
        · trivial
        · exact foldl_memOk (fun _ _ hu => State.accessHome_memOk _ _ hu) _ _ h
        · split
          · exact ite_effOk (foldl_memOk (fun _ _ hu => by exact State.putRow_memOk _ _ _ _ hu) _ _
              (foldl_snd_memOk (fun _ _ hx => by exact State.readLines_memOk _ _ hx) _ _ (State.fillLtbs_memOk _ _ h))) trivial
          · trivial
      all_goals trivial
theorem execMzero_outOk (g : Guards) (d : TaNum) (h : s.memOk) : OutOk (execMzero g d s) :=
  run_outOk h fun _ _ => foldl_memOk (fun _ _ hu => State.putRow_memOk _ _ _ _ hu) _ _ h
theorem execMaddt_outOk (g : Guards) (o : TaPair) (h : s.memOk) : OutOk (execMaddt g o s) :=
  run_outOk h fun _ _ => foldl_memOk (fun _ _ hu => State.putRow_memOk _ _ _ _ hu) _ _ h

/-! ## Saves, restores and preemption -/

theorem State.takeOff_memOk (tk : Task) (tm : Team) (area : Sparse Byte) (h : s.memOk) : (s.takeOff tk tm area).memOk := by
  have hl := State.leaveCore_memOk (s := { s with saved := s.saved ++ [s.savedOf tk tm area] }) tm h
  exact State.ite_memOk (State.setSlot_memOk _ _ hl) hl
theorem State.saveStep_memOk (tk : Task) (tm : Team) (h : s.memOk) : (s.saveStep tk tm).memOk := by
  unfold State.saveStep
  split
  · exact h
  · exact State.ite_memOk (State.takeOff_memOk _ _ _ h) h
  · exact State.ite_memOk (State.ite_memOk (State.takeOff_memOk _ _ _ h) h)
      (State.ite_memOk h (State.ite_memOk (State.modTeam_memOk _ _ _ h) h))
theorem State.startSave_memOk (tk : Task) (tm : Team) (h : s.memOk) : (s.startSave tk tm).memOk := by
  have hb := State.beginSave_memOk tk tm.team h
  unfold State.startSave
  dsimp only
  split
  · exact State.saveStep_memOk _ _ hb
  · exact hb
theorem execPreemption_outOk (core : Nat) (h : s.memOk) : OutOk (execPreemption core s) := by
  unfold execPreemption
  split
  · exact h
  · split
    · exact h
    · exact outOk_settle (State.startSave_memOk _ _ h)
theorem execQuantumExpiry_outOk (core : Nat) (h : s.memOk) : OutOk (execQuantumExpiry core s) := by
  unfold execQuantumExpiry
  split
  · split
    · exact h
    · exact outOk_settle (State.startSave_memOk _ _ h)
  · exact h
theorem execTeamSwitch_outOk (core : Nat) (h : s.memOk) : OutOk (execTeamSwitch core s) := by
  unfold execTeamSwitch
  dsimp only
  split
  · exact h
  · split
    · exact h
    · exact outOk_settle (State.startSave_memOk _ _ h)
theorem State.lateThreads_memOk (tk : Task) (tm : Team) (late : List Thread) (h : s.memOk) :
    (s.lateThreads tk tm late).memOk := by
  unfold State.lateThreads
  dsimp only
  split
  · exact State.endTaskFault_memOk _ _ (State.modTeam_memOk _ _ _ h)
  · exact State.modTeam_memOk _ _ _ h
theorem execPreemptionWatchdog_outOk (core : Nat) (h : s.memOk) : OutOk (execPreemptionWatchdog core s) := by
  unfold execPreemptionWatchdog
  dsimp only
  split
  · exact h
  · split
    · exact h
    · exact outOk_settle (State.lateThreads_memOk _ _ _ h)
theorem State.reformYields_memOk (tk : Task) (team : Nat) (h : s.memOk) : (s.reformYields tk team).memOk := h
theorem execTeamRestore_outOk (core team : Nat) (h : s.memOk) : OutOk (execTeamRestore core team s) := by
  unfold execTeamRestore
  split
  · exact h
  · split
    · exact h
    · refine ite_outOk h ?_
      extract_lets s1
      have h1 : s1.memOk := h
      clear_value s1
      refine ite_outOk h1 (ite_outOk ?_ (outOk_settle (State.endTaskFault_memOk _ _ h1)))
      exact outOk_settle (State.resumeWaits_memOk _ _ _ (State.reformYields_memOk _ _ (State.placed_memOk
        (s := { s1 with teams := _ }) _ h1)))

/-! ## Innings -/

theorem State.commitPass_memOk (tk : Task) (e : DoEntry) (target : Nat) (h : s.memOk) : (s.commitPass tk e target).memOk := by
  unfold State.commitPass
  split
  · exact State.addRefusal_memOk _ h
  · have ht := fun p cls d task tg core st => State.takePass_memOk p cls d task tg core st h
    exact State.ite_memOk (State.addRefusal_memOk _ (ht _ _ _ _ _ _ _)) (ht _ _ _ _ _ _ _)
theorem State.commitWrite_memOk (e : DoEntry) (h : s.memOk) : (s.commitWrite e).memOk :=
  State.tagL2_memOk _ _ (State.snoopHost_memOk _ _ (State.writeBytes_memOk (s := { s with l1 := _ }) _ _ h))
theorem State.commitEntry_memOk (tk : Task) (e : DoEntry) (h : s.memOk) : (s.commitEntry tk e).1.memOk := by
  have hg := State.ite_memOk (p := (s.cellAt e.line).isSome = true) (State.gatherAll_memOk [e.place] h) h
  unfold State.commitEntry
  extract_lets p
  split
  · refine ite_fst_memOk h (foldl_memOk (fun _ _ hu => ?_) _ _ h)
    split <;> exact hu
  all_goals
    split
    · exact ite_fst_memOk h (State.presentAacc_memOk _ _ _ _ _ h)
    · exact ite_fst_memOk (State.homeAdd_memOk _ _ _ _ _ h) h
    · exact ite_fst_memOk hg (foldl_memOk (fun _ _ hu => State.commitPass_memOk _ _ _ hu) _ _ (State.commitWrite_memOk _ hg))
theorem State.commitEntries_memOk (tk : Task) : ∀ (es : List DoEntry) {s : State}, s.memOk →
    (State.commitEntries tk s es).1.memOk
  | [], _, h => h
  | e :: rest, s, h => by
    have h1 := State.commitEntry_memOk tk e h
    unfold State.commitEntries
    dsimp only
    split
    · exact State.commitEntries_memOk tk rest h1
    · exact h1
theorem State.nextInning_memOk (tk : Task) (h : s.memOk) : (s.nextInning tk).memOk := by
  unfold State.nextInning
  extract_lets s1 s2 s3
  have h3 : s3.memOk := State.modTask_memOk _ _ (foldl_memOk (fun _ _ hu => State.acquire_memOk _ _ hu) _ _
    (foldl_memOk (fun _ _ hu => foldl_memOk (fun _ _ hv => State.noteRelease_memOk _ hv) _ _ hu) _ _ h))
  clear_value s3
  exact h3
theorem State.commit_memOk (tk : Task) (es : List DoEntry) (h : s.memOk) : (s.commit tk es).memOk := by
  have h1 := State.commitEntries_memOk tk es h
  exact State.ite_memOk (State.nextInning_memOk _ h1) (State.modTask_memOk _ _ h1)
theorem execCommit_outOk (task : Nat) (h : s.memOk) : OutOk (execCommit task s) := by
  unfold execCommit
  split
  · exact h
  · split
    · exact outOk_settle (State.commit_memOk _ _ h)
    · exact ite_outOk (outOk_settle (State.commit_memOk (s := { s with tasks := _ }) _ _ h)) h

/-! ## Issue slots -/

theorem State.setHuddle_memOk (core squad : Nat) (x : Huddle) (h : s.memOk) : (s.setHuddle core squad x).memOk :=
  State.memOk_of h rfl rfl
theorem execIssueSlotService_outOk (core squad slot : Nat) (h : s.memOk) : OutOk (execIssueSlotService core squad slot s) := by
  unfold execIssueSlotService
  refine ite_outOk h ?_
  extract_lets rs x
  split
  · exact State.setHuddle_memOk _ _ _ h
  · split
    · exact h
    · exact State.memOk_of h rfl rfl
theorem execAging_outOk (core squad : Nat) (h : s.memOk) : OutOk (execAging core squad s) :=
  outOk_tick (State.setHuddle_memOk _ _ _ h)
theorem State.countDogs_memOk (core squad : Nat) (h : s.memOk) : (s.countDogs core squad).memOk := h
theorem execWatchdog_outOk (core squad : Nat) (h : s.memOk) : OutOk (execWatchdog core squad s) := by
  unfold execWatchdog
  split
  · exact outOk_tick (State.countDogs_memOk _ _ h)
  · exact outOk_settle (State.lateThreads_memOk _ _ _ h)

/-! ## Page tables -/

theorem State.writePte_memOk (l : Leaf) (e : BitVec 64) (h : s.memOk) : (s.writePte l e).memOk := ⟨Memory.wf_put _ _ h.1, h.2⟩
theorem State.shootdown_memOk (ctx first n : Nat) (h : s.memOk) : (s.shootdown ctx first n).memOk := h
theorem State.shootLeaf_memOk (l : Leaf) (h : s.memOk) : (s.shootLeaf l).memOk := h
theorem State.holdLeaf_memOk (l : Leaf) (h : s.memOk) : (s.holdLeaf l).memOk := h
theorem State.wakeHeld_memOk (ctx : Nat) (pages : List Nat) (h : s.memOk) : (s.wakeHeld ctx pages).memOk := h
theorem State.drainPage_memOk (l : Leaf) (h : s.memOk) : (s.drainPage l).memOk :=
  State.gatherAll_memOk _ (State.emitBowls_memOk _ (State.l1Clean_memOk _ h))
theorem State.dropSpan_memOk (x : Span) (h : s.memOk) : (s.dropSpan x).memOk :=
  State.memOk_of (State.l1Evict_memOk (fun y => x.has y.place) h) rfl rfl
theorem State.dropPage_memOk (l : Leaf) (h : s.memOk) : (s.dropPage l).memOk := State.dropSpan_memOk _ h
theorem State.dropPages_memOk (ls : List Leaf) (h : s.memOk) : (ls.foldl State.dropPage s).memOk :=
  foldl_memOk (fun _ _ hu => State.dropPage_memOk _ hu) _ _ h
theorem State.freeFrames_memOk (ctx : Nat) (fs : List Nat) (h : s.memOk) : (s.freeFrames ctx fs).memOk := h
theorem State.takeFrames_memOk (first n : Nat) (h : s.memOk) : (s.takeFrames first n).memOk := h

/-- A frame that another context takes is zeroed. -/
theorem State.claimFrames_memOk (l : Leaf) (h : s.memOk) : (s.claimFrames l).memOk := by
  unfold State.claimFrames
  extract_lets old s1
  have h1 : s1.memOk := foldl_memOk (fun u f hu => by
    have hd := State.dropSpan_memOk { space := .dev, base := 65536 * f, size := 65536, cls := .rc } hu
    exact ⟨Sparse.wf_filter _ hd.1, hd.2⟩) _ _ h
  clear_value s1
  exact h1
theorem State.tablesWritten_memOk (old : List Leaf) (h : s.memOk) : (s.tablesWritten old).memOk := by
  unfold State.tablesWritten
  extract_lets new made moved kept gone s1 s2
  have h2 : s2.memOk := foldl_memOk (fun _ _ hu => by exact hu) _ _ (foldl_memOk (fun _ _ hu => State.claimFrames_memOk _ hu) _ _
    (foldl_memOk (fun _ _ hu => State.freeFrames_memOk _ _ hu) _ _ h))
  clear_value s2
  exact h2
theorem State.changeClass_memOk (ctx va cls : Nat) (h : s.memOk) : (s.changeClass ctx va cls).1.memOk := by
  unfold State.changeClass
  split
  · exact h
  split
  · exact h
  split
  · exact h
  split
  · split
    · exact h
    · split
      · exact State.wakeHeld_memOk _ _ (State.dropPage_memOk _ h)
      · exact State.drainPage_memOk _ h
  split
  · exact h
  · exact State.drainPage_memOk _ (State.holdLeaf_memOk _ (State.shootLeaf_memOk _ (State.writePte_memOk _ _ h)))
theorem State.endCommand_memOk (r : Nat) (h : s.memOk) : (s.endCommand r).memOk := h
theorem execClassChange_outOk (ctx : Nat) (va : BitVec 57) (cls : BitVec 3) (h : s.memOk) :
    OutOk (execClassChange ctx va cls s) := by
  have h1 := State.changeClass_memOk ctx va.toNat cls.toNat h
  unfold execClassChange
  dsimp only
  refine ite_outOk h (outOk_tick ?_)
  split
  · exact State.ite_memOk (State.endCommand_memOk _ h1) h1
  · exact h1

/-! ## Leases -/

theorem State.setLeaseEntry_memOk (lease : Nat) (e : BitVec 64) (h : s.memOk) : (s.setLeaseEntry lease e).memOk :=
  ⟨Memory.wf_put _ _ h.1, h.2⟩
theorem State.withRevoked_memOk (r : List (Nat × Nat × Nat)) (h : s.memOk) : ({ s with revoked := r } : State).memOk := h
theorem State.grantLease_memOk (lease : Nat) (h : s.memOk) : (s.grantLease lease).1.memOk := by
  unfold State.grantLease
  exact ite_fst_memOk h (ite_fst_memOk (State.withRevoked_memOk _ (State.setLeaseEntry_memOk _ _ h)) h)
theorem State.revokeShot_memOk (ctx first n : Nat) (h : s.memOk) : (s.revokeShot ctx first n).memOk := h
theorem State.leaseWritten_memOk (lease : Nat) (e : BitVec 64) (old : List (Nat × Nat × Bool)) (h : s.memOk) :
    (s.leaseWritten lease e old).memOk := State.ite_memOk h (State.ite_memOk h h)
/-- The entries of a list are written one by one. -/
theorem Memory.wf_puts {α : Type} (at_ : α → Nat) (bs : α → List Byte) : ∀ (xs : List α) {m : List Host.Cell},
    Memory.wf m = true → Memory.wf (xs.foldl (fun m x => Memory.put m (at_ x) (bs x)) m) = true
  | [], _, h => h
  | _ :: xs, _, h => Memory.wf_puts at_ bs xs (Memory.wf_put _ _ h)
theorem State.writeLeaseList_memOk (lease : Nat) (rs : List (Nat × Nat × Bool)) (h : s.memOk) :
    (s.writeLeaseList lease rs).memOk := ⟨Memory.wf_puts _ _ _ h.1, h.2⟩
theorem State.revokeLease_memOk (lease : Nat) (removed : List (Nat × Nat)) (h : s.memOk) :
    (s.revokeLease lease removed).memOk := by
  unfold State.revokeLease
  extract_lets old new gone s1 s2 s3 s4
  have h1 : s1.memOk := State.setLeaseEntry_memOk _ _ h
  clear_value s1
  have h2 : s2.memOk := State.ite_memOk (State.setLeaseEntry_memOk _ _ h1) (State.writeLeaseList_memOk _ _ h1)
  clear_value s2
  have h3 : s3.memOk := foldl_memOk (fun _ _ hu => foldl_memOk (fun _ _ hv => State.shootdown_memOk _ _ _ hv) _ _ hu) _ _ h2
  clear_value s3
  exact State.withRevoked_memOk _ (State.setLeaseEntry_memOk _ _ h3)
theorem execLeaseGrant_outOk (lease : Nat) (h : s.memOk) : OutOk (execLeaseGrant lease s) :=
  ite_outOk (outOk_tick (State.grantLease_memOk _ h)) h
theorem execLeaseRevocation_outOk (lease : Nat) (ranges : List (BitVec 128)) (h : s.memOk) :
    OutOk (execLeaseRevocation lease ranges s) := ite_outOk (outOk_tick (State.revokeLease_memOk _ _ h)) h
theorem execTranslationShootdown_outOk (ctx va len : Nat) (h : s.memOk) : OutOk (execTranslationShootdown ctx va len s) := by
  unfold execTranslationShootdown
  refine ite_outOk h ?_
  extract_lets n s1 mine ls s2
  have h1 : s1.memOk := State.revokeShot_memOk _ _ _ (State.shootdown_memOk _ _ _ h)
  have h2 : s2.memOk := foldl_memOk (fun _ _ hu => State.drainPage_memOk _ (State.holdLeaf_memOk _ hu)) _ _ h1
  exact ite_outOk (outOk_tick (State.ite_memOk (State.endCommand_memOk _ (State.dropPages_memOk _ h2)) h2)) (outOk_tick h1)

/-! ## Migration -/

theorem Memory.wf_copyFrom (k : List Host.Cell) {m : List Host.Cell} (src dst n : Nat) (h : Memory.wf m = true) :
    Memory.wf (Memory.copyFrom k m src dst n) = true := by
  unfold Memory.copyFrom
  generalize k.filter (fun x => src ≤ x.1 ∧ x.1 < src + n) = cells
  have hc : Memory.wf (Memory.clear m dst n) = true := Sparse.wf_filter _ h
  generalize Memory.clear m dst n = c at hc
  induction cells generalizing c with
  | nil => exact hc
  | cons x t ih => exact ih _ (Memory.wf_write _ _ hc)
theorem State.copyPage_memOk (src dst : Place) (n : Nat) (h : s.memOk) : (s.copyPage src dst n).memOk := by
  unfold State.copyPage
  split
  · exact ⟨Memory.wf_copyFrom _ _ _ _ h.1, h.2⟩
  · exact ⟨h.1, Memory.wf_copyFrom _ _ _ _ h.2⟩
  · exact ⟨Memory.wf_copyFrom _ _ _ _ h.1, h.2⟩
  · exact ⟨h.1, Memory.wf_copyFrom _ _ _ _ h.2⟩
  · exact ⟨Memory.wf_put _ _ h.1, h.2⟩
  · exact ⟨h.1, Memory.wf_put _ _ h.2⟩
  · exact h
theorem State.finishMove_memOk (l : Leaf) (p : Place) (h : s.memOk) : (s.finishMove l p).memOk := by
  unfold State.finishMove
  extract_lets span s1 s2 s3 s4
  have h2 : s2.memOk := State.copyPage_memOk _ _ _ (State.dropSpan_memOk _ (State.dropPage_memOk _ h))
  have h3 : s3.memOk := by
    clear_value s2
    dsimp only [s3]
    split <;> exact h2
  have h4 : s4.memOk := State.shootLeaf_memOk _ (State.writePte_memOk _ _ h3)
  clear_value s4
  exact h4
theorem execMigration_outOk (ctx : Nat) (va : BitVec 57) (pa : Nat) (h : s.memOk) : OutOk (execMigration ctx va pa s) := by
  unfold execMigration
  split
  · exact h
  · refine ite_outOk h (ite_outOk h (ite_outOk (ite_outOk (outOk_tick (State.finishMove_memOk _ _ h))
      (outOk_tick (State.drainPage_memOk _ h))) (ite_outOk h ?_)))
    extract_lets s1
    have h1 : s1.memOk := State.drainPage_memOk _ (State.holdLeaf_memOk _ (State.shootLeaf_memOk _ (State.writePte_memOk _ _ h)))
    clear_value s1
    exact h1

/-! ## Accesses of other devices and of the host -/

theorem State.remoteReply_memOk (ow : ThreadKey) (d : LoadDest) (bs : List Byte) (acq : Option Scope) (h : s.memOk) :
    (s.remoteReply ow d bs acq).memOk := by
  unfold State.remoteReply
  dsimp only
  split
  · exact State.acquireIf_memOk _ _ (State.reply_memOk _ _ _ h)
  · exact State.reply_memOk _ _ _ h
theorem State.remoteDone_memOk (ow : ThreadKey) (q : QItem) (h : s.memOk) : (s.remoteDone ow q).memOk := by
  cases q with
  | atom _ _ _ _ _ _ => exact State.ite_memOk h (State.remoteReply_memOk _ _ _ _ h)
  | ldaccZero _ _ _ _ _ => exact State.ite_memOk h (State.remoteReply_memOk _ _ _ _ h)
  | store _ => exact h
  | aacc _ _ _ _ _ => exact h
  | release _ _ => exact h
theorem State.endTaskLate_memOk (ow : ThreadKey) (cause reason : Nat) (v : Via) (h : s.memOk) :
    (s.endTaskLate ow cause reason v).memOk := by
  unfold State.endTaskLate
  split
  · exact h
  · exact State.endTaskFault_memOk _ _ (State.modThread_memOk _ _ h)
theorem State.cutAfter_memOk : ∀ (fuel : Nat) (gone : List (ThreadKey × QItem)) {s : State}, s.memOk → (s.cutAfter fuel gone).memOk
  | 0, _, _, h => h
  | fuel + 1, gone, s, h => by
    unfold State.cutAfter
    extract_lets late out dead cut more s1
    have h1 : s1.memOk := h
    clear_value s1
    exact State.ite_memOk h1 (State.cutAfter_memOk fuel _ h1)
theorem State.refuseRemote_memOk (ow : ThreadKey) (q : QItem) (cause status : Nat) (h : s.memOk) :
    (s.refuseRemote ow q cause status).memOk := by
  unfold State.refuseRemote
  split
  · exact State.endCopy_memOk _ _ h
  · exact State.endTaskLate_memOk _ _ _ _ (State.cutAfter_memOk _ _ h)
theorem execRemoteWriteAck_outOk (k : Nat) (h : s.memOk) : OutOk (execRemoteWriteAck k s) := by
  unfold execRemoteWriteAck
  split
  · extract_lets s1 s2 s3
    have h1 : s1.memOk := h
    clear_value s1
    have h2 : s2.memOk := by dsimp only [s2]; split <;> exact h1
    clear_value s2
    have h3 : s3.memOk := by
      dsimp only [s3]
      split
      · exact State.endCopy_memOk _ _ h2
      · exact h2
    exact ite_outOk (outOk_settle (State.refuseRemote_memOk _ _ _ _ h1)) (outOk_settle (State.remoteDone_memOk _ _ h3))
  · exact h
theorem State.setBench_memOk (ctx : Nat) (is : List BenchItem) (h : s.memOk) : (s.setBench ctx is).memOk := h
theorem State.unmapped_memOk (ctx page : Nat) (h : s.memOk) : (s.unmapped ctx page).1.memOk := by
  unfold State.unmapped
  dsimp only
  split
  · exact h
  · exact h
  · exact ite_fst_memOk h h
theorem State.homeRemote_memOk (q : RemoteReq) (x : Xlat) (h : s.memOk) : (s.homeRemote q x).memOk := by
  unfold State.homeRemote
  split
  · exact State.ite_memOk (State.modCell_memOk _ _ h) (State.serveAt_memOk _ _ h)
  · exact State.serveAt_memOk _ _ h
  · exact State.fillL2_memOk _ _ _ (State.accessHome_memOk _ _ h)
  · exact State.accessHome_memOk _ _ h
theorem State.takeRemote_memOk (q : RemoteReq) (h : s.memOk) : (s.takeRemote q).memOk := by
  unfold State.takeRemote
  split
  · exact State.replyTo_memOk _ _ (State.setBench_memOk _ _ h)
  · exact State.replyTo_memOk _ _ h
  · exact State.replyTo_memOk _ _ (State.unmapped_memOk _ _ h)
  · exact State.replyTo_memOk _ _ h
  · exact State.replyTo_memOk _ _ h
  · exact State.homeRemote_memOk _ _ h
theorem execRemoteWrite_outOk (q : RemoteReq) (h : s.memOk) : OutOk (execRemoteWrite q s) :=
  ite_outOk (outOk_tick (State.takeRemote_memOk _ h)) h
theorem execRemoteRequest_outOk (q : RemoteReq) (h : s.memOk) : OutOk (execRemoteRequest q s) :=
  ite_outOk (outOk_tick (State.takeRemote_memOk _ h)) h
theorem execHostSnoop_outOk (pa : Nat) (data : List Byte) (h : s.memOk) : OutOk (execHostSnoop pa data s) :=
  ite_outOk ⟨h.1, Memory.wf_put _ _ h.2⟩ h
theorem execHostStore_outOk (pa : Nat) (data : List Byte) (h : s.memOk) : OutOk (execHostStore pa data s) := by
  unfold execHostStore
  extract_lets p s1 held
  have h1 : s1.memOk := by
    dsimp only [s1]
    split
    · exact State.accessHome_memOk _ _ h
    · exact State.ite_memOk h (State.notify_memOk _ _ _ _ (State.writeBytes_memOk _ _ (State.cutWs_memOk _ _ _ h)))
  clear_value s1
  exact ite_outOk h1 h
theorem execHostWriteAcknowledgement_outOk (k : Nat) (h : s.memOk) : OutOk (execHostWriteAcknowledgement k s) := by
  unfold execHostWriteAcknowledgement
  split
  · exact ite_outOk h (outOk_settle ⟨h.1, Memory.wf_put _ _ h.2⟩)
  · exact h
theorem execBackInvalidationResponse_outOk (k : Nat) (h : s.memOk) : OutOk (execBackInvalidationResponse k s) := by
  unfold execBackInvalidationResponse
  split
  · exact outOk_settle (s := { s with net := s.net.eraseIdx k, hostHeld := _ }) h
  · exact h

/-! ## Collectives -/

theorem engOk_of_eq {α : Type} {p : α → Prop} {x y : EngOut α} (h : EngOk p x) (e : x = y) : EngOk p y := e ▸ h
theorem EngOut.andThen_ok {α β : Type} {p : α → Prop} {q : β → Prop} {x : EngOut α} {f : α → EngOut β} (hx : EngOk p x)
    (hf : ∀ a, p a → EngOk q (f a)) : EngOk q (x.andThen f) := by
  cases x with
  | ok a => exact hf a hx
  | gather _ => trivial
  | wait => trivial
  | fail _ => trivial
/-- After an operation that only reads. -/
theorem EngOut.andThen_read {α β : Type} {q : β → Prop} {x : EngOut α} {f : α → EngOut β} (hf : ∀ a, EngOk q (f a)) :
    EngOk q (x.andThen f) :=
  EngOut.andThen_ok (p := fun _ => True) (by cases x <;> trivial) fun a _ => hf a

theorem State.engineWrite_ok (c : Coll) (va : Nat) (bs : List Byte) (h : s.memOk) : EngOk State.memOk (s.engineWrite c va bs) := by
  unfold State.engineWrite
  split
  · exact State.unitWrites_memOk _ _ _ _ h
  all_goals trivial
theorem State.chunkWrite_ok (c : Coll) (p : Step) (chunk : Nat) (v : Chunk) (h : s.memOk) :
    EngOk (fun x : State × Coll => x.1.memOk) (s.chunkWrite c p chunk v) := by
  unfold State.chunkWrite
  dsimp only
  split
  · trivial
  · split
    · next he =>
      have h1 := engOk_of_eq (State.engineWrite_ok _ _ _ h) he
      exact h1
    all_goals trivial
theorem State.setColl_memOk (c : Coll) (h : s.memOk) : (s.setColl c).memOk := h
theorem State.failColl_memOk (c : Coll) (status : Nat) (h : s.memOk) : (s.failColl c status).memOk :=
  State.ite_memOk (State.setColl_memOk _ h) (State.setColl_memOk _ (State.unitWrites_memOk _ _ _ _ h))
theorem State.memberFails_memOk (c : Coll) (rank : Nat) (h : s.memOk) : (s.memberFails c rank).memOk :=
  State.ite_memOk (State.failColl_memOk _ _ h) h
theorem State.endColl_memOk (c : Coll) (status : Nat) (dropped : Bool) (h : s.memOk) : (s.endColl c status dropped).memOk := by
  unfold State.endColl
  extract_lets s1 d done
  have h1 : s1.memOk := h
  clear_value s1
  have hw := State.unitWrites_memOk (unitOwner c.chain) (chainCtx d) (chainCw d) (leBytes 8 done)
    (State.setChain_memOk c.chain (setField d 352 32 done) h1)
  have hd := State.ite_memOk (p := dropped = true) (State.unitFailed_memOk c.chain hw) hw
  exact State.ite_memOk (State.unitFailed_memOk _ hd) hd
theorem execCollectiveDequeue_outOk (chain : Nat) (h : s.memOk) : OutOk (execCollectiveDequeue chain s) := by
  have hc := State.setChain_memOk chain (setField (s.chain chain) 320 32 (chainDeq (s.chain chain) + 1)) h
  unfold execCollectiveDequeue
  extract_lets d a cells
  refine ite_outOk h (ite_outOk h (ite_outOk (outOk_tick (State.gatherAll_memOk _ h)) ?_))
  split
  · exact outOk_tick (State.stopChain_memOk _ h)
  · extract_lets c
    split
    · exact outOk_tick (State.memOk_of hc rfl rfl)
    · exact outOk_tick (State.failColl_memOk _ _ (State.memOk_of hc rfl rfl))
    · exact outOk_tick (State.failColl_memOk _ _ (State.memOk_of hc rfl rfl))
    · exact outOk_tick (State.gatherAll_memOk _ h)
    · exact h

/-- What a step of a collective gives has a state in canonical form. -/
def StepOutOk (x : StepOut) : Prop := EngOk (fun r => r.1.memOk) x
theorem stepNext_ok (c : Coll) (h : s.memOk) : StepOutOk (stepNext s c) := h
theorem runStep_outOk {chain opc : Nat} {f : Coll → Step → StepOut} (h : s.memOk) (hf : ∀ c p, StepOutOk (f c p)) :
    OutOk (runStep chain opc s f) := by
  unfold runStep
  split
  · exact h
  · refine ite_outOk h ?_
    split
    · exact outOk_tick (State.gatherAll_memOk _ h)
    · exact h
    · exact outOk_tick (State.failColl_memOk _ _ h)
    · refine ite_outOk (outOk_tick (State.failColl_memOk _ _ h)) (ite_outOk h ?_)
      split
      · next he =>
        have h1 := engOk_of_eq (hf _ _) he
        exact outOk_tick (State.setColl_memOk _ h1)
      · exact outOk_tick (State.gatherAll_memOk _ h)
      · exact h
      · exact outOk_tick (State.failColl_memOk _ _ h)
theorem execSend_outOk (chain : Nat) (h : s.memOk) : OutOk (execSend chain s) :=
  runStep_outOk h fun _ _ => EngOut.andThen_read fun _ => stepNext_ok _ h
theorem execRecv_outOk (chain : Nat) (h : s.memOk) : OutOk (execRecv chain s) :=
  runStep_outOk h fun c p => by
    dsimp only
    split
    · trivial
    · split
      · split <;> [trivial; exact h]
      · exact EngOut.andThen_read fun _ => EngOut.andThen_ok (State.chunkWrite_ok _ _ _ _ h) fun _ h1 => stepNext_ok _ h1
theorem execRrs_outOk (chain : Nat) (h : s.memOk) : OutOk (execRrs chain s) :=
  runStep_outOk h fun c p => by
    dsimp only
    split
    · trivial
    · split
      · trivial
      · refine EngOut.andThen_read fun v => ?_
        split
        · trivial
        · split
          · exact EngOut.andThen_ok (State.chunkWrite_ok _ _ _ _ h) fun _ h1 => stepNext_ok _ h1
          · exact stepNext_ok _ h
theorem execCopyStep_outOk (chain : Nat) (h : s.memOk) : OutOk (execCopyStep chain s) :=
  runStep_outOk h fun _ _ => EngOut.andThen_read fun _ =>
    EngOut.andThen_ok (State.chunkWrite_ok _ _ _ _ h) fun _ h1 => stepNext_ok _ h1
theorem execWaitStep_outOk (chain : Nat) (h : s.memOk) : OutOk (execWaitStep chain s) :=
  runStep_outOk h fun c p => by
    split
    · exact stepNext_ok _ h
    · trivial
theorem execLoopb_outOk (chain : Nat) (h : s.memOk) : OutOk (execLoopb chain s) :=
  runStep_outOk h fun c p => EngOut.andThen_read fun _ => by
    dsimp only
    split
    · exact h
    · exact stepNext_ok _ h
theorem execLoope_outOk (chain : Nat) (h : s.memOk) : OutOk (execLoope chain s) :=
  runStep_outOk h fun c p => EngOut.andThen_read fun _ => by
    dsimp only
    split
    · exact h
    · exact stepNext_ok _ h
theorem execEndStep_outOk (chain : Nat) (h : s.memOk) : OutOk (execEndStep chain s) := by
  have hr : ∀ c : Coll, StepOutOk (if !c.doneSent then .ok (s, { c with doneSent := true }, c.step)
      else if c.handshake then .fail 0 else .wait) := fun c => by
    split
    · exact h
    · split <;> trivial
  unfold execEndStep
  split
  · exact h
  · split
    · exact outOk_tick (State.failColl_memOk _ _ h)
    · exact ite_outOk (outOk_tick (State.endColl_memOk _ _ _ h)) h
    all_goals exact runStep_outOk h fun c _ => hr c

theorem State.replyMember_memOk (m : CollMsg) (a : Answer) (h : s.memOk) : (s.replyMember m a).memOk := h
theorem State.collTake_memOk {m : CollMsg} {u : State} (h : s.memOk) (hu : s.collTake m = some u) : u.memOk := by
  unfold State.collTake at hu
  split at hu
  · cases hu
  · split at hu
    · cases hu
      exact State.memberFails_memOk _ _ h
    · split at hu
      · cases hu; exact h
      · dsimp only at hu
        split at hu <;> cases hu
        exact State.replyMember_memOk _ _ (State.setColl_memOk _ h)
theorem State.sendChunk_memOk (c : Coll) (m : CollMsg) (h : s.memOk) : (s.sendChunk c m).memOk := h
theorem State.takeChunk_memOk (key : Nat) (v : Chunk) (ps : List (Nat × Nat)) (h : s.memOk) : (s.takeChunk key v ps).memOk := by
  unfold State.takeChunk
  split
  · exact h
  · split
    · exact State.ite_memOk h (State.ite_memOk (State.failColl_memOk _ _ h) (State.setColl_memOk _ h))
    all_goals exact h
theorem State.refuseSend_memOk (chain : Nat) (m : CollMsg) (why : RefusalWhy) (h : s.memOk) :
    (s.refuseSend chain m why).memOk := by
  unfold State.refuseSend
  split
  · exact h
  · refine State.ite_memOk h ?_
    split
    · exact State.setColl_memOk _ h
    · exact State.failColl_memOk _ _ h
    · exact State.failColl_memOk _ _ h
    · exact State.memberFails_memOk _ _ h
theorem State.resendColl_memOk (chain : Nat) (m : CollMsg) (h : s.memOk) : (s.resendColl chain m).memOk := by
  unfold State.resendColl
  split
  · exact h
  · exact State.ite_memOk (State.setColl_memOk _ h) h
theorem State.retryMember_memOk (m : CollMsg) (h : s.memOk) : (s.retryMember m).memOk := by
  unfold State.retryMember
  dsimp only
  split
  · exact State.refuseSend_memOk _ _ _ (State.replyMember_memOk _ _ h)
  · exact State.replyMember_memOk _ _ h
theorem execCollectiveMessage_outOk (m : CollMsg) (h : s.memOk) : OutOk (execCollectiveMessage m s) := by
  unfold execCollectiveMessage
  refine ite_outOk h (ite_outOk (outOk_tick (State.replyMember_memOk _ _ h)) (ite_outOk (outOk_tick (State.ite_memOk
    (State.replyMember_memOk _ _ (State.setBench_memOk _ _ h)) (State.retryMember_memOk _ h))) ?_))
  split
  · exact ite_outOk h (outOk_tick (State.sendChunk_memOk _ _ h))
  · split
    · next hu => exact outOk_tick (State.collTake_memOk h hu)
    · exact outOk_tick (State.retryMember_memOk _ h)
theorem execSendAcknowledgement_outOk (k : Nat) (h : s.memOk) : OutOk (execSendAcknowledgement k s) := by
  unfold execSendAcknowledgement
  split <;> exact h
theorem State.refuseUnit_memOk (chain status : Nat) (h : s.memOk) : (s.refuseUnit chain status).memOk := by
  unfold State.refuseUnit
  split
  · exact State.ite_memOk (State.failColl_memOk _ _ h) (State.unitFailed_memOk _ h)
  · exact State.unitFailed_memOk _ h
theorem State.refuseFor_memOk (ow : ThreadKey) (q : QItem) (cause status unit : Nat) (h : s.memOk) :
    (s.refuseFor ow q cause status unit).memOk := by
  unfold State.refuseFor
  split
  · exact State.refuseUnit_memOk _ _ h
  · exact State.refuseRemote_memOk _ _ _ _ h
theorem execRefusal_outOk (k : Nat) (why : RefusalWhy) (h : s.memOk) : OutOk (execRefusal k why s) := by
  unfold execRefusal
  split
  · extract_lets s1
    have h1 : s1.memOk := h
    clear_value s1
    split
    · exact h
    · exact outOk_settle (State.refuseFor_memOk _ _ _ _ _ h1)
    · exact outOk_settle (State.refuseFor_memOk _ _ _ _ _ h1)
    · exact h
  · exact h
  · split
    · exact outOk_tick (State.refuseSend_memOk _ _ _ h)
    · exact h
theorem execRetryResend_outOk (k : Nat) (h : s.memOk) : OutOk (execRetryResend k s) := by
  unfold execRetryResend
  split
  · exact ite_outOk h h
  · exact ite_outOk h h
  · exact h
  · split
    · exact outOk_tick (State.resendColl_memOk _ _ h)
    · exact h
theorem execDoneMsg_outOk (chain : Nat) (x : DoneFrom) (h : s.memOk) : OutOk (execDoneMsg chain x s) := by
  unfold execDoneMsg
  dsimp only
  split
  · exact h
  · exact ite_outOk (ite_outOk (outOk_tick (State.memberFails_memOk _ _ h)) (outOk_tick (State.setColl_memOk _ h))) h
theorem execStall_outOk (chain : Nat) (h : s.memOk) : OutOk (execStall chain s) := by
  unfold execStall
  split
  · exact h
  · exact ite_outOk h h
theorem execMemberFailed_outOk (chain rank : Nat) (h : s.memOk) : OutOk (execMemberFailed chain rank s) := by
  unfold execMemberFailed
  split
  · exact h
  · exact ite_outOk (outOk_tick (State.memberFails_memOk _ _ h)) h
theorem State.replayOne_memOk (ctx : Nat) (x : BenchItem) (rest : List BenchItem) (h : s.memOk) :
    (s.replayOne ctx x rest).memOk := by
  have h0 := State.setBench_memOk ctx rest h
  unfold State.replayOne
  extract_lets s0
  split
  · split
    · exact State.ite_memOk (State.setBench_memOk _ _ (State.unmapped_memOk _ _ h)) (State.unmapped_memOk _ _ h)
    · exact State.ite_memOk (State.gatherAll_memOk _ h)
        (State.wroteHome_memOk _ _ _ _ (State.writeBytes_memOk _ _ (State.cutWs_memOk _ _ _ h0)))
    all_goals exact h
  · cases hc : s0.collTake _ with
    | none => exact h
    | some u => exact State.collTake_memOk h0 hc
theorem execBenchReplay_outOk (ctx : Nat) (h : s.memOk) : OutOk (execBenchReplay ctx s) := by
  unfold execBenchReplay
  refine ite_outOk ?_ h
  split
  · exact h
  · exact outOk_tick (State.replayOne_memOk _ _ _ h)

/-! ## Errors and units -/

theorem State.endEcc_memOk (task team reason : Nat) (h : s.memOk) : (s.endEcc task team reason).memOk :=
  State.endTaskLate_memOk _ _ _ _ h
theorem State.retirePages_memOk (p : Nat → Bool) (reason : Nat) (h : s.memOk) : (s.retirePages p reason).memOk :=
  foldl_memOk (fun _ _ hu => State.shootLeaf_memOk _ (State.writePte_memOk _ _ hu)) _ _
    (foldl_memOk (fun _ _ hu => State.setLeaseEntry_memOk _ _ hu) _ _
      (foldl_memOk (fun _ _ hu => State.endEcc_memOk _ _ _ hu) _ _ h))
theorem State.retireFrame_memOk (pa : Nat) (h : s.memOk) : (s.retireFrame pa).memOk := by
  unfold State.retireFrame
  extract_lets s1
  have h1 : s1.memOk := State.retirePages_memOk _ _ h
  clear_value s1
  exact State.logError_memOk (s := { s1 with retired := _, badLines := _ }) _ h1
theorem State.damageCell_memOk (line : Nat) (h : s.memOk) : (s.damageCell line).memOk :=
  State.retireFrame_memOk _ (foldl_memOk (fun _ _ hu => State.endEcc_memOk _ _ _ hu) _ _ (State.stickCell_memOk _ _ h))
theorem execContribution_outOk (k : Nat) (h : s.memOk) : OutOk (execContribution k s) := by
  unfold execContribution
  split
  · next ht =>
    have h1 := State.takeOrdered_memOk h ht
    refine ite_outOk h ?_
    split
    · next hm => exact outOk_tick (State.homeMerge_memOk h1 hm)
    · exact outOk_settle (State.damageCell_memOk _ h1)
  · next ht => exact outOk_tick (State.takeChunk_memOk _ _ _ (State.takeOrdered_memOk h ht))
  · exact h
theorem execUncorrectableError_outOk (site : ErrSite) (h : s.memOk) : OutOk (execUncorrectableError site s) := by
  unfold execUncorrectableError
  extract_lets p chain ends
  have he : ∀ u, u.memOk → OutOk (.next (ends u).settle.tick) := fun u hu =>
    outOk_settle (State.postEvent_memOk _ (State.endEcc_memOk _ _ _ hu))
  clear_value ends
  split
  · split
    · next l _ =>
      exact ite_outOk h (ite_outOk (he _ h) (outOk_settle (State.retireFrame_memOk (s := { s with l1 := s.l1.erase l }) _ h)))
    · exact h
  · exact ite_outOk (outOk_settle (State.damageCell_memOk _ h)) (ite_outOk h (ite_outOk (he _ h)
      (outOk_settle (State.retireFrame_memOk _ h))))
  · exact ite_outOk (outOk_settle (State.retireFrame_memOk _ h)) (ite_outOk (he _ h) h)
  · split
    · exact ite_outOk (outOk_tick (State.failColl_memOk _ _ h)) h
    · exact h
  · exact he _ h
  · exact he _ h
  all_goals exact ite_outOk (he _ h) (outOk_tick (State.logError_memOk _ h))
theorem execPageRetire_outOk (pa : Nat) (h : s.memOk) : OutOk (execPageRetire pa s) :=
  ite_outOk (outOk_settle (State.retireFrame_memOk _ h)) h
theorem State.setRows_memOk (league cstate : Nat) (clear : Bool) (h : s.memOk) : (s.setRows league cstate clear).memOk :=
  foldl_memOk (fun _ _ hu => State.ite_memOk hu (by exact hu)) _ _ h
theorem State.resetUnit_memOk (league : Nat) (h : s.memOk) : (s.resetUnit league).memOk := h
theorem State.purgeDirectory_memOk (league : Nat) (h : s.memOk) : (s.purgeDirectory league).memOk := h
theorem State.advanceIncarn_memOk (k : Nat) (h : s.memOk) : (s.advanceIncarn k).memOk := State.memOk_of h rfl rfl
theorem State.stickCells_memOk {α : Type} (line : α → Nat) (cls : α → Cls) (xs : List α) (h : s.memOk) :
    (xs.foldl (fun u x => u.stickCell (line x) (cls x)) s).memOk :=
  foldl_memOk (fun _ _ hu => State.stickCell_memOk _ _ hu) _ _ h
theorem State.membersFail_memOk (rank : Coll → Nat) (cs : List Coll) (h : s.memOk) :
    (cs.foldl (fun u c => u.memberFails c (rank c)) s).memOk :=
  foldl_memOk (fun _ _ hu => State.memberFails_memOk _ _ hu) _ _ h
theorem State.refuseStale_memOk (league : Nat) (h : s.memOk) : (s.refuseStale league).memOk :=
  foldl_memOk (fun _ m hu => by
    split
    · exact State.stickCell_memOk _ _ hu
    · exact State.stickCell_memOk _ _ hu
    · exact State.stickCell_memOk _ _ hu
    · exact hu) _ _ h
theorem execUnitOutOfService_outOk (league : Nat) (h : s.memOk) : OutOk (execUnitOutOfService league s) := by
  unfold execUnitOutOfService
  exact ite_outOk h (ite_outOk (outOk_tick (State.setRows_memOk _ _ _ h)) (ite_outOk h
    (ite_outOk (outOk_tick (State.resetUnit_memOk _ (State.purgeDirectory_memOk _ h)))
      (outOk_tick (State.gatherAll_memOk _ (State.emitBowls_memOk _ h))))))
theorem execUnitRejoin_outOk (league : Nat) (h : s.memOk) : OutOk (execUnitRejoin league s) := by
  unfold execUnitRejoin
  refine ite_outOk h ?_
  extract_lets s0 s1 s2
  have h0 : s0.memOk := State.advanceIncarn_memOk _ (State.advanceIncarn_memOk _ h)
  clear_value s0
  have h2 : s2.memOk := State.setRows_memOk _ _ _ (State.refuseStale_memOk _ (State.resetUnit_memOk _
    (State.purgeDirectory_memOk _ (s := s1) h0)))
  exact outOk_tick (State.membersFail_memOk _ _ h2)
theorem execUnitLoss_outOk (league : Nat) (h : s.memOk) : OutOk (execUnitLoss league s) := by
  unfold execUnitLoss
  refine ite_outOk h ?_
  extract_lets s1 hit s2 s3 lost gone s4 s5 s6
  have h3 : s3.memOk := State.retirePages_memOk _ _ (foldl_memOk (fun _ _ hu => State.endEcc_memOk _ _ _ hu) _ _
    (State.setRows_memOk _ _ _ h))
  clear_value s3
  have h5 : s5.memOk := State.stickCells_memOk _ _ _ (s := s4) h3
  have h6 : s6.memOk := State.logError_memOk _ (State.advanceIncarn_memOk _ (State.resetUnit_memOk _ h5))
  exact outOk_settle (State.membersFail_memOk _ _ h6)

/-! ## Requests to the management core -/

theorem execMgmtReply_outOk (k : Nat) (h : s.memOk) : OutOk (execMgmtReply k s) := by
  unfold execMgmtReply
  split
  · extract_lets s1
    have h1 : s1.memOk := h
    clear_value s1
    refine outOk_tick ?_
    split
    · exact h1
    · split
      · exact h1
      · exact State.settle_memOk (State.modTeam_memOk _ _ _ (foldl_memOk (fun _ _ hu => State.modThread_memOk _ _ hu) _ _ h1))
  · exact h
theorem State.takeRequest_memOk {k : Nat} {p : BitVec 8 → Bool} {q : MgmtReq} {u : State} (h : s.memOk)
    (ht : s.takeRequest k p = some (q, u)) : u.memOk := by
  unfold State.takeRequest at ht
  split at ht
  · split at ht <;> cases ht
    exact h
  · cases ht
theorem State.answer_memOk (q : MgmtReq) (w : Word) (h : s.memOk) : (s.answer q w).memOk := h
theorem execVersion_outOk (k : Nat) (h : s.memOk) : OutOk (execVersion k s) := by
  unfold execVersion
  split
  · next ht => exact outOk_tick (State.answer_memOk _ _ (State.takeRequest_memOk h ht))
  · exact h
theorem State.writeSeed_memOk (v : BitVec 64) (h : s.memOk) : (s.writeSeed v).memOk := h
theorem execSetseed_outOk (k : Nat) (h : s.memOk) : OutOk (execSetseed k s) := by
  unfold execSetseed
  split
  · next ht => exact outOk_tick (State.answer_memOk _ _ (State.writeSeed_memOk _ (State.takeRequest_memOk h ht)))
  · exact h
theorem execChainq_outOk (k : Nat) (h : s.memOk) : OutOk (execChainq k s) := by
  unfold execChainq
  split
  · next ht => exact outOk_tick (State.answer_memOk _ _ (State.takeRequest_memOk h ht))
  · exact h
theorem execLeaseq_outOk (k : Nat) (h : s.memOk) : OutOk (execLeaseq k s) := by
  unfold execLeaseq
  split
  · next q s1 ht =>
    have ha : ∀ w, OutOk (.next (s1.answer q w).tick) := fun _ =>
      outOk_tick (State.answer_memOk _ _ (State.takeRequest_memOk h ht))
    split
    · exact ha _
    · refine ite_outOk (ha _) ?_
      split
      · exact ha _
      · exact ha _
      · exact ha _
      · trivial
  · exact h
theorem execNotify_outOk (k : Nat) (h : s.memOk) : OutOk (execNotify k s) := by
  unfold execNotify
  split
  · next ht => exact outOk_tick (State.postEvent_memOk _ (State.takeRequest_memOk h ht))
  · exact h
theorem execUnservedMgmtCode_outOk (k : Nat) (h : s.memOk) : OutOk (execUnservedMgmtCode k s) := by
  unfold execUnservedMgmtCode
  split
  · next ht => exact outOk_tick (State.answer_memOk _ _ (State.takeRequest_memOk h ht))
  · exact h

/-! ## The register window and firmware -/

theorem State.writeDuty_memOk (v : BitVec 64) (h : s.memOk) : (s.writeDuty v).memOk :=
  State.ite_memOk h (State.ite_memOk h (State.setWindow_memOk _ _ h))
theorem State.writePodid_memOk (v : BitVec 64) (h : s.memOk) : (s.writePodid v).memOk :=
  State.ite_memOk h (State.memOk_of (State.setWindow_memOk 0x38 (BitVec.ofNat 64 (bitsNat v 0 10)) h) rfl rfl)
theorem State.writeEvqbase_memOk (v : BitVec 64) (h : s.memOk) : (s.writeEvqbase v).memOk := by
  unfold State.writeEvqbase
  extract_lets v' s1 replies
  have h1 : s1.memOk := State.setWindow_memOk _ _ h
  clear_value s1
  exact State.ite_memOk h1 (State.memOk_of (State.setWindow_memOk 0x68 (s1.windowReg 0x60) h1) rfl rfl)
theorem State.writeEvqhead_memOk (v : BitVec 64) (h : s.memOk) : (s.writeEvqhead v).memOk :=
  State.drainEvents_memOk _ (State.setWindow_memOk _ _ h)
theorem State.writePlim_memOk (v : BitVec 64) (h : s.memOk) : (s.writePlim v).memOk :=
  State.ite_memOk (State.setWindow_memOk _ _ h) h
theorem State.setFirmware_memOk (f : Firmware) (h : s.memOk) : (s.setFirmware f).memOk := State.memOk_of h rfl rfl
theorem State.fwOpen_memOk (v : BitVec 64) (h : s.memOk) : (s.fwOpen v).memOk := State.ite_memOk h h
theorem State.fwPiece_memOk (v : BitVec 64) (h : s.memOk) : (s.fwPiece v).memOk := State.ite_memOk h h
theorem State.fwBegin_memOk (h : s.memOk) : s.fwBegin.memOk := State.ite_memOk (State.setFirmware_memOk _ h) h
theorem State.fwFinish_memOk (h : s.memOk) : s.fwFinish.memOk := by
  unfold State.fwFinish
  extract_lets f whole f' s1
  have h1 : s1.memOk := State.setFirmware_memOk _ h
  clear_value s1
  exact State.ite_memOk h (State.ite_memOk h1 h1)
theorem State.writeFwctl_memOk (v : BitVec 64) (h : s.memOk) : (s.writeFwctl v).memOk := by
  have h1 := State.setFirmware_memOk { s.firmware with control := v } h
  exact State.ite_memOk (State.fwOpen_memOk _ h1) (State.ite_memOk (State.fwBegin_memOk h1) (State.fwPiece_memOk _ h1))
theorem execFwOpen_outOk (v : BitVec 64) (h : s.memOk) : OutOk (execFwOpen v s) :=
  ite_outOk (outOk_tick (State.writeFwctl_memOk _ h)) h
theorem execFwPiece_outOk (v : BitVec 64) (h : s.memOk) : OutOk (execFwPiece v s) :=
  ite_outOk (outOk_tick (State.writeFwctl_memOk _ h)) h
theorem execFwCommit_outOk (v : BitVec 64) (h : s.memOk) : OutOk (execFwCommit v s) :=
  ite_outOk (outOk_tick (State.fwFinish_memOk h)) (ite_outOk (outOk_tick (State.writeFwctl_memOk _ h)) h)

/-! ## Commands of the host -/

theorem State.setMstat_memOk (lo n v : Nat) (h : s.memOk) : (s.setMstat lo n v).memOk := State.setWindow_memOk _ _ h
/-- A command keeps the form if what it does keeps it. -/
theorem mcmd_memOk {opc : Nat} {duty : State → BitVec 512 → Bool} {f : State → BitVec 512 → State × Option Nat} {v : BitVec 64}
    (h : s.memOk) (hf : ∀ u b, u.memOk → (f u b).1.memOk) : (mcmd opc duty f v s).memOk := by
  unfold mcmd
  extract_lets buf s1
  have h2 : (f (s1.setMstat 16 1 0) buf).1.memOk := hf _ _ (State.setMstat_memOk _ _ _ (State.setMstat_memOk _ _ _ h))
  refine State.ite_memOk (State.setMstat_memOk _ _ _ h) (State.ite_memOk (State.setMstat_memOk _ _ _ h)
    (State.ite_memOk (State.setMstat_memOk _ _ _ (State.setMstat_memOk _ _ _ h)) ?_))
  split
  next hx =>
    rw [hx] at h2
    split
    · exact State.setMstat_memOk _ _ _ h2
    · exact State.memOk_of (State.setMstat_memOk 0 1 1 h2) rfl rfl
theorem runMcmd_outOk {opc : Nat} {duty : State → BitVec 512 → Bool} {f : State → BitVec 512 → State × Option Nat} {v : BitVec 64}
    (h : s.memOk) (hf : ∀ u b, u.memOk → (f u b).1.memOk) : OutOk (runMcmd opc duty f v s) :=
  ite_outOk (outOk_settle (mcmd_memOk h hf)) h

theorem cmdBindw_memOk (v : BitVec 64) (b : BitVec 512) (h : s.memOk) : (cmdBindw v s b).1.memOk := State.bindCommand_memOk _ _ h
theorem cmdRemapw_memOk (v : BitVec 64) (b : BitVec 512) (h : s.memOk) : (cmdRemapw v s b).1.memOk := State.writeRow_memOk _ _ _ h
theorem cmdChainw_memOk (v : BitVec 64) (b : BitVec 512) (h : s.memOk) : (cmdChainw v s b).1.memOk := State.writeChain_memOk _ _ h
theorem cmdXlshoot_memOk (b : BitVec 512) (h : s.memOk) : (cmdXlshoot s b).1.memOk := ite_fst_memOk h h
theorem cmdClasschg_memOk (b : BitVec 512) (h : s.memOk) : (cmdClasschg s b).1.memOk := ite_fst_memOk h h
theorem cmdMigdone_memOk (b : BitVec 512) (h : s.memOk) : (cmdMigdone s b).1.memOk := by
  unfold cmdMigdone
  split
  · exact h
  · exact ite_fst_memOk h (State.wakeHeld_memOk _ _ h)
theorem cmdMemfail_memOk (b : BitVec 512) (h : s.memOk) : (cmdMemfail s b).1.memOk := by
  unfold cmdMemfail
  dsimp only
  split
  · exact h
  · exact foldl_memOk (fun _ _ hu => State.memberFails_memOk _ _ hu) _ _ h
theorem State.putWords_memOk (ws : List (Nat × Nat)) (h : s.memOk) : (s.putWords ws).memOk :=
  foldl_memOk (fun _ _ hu => State.snoopHost_memOk _ _ (State.notify_memOk _ _ _ _ hu)) _ _
    (foldl_memOk (fun _ _ hu => State.leaseWritten_memOk _ _ _ hu) _ _
      (State.tablesWritten_memOk _ (foldl_memOk (fun _ _ hu => State.writeBytes_memOk _ _ hu) _ _ h)))
theorem cmdPwrite_memOk (b : BitVec 512) (h : s.memOk) : (cmdPwrite s b).1.memOk := by
  unfold cmdPwrite
  extract_lets a n ws finish s1
  have hf : ∀ u, u.memOk → (finish u).1.memOk := fun _ hu => ite_fst_memOk hu hu
  have h1 : s1.memOk := State.putWords_memOk _ h
  clear_value s1
  exact ite_fst_memOk (hf _ h) (ite_fst_memOk h (ite_fst_memOk (State.gatherAll_memOk _ h) (ite_fst_memOk h (hf _ h1))))
theorem State.putCopy_memOk (src dst n : Nat) (h : s.memOk) : (s.putCopy src dst n).memOk := by
  have hd := State.dropSpan_memOk { space := .dev, base := dst, size := n, cls := .rc } h
  exact State.takeFrames_memOk _ _ (foldl_memOk (fun _ _ hu => State.snoopHost_memOk _ _ hu) _ _
    ⟨Memory.wf_copyRange _ _ _ hd.1, hd.2⟩)
theorem cmdPcopy_memOk (b : BitVec 512) (h : s.memOk) : (cmdPcopy s b).1.memOk := by
  have hp := State.putCopy_memOk (bitsNat b 0 64) (bitsNat b 64 64) (bitsNat b 128 64) h
  unfold cmdPcopy
  refine ite_fst_memOk (ite_fst_memOk h h) (ite_fst_memOk h (ite_fst_memOk ?_ (State.gatherAll_memOk _ h)))
  exact ite_fst_memOk (State.memOk_of hp rfl rfl) (State.memOk_of hp rfl rfl)
theorem cmdLeasegr_memOk (b : BitVec 512) (h : s.memOk) : (cmdLeasegr s b).1.memOk := by
  unfold cmdLeasegr
  extract_lets lease
  split
  · exact State.grantLease_memOk _ h
  · exact ite_fst_memOk h (State.revokeLease_memOk _ _ h)
  · exact h
theorem cmdBkres_memOk (b : BitVec 512) (h : s.memOk) : (cmdBkres s b).1.memOk := by
  unfold cmdBkres
  split
  · exact h
  · exact ite_fst_memOk h h
theorem execMcmdUnassignedOpcode_outOk (v : BitVec 64) (h : s.memOk) : OutOk (execMcmdUnassignedOpcode v s) :=
  ite_outOk h (outOk_tick (mcmd_memOk h fun _ _ hu => hu))
theorem State.commandStep_memOk (h : s.memOk) : s.commandStep.memOk := by
  unfold State.commandStep
  split
  · exact h
  · next v b _ =>
    extract_lets go
    have hg : ∀ f, (f s b).1.memOk → (go f).memOk := fun f hf => by
      dsimp only [go]
      split
      · next hx => rw [hx] at hf; exact State.endCommand_memOk _ hf
      · next hx => rw [hx] at hf; exact hf
    clear_value go
    split
    · exact hg _ (cmdPwrite_memOk _ h)
    · exact hg _ (cmdPcopy_memOk _ h)
    · exact h
theorem State.plainWrite_memOk (off : Nat) (v : BitVec 64) (h : s.memOk) : (s.plainWrite off v).memOk :=
  State.ite_memOk h (State.ite_memOk (State.setWindow_memOk _ _ h) (State.ite_memOk h h))
theorem execRegisterWrite_outOk (off : BitVec 16) (v : BitVec 64) (h : s.memOk) : OutOk (execRegisterWrite off v s) := by
  unfold execRegisterWrite
  split
  · exact outOk_tick (State.writeSeed_memOk _ h)
  · exact outOk_tick (State.writeDuty_memOk _ h)
  · exact outOk_tick (State.writePodid_memOk _ h)
  · exact outOk_tick (State.ringDoorbell_memOk _ h)
  · split
    · exact runMcmd_outOk h fun _ b hu => cmdBindw_memOk _ b hu
    · exact runMcmd_outOk h fun _ b hu => cmdRemapw_memOk _ b hu
    · exact runMcmd_outOk h fun _ b hu => cmdChainw_memOk _ b hu
    · exact runMcmd_outOk h fun _ b hu => cmdXlshoot_memOk b hu
    · exact runMcmd_outOk h fun _ b hu => cmdClasschg_memOk b hu
    · exact runMcmd_outOk h fun _ b hu => cmdMigdone_memOk b hu
    · exact runMcmd_outOk h fun _ b hu => cmdMemfail_memOk b hu
    · exact runMcmd_outOk h fun _ b hu => cmdPwrite_memOk b hu
    · exact runMcmd_outOk h fun _ b hu => cmdPcopy_memOk b hu
    · exact runMcmd_outOk h fun _ b hu => cmdLeasegr_memOk b hu
    · exact runMcmd_outOk h fun _ b hu => cmdBkres_memOk b hu
    · exact execMcmdUnassignedOpcode_outOk _ h
  · exact outOk_tick (State.writeEvqbase_memOk _ h)
  · exact outOk_tick (State.writeEvqhead_memOk _ h)
  · exact outOk_tick (State.writePlim_memOk _ h)
  · exact outOk_tick (State.writeFwctl_memOk _ h)
  · exact outOk_tick (State.plainWrite_memOk _ _ h)

/-! ## Reset, power, links and security -/

/-- A reset empties device memory and leaves the host's alone. -/
theorem State.lose_memOk (h : s.memOk) : s.lose.memOk := ⟨rfl, h.2⟩
theorem execPowerGood_outOk (h : s.memOk) : OutOk (execPowerGood s) := by
  unfold execPowerGood
  split
  · exact h
  · exact ite_outOk h h
  all_goals exact h
theorem execBootDone_outOk (h : s.memOk) : OutOk (execBootDone s) := by
  unfold execBootDone
  split
  · exact outOk_tick ⟨rfl, h.2⟩
  all_goals exact h
theorem execHardwareFaultHalt_outOk (cause : BitVec 512) (h : s.memOk) : OutOk (execHardwareFaultHalt cause s) := by
  unfold execHardwareFaultHalt
  split <;> exact h
theorem State.portDown_memOk (port : Nat) (h : s.memOk) : (s.portDown port).memOk := by
  have h1 := State.logError_memOk (s := { s with ports := s.ports.filter (· != port) }) (Config.errorEntry (s.key port)) h
  refine State.ite_memOk (foldl_memOk (fun u c hu => ?_) _ _ h1) h1
  split
  · exact hu
  · exact State.ite_memOk hu (State.memberFails_memOk _ _ hu)
theorem State.joinPod_memOk (h : s.memOk) : s.joinPod.memOk :=
  State.ite_memOk h (State.memOk_of (State.advanceIncarn_memOk 64 h) rfl rfl)
theorem execPortTraining_outOk (port : Fin 8) (ok : Bool) (h : s.memOk) : OutOk (execPortTraining port ok s) := by
  unfold execPortTraining
  extract_lets s1
  have h1 : s1.memOk := h
  clear_value s1
  exact ite_outOk (ite_outOk (outOk_tick (State.memOk_of (State.joinPod_memOk h1) rfl rfl))
    (outOk_tick (State.portDown_memOk _ h1))) h
theorem execPortLoss_outOk (port : Fin 8) (h : s.memOk) : OutOk (execPortLoss port s) :=
  ite_outOk (outOk_tick (State.portDown_memOk _ h)) h
theorem State.spdm_outOk (code v : Nat) (h : s.memOk) : OutOk (s.spdm code v) := ite_outOk h h
theorem State.spdmSigned_outOk (code : Nat) (h : s.memOk) : OutOk (s.spdmSigned code) := by
  unfold State.spdmSigned
  split <;> exact State.spdm_outOk _ _ h
theorem execGetCertificate_outOk (slot : Nat) (h : s.memOk) : OutOk (execGetCertificate slot s) :=
  ite_outOk (State.spdmSigned_outOk _ h) (State.spdm_outOk _ _ h)
theorem execGetMeasurements_outOk (index : Nat) (h : s.memOk) : OutOk (execGetMeasurements index s) := by
  unfold execGetMeasurements
  split
  · exact ite_outOk h h
  · exact State.spdm_outOk _ _ h
theorem execIdeKeyManagement_outOk (h : s.memOk) : OutOk (execIdeKeyManagement s) :=
  State.spdm_outOk (s := { s with ide := _ }) _ _ h

/-! ## The clock -/

theorem State.withAgenda_memOk (es : List Instr) (h : s.memOk) : ({ s with agenda := es } : State).memOk := h
theorem State.newClock_memOk (h : s.memOk) : s.newClock.memOk := by
  unfold State.newClock
  extract_lets s1 s2 s3 s4
  have h1 : s1.memOk := State.settle_memOk (State.postFaults_memOk h)
  clear_value s1
  have h2 : s2.memOk := State.evictDue_memOk (s := { s1 with clk := _, teams := _ }) h1
  clear_value s2
  have h3 : s3.memOk := State.commandStep_memOk (s := { s2 with replicas := _ }) h2
  clear_value s3
  have h4 : s4.memOk := State.memOk_of h3 rfl rfl
  clear_value s4
  exact State.tick_memOk (State.withAgenda_memOk _ h4)

/-! ## Every instruction and event, and the step -/

theorem exec_outOk (i : Instr) (h : s.memOk) : OutOk (exec i s) := by
  unfold exec
  cases i with
  | iadd _ _ | isub _ _ | imul _ _ | imulh _ _ | idiv _ _ | irem _ _ | imin _ _ | imax _ _ | andb _ _ | orb _ _
  | xorb _ _ | andn _ _ =>
    dsimp only
    exact runInt2_outOk h
  | imad _ _ | bfi _ _ | mov _ _ | lea _ _ | fadd _ _ | fsub _ _ | fmul _ _ | ffma _ _ | fmin _ _ | fmax _ _
  | fabs _ _ | fneg _ _ | fclass _ _ | frint _ _ | fldexp _ _ | fcopysign _ _ | fdiv _ _ | cvt _ _ | cvtq _ _
  | cvtx _ _ =>
    dsimp only
    exact runAlu_outOk h
  | iabs _ _ | ineg _ _ | popc _ _ | clz _ _ | ctz _ _ | brev _ _ | notb _ _ =>
    dsimp only
    exact runInt1_outOk h
  | shl _ _ | shr _ _ | sar _ _ | rotl _ _ | rotr _ _ | bfx _ _ =>
    dsimp only
    exact runShift_outOk h
  | sel _ _ | rand _ _ | vote _ _ | matchLanes _ _ | yield _ | nop _ | rep _ _ =>
    dsimp only
    exact run_outOk h fun _ _ => by exact h
  | icmp _ _ | fcmp _ _ =>
    dsimp only
    exact runCmp_outOk h
  | pand _ _ | por _ _ | pxor _ _ | pnot _ _ =>
    dsimp only
    exact runPred_outOk h
  | fexp _ _ | fexp2 _ _ | flog2 _ _ | frcp _ _ | frsq _ _ | fsqrt _ _ | fsin _ _ | fcos _ _ | ftanh _ _ =>
    dsimp only
    exact runSpecial_outOk h
  | perm _ _ | bcast _ _ | shup _ _ | shdn _ _ =>
    dsimp only
    exact runMove_outOk h
  | nbrl _ _ | nbrr _ _ =>
    dsimp only
    exact runExchange_outOk h
  | ld g o => exact execLd_outOk g o h
  | st g o => exact execSt_outOk g o h
  | lds g o => exact execLds_outOk g o h
  | sts g o => exact execSts_outOk g o h
  | stPass g o => exact execStPass_outOk g o h
  | atom _ _ | cas _ _ =>
    dsimp only
    exact atomLanes_outOk h
  | aacc g o => exact execAacc_outOk g o h
  | ldacc g o => exact execLdacc_outOk g o h
  | fence g o => exact execFence_outOk g o h
  | cpyGs g o => exact execCpyGs_outOk g o h
  | cpySg g o => exact execCpySg_outOk g o h
  | cpyGg g o => exact execCpyGg_outOk g o h
  | waitall g o => exact execWaitall_outOk g o h
  | waitany g o => exact execWaitany_outOk g o h
  | tagff g o =>
    dsimp only
    exact run_outOk h fun _ _ => putTagNo_memOk _ _ _ h
  | tagclr g o => exact execTagclr_outOk g o h
  | recd g o => exact execRecd_outOk g o h
  | recq g o => exact execRecq_outOk g o h
  | pref g o => exact execPref_outOk g o h
  | flush g o => exact execFlush_outOk g o h
  | inv g o => exact execInv_outOk g o h
  | lzero _ _ | lscale _ _ | lnorm _ _ | lrnd _ _ | lquo _ _ | mrnd _ _ | mquo _ _ =>
    dsimp only
    exact runLanes_outOk h
  | lmov _ _ | lfma _ _ | ladd _ _ | ladda _ _ | lneg _ _ | lxadd _ _ =>
    dsimp only
    exact runLa_outOk h
  | lload g o =>
    dsimp only
    exact runFill_outOk h (fun _ _ _ _ hu => State.modThread_memOk _ _ hu) fun _ _ _ hu => State.modThread_memOk _ _ hu
  | lstore _ _ | mspill _ _ =>
    dsimp only
    exact runSpill_outOk h
  | mzero g o => exact execMzero_outOk g o h
  | mma _ _ | mmas _ _ | msel _ _ =>
    dsimp only
    exact runMatrix_outOk h
  | maddt g o => exact execMaddt_outOk g o h
  | mfill g o =>
    dsimp only
    exact runFill_outOk h (fun _ _ _ _ hu => State.putRow_memOk _ _ _ _ hu) fun _ _ _ hu => State.putRow_memOk _ _ _ _ hu
  | bra _ _ | jmpi _ _ | call _ _ _ | calli _ _ _ | ret _ _ =>
    dsimp only
    exact runJump_outOk h
  | jtbl g o => exact execJtbl_outOk g o h
  | mark off => exact execMark_outOk off h
  | join => exact execJoin_outOk h
  | exit g => exact execExit_outOk g h
  | trap g n => exact execTrap_outOk g n h
  | bkpt g n => exact execBkpt_outOk g n h
  | tret => exact execTret_outOk h
  | bar _ | bara _ =>
    dsimp only
    exact runArrive_outOk h
  | barw sc => exact execBarw_outOk sc h
  | innend g => exact execInnend_outOk g h
  | vshrink g n => exact execVshrink_outOk g n h
  | vgrow g n => exact execVgrow_outOk g n h
  | lnch g o => exact execLnch_outOk g o h
  | mgmt g o => exact execMgmt_outOk g o h
  | ctxrd g o => exact execCtxrd_outOk g o h
  | ctxwr g o => exact execCtxwr_outOk g o h
  | mfs g o => exact execMfs_outOk g o h
  | mts g o => exact execMts_outOk g o h
  | issueSlotService core squad slot => exact execIssueSlotService_outOk core squad slot h
  | aging core squad => exact execAging_outOk core squad h
  | watchdog core squad => exact execWatchdog_outOk core squad h
  | loadCompletion k => exact execLoadCompletion_outOk k h
  | copyCompletion k => exact execCopyCompletion_outOk k h
  | mgmtReply k => exact execMgmtReply_outOk k h
  | version k => exact execVersion_outOk k h
  | setseed k => exact execSetseed_outOk k h
  | chainq k => exact execChainq_outOk k h
  | leaseq k => exact execLeaseq_outOk k h
  | notify k => exact execNotify_outOk k h
  | unservedMgmtCode k => exact execUnservedMgmtCode_outOk k h
  | commit task => exact execCommit_outOk task h
  | doorbell v =>
    dsimp only
    exact outOk_tick (State.ringDoorbell_memOk v h)
  | dequeue chain => exact execDequeue_outOk chain h
  | teamStart core team => exact execTeamStart_outOk core team h
  | coreClean core => exact execCoreClean_outOk core h
  | bind slot r =>
    dsimp only
    exact mgmtSched_outOk h (State.bind_memOk slot r h)
  | revoke slot =>
    dsimp only
    exact mgmtSched_outOk h (State.revoke_memOk slot h)
  | suspend slot =>
    dsimp only
    exact mgmtSched_outOk h (State.suspend_memOk slot h)
  | resume slot =>
    dsimp only
    exact mgmtSched_outOk h (State.resume_memOk slot h)
  | drainComplete slot => exact execDrainComplete_outOk slot h
  | remapRowWrite die core row =>
    dsimp only
    exact mgmtSched_outOk h (State.writeRow_memOk die core row h)
  | teamSwitch core => exact execTeamSwitch_outOk core h
  | preemption core => exact execPreemption_outOk core h
  | teamRestore core team => exact execTeamRestore_outOk core team h
  | quantumExpiry core => exact execQuantumExpiry_outOk core h
  | contribution k => exact execContribution_outOk k h
  | reg k => exact execReg_outOk k h
  | regack k => exact execRegack_outOk k h
  | collect k => exact execCollect_outOk k h
  | surr k => exact execSurr_outOk k h
  | surrE k => exact execSurrE_outOk k h
  | noneMsg k => exact execNoneMsg_outOk k h
  | partialEviction slice line => exact execPartialEviction_outOk slice line h
  | gatherStart line => exact execGatherStart_outOk line h
  | bowlContribution k => exact execBowlContribution_outOk k h
  | bowlEmission k => exact execBowlEmission_outOk k h
  | linkReplay k lost => exact execLinkReplay_outOk k lost h
  | passArrival k => exact execPassArrival_outOk k h
  | passOutcome k => exact execPassOutcome_outOk k h
  | notificationToken k => exact execNotificationToken_outOk k h
  | directoryProbe k => exact execDirectoryProbe_outOk k h
  | probeAck k => exact execProbeAck_outOk k h
  | pageWalk core ctx va => exact execPageWalk_outOk core ctx va h
  | remoteWrite q => exact execRemoteWrite_outOk q h
  | remoteWriteAck k => exact execRemoteWriteAck_outOk k h
  | remoteRequest q => exact execRemoteRequest_outOk q h
  | refusal k why => exact execRefusal_outOk k why h
  | retryResend k => exact execRetryResend_outOk k h
  | hostSnoop pa data => exact execHostSnoop_outOk pa data h
  | hostStore pa data => exact execHostStore_outOk pa data h
  | classChange ctx va cls => exact execClassChange_outOk ctx va cls h
  | translationShootdown ctx va len => exact execTranslationShootdown_outOk ctx va len h
  | migration ctx va pa => exact execMigration_outOk ctx va pa h
  | leaseGrant lease => exact execLeaseGrant_outOk lease h
  | leaseRevocation lease ranges => exact execLeaseRevocation_outOk lease ranges h
  | collectiveDequeue chain => exact execCollectiveDequeue_outOk chain h
  | send chain => exact execSend_outOk chain h
  | recv chain => exact execRecv_outOk chain h
  | rrs chain => exact execRrs_outOk chain h
  | copyStep chain => exact execCopyStep_outOk chain h
  | waitStep chain => exact execWaitStep_outOk chain h
  | loopb chain => exact execLoopb_outOk chain h
  | loope chain => exact execLoope_outOk chain h
  | endStep chain => exact execEndStep_outOk chain h
  | collectiveMessage m => exact execCollectiveMessage_outOk m h
  | sendAcknowledgement k => exact execSendAcknowledgement_outOk k h
  | doneMsg chain rank => exact execDoneMsg_outOk chain rank h
  | stall chain => exact execStall_outOk chain h
  | memberFailed chain rank => exact execMemberFailed_outOk chain rank h
  | benchReplay ctx => exact execBenchReplay_outOk ctx h
  | correctableError _ | linkTrain _ _ | powerLimitThrottle _ | overtempThrottle =>
    dsimp only
    exact outOk_tick h
  | uncorrectableError site => exact execUncorrectableError_outOk site h
  | pageRetire pa => exact execPageRetire_outOk pa h
  | unitOutOfService league => exact execUnitOutOfService_outOk league h
  | unitRejoin league => exact execUnitRejoin_outOk league h
  | unitLoss league => exact execUnitLoss_outOk league h
  | seed v =>
    dsimp only
    exact outOk_tick (State.writeSeed_memOk v h)
  | duty v =>
    dsimp only
    exact outOk_tick (State.writeDuty_memOk v h)
  | podid v =>
    dsimp only
    exact outOk_tick (State.writePodid_memOk v h)
  | evqbase v =>
    dsimp only
    exact outOk_tick (State.writeEvqbase_memOk v h)
  | evqhead v =>
    dsimp only
    exact outOk_tick (State.writeEvqhead_memOk v h)
  | plim v =>
    dsimp only
    exact outOk_tick (State.writePlim_memOk v h)
  | fwOpen v => exact execFwOpen_outOk v h
  | fwPiece v => exact execFwPiece_outOk v h
  | fwCommit v => exact execFwCommit_outOk v h
  | bindw v =>
    dsimp only
    exact runMcmd_outOk h fun _ b hu => cmdBindw_memOk v b hu
  | remapw v =>
    dsimp only
    exact runMcmd_outOk h fun _ b hu => cmdRemapw_memOk v b hu
  | chainw v =>
    dsimp only
    exact runMcmd_outOk h fun _ b hu => cmdChainw_memOk v b hu
  | xlshoot v =>
    dsimp only
    exact runMcmd_outOk h fun _ b hu => cmdXlshoot_memOk b hu
  | classchg v =>
    dsimp only
    exact runMcmd_outOk h fun _ b hu => cmdClasschg_memOk b hu
  | migdone v =>
    dsimp only
    exact runMcmd_outOk h fun _ b hu => cmdMigdone_memOk b hu
  | memfail v =>
    dsimp only
    exact runMcmd_outOk h fun _ b hu => cmdMemfail_memOk b hu
  | pwrite v =>
    dsimp only
    exact runMcmd_outOk h fun _ b hu => cmdPwrite_memOk b hu
  | pcopy v =>
    dsimp only
    exact runMcmd_outOk h fun _ b hu => cmdPcopy_memOk b hu
  | leasegr v =>
    dsimp only
    exact runMcmd_outOk h fun _ b hu => cmdLeasegr_memOk b hu
  | bkres v =>
    dsimp only
    exact runMcmd_outOk h fun _ b hu => cmdBkres_memOk b hu
  | registerWrite off v => exact execRegisterWrite_outOk off v h
  | reset | overtempShutdown | powerLoss =>
    dsimp only
    exact outOk_tick (State.lose_memOk h)
  | powerGood => exact execPowerGood_outOk h
  | bootDone => exact execBootDone_outOk h
  | hardwareFaultHalt cause => exact execHardwareFaultHalt_outOk cause h
  | portTraining port ok => exact execPortTraining_outOk port ok h
  | portLoss port => exact execPortLoss_outOk port h
  | getVersion | getCapabilities | negotiateAlgorithms | finish =>
    dsimp only
    exact State.spdm_outOk _ _ h
  | getDigests | challenge | keyExchange =>
    dsimp only
    exact State.spdmSigned_outOk _ h
  | getCertificate slot => exact execGetCertificate_outOk slot h
  | getMeasurements index => exact execGetMeasurements_outOk index h
  | ideKeyManagement => exact execIdeKeyManagement_outOk h
  | preemptionWatchdog core => exact execPreemptionWatchdog_outOk core h
  | mcmdUnassignedOpcode v => exact execMcmdUnassignedOpcode_outOk v h
  | hostWriteAcknowledgement k => exact execHostWriteAcknowledgement_outOk k h
  | backInvalidationResponse k => exact execBackInvalidationResponse_outOk k h
  | chainDescriptorWrite chain d => exact execChainDescriptorWrite_outOk chain d h
  | homeSliceRequest r k => exact execHomeSliceRequest_outOk r k h

theorem groupDone_outOk {o : Out} (g : Group) (ho : OutOk o) : OutOk (groupDone g o) := by
  cases o with
  | next u => exact State.leaveGroup_memOk g ho
  | fault _ => trivial
  | refused _ => trivial

/-- Where the fetch itself decides the next state, it keeps the form. -/
theorem State.issue_memOk {u : State} (h : s.memOk) (hi : s.issue = .next u) : u.memOk := by
  unfold State.issue at hi
  split at hi
  · cases hi; exact h
  · split at hi
    · cases hi
    · cases hi; exact State.tick_memOk (State.raise_memOk _ _ h)
    · cases hi; exact State.tick_memOk (State.holdThreads_memOk _ _ _ h)
    · cases hi; exact State.ite_memOk (State.stalled_memOk _ _ h) (State.tick_memOk (State.gatherAll_memOk _ h))
    · cases hi; exact State.tick_memOk (State.modTeam_memOk _ _ _ h)
    · cases hi

theorem step_outOk (h : s.memOk) : OutOk (step s) := by
  unfold step
  split
  · split
    · exact groupDone_outOk _ (exec_outOk _ h)
    · next hi => exact State.leaveGroup_memOk _ (State.issue_memOk h hi)
    · trivial
  · split
    · exact exec_outOk _ (State.withAgenda_memOk _ h)
    · exact State.newClock_memOk h

/-- Settles O42: every instruction and event keeps the form, and so do the fetch, the leaving of a group and the clock. -/
theorem memoryStaysCanonical : Obligations.MemoryStaysCanonical := by
  unfold Obligations.MemoryStaysCanonical
  exact fun _ _ h ht => outOk_iff.1 (step_outOk h) _ ht

end Sys2Proof.Machine

/-!
MFS and MTS (O32). What `GroupEffect` says of a whole instruction follows, for an effect on the active lanes or on their
warps, from one lemma each; it remains that the model's value of a special register is the one that R28 gives.
-/
namespace Sys2Proof.Machine

open Sys2Proof

/-! ## The group retires after an effect on its active lanes or on their warps -/

/-- The group of `c` retires after `f` on its active lanes. -/
theorem groupEffect_eachLane {s : State} {c : Ctx} {i : Instr} {gs : Guards} {f : Thread → Thread}
    (ht : ∀ x, (f x).tid = x.tid) (hp : ∀ x, (f x).pc = x.pc) :
    GroupEffect s ((s.eachLane c (c.active gs) f).retire c i Post.none) c (s.follows c i)
      (fun x => if x.tid ∈ (c.active gs).map (·.tid) then f x else x) fun _ w => w := by
  refine groupEffect_retire (fun a => ?_) (fun _ => ⟨rfl, fun _ _ => rfl⟩) (fun x hx => ?_) (fun x => ?_) fun x => ?_
  · simp [Team.modThreads, mapIf]
  · exact if_neg fun ha => hx (Ctx.active_tid ha)
  · split <;> simp [ht]
  · split <;> simp [hp]

/-- The group of `c` retires after `f` on each warp that has an active lane. -/
theorem groupEffect_eachWarp {s : State} {c : Ctx} {i : Instr} {gs : Guards} {f : Nat → Warp → Warp} :
    GroupEffect s ((s.eachWarp c (c.active gs) f).retire c i Post.none) c (s.follows c i) id
      fun k w => if k ∈ c.warps (c.active gs) then f k w else w := by
  have fold := fun a => foldl_modWarp (c.warps (c.active gs)) f a (List.nodup_dedup _)
  refine groupEffect_retire (fun a => ?_) (fun a => (fold a).2) (fun _ _ => rfl) (fun _ => rfl) fun _ => rfl
  conv_lhs => rw [(fold a).1]
  simp

/-- A warp without active lanes has no first active lane. -/
theorem leadOf_eq_none {c : Ctx} {act : List Thread} {k : Nat} (h : k ∉ c.warps act) : leadOf c act k = none := by
  refine List.find?_eq_none.2 fun x hx hk => h ?_
  exact List.mem_dedup.2 (List.mem_map.2 ⟨x, hx, beq_iff_eq.1 hk⟩)

theorem Thread.putSpecial_tid (t : Thread) (r : Special) (v : Word) : (t.putSpecial r v).tid = t.tid := by
  cases r <;> rfl

theorem Thread.putSpecial_pc (t : Thread) (r : Special) (v : Word) : (t.putSpecial r v).pc = t.pc := by
  cases r <;> rfl

/-! ## The ready bits of the tags (R27) -/

/-- The ready bits of the 32 tags from `first`, as a word. -/
def Team.readyWord (tm : Team) (first : Nat) : Nat :=
  ((List.range 32).map fun k => if tm.tagCount (k + first) = 0 then 2 ^ k else 0).sum

theorem sum_bits_lt (p : Nat → Prop) [DecidablePred p] (n : Nat) :
    ((List.range n).map fun k => if p k then 2 ^ k else 0).sum < 2 ^ n := by
  induction n with
  | zero => simp
  | succ n ih =>
    rw [List.range_succ, List.map_append, List.sum_append, Nat.pow_succ]
    have : (if p n then 2 ^ n else 0) ≤ 2 ^ n := by split <;> simp
    simp only [List.map_cons, List.map_nil, List.sum_cons, List.sum_nil]
    omega

theorem Team.readyWord_lt (tm : Team) (first : Nat) : tm.readyWord first < 2 ^ 32 :=
  sum_bits_lt (fun k => tm.tagCount (k + first) = 0) 32

/-- The bits below `m` and the bits from `m` on. -/
theorem sum_bits_add (p : Nat → Prop) [DecidablePred p] (m n : Nat) :
    ((List.range (m + n)).map fun k => if p k then 2 ^ k else 0).sum =
      ((List.range m).map fun k => if p k then 2 ^ k else 0).sum +
        2 ^ m * ((List.range n).map fun k => if p (k + m) then 2 ^ k else 0).sum := by
  have high (k : Nat) : (if p (m + k) then 2 ^ (m + k) else 0) = 2 ^ m * if p (k + m) then 2 ^ k else 0 := by
    rw [mul_ite, mul_zero, ← Nat.pow_add, Nat.add_comm k m]
  rw [List.range_add, List.map_append, List.sum_append, List.map_map, ← List.sum_map_mul_left]
  simp only [Function.comp_def, high]

/-- The bitmap of the 64 tags is two words. -/
theorem Team.readyBits_eq (tm : Team) : tm.readyBits = tm.readyWord 0 + 2 ^ 32 * tm.readyWord 32 := by
  have step (n k : Nat) : (if tm.tagReady k then n + 2 ^ k else n) = n + if tm.tagCount k = 0 then 2 ^ k else 0 := by
    simp only [Team.tagReady, beq_iff_eq]
    split <;> rfl
  simp only [Team.readyBits, step]
  rw [← List.foldl_map (g := (· + ·)), ← List.sum_eq_foldl]
  exact sum_bits_add (fun k => tm.tagCount k = 0) 32 32

/-! ## The value of a special register (R28) -/

/-- The model's value of a special register is the one of R28. -/
theorem specialValue_eq_specialNow (s : State) (c : Ctx) (t : Thread) (r : Special) :
    specialValue s c t r = specialNow s c t r := by
  cases r with
  | lane | wlane | warp | squad | tid | width | vallot | team | club | league | gridsz | seedlo | inning | clklo | clkhi
  | passref => rfl
  | seedhi =>
    have : c.tk.seed.toNat / 2 ^ 32 < 2 ^ 32 := by have := c.tk.seed.isLt; omega
    show (c.tk.seed.toNat >>> 32) % 2 ^ 32 = c.tk.seed.toNat / 2 ^ 32
    rw [Nat.shiftRight_eq_div_pow, Nat.mod_eq_of_lt this]
  | fault i =>
    show (t.fault.toNat >>> (32 * i.val)) % 2 ^ 32 = t.fault.toNat / 2 ^ (32 * i.val) % 2 ^ 32
    rw [Nat.shiftRight_eq_div_pow]
  | tagrdylo =>
    have := c.tm.readyWord_lt 0
    show c.tm.readyBits % 2 ^ 32 = c.tm.readyWord 0
    rw [Team.readyBits_eq]
    omega
  | tagrdyhi =>
    have := c.tm.readyWord_lt 0
    show c.tm.readyBits / 2 ^ 32 = c.tm.readyWord 32
    rw [Team.readyBits_eq]
    omega
  | oobst => show t.oobstWord.toNat = if t.oobst then 1 else 0; unfold Thread.oobstWord; split <;> rfl
  | satst => show t.satstWord.toNat = if t.satst then 1 else 0; unfold Thread.satstWord; split <;> rfl
  | fpst => exact BitVec.toNat_setWidth_of_le (by decide)
  | wdlim =>
    show 2 ^ c.tk.wdlog % 2 ^ 32 = if c.tk.wdlog = 32 then 0 else 2 ^ c.tk.wdlog % 2 ^ 32
    split
    · next h => rw [h, Nat.mod_self]
    · rfl

theorem mfsValue_eq (s : State) (c : Ctx) (o : MfsOp) (t : Thread) :
    mfsValue s c o t = specialNow s c t o.sr + if o.w then 2 ^ 32 * specialNow s c t (Special.highHalf o.sr) else 0 := by
  rw [mfsValue, specialValue_eq_specialNow, specialValue_eq_specialNow]

/-! ## MFS and MTS (R30) -/

section
variable {s : State} {c : Ctx} {g : Guards}

/-- MFS where no earlier release holds it back. -/
theorem exec_mfs_eq {o : MfsOp} (hc : CanIssue s c (.mfs g o) g) (hr : o.sr = .passref → s.releasing c (c.active g) = []) :
    exec (.mfs g o) s = .next ((match o.d with
      | .vec d => s.eachLane c (c.active g) fun t => t.putRegs d.val (pairRegs o.w) (mfsValue s c o t)
      | .sc d => s.eachWarp c (c.active g) fun k w =>
          match leadOf c (c.active g) k with
          | some t => w.putRegs d.val (pairRegs o.w) (mfsValue s c o t)
          | none => w).retire c (.mfs g o) Post.none) := by
  have free : (if o.sr = .passref then s.releasing c (c.active g) else []) = [] := by
    split
    · next h => exact hr h
    · rfl
  show execMfs g o s = _
  rw [execMfs, run_issues hc]
  simp only [free]
  cases o.d <;> rfl

/-- What MFS does to the group, by the class of its destination. -/
theorem mfs_effect {o : MfsOp} (hc : CanIssue s c (.mfs g o) g) (hr : o.sr = .passref → s.releasing c (c.active g) = []) :
    ∃ t, exec (.mfs g o) s = .next t ∧ match o.d with
      | .vec d => GroupEffect s t c (s.follows c (.mfs g o))
          (fun x => if x.tid ∈ (c.active g).map (·.tid) then x.putRegs d.val (pairRegs o.w) (mfsValue s c o x) else x)
          fun _ w => w
      | .sc d => GroupEffect s t c (s.follows c (.mfs g o)) id fun k w =>
          match leadOf c (c.active g) k with
          | some u => w.putRegs d.val (pairRegs o.w) (mfsValue s c o u)
          | none => w := by
  refine ⟨_, exec_mfs_eq hc hr, ?_⟩
  cases o.d with
  | vec d => exact groupEffect_eachLane (fun _ => (Thread.putRegs_tid _ _ _ _).1) fun _ => (Thread.putRegs_tid _ _ _ _).2
  | sc d =>
    convert groupEffect_eachWarp using 3 with k w
    by_cases hk : k ∈ c.warps (c.active g)
    · rw [if_pos hk]
    · rw [if_neg hk, leadOf_eq_none hk]

/-- MTS to passref. -/
theorem exec_mts_passref {o : MtsOp} (hc : CanIssue s c (.mts g o) g) (ho : o.sr = .passref) :
    exec (.mts g o) s = .next ((match (c.active g).getLast? with
      | some x => s.modTeam c.tk.id c.tm.team fun tm =>
          { tm with passref := (c.laneView x).vs o.src + tm.refusedIn s.clk }
      | none => s).retire c (.mts g o) Post.none) := by
  show execMts g o s = _
  rw [execMts, run_issues hc]
  simp only [ho, lastOf]
  cases (c.active g).getLast? <;> rfl

/-- MTS to a register of a thread. -/
theorem exec_mts_thread {o : MtsOp} (hc : CanIssue s c (.mts g o) g) (ho : o.sr ≠ .passref) :
    exec (.mts g o) s = .next ((s.eachLane c (c.active g) fun t =>
      t.putSpecial o.sr ((c.laneView t).vs o.src)).retire c (.mts g o) Post.none) := by
  show execMts g o s = _
  rw [execMts, run_issues hc]
  split
  · next h => exact absurd h ho
  · rfl

end

/-- Settles O32: MFS writes the value of R28, and MTS the defined bits. -/
theorem specialRegisters : Obligations.SpecialRegisters := by
  unfold Obligations.SpecialRegisters
  refine ⟨fun g o s c hc hr => ?_, fun g o s c hc => ⟨fun ho => ?_, fun ho => ?_⟩⟩
  · obtain ⟨t, ht, he⟩ := mfs_effect hc hr
    refine ⟨t, ht, ?_⟩
    simp only [mfsValue_eq] at he
    exact he
  · exact exec_mts_passref hc ho
  · refine ⟨_, exec_mts_thread hc ho, ?_⟩
    exact groupEffect_eachLane (fun _ => Thread.putSpecial_tid _ _ _) fun _ => Thread.putSpecial_pc _ _ _

end Sys2Proof.Machine

/-!
The two ways in which the model writes a rational: a sign with a magnitude, and a natural number shifted by a power of two. The
lemmas here say which rational each stands for, so that the proofs about sums, rounding and conversions (O20, O7, O22, O9) speak
of rationals.
-/
namespace Sys2Proof.Machine

open Sys2Proof

/-! ## Signed magnitudes -/

/-- The rational of a sign and a magnitude. -/
def signedRat (neg : Bool) (q : ℚ) : ℚ := (if neg then -1 else 1) * q

theorem signedRat_true (q : ℚ) : signedRat true q = -q := by simp [signedRat]
theorem signedRat_false (q : ℚ) : signedRat false q = q := by simp [signedRat]

theorem abs_signedRat (neg : Bool) {q : ℚ} (hq : 0 ≤ q) : |signedRat neg q| = q := by
  cases neg <;> simp [signedRat, abs_of_nonneg hq]

/-- The sign of a magnitude that is not 0. -/
theorem signedRat_neg_iff (neg : Bool) {q : ℚ} (hq : 0 < q) : signedRat neg q < 0 ↔ neg = true := by
  cases neg <;> simp [signedRat, hq, hq.le]

theorem cast_signedNat (neg : Bool) (m : Nat) : ((signedNat neg m : Int) : ℚ) = signedRat neg m := by
  cases neg <;> simp [signedNat, signedRat]

theorem natAbs_signedNat (neg : Bool) (m : Nat) : (signedNat neg m).natAbs = m := by
  cases neg <;> simp [signedNat]

/-- A rational is its sign and its magnitude. -/
theorem signedRat_decide_abs (x : ℚ) : signedRat (decide (x < 0)) |x| = x := by
  by_cases h : x < 0
  · simp [h, signedRat_true, abs_of_neg h]
  · simp [h, signedRat_false, abs_of_nonneg (not_lt.1 h)]

theorem signedRat_natAbs (v : Int) : signedRat (decide (v < 0)) v.natAbs = v := by
  simpa [Nat.cast_natAbs] using signedRat_decide_abs (v : ℚ)

theorem signedRat_div (a b : Bool) (p q : ℚ) : signedRat (a != b) (p / q) = signedRat a p / signedRat b q := by
  cases a <;> cases b <;> simp [signedRat, neg_div, div_neg]

theorem signedRat_inj {a b : Bool} {p q : ℚ} (hp : 0 < p) (hq : 0 ≤ q) : signedRat a p = signedRat b q ↔ a = b ∧ p = q := by
  cases a <;> cases b <;> simp [signedRat] <;> linarith

theorem signedNat_eq (neg : Bool) (m : Nat) : signedNat neg m = (if neg then -1 else 1) * (m : Int) := by
  cases neg <;> simp [signedNat]

/-! ## Shifted numbers -/

theorem two_zpow_of_nonneg {k : Int} (h : 0 ≤ k) : (2 : ℚ) ^ k = 2 ^ k.toNat := by
  rw [← zpow_natCast, Int.toNat_of_nonneg h]

theorem two_zpow_of_neg {k : Int} (h : ¬0 ≤ k) : (2 : ℚ) ^ k = (2 ^ (-k).toNat)⁻¹ := by
  rw [← two_zpow_of_nonneg (by omega), ← zpow_neg, neg_neg]

/-- A fraction against a power of two, in natural numbers. -/
theorem shiftedLt_iff {n d : Nat} (hd : 0 < d) (l : Int) :
    (if 0 ≤ l then n < d * 2 ^ l.toNat else n * 2 ^ (-l).toNat < d) ↔ (n : ℚ) / d < 2 ^ l := by
  have hd' : (0 : ℚ) < d := by exact_mod_cast hd
  split
  · next h => rw [two_zpow_of_nonneg h, div_lt_iff₀' hd']; exact_mod_cast Iff.rfl
  · next h =>
    rw [two_zpow_of_neg h, div_lt_iff₀' hd', ← div_eq_mul_inv, lt_div_iff₀ (by positivity)]; exact_mod_cast Iff.rfl

/-- A fraction divided by a power of two, as the model forms it. -/
theorem exists_div_two_zpow (n : Nat) {d : Nat} (k : Int) (hd : 0 < d) :
    ∃ n' d' : Nat, (if 0 ≤ k then n else n * 2 ^ (-k).toNat) = n' ∧ (if 0 ≤ k then d * 2 ^ k.toNat else d) = d' ∧ 0 < d' ∧
      (n' : ℚ) / d' = n / d / 2 ^ k := by
  refine ⟨_, _, rfl, rfl, by split <;> positivity, ?_⟩
  split
  · next h => rw [two_zpow_of_nonneg h]; push_cast; rw [div_div]
  · next h => rw [two_zpow_of_neg h]; push_cast; rw [div_inv_eq_mul]; ring

/-- A number times a power of two over another number, as the model forms it. -/
theorem exists_mul_two_zpow_div {m c : Nat} (k : Int) (hm : 0 < m) (hc : 0 < c) :
    ∃ n d : Nat, (if 0 ≤ k then m * 2 ^ k.toNat else m) = n ∧ (if 0 ≤ k then c else c * 2 ^ (-k).toNat) = d ∧ 0 < n ∧ 0 < d ∧
      (n : ℚ) / d = m * 2 ^ k / c := by
  refine ⟨_, _, rfl, rfl, by split <;> positivity, by split <;> positivity, ?_⟩
  split
  · next h => rw [two_zpow_of_nonneg h]; push_cast; rfl
  · next h => rw [two_zpow_of_neg h]; push_cast; rw [← div_eq_mul_inv, div_div, mul_comm]

/-- Two dyadics are equal, in natural numbers. -/
theorem dyadic_eq_iff (m c : Nat) (j : Int) :
    (if 0 ≤ j then m = c * 2 ^ j.toNat else m * 2 ^ (-j).toNat = c) ↔ (m : ℚ) = c * 2 ^ j := by
  split
  · next h => rw [two_zpow_of_nonneg h]; exact_mod_cast Iff.rfl
  · next h => rw [two_zpow_of_neg h, ← div_eq_mul_inv, eq_div_iff (by positivity)]; exact_mod_cast Iff.rfl

/-- A shift that loses no bit multiplies by the power of two. -/
theorem shift_eq_of_rat_eq {m : Nat} {k j : Int} (h : (m : ℚ) * 2 ^ k = j) :
    ((if 0 ≤ k then m * 2 ^ k.toNat else m / 2 ^ (-k).toNat : Nat) : Int) = j := by
  split
  · next hk =>
    rw [two_zpow_of_nonneg hk] at h
    exact_mod_cast h
  · next hk =>
    rw [two_zpow_of_neg hk, ← div_eq_mul_inv, div_eq_iff (by positivity)] at h
    have hm : (m : Int) = j * 2 ^ (-k).toNat := by exact_mod_cast h
    push_cast
    rw [hm, Int.mul_ediv_cancel _ (by positivity)]

/-! ## Decoded values -/

section
variable (s n : Bool) (m : Nat) (e : Int)

@[simp] theorem Val.isNan_nan : (Val.nan s).isNan = true := rfl
@[simp] theorem Val.isNan_inf : (Val.inf n).isNan = false := rfl
@[simp] theorem Val.isNan_fin : (Val.fin n m e).isNan = false := rfl
@[simp] theorem Val.isSnan_nan : (Val.nan s).isSnan = s := rfl
@[simp] theorem Val.isInf_nan : (Val.nan s).isInf = false := rfl
@[simp] theorem Val.isInf_inf : (Val.inf n).isInf = true := rfl
@[simp] theorem Val.isInf_fin : (Val.fin n m e).isInf = false := rfl
@[simp] theorem Val.isZero_fin : (Val.fin n m e).isZero = (m == 0) := rfl
@[simp] theorem Val.neg_inf : (Val.inf n).neg = n := rfl
@[simp] theorem Val.neg_fin : (Val.fin n m e).neg = n := rfl
@[simp] theorem Val.rat_inf : (Val.inf n).rat = 0 := rfl

theorem Val.rat_fin : (Val.fin n m e).rat = signedRat n (m * 2 ^ e) := by rw [Val.rat, signedRat, mul_assoc]

end

theorem Val.rat_fin_eq_zero_iff {n : Bool} {m : Nat} {e : Int} : (Val.fin n m e).rat = 0 ↔ m = 0 := by
  cases n <;> simp [Val.rat, zpow_ne_zero]

theorem Scale.rat_val_eq_zero_iff {m : Nat} {e : Int} : (Scale.val m e).rat = 0 ↔ m = 0 := by
  simp [Scale.rat, zpow_ne_zero]

end Sys2Proof.Machine

/-!
The sums of long accumulators (O20). A slot is known by its value and its four flags; what a list of terms, or a list of
accumulators, makes of them is written in sums and disjunctions, which do not depend on an order.
-/
namespace Sys2Proof.Machine

open Sys2Proof

/-! ## The value of a slot -/

/-- The value depends on the segments and the carries alone. -/
theorem Acc.value_congr {a b : Acc} (hs : a.seg = b.seg) (hc : a.cy = b.cy) : a.value = b.value := by
  rw [Acc.value, Acc.value, Acc.pattern, Acc.pattern, hs, hc]

theorem cyWeight_zero : cyWeight 0 = 0 := by decide

/-- The value of a slot without carries. -/
theorem Acc.value_of_seg {a : Acc} {v : Int} (hs : a.seg = BitVec.ofInt 640 v) (hc : a.cy = 0) :
    a.value = Int.bmod v (2 ^ 640) := by
  have hp : a.pattern = (BitVec.ofInt 640 v).toNat := by
    rw [Acc.pattern, hs, hc, cyWeight_zero]
    exact Nat.mod_eq_of_lt (BitVec.isLt _)
  rw [Acc.value, hp, BitVec.ofNat_toNat, BitVec.setWidth_eq, BitVec.toInt_ofInt]

section
variable (a : Acc) (v : Int)

@[simp] theorem Acc.seg_withValue : (a.withValue v).seg = BitVec.ofInt 640 v := by rw [Acc.withValue]
@[simp] theorem Acc.cy_withValue : (a.withValue v).cy = 0 := by rw [Acc.withValue]
@[simp] theorem Acc.nan_withValue : (a.withValue v).nan = a.nan := by rw [Acc.withValue]
@[simp] theorem Acc.pinf_withValue : (a.withValue v).pinf = a.pinf := by rw [Acc.withValue]
@[simp] theorem Acc.ninf_withValue : (a.withValue v).ninf = a.ninf := by rw [Acc.withValue]
@[simp] theorem Acc.nzt_withValue : (a.withValue v).nzt = a.nzt := by rw [Acc.withValue]

end

/-- A value lies in the range of R46 already. -/
theorem Acc.value_bmod (a : Acc) : Int.bmod a.value (2 ^ 640) = a.value := by
  rw [Acc.value, BitVec.toInt_eq_toNat_bmod]
  exact Int.bmod_bmod

/-! ## The terms of a sum -/

/-- A term that is a whole number of units is the number that `Val.units` gives (R45). -/
theorem Val.units_eq {n : Bool} {m : Nat} {e k : Int} (h : (Val.fin n m e).rat * 2 ^ (298 : Nat) = k) :
    (Val.fin n m e).units = k := by
  have hm : (m : ℚ) * 2 ^ (e + 298) = (((if n then -1 else 1) * k : Int) : ℚ) := by
    have h2 : (2 : ℚ) ^ (e + 298) = 2 ^ e * 2 ^ (298 : Nat) := by rw [zpow_add₀ two_ne_zero]; rfl
    rw [Int.cast_mul, ← h, h2, Val.rat]
    cases n <;> simp [mul_assoc]
  rw [Val.units, shift_eq_of_rat_eq hm]
  cases n <;> simp

/-- Adding a number adds its units, and sets NZT unless it is −0 (R46). -/
theorem Acc.addTerm_fin (a : Acc) (n : Bool) (m : Nat) (e : Int) :
    a.addTerm (.fin n m e) =
      { a.withValue (a.value + (Val.fin n m e).units) with nzt := a.nzt || !(n && m == 0) } := by
  rw [Acc.addTerm, signedNat_eq, Val.units]
  cases n && m == 0 <;> simp [Acc.withValue]

theorem Acc.value_addTerm_fin (a : Acc) (n : Bool) (m : Nat) (e : Int) :
    (a.addTerm (.fin n m e)).value = Int.bmod (a.value + (Val.fin n m e).units) (2 ^ 640) :=
  Acc.value_of_seg (by simp [Acc.addTerm_fin]) (by simp [Acc.addTerm_fin])

/-- What one term does (R46). -/
theorem accumulated_addTerm (a : Acc) (v : Val) : Accumulated a [v] (a.addTerm v) := by
  cases v with
  | nan q =>
    have hv : (a.addTerm (.nan q)).value = a.value := Acc.value_congr rfl rfl
    refine ⟨hv.trans ?_, by simp [Acc.addTerm]⟩
    simpa [Val.units] using a.value_bmod.symm
  | inf n =>
    have hv : (a.addTerm (.inf n)).value = a.value := by cases n <;> exact Acc.value_congr rfl rfl
    refine ⟨hv.trans ?_, by cases n <;> simp [Acc.addTerm]⟩
    simpa [Val.units] using a.value_bmod.symm
  | fin n m e =>
    refine ⟨(Acc.value_addTerm_fin a n m e).trans (by simp), ?_⟩
    simp [Acc.addTerm_fin, Bool.or_comm]

theorem Accumulated.append {a b r : Acc} {l l' : List Val} (h : Accumulated a l b) (h' : Accumulated b l' r) :
    Accumulated a (l ++ l') r := by
  obtain ⟨hv, hn, hp, hi, hz⟩ := h
  obtain ⟨hv', hn', hp', hi', hz'⟩ := h'
  refine ⟨?_, ?_, ?_, ?_, ?_⟩
  · rw [hv', hv, Int.bmod_add_bmod, List.map_append, List.sum_append, add_assoc]
  · rw [hn', hn, List.any_append, Bool.or_assoc]
  · rw [hp', hp, List.any_append, Bool.or_assoc]
  · rw [hi', hi, List.any_append, Bool.or_assoc]
  · rw [hz', hz, List.any_append, Bool.or_assoc]

/-- What a list of terms does. -/
theorem accumulated_foldl (a : Acc) (l : List Val) : Accumulated a l (l.foldl Acc.addTerm a) := by
  induction l generalizing a with
  | nil => simp [Accumulated, Acc.value_bmod]
  | cons v l ih => exact (accumulated_addTerm a v).append (ih _)

theorem Accumulated.perm {a r r' : Acc} {l l' : List Val} (h : Accumulated a l r) (h' : Accumulated a l' r')
    (hl : l.Perm l') : r.same r' := by
  obtain ⟨hv, hn, hp, hi, hz⟩ := h
  obtain ⟨hv', hn', hp', hi', hz'⟩ := h'
  refine ⟨?_, ?_, ?_, ?_, ?_⟩
  · rw [hv, hv', (hl.map Val.units).sum_eq]
  · rw [hn, hn', hl.any_eq]
  · rw [hp, hp', hl.any_eq]
  · rw [hi, hi', hl.any_eq]
  · rw [hz, hz', hl.any_eq]

/-! ## Combinations -/

theorem Acc.value_combine (a b : Acc) : (a.combine b).value = Int.bmod (a.value + b.value) (2 ^ 640) :=
  Acc.value_of_seg (by simp [Acc.combine]) (by simp [Acc.combine])

/-- `r` is the combination of `a` with the accumulators of `l`. -/
def Combined (a : Acc) (l : List Acc) (r : Acc) : Prop :=
  r.value = Int.bmod (a.value + (l.map Acc.value).sum) (2 ^ 640) ∧ r.nan = (a.nan || l.any Acc.nan) ∧
  r.pinf = (a.pinf || l.any Acc.pinf) ∧ r.ninf = (a.ninf || l.any Acc.ninf) ∧ r.nzt = (a.nzt || l.any Acc.nzt)

theorem combined_foldl (a : Acc) (l : List Acc) : Combined a l (l.foldl Acc.combine a) := by
  induction l generalizing a with
  | nil => simp [Combined, Acc.value_bmod]
  | cons b l ih =>
    obtain ⟨hv, hn, hp, hi, hz⟩ := ih (a.combine b)
    rw [Acc.value_combine, Int.bmod_add_bmod, add_assoc] at hv
    rw [List.foldl_cons]
    refine ⟨by rw [hv, List.map_cons, List.sum_cons], ?_, ?_, ?_, ?_⟩
    · rw [hn, List.any_cons, ← Bool.or_assoc, Acc.combine]
    · rw [hp, List.any_cons, ← Bool.or_assoc, Acc.combine]
    · rw [hi, List.any_cons, ← Bool.or_assoc, Acc.combine]
    · rw [hz, List.any_cons, ← Bool.or_assoc, Acc.combine]

theorem Combined.perm {a r r' : Acc} {l l' : List Acc} (h : Combined a l r) (h' : Combined a l' r') (hl : l.Perm l') :
    r.same r' := by
  obtain ⟨hv, hn, hp, hi, hz⟩ := h
  obtain ⟨hv', hn', hp', hi', hz'⟩ := h'
  refine ⟨?_, ?_, ?_, ?_, ?_⟩
  · rw [hv, hv', (hl.map Acc.value).sum_eq]
  · rw [hn, hn', hl.any_eq]
  · rw [hp, hp', hl.any_eq]
  · rw [hi, hi', hl.any_eq]
  · rw [hz, hz', hl.any_eq]

/-- Terms added after a combination, or to the accumulator that is combined. -/
theorem Accumulated.combine {a b r u : Acc} {l : List Val} (h : Accumulated (a.combine b) l r) (h' : Accumulated b l u) :
    r.same (a.combine u) := by
  obtain ⟨hv, hn, hp, hi, hz⟩ := h
  obtain ⟨hv', hn', hp', hi', hz'⟩ := h'
  refine ⟨?_, ?_, ?_, ?_, ?_⟩
  · rw [hv, Acc.value_combine, Acc.value_combine, hv', Int.bmod_add_bmod, Int.add_bmod_bmod, add_assoc]
  · rw [hn, Acc.combine, Acc.combine, hn', Bool.or_assoc]
  · rw [hp, Acc.combine, Acc.combine, hp', Bool.or_assoc]
  · rw [hi, Acc.combine, Acc.combine, hi', Bool.or_assoc]
  · rw [hz, Acc.combine, Acc.combine, hz', Bool.or_assoc]

/-- Settles O20: value and flags are sums and disjunctions of what is added, modulo 2^640. -/
theorem accumulatorSums : Obligations.AccumulatorSums := by
  unfold Obligations.AccumulatorSums
  refine ⟨fun a n m e k h => ?_, fun _ _ => ⟨rfl, rfl, rfl⟩, fun a b => ?_,
    fun a l l' hl => ?_, fun a l l' hl => ?_, fun a b l => ?_⟩
  · refine ⟨?_, by simp [Acc.addTerm_fin]⟩
    rw [Acc.value_addTerm_fin, Val.units_eq h]
  · exact ⟨Acc.value_combine a b, rfl, rfl, rfl, rfl⟩
  · exact (accumulated_foldl a l).perm (accumulated_foldl a l') hl
  · exact (combined_foldl a l).perm (combined_foldl a l') hl
  · exact (accumulated_foldl (a.combine b) l).combine (accumulated_foldl b l)

end Sys2Proof.Machine

/-!
Rounding (O7). `round` is written on natural numbers, sign and quotient apart; here each of its parts is the function of the
rational that R55 says, so that a result depends on the rational alone and not on the fraction that stands for it.
-/
namespace Sys2Proof.Machine

open Sys2Proof

/-! ## rint (R55) -/

theorem rintRat_intCast (mode : Mode) (z : Int) : rintRat mode (z : ℚ) = z := by
  cases mode with
  | rtz | rup | rdn | rne => simp [rintRat]
  | rna =>
    have hc : ⌈(z : ℚ) - 1 / 2⌉ = z := Int.ceil_eq_iff.2 (by constructor <;> linarith)
    have hf : ⌊(z : ℚ) + 1 / 2⌋ = z := Int.floor_eq_iff.2 (by constructor <;> linarith)
    rw [rintRat, hc, hf, ite_self]

/-- rint gives a neighbour. -/
theorem rintRat_between (mode : Mode) (x : ℚ) : ⌊x⌋ ≤ rintRat mode x ∧ rintRat mode x ≤ ⌈x⌉ := by
  have hfc := Int.floor_le_ceil x
  cases mode with
  | rup => exact ⟨hfc, le_rfl⟩
  | rdn => exact ⟨le_rfl, hfc⟩
  | rtz => rw [rintRat]; split <;> simp [hfc]
  | rne =>
    have hup : ¬x - ⌊x⌋ < 1 / 2 → ⌊x⌋ < ⌈x⌉ := fun h => Int.lt_ceil.2 (by linarith)
    simp only [rintRat]
    split_ifs with h <;> have := hup <;> grind
  | rna =>
    have h1 : ⌊x⌋ - 1 < ⌈x - 1 / 2⌉ := Int.lt_ceil.2 (by push_cast; linarith [Int.floor_le x])
    have h2 : ⌈x - 1 / 2⌉ ≤ ⌈x⌉ := Int.ceil_le_ceil (by linarith)
    have h3 : ⌊x⌋ ≤ ⌊x + 1 / 2⌋ := Int.floor_le_floor (by linarith)
    have h4 : ⌊x + 1 / 2⌋ < ⌈x⌉ + 1 := Int.floor_lt.2 (by push_cast; linarith [Int.le_ceil x])
    rw [rintRat]
    split <;> omega

/-- RNE beside an integer. -/
theorem rintRat_rne_add (z : Int) {f : ℚ} (h0 : 0 < f) (h1 : f < 1) :
    rintRat .rne (z + f) = if f < 1 / 2 then z else if 1 / 2 < f then z + 1 else if z % 2 = 0 then z else z + 1 := by
  have hz : ⌊(z : ℚ) + f⌋ = z := by rw [Int.floor_intCast_add, Int.floor_eq_zero_iff.2 ⟨h0.le, h1⟩, add_zero]
  rw [rintRat, hz, add_sub_cancel_left]

/-- rint of a fraction that is no integer, sign and magnitude apart. -/
theorem rintMag_eq_of_lt {q r d : Nat} (mode : Mode) (neg : Bool) (h0 : 0 < r) (hr : r < d) :
    signedNat neg (rintMag mode neg (d * q + r) d) = rintRat mode (signedRat neg (q + (r : ℚ) / d)) := by
  have hd : (0 : ℚ) < d := by exact_mod_cast h0.trans hr
  have hq : (d * q + r) / d = q := by rw [Nat.mul_add_div (h0.trans hr), Nat.div_eq_of_lt hr, Nat.add_zero]
  have hm : (d * q + r) % d = r := by rw [Nat.mul_add_mod, Nat.mod_eq_of_lt hr]
  have hlt : 2 * r < d ↔ (r : ℚ) / d < 1 / 2 := by
    rw [div_lt_div_iff₀ hd two_pos, one_mul, mul_comm]; exact_mod_cast Iff.rfl
  have hgt : d < 2 * r ↔ 1 / 2 < (r : ℚ) / d := by
    rw [div_lt_div_iff₀ two_pos hd, one_mul, mul_comm]; exact_mod_cast Iff.rfl
  have hf0 : 0 < (r : ℚ) / d := div_pos (by exact_mod_cast h0) hd
  have hf1 : (r : ℚ) / d < 1 := (div_lt_one hd).2 (by exact_mod_cast hr)
  unfold rintMag
  simp only [hq, hm, h0.ne', if_false, hlt, hgt]
  generalize (r : ℚ) / d = f at *
  have hfl : ⌊(q : ℚ) + f⌋ = q := Int.floor_eq_iff.2 (by constructor <;> push_cast <;> linarith)
  have hce : ⌈(q : ℚ) + f⌉ = q + 1 := Int.ceil_eq_iff.2 (by constructor <;> push_cast <;> linarith)
  have hround : ⌊(q : ℚ) + f + 1 / 2⌋ = if f < 1 / 2 then (q : Int) else q + 1 := by
    split <;> exact Int.floor_eq_iff.2 (by constructor <;> push_cast <;> linarith)
  have hpos : 0 < (q : ℚ) + f := by positivity
  cases neg with
  | false =>
    rw [signedRat_false, signedNat, if_neg Bool.false_ne_true]
    cases mode with
    | rtz => rw [rintRat, if_neg hpos.not_gt, hfl]
    | rup => rw [rintRat, hce]; rfl
    | rdn => rw [rintRat, hfl]; rfl
    | rne =>
      rw [← Int.cast_natCast q, rintRat_rne_add _ hf0 hf1]
      dsimp only
      split_ifs <;> omega
    | rna =>
      rw [rintRat, if_neg hpos.not_gt, hround]
      dsimp only
      split <;> rfl
  | true =>
    rw [signedRat_true, signedNat, if_pos rfl]
    cases mode with
    | rtz => rw [rintRat, if_pos (neg_lt_zero.2 hpos), Int.ceil_neg, hfl]
    | rup => rw [rintRat, Int.ceil_neg, hfl]; rfl
    | rdn => rw [rintRat, Int.floor_neg, hce]; rfl
    | rne =>
      have hn : -((q : ℚ) + f) = ((-(q + 1) : Int) : ℚ) + (1 - f) := by push_cast; ring
      have h1 : 1 - f < 1 / 2 ↔ 1 / 2 < f := by constructor <;> intro <;> linarith
      have h2 : 1 / 2 < 1 - f ↔ f < 1 / 2 := by constructor <;> intro <;> linarith
      rw [hn, rintRat_rne_add _ (by linarith) (by linarith)]
      simp only [h1, h2]
      rcases lt_trichotomy f (1 / 2) with h | h | h
      · rw [if_pos h, if_neg h.not_gt, if_pos h]; omega
      · simp only [h, lt_irrefl, if_false]; split_ifs <;> omega
      · rw [if_neg h.not_gt, if_pos h, if_pos h]; omega
    | rna =>
      rw [rintRat, if_pos (neg_lt_zero.2 hpos), ← neg_add', Int.ceil_neg, hround]
      dsimp only
      split <;> rfl

/-- rint of a fraction, sign and magnitude apart. -/
theorem rintMag_eq (mode : Mode) (neg : Bool) (n : Nat) {d : Nat} (hd : 0 < d) :
    signedNat neg (rintMag mode neg n d) = rintRat mode (signedRat neg (n / d)) := by
  have hd' : (d : ℚ) ≠ 0 := by exact_mod_cast hd.ne'
  have hy : (n : ℚ) / d = (n / d : Nat) + ((n % d : Nat) : ℚ) / d := by
    rw [div_eq_iff hd', add_mul, div_mul_cancel₀ _ hd']
    exact_mod_cast (Nat.div_add_mod' n d).symm
  rcases Nat.eq_zero_or_pos (n % d) with h0 | h0
  · have hz : signedRat neg ((n : ℚ) / d) = (signedNat neg (n / d) : Int) := by
      rw [cast_signedNat, hy, h0, Nat.cast_zero, zero_div, add_zero]
    rw [hz, rintRat_intCast]
    unfold rintMag
    rw [if_pos h0]
  · rw [hy, ← rintMag_eq_of_lt mode neg h0 (Nat.mod_lt n hd), Nat.div_add_mod]

/-- rint changes a fraction that is no integer, and no other. -/
theorem rintRat_ne_iff (mode : Mode) (neg : Bool) (n : Nat) {d : Nat} (hd : 0 < d) :
    (rintRat mode (signedRat neg (n / d)) : ℚ) ≠ signedRat neg (n / d) ↔ n % d ≠ 0 := by
  have hd' : (d : ℚ) ≠ 0 := by exact_mod_cast hd.ne'
  refine not_congr ⟨fun h => ?_, fun h => ?_⟩
  · have hk := congrArg abs h
    rw [abs_signedRat neg (by positivity), eq_div_iff hd'] at hk
    have hi : |rintRat mode (signedRat neg (n / d))| * d = n := by exact_mod_cast hk
    exact Nat.mod_eq_zero_of_dvd (by exact_mod_cast Dvd.intro_left _ hi)
  · obtain ⟨k, rfl⟩ := Nat.dvd_of_mod_eq_zero h
    have : signedRat neg ((d * k : Nat) / d) = (signedNat neg k : Int) := by
      rw [cast_signedNat, Nat.cast_mul, mul_div_cancel_left₀ _ hd']
    rw [this, rintRat_intCast]

/-! ## floor(log2) -/

/-- The logarithm from its two bounds. -/
theorem log_two_eq {x : ℚ} {l : Int} (h1 : (2 : ℚ) ^ l ≤ x) (h2 : x < 2 ^ (l + 1)) : Int.log 2 x = l := by
  have hx : 0 < x := lt_of_lt_of_le (by positivity) h1
  have hl := (Int.zpow_le_iff_le_log (b := 2) one_lt_two hx).1 (by exact_mod_cast h1)
  have hu := (Int.lt_zpow_iff_log_lt (b := 2) one_lt_two hx).1 (by exact_mod_cast h2)
  omega

theorem log2_bounds {n : Nat} (hn : 0 < n) : (2 : ℚ) ^ Nat.log2 n ≤ n ∧ (n : ℚ) < 2 ^ (Nat.log2 n + 1) := by
  exact_mod_cast And.intro (Nat.log2_self_le hn.ne') Nat.lt_log2_self

/-- The model's logarithm is that of R55. -/
theorem floorLog2_eq {n d : Nat} (hn : 0 < n) (hd : 0 < d) : floorLog2 n d = Int.log 2 ((n : ℚ) / d) := by
  have hd' : (0 : ℚ) < d := by exact_mod_cast hd
  obtain ⟨hn1, hn2⟩ := log2_bounds hn
  obtain ⟨hd1, hd2⟩ := log2_bounds hd
  obtain ⟨l, hl⟩ : ∃ l : Int, l = (Nat.log2 n : Int) - Nat.log2 d := ⟨_, rfl⟩
  have hlow : (2 : ℚ) ^ (l - 1) ≤ n / d := by
    rw [le_div_iff₀ hd']
    calc (2 : ℚ) ^ (l - 1) * d ≤ 2 ^ (l - 1) * 2 ^ (Nat.log2 d + 1) := by gcongr
      _ = 2 ^ Nat.log2 n := by
        rw [← zpow_natCast, ← zpow_natCast, ← zpow_add₀ two_ne_zero, hl]; congr 1; push_cast; ring
      _ ≤ n := hn1
  have hhigh : (n : ℚ) / d < 2 ^ (l + 1) := by
    rw [div_lt_iff₀ hd']
    calc (n : ℚ) < 2 ^ (Nat.log2 n + 1) := hn2
      _ = 2 ^ (l + 1) * 2 ^ Nat.log2 d := by
        rw [← zpow_natCast, ← zpow_natCast, ← zpow_add₀ two_ne_zero, hl]; congr 1; push_cast; ring
      _ ≤ 2 ^ (l + 1) * d := by gcongr
  have hfl : floorLog2 n d = if (n : ℚ) / d < 2 ^ l then l - 1 else l := by
    simp only [← shiftedLt_iff hd l, floorLog2, ← hl]
    split <;> rfl
  rw [hfl]
  split
  · next h => exact (log_two_eq hlow (by rwa [sub_add_cancel])).symm
  · next h => exact (log_two_eq (not_lt.1 h) hhigh).symm

/-! ## Integer formats (R55) -/

/-- The result of R55 in an integer format. -/
def intRounded (t : DType) (mode : Mode) (x : ℚ) : Rounded :=
  let q := rintRat mode x
  { code := intCode (dtBits t) (max (dtMinI t) (min q (dtMaxI t))),
    sts := { fp := if (q : ℚ) ≠ x then 16 else 0, sat := decide (dtMaxI t < q ∨ q < dtMinI t) } }

theorem dtMinI_le_dtMaxI (t : DType) : dtMinI t ≤ dtMaxI t := by cases t <;> decide

theorem roundInt_eq (t : DType) (mode : Mode) (neg : Bool) (n : Nat) {d : Nat} (hd : 0 < d) :
    roundInt t mode neg n d = intRounded t mode (signedRat neg (n / d)) := by
  have hb := dtMinI_le_dtMaxI t
  have hs : Sts.when (n % d != 0) Sts.inexact = { fp := if n % d ≠ 0 then 16 else 0, sat := false } := by
    by_cases h : n % d = 0 <;> simp [h, Sts.when, Sts.none, Sts.inexact]
  simp only [roundInt, intRounded, rintMag_eq mode neg n hd, rintRat_ne_iff mode neg n hd, hs]
  generalize rintRat mode _ = q
  split
  · next h1 => simp [Sts.or, Sts.saturated, min_eq_right h1.le, max_eq_right hb, h1]
  · next h1 =>
    rw [min_eq_left (not_lt.1 h1)]
    split
    · next h2 => simp [Sts.or, Sts.saturated, max_eq_left h2.le, h2]
    · next h2 => simp [max_eq_right (not_lt.1 h2), h1, h2]

/-! ## Floating formats (R55) -/

/-- The exponent e of R55. -/
def floatExp (t : DType) (x : ℚ) : Int := max (Int.log 2 |x|) (1 - dtBias t)

/-- The spacing u of R55. -/
def floatUlp (t : DType) (x : ℚ) : ℚ := 2 ^ (floatExp t x - dtMant t)

/-- The value y of R55, its exponent unbounded above. -/
def floatValue (t : DType) (mode : Mode) (x : ℚ) : ℚ := rintRat mode (x / floatUlp t x) * floatUlp t x

/-- The magnitude code of y, in a format without special codes and without an end. -/
def floatMag (t : DType) (mode : Mode) (x : ℚ) : Nat :=
  (floatExp t x - (1 - dtBias t)).toNat * 2 ^ dtMant t + (rintRat mode (x / floatUlp t x)).natAbs

/-- The status bits of R55 below the overflow. -/
def floatSts (t : DType) (mode : Mode) (x : ℚ) : Sts :=
  { fp := (if floatValue t mode x ≠ x then 16 else 0) |||
      (if |x| < 2 ^ (1 - (dtBias t : Int)) ∧ floatValue t mode x ≠ x then 8 else 0), sat := false }

/-- The result of R55 in a floating format. -/
def floatRounded (t : DType) (mode : Mode) (x : ℚ) : Rounded :=
  let neg := decide (x < 0)
  if dtMaxCode t < floatMag t mode x then
    { code := dtSign t neg + (if dtInf t && overflowInf mode neg then dtInfCode t else dtMaxCode t),
      sts := (floatSts t mode x).or (Sts.overflow.or Sts.inexact) }
  else { code := dtSign t neg + floatMag t mode x, sts := floatSts t mode x }

theorem floatUlp_pos (t : DType) (x : ℚ) : 0 < floatUlp t x := by unfold floatUlp; positivity

theorem floatValue_ne_iff (t : DType) (mode : Mode) (x : ℚ) :
    floatValue t mode x ≠ x ↔ (rintRat mode (x / floatUlp t x) : ℚ) ≠ x / floatUlp t x :=
  not_congr (eq_div_iff (floatUlp_pos t x).ne').symm

section
variable (t : DType) (mode : Mode) {n d : Nat} {x : ℚ}

theorem floatExp_eq (hn : 0 < n) (hd : 0 < d) (hx : |x| = n / d) :
    (if floorLog2 n d < 1 - dtBias t then 1 - (dtBias t : Int) else floorLog2 n d) = floatExp t x := by
  rw [floatExp, hx, floorLog2_eq hn hd]
  split
  · next h => exact (max_eq_right h.le).symm
  · next h => exact (max_eq_left (not_lt.1 h)).symm

/-- Tininess is detected before rounding. -/
theorem floorLog2_lt_iff (hn : 0 < n) (hd : 0 < d) (hx : |x| = n / d) :
    floorLog2 n d < 1 - dtBias t ↔ |x| < 2 ^ (1 - (dtBias t : Int)) := by
  rw [floorLog2_eq hn hd, hx]
  exact (Int.lt_zpow_iff_log_lt one_lt_two (by positivity)).symm

theorem floatSts_eq {inexact tiny : Bool} (hi : inexact = true ↔ floatValue t mode x ≠ x)
    (ht : tiny = true ↔ |x| < 2 ^ (1 - (dtBias t : Int))) :
    (Sts.when inexact Sts.inexact).or (Sts.when (inexact && tiny) { fp := 8, sat := false }) = floatSts t mode x := by
  simp only [floatSts, ← hi, ← ht]
  cases inexact <;> cases tiny <;> rfl

theorem roundFloat_eq (neg : Bool) (hn : 0 < n) (hd : 0 < d) :
    roundFloat t mode neg n d = floatRounded t mode (signedRat neg (n / d)) := by
  have hq : 0 < (n : ℚ) / d := by positivity
  obtain ⟨x, hx⟩ : ∃ x, x = signedRat neg ((n : ℚ) / d) := ⟨_, rfl⟩
  have habs : |x| = n / d := by rw [hx, abs_signedRat neg hq.le]
  have hneg : decide (x < 0) = neg := by rw [hx]; simp [signedRat_neg_iff neg hq]
  obtain ⟨n', d', hn', hd', hd0, hfrac⟩ := exists_div_two_zpow n (floatExp t x - dtMant t) hd
  have hxu : signedRat neg ((n' : ℚ) / d') = x / floatUlp t x := by
    rw [hfrac, hx, signedRat, signedRat, mul_div_assoc]; rfl
  have hmag : (floatExp t x - (1 - dtBias t)).toNat * 2 ^ dtMant t + rintMag mode neg n' d' = floatMag t mode x := by
    rw [floatMag, ← hxu, ← rintMag_eq mode neg n' hd0, natAbs_signedNat]
  have hix : (n' % d' != 0) = true ↔ floatValue t mode x ≠ x := by
    rw [floatValue_ne_iff, ← hxu, rintRat_ne_iff mode neg n' hd0, bne_iff_ne]
  have htiny := decide_eq_true_iff.trans (floorLog2_lt_iff t hn hd habs)
  simp only [roundFloat, floatExp_eq t hn hd habs, hn', hd', hmag, floatSts_eq t mode hix htiny]
  rw [← hx, floatRounded, hneg]

end

/-! ## `round` of a rational -/

section
variable {t : DType} (mode : Mode) (neg : Bool) {n d : Nat}

theorem roundTo_float (ht : dtKind t = .float) (hn : 0 < n) (hd : 0 < d) :
    roundTo t mode neg n d = floatRounded t mode (signedRat neg (n / d)) := by
  rw [roundTo, ht]; exact roundFloat_eq t mode neg hn hd

theorem roundTo_int (ht : dtKind t ≠ .float) (hd : 0 < d) :
    roundTo t mode neg n d = intRounded t mode (signedRat neg (n / d)) := by
  rw [← roundInt_eq t mode neg n hd, roundTo]
  split
  · next h => exact absurd h ht
  · rfl
  · rfl

theorem signedRat_num_den (x : ℚ) : signedRat (decide (x < 0)) ((x.num.natAbs : ℚ) / x.den) = x := by
  have hx : (x.num.natAbs : ℚ) / x.den = |x| := by
    conv_rhs => rw [← Rat.num_div_den x, abs_div, Nat.abs_cast]
    rw [Nat.cast_natAbs, Int.cast_abs]
  rw [hx, signedRat_decide_abs]

theorem roundRat_float (ht : dtKind t = .float) {x : ℚ} (hx : x ≠ 0) : roundRat t mode x = floatRounded t mode x := by
  rw [roundRat, roundTo_float mode _ ht (Int.natAbs_pos.2 (Rat.num_ne_zero.2 hx)) x.den_pos, signedRat_num_den]

theorem roundRat_int (ht : dtKind t ≠ .float) (x : ℚ) : roundRat t mode x = intRounded t mode x := by
  rw [roundRat, roundTo_int mode _ ht x.den_pos, signedRat_num_den]

/-- The result of `round` depends on the rational alone. -/
theorem roundTo_eq_roundRat (t : DType) (hn : 0 < n) (hd : 0 < d) :
    roundTo t mode neg n d = roundRat t mode (signedRat neg (n / d)) := by
  by_cases ht : dtKind t = .float
  · rw [roundTo_float mode neg ht hn hd, roundRat_float mode ht]
    have : (0 : ℚ) < n / d := by positivity
    exact fun h => this.ne' (by rw [← abs_signedRat neg this.le, h, abs_zero])
  · rw [roundTo_int mode neg ht hd, roundRat_int mode ht]

end

/-! ## The values of the codes (R34) -/

/-- The value of a magnitude code in a format without special codes. -/
def magVal (t : DType) (c : Nat) : ℚ :=
  if c / 2 ^ dtMant t = 0 then ((c % 2 ^ dtMant t : Nat) : ℚ) * 2 ^ (1 - (dtBias t : Int) - dtMant t)
  else ((2 ^ dtMant t + c % 2 ^ dtMant t : Nat) : ℚ) * 2 ^ (((c / 2 ^ dtMant t : Nat) : Int) - dtBias t - dtMant t)

/-- A magnitude code as R55 forms it: `q` units of the binade `k` above the lowest, the end of the binade included. -/
theorem magVal_eq (t : DType) {k q : Nat} (hk : k = 0 ∨ 2 ^ dtMant t ≤ q) (hq : q ≤ 2 ^ (dtMant t + 1)) :
    magVal t (k * 2 ^ dtMant t + q) = q * 2 ^ ((k : Int) + (1 - dtBias t) - dtMant t) := by
  have hP : 0 < 2 ^ dtMant t := by positivity
  rw [pow_succ] at hq
  rcases lt_or_ge q (2 ^ dtMant t) with h | h
  · obtain rfl : k = 0 := hk.resolve_right (not_le.2 h)
    rw [Nat.zero_mul, Nat.zero_add, magVal, Nat.div_eq_of_lt h, if_pos rfl, Nat.mod_eq_of_lt h]
    simp
  · rcases hq.lt_or_eq with h' | rfl
    · obtain ⟨f, rfl⟩ := Nat.exists_eq_add_of_le h
      have hf : f < 2 ^ dtMant t := by omega
      have hc : k * 2 ^ dtMant t + (2 ^ dtMant t + f) = 2 ^ dtMant t * (k + 1) + f := by ring
      rw [hc, magVal, Nat.mul_add_div hP, Nat.mul_add_mod, Nat.div_eq_of_lt hf, Nat.mod_eq_of_lt hf, if_neg (by omega)]
      congr 2
      push_cast
      ring
    · have hc : k * 2 ^ dtMant t + 2 ^ dtMant t * 2 = 2 ^ dtMant t * (k + 2) := by ring
      rw [hc, magVal, Nat.mul_div_cancel_left _ hP, Nat.mul_mod_right, if_neg (by omega), Nat.add_zero]
      have he : ((k + 2 : Nat) : Int) - dtBias t - dtMant t = 1 + ((k : Int) + (1 - dtBias t) - dtMant t) := by push_cast; ring
      rw [he, zpow_add₀ two_ne_zero]
      push_cast
      ring

theorem magVal_strictMono (t : DType) : StrictMono (magVal t) := by
  refine strictMono_nat_of_lt_succ fun c => ?_
  obtain ⟨k, q, rfl, hk, hq⟩ : ∃ k q, c = k * 2 ^ dtMant t + q ∧ (k = 0 ∨ 2 ^ dtMant t ≤ q) ∧ q < 2 ^ (dtMant t + 1) := by
    rw [pow_succ]
    have hm := Nat.mod_lt c (show 0 < 2 ^ dtMant t by positivity)
    have hc := Nat.div_add_mod' c (2 ^ dtMant t)
    rcases h : c / 2 ^ dtMant t with _ | k
    · exact ⟨0, c, by simp, Or.inl rfl, by rw [h] at hc; omega⟩
    · refine ⟨k, 2 ^ dtMant t + c % 2 ^ dtMant t, ?_, Or.inr (by omega), by omega⟩
      rw [h] at hc
      linarith
  rw [magVal_eq t hk hq.le, add_assoc, magVal_eq t (hk.imp_right fun h => h.trans (Nat.le_succ q)) hq]
  gcongr
  exact lt_add_one q

section
variable {t : DType} (ht : dtKind t = .float)
include ht

theorem dtMaxCode_lt_sign : dtMaxCode t < 2 ^ (dtBits t - 1) := by revert ht; cases t <;> decide

theorem two_pow_dtMant_le_dtMaxCode : 2 ^ dtMant t ≤ dtMaxCode t := by revert ht; cases t <;> decide

theorem dtMaxCode_lt_dtInfCode (hi : dtInf t = true) : dtMaxCode t < dtInfCode t := by revert ht hi; cases t <;> decide

theorem two_pow_dtBits : 2 ^ dtBits t = 2 ^ (dtBits t - 1) * 2 := by rw [← pow_succ]; revert ht; cases t <;> decide

/-- A magnitude code up to the largest, with a sign, is a finite value. -/
theorem decodeCode_mag (neg : Bool) {c : Nat} (hc : c ≤ dtMaxCode t) :
    ∃ m e, decodeCode t (dtSign t neg + c) = .fin neg m e ∧ (m : ℚ) * 2 ^ e = magVal t c := by
  have hs := hc.trans_lt (dtMaxCode_lt_sign ht)
  have hb := two_pow_dtBits ht
  have hmod : (dtSign t neg + c) % 2 ^ dtBits t = dtSign t neg + c := by
    refine Nat.mod_eq_of_lt ?_
    cases neg <;> simp only [dtSign, Bool.false_eq_true, if_false, if_true] <;> omega
  have hmag : (dtSign t neg + c) % 2 ^ (dtBits t - 1) = c := by
    cases neg <;> simp [dtSign, Nat.mod_eq_of_lt hs]
  have hneg : ((dtSign t neg + c) / 2 ^ (dtBits t - 1) % 2 == 1) = neg := by
    cases neg <;> simp [dtSign, Nat.div_eq_of_lt hs]
  have hinf : (dtInf t && decide (dtInfCode t ≤ c)) = false := by
    rw [Bool.and_eq_false_imp]
    exact fun h => decide_eq_false (not_le.2 (hc.trans_lt (dtMaxCode_lt_dtInfCode ht h)))
  have hnan : ¬(t = .e4m3 ∧ c = 0x7F) := by
    rintro ⟨rfl, rfl⟩
    exact absurd hc (by decide)
  rw [decodeCode, ht]
  simp only [decodeFloat, hmod, hmag, hneg, hinf, Bool.false_eq_true, if_false, if_neg hnan]
  rw [magVal]
  split
  · exact ⟨_, _, rfl, rfl⟩
  · exact ⟨_, _, rfl, rfl⟩

end

/-! ## The value of a rounded result -/

theorem natAbs_rintRat_le (mode : Mode) {x : ℚ} {b : Nat} (h : |x| ≤ b) : (rintRat mode x).natAbs ≤ b := by
  obtain ⟨hf, hc⟩ := rintRat_between mode x
  obtain ⟨h1, h2⟩ := abs_le.1 h
  have h3 : -(b : Int) ≤ ⌊x⌋ := Int.le_floor.2 (by push_cast; exact h1)
  have h4 : ⌈x⌉ ≤ b := Int.ceil_le.2 (by exact_mod_cast h2)
  omega

theorem le_natAbs_rintRat (mode : Mode) {x : ℚ} {b : Nat} (h : (b : ℚ) ≤ |x|) : b ≤ (rintRat mode x).natAbs := by
  obtain ⟨hf, hc⟩ := rintRat_between mode x
  rcases le_abs.1 h with h | h
  · have : (b : Int) ≤ ⌊x⌋ := Int.le_floor.2 (by exact_mod_cast h)
    omega
  · have : ⌈x⌉ ≤ -(b : Int) := Int.ceil_le.2 (by push_cast; linarith)
    omega

theorem abs_div_floatUlp (t : DType) (x : ℚ) : |x / floatUlp t x| = |x| / 2 ^ floatExp t x * 2 ^ dtMant t := by
  rw [abs_div, abs_of_pos (floatUlp_pos t x), floatUlp, zpow_sub₀ two_ne_zero, zpow_natCast, div_div_eq_mul_div, mul_div_right_comm]

/-- Below the exponent's next binade there are at most 2 × 2^M units. -/
theorem natAbs_units_le (t : DType) (mode : Mode) (x : ℚ) : (rintRat mode (x / floatUlp t x)).natAbs ≤ 2 ^ (dtMant t + 1) := by
  have h1 : |x| ≤ 2 ^ (floatExp t x + 1) := by
    refine (Int.lt_zpow_succ_log_self one_lt_two |x|).le.trans ?_
    exact zpow_le_zpow_right₀ one_le_two (by unfold floatExp; omega)
  refine natAbs_rintRat_le mode ?_
  rw [abs_div_floatUlp, pow_succ']
  push_cast
  gcongr
  rwa [div_le_iff₀ (by positivity), ← zpow_one_add₀ two_ne_zero, add_comm]

/-- Above the lowest binade there are at least 2^M units. -/
theorem le_natAbs_units {t : DType} {x : ℚ} (mode : Mode) (hx : x ≠ 0) (he : floatExp t x ≠ 1 - dtBias t) :
    2 ^ dtMant t ≤ (rintRat mode (x / floatUlp t x)).natAbs := by
  have hlog : floatExp t x = Int.log 2 |x| := by unfold floatExp at *; omega
  have h1 : (2 : ℚ) ^ floatExp t x ≤ |x| := by
    rw [hlog]; exact_mod_cast Int.zpow_log_le_self one_lt_two (abs_pos.2 hx)
  refine le_natAbs_rintRat mode ?_
  rw [abs_div_floatUlp]
  push_cast
  exact le_mul_of_one_le_left (by positivity) ((one_le_div (by positivity)).2 h1)

/-- The magnitude code of R55 has the magnitude of y. -/
theorem magVal_floatMag (t : DType) (mode : Mode) {x : ℚ} (hx : x ≠ 0) :
    magVal t (floatMag t mode x) = |floatValue t mode x| := by
  have hle : 1 - (dtBias t : Int) ≤ floatExp t x := le_max_right _ _
  have hk : (floatExp t x - (1 - dtBias t)).toNat = 0 ∨ 2 ^ dtMant t ≤ (rintRat mode (x / floatUlp t x)).natAbs := by
    by_cases he : floatExp t x = 1 - dtBias t
    · exact Or.inl (by omega)
    · exact Or.inr (le_natAbs_units mode hx he)
  rw [floatMag, magVal_eq t hk (natAbs_units_le t mode x), Int.toNat_of_nonneg (by omega), sub_add_cancel, floatValue, abs_mul,
    abs_of_pos (floatUlp_pos t x), Nat.cast_natAbs, Int.cast_abs, floatUlp]

/-- A value below the lowest binade does not overflow. -/
theorem floatMag_le_of_tiny {t : DType} (ht : dtKind t = .float) (mode : Mode) {x : ℚ} (hx : x ≠ 0)
    (h : |x| < 2 ^ (1 - (dtBias t : Int))) : floatMag t mode x ≤ dtMaxCode t := by
  have hlog : Int.log 2 |x| < 1 - dtBias t := (Int.lt_zpow_iff_log_lt one_lt_two (abs_pos.2 hx)).1 (by exact_mod_cast h)
  have he : floatExp t x = 1 - dtBias t := max_eq_right hlog.le
  refine le_trans ?_ (two_pow_dtMant_le_dtMaxCode ht)
  rw [floatMag, he, sub_self, Int.toNat_zero, Nat.zero_mul, Nat.zero_add]
  refine natAbs_rintRat_le mode ?_
  rw [abs_div_floatUlp, he]
  push_cast
  exact mul_le_of_le_one_left (by positivity) ((div_le_one (by positivity)).2 h.le)

/-- y has the sign of x, or is 0. -/
theorem signedRat_abs_floatValue (t : DType) (mode : Mode) (x : ℚ) :
    signedRat (decide (x < 0)) |floatValue t mode x| = floatValue t mode x := by
  have hu := floatUlp_pos t x
  obtain ⟨hf, hc⟩ := rintRat_between mode (x / floatUlp t x)
  by_cases h : x < 0
  · have hy : floatValue t mode x ≤ 0 := by
      have : ⌈x / floatUlp t x⌉ ≤ 0 := Int.ceil_le.2 (by exact_mod_cast (div_neg_of_neg_of_pos h hu).le)
      have : (rintRat mode (x / floatUlp t x) : ℚ) ≤ 0 := by exact_mod_cast hc.trans this
      exact mul_nonpos_of_nonpos_of_nonneg this hu.le
    rw [decide_eq_true h, signedRat_true, abs_of_nonpos hy, neg_neg]
  · have hy : 0 ≤ floatValue t mode x := by
      have : 0 ≤ ⌊x / floatUlp t x⌋ := Int.floor_nonneg.2 (div_nonneg (not_lt.1 h) hu.le)
      have : (0 : ℚ) ≤ rintRat mode (x / floatUlp t x) := by exact_mod_cast this.trans hf
      exact mul_nonneg this hu.le
    rw [decide_eq_false h, signedRat_false, abs_of_nonneg hy]

/-- The largest finite value is that of the largest magnitude code. -/
theorem rat_dtMaxCode {t : DType} (ht : dtKind t = .float) : (decodeCode t (dtMaxCode t)).rat = magVal t (dtMaxCode t) := by
  obtain ⟨m, e, hd, hv⟩ := decodeCode_mag ht false le_rfl
  rw [dtSign, if_neg Bool.false_ne_true, Nat.zero_add] at hd
  rw [hd, ← hv]
  simp [Val.rat]

theorem overflow_iff {t : DType} (ht : dtKind t = .float) (mode : Mode) {x : ℚ} (hx : x ≠ 0) :
    dtMaxCode t < floatMag t mode x ↔ (decodeCode t (dtMaxCode t)).rat < |floatValue t mode x| := by
  rw [rat_dtMaxCode ht, ← magVal_floatMag t mode hx, (magVal_strictMono t).lt_iff_lt]

theorem overflowInf_iff (mode : Mode) (x : ℚ) (hx : x ≠ 0) : overflowInf mode (decide (x < 0)) = true ↔
    mode = .rne ∨ mode = .rna ∨ (mode = .rup ∧ 0 < x) ∨ (mode = .rdn ∧ x < 0) := by
  cases mode <;> simp [overflowInf, hx.symm.le_iff_lt]

/-- The overflow of R55. -/
theorem roundRat_of_overflow {t : DType} (ht : dtKind t = .float) (mode : Mode) {x : ℚ} (hx : x ≠ 0)
    (h : dtMaxCode t < floatMag t mode x) :
    roundRat t mode x =
      { code := dtSign t (decide (x < 0)) +
          (if dtInf t = true ∧ overflowInf mode (decide (x < 0)) = true then dtInfCode t else dtMaxCode t),
        sts := { fp := 4 ||| 16, sat := false } } := by
  have hs : (floatSts t mode x).or (Sts.overflow.or Sts.inexact) = { fp := 4 ||| 16, sat := false } := by
    have htiny : ¬|x| < 2 ^ (1 - (dtBias t : Int)) := fun hn => (floatMag_le_of_tiny ht mode hx hn).not_gt h
    rw [floatSts]
    simp only [htiny, false_and, if_false]
    split <;> rfl
  rw [roundRat_float mode ht hx, floatRounded, if_pos h, hs]
  simp only [Bool.and_eq_true]

/-- The result of R55 within the range. -/
theorem roundRat_of_le {t : DType} (ht : dtKind t = .float) (mode : Mode) {x : ℚ} (hx : x ≠ 0)
    (h : ¬dtMaxCode t < floatMag t mode x) :
    let r := roundRat t mode x
    r.code < 2 ^ dtBits t ∧ (∃ m e, decodeCode t r.code = .fin (decide (x < 0)) m e) ∧
      (decodeCode t r.code).rat = floatValue t mode x ∧ r.sts = floatSts t mode x := by
  intro r
  have hr : r = { code := dtSign t (decide (x < 0)) + floatMag t mode x, sts := floatSts t mode x } := by
    show roundRat t mode x = _
    rw [roundRat_float mode ht hx, floatRounded, if_neg h]
  obtain ⟨m, e, hd, hv⟩ := decodeCode_mag ht (decide (x < 0)) (not_lt.1 h)
  rw [hr]
  refine ⟨?_, ⟨m, e, hd⟩, ?_, rfl⟩
  · have := (not_lt.1 h).trans_lt (dtMaxCode_lt_sign ht)
    rw [two_pow_dtBits ht, dtSign]
    dsimp only
    split <;> omega
  · rw [hd, Val.rat, mul_assoc, hv, magVal_floatMag t mode hx]
    exact signedRat_abs_floatValue t mode x

/-- Settles O7: the model's `round` is that of R55, and a code within the range has the value that R55 rounds to. -/
theorem roundOnce : Obligations.RoundOnce := by
  unfold Obligations.RoundOnce
  intro t mode x hx
  dsimp only
  split
  · next ht => exact roundRat_int mode (by simp [ht]) x
  · next ht => exact roundRat_int mode (by simp [ht]) x
  · next ht =>
    have hy : rintRat mode (x / 2 ^ (floatExp t x - dtMant t)) * 2 ^ (floatExp t x - dtMant t) = floatValue t mode x := rfl
    rw [← floatExp, hy]
    split
    · next h =>
      rw [roundRat_of_overflow ht mode hx ((overflow_iff ht mode hx).2 h)]
      simp only [overflowInf_iff mode x hx]
    · next h =>
      obtain ⟨hc, ⟨m, e, hd⟩, hv, hs⟩ := roundRat_of_le ht mode hx (mt (overflow_iff ht mode hx).1 h)
      exact ⟨hc, by rw [hd]; rfl, by rw [hd]; rfl, hv, by rw [hd]; rfl, hs⟩

end Sys2Proof.Machine

/-!
LRND, LQUO, MRND and MQUO (O22). The model's rounding of an accumulator is that of R56 and R57; the rest is the issue of an
instruction that writes registers of its active lanes.
-/
namespace Sys2Proof.Machine

open Sys2Proof

/-! ## The rounding of an accumulator and of a quotient -/

theorem zeroCode_eq (t : DType) (neg : Bool) : zeroCode t neg = if dtKind t = .float then dtSign t neg else 0 := by
  rw [zeroCode]
  split
  · next h => rw [if_pos h]
  · next h => rw [if_neg (by simp [h])]
  · next h => rw [if_neg (by simp [h])]

theorem Acc.zeroSign_eq (a : Acc) (mode : Mode) : a.zeroSign mode = decide (a.nzt = false ∨ mode = .rdn) := by
  cases h : a.nzt <;> cases mode <;> simp [Acc.zeroSign, h]

section
variable {t : DType} (mode : Mode)

/-- LRND of the model is that of R56. -/
theorem accRound_eq_roundAcc (a : Acc) (t : DType) : accRound a t mode = roundAcc a t mode := by
  have hz : zeroCode t (a.zeroSign mode) =
      if dtKind t = .float ∧ (a.nzt = false ∨ mode = .rdn) then dtSign t true else 0 := by
    rw [zeroCode_eq, Acc.zeroSign_eq]
    by_cases h : a.nzt = false ∨ mode = .rdn <;> simp [h, dtSign]
  have hr (hv : a.value ≠ 0) : roundTo t mode (decide (a.value < 0)) a.value.natAbs (2 ^ 298) =
      roundRat t mode ((a.value : ℚ) / 2 ^ 298) := by
    rw [roundTo_eq_roundRat mode _ t (Int.natAbs_pos.2 hv) (by positivity), signedRat, ← mul_div_assoc, ← signedRat,
      signedRat_natAbs, Nat.cast_pow, Nat.cast_ofNat]
  rw [accRound, roundAcc, hz]
  by_cases hv : a.value = 0
  · simp only [hv, if_true]
  · simp only [hv, if_false, hr hv]

/-- LQUO of the model is that of R57. -/
theorem accQuo_eq_quoAcc (ht : dtKind t = .float) (n d : Acc) : accQuo n d t mode = quoAcc n d t mode := by
  have hr (hn : n.value ≠ 0) (hd : d.value ≠ 0) :
      roundTo t mode (decide (n.value < 0) != decide (d.value < 0)) n.value.natAbs d.value.natAbs =
        roundRat t mode ((n.value : ℚ) / d.value) := by
    rw [roundTo_eq_roundRat mode _ t (Int.natAbs_pos.2 hn) (Int.natAbs_pos.2 hd), signedRat_div, signedRat_natAbs,
      signedRat_natAbs]
  simp only [accQuo, quoAcc, Acc.quoSign, Acc.zeroSign_eq, zeroCode_eq, if_pos ht]
  by_cases hi : (n.pinf || n.ninf) = true
  · simp only [hi, Bool.true_and, if_true]
  · by_cases hj : (d.pinf || d.ninf) = true
    · simp only [hi, hj, Bool.false_and, if_true, if_false, Bool.false_eq_true]
    · simp only [Bool.or_eq_true, not_or, Bool.not_eq_true] at hi hj
      by_cases hd : d.value = 0 <;> by_cases hn : n.value = 0
      · simp [hi, hj, hd, hn]
      · simp [hi, hj, hd, hn]
      · simp [hi, hj, hd, hn]
      · simp [hi, hj, hd, hn, hr]

end

/-! ## Rows of results -/

theorem Thread.putRow_tid_pc (d n : Nat) (f : Nat → Rounded) (l : List Nat) (t : Thread) :
    (l.foldl (fun y j => (y.setSts (f j).sts).putRegs (d + n * j) n (f j).code) t).tid = t.tid ∧
      (l.foldl (fun y j => (y.setSts (f j).sts).putRegs (d + n * j) n (f j).code) t).pc = t.pc := by
  induction l generalizing t with
  | nil => exact ⟨rfl, rfl⟩
  | cons j l ih =>
    obtain ⟨h1, h2⟩ := Thread.putRegs_tid (t.setSts (f j).sts) (d + n * j) n (f j).code
    exact ⟨(ih _).1.trans h1, (ih _).2.trans h2⟩

theorem Thread.putResults_tileRow (c : Ctx) (x t : Thread) (tile d n : Nat) (f : Acc → Rounded) :
    t.putResults d n ((c.tileRow x tile).map f) =
      (List.range 16).foldl (fun y j => (y.setSts (f (c.tm.slot c x tile j)).sts).putRegs (d + n * j) n
        (f (c.tm.slot c x tile j)).code) t := by
  have hz : ((c.tileRow x tile).map f).zip (List.range 16) = (List.range 16).map fun j => (f (c.tm.slot c x tile j), j) := by
    rw [Ctx.tileRow, List.map_map]
    exact (congrArg _ (List.map_id _).symm).trans (List.zip_map' ..)
  rw [Thread.putResults, hz, List.foldl_map]

/-- An instruction that changes the registers of its active lanes. -/
theorem lanesDo_of_runLanes {i : Instr} {gs : Guards} {f : Ctx → Thread → Thread} (h : ∀ s, exec i s = runLanes i gs s f)
    (hf : ∀ c x, (f c x).tid = x.tid ∧ (f c x).pc = x.pc) : LanesDo i gs fun _ => f :=
  lanesDo_of h (fun _ c x => (hf c x).1) fun _ c x => (hf c x).2

/-- Settles O22: each lane writes what R56 and R57 give of its accumulators, or of the slots of its row. -/
theorem accumulatorRounding : Obligations.AccumulatorRounding := by
  unfold Obligations.AccumulatorRounding
  refine ⟨fun g o => ?_, fun g o ht => ?_, fun g o => ?_, fun g o ht => ?_⟩
  · refine lanesDo_of_runLanes (fun s => ?_) fun _ _ => Thread.putRegs_tid _ _ _ _
    show execLrnd g o s = _
    simp only [execLrnd, accRound_eq_roundAcc]
  · refine lanesDo_of_runLanes (fun s => ?_) fun _ _ => Thread.putRegs_tid _ _ _ _
    show execLquo g o s = _
    simp only [execLquo, accQuo_eq_quoAcc _ ht]
  · refine lanesDo_of_runLanes (fun s => ?_) fun _ _ => Thread.putRow_tid_pc _ _ _ _ _
    show execMrnd g o s = _
    simp only [execMrnd, Thread.putResults_tileRow, accRound_eq_roundAcc]
  · refine lanesDo_of_runLanes (fun s => ?_) fun _ _ => Thread.putRow_tid_pc _ _ _ _ _
    show execMquo g o s = _
    simp only [execMquo, Thread.putResults_tileRow, accQuo_eq_quoAcc _ ht]

end Sys2Proof.Machine

/-!
CVT, CVTQ and CVTX (O9). The model's conversion of a dyadic is the conversion of R58 on rationals; the instructions are then
entries of the ALU mould.
-/
namespace Sys2Proof.Machine

open Sys2Proof

/-! ## `convert` (R58) -/

/-- A value that is not 0 is the extra value times the scale (R58), as the model compares sign and magnitude. -/
theorem extra_eq_iff {n xn : Bool} {m xm sm : Nat} {e xe se : Int} (hm : m ≠ 0) :
    (Val.fin n m e).rat = (Val.fin xn xm xe).rat * (Scale.val sm se).rat ↔
      (xn = n ∧ xm ≠ 0) ∧ if 0 ≤ xe + se - e then m = xm * sm * 2 ^ (xe + se - e).toNat
        else m * 2 ^ (-(xe + se - e)).toNat = xm * sm := by
  have hm' := Nat.pos_of_ne_zero hm
  have he : (2 : ℚ) ^ e ≠ 0 := by positivity
  have hmag : (m : ℚ) * 2 ^ e = xm * 2 ^ xe * (sm * 2 ^ se) ↔ (m : ℚ) = (xm * sm : Nat) * 2 ^ (xe + se - e) := by
    rw [zpow_sub₀ two_ne_zero, zpow_add₀ two_ne_zero, mul_div_assoc', eq_div_iff he, Nat.cast_mul, mul_mul_mul_comm]
  rw [dyadic_eq_iff, Val.rat_fin, Val.rat_fin, Scale.rat, signedRat, signedRat, mul_assoc, ← signedRat, ← signedRat,
    signedRat_inj (by positivity) (by positivity), hmag, eq_comm (a := n), and_assoc]
  refine and_congr_right fun _ => (and_iff_right_of_imp ?_).symm
  rintro h rfl
  exact hm (by simpa using h)

/-- The model's quotient by a scale is that of R58. -/
theorem roundTo_scaled (t : DType) (mode : Mode) (neg : Bool) {m sm : Nat} (hm : m ≠ 0) (hs : sm ≠ 0) (e se : Int) :
    roundTo t mode neg (if 0 ≤ e - se then m * 2 ^ (e - se).toNat else m)
        (if 0 ≤ e - se then sm else sm * 2 ^ (-(e - se)).toNat) =
      roundRat t mode ((Val.fin neg m e).rat / (Scale.val sm se).rat) := by
  obtain ⟨n, d, hn, hd, hn0, hd0, hq⟩ := exists_mul_two_zpow_div (e - se) (Nat.pos_of_ne_zero hm) (Nat.pos_of_ne_zero hs)
  have hs' : (sm : ℚ) ≠ 0 := by exact_mod_cast hs
  rw [hn, hd, roundTo_eq_roundRat mode neg t hn0 hd0, hq, Val.rat_fin, Scale.rat, zpow_sub₀ two_ne_zero, signedRat, signedRat]
  congr 1
  field_simp

/-- `convert` of the model is that of R58. -/
theorem convertVal_eq_convertRat (v : Val) (t : DType) (sd : Scale) (x : Nat) (mode : Mode) :
    convertVal v t sd x mode = convertRat v t sd x mode := by
  cases v with
  | nan sig => cases hk : dtKind t <;> simp [convertVal, convertRat, hk]
  | inf neg =>
    cases hk : dtKind t with
    | float => simp [convertVal, convertRat, hk]
    | signed | unsigned => rw [convertVal, convertRat, hk]; rfl
  | fin neg m e =>
    cases sd with
    | nan => simp [convertVal, convertRat]
    | val sm se =>
      simp only [convertVal, convertRat, Val.isNan_fin, Val.isInf_fin, Val.neg_fin, Bool.false_eq_true, reduceCtorEq,
        Val.rat_fin_eq_zero_iff, Scale.rat_val_eq_zero_iff, if_false]
      by_cases hm : m = 0
      · simp only [hm, if_true, zeroCode_eq]
        by_cases h : t = .e2m1x <;> simp [h]
      · by_cases hs : sm = 0
        · simp only [hm, hs, if_true, if_false]
        · simp only [roundTo_scaled t mode neg hm hs, hm, hs, if_false]
          refine if_congr ?_ rfl rfl
          have hv : (Val.fin neg m e).rat ≠ 0 := mt Val.rat_fin_eq_zero_iff.1 hm
          cases decodeFloat .e4m3 (x % 256) with
          | nan _ => simp
          | inf _ => simp [hv]
          | fin _ _ _ => simp [extra_eq_iff hm]

/-! ## CVTX -/

/-- The smallest power of two that is not below. -/
theorem clog_two_eq {x : ℚ} (hx : 0 < x) :
    Int.clog 2 x = if x = 2 ^ Int.log 2 x then Int.log 2 x else Int.log 2 x + 1 := by
  have hlow : (2 : ℚ) ^ Int.log 2 x ≤ x := by exact_mod_cast Int.zpow_log_le_self one_lt_two hx
  have hhigh : x ≤ (2 : ℚ) ^ (Int.log 2 x + 1) := by exact_mod_cast (Int.lt_zpow_succ_log_self one_lt_two x).le
  split
  · next h => exact (congrArg _ h).trans (by exact_mod_cast Int.clog_zpow (R := ℚ) one_lt_two _)
  · next h =>
    have h1 := (Int.zpow_lt_iff_lt_clog (b := 2) one_lt_two hx).1 (by exact_mod_cast hlow.lt_of_ne' h)
    have h2 := (Int.le_zpow_iff_clog_le (b := 2) one_lt_two hx).1 (by exact_mod_cast hhigh)
    omega

/-- The exponent of CVTX, as the model finds it. -/
theorem clog_two_div {n d : Nat} (hn : 0 < n) (hd : 0 < d) : Int.clog 2 ((n : ℚ) / d) =
    if (if 0 ≤ floorLog2 n d then n == d * 2 ^ (floorLog2 n d).toNat else n * 2 ^ (-floorLog2 n d).toNat == d) = true then
      floorLog2 n d
    else floorLog2 n d + 1 := by
  have hd' : (d : ℚ) ≠ 0 := by exact_mod_cast hd.ne'
  rw [clog_two_eq (by positivity), ← floorLog2_eq hn hd]
  refine if_congr ?_ rfl rfl
  rw [div_eq_iff hd', mul_comm, ← dyadic_eq_iff]
  split <;> exact beq_iff_eq.symm

/-- The largest magnitude of an element type. -/
theorem elemMax_eq (t : DType) : 0 < (elemMax t).1 ∧ ((elemMax t).1 : ℚ) * 2 ^ (elemMax t).2 =
    if dtKind t = .float then (decodeCode t (dtMaxCode t)).rat else dtMaxI t := by
  by_cases ht : dtKind t = .float
  · obtain ⟨m, e, hd, hv⟩ := decodeCode_mag ht false le_rfl
    have hmax : 0 < dtMaxCode t := lt_of_lt_of_le (by positivity) (two_pow_dtMant_le_dtMaxCode ht)
    have hlt : dtMaxCode t < 2 ^ dtBits t := by have := dtMaxCode_lt_sign ht; have := two_pow_dtBits ht; omega
    have hf : decodeFloat t (dtMaxCode t) = .fin false m e := by
      rw [← hd, decodeCode, ht, dtSign, if_neg Bool.false_ne_true, Nat.zero_add, Nat.mod_eq_of_lt hlt]
    have hem : elemMax t = (m, e) := by rw [elemMax, ht]; simp only [hf]
    rw [if_pos ht, rat_dtMaxCode ht, hem, hv]
    refine ⟨Nat.pos_of_ne_zero ?_, rfl⟩
    rintro rfl
    have h0 : magVal t 0 = 0 := by simp [magVal]
    have := magVal_strictMono t hmax
    simp [h0, ← hv] at this
  · have hmax : 0 < dtMaxI t := by revert ht; cases t <;> decide
    have hem : elemMax t = ((dtMaxI t).toNat, 0) := by
      rw [elemMax]; split <;> trivial
    rw [if_neg ht, hem, zpow_zero, mul_one]
    exact ⟨by omega, by exact_mod_cast Int.toNat_of_nonneg hmax.le⟩

/-- CVTX of the model is that of R114. -/
theorem cvtxCode_eq_fitScale (o : CvtxOp) (c : Nat) : cvtxCode o c = fitScale o.sf o.et (decodeCode (udt o.ut) c) := by
  unfold cvtxCode fitScale
  cases decodeCode (udt o.ut) c with
  | nan _ => cases o.sf <;> simp
  | inf _ => cases o.sf <;> simp
  | fin neg m e =>
    by_cases hm : m = 0
    · cases o.sf <;> simp [hm]
    · obtain ⟨hM0, hM⟩ := elemMax_eq o.et
      obtain ⟨n, d, hn, hd, hn0, hd0, hnd⟩ := exists_mul_two_zpow_div (e - (elemMax o.et).2) (Nat.pos_of_ne_zero hm) hM0
      have hq : |(Val.fin neg m e).rat| / ((elemMax o.et).1 * 2 ^ (elemMax o.et).2) = (n : ℚ) / d := by
        have hM' : ((elemMax o.et).1 : ℚ) ≠ 0 := by exact_mod_cast hM0.ne'
        rw [hnd, Val.rat_fin, abs_signedRat _ (by positivity), zpow_sub₀ two_ne_zero]
        field_simp
      simp only [← hM, hq, hn, hd, hm, Val.isNan_fin, Val.isInf_fin, Val.isZero_fin, beq_iff_eq, Bool.or_self, Bool.false_eq_true,
        if_false]
      cases o.sf with
      | p8 => dsimp only; rw [clog_two_div hn0 hd0, min_comm]
      | q8 => dsimp only; rw [roundTo_eq_roundRat _ _ _ hn0 hd0, signedRat_false]

/-- Settles O9: the conversions of the model are those of R58 and R114. -/
theorem conversions : Obligations.Conversions := by
  unfold Obligations.Conversions
  refine ⟨fun g o => aluDoes_of fun s => ?_, fun g o => aluDoes_of fun s => ?_, fun g o => aluDoes_of fun s => ?_⟩
  · show execCvt g o s = _
    simp only [execCvt, cvtCode, convertInt, convertVal_eq_convertRat]
  · show execCvtq g o s = _
    simp only [execCvtq, cvtqCode, convertVal_eq_convertRat]
  · show execCvtx g o s = _
    simp only [execCvtx, cvtxCode_eq_fitScale]

end Sys2Proof.Machine

/-!
Decoding an encoded instruction (O41). The bytes give back the fields of R63 (`decode_words`). Each group of operands is read back
from the fields that it writes (`Holds`: the head of the encoding, and the reader's answer), and each opcode reads its own group
(`Instr.parses`).
-/
namespace Sys2Proof

/-! ## Bytes and words (R59, R63) -/

theorem wordAt_bytesOfWord_append (w : Word) (bs : List Byte) : wordAt (bytesOfWord w ++ bs) 0 = w := by
  show w.extractLsb' 24 8 ++ w.extractLsb' 16 8 ++ w.extractLsb' 8 8 ++ w.extractLsb' 0 8 = w
  have h1 : w.extractLsb' 24 8 ++ w.extractLsb' 16 8 = w.extractLsb' 16 16 := BitVec.extractLsb'_append_extractLsb'_eq_extractLsb' rfl
  have h2 : w.extractLsb' 16 16 ++ w.extractLsb' 8 8 = w.extractLsb' 8 24 := BitVec.extractLsb'_append_extractLsb'_eq_extractLsb' rfl
  have h3 : w.extractLsb' 8 24 ++ w.extractLsb' 0 8 = w.extractLsb' 0 32 := BitVec.extractLsb'_append_extractLsb'_eq_extractLsb' rfl
  rw [h1, h2, h3, BitVec.extractLsb'_eq_self]

theorem wordAt_bytesOfWord_append_add (w : Word) (bs : List Byte) (n : Nat) :
    wordAt (bytesOfWord w ++ bs) (n + 4) = wordAt bs n := rfl

theorem Fields.word0_lt (f : Fields) : f.word0 < 2 ^ 32 := by
  have : f.len.code < 4 := by cases f.len <;> decide
  unfold Fields.word0
  omega

theorem Fields.word1_lt (f : Fields) : f.word1 < 2 ^ 32 := by
  unfold Fields.word1
  omega

/-- LEN is read back from the first word. -/
theorem Fields.lenOf_word0 (f : Fields) : lenOf (BitVec.ofNat 32 f.word0) = some f.len := by
  have h : f.word0 % 2 ^ 32 % 4 = f.len.code := by
    have : f.len.code < 4 := by cases f.len <;> decide
    unfold Fields.word0
    omega
  rw [lenOf, BitVec.toNat_ofNat, h]
  cases f.len <;> rfl

/-- The extension words are 0 beyond the length. -/
def Fields.ExtClear (f : Fields) : Prop := (f.len = .w2 → f.e0 = 0) ∧ (f.len ≠ .w4 → f.e1 = 0)

/-- The fields are read back from the words, whatever stands beyond the length. -/
theorem Fields.ofWords_words {f : Fields} {w2 w3 : Word} (hx : f.ExtClear) (h2 : f.len ≠ .w2 → w2 = f.e0)
    (h3 : f.len = .w4 → w3 = f.e1) :
    Fields.ofWords f.len (BitVec.ofNat 32 f.word0) (BitVec.ofNat 32 f.word1) w2 w3 = f := by
  have h0 := f.word0_lt
  have h1 := f.word1_lt
  obtain ⟨hx0, hx1⟩ := hx
  have he0 : (if f.len = .w2 then 0 else w2) = f.e0 := by
    split
    · next h => exact (hx0 h).symm
    · next h => exact h2 h
  have he1 : (if f.len = .w4 then w3 else 0) = f.e1 := by
    split
    · next h => exact h3 h
    · next h => exact (hx1 h).symm
  have hl : f.len.code < 4 := by cases f.len <;> decide
  unfold Fields.ofWords
  rw [he0, he1, BitVec.toNat_ofNat, BitVec.toNat_ofNat, Nat.mod_eq_of_lt h0, Nat.mod_eq_of_lt h1]
  obtain ⟨len, op, g1, g2, mod, d, a, b, c, x, e0, e1⟩ := f
  simp only [Fields.word0, Fields.word1, Fields.mk.injEq, true_and, and_true, Fin.ext_iff, Fin.val_ofNat] at hl ⊢
  omega


/-! ## Codes and single fields -/

theorem IntTy.ofCode_code (t : IntTy) : IntTy.ofCode t.code = some t := by cases t <;> rfl
theorem FloatTy.ofCode_code (t : FloatTy) : FloatTy.ofCode t.code = some t := by cases t <;> rfl
theorem UnscaledTy.ofCode_code (t : UnscaledTy) : UnscaledTy.ofCode t.code = some t := by cases t <;> rfl
theorem RandTy.ofCode_code (t : RandTy) : RandTy.ofCode t.code = some t := by cases t <;> rfl
theorem Width.ofCode_code (t : Width) : Width.ofCode t.code = some t := by cases t <;> rfl
theorem Mode.ofCode_code (t : Mode) : Mode.ofCode t.code = some t := by cases t <;> rfl
theorem ScaleFmt.ofCode_code (t : ScaleFmt) : ScaleFmt.ofCode t.code = some t := by cases t <;> rfl
theorem AtomFn.ofCode_code (t : AtomFn) : AtomFn.ofCode t.code = some t := by cases t <;> rfl
theorem CopySize.ofCode_code (t : CopySize) : CopySize.ofCode t.code = some t := by cases t <;> rfl
theorem wideOf_wideCode (w : Bool) : wideOf (wideCode w) = some w := by cases w <;> rfl

theorem IntTy.code_lt (t : IntTy) : t.code < 4 := by cases t <;> decide
theorem FloatTy.code_lt (t : FloatTy) : t.code < 4 := by cases t <;> decide
theorem UnscaledTy.code_lt (t : UnscaledTy) : t.code < 4 := by cases t <;> decide
theorem RandTy.code_lt (t : RandTy) : t.code < 4 := by cases t <;> decide
theorem Width.code_lt (t : Width) : t.code < 8 := by cases t <;> decide
theorem Mode.code_lt (t : Mode) : t.code < 8 := by cases t <;> decide
theorem ScaleFmt.code_lt (t : ScaleFmt) : t.code < 3 := by cases t <;> decide
theorem AtomFn.code_lt (t : AtomFn) : t.code < 16 := by cases t <;> decide
theorem CopySize.code_lt (t : CopySize) : t.code < 3 := by cases t <;> decide
theorem MemOrd.code_lt (o : MemOrd) : o.code < 4 := by cases o <;> simp [MemOrd.code]
theorem VSReg.bit_le (r : VSReg) : r.bit ≤ 1 := by cases r <;> simp [VSReg.bit]
theorem wideCode_lt (w : Bool) : wideCode w < 8 := by cases w <;> decide

/-! A code that fills a field of 8 bits is read back from it. -/

@[simp] theorem Mode.ofCode_byte (t : Mode) : Mode.ofCode (t.code % 256) = some t := by cases t <;> rfl
@[simp] theorem ICond.ofCode_byte (t : ICond) : ICond.ofCode (t.code % 256) = some t := by cases t <;> rfl
@[simp] theorem FCond.ofCode_byte (t : FCond) : FCond.ofCode (t.code % 256) = some t := by cases t <;> rfl
@[simp] theorem DType.ofCode_byte (t : DType) : DType.ofCode (t.code % 256) = some t := by cases t <;> rfl
@[simp] theorem Scope.ofCode_byte (t : Scope) : Scope.ofCode (t.code % 256) = some t := by cases t <;> rfl
@[simp] theorem RecItem.ofCode_byte (t : RecItem) : RecItem.ofCode (t.code % 256) = some t := by cases t <;> rfl
@[simp] theorem TermTy.ofCode_byte (t : TermTy) : TermTy.ofCode (t.code % 256) = some t := by cases t <;> rfl
@[simp] theorem RndTy.ofCode_byte (t : RndTy) : RndTy.ofCode (t.code % 256) = some t := by cases t <;> rfl
@[simp] theorem FenceKind.ofCode_nibble (t : FenceKind) : FenceKind.ofCode (t.code % 16) = some t := by cases t <;> rfl
@[simp] theorem Special.ofCode_byte (t : Special) : Special.ofCode (t.code % 256) = some t := by
  cases t with
  | fault i => revert i; decide
  | _ => rfl

open scoped Fin.NatCast in
@[simp] theorem finOf_cast {n : Nat} (v : Fin n) (hn : n ≤ 256) : finOf n ((v.val : Nat) : Fin 256) = some v := by
  have h : v.val % 256 = v.val := Nat.mod_eq_of_lt (by omega)
  simp [finOf, h]

@[simp] theorem VSReg.of_bit_num (r : VSReg) : VSReg.of r.bit r.num = r := by cases r <;> rfl

@[simp] theorem scopeHint_shByte (h : Hint) (s : Scope) : scopeHint (shByte h s) = some (h, s) := by
  cases h <;> cases s <;> rfl
@[simp] theorem memOrd_code_scope (o : MemOrd) : memOrd o.code o.scope = some o := by cases o <;> rfl

open scoped Fin.NatCast in
@[simp] theorem CtxItem.ofCodes_codes (i : CtxItem) :
    CtxItem.ofCodes (i.codes.1 % 256) ((i.codes.2 : Nat) : Fin 256) = some i := by
  cases i <;> simp [CtxItem.codes, CtxItem.ofCodes, ifOk]

/-! ## Guards, and the head of an encoding -/

theorem Guard.ofField_field (g : Guard) : Guard.ofField g.field = g := by
  obtain ⟨neg, pred⟩ := g
  have := pred.isLt
  cases neg <;> simp [Guard.ofField, Guard.field, Fin.ext_iff] <;> omega

/-- The fields without their operands. -/
def Fields.head (f : Fields) : Fields := { f with mod := 0, d := 0, a := 0, b := 0, c := 0, x := 0 }

/-- The fields have the opcode, guards and length given, and extension words within that length. -/
structure Head (len : Len) (op : Fin 1024) (g : Guards) (f : Fields) : Prop where
  op : f.op = op
  g1 : f.g1 = g.g1.field
  g2 : f.g2 = g.g2.field
  len : f.len = len
  clear : f.ExtClear

section
variable {n : Len} {op : Fin 1024} {g : Guards} {f f' : Fields}

theorem Head.guards (h : Head n op g f) : f.guards = g := by
  simp [Fields.guards, h.g1, h.g2, Guard.ofField_field]

/-- Operands that stand in the first 64 bits leave the head. -/
theorem Head.short (h : f.head = Fields.base op g) : Head .w2 op g f := by
  have e := fun {β : Type} (k : Fields → β) => congrArg k h
  exact ⟨e Fields.op, e Fields.g1, e Fields.g2, e Fields.len, fun _ => e Fields.e0, fun _ => e Fields.e1⟩
/-- The longer forms hold the extension word E0 beside them. -/
theorem Head.long (hn : n ≠ .w2) (h : f.head = { Fields.base op g with len := n, e0 := f.e0 }) : Head n op g f := by
  have e := fun {β : Type} (k : Fields → β) => congrArg k h
  have hl : f.len = n := e Fields.len
  exact ⟨e Fields.op, e Fields.g1, e Fields.g2, hl, fun h2 => absurd (hl.symm.trans h2) hn, fun _ => e Fields.e1⟩
theorem Head.keep (h : Head n op g f) (e : f'.head = f.head) : Head n op g f' := by
  have e := fun {β : Type} (k : Fields → β) => congrArg k e
  obtain ⟨hop, h1, h2, hl, h0, h1'⟩ := h
  refine ⟨(e Fields.op).trans hop, (e Fields.g1).trans h1, (e Fields.g2).trans h2, (e Fields.len).trans hl, fun h => ?_, fun h => ?_⟩
  · exact (e Fields.e0).trans (h0 ((e Fields.len).symm.trans h))
  · exact (e Fields.e1).trans (h1' fun h' => h ((e Fields.len).trans h'))

/-- The fields hold the operands `o` under the opcode and the guards, as `read` reads them. -/
structure Holds {α : Type} (len : Len) (op : Fin 1024) (g : Guards) (read : Fields → Option α) (f : Fields) (o : α) : Prop where
  head : Head len op g f
  read : read f = some o

/-! ## Operand B of the ALU mould (R68 to R70) -/

def Src.len : Src → Len
  | .vec _ | .sc _ | .uni _ | .imm8 _ => .w2
  | .imm32 _ | .uimm32 _ => .w3
  | .imm64 _ | .uimm64 _ => .w4

def Src.isImm8 : Src → Bool
  | .imm8 _ => true
  | .vec _ | .sc _ | .uni _ | .imm32 _ | .uimm32 _ | .imm64 _ | .uimm64 _ => false

theorem Src.isImm8_of_okFloat {b : Src} {t : FloatTy} (h : b.okFloat t = true) : b.isImm8 = false := by
  cases b <;> simp_all [Src.okFloat, Src.isImm8]
theorem Src.isImm8_of_okReg {b : Src} (h : b.okReg = true) : b.isImm8 = false := by
  cases b <;> simp_all [Src.okReg, Src.isImm8]
theorem Src.len_of_okReg {b : Src} (h : b.okReg = true) : b.len = .w2 := by
  cases b <;> simp_all [Src.okReg, Src.len]

variable {b : Src} {hi : Nat}

@[simp] theorem Fields.putSrc_d : (f.putSrc hi b).d = f.d := by cases b <;> rfl
@[simp] theorem Fields.putSrc_a : (f.putSrc hi b).a = f.a := by cases b <;> rfl
@[simp] theorem Fields.putSrc_c : (f.putSrc hi b).c = f.c := by cases b <;> rfl

theorem Head.putSrc (h : Head .w2 op g f) : Head b.len op g (f.putSrc hi b) := by
  obtain ⟨hop, h1, h2, hl, h0, h1'⟩ := h
  have hb : (f.putSrc hi b).len = b.len := by cases b <;> simp [Fields.putSrc, Src.len, hl]
  have hc : (f.putSrc hi b).ExtClear := by
    cases b <;> simp [Fields.ExtClear, Fields.putSrc, hl, h0 hl, h1' (by simp [hl])]
  cases b <;> exact ⟨hop, h1, h2, hb, hc⟩

theorem Fields.mod_putSrc (h : hi < 4) : (f.putSrc hi b).mod.val / 4 = hi := by
  cases b <;> simp [Fields.putSrc] <;> omega

theorem extractLsb'_hi_append_lo (v : BitVec 64) : v.extractLsb' 32 32 ++ v.extractLsb' 0 32 = v := by
  have h : v.extractLsb' 32 32 ++ v.extractLsb' 0 32 = v.extractLsb' 0 64 := BitVec.extractLsb'_append_extractLsb'_eq_extractLsb' rfl
  rw [h, BitVec.extractLsb'_eq_self]

/-- Operand B is read back from its form; X may belong to the entry where it takes no immediate of 8 bits. -/
theorem Fields.src_putSrc (hl : f.len = .w2) (hb : f.b = 0) (hx : f.x = 0) : (f.putSrc hi b).src true = some b := by
  have hm : ∀ k, k < 4 → (hi * 4 + k) % 16 % 4 = k := by omega
  cases b <;> simp [Fields.putSrc, Fields.src, hl, hb, hx, ifOk, hm, Fields.imm64, extractLsb'_hi_append_lo]
theorem Fields.src_putSrc_x (hl : f.len = .w2) (hb : f.b = 0) (hi8 : b.isImm8 = false) (x : Fin 256) :
    ({ f.putSrc hi b with x := x } : Fields).src false = some b := by
  have hm : ∀ k, k < 4 → (hi * 4 + k) % 16 % 4 = k := by omega
  cases b <;> simp [Fields.putSrc, Fields.src, hl, hb, ifOk, hm, Fields.imm64, extractLsb'_hi_append_lo, Src.isImm8] at hi8 ⊢

/-! ## The operand groups of the ALU mould -/

theorem IntBin.holds (o : IntBin) : Holds o.b.len op g Fields.intBin (o.put (Fields.base op g)) o :=
  ⟨(Head.short rfl).putSrc, by
    simp [Fields.intBin, IntBin.put, Fields.base, ifOk, Fields.mod_putSrc, Fields.src_putSrc, IntTy.ofCode_code, IntTy.code_lt]⟩

theorem IntTri.holds (o : IntTri) : Holds o.b.len op g Fields.intTri (o.put (Fields.base op g)) o :=
  ⟨(Head.short rfl).putSrc, by
    simp [Fields.intTri, IntTri.put, Fields.base, Fields.mod_putSrc, Fields.src_putSrc, IntTy.ofCode_code, IntTy.code_lt]⟩
theorem LeaOp.holds (o : LeaOp) : Holds o.b.len op g Fields.lea (o.put (Fields.base op g)) o :=
  ⟨(Head.short rfl).putSrc, by
    simp [Fields.lea, LeaOp.put, Fields.base, Fields.mod_putSrc, Fields.src_putSrc, IntTy.ofCode_code, IntTy.code_lt]⟩
theorem MovOp.holds (o : MovOp) : Holds o.b.len op g Fields.mov (o.put (Fields.base op g)) o :=
  ⟨(Head.short rfl).putSrc, by
    simp [Fields.mov, MovOp.put, Fields.base, ifOk, Fields.mod_putSrc, Fields.src_putSrc, IntTy.ofCode_code, IntTy.code_lt]⟩
theorem SelOp.holds (o : SelOp) : Holds o.b.len op g Fields.selOp (o.put (Fields.base op g)) o :=
  ⟨(Head.short rfl).putSrc, by
    simp [Fields.selOp, SelOp.put, Fields.base, Fields.mod_putSrc, Fields.src_putSrc, IntTy.ofCode_code, IntTy.code_lt]⟩
theorem ICmpOp.holds (o : ICmpOp) : Holds o.b.len op g Fields.icmpOp (o.put (Fields.base op g)) o :=
  ⟨(Head.short rfl).putSrc, by
    simp [Fields.icmpOp, ICmpOp.put, Fields.base, Fields.mod_putSrc, Fields.src_putSrc, IntTy.ofCode_code, IntTy.code_lt]⟩

theorem FloatBin.head (o : FloatBin) : Head o.b.len op g (o.put (Fields.base op g)) := ((Head.short rfl).putSrc).keep rfl
theorem FloatBin.holds (o : FloatBin) (h : o.b.isImm8 = false) : Holds o.b.len op g Fields.floatBin (o.put (Fields.base op g)) o :=
  ⟨o.head, by
    rw [Fields.floatBin, FloatBin.put, Fields.src_putSrc_x rfl rfl h]
    simp [Fields.base, ifOk, Fields.mod_putSrc, FloatTy.ofCode_code, FloatTy.code_lt]⟩
theorem FloatTri.head (o : FloatTri) : Head o.b.len op g (o.put (Fields.base op g)) := ((Head.short rfl).putSrc).keep rfl
theorem FloatTri.holds (o : FloatTri) (h : o.b.isImm8 = false) : Holds o.b.len op g Fields.floatTri (o.put (Fields.base op g)) o :=
  ⟨o.head, by
    rw [Fields.floatTri, FloatTri.put, Fields.src_putSrc_x rfl rfl h]
    simp [Fields.base, Fields.mod_putSrc, FloatTy.ofCode_code, FloatTy.code_lt]⟩
theorem FloatSel.head (o : FloatSel) : Head o.b.len op g (o.put (Fields.base op g)) := ((Head.short rfl).putSrc).keep rfl
theorem FloatSel.holds (o : FloatSel) (h : o.b.isImm8 = false) : Holds o.b.len op g Fields.floatSel (o.put (Fields.base op g)) o :=
  ⟨o.head, by
    rw [Fields.floatSel, FloatSel.put, Fields.src_putSrc_x rfl rfl h]
    simp [Fields.base, ifOk, Fields.mod_putSrc, FloatTy.ofCode_code, FloatTy.code_lt]⟩
theorem FCmpOp.head (o : FCmpOp) : Head o.b.len op g (o.put (Fields.base op g)) := ((Head.short rfl).putSrc).keep rfl
theorem FCmpOp.holds (o : FCmpOp) (h : o.b.isImm8 = false) : Holds o.b.len op g Fields.fcmpOp (o.put (Fields.base op g)) o :=
  ⟨o.head, by
    rw [Fields.fcmpOp, FCmpOp.put, Fields.src_putSrc_x rfl rfl h]
    simp [Fields.base, ifOk, Fields.mod_putSrc, FloatTy.ofCode_code, FloatTy.code_lt]⟩
theorem CvtqOp.head (o : CvtqOp) : Head o.b.len op g (o.put (Fields.base op g)) := ((Head.short rfl).putSrc).keep rfl
theorem CvtqOp.holds (o : CvtqOp) (h : o.b.isImm8 = false) : Holds o.b.len op g Fields.cvtqOp (o.put (Fields.base op g)) o :=
  ⟨o.head, by
    have hs := o.sf.code_lt
    have hm := o.mode.code_lt
    have e1 : (o.sf.code * 16 + (if o.dequant = true then 8 else 0) + o.mode.code) % 256 / 16 = o.sf.code := by split <;> omega
    have e2 : (o.sf.code * 16 + (if o.dequant = true then 8 else 0) + o.mode.code) % 256 / 8 % 2 = o.dequant.toNat := by
      cases o.dequant <;> simp <;> omega
    have e3 : (o.sf.code * 16 + (if o.dequant = true then 8 else 0) + o.mode.code) % 256 % 8 = o.mode.code := by split <;> omega
    rw [Fields.cvtqOp, CvtqOp.put, Fields.src_putSrc_x rfl rfl h]
    simp [Fields.base, Fields.mod_putSrc, UnscaledTy.ofCode_code, UnscaledTy.code_lt, e1, e2, e3, ScaleFmt.ofCode_code,
      Mode.ofCode_code]⟩

/-- The type and the uniform bit of a one-source entry are read back from MOD. -/
theorem mod_uniCode {t : Nat} (h : t < 4) (u : Bool) : (t * 4 + uniCode u) % 16 / 4 = t ∧ (t * 4 + uniCode u) % 16 % 4 = uniCode u := by
  cases u <;> simp [uniCode] <;> omega
theorem Fields.uniBit_of_mod {u : Bool} (hl : f.len = .w2) (hm : f.mod.val % 4 = uniCode u) : f.uniBit = some u := by
  cases u <;> simp [Fields.uniBit, hl, hm, uniCode]

theorem IntUn.holds (o : IntUn) : Holds .w2 op g Fields.intUn (o.put (Fields.base op g)) o :=
  ⟨.short rfl, by
    obtain ⟨ht, hu⟩ := mod_uniCode o.ty.code_lt o.uniform
    rw [Fields.intUn, Fields.uniBit_of_mod rfl hu]
    simp [IntUn.put, Fields.base, ifOk, ht, IntTy.ofCode_code]⟩
theorem FloatUn.holds (o : FloatUn) : Holds .w2 op g Fields.floatUn (o.put (Fields.base op g)) o :=
  ⟨.short rfl, by
    obtain ⟨ht, hu⟩ := mod_uniCode o.ty.code_lt o.uniform
    rw [Fields.floatUn, Fields.uniBit_of_mod rfl hu]
    simp [FloatUn.put, Fields.base, ifOk, ht, FloatTy.ofCode_code]⟩
theorem FrintOp.holds (o : FrintOp) : Holds .w2 op g Fields.frintOp (o.put (Fields.base op g)) o :=
  ⟨.short rfl, by
    obtain ⟨ht, hu⟩ := mod_uniCode o.ty.code_lt o.uniform
    rw [Fields.frintOp, Fields.uniBit_of_mod rfl hu]
    simp [FrintOp.put, Fields.base, ifOk, ht, FloatTy.ofCode_code]⟩
theorem CvtOp.holds (o : CvtOp) : Holds .w2 op g Fields.cvtOp (o.put (Fields.base op g)) o :=
  ⟨.short rfl, by
    obtain ⟨ht, hu⟩ := mod_uniCode (t := 0) (by decide) o.uniform
    rw [Nat.zero_mul, Nat.zero_add] at ht hu
    rw [Fields.cvtOp, Fields.uniBit_of_mod rfl hu]
    simp [CvtOp.put, Fields.base, ifOk, ht]⟩
theorem CvtxOp.holds (o : CvtxOp) : Holds .w2 op g Fields.cvtxOp (o.put (Fields.base op g)) o :=
  ⟨.short rfl, by
    obtain ⟨ht, hu⟩ := mod_uniCode o.ut.code_lt o.uniform
    have hs := o.sf.code_lt
    have e1 : o.sf.code * 16 % 256 / 16 = o.sf.code := by omega
    rw [Fields.cvtxOp, Fields.uniBit_of_mod rfl hu]
    simp [CvtxOp.put, Fields.base, ifOk, ht, e1, UnscaledTy.ofCode_code, ScaleFmt.ofCode_code]⟩
theorem RandOp.holds (o : RandOp) : Holds .w2 op g Fields.randOp (o.put (Fields.base op g)) o :=
  ⟨.short rfl, by
    have ht := o.ty.code_lt
    have e1 : o.ty.code * 4 % 16 / 4 = o.ty.code := by omega
    simp [Fields.randOp, RandOp.put, Fields.base, ifOk, e1, RandTy.ofCode_code]⟩

theorem PredBin.holds (o : PredBin) : Holds .w2 op g Fields.predBin (o.put (Fields.base op g)) o :=
  ⟨.short rfl, by simp [Fields.predBin, PredBin.put, Fields.base, ifOk]⟩
theorem PredUn.holds (o : PredUn) : Holds .w2 op g Fields.predUn (o.put (Fields.base op g)) o :=
  ⟨.short rfl, by simp [Fields.predUn, PredUn.put, Fields.base, ifOk]⟩

/-! ## Cross-lane instructions -/

theorem PermOp.holds (o : PermOp) : Holds .w2 op g Fields.permOp (o.put (Fields.base op g)) o :=
  ⟨.short rfl, by obtain ⟨pair, d, a, i⟩ := o; cases pair <;> simp [Fields.permOp, PermOp.put, Fields.base, ifOk]⟩
theorem LaneOp.holds (o : LaneOp) : Holds .w2 op g Fields.laneOp (o.put (Fields.base op g)) o :=
  ⟨.short rfl, by obtain ⟨pair, d, a⟩ := o; cases pair <;> simp [Fields.laneOp, LaneOp.put, Fields.base, ifOk]⟩
theorem LaneShift.holds (o : LaneShift) : Holds .w2 op g Fields.laneShift (o.put (Fields.base op g)) o :=
  ⟨.short rfl, by
    obtain ⟨wrap, pair, d, a, n⟩ := o
    cases wrap <;> cases pair <;> simp [Fields.laneShift, LaneShift.put, Fields.base, ifOk]⟩
theorem BcastOp.holds (o : BcastOp) : Holds .w2 op g Fields.bcastOp (o.put (Fields.base op g)) o := by
  obtain ⟨pair, d, a, i⟩ := o
  cases i with
  | imm j => exact ⟨.short rfl, by cases pair <;> simp [Fields.bcastOp, BcastOp.put, Fields.base, ifOk]⟩
  | sc r => exact ⟨.short rfl, by cases pair <;> simp [Fields.bcastOp, BcastOp.put, Fields.base, ifOk]⟩
theorem VoteOp.holds (o : VoteOp) : Holds .w2 op g Fields.voteOp (o.put (Fields.base op g)) o := by
  cases o <;> exact ⟨.short rfl, by simp [Fields.voteOp, VoteOp.put, Fields.base]⟩

/-! ## The global mould (R152, R154) -/

theorem VSReg.bit_mod (r : VSReg) (k : Nat) : (k * 2 + r.bit) % 16 % 2 = r.bit := by
  have := r.bit_le
  omega
theorem VSReg.bit_div (r : VSReg) {k : Nat} (h : k < 8) : (k * 2 + r.bit) % 16 / 2 = k := by
  have := r.bit_le
  omega

/-- The length that the addend K decides. -/
def lenOfAddend : Option (BitVec 32) → Len
  | none => .w2
  | some _ => .w3

variable {a : RecAddr}

@[simp] theorem Fields.putAddr_d : (f.putAddr hi a).d = f.d := by unfold Fields.putAddr; cases a.k <;> rfl
@[simp] theorem Fields.putAddr_c : (f.putAddr hi a).c = f.c := by unfold Fields.putAddr; cases a.k <;> rfl
@[simp] theorem Fields.putAddr_x : (f.putAddr hi a).x = f.x := by unfold Fields.putAddr; cases a.k <;> rfl

theorem Fields.mod_putAddr (h : hi < 8) : (f.putAddr hi a).mod.val / 2 = hi := by
  unfold Fields.putAddr
  cases a.k <;> exact a.idx.bit_div h

theorem Head.putAddr (h : Head .w2 op g f) : Head (lenOfAddend a.k) op g (f.putAddr hi a) := by
  obtain ⟨hop, h1, h2, hl, h0, h1'⟩ := h
  unfold Fields.putAddr
  cases a.k with
  | none => exact ⟨hop, h1, h2, hl, h0, h1'⟩
  | some k => exact ⟨hop, h1, h2, rfl, by simp, fun _ => h1' (by simp [hl])⟩

theorem Fields.recAddr_putAddr (hl : f.len = .w2) : (f.putAddr hi a).recAddr = some a := by
  obtain ⟨idx, buf, k⟩ := a
  have := idx.bit_mod hi
  cases k <;> simp [Fields.putAddr, Fields.recAddr, hl, this]

theorem MemOrd.code_byte (o : MemOrd) : o.code % 256 = o.code := by
  have := o.code_lt
  omega

theorem MemOp.holds (o : MemOp) : Holds (lenOfAddend o.addr.k) op g Fields.memOp (o.put (Fields.base op g)) o :=
  ⟨(Head.short rfl).putAddr, by
    simp [Fields.memOp, MemOp.put, Fields.base, Fields.mod_putAddr, Fields.recAddr_putAddr, Width.ofCode_code, Width.code_lt,
      MemOrd.code_byte]⟩
theorem AtomOp.holds (o : AtomOp) : Holds (lenOfAddend o.addr.k) op g Fields.atomOp (o.put (Fields.base op g)) o :=
  ⟨(Head.short rfl).putAddr, by
    have ho := o.ord.code_lt
    have hf := o.fn.code_lt
    have e1 : (o.fn.code * 4 + o.ord.code) % 256 % 4 = o.ord.code := by omega
    have e2 : (o.fn.code * 4 + o.ord.code) % 256 / 4 = o.fn.code := by omega
    simp [Fields.atomOp, AtomOp.put, Fields.base, ifOk, Fields.mod_putAddr, Fields.recAddr_putAddr, wideOf_wideCode, wideCode_lt, e1, e2,
      AtomFn.ofCode_code]⟩
theorem CasOp.holds (o : CasOp) : Holds (lenOfAddend o.addr.k) op g Fields.casOp (o.put (Fields.base op g)) o :=
  ⟨(Head.short rfl).putAddr, by
    simp [Fields.casOp, CasOp.put, Fields.base, ifOk, Fields.mod_putAddr, Fields.recAddr_putAddr, wideOf_wideCode, wideCode_lt,
      MemOrd.code_byte]⟩
theorem AaccSrc.kind_lt (r : AaccSrc) : r.kind < 8 := by cases r <;> simp [AaccSrc.kind]
theorem Fields.aaccSrc_of_kind_num {r : AaccSrc} (hm : f.mod.val / 2 = r.kind) (hd : f.d = r.num) : f.aaccSrc = some r := by
  cases r <;> simp [Fields.aaccSrc, hm, hd, AaccSrc.kind, AaccSrc.num]
theorem AaccOp.holds (o : AaccOp) : Holds (lenOfAddend o.addr.k) op g Fields.aaccOp (o.put (Fields.base op g)) o :=
  ⟨(Head.short rfl).putAddr, by
    rw [Fields.aaccOp, AaccOp.put, Fields.aaccSrc_of_kind_num (Fields.mod_putAddr o.src.kind_lt) Fields.putAddr_d]
    simp [Fields.base, ifOk, Fields.recAddr_putAddr, MemOrd.code_byte]⟩
theorem LdaccOp.holds (o : LdaccOp) : Holds (lenOfAddend o.addr.k) op g Fields.ldaccOp (o.put (Fields.base op g)) o :=
  ⟨(Head.short rfl).putAddr, by
    have hz : o.zero.toNat < 8 := by cases o.zero <;> decide
    have hz' : o.zero.toNat < 2 := by cases o.zero <;> decide
    simp [Fields.ldaccOp, LdaccOp.put, Fields.base, ifOk, Fields.mod_putAddr hz, Fields.recAddr_putAddr, MemOrd.code_byte, hz']⟩
theorem PrefOp.holds (o : PrefOp) : Holds (lenOfAddend o.addr.k) op g Fields.prefOp (o.put (Fields.base op g)) o :=
  ⟨(Head.short rfl).putAddr, by
    simp [Fields.prefOp, PrefOp.put, Fields.base, ifOk, Fields.mod_putAddr, Fields.recAddr_putAddr]⟩

theorem LineSel.holds (o : LineSel) : Holds .w2 op g Fields.lineSel (o.put (Fields.base op g)) o := by
  cases o with
  | line i r => exact ⟨.short rfl, by cases i <;> simp [Fields.lineSel, LineSel.put, Fields.base, VSReg.bit, VSReg.num, VSReg.of]⟩
  | all => exact ⟨.short rfl, by simp [Fields.lineSel, LineSel.put, Fields.base, ifOk]⟩

theorem ScratchOp.holds (o : ScratchOp) : Holds (lenOfAddend o.k) op g Fields.scratchOp (o.put (Fields.base op g)) o := by
  obtain ⟨w, d, off, k⟩ := o
  have hw := w.code_lt
  cases off with
  | reg r =>
    have hd := r.bit_div hw
    have hm := r.bit_mod w.code
    cases k with
    | none => exact ⟨.short rfl, by simp [Fields.scratchOp, ScratchOp.put, Fields.base, hd, hm, Width.ofCode_code]⟩
    | some k =>
      exact ⟨Head.long nofun rfl, by simp [Fields.scratchOp, ScratchOp.put, Fields.base, hd, hm, Width.ofCode_code]⟩
  | zero ix =>
    have hd : (w.code * 2 + ix.toNat) % 16 / 2 = w.code := by have := ix.toNat_lt; omega
    have hm : (w.code * 2 + ix.toNat) % 16 % 2 = ix.toNat := by have := ix.toNat_lt; omega
    have hi : (ix.toNat == 1) = ix := by cases ix <;> rfl
    cases k with
    | none => exact ⟨.short rfl, by simp [Fields.scratchOp, ScratchOp.put, Fields.base, ifOk, hd, hm, hi, Width.ofCode_code]⟩
    | some k =>
      exact ⟨Head.long nofun rfl, by simp [Fields.scratchOp, ScratchOp.put, Fields.base, ifOk, hd, hm, hi, Width.ofCode_code]⟩

theorem PassKind.ctl_lt (k : PassKind) : k.ctl < 32 := by cases k <;> simp [PassKind.ctl]; omega

theorem PassOp.holds (o : PassOp) : Holds .w3 op g Fields.passOp (o.put (Fields.base op g)) o := by
  obtain ⟨w, ord, hint, d, idx, buf, kind, e⟩ := o
  have hd := idx.bit_div w.code_lt
  have hm := idx.bit_mod w.code
  have hk := kind.ctl_lt
  have hc : (e.val + 2 ^ 8 * kind.ctl) % 2 ^ 32 / 2 ^ 8 = kind.ctl := by omega
  have he : fld ((e.val + 2 ^ 8 * kind.ctl) % 2 ^ 32) = e := Fin.ext (by rw [Fin.val_ofNat]; omega)
  refine ⟨Head.long (by decide) rfl, ?_⟩
  simp only [Fields.passOp, PassOp.put, BitVec.toNat_ofNat, hc, he, Fin.val_ofNat, hd, hm]
  cases kind with
  | grp q => fin_cases q <;> simp [PassKind.ctl, Width.ofCode_code, MemOrd.code_byte]
  | _ => simp [PassKind.ctl, Width.ofCode_code, MemOrd.code_byte]

theorem FenceOp.holds (o : FenceOp) : Holds .w2 op g Fields.fenceOp (o.put (Fields.base op g)) o :=
  ⟨.short rfl, by simp [Fields.fenceOp, FenceOp.put, Fields.base, ifOk]⟩

/-! ## Copies, tags and records (R174, R179, R182) -/

@[simp] theorem copyCtl_copyE0 (sz : CopySize) (t : TagNum) (e : RegNum) : copyCtl (copyE0 sz t e) = some (sz, t, e) := by
  have hs := sz.code_lt
  have h1 : (e.val + 2 ^ 8 * (sz.code * 64 + t.val)) % 2 ^ 32 / 2 ^ 8 = sz.code * 64 + t.val := by omega
  have h2 : (sz.code * 64 + t.val) / 64 = sz.code := by omega
  have h3 : (sz.code * 64 + t.val) % 64 = t.val := by omega
  have h4 : fld ((e.val + 2 ^ 8 * (sz.code * 64 + t.val)) % 2 ^ 32) = e := Fin.ext (by rw [Fin.val_ofNat]; omega)
  unfold copyCtl copyE0
  rw [BitVec.toNat_ofNat, h1, h4]
  simp [h2, h3, CopySize.ofCode_code]

theorem Fields.copyRegs_of {d a : VSReg} (hm : f.mod = modf (d.bit * 2 + a.bit)) (hd : f.d = d.num) (ha : f.a = a.num) :
    f.copyRegs = some (d, a) := by
  have := d.bit_le
  have := a.bit_le
  have h1 : (d.bit * 2 + a.bit) % 16 < 4 := by omega
  have h2 := a.bit_div (k := d.bit) (by omega)
  simp [Fields.copyRegs, hm, hd, ha, ifOk, h1, h2, a.bit_mod]

theorem CopyOp.holds (o : CopyOp) : Holds .w3 op g Fields.copyOp (o.put (Fields.base op g)) o :=
  ⟨Head.long (by decide) rfl, by
    rw [Fields.copyOp, Fields.copyRegs_of (d := o.d) (a := o.a) rfl rfl rfl]
    simp [CopyOp.put, Fields.base, ifOk]⟩
theorem CopyGGOp.holds (o : CopyGGOp) : Holds .w3 op g Fields.copyGGOp (o.put (Fields.base op g)) o :=
  ⟨Head.long (by decide) rfl, by
    rw [Fields.copyGGOp, Fields.copyRegs_of (d := o.d) (a := o.a) rfl rfl rfl]
    simp [CopyGGOp.put, Fields.base, ifOk]⟩

theorem TagSet.tagWait_holds (t : TagSet) : Holds .w2 op g Fields.tagWait (t.put 0 (Fields.base op g)) t := by
  cases t <;> exact ⟨.short rfl, by simp [Fields.tagWait, Fields.tagSet, TagSet.put, Fields.base, ifOk]⟩
theorem TagQuery.holds (o : TagQuery) : Holds .w2 op g Fields.tagQuery (o.put (Fields.base op g)) o := by
  obtain ⟨d, t⟩ := o
  cases t <;> exact ⟨.short rfl, by
    cases d <;> simp [Fields.tagQuery, Fields.tagSet, TagQuery.put, TagSet.put, Fields.base, ifOk, VSReg.bit, VSReg.num, VSReg.of]⟩

theorem RecdOp.holds (o : RecdOp) : Holds .w2 op g Fields.recdOp (o.put (Fields.base op g)) o :=
  ⟨.short rfl, by
    obtain ⟨d, b, a, drop, trap⟩ := o
    have h := drop.isLt
    have h1 : (drop.toNat + 16 * trap.toNat) % 256 < 32 := by have := trap.toNat_lt; omega
    have h2 : BitVec.ofNat 4 ((drop.toNat + 16 * trap.toNat) % 256) = drop := by
      apply BitVec.eq_of_toNat_eq; rw [BitVec.toNat_ofNat]; omega
    have h3 : ((drop.toNat + 16 * trap.toNat) % 256 / 16 == 1) = trap := by cases trap <;> simp <;> omega
    simp [Fields.recdOp, RecdOp.put, Fields.base, ifOk, h1, h2, h3]⟩
theorem RecqOp.holds (o : RecqOp) : Holds .w2 op g Fields.recqOp (o.put (Fields.base op g)) o :=
  ⟨.short rfl, by simp [Fields.recqOp, RecqOp.put, Fields.base, ifOk]⟩

/-! ## Long accumulators and tiles (R188, R192, R196, R204) -/

theorem laOne_holds (d : LaNum) : Holds .w2 op g Fields.laOne { Fields.base op g with d := fld d.val } d :=
  ⟨.short rfl, by simp [Fields.laOne, Fields.base, ifOk]⟩
theorem LaPair.holds (o : LaPair) : Holds .w2 op g Fields.laPair (o.put (Fields.base op g)) o :=
  ⟨.short rfl, by simp [Fields.laPair, LaPair.put, Fields.base, ifOk]⟩
theorem VSReg.bit_nibble (r : VSReg) : r.bit % 16 = r.bit := by have := r.bit_le; omega
theorem LfmaOp.holds (o : LfmaOp) : Holds .w2 op g Fields.lfmaOp (o.put (Fields.base op g)) o :=
  ⟨.short rfl, by simp [Fields.lfmaOp, LfmaOp.put, Fields.base, ifOk, VSReg.bit_nibble, VSReg.bit_le]⟩
theorem LaddOp.holds (o : LaddOp) : Holds .w2 op g Fields.laddOp (o.put (Fields.base op g)) o :=
  ⟨.short rfl, by simp [Fields.laddOp, LaddOp.put, Fields.base, ifOk, VSReg.bit_nibble, VSReg.bit_le]⟩
theorem LscaleOp.holds (o : LscaleOp) : Holds .w2 op g Fields.lscaleOp (o.put (Fields.base op g)) o := by
  obtain ⟨d, a, k⟩ := o
  cases k <;> exact ⟨.short rfl, by simp [Fields.lscaleOp, LscaleOp.put, Fields.base, ifOk]⟩
theorem LrndOp.holds (o : LrndOp) : Holds .w2 op g Fields.lrndOp (o.put (Fields.base op g)) o :=
  ⟨.short rfl, by simp [Fields.lrndOp, LrndOp.put, Fields.base, ifOk]⟩
theorem LquoOp.holds (o : LquoOp) : Holds .w2 op g Fields.lquoOp (o.put (Fields.base op g)) o :=
  ⟨.short rfl, by simp [Fields.lquoOp, LquoOp.put, Fields.base, ifOk]⟩

theorem SpillAddr.head_put (o : SpillAddr) : (o.put f).head = f.head := by
  unfold SpillAddr.put
  cases o.buf <;> rfl
theorem SpillAddr.put_d (o : SpillAddr) : (o.put f).d = f.d := by
  unfold SpillAddr.put
  cases o.buf <;> rfl
theorem Fields.spillAddr_put (o : SpillAddr) (hb : f.b = 0) (hc : f.c = 0) : (o.put f).spillAddr = some o := by
  obtain ⟨a, buf, k⟩ := o
  cases buf <;> cases a <;> simp [SpillAddr.put, Fields.spillAddr, hb, hc, ifOk, VSReg.bit, VSReg.num, VSReg.of]
theorem LmemOp.holds (o : LmemOp) : Holds .w2 op g Fields.lmemOp (o.put (Fields.base op g)) o :=
  ⟨.short (SpillAddr.head_put _), by
    rw [Fields.lmemOp, LmemOp.put, Fields.spillAddr_put _ rfl rfl]
    simp [SpillAddr.put_d]⟩
theorem MmemOp.holds (o : MmemOp) : Holds .w2 op g Fields.mmemOp (o.put (Fields.base op g)) o :=
  ⟨.short (SpillAddr.head_put _), by
    rw [Fields.mmemOp, MmemOp.put, Fields.spillAddr_put _ rfl rfl]
    simp [SpillAddr.put_d]⟩

/-- MREG and MEN (R73), from bit 16 of E0. -/
def mregCode : Option RegNum → Nat
  | none => 0
  | some r => r.val + 256

theorem MatExt.toNat_word (e : MatExt) : e.word.toNat =
    e.fa.val + 16 * e.fb.val + 256 * e.win.val + 4096 * e.ta.val + 65536 * mregCode e.m := by
  obtain ⟨fa, fb, win, ta, m⟩ := e
  unfold MatExt.word
  rw [BitVec.toNat_ofNat]
  cases m <;> simp only [mregCode] <;> omega

/-- The matrix extension is read back: each of its fields by its place in E0. -/
theorem Fields.matExt_word (e : MatExt) (h0 : f.e0 = e.word) (h1 : f.e1 = 0) : f.matExt = some e := by
  have hn := e.toNat_word
  obtain ⟨fa, fb, win, ta, m⟩ := e
  rw [← h0] at hn
  dsimp only at hn
  have b0 : f.e0.toNat % 16 = fa.val := by omega
  have b1 : f.e0.toNat / 16 % 16 = fb.val := by omega
  have b2 : f.e0.toNat / 256 % 16 = win.val := by omega
  have b3 : f.e0.toNat / 4096 % 16 = ta.val := by omega
  have b4 : f.e0.toNat / 65536 % 256 = mregCode m % 256 := by omega
  have b5 : f.e0.toNat / 16777216 = mregCode m / 256 := by omega
  cases m with
  | none => simp [Fields.matExt, b0, b1, b2, b3, b4, b5, h1, mregCode, ifOk]
  | some r =>
    have c0 : (r.val + 256) % 256 = r.val := by omega
    have c1 : (r.val + 256) / 256 = 1 := by omega
    simp only [mregCode, c0, c1] at b4 b5
    simp [Fields.matExt, b0, b1, b2, b3, b4, b5, h1]
theorem MmaOp.holds (o : MmaOp) : Holds .w4 op g Fields.mmaOp (o.put (Fields.base op g)) o :=
  ⟨Head.long (by decide) rfl, by
    rw [Fields.mmaOp, Fields.matExt_word _ rfl rfl]
    obtain ⟨col, ta, fa, fb, win, a, b, m⟩ := o
    cases col <;> simp [MmaOp.put, Fields.matHead, Fields.base, ifOk]⟩
theorem MselOp.holds (o : MselOp) : Holds .w4 op g Fields.mselOp (o.put (Fields.base op g)) o :=
  ⟨Head.long (by decide) rfl, by
    rw [Fields.mselOp, Fields.matExt_word _ rfl rfl]
    obtain ⟨col, ta, fa, win, a, b⟩ := o
    cases col <;> simp [MselOp.put, Fields.matHead, Fields.base, ifOk]⟩

theorem taOne_holds (d : TaNum) : Holds .w2 op g Fields.taOne { Fields.base op g with d := fld d.val } d :=
  ⟨.short rfl, by simp [Fields.taOne, Fields.base, ifOk]⟩
theorem TaPair.holds (o : TaPair) : Holds .w2 op g Fields.taPair (o.put (Fields.base op g)) o :=
  ⟨.short rfl, by simp [Fields.taPair, TaPair.put, Fields.base, ifOk]⟩
theorem MrndOp.holds (o : MrndOp) : Holds .w2 op g Fields.mrndOp (o.put (Fields.base op g)) o :=
  ⟨.short rfl, by simp [Fields.mrndOp, MrndOp.put, Fields.base, ifOk]⟩
theorem MquoOp.holds (o : MquoOp) : Holds .w2 op g Fields.mquoOp (o.put (Fields.base op g)) o :=
  ⟨.short rfl, by simp [Fields.mquoOp, MquoOp.put, Fields.base, ifOk]⟩

/-! ## Control, system and special registers (R127, R30) -/

theorem Fields.off_putOff (off : BitVec 32) : (f.putOff off).off = off := by
  have := off.isLt
  apply BitVec.eq_of_toNat_eq
  simp [Fields.off, Fields.putOff]
  omega
theorem Fields.target_putTarget (r : VSReg) (hb : f.b = 0) (hc : f.c = 0) (hx : f.x = 0) : (f.putTarget r).target = some r := by
  simp [Fields.target, Fields.putTarget, ifOk, hb, hc, hx, VSReg.bit_nibble, VSReg.bit_le]
theorem JtblOp.holds (o : JtblOp) : Holds .w3 op g Fields.jtblOp (o.put (Fields.base op g)) o :=
  ⟨Head.long (by decide) rfl, by simp [Fields.jtblOp, JtblOp.put, Fields.base, ifOk, VSReg.bit_nibble, VSReg.bit_le]⟩
theorem RepOp.holds (o : RepOp) : Holds .w2 op g Fields.repOp (o.put (Fields.base op g)) o := by
  obtain ⟨count, stride, mask⟩ := o
  have h := mask.isLt
  have h1 : mask.toNat % 256 < 16 := by omega
  have h2 : BitVec.ofNat 4 (mask.toNat % 256) = mask := by
    apply BitVec.eq_of_toNat_eq; rw [BitVec.toNat_ofNat]; omega
  cases count <;> exact ⟨.short rfl, by simp [Fields.repOp, RepOp.put, Fields.base, ifOk, h1, h2]⟩
theorem codeX_holds (n : BitVec 8) : Holds .w2 op g Fields.codeX { Fields.base op g with x := n.toFin } n :=
  ⟨.short rfl, by simp [Fields.codeX, Fields.base, ifOk]⟩
theorem barScope_holds (s : Scope) : Holds .w2 op .always Fields.barScope { Fields.base op .always with x := fld s.code } s :=
  ⟨.short rfl, by simp [Fields.barScope, Fields.base, ifOk, Fields.unguarded]; decide⟩
theorem allot_holds (n : Fin 33) : Holds .w2 op g Fields.allot { Fields.base op g with x := fld n.val } n :=
  ⟨.short rfl, by simp [Fields.allot, Fields.base, ifOk]⟩
theorem LnchOp.holds (o : LnchOp) : Holds .w2 op g Fields.lnchOp (o.put (Fields.base op g)) o :=
  ⟨.short rfl, by obtain ⟨sys, d, a, n⟩ := o; cases sys <;> simp [Fields.lnchOp, LnchOp.put, Fields.base]⟩
theorem MgmtOp.holds (o : MgmtOp) : Holds .w2 op g Fields.mgmtOp (o.put (Fields.base op g)) o :=
  ⟨.short rfl, by simp [Fields.mgmtOp, MgmtOp.put, Fields.base, ifOk]⟩
theorem CtxOp.holds_rd (o : CtxOp) : Holds .w2 op g Fields.ctxrdOp (o.putRd (Fields.base op g)) o :=
  ⟨.short rfl, by simp [Fields.ctxrdOp, CtxOp.putRd, Fields.base, ifOk, VSReg.bit_nibble, VSReg.bit_le]⟩
theorem CtxOp.holds_wr (o : CtxOp) : Holds .w2 op g Fields.ctxwrOp (o.putWr (Fields.base op g)) o :=
  ⟨.short rfl, by simp [Fields.ctxwrOp, CtxOp.putWr, Fields.base, ifOk, VSReg.bit_nibble, VSReg.bit_le]⟩
theorem MfsOp.holds (o : MfsOp) : Holds .w2 op g Fields.mfsOp (o.put (Fields.base op g)) o :=
  ⟨.short rfl, by
    obtain ⟨w, d, sr⟩ := o
    cases w <;> cases d <;> simp [Fields.mfsOp, MfsOp.put, Fields.base, ifOk, VSReg.bit, VSReg.num, VSReg.of]⟩
theorem MtsOp.holds (o : MtsOp) : Holds .w2 op g Fields.mtsOp (o.put (Fields.base op g)) o :=
  ⟨.short rfl, by simp [Fields.mtsOp, MtsOp.put, Fields.base, ifOk, VSReg.bit_nibble, VSReg.bit_le]⟩

/-! ## Every instruction (R63, R76, R77) -/

/-- The fields parse to the instruction, at a length that its opcode has. -/
def Parses (f : Fields) (i : Instr) : Prop :=
  parse f = some i ∧ ∃ ls, opLens f.op.val = some ls ∧ f.len ∈ ls ∧ f.ExtClear

theorem Len.mem_all (n : Len) : n ∈ [Len.w2, .w3, .w4] := by cases n <;> decide
theorem lenOfAddend_mem (k : Option (BitVec 32)) : lenOfAddend k ∈ [Len.w2, .w3] := by cases k <;> simp [lenOfAddend]

theorem Head.parses {ls : List Len} {i : Instr} (h : Head n op g f) (hl : opLens op.val = some ls) (hn : n ∈ ls)
    (hp : parse f = some i) : Parses f i :=
  ⟨hp, ls, h.op ▸ hl, h.len ▸ hn, h.clear⟩

/-- Operands that are read back make an instruction whose opcode reads them under the guards. -/
theorem Holds.parses {α : Type} {read : Fields → Option α} {o : α} {ls : List Len} {mk : Guards → α → Instr}
    (h : Holds n op g read f o) (hl : opLens op.val = some ls) (hn : n ∈ ls)
    (hp : ∀ f : Fields, parse { f with op := op } = (read { f with op := op }).map (mk f.guards)) : Parses f (mk g o) := by
  refine h.head.parses hl hn ?_
  have hf : ({ f with op := op } : Fields) = f := by rw [← h.head.op]
  have := hp f
  rwa [hf, h.read, h.head.guards] at this

theorem jump_parses {mk : Guards → VSReg → Instr} {r : VSReg} (hl : opLens op.val = some [.w2])
    (hp : ∀ f : Fields, parse { f with op := op } = if f.d == 0 then f.target.map (mk f.guards) else none) :
    Parses ((Fields.base op g).putTarget r) (mk g r) := by
  have h : Head .w2 op g ((Fields.base op g).putTarget r) := .short rfl
  refine h.parses hl (List.mem_singleton_self _) ((hp ((Fields.base op g).putTarget r)).trans ?_)
  rw [h.guards, Fields.target_putTarget r rfl rfl rfl]
  rfl

theorem bare_parses {mk : Guards → Instr} (hl : opLens op.val = some [.w2])
    (hp : ∀ f : Fields, parse { f with op := op } = ifOk f.bare (mk f.guards)) : Parses (Fields.base op g) (mk g) := by
  have h : Head .w2 op g (Fields.base op g) := .short rfl
  refine h.parses hl (List.mem_singleton_self _) ((hp (Fields.base op g)).trans ?_)
  rw [h.guards]
  rfl

/-- Every instruction's fields parse to it: its operands by its group, under its opcode. -/
theorem Instr.parses {i : Instr} {f : Fields} (hf : i.fields = some f) (hok : i.fieldsOk = true) : Parses f i := by
  cases i with
  | iadd g o | isub g o | imul g o | imulh g o | idiv g o | irem g o | imin g o | imax g o | shl g o | shr g o | sar g o
  | rotl g o | rotr g o | bfx g o | andb g o | orb g o | xorb g o | andn g o =>
    cases hf
    exact (IntBin.holds o).parses rfl (Len.mem_all _) fun _ => rfl
  | imad g o | bfi g o =>
    cases hf
    exact (IntTri.holds o).parses rfl (Len.mem_all _) fun _ => rfl
  | iabs g o | ineg g o | popc g o | clz g o | ctz g o | brev g o | notb g o =>
    cases hf
    exact (IntUn.holds o).parses rfl (by decide) fun _ => rfl
  | sel g o =>
    cases hf
    exact (SelOp.holds o).parses rfl (Len.mem_all _) fun _ => rfl
  | icmp g o =>
    cases hf
    exact (ICmpOp.holds o).parses rfl (Len.mem_all _) fun _ => rfl
  | mov g o =>
    cases hf
    exact (MovOp.holds o).parses rfl (Len.mem_all _) fun _ => rfl
  | lea g o =>
    cases hf
    exact (LeaOp.holds o).parses rfl (Len.mem_all _) fun _ => rfl
  | pand g o | por g o | pxor g o =>
    cases hf
    exact (PredBin.holds o).parses rfl (by decide) fun _ => rfl
  | pnot g o =>
    cases hf
    exact (PredUn.holds o).parses rfl (by decide) fun _ => rfl
  | fadd g o | fsub g o | fmul g o =>
    cases hf
    exact (FloatBin.holds o (Src.isImm8_of_okFloat hok)).parses rfl (Len.mem_all _) fun _ => rfl
  | fldexp g o =>
    cases hf
    exact (FloatBin.holds o (Src.isImm8_of_okReg hok)).parses rfl (Len.mem_all _) fun _ => rfl
  | ffma g o =>
    cases hf
    exact (FloatTri.holds o (Src.isImm8_of_okFloat hok)).parses rfl (Len.mem_all _) fun _ => rfl
  | fmin g o | fmax g o | fcopysign g o =>
    cases hf
    exact (FloatSel.holds o (Src.isImm8_of_okFloat hok)).parses rfl (Len.mem_all _) fun _ => rfl
  | fdiv g o =>
    cases hf
    exact (FloatSel.holds o (Src.isImm8_of_okReg hok)).parses rfl (by simp [Src.len_of_okReg hok]) fun _ => rfl
  | fabs g o | fneg g o | fclass g o | fexp g o | fexp2 g o | flog2 g o | frcp g o | frsq g o | fsqrt g o | fsin g o
  | fcos g o | ftanh g o =>
    cases hf
    exact (FloatUn.holds o).parses rfl (by decide) fun _ => rfl
  | fcmp g o =>
    cases hf
    exact (FCmpOp.holds o (Src.isImm8_of_okFloat (Bool.and_eq_true_iff.1 hok).1)).parses rfl (Len.mem_all _) fun _ => rfl
  | frint g o =>
    cases hf
    exact (FrintOp.holds o).parses rfl (by decide) fun _ => rfl
  | cvt g o =>
    cases hf
    exact (CvtOp.holds o).parses rfl (by decide) fun _ => rfl
  | cvtq g o =>
    cases hf
    have hb := (Bool.and_eq_true_iff.1 hok).2
    exact (CvtqOp.holds o (Src.isImm8_of_okReg hb)).parses rfl (by simp [Src.len_of_okReg hb]) fun _ => rfl
  | cvtx g o =>
    cases hf
    exact (CvtxOp.holds o).parses rfl (by decide) fun _ => rfl
  | rand g o =>
    cases hf
    exact (RandOp.holds o).parses rfl (by decide) fun _ => rfl
  | perm g o =>
    cases hf
    exact (PermOp.holds o).parses rfl (by decide) fun _ => rfl
  | bcast g o =>
    cases hf
    exact (BcastOp.holds o).parses rfl (by decide) fun _ => rfl
  | shup g o | shdn g o =>
    cases hf
    exact (LaneShift.holds o).parses rfl (by decide) fun _ => rfl
  | vote g o =>
    cases hf
    exact (VoteOp.holds o).parses rfl (by decide) fun _ => rfl
  | matchLanes g o | nbrl g o | nbrr g o =>
    cases hf
    exact (LaneOp.holds o).parses rfl (by decide) fun _ => rfl
  | ld g o | st g o =>
    cases hf
    exact (MemOp.holds o).parses rfl (lenOfAddend_mem _) fun _ => rfl
  | lds g o | sts g o =>
    cases hf
    exact (ScratchOp.holds o).parses rfl (lenOfAddend_mem _) fun _ => rfl
  | stPass g o =>
    cases hf
    exact (PassOp.holds o).parses rfl (by decide) fun _ => rfl
  | atom g o =>
    cases hf
    exact (AtomOp.holds o).parses rfl (lenOfAddend_mem _) fun _ => rfl
  | cas g o =>
    cases hf
    exact (CasOp.holds o).parses rfl (lenOfAddend_mem _) fun _ => rfl
  | aacc g o =>
    cases hf
    exact (AaccOp.holds o).parses rfl (lenOfAddend_mem _) fun _ => rfl
  | ldacc g o =>
    cases hf
    exact (LdaccOp.holds o).parses rfl (lenOfAddend_mem _) fun _ => rfl
  | fence g o =>
    cases hf
    exact (FenceOp.holds o).parses rfl (by decide) fun _ => rfl
  | cpyGs g o | cpySg g o =>
    cases hf
    exact (CopyOp.holds o).parses rfl (by decide) fun _ => rfl
  | cpyGg g o =>
    cases hf
    exact (CopyGGOp.holds o).parses rfl (by decide) fun _ => rfl
  | waitall g o | tagclr g o =>
    cases hf
    exact (TagSet.tagWait_holds o).parses rfl (by decide) fun _ => rfl
  | waitany g o | tagff g o =>
    cases hf
    exact (TagQuery.holds o).parses rfl (by decide) fun _ => rfl
  | recd g o =>
    cases hf
    exact (RecdOp.holds o).parses rfl (by decide) fun _ => rfl
  | recq g o =>
    cases hf
    exact (RecqOp.holds o).parses rfl (by decide) fun _ => rfl
  | pref g o =>
    cases hf
    exact (PrefOp.holds o).parses rfl (lenOfAddend_mem _) fun _ => rfl
  | flush g o | inv g o =>
    cases hf
    exact (LineSel.holds o).parses rfl (by decide) fun _ => rfl
  | lzero g o =>
    cases hf
    exact (laOne_holds o).parses rfl (by decide) fun _ => rfl
  | lmov g o | ladda g o | lneg g o | lnorm g o | lxadd g o =>
    cases hf
    exact (LaPair.holds o).parses rfl (by decide) fun _ => rfl
  | lfma g o =>
    cases hf
    exact (LfmaOp.holds o).parses rfl (by decide) fun _ => rfl
  | ladd g o =>
    cases hf
    exact (LaddOp.holds o).parses rfl (by decide) fun _ => rfl
  | lscale g o =>
    cases hf
    exact (LscaleOp.holds o).parses rfl (by decide) fun _ => rfl
  | lrnd g o =>
    cases hf
    exact (LrndOp.holds o).parses rfl (by decide) fun _ => rfl
  | lquo g o =>
    cases hf
    exact (LquoOp.holds o).parses rfl (by decide) fun _ => rfl
  | lload g o | lstore g o =>
    cases hf
    exact (LmemOp.holds o).parses rfl (by decide) fun _ => rfl
  | mzero g o =>
    cases hf
    exact (taOne_holds o).parses rfl (by decide) fun _ => rfl
  | mma g o | mmas g o =>
    cases hf
    exact (MmaOp.holds o).parses rfl (by decide) fun _ => rfl
  | msel g o =>
    cases hf
    exact (MselOp.holds o).parses rfl (by decide) fun _ => rfl
  | maddt g o =>
    cases hf
    exact (TaPair.holds o).parses rfl (by decide) fun _ => rfl
  | mrnd g o =>
    cases hf
    exact (MrndOp.holds o).parses rfl (by decide) fun _ => rfl
  | mquo g o =>
    cases hf
    exact (MquoOp.holds o).parses rfl (by decide) fun _ => rfl
  | mspill g o | mfill g o =>
    cases hf
    exact (MmemOp.holds o).parses rfl (by decide) fun _ => rfl
  | bra g off =>
    cases hf
    have h : Head .w2 0x300 g ((Fields.base 0x300 g).putOff off) := .short rfl
    refine h.parses rfl (by decide) ?_
    show some (Instr.bra (Fields.guards _) (Fields.off _)) = _
    rw [h.guards, Fields.off_putOff]
  | call g d off =>
    cases hf
    have h : Head .w2 0x303 g (({ Fields.base 0x303 g with d := d }).putOff off) := .short rfl
    refine h.parses rfl (by decide) ?_
    show some (Instr.call (Fields.guards _) d (Fields.off _)) = _
    rw [h.guards, Fields.off_putOff]
  | mark off =>
    cases hf
    refine (Head.short rfl).parses rfl (by decide) ?_
    show some (Instr.mark (Fields.off _)) = _
    rw [Fields.off_putOff]
  | jmpi g r | ret g r =>
    cases hf
    exact jump_parses rfl fun _ => rfl
  | calli g d r =>
    cases hf
    have h : Head .w2 0x304 g (({ Fields.base 0x304 g with d := d }).putTarget r) := .short rfl
    refine h.parses rfl (by decide) ?_
    show (Fields.target _).map (Instr.calli (Fields.guards _) d) = _
    rw [h.guards, Fields.target_putTarget r rfl rfl rfl]
    rfl
  | jtbl g o =>
    cases hf
    exact (JtblOp.holds o).parses rfl (by decide) fun _ => rfl
  | join | tret =>
    cases hf
    exact (Head.short rfl).parses rfl (by decide) rfl
  | yield g | exit g | nop g | innend g =>
    cases hf
    exact bare_parses rfl fun _ => rfl
  | rep g o =>
    cases hf
    exact (RepOp.holds o).parses rfl (by decide) fun _ => rfl
  | trap g n | bkpt g n =>
    cases hf
    exact (codeX_holds n).parses rfl (by decide) fun _ => rfl
  | bar s =>
    cases hf
    exact (barScope_holds s).parses (mk := fun _ => .bar) rfl (by decide) fun _ => rfl
  | bara s =>
    cases hf
    exact (barScope_holds s).parses (mk := fun _ => .bara) rfl (by decide) fun _ => rfl
  | barw s =>
    cases hf
    exact (barScope_holds s).parses (mk := fun _ => .barw) rfl (by decide) fun _ => rfl
  | vshrink g n | vgrow g n =>
    cases hf
    exact (allot_holds n).parses rfl (by decide) fun _ => rfl
  | lnch g o =>
    cases hf
    exact (LnchOp.holds o).parses rfl (by decide) fun _ => rfl
  | mgmt g o =>
    cases hf
    exact (MgmtOp.holds o).parses rfl (by decide) fun _ => rfl
  | ctxrd g o =>
    cases hf
    exact (CtxOp.holds_rd o).parses rfl (by decide) fun _ => rfl
  | ctxwr g o =>
    cases hf
    exact (CtxOp.holds_wr o).parses rfl (by decide) fun _ => rfl
  | mfs g o =>
    cases hf
    exact (MfsOp.holds o).parses rfl (by decide) fun _ => rfl
  | mts g o =>
    cases hf
    exact (MtsOp.holds o).parses rfl (by decide) fun _ => rfl
  | _ => exact nomatch hf

/-- The bytes of the words of some fields decode as those fields, whatever follows them. -/
theorem decode_words (hx : f.ExtClear) (tail : List Byte) : decode (f.words.flatMap bytesOfWord ++ tail) = decodeFields f := by
  have key : ∀ w2 w3, (f.len ≠ .w2 → w2 = f.e0) → (f.len = .w4 → w3 = f.e1) →
      decodeWords (BitVec.ofNat 32 f.word0) (BitVec.ofNat 32 f.word1) w2 w3 = decodeFields f := fun w2 w3 h2 h3 => by
    rw [decodeWords, f.lenOf_word0]
    exact congrArg decodeFields (Fields.ofWords_words hx h2 h3)
  have add : ∀ (w : Word) (bs : List Byte) (n : Nat), wordAt (bytesOfWord w ++ bs) (n + 4) = wordAt bs n :=
    wordAt_bytesOfWord_append_add
  unfold decode
  cases h : f.len <;> rw [Fields.words, h] <;>
    simp only [List.flatMap_cons, List.flatMap_nil, List.append_assoc, List.nil_append, wordAt_bytesOfWord_append, add _ _ 0, add _ _ 4, add _ _ 8] <;>
    exact key _ _ (by simp [h]) (by simp [h])

end

/-- Settles O41: the bytes give back the fields, and the fields the instruction. -/
theorem encodeThenDecode : Obligations.EncodeThenDecode := by
  unfold Obligations.EncodeThenDecode
  intro i f tail hf hw
  obtain ⟨hp, ls, hl, hn, hx⟩ := Instr.parses hf (Bool.and_eq_true_iff.1 hw).1
  rw [encode, encodeWords, hf]
  refine (decode_words hx tail).trans ?_
  rw [decodeFields, hl]
  simp [hn, hp, hw]

end Sys2Proof

/-!
The clock's beginning (O38): what reaches a home, an eviction and a command of the host leave the number of the clock alone.
One lemma for each operation, in the order in which the model defines them.
-/
namespace Sys2Proof.Machine

open Sys2Proof

section
variable (s : State)

/-- A fold of operations that leave the clock alone leaves it alone. -/
theorem foldl_clk {α : Type} {f : State → α → State} (hf : ∀ s a, (f s a).clk = s.clk) (l : List α) (s : State) :
    (l.foldl f s).clk = s.clk := by
  induction l generalizing s with
  | nil => rfl
  | cons a l ih => exact (ih _).trans (hf s a)

/-! ## Bytes, lines and ways -/

@[simp] theorem State.writeBytes_clk (p : Place) (bs : List Byte) : (s.writeBytes p bs).clk = s.clk := by
  unfold State.writeBytes
  split <;> rfl
@[simp] theorem State.writeMasked_clk (p : Place) (bs : List Byte) (m : BitVec 128) : (s.writeMasked p bs m).clk = s.clk :=
  State.writeBytes_clk ..
@[simp] theorem State.l1Evict_clk (q : L1Line → Bool) : (s.l1Evict q).clk = s.clk :=
  foldl_clk (fun s l => by split <;> simp) _ s
@[simp] theorem State.filterRoom_clk (core : Nat) (p : Place) : (s.filterRoom core p).clk = s.clk := by
  unfold State.filterRoom
  split <;> [split; skip] <;> simp
@[simp] theorem State.l1Room_clk (core : Nat) (p : Place) : (s.l1Room core p).clk = s.clk := by
  unfold State.l1Room
  dsimp only
  split_ifs <;> [rfl; rfl; split <;> simp]
@[simp] theorem State.dirRoom_clk (p : Place) : (s.dirRoom p).clk = s.clk := by
  unfold State.dirRoom State.purgeRegion
  dsimp only
  split_ifs <;> [rfl; rfl; split <;> simp]
@[simp] theorem State.dirSet_clk (p : Place) (club : Nat) : (s.dirSet p club).clk = s.clk := by
  unfold State.dirSet
  dsimp only
  split_ifs <;> simp
@[simp] theorem State.l2Room_clk (slice : Nat) (p : Place) : (s.l2Room slice p).clk = s.clk := by
  unfold State.l2Room
  dsimp only
  split <;> [rfl; split <;> rfl]
@[simp] theorem State.tagL2_clk (p : Place) (cls : Cls) : (s.tagL2 p cls).clk = s.clk := by
  unfold State.tagL2
  split
  · split <;> rfl
  · exact State.l2Room_clk ..
@[simp] theorem State.fillL2_clk (p : Place) (cls : Cls) (cp : Nat) : (s.fillL2 p cls cp).clk = s.clk := by
  unfold State.fillL2
  split <;> simp
@[simp] theorem State.l1Put_clk (l : L1Line) : (s.l1Put l).clk = s.clk := rfl
@[simp] theorem State.l1Touch_clk (core : Nat) (p : Place) : (s.l1Touch core p).clk = s.clk := rfl
@[simp] theorem State.fillL1_clk (core : Nat) (p : Place) (cls : Cls) (cp : Nat) (bs : List Byte) :
    (s.fillL1 core p cls cp bs).clk = s.clk := by
  unfold State.fillL1
  dsimp only
  split <;> simp
@[simp] theorem State.acquire_clk (core : Nat) (sc : Scope) : (s.acquire core sc).clk = s.clk := by cases sc <;> rfl
@[simp] theorem State.acquireIf_clk (core : Nat) (o : Option Scope) : (s.acquireIf core o).clk = s.clk := by
  cases o <;> simp [State.acquireIf]

/-! ## The home -/

@[simp] theorem State.notify_clk (p : Place) (core : Nat) (cls : Cls) (ow : ThreadKey) : (s.notify p core cls ow).clk = s.clk := rfl
@[simp] theorem State.snoopHost_clk (p : Place) (ow : ThreadKey) : (s.snoopHost p ow).clk = s.clk := by
  unfold State.snoopHost
  split <;> [split; skip; skip] <;> rfl
@[simp] theorem State.wroteHome_clk (p : Place) (core : Nat) (cls : Cls) (ow : ThreadKey) :
    (s.wroteHome p core cls ow).clk = s.clk := by
  unfold State.wroteHome State.noteWriter
  simp
@[simp] theorem State.sendPasses_clk (w : LaneStore) : (s.sendPasses w).clk = s.clk :=
  foldl_clk (fun s tg => by dsimp only; split <;> simp) _ s
@[simp] theorem State.writeAtomic_clk (p : Place) (bs : List Byte) (ow : ThreadKey) : (s.writeAtomic p bs ow).clk = s.clk := by
  unfold State.writeAtomic
  split <;> simp
@[simp] theorem State.writeStore_clk (core : Nat) (w : LaneStore) : (s.writeStore core w).clk = s.clk := by
  have h : (match w.place.space with
      | .host => s.putHost w.place.addr w.data w.owner
      | .dev | .remote _ => s.writeBytes w.place w.data).clk = s.clk := by
    split <;> [rfl; simp; simp]
  unfold State.writeStore
  dsimp only
  split <;> exact h
@[simp] theorem State.modCell_clk (line : Nat) (f : HomeCell → HomeCell) : (s.modCell line f).clk = s.clk := rfl
@[simp] theorem State.reply_clk (ow : ThreadKey) (d : LoadDest) (bs : List Byte) : (s.reply ow d bs).clk = s.clk := rfl
@[simp] theorem State.addHome_clk (line : Nat) (cls : Cls) (t : Acc) : (s.addHome line cls t).clk = s.clk := by
  unfold State.addHome
  split <;> simp
@[simp] theorem State.serveAt_clk (q : RemoteReq) (p : Place) : (s.serveAt q p).clk = s.clk := by
  unfold State.serveAt State.replyTo State.cutWs
  dsimp only
  split <;> simp
@[simp] theorem State.performHome_clk (r : HomeReq) (later : List HomeReq) : (s.performHome r later).clk = s.clk := by
  cases r with
  | load ow core p cls n dest how =>
    simp only [State.performHome, State.acquireIf_clk, State.reply_clk]
    split_ifs <;> simp
  | _ => simp [State.performHome]
@[simp] theorem State.takeQueued_clk (line : Nat) (r : HomeReq) : (s.takeQueued line r).clk = s.clk := by
  cases r <;> simp [State.takeQueued, State.regHome]
@[simp] theorem State.performAll_clk (rs : List HomeReq) : (s.performAll rs).clk = s.clk := by
  induction rs generalizing s with
  | nil => rfl
  | cons r rest ih => exact (ih _).trans (State.performHome_clk ..)
@[simp] theorem State.endGather_clk (line : Nat) : (s.endGather line).clk = s.clk := by
  unfold State.endGather
  split
  · rfl
  · exact (foldl_clk (fun s r => State.takeQueued_clk ..) _ _).trans (by simp)
@[simp] theorem State.startGather_clk (line : Nat) : (s.startGather line).clk = s.clk := by
  unfold State.startGather
  split
  · rfl
  · split_ifs <;> simp
@[simp] theorem State.accessHome_clk (p : Place) (r : HomeReq) : (s.accessHome p r).clk = s.clk := by
  unfold State.accessHome
  dsimp only
  split <;> simp
@[simp] theorem State.gatherAll_clk (ps : List Place) : (s.gatherAll ps).clk = s.clk := foldl_clk (fun _ _ => by simp) _ s

/-! ## Evictions -/

@[simp] theorem State.evict_clk (e : Evict) : (s.evict e).clk = s.clk := by
  cases e with
  | l1 core p => exact State.l1Evict_clk ..
  | l2 p =>
    unfold State.evict
    dsimp only
    split <;> simp
  | replica club p => rfl
@[simp] theorem State.evictDue_clk : s.evictDue.clk = s.clk :=
  (foldl_clk (fun s _ => State.evict_clk s _) _ _).trans (foldl_clk State.evict_clk _ _)

/-! ## A PWRITE or PCOPY of the host that goes on -/

@[simp] theorem State.dropSpan_clk (x : Span) : (s.dropSpan x).clk = s.clk := State.l1Evict_clk ..
@[simp] theorem State.claimFrames_clk (l : Leaf) : (s.claimFrames l).clk = s.clk :=
  foldl_clk (fun _ _ => by exact State.dropSpan_clk ..) _ s
@[simp] theorem State.tablesWritten_clk (old : List Leaf) : (s.tablesWritten old).clk = s.clk :=
  (foldl_clk (f := State.dropReplicas) (fun _ _ => rfl) _ _).trans ((foldl_clk State.claimFrames_clk _ _).trans
    (foldl_clk (f := fun (s : State) (x : Nat × List Nat) => s.freeFrames x.1 x.2) (fun _ _ => rfl) _ _))
@[simp] theorem State.leaseWritten_clk (lease : Nat) (before : BitVec 64) (old : List (Nat × Nat × Bool)) :
    (s.leaseWritten lease before old).clk = s.clk := by
  unfold State.leaseWritten
  dsimp only
  split_ifs <;> rfl
@[simp] theorem State.putWords_clk (ws : List (Nat × Nat)) : (s.putWords ws).clk = s.clk :=
  (foldl_clk (fun _ _ => by simp) _ _).trans ((foldl_clk (fun _ _ => by simp) _ _).trans
    ((State.tablesWritten_clk ..).trans (foldl_clk (fun _ _ => by simp) _ s)))
@[simp] theorem State.putCopy_clk (src dst n : Nat) : (s.putCopy src dst n).clk = s.clk :=
  (foldl_clk (fun _ _ => by simp) _ _).trans (State.dropSpan_clk ..)
theorem cmdPwrite_clk (b : BitVec 512) : (cmdPwrite s b).1.clk = s.clk := by
  unfold cmdPwrite
  dsimp only
  split_ifs <;> simp
theorem cmdPcopy_clk (b : BitVec 512) : (cmdPcopy s b).1.clk = s.clk := by
  unfold cmdPcopy
  dsimp only
  split_ifs <;> simp
@[simp] theorem State.commandStep_clk : s.commandStep.clk = s.clk := by
  have go : ∀ x : State × Option Nat, x.1.clk = s.clk →
      (match x with
        | (s1, some k) => s1.endCommand k
        | (s1, none) => s1).clk = s.clk := fun x hx => by
    split <;> exact hx
  unfold State.commandStep
  split
  · rfl
  · dsimp only
    split
    · exact go _ (cmdPwrite_clk s _)
    · exact go _ (cmdPcopy_clk s _)
    · rfl

theorem State.newClock_clk : s.newClock.clk = s.postFaults.settle.clk + 1 := by
  simp [State.newClock]

end

end Sys2Proof.Machine

/-!
Fetching and stepping (O38, O39, O40): what the selected group's step does for each answer of its fetch, and that the clock that
begins with an empty agenda is the next one.
-/
namespace Sys2Proof.Machine

open Sys2Proof

/-! ## The step of a selected group -/

section
variable {s : State} {g : Group} {c : Ctx}

theorem State.ctx_g (hg : s.cur = some g) (hc : s.ctx = some c) : c.g = g := by
  unfold State.ctx at hc
  rw [hg] at hc
  dsimp only at hc
  split at hc
  · cases hc; rfl
  · cases hc

theorem step_of_issue_next {t : State} (hg : s.cur = some g) (hi : s.issue = .next t) : step s = .next (t.leaveGroup g) := by
  rw [step, hg]
  simp only [hi]

theorem step_of_issue_exec {i : Instr} (hg : s.cur = some g) (hi : s.issue = .exec i) : step s = groupDone g (exec i s) := by
  rw [step, hg]
  simp only [hi]

theorem step_of_fetch_fault {f : FaultInfo} (hg : s.cur = some g) (hc : s.ctx = some c) (hf : s.fetch c = .fault f) :
    step s = .next ((s.raise c f).tick.leaveGroup g) :=
  step_of_issue_next hg (by rw [State.issue, hc]; simp only [hf])

theorem step_of_fetch_held {p : Nat} (hg : s.cur = some g) (hc : s.ctx = some c) (hf : s.fetch c = .held p) :
    step s = .next ((s.holdThreads c p c.g.members).tick.leaveGroup g) :=
  step_of_issue_next hg (by rw [State.issue, hc]; simp only [hf])

theorem step_of_fetch_pad (hg : s.cur = some g) (hc : s.ctx = some c) (hf : s.fetch c = .pad) :
    step s = .next ((s.eachLane c c.threads fun x =>
      { x with pc := BitVec.ofNat 64 (s.skipPads c.tk (c.g.addr.toNat + 4)) }).tick.leaveGroup g) :=
  step_of_issue_next hg (by rw [State.issue, hc]; simp only [hf])

theorem step_of_fetch_ok {i : Instr} (hg : s.cur = some g) (hc : s.ctx = some c) (hf : s.fetch c = .ok i) :
    step s = groupDone g (exec i s) :=
  step_of_issue_exec hg (by rw [State.issue, hc]; simp only [hf])

/-- The length of a decoded instruction is that of its first word, and its fields hold it. -/
theorem decodeFields_len {f : Fields} {i : Instr} {n : Len} (h : decodeFields f = .ok i n) : f.len = n := by
  unfold decodeFields at h
  split at h
  · cases h
  · split_ifs at h
    split at h
    · cases h
    · split_ifs at h
      cases h
      rfl
theorem decodeWords_ok {w0 w1 w2 w3 : Word} {i : Instr} {n : Len} (h : decodeWords w0 w1 w2 w3 = .ok i n) :
    lenOf w0 = some n ∧ decodeFields (Fields.ofWords n w0 w1 w2 w3) = .ok i n := by
  unfold decodeWords at h
  split at h
  · cases h
  · next m hm =>
    obtain rfl : m = n := decodeFields_len h
    exact ⟨hm, h⟩

/-! ## What a fetch gives (R61, R66 steps 1 to 4) -/

theorem State.fetch_misaligned (ha : c.g.addr.toNat % 4 ≠ 0) :
    s.fetch c = .fault (fetchFault causeFetch 0 c.g.addr.toNat c.g.members) := by
  rw [State.fetch, if_pos ha]

theorem State.fetch_held {p : Nat} (ha : c.g.addr.toNat % 4 = 0)
    (hb : s.fetchBlock c.tk c.tm.core c.g.addr.toNat c.g.members = .held p) : s.fetch c = .held p := by
  rw [State.fetch, if_neg (not_not.2 ha), hb]

variable {bs : List Byte} {n : Len} (ha : c.g.addr.toNat % 4 = 0)
  (hb : s.fetchBlock c.tk c.tm.core c.g.addr.toNat c.g.members = .ok bs)
include ha hb

theorem State.fetch_noLength (hl : lenOf (wordAt bs (c.g.addr.toNat % 32)) = none) :
    s.fetch c = if wordAt bs (c.g.addr.toNat % 32) = padWord then .pad else .fault (c.illegalInfo 2) := by
  rw [State.fetch, if_neg (not_not.2 ha), hb]
  simp only [hl]

theorem State.fetch_crossing (hl : lenOf (wordAt bs (c.g.addr.toNat % 32)) = some n) (ho : 32 < c.g.addr.toNat % 32 + n.bytes) :
    s.fetch c = .fault (fetchFault causeFetch 0 c.g.addr.toNat c.g.members) := by
  rw [State.fetch, if_neg (not_not.2 ha), hb]
  simp only [hl, fieldsAt, if_neg (Nat.not_le.2 ho)]

/-- A whole instruction that is not repeated is what its words decode to. -/
theorem State.fetch_ok {i : Instr} (ho : c.g.addr.toNat % 32 + n.bytes ≤ 32) (hi : c.g.iter = none)
    (hd : decodeWords (wordAt bs (c.g.addr.toNat % 32)) (wordAt bs (c.g.addr.toNat % 32 + 4)) (wordAt bs (c.g.addr.toNat % 32 + 8))
      (wordAt bs (c.g.addr.toNat % 32 + 12)) = .ok i n) : s.fetch c = .ok i := by
  obtain ⟨hl, hf⟩ := decodeWords_ok hd
  rw [State.fetch, if_neg (not_not.2 ha), hb]
  simp only [hl, fieldsAt, if_pos ho, hi, Option.isSome_none, Bool.false_eq_true, if_false, hf]
theorem State.fetch_bad {e : DecodeError} (hl : lenOf (wordAt bs (c.g.addr.toNat % 32)) = some n)
    (ho : c.g.addr.toNat % 32 + n.bytes ≤ 32) (hi : c.g.iter = none)
    (hd : decodeWords (wordAt bs (c.g.addr.toNat % 32)) (wordAt bs (c.g.addr.toNat % 32 + 4)) (wordAt bs (c.g.addr.toNat % 32 + 8))
      (wordAt bs (c.g.addr.toNat % 32 + 12)) = .bad e) : s.fetch c = .fault (c.illegalInfo e.step) := by
  rw [decodeWords, hl] at hd
  rw [State.fetch, if_neg (not_not.2 ha), hb]
  simp only [hl, fieldsAt, if_pos ho, hi, Option.isSome_none, Bool.false_eq_true, if_false]
  simp only at hd
  rw [hd]

end

theorem lenOf_padWord : lenOf padWord = none := by decide

/-- Settles O39: each answer of the fetch, and what the step makes of it. -/
theorem fetchFaults : Obligations.FetchFaults := by
  unfold Obligations.FetchFaults
  intro s g c hg hc
  obtain rfl := State.ctx_g hg hc
  refine ⟨fun ha => ⟨_, rfl, rfl, step_of_fetch_fault hg hc (State.fetch_misaligned ha)⟩,
    fun p ha hb => step_of_fetch_held hg hc (State.fetch_held ha hb), fun bs ha hb => ⟨fun hl hp => ?_, fun hp => ?_, fun n hl => ⟨fun ho => ?_, ?_⟩⟩⟩
  · exact step_of_fetch_fault hg hc ((State.fetch_noLength ha hb hl).trans (if_neg hp))
  · have hl : lenOf (wordAt bs (c.g.addr.toNat % 32)) = none := by rw [hp, lenOf_padWord]
    exact step_of_fetch_pad hg hc ((State.fetch_noLength ha hb hl).trans (if_pos hp))
  · exact ⟨_, rfl, rfl, step_of_fetch_fault hg hc (State.fetch_crossing ha hb hl ho)⟩
  · intro ho hi e hd
    exact step_of_fetch_fault hg hc (State.fetch_bad ha hb hl ho hi hd)

/-! ## Leaving a group (R306) -/

theorem State.leaveGroup_next {t : State} {g g' : Group} {rest : List Group} (h : t.curRest = g' :: rest) :
    t.leaveGroup g = { t with cur := some g', curRest := rest, curDone := t.curDone || t.blocked.isEmpty } := by
  unfold State.leaveGroup
  simp only [h]
theorem State.leaveGroup_last {t : State} {g : Group} (h : t.curRest = []) (hd : (t.curDone || t.blocked.isEmpty) = true) :
    t.leaveGroup g = { t with cur := none, curDone := false } := by
  unfold State.leaveGroup
  simp only [h, hd, if_true]
theorem State.leaveGroup_retry {t : State} {g : Group} (h : t.curRest = []) (hd : (t.curDone || t.blocked.isEmpty) = false) :
    t.leaveGroup g = State.retrySlot g { t with cur := none, curDone := false } := by
  unfold State.leaveGroup
  simp only [h, hd, Bool.false_eq_true, if_false]

/-- Settles O38: the step by its fetch, the group's leaving by what is left of its candidate, and the clock's beginning. -/
theorem stepRunsDecoded : Obligations.StepRunsDecoded := by
  unfold Obligations.StepRunsDecoded
  refine ⟨fun s g c bs i n hg hc hi => ?_, fun t g g' rest h => State.leaveGroup_next h,
    fun t g h hd => State.leaveGroup_last h ?_, fun t g tk m ms h hb hd ht hm => ?_, fun s e rest hc ha => ?_, fun s hc ha => ?_⟩
  · obtain rfl := State.ctx_g hg hc
    intro a o ha hb ho hd
    rw [step_of_fetch_ok hg hc (State.fetch_ok ha hb ho hi hd)]
    cases exec i s <;> rfl
  · rcases hd with hd | hd <;> simp [hd]
  · rw [State.leaveGroup_retry h (by simp [hd, hb]), State.retrySlot]
    simp only [show ({ t with cur := none, curDone := false } : State).task? g.task = some tk from ht, hm]
    rfl
  · rw [step, hc]
    simp only [ha]
  · refine ⟨s.newClock, ?_, State.newClock_clk s⟩
    rw [step, hc]
    simp only [ha]

/-- Settles O40: the decoder computes each of the words. -/
theorem decodedWords : Obligations.DecodedWords := by
  unfold Obligations.DecodedWords
  decide +kernel

end Sys2Proof.Machine

/-!
Retirement (O37): what becomes of one thread (`State.retireThread`), field by field, and then of the teams.
-/
namespace Sys2Proof.Machine

open Sys2Proof

/-! ## Where a thread that retires leaves its instruction for (R60, R64, R137) -/

section
variable (s : State) (c : Ctx) (n : Nat) (p : Post) (x : Thread)

theorem State.advance_pc (tk : Task) (r : Bool) :
    (s.advance tk n r x).pc = if r = true ∧ 1 < x.rep.remaining.toNat then x.pc
      else BitVec.ofNat 64 (s.skipPads tk (x.pc.toNat + n)) := by
  by_cases h : 1 < x.rep.remaining.toNat <;> cases r <;> simp [State.advance, h]
theorem State.advance_rep_false (tk : Task) : (s.advance tk n false x).rep = x.rep := rfl
theorem State.advance_rep_true (tk : Task) :
    (s.advance tk n true x).rep = if 1 < x.rep.remaining.toNat then
      { x.rep with iter := x.rep.iter + 1, remaining := x.rep.remaining - 1 } else Rep.none := by
  by_cases h : 1 < x.rep.remaining.toNat <;> simp [State.advance, h]

/-- The program counter and the repeat state with which a thread leaves the instruction: the step of `State.retireThread` before
the inning's count. -/
def State.departs (s : State) (c : Ctx) (n : Nat) (p : Post) (x : Thread) : Thread :=
  if p.hold.contains x.tid || p.quiet.contains x.tid then x
  else match p.jumps.find? fun j => j.1 == x.tid with
    | some j => { x with pc := BitVec.ofNat 64 (s.skipPads c.tk j.2) }
    | none => s.advance c.tk n c.g.iter.isSome x

variable {s c n p x}

theorem State.departs_waiting (h : x.tid ∈ p.hold ∨ x.tid ∈ p.quiet) : s.departs c n p x = x := by
  rw [State.departs, if_pos (by simpa using h)]
theorem State.departs_jump {j : Nat × Nat} (h : ¬(x.tid ∈ p.hold ∨ x.tid ∈ p.quiet)) (hj : (p.jumps.find? fun j => j.1 == x.tid) = some j) :
    s.departs c n p x = { x with pc := BitVec.ofNat 64 (s.skipPads c.tk j.2) } := by
  rw [State.departs, if_neg (by simpa using h), hj]
theorem State.departs_next (h : ¬(x.tid ∈ p.hold ∨ x.tid ∈ p.quiet)) (hj : (p.jumps.find? fun j => j.1 == x.tid) = none) :
    s.departs c n p x = s.advance c.tk n c.g.iter.isSome x := by
  rw [State.departs, if_neg (by simpa using h), hj]

/-- Nothing but the program counter and the repeat state changes. -/
theorem State.departs_eq : s.departs c n p x = { x with pc := (s.departs c n p x).pc, rep := (s.departs c n p x).rep } := by
  by_cases h : x.tid ∈ p.hold ∨ x.tid ∈ p.quiet
  · rw [State.departs_waiting h]
  · cases hj : p.jumps.find? fun j => j.1 == x.tid with
    | some j => rw [State.departs_jump h hj]
    | none =>
      rw [State.departs_next h hj, State.advance]
      split <;> rfl

/-- Only an advance past a repeated instruction changes the repeat state. -/
theorem State.departs_rep_kept (h : c.g.iter = none ∨ x.tid ∈ p.hold ∨ x.tid ∈ p.quiet) : (s.departs c n p x).rep = x.rep := by
  by_cases hw : x.tid ∈ p.hold ∨ x.tid ∈ p.quiet
  · rw [State.departs_waiting hw]
  · have hi : c.g.iter = none := h.resolve_right hw
    cases hj : p.jumps.find? fun j => j.1 == x.tid with
    | some j => rw [State.departs_jump hw hj]
    | none => rw [State.departs_next hw hj, hi, Option.isSome_none, State.advance_rep_false]

/-! ## One thread retires (R238, R239) -/

/-- A thread outside its routine counts toward the inning of an ordered launch, unless it waits before it arrives. -/
def Counts (c : Ctx) (p : Post) (x : Thread) : Prop := c.tk.ordered = true ∧ x.routine = none ∧ x.tid ∉ p.quiet

theorem counts_iff : (c.tk.ordered && x.routine.isNone && !p.quiet.contains x.tid) = true ↔ Counts c p x := by
  simp [Counts, and_assoc]

theorem State.retireThread_eq : s.retireThread c n p x =
    { s.departs c n p x with
      innpos := (s.retireThread c n p x).innpos, innEnded := (s.retireThread c n p x).innEnded
      atYield := p.yields.contains x.tid, dog := 0, cut := x.cut && x.routine.isSome
      part := if x.routine.isSome then x.part else 0, wait := (s.retireThread c n p x).wait } := rfl

theorem State.retireThread_keeps : (s.retireThread c n p x).still = x.still := by
  rw [State.retireThread_eq, State.departs_eq]
  rfl

theorem State.retireThread_counted (h : Counts c p x) :
    (s.retireThread c n p x).innpos = x.innpos + 1 ∧
    ((s.retireThread c n p x).innEnded = true ↔ x.innEnded = true ∨ c.tk.inningLen ≤ (x.innpos + 1).toNat) ∧
    (x.wait = .none → (s.retireThread c n p x).wait = if (s.retireThread c n p x).innEnded then .inning else .none) := by
  have hc := counts_iff.2 h
  refine ⟨?_, ?_, fun hw => ?_⟩ <;> simp only [State.retireThread, hc, if_true, Bool.true_and, Bool.or_eq_true, decide_eq_true_eq]
  simp [hw]

theorem State.retireThread_uncounted (h : ¬Counts c p x) :
    (s.retireThread c n p x).innpos = x.innpos ∧ (s.retireThread c n p x).innEnded = x.innEnded ∧
    (s.retireThread c n p x).wait = x.wait := by
  have hc := Bool.eq_false_iff.2 (mt counts_iff.1 h)
  refine ⟨?_, ?_, ?_⟩ <;> simp only [State.retireThread, hc] <;> simp

/-- Only a YIELD wait sees others issue. -/
theorem Thread.issued_of_wait {q : ThreadKey → Bool} (h : x.wait = .none ∨ x.wait = .inning) : x.issued q = x := by
  unfold Thread.issued
  rcases h with h | h <;> rw [h]

/-- A thread that waits for nothing retires into no YIELD wait. -/
theorem State.retireThread_awake (h : x.wait = .none) :
    (s.retireThread c n p x).wait = .none ∨ (s.retireThread c n p x).wait = .inning := by
  by_cases hc : Counts c p x
  · rw [(State.retireThread_counted hc).2.2 h]
    split <;> simp
  · exact .inl ((State.retireThread_uncounted hc).2.2.trans h)

end

/-! ## The teams -/

/-- A member that retires, as O37 states it: `q` names the threads that others see issue. -/
theorem State.retireThread_retires (s : State) (c : Ctx) (i : Instr) (p : Post) (q : ThreadKey → Bool) (x : Thread) :
    let y := (s.retireThread c (instrBytes i) p x).issued q
    y.still = x.still ∧
    y.pc = (if x.tid ∈ p.hold ∨ x.tid ∈ p.quiet then x.pc
      else match p.jumps.find? fun j => j.1 == x.tid with
        | some j => BitVec.ofNat 64 (s.skipPads c.tk j.2)
        | none => if c.g.iter.isSome ∧ 1 < x.rep.remaining.toNat then x.pc else BitVec.ofNat 64 (s.follows c i x)) ∧
    y.dog = 0 ∧
    (Counts c p x → y.innpos = x.innpos + 1 ∧
      (y.innEnded = true ↔ x.innEnded = true ∨ c.tk.inningLen ≤ (x.innpos + 1).toNat) ∧
      (x.wait = .none → y.wait = if y.innEnded then .inning else .none)) ∧
    (¬Counts c p x → y.innpos = x.innpos ∧ y.innEnded = x.innEnded ∧ (x.wait = .none → y.wait = .none)) ∧
    (c.g.iter = none ∨ x.tid ∈ p.hold ∨ x.tid ∈ p.quiet → y.rep = x.rep) ∧
    (c.g.iter.isSome → x.tid ∉ p.hold → x.tid ∉ p.quiet → p.jumps = [] →
      if 1 < x.rep.remaining.toNat then y.rep = { x.rep with iter := x.rep.iter + 1, remaining := x.rep.remaining - 1 }
      else y.rep = Rep.none) := by
  intro y
  obtain ⟨z, hz⟩ : ∃ z, s.retireThread c (instrBytes i) p x = z := ⟨_, rfl⟩
  have hyz : y = z.issued q := congrArg (Thread.issued · q) hz
  have hy : y = { z with wait := y.wait } := hyz ▸ Thread.issued_bystander z q
  have hawake : x.wait = .none → y = z := fun hw => hyz.trans (Thread.issued_of_wait (hz ▸ State.retireThread_awake hw))
  clear_value y
  have hstill : y.still = z.still := by rw [hy]; rfl
  have hpc : y.pc = (s.departs c (instrBytes i) p x).pc := by rw [hy, ← hz]; rfl
  have hrep : y.rep = (s.departs c (instrBytes i) p x).rep := by rw [hy, ← hz]; rfl
  have hdog : y.dog = 0 := by rw [hy, ← hz]; rfl
  have hpos : y.innpos = z.innpos := by rw [hy]
  have hend : y.innEnded = z.innEnded := by rw [hy]
  refine ⟨hstill.trans (hz ▸ State.retireThread_keeps), ?_, hdog, fun hc => ?_, fun hc => ?_, fun h => ?_, fun hi hh hq hj => ?_⟩
  · rw [hpc]
    split
    · next hw => rw [State.departs_waiting hw]
    · next hw =>
      cases hj : p.jumps.find? fun j => j.1 == x.tid with
      | some j => rw [State.departs_jump hw hj]
      | none => rw [State.departs_next hw hj, State.advance_pc]; rfl
  · obtain ⟨h1, h2, h3⟩ := State.retireThread_counted (s := s) (n := instrBytes i) hc
    rw [hz] at h1 h2 h3
    exact ⟨hpos.trans h1, hend ▸ h2, fun hw => by rw [hawake hw]; exact h3 hw⟩
  · obtain ⟨h1, h2, h3⟩ := State.retireThread_uncounted (s := s) (n := instrBytes i) hc
    rw [hz] at h1 h2 h3
    exact ⟨hpos.trans h1, hend.trans h2, fun hw => by rw [hawake hw, h3, hw]⟩
  · rw [hrep, State.departs_rep_kept h]
  · rw [hrep, State.departs_next (by simp [hh, hq]) (by simp [hj]), hi, State.advance_rep_true]
    split <;> simp [*]

/-- A team after the group of `c` has left an instruction of `n` bytes as `p` says, as `ks` names the threads that issued it. -/
def leftTeam (s : State) (c : Ctx) (n : Nat) (p : Post) (ks : List ThreadKey) (a : Team) : Team :=
  if a.task = c.tk.id ∧ a.team = c.tm.team then
    { a with threads := a.threads.map fun x =>
      (if x.tid ∈ c.g.members ∧ x.tid ∉ p.stay then s.retireThread c n p x else x).issued ks.contains }
  else { a with threads := a.threads.map fun x => x.issued ks.contains }

theorem State.retire_teams (s : State) (c : Ctx) (i : Instr) (p : Post) : ∃ ks,
    (s.retire c i p).teams = s.teams.map (leftTeam s c (instrBytes i) p ks) := by
  refine ⟨(c.g.members.filter fun m => !p.stay.contains m).map fun m => { task := c.tk.id, team := c.tm.team, tid := m }, ?_⟩
  simp only [State.retire, State.noteIssued, State.noteGone, State.tick, State.modTeam, mapIf, List.map_map]
  refine List.map_congr_left fun a _ => ?_
  by_cases h : a.task = c.tk.id ∧ a.team = c.tm.team
  · have hb : (a.task == c.tk.id && a.team == c.tm.team) = true := by simpa using h
    rw [Function.comp_apply, if_pos hb, leftTeam, if_pos h, Team.modThreads, mapIf, List.map_map]
    congr 1
    exact List.map_congr_left fun x _ => by simp
  · have hb : ¬(a.task == c.tk.id && a.team == c.tm.team) = true := by simpa using h
    rw [Function.comp_apply, if_neg hb, leftTeam, if_neg h]

/-- Settles O37: the teams one by one, then the threads of the group's team. -/
theorem retirement : Obligations.Retirement := by
  unfold Obligations.Retirement
  intro s c i p t pc
  refine ⟨rfl, ?_⟩
  obtain ⟨ks, hks⟩ := s.retire_teams c i p
  rw [show t.teams = _ from hks, List.forall₂_map_right_iff, List.forall₂_same]
  intro a _
  by_cases h : a.task = c.tk.id ∧ a.team = c.tm.team
  · rw [leftTeam, if_pos h, if_pos h, List.forall₂_map_right_iff, List.forall₂_same]
    refine ⟨rfl, fun x _ => ?_⟩
    split
    · exact s.retireThread_retires c i p ks.contains x
    · exact Thread.issued_bystander x ks.contains
  · rw [leftTeam, if_neg h, if_neg h, List.forall₂_map_right_iff, List.forall₂_same]
    exact ⟨rfl, fun x _ => Thread.issued_bystander x ks.contains⟩

end Sys2Proof.Machine

/-!
Exceptions (O36): a fault record field by field, the end of a task by its faults, and the entry of a group's threads into their
routines.
-/
namespace Sys2Proof.Machine

open Sys2Proof

/-! ## The fields of a fault record (R389) -/

/-- The number that has fields from bit `lo` up, each given by its width and its value. -/
def packAt (lo : Nat) : List (Nat × Nat) → Nat
  | [] => 0
  | (n, v) :: fs => v * 2 ^ lo + packAt (lo + n) fs

/-- The bits that the fields take. -/
def packWidth (fs : List (Nat × Nat)) : Nat := (fs.map (·.1)).sum

theorem packAt_eq_mul (lo : Nat) (fs : List (Nat × Nat)) : packAt lo fs = 2 ^ lo * packAt 0 fs := by
  induction fs generalizing lo with
  | nil => rfl
  | cons f fs ih =>
    obtain ⟨n, v⟩ := f
    simp only [packAt]
    rw [ih (lo + n), ih (0 + n)]
    ring

/-- The field `k` of the number stands above those before it. -/
theorem packAt_div_mod {fs : List (Nat × Nat)} (h : ∀ f ∈ fs, f.2 < 2 ^ f.1) {k n v : Nat} (hk : fs[k]? = some (n, v)) :
    packAt 0 fs / 2 ^ packWidth (fs.take k) % 2 ^ n = v := by
  induction fs generalizing k with
  | nil => cases hk
  | cons f fs ih =>
    obtain ⟨m, u⟩ := f
    have hu : u < 2 ^ m := h (m, u) List.mem_cons_self
    have hz : packAt 0 ((m, u) :: fs) = u + 2 ^ m * packAt 0 fs := by
      rw [packAt, packAt_eq_mul, Nat.zero_add, Nat.pow_zero, Nat.mul_one]
    rw [hz]
    cases k with
    | zero =>
      cases hk
      simpa [packWidth] using Nat.mod_eq_of_lt hu
    | succ k =>
      have hw : packWidth (((m, u) :: fs).take (k + 1)) = m + packWidth (fs.take k) := rfl
      rw [hw, pow_add, ← Nat.div_div_eq_div_mul, Nat.add_mul_div_left _ _ (Nat.two_pow_pos m), Nat.div_eq_of_lt hu, Nat.zero_add]
      exact ih (fun f hf => h f (List.mem_cons_of_mem _ hf)) hk

theorem bitsNat_ofNat {w v lo n : Nat} (h : lo + n ≤ w) : bitsNat (BitVec.ofNat w v) lo n = v / 2 ^ lo % 2 ^ n := by
  rw [bitsNat, BitVec.toNat_ofNat, Nat.shiftRight_eq_div_pow]
  refine Nat.eq_of_testBit_eq fun i => ?_
  simp only [Nat.testBit_mod_two_pow, Nat.testBit_div_two_pow]
  by_cases hi : i < n
  · simp [show i + lo < w by omega]
  · simp [hi]

/-- A bit is a field of width 1. -/
theorem getLsbD_of_bitsNat {w lo : Nat} {x : BitVec w} {b : Bool} (h : bitsNat x lo 1 = b.toNat) : x.getLsbD lo = b := by
  rw [BitVec.getLsbD, Nat.testBit_eq_decide_div_mod_eq, ← Nat.shiftRight_eq_div_pow, show (x.toNat >>> lo) % 2 = b.toNat from h]
  cases b <;> rfl

section
variable (tk : Task) (team pc : Nat) (f : FaultInfo) (tid : Nat)

/-- The fields of a record that names no iteration, index, address or operand, from bit 0 up. -/
def plainFields : List (Nat × Nat) :=
  [(8, f.cause), (8, f.reason), (8, f.code), (1, (f.named.contains tid).toNat), (39, 0), (57, pc), (7, 0), (32, codeOff tk pc),
    (64, laneMask tk.width (warpOf tk.width tid) f.named), (160, 0), (16, team), (2, squadOf tk.width tid), (2, 0), (12, tid), (96, 0)]

variable {tk team pc f tid}

theorem faultRecord_plain (hd : f.details = []) (hb : f.buf = none) (hp : pc < 2 ^ 57) (ht : tid < 2 ^ 12) (hm : team < 2 ^ 16) :
    faultRecord tk team pc f none tid = BitVec.ofNat 512 (packAt 0 (plainFields tk team pc f tid)) := by
  have hbit : (if f.named.contains tid then 2 ^ 24 else 0) = (f.named.contains tid).toNat * 2 ^ 24 := by
    cases f.named.contains tid <;> simp
  rw [faultRecord]
  simp only [hd, hb, List.find?_nil, Option.bind_none, Option.map_none, optField, Nat.mod_eq_of_lt hp, hbit,
    Nat.mod_eq_of_lt ht, Nat.mod_eq_of_lt hm]
  congr 1
  simp only [packAt, plainFields, Nat.reduceAdd]
  simp only [zero_mul, zero_add, add_zero, pow_zero, mul_one, mul_comm (2 ^ 8), mul_comm (2 ^ 16), add_assoc]

/-- A record that names no iteration, index, address or operand, bit for bit. -/
theorem faultRecord_fields (hc : f.cause < 2 ^ 8) (hr : f.reason < 2 ^ 8) (ho : f.code < 2 ^ 8) (hp : pc < 2 ^ 57) (hd : f.details = [])
    (hb : f.buf = none) (hl : laneMask tk.width (warpOf tk.width tid) f.named < 2 ^ 64) (ht : tid < 2 ^ 12) (hm : team < 2 ^ 16) :
    let r := faultRecord tk team pc f none tid
    bitsNat r 0 8 = f.cause ∧ bitsNat r 8 8 = f.reason ∧ bitsNat r 16 8 = f.code ∧
    (r.getLsbD 24 = f.named.contains tid) ∧ bitsNat r 25 39 = 0 ∧ bitsNat r 64 57 = pc ∧ bitsNat r 121 7 = 0 ∧
    bitsNat r 128 32 = (pc + 2 ^ 57 - tk.entry) % 2 ^ 32 ∧
    bitsNat r 160 64 = laneMask tk.width (warpOf tk.width tid) f.named ∧ bitsNat r 224 160 = 0 ∧
    bitsNat r 384 16 = team ∧ bitsNat r 400 2 = tid / tk.width % 4 ∧ bitsNat r 402 2 = 0 ∧ bitsNat r 404 12 = tid ∧
    bitsNat r 416 96 = 0 := by
  intro r
  have fits : ∀ g ∈ plainFields tk team pc f tid, g.2 < 2 ^ g.1 := by
    have hs : squadOf tk.width tid < 2 ^ 2 := Nat.mod_lt _ (by decide)
    have hcode : codeOff tk pc < 2 ^ 32 := Nat.mod_lt _ (by decide)
    have hbit : (f.named.contains tid).toNat < 2 ^ 1 := Bool.toNat_lt _
    simp only [plainFields, List.forall_mem_cons, List.not_mem_nil, false_implies, implies_true, and_true]
    exact ⟨hc, hr, ho, hbit, Nat.two_pow_pos _, hp, Nat.two_pow_pos _, hcode, hl, Nat.two_pow_pos _, hm, hs, Nat.two_pow_pos _, ht,
      Nat.two_pow_pos _⟩
  have key (k : Nat) {lo n v : Nat} (hf : (plainFields tk team pc f tid)[k]? = some (n, v))
      (hlo : packWidth ((plainFields tk team pc f tid).take k) = lo := by simp [packWidth, plainFields])
      (hw : lo + n ≤ 512 := by omega) : bitsNat r lo n = v := by
    have := packAt_div_mod fits hf
    rw [hlo] at this
    exact (congrArg (bitsNat · lo n) (faultRecord_plain hd hb hp ht hm)).trans ((bitsNat_ofNat hw).trans this)
  exact ⟨key 0 rfl, key 1 rfl, key 2 rfl,
    getLsbD_of_bitsNat (key 3 rfl), key 4 rfl,
    key 5 rfl, key 6 rfl, key 7 rfl,
    key 8 rfl, key 9 rfl, key 10 rfl,
    key 11 rfl, key 12 rfl, key 13 rfl,
    key 14 rfl⟩

end

/-! ## A task ends by its faults (R395, R396) -/

section
variable {s : State} {tk : Task} {r q : BitVec 512}

/-- A list of tasks changed one by one, where each task of an identity is changed as another function does. -/
theorem State.modTask_congr {id : Nat} {f g : Task → Task} (h : ∀ x ∈ s.tasks, x.id = id → f x = g x) :
    s.modTask id f = s.modTask id g := by
  simp only [State.modTask, mapIf]
  congr 1
  refine List.map_congr_left fun x hx => ?_
  by_cases hi : x.id = id
  · rw [h x hx hi]
  · rw [if_neg (by simpa using hi), if_neg (by simpa using hi)]

variable (s) in
theorem State.modTask_id (id : Nat) : s.modTask id (fun x => x) = s := by
  simp [State.modTask, mapIf]

theorem State.modTask_modTask {id : Nat} {f g : Task → Task} (h : ∀ x, (f x).id = x.id) :
    (s.modTask id f).modTask id g = s.modTask id fun x => g (f x) := by
  simp only [State.modTask, mapIf, List.map_map]
  congr 1
  refine List.map_congr_left fun x _ => ?_
  by_cases hi : x.id = id <;> simp [hi, h]

/-- What a fault of the clock `clk` makes of a task of its identity. -/
def Task.faultedAt (clk : Nat) (r : BitVec 512) (x : Task) : Task :=
  match x.phase, x.faultAt with
  | .live, _ => x.endBy r clk
  | .ending 2 _ _, some k => if k = clk ∧ faultRank r < faultRank x.fault then x.endBy r k else x
  | _, _ => x

theorem State.endTaskFault_eq : s.endTaskFault tk r = s.modTask tk.id (·.faultedAt s.clk r) := rfl

theorem Task.faultedAt_live {x : Task} {clk : Nat} (h : x.phase = .live) : x.faultedAt clk r = x.endBy r clk := by
  simp [Task.faultedAt, h]
theorem Task.faultedAt_late {x : Task} {clk : Nat} (h : x.phase ≠ .live) (hf : x.faultAt = none) : x.faultedAt clk r = x := by
  unfold Task.faultedAt
  split <;> simp_all
theorem Task.faultedAt_endBy {x : Task} {clk : Nat} :
    (x.endBy r clk).faultedAt clk q = if faultRank q < faultRank r then x.endBy q clk else x.endBy r clk := by
  change (if clk = clk ∧ faultRank q < faultRank r then _ else _) = _
  simp only [true_and]
  rfl

/-- The first fault ends each live task of its identity. -/
theorem State.endTaskFault_live (h : ∀ x ∈ s.tasks, x.id = tk.id → x.phase = .live) :
    s.endTaskFault tk r = s.modTask tk.id (·.endBy r s.clk) :=
  State.modTask_congr fun x hx hi => Task.faultedAt_live (h x hx hi)

/-- A fault after the clock of the first changes nothing. -/
theorem State.endTaskFault_late (h : ∀ x ∈ s.tasks, x.id = tk.id → x.phase ≠ .live ∧ x.faultAt = none) : s.endTaskFault tk r = s :=
  (State.modTask_congr fun x hx hi => Task.faultedAt_late (h x hx hi).1 (h x hx hi).2).trans (s.modTask_id tk.id)

/-- Of two faults of one clock the one of the lower rank stands. -/
theorem State.endTaskFault_twice (h : ∀ x ∈ s.tasks, x.id = tk.id → x.phase = .live) :
    (s.endTaskFault tk r).endTaskFault tk q = if faultRank q < faultRank r then s.endTaskFault tk q else s.endTaskFault tk r := by
  have two : (s.endTaskFault tk r).endTaskFault tk q =
      s.modTask tk.id fun x => if faultRank q < faultRank r then x.endBy q s.clk else x.endBy r s.clk := by
    rw [State.endTaskFault_live h, State.endTaskFault_eq, State.modTask_modTask (f := (·.endBy r s.clk)) fun _ => rfl]
    exact State.modTask_congr fun x _ _ => Task.faultedAt_endBy
  rw [two, State.endTaskFault_live h, State.endTaskFault_live h]
  split <;> rfl

/-- The rank compares the team, then the thread. -/
theorem faultRank_lt : faultRank q < faultRank r ↔ bitsNat q 384 16 < bitsNat r 384 16 ∨
    (bitsNat q 384 16 = bitsNat r 384 16 ∧ bitsNat q 404 12 < bitsNat r 404 12) := by
  have hq : bitsNat q 404 12 < 4096 := Nat.mod_lt _ (by decide)
  have hr : bitsNat r 404 12 < 4096 := Nat.mod_lt _ (by decide)
  simp only [faultRank]
  omega

/-- The record of the one task that a fault of this clock ended is posted as one event. -/
theorem State.postFaults_one (h : s.tasks.filter (fun x => x.faultAt.isSome) = [tk]) :
    s.postFaults = (let t := s.modTask tk.id fun x => { x with faultAt := none }
      if s.dutyFault then
        t.postEvent { kind := 2, team := bitsNat tk.fault 384 16, value := BitVec.ofNat 64 tk.chain, body := tk.fault, reply := none }
      else t) := by
  rw [State.postFaults, h]
  rfl

end

end Sys2Proof.Machine

/-!
Entering the trap routine (O36, R392): the marks of the entering warps lose the threads that enter, so that what the entry completes
releases other threads alone.
-/
namespace Sys2Proof.Machine

open Sys2Proof

/-! ## The lanes of a warp's threads -/

theorem testBit_foldl_or (l : List Nat) (f : Nat → Nat) (m i : Nat) :
    (l.foldl (fun m t => m ||| 2 ^ f t) m).testBit i = (m.testBit i || l.any fun t => f t == i) := by
  induction l generalizing m with
  | nil => simp
  | cons a l ih => rw [List.foldl_cons, ih, Nat.testBit_or, Nat.testBit_two_pow, List.any_cons, Bool.or_assoc]; rfl

theorem laneMask_testBit {w t : Nat} {tids : List Nat} (h : t ∈ tids) : (laneMask w (warpOf w t) tids).testBit (wlaneOf w t) = true := by
  rw [laneMask, testBit_foldl_or, Bool.or_eq_true, List.any_eq_true]
  exact .inr ⟨t, List.mem_filter.2 ⟨h, beq_self_eq_true _⟩, beq_self_eq_true _⟩

/-- No entry of the warp's routine stack holds a thread of `tids`. -/
def FreeOf (w k : Nat) (tids : List Nat) (st : List MarkEntry) : Prop :=
  ∀ e ∈ st, ∀ t ∈ tids, warpOf w t = k → bitAt e.mask (wlaneOf w t) = false

theorem freeOf_dropFromStack (w k : Nat) (tids : List Nat) (st : List MarkEntry) : FreeOf w k tids (dropFromStack w k tids st) := by
  intro e he t ht hk
  subst hk
  obtain ⟨e₀, -, h⟩ := List.mem_filterMap.1 he
  dsimp only at h
  split at h
  · cases h
  · cases h
    simp only [bitAt, dropLanes, BitVec.getLsbD_and, BitVec.getLsbD_not, BitVec.getLsbD_ofNat, laneMask_testBit ht]
    by_cases hl : wlaneOf w t < 64
    · simp [hl]
    · simp [hl, BitVec.getLsbD_of_ge _ _ (Nat.le_of_not_lt hl)]

/-! ## A team's warps -/

section
variable (a : Team) (k : Nat) (f : Warp → Warp)

theorem Team.warp_modWarp_ne {j : Nat} (h : j ≠ k) : (a.modWarp k f).warp j = a.warp j := by
  simp [Team.warp, Team.modWarp, List.getD_eq_getElem?_getD, h.symm]

/-- A warp that the team does not have is empty, and stays so. -/
theorem Team.warp_modWarp_self : (a.modWarp k f).warp k = f (a.warp k) ∨
    ((a.modWarp k f).warp k = a.warp k ∧ a.warp k = Warp.empty) := by
  simp only [Team.warp, Team.modWarp, List.getD_eq_getElem?_getD, List.getElem?_modify]
  cases h : a.warps[k]? <;> simp

/-- A change of the routine marks alone changes them alone. -/
theorem Team.modWarp_keeps (h : ∀ w, { f w with routineMarks := [] } = { w with routineMarks := [] }) (j : Nat) :
    { (a.modWarp k f).warp j with routineMarks := [] } = { a.warp j with routineMarks := [] } := by
  by_cases hj : j = k
  · subst hj
    rcases a.warp_modWarp_self j f with hw | ⟨hw, -⟩ <;> rw [hw]
    exact h _
  · rw [a.warp_modWarp_ne k f hj]

end

/-! ## The marks when threads enter (R392, R393) -/

/-- Teams that differ in routine marks alone. -/
def MarksOnly (a b : Team) : Prop :=
  b = { a with warps := b.warps } ∧ ∀ k, { b.warp k with routineMarks := [] } = { a.warp k with routineMarks := [] }

section
variable (w : Nat) (tids : List Nat) (a : Team) (k : Nat)

/-- The change is to the routine marks of the warp alone, which lose the threads that enter. -/
theorem Team.freshRoutineMarks_eq : ∃ m : Warp → List MarkEntry,
    a.freshRoutineMarks w k tids = a.modWarp k (fun wp => { wp with routineMarks := m wp }) ∧ ∀ wp, FreeOf w k tids (m wp) := by
  unfold Team.freshRoutineMarks
  split
  · exact ⟨_, rfl, fun wp => freeOf_dropFromStack w k tids wp.routineMarks⟩
  · exact ⟨_, rfl, fun _ _ he => nomatch he⟩

theorem Team.freshRoutineMarks_marksOnly : MarksOnly a (a.freshRoutineMarks w k tids) := by
  obtain ⟨m, h, -⟩ := a.freshRoutineMarks_eq w tids k
  rw [h]
  exact ⟨rfl, a.modWarp_keeps k _ fun _ => rfl⟩

theorem Team.freshRoutineMarks_free {j : Nat} (hj : j = k ∨ FreeOf w j tids (a.warp j).routineMarks) :
    FreeOf w j tids ((a.freshRoutineMarks w k tids).warp j).routineMarks := by
  obtain ⟨m, h, hm⟩ := a.freshRoutineMarks_eq w tids k
  rw [h]
  by_cases e : j = k
  · subst e
    rcases a.warp_modWarp_self j (fun wp => { wp with routineMarks := m wp }) with hw | ⟨hw, he⟩ <;> rw [hw]
    · exact hm _
    · rw [he]
      exact fun _ he => nomatch he
  · rw [a.warp_modWarp_ne k _ e]
    exact hj.resolve_left e

/-- The marks of every warp of `ks` lose the threads that enter. -/
theorem foldl_freshRoutineMarks (ks : List Nat) :
    MarksOnly a (ks.foldl (fun tm k => tm.freshRoutineMarks w k tids) a) ∧
    ∀ j, (j ∈ ks ∨ FreeOf w j tids (a.warp j).routineMarks) →
      FreeOf w j tids ((ks.foldl (fun tm k => tm.freshRoutineMarks w k tids) a).warp j).routineMarks := by
  induction ks generalizing a with
  | nil => exact ⟨⟨rfl, fun _ => rfl⟩, fun j h => h.resolve_left (List.not_mem_nil)⟩
  | cons k ks ih =>
    obtain ⟨⟨h1, h2⟩, h3⟩ := ih (a.freshRoutineMarks w k tids)
    obtain ⟨g1, g2⟩ := a.freshRoutineMarks_marksOnly w tids k
    refine ⟨⟨?_, fun j => (h2 j).trans (g2 j)⟩, fun j hj => h3 j ?_⟩
    · rw [List.foldl_cons, h1, g1]
    · by_cases hm : j ∈ ks
      · exact .inl hm
      · refine .inr (a.freshRoutineMarks_free w tids k ?_)
        simpa [hm] using hj

end

/-! ## What a completed entry releases (R132) -/

/-- Threads that are released: none of `tids`, none outside its routine, and nothing but where it goes on and its wait. -/
def ReleasedThread (tids : List Nat) (x y : Thread) : Prop :=
  (x.tid ∈ tids ∨ x.routine = none → y = x) ∧ y = { x with pc := y.pc, wait := y.wait }

/-- What completing entries of routine stacks does to a team, while no entry of them holds a thread of `tids`. -/
structure Released (w : Nat) (tids : List Nat) (a b : Team) : Prop where
  frame : { b with threads := [], warps := [] } = { a with threads := [], warps := [] }
  warps : ∀ k, { b.warp k with routineMarks := [] } = { a.warp k with routineMarks := [] }
  threads : ∃ g, b.threads = a.threads.map g ∧ ∀ x, ReleasedThread tids x (g x)
  free : ∀ k, FreeOf w k tids (a.warp k).routineMarks → FreeOf w k tids (b.warp k).routineMarks

theorem ReleasedThread.rfl {tids : List Nat} {x : Thread} : ReleasedThread tids x x := ⟨fun _ => Eq.refl x, Eq.refl x⟩

theorem ReleasedThread.trans {tids : List Nat} {x y z : Thread} (h : ReleasedThread tids x y) (h' : ReleasedThread tids y z) :
    ReleasedThread tids x z := by
  obtain ⟨h1, h2⟩ := h
  obtain ⟨h3, h4⟩ := h'
  constructor
  · intro hx
    have hy := h1 hx
    subst hy
    exact h3 hx
  · rw [h4, h2]

section
variable {w : Nat} {tids : List Nat} {a b d : Team}

theorem Released.rfl : Released w tids a a :=
  ⟨Eq.refl _, fun _ => Eq.refl _, ⟨id, a.threads.map_id.symm, fun _ => ReleasedThread.rfl⟩, fun _ h => h⟩

theorem Released.trans (h : Released w tids a b) (h' : Released w tids b d) : Released w tids a d where
  frame := h'.frame.trans h.frame
  warps k := (h'.warps k).trans (h.warps k)
  threads := by
    obtain ⟨g, hg, hx⟩ := h.threads
    obtain ⟨g', hg', hx'⟩ := h'.threads
    exact ⟨g' ∘ g, by rw [hg', hg, List.map_map], fun x => (hx x).trans (hx' (g x))⟩
  free k hk := h'.free k (h.free k hk)

variable (s : State) (tk : Task) {k : Nat}

theorem State.passWait_eq (x : Thread) : s.passWait tk x = { x with pc := (s.passWait tk x).pc, wait := (s.passWait tk x).wait } := rfl

/-- A change of a warp's routine marks that keeps some of them. -/
theorem Team.modWarp_free {f : Warp → Warp} (h : ∀ wp, (f wp).routineMarks ⊆ wp.routineMarks) {i : Nat}
    (hf : FreeOf w i tids (a.warp i).routineMarks) : FreeOf w i tids ((a.modWarp k f).warp i).routineMarks := by
  by_cases hi : i = k
  · subst hi
    rcases a.warp_modWarp_self i f with hw | ⟨hw, -⟩ <;> rw [hw]
    · exact fun e he => hf e (h _ he)
    · exact hf
  · rwa [a.warp_modWarp_ne k f hi]

/-- An entry that holds no thread of `tids` releases none of them. -/
theorem State.releaseEntry_released {e : MarkEntry} (j : Nat) (hf : FreeOf tk.width k tids (a.warp k).routineMarks)
    (he : e ∈ (a.warp k).routineMarks) : Released tk.width tids a (s.releaseEntry tk a k true e j) where
  frame := Eq.refl _
  warps := a.modWarp_keeps k (fun wp => wp.setStack true ((wp.stack true).eraseIdx j)) fun _ => Eq.refl _
  threads := by
    refine ⟨_, Eq.refl _, fun x => ?_⟩
    split
    · next h =>
      simp only [Bool.and_eq_true, beq_iff_eq] at h
      obtain ⟨⟨⟨hw, hb⟩, -⟩, hr⟩ := h
      refine ⟨fun hx => ?_, s.passWait_eq tk x⟩
      rcases hx with hx | hx
      · exact absurd hb (by simp [hf e he _ hx hw])
      · simp [hx] at hr
    · exact ReleasedThread.rfl
  free _ := Team.modWarp_free (a := a) fun _ => List.eraseIdx_subset

/-- Completing the entries of a warp's routine stack releases none of `tids`. -/
theorem State.joinScan_released (lanes : List Nat) (fuel : Nat) (a : Team) (hf : FreeOf tk.width k tids (a.warp k).routineMarks) :
    Released tk.width tids a (s.joinScan tk k true lanes fuel a) := by
  induction fuel generalizing a with
  | zero => exact Released.rfl
  | succ fuel ih =>
    simp only [State.joinScan]
    split
    · next j _ =>
      split
      · next e he =>
        have hr := s.releaseEntry_released tk (tids := tids) j hf (List.mem_of_getElem? he)
        exact hr.trans (ih _ (hr.free k hf))
      · exact Released.rfl
    · exact Released.rfl

/-- Nor does completing those of several warps. -/
theorem State.foldl_joinScan_released (lanes : Nat → List Nat) (fuel : Nat) (ks : List Nat) (a : Team)
    (hf : ∀ k ∈ ks, FreeOf tk.width k tids (a.warp k).routineMarks) :
    Released tk.width tids a (ks.foldl (fun tm k => s.joinScan tk k true (lanes k) fuel tm) a) := by
  induction ks generalizing a with
  | nil => exact Released.rfl
  | cons k ks ih =>
    have hr := s.joinScan_released tk (lanes k) fuel a (hf k List.mem_cons_self)
    exact hr.trans (ih _ fun j hj => hr.free j (hf j (List.mem_cons_of_mem _ hj)))

end

end Sys2Proof.Machine

/-!
REGISTER BOUND (O36, R66 step 6): the lanes that it names, and that each ALU instruction checks its operands first. The fields of an
instruction give its opcode and its guards by the group of its operands.
-/
namespace Sys2Proof.Machine

open Sys2Proof

/-! ## REGISTER BOUND (R66 step 6) -/

/-- Some member of an operand of the thread lies at or above its allotment. -/
def BeyondAllotment (tk : Task) (us : List RegUse) (x : Thread) : Bool := us.any fun u => decide (allotOf tk x u.cls < u.num + u.cnt)

theorem failing_isEmpty (us : List RegUse) (tk : Task) (x : Thread) : (!(failing us tk x).isEmpty) = BeyondAllotment tk us x := by
  induction us with
  | nil => rfl
  | cons u us ih =>
    rw [BeyondAllotment, List.any_cons, ← BeyondAllotment, ← ih, failing, List.filterMap_cons, overOf]
    by_cases h : u.num + u.cnt ≤ allotOf tk x u.cls
    · simp [h, Nat.not_lt.2 h, failing]
    · simp [h, Nat.lt_of_not_le h]

/-- Where an active lane holds less than an operand needs, REGISTER BOUND names exactly those lanes. -/
theorem State.boundFault_some {s : State} {c : Ctx} {act : List Thread} {us : List RegUse}
    (h : ∃ x ∈ act, BeyondAllotment c.tk us x = true) : ∃ info : FaultInfo, info.cause = causeRegister ∧
      info.named = (act.filter (BeyondAllotment c.tk us)).map (·.tid) ∧ s.boundFault c act us = some info := by
  have hfail : (fun x => !(failing us c.tk x).isEmpty) = BeyondAllotment c.tk us := funext (failing_isEmpty us c.tk)
  have hbad : ¬(act.filter fun x => !(failing us c.tk x).isEmpty).isEmpty = true := by
    obtain ⟨x, hx, hb⟩ := h
    rw [hfail, List.isEmpty_iff]
    exact List.ne_nil_of_mem (List.mem_filter.2 ⟨hx, hb⟩)
  exact ⟨_, rfl, hfail ▸ rfl, if_neg hbad⟩

/-- An instruction that runs on such lanes raises REGISTER BOUND before anything else. -/
theorem run_bound {s : State} {c : Ctx} {i : Instr} {gs : Guards} (k : Ctx → List Thread → Eff) (hc : s.ctx = some c)
    (ha : ∀ u ∈ i.uses c.wide, u.aligned = true) (h : ∃ x ∈ c.active gs, BeyondAllotment c.tk (i.uses c.wide) x = true) :
    ∃ info : FaultInfo, info.cause = causeRegister ∧
      info.named = ((c.active gs).filter (BeyondAllotment c.tk (i.uses c.wide))).map (·.tid) ∧
      run i gs s k = .next (s.raise c info).tick := by
  obtain ⟨info, hcause, hnamed, hb⟩ := State.boundFault_some (s := s) h
  exact ⟨info, hcause, hnamed, by simp [run, hc, List.all_eq_true.2 ha, hb]⟩

/-! ## What the shared runners of the ALU instructions run -/

section
variable {s : State} {i : Instr} {g : Guards}

/-- An answer that is a run of the instruction under its guards. -/
def IsRun (i : Instr) (g : Guards) (s : State) (x : Out) : Prop := ∃ k, x = run i g s k

theorem run_isRun {k : Ctx → List Thread → Eff} : IsRun i g s (run i g s k) := ⟨k, rfl⟩
theorem runLanes_isRun {f : Ctx → Thread → Thread} : IsRun i g s (runLanes i g s f) := run_isRun
theorem runAlu_isRun {u : Bool} {d : RegNum} {n : Nat} {f : View → Rounded} : IsRun i g s (runAlu i g u d n s f) := run_isRun
theorem runCmp_isRun {u : Bool} {p : PredNum} {f : View → Bool × Sts} : IsRun i g s (runCmp i g u p s f) := run_isRun
theorem runMove_isRun {u : Bool} {d a : RegNum} {f : Ctx → Thread → Int} : IsRun i g s (runMove i g u d a s f) := run_isRun
theorem runPred_isRun {d : PredNum} {f : Thread → Bool} : IsRun i g s (runPred i g d s f) := runLanes_isRun
theorem runInt1_isRun {o : IntUn} {n : Nat} {f : Nat → Nat} : IsRun i g s (runInt1 i g o n s f) := runAlu_isRun
theorem runInt2_isRun {o : IntBin} {f : Nat → Nat → Nat} : IsRun i g s (runInt2 i g o s f) := runAlu_isRun
theorem runShift_isRun {o : IntBin} {f : Nat → Nat → Nat} : IsRun i g s (runShift i g o s f) := runAlu_isRun
theorem runSpecial_isRun {o : FloatUn} {f : FloatTy → Nat → Rounded} : IsRun i g s (runSpecial i g o s f) := runAlu_isRun

end

end Sys2Proof.Machine

namespace Sys2Proof

section
open Sys2Proof.Machine

/-! ## The ALU instructions run under their guards (R86) -/

/-- An instruction of an ALU opcode, below NBRL's, runs under the guards of its fields. -/
def RunsIfAlu (i : Instr) (f : Fields) : Prop := f.op.val < 0x1C6 → ∀ s, IsRun i f.guards s (exec i s)

section
variable {n : Len} {op : Fin 1024} {g : Guards} {f : Fields} {i : Instr}

theorem Head.runs (h : Head n op g f) (he : ∀ s, IsRun i g s (exec i s)) : RunsIfAlu i f := fun _ => h.guards ▸ he
theorem RunsIfAlu.ofLate (h : 0x1C6 ≤ f.op.val) : RunsIfAlu i f := fun hl => absurd hl (Nat.not_lt.2 h)
theorem Head.notAlu (h : Head n op g f) (ho : 0x1C6 ≤ op.val) : RunsIfAlu i f := .ofLate (h.op ▸ ho)

end

/-- Every instruction, by the group of its operands. -/
theorem Instr.runsIfAlu {i : Instr} {f : Fields} (hf : i.fields = some f) : RunsIfAlu i f := by
  cases i with
  | iadd g o | isub g o | imul g o | imulh g o | idiv g o | irem g o | imin g o | imax g o | andb g o | orb g o | xorb g o | andn g o =>
    cases hf
    exact (IntBin.holds o).head.runs fun s => by unfold exec; exact runInt2_isRun
  | shl g o | shr g o | sar g o | rotl g o | rotr g o | bfx g o =>
    cases hf
    exact (IntBin.holds o).head.runs fun s => by unfold exec; exact runShift_isRun
  | imad g o | bfi g o =>
    cases hf
    exact (IntTri.holds o).head.runs fun s => by unfold exec; exact runAlu_isRun
  | iabs g o | ineg g o | popc g o | clz g o | ctz g o | brev g o | notb g o =>
    cases hf
    exact (IntUn.holds o).head.runs fun s => by unfold exec; exact runInt1_isRun
  | mov g o =>
    cases hf
    exact (MovOp.holds o).head.runs fun s => by unfold exec; exact runAlu_isRun
  | lea g o =>
    cases hf
    exact (LeaOp.holds o).head.runs fun s => by unfold exec; exact runAlu_isRun
  | sel g o =>
    cases hf
    exact (SelOp.holds o).head.runs fun s => by unfold exec; exact run_isRun
  | icmp g o =>
    cases hf
    exact (ICmpOp.holds o).head.runs fun s => by unfold exec; exact runCmp_isRun
  | pand g o | por g o | pxor g o =>
    cases hf
    exact (PredBin.holds o).head.runs fun s => by unfold exec; exact runPred_isRun
  | pnot g o =>
    cases hf
    exact (PredUn.holds o).head.runs fun s => by unfold exec; exact runPred_isRun
  | fadd g o | fsub g o | fmul g o | fldexp g o =>
    cases hf
    exact (FloatBin.head o).runs fun s => by unfold exec; exact runAlu_isRun
  | ffma g o =>
    cases hf
    exact (FloatTri.head o).runs fun s => by unfold exec; exact runAlu_isRun
  | fmin g o | fmax g o | fcopysign g o | fdiv g o =>
    cases hf
    exact (FloatSel.head o).runs fun s => by unfold exec; exact runAlu_isRun
  | fabs g o | fneg g o | fclass g o =>
    cases hf
    exact (FloatUn.holds o).head.runs fun s => by unfold exec; exact runAlu_isRun
  | fexp g o | fexp2 g o | flog2 g o | frcp g o | frsq g o | fsqrt g o | fsin g o | fcos g o | ftanh g o =>
    cases hf
    exact (FloatUn.holds o).head.runs fun s => by unfold exec; exact runSpecial_isRun
  | fcmp g o =>
    cases hf
    exact (FCmpOp.head o).runs fun s => by unfold exec; exact runCmp_isRun
  | frint g o =>
    cases hf
    exact (FrintOp.holds o).head.runs fun s => by unfold exec; exact runAlu_isRun
  | cvt g o =>
    cases hf
    exact (CvtOp.holds o).head.runs fun s => by unfold exec; exact runAlu_isRun
  | cvtq g o =>
    cases hf
    exact (CvtqOp.head o).runs fun s => by unfold exec; exact runAlu_isRun
  | cvtx g o =>
    cases hf
    exact (CvtxOp.holds o).head.runs fun s => by unfold exec; exact runAlu_isRun
  | rand g o =>
    cases hf
    exact (RandOp.holds o).head.runs fun s => by unfold exec; exact run_isRun
  | perm g o =>
    cases hf
    exact (PermOp.holds o).head.runs fun s => by unfold exec; exact runMove_isRun
  | bcast g o =>
    cases hf
    exact (BcastOp.holds o).head.runs fun s => by unfold exec; exact runMove_isRun
  | shup g o | shdn g o =>
    cases hf
    exact (LaneShift.holds o).head.runs fun s => by unfold exec; exact runMove_isRun
  | vote g o =>
    cases hf
    exact (VoteOp.holds o).head.runs fun s => by unfold exec; exact run_isRun
  | matchLanes g o =>
    cases hf
    exact (LaneOp.holds o).head.runs fun s => by unfold exec; exact run_isRun
  | nbrl g o | nbrr g o =>
    cases hf
    exact (LaneOp.holds o).head.notAlu (by decide)
  | ld g o | st g o =>
    cases hf
    exact (MemOp.holds o).head.notAlu (by decide)
  | lds g o | sts g o =>
    cases hf
    exact (ScratchOp.holds o).head.notAlu (by decide)
  | atom g o =>
    cases hf
    exact (AtomOp.holds o).head.notAlu (by decide)
  | cas g o =>
    cases hf
    exact (CasOp.holds o).head.notAlu (by decide)
  | aacc g o =>
    cases hf
    exact (AaccOp.holds o).head.notAlu (by decide)
  | ldacc g o =>
    cases hf
    exact (LdaccOp.holds o).head.notAlu (by decide)
  | waitall g o | tagclr g o =>
    cases hf
    exact (TagSet.tagWait_holds o).head.notAlu (by decide)
  | waitany g o | tagff g o =>
    cases hf
    exact (TagQuery.holds o).head.notAlu (by decide)
  | pref g o =>
    cases hf
    exact (PrefOp.holds o).head.notAlu (by decide)
  | flush g o | inv g o =>
    cases hf
    exact (LineSel.holds o).head.notAlu (by decide)
  | lscale g o =>
    cases hf
    exact (LscaleOp.holds o).head.notAlu (by decide)
  | lload g o | lstore g o =>
    cases hf
    exact (LmemOp.holds o).head.notAlu (by decide)
  | mspill g o | mfill g o =>
    cases hf
    exact (MmemOp.holds o).head.notAlu (by decide)
  | rep g o =>
    cases hf
    exact (RepOp.holds o).head.notAlu (by decide)
  | stPass g o | fence g o | cpyGs g o | cpySg g o | cpyGg g o | recd g o | recq g o | lzero g o | lmov g o | lfma g o | ladd g o
  | ladda g o | lneg g o | lnorm g o | lrnd g o | lquo g o | lxadd g o | mzero g o | mma g o | mmas g o | msel g o | maddt g o
  | mrnd g o | mquo g o | bra g o | jmpi g o | jtbl g o | call g d o | calli g d o | ret g o | mark o | join | yield g | exit g
  | nop g | trap g o | bkpt g o | tret | bar o | bara o | barw o | innend g | vshrink g o | vgrow g o | lnch g o | mgmt g o
  | ctxrd g o | ctxwr g o | mfs g o | mts g o =>
    cases hf
    exact .ofLate (of_decide_eq_true rfl)
  | _ => exact nomatch hf

end

end Sys2Proof

/-!
A fault of a group is raised (O36): its threads enter their routines, or its task ends.
-/
namespace Sys2Proof.Machine

open Sys2Proof

/-! ## A fault is raised (R392, R395) -/

/-- A thread of the group when it enters its routine at a fault. -/
def faultEntered (s : State) (c : Ctx) (f : FaultInfo) (x : Thread) : Thread :=
  { x with routine := some { kind := .fault, resume := c.g.addr, rep := x.rep, wait := x.wait, staged := Staged.empty, committed := false },
           rep := Rep.none, wait := .none, atYield := false, dog := 0,
           fault := faultRecord c.tk c.tm.team c.g.addr.toNat f c.g.iter x.tid,
           pc := BitVec.ofNat 64 (s.skipPads c.tk (c.tk.entry + 8)) }

section
variable {s : State} {c : Ctx} {f : FaultInfo}

/-- The group's team after the entry: marks, then threads, then what the marks release. -/
def enteredTeam (s : State) (c : Ctx) (f : FaultInfo) (a : Team) : Team :=
  ((c.g.members.map (warpOf c.tk.width)).dedup.foldl (fun tm k => tm.freshRoutineMarks c.tk.width k c.g.members) a).modThreads
    (fun t => c.g.members.contains t.tid) (faultEntered s c f)

theorem enteredTeam_threads (a : Team) : (enteredTeam s c f a).threads =
    a.threads.map fun x => if x.tid ∈ c.g.members then faultEntered s c f x else x := by
  obtain ⟨⟨h, -⟩, -⟩ := foldl_freshRoutineMarks c.tk.width c.g.members a (c.g.members.map (warpOf c.tk.width)).dedup
  rw [enteredTeam, Team.modThreads, mapIf, h]
  simp

/-- Besides its threads and its routine marks the team keeps everything. -/
theorem enteredTeam_frame (a : Team) :
    { enteredTeam s c f a with threads := [], warps := [] } = { a with threads := [], warps := [] } ∧
    ∀ k, { (enteredTeam s c f a).warp k with routineMarks := [] } = { a.warp k with routineMarks := [] } := by
  obtain ⟨⟨h, hw⟩, -⟩ := foldl_freshRoutineMarks c.tk.width c.g.members a (c.g.members.map (warpOf c.tk.width)).dedup
  refine ⟨?_, hw⟩
  rw [enteredTeam, Team.modThreads, h]

/-- No mark of the routines that the entry goes through holds a thread that enters. -/
theorem enteredTeam_free (a : Team) : ∀ k ∈ (c.g.members.map (warpOf c.tk.width)).dedup,
    FreeOf c.tk.width k c.g.members ((enteredTeam s c f a).warp k).routineMarks := fun k hk =>
  (foldl_freshRoutineMarks c.tk.width c.g.members a _).2 k (.inl hk)

/-- Each thread of the group enters its routine, where the kernel has one; others may be released by what the entry completes. -/
theorem State.raise_enters (he : causeEnds f.cause = false) (hi : c.g.inRoutine = false) (hr : s.hasRoutine c.tk = true) : ∃ F,
    s.raise c f = s.modTeam c.tk.id c.tm.team F ∧ ∀ a, Released c.tk.width c.g.members (enteredTeam s c f a) (F a) := by
  have henter : ∀ t : Thread, t.enterRoutine .fault c.g.addr.toNat (s.skipPads c.tk (c.tk.entry + 8))
      (faultRecord c.tk c.tm.team c.g.addr.toNat f c.g.iterOf t.tid) = faultEntered s c f t := fun t => by
    simp [Thread.enterRoutine, faultEntered, Group.iterOf]
  have hkeys (a : Team) : (enteredTeam s c f a).task = a.task ∧ (enteredTeam s c f a).team = a.team := by
    obtain ⟨h, -⟩ := enteredTeam_frame (s := s) (c := c) (f := f) a
    exact ⟨(congrArg Team.task h :), (congrArg Team.team h :)⟩
  have hraise : s.raise c f = (s.modTeam c.tk.id c.tm.team (enteredTeam s c f)).joinChecks c.tk c.tm.team true c.g.members := by
    simp only [State.raise, he, hi, hr, Bool.or_self, Bool.not_true, Bool.false_eq_true, if_false, henter]
    rfl
  refine ⟨_, hraise.trans (State.modTeam_modTeam _ _ _ _ _ hkeys), fun a => ?_⟩
  exact State.foldl_joinScan_released _ c.tk _ 8 _ _ (enteredTeam_free a)

/-- A thread of the group's team after the entry. -/
theorem enteredTeam_released {a b : Team} (h : Released c.tk.width c.g.members (enteredTeam s c f a) b) :
    List.Forall₂ (fun x y => if x.tid ∈ c.g.members then y = faultEntered s c f x
      else (x.routine = none → y = x) ∧ y = { x with pc := y.pc, wait := y.wait }) a.threads b.threads := by
  obtain ⟨g, hg, hx⟩ := h.threads
  rw [hg, enteredTeam_threads, List.map_map, List.forall₂_map_right_iff, List.forall₂_same]
  intro x _
  rw [Function.comp_apply]
  split
  · next hm => exact (hx (faultEntered s c f x)).1 (.inl hm)
  · exact ⟨fun hn => (hx x).1 (.inr hn), (hx x).2⟩

/-- The teams after the entry. -/
theorem State.raise_enters_teams (he : causeEnds f.cause = false) (hi : c.g.inRoutine = false) (hr : s.hasRoutine c.tk = true) :
    s.raise c f = { s with teams := (s.raise c f).teams } ∧
    List.Forall₂ (fun (a b : Team) =>
      { b with threads := [], warps := [] } = { a with threads := [], warps := [] } ∧
      (∀ k, { b.warp k with routineMarks := [] } = { a.warp k with routineMarks := [] }) ∧
      if a.task = c.tk.id ∧ a.team = c.tm.team then
        List.Forall₂ (fun x y => if x.tid ∈ c.g.members then y = faultEntered s c f x
          else (x.routine = none → y = x) ∧ y = { x with pc := y.pc, wait := y.wait }) a.threads b.threads
      else b = a) s.teams (s.raise c f).teams := by
  obtain ⟨F, hF, hrel⟩ := State.raise_enters he hi hr
  rw [hF]
  refine ⟨rfl, ?_⟩
  rw [State.modTeam, mapIf, List.forall₂_map_right_iff, List.forall₂_same]
  intro a _
  by_cases h : a.task = c.tk.id ∧ a.team = c.tm.team
  · have hb : (a.task == c.tk.id && a.team == c.tm.team) = true := by simpa using h
    obtain ⟨hframe, hwarps⟩ := enteredTeam_frame (s := s) (c := c) (f := f) a
    rw [if_pos hb, if_pos h]
    exact ⟨(hrel a).frame.trans hframe, fun k => ((hrel a).warps k).trans (hwarps k), enteredTeam_released (hrel a)⟩
  · have hb : ¬(a.task == c.tk.id && a.team == c.tm.team) = true := by simpa using h
    rw [if_neg hb, if_neg h]
    exact ⟨rfl, fun _ => rfl, rfl⟩

theorem State.raise_ends (h : causeEnds f.cause = true ∨ c.g.inRoutine = true ∨ s.hasRoutine c.tk = false) : ∃ F,
    s.raise c f = (s.modTeam c.tk.id c.tm.team F).endTaskFault c.tk
      (faultRecord c.tk c.tm.team c.g.addr.toNat f c.g.iter (f.named.foldl Nat.min (f.named.headD 0))) := by
  have hb : (causeEnds f.cause || c.g.inRoutine || !s.hasRoutine c.tk) = true := by
    rcases h with h | h | h <;> simp [h]
  exact ⟨_, if_pos hb⟩

end

/-- Settles O36: the check of the operands, the entry, the end, the first of several faults, the report and the record. -/
theorem exceptionEntry : Obligations.ExceptionEntry := by
  unfold Obligations.ExceptionEntry
  refine ⟨?_, fun s c f he hi hr => State.raise_enters_teams he hi hr, ?_, ?_, fun s tk r h => State.endTaskFault_late h,
    fun s tk h => State.postFaults_one h, ?_⟩
  · intro i f s c hf hop hc ha beyond hb
    obtain ⟨k, hk⟩ := Instr.runsIfAlu hf hop s
    rw [hk]
    exact run_bound k hc ha hb
  · intro s c f h hl _ r t
    obtain ⟨F, hF⟩ := State.raise_ends h
    have ht : t = (s.modTeam c.tk.id c.tm.team F).modTask c.tk.id (·.endBy r s.clk) := hF.trans (State.endTaskFault_live hl)
    rw [ht]
    exact ⟨rfl, rfl⟩
  · intro s tk r q hl first
    rw [State.endTaskFault_twice hl]
    exact ⟨fun h => if_pos (faultRank_lt.2 h), fun h => if_neg (mt faultRank_lt.1 h)⟩
  · intro tk team pc f iter tid r hc hr ho hp hd hb hi hm ht hteam
    subst hi
    exact faultRecord_fields hc hr ho hp hd hb hm ht hteam

end Sys2Proof.Machine

/-!
Effects on the active lanes, and predicate logic (O3): what a predicate reads after a write.
-/
namespace Sys2Proof.Machine

open Sys2Proof

/-! ## Effects on the active lanes -/

/-- What `run` does with the active lanes depends on its effect on them alone. -/
theorem run_congr {i : Instr} {gs : Guards} {s : State} {k k' : Ctx → List Thread → Eff}
    (h : ∀ c, k c (c.active gs) = k' c (c.active gs)) : run i gs s k = run i gs s k' := by
  simp only [run, h]

theorem Thread.setPred_tid_pc (t : Thread) (p : Nat) (b : Bool) : (t.setPred p b).tid = t.tid ∧ (t.setPred p b).pc = t.pc :=
  ⟨rfl, rfl⟩

theorem Thread.setReg_tid_pc (t : Thread) (r : Nat) (v : Word) : (t.setReg r v).tid = t.tid ∧ (t.setReg r v).pc = t.pc :=
  ⟨rfl, rfl⟩
theorem Thread.setPair_tid_pc (t : Thread) (r : Nat) (v : DWord) : (t.setPair r v).tid = t.tid ∧ (t.setPair r v).pc = t.pc :=
  ⟨rfl, rfl⟩

/-! ## Predicates (R13, R100) -/

theorem Thread.getLsbD_preds_setPred (t : Thread) (p : Nat) (b : Bool) {i : Nat} (hi : i < 7) :
    (t.setPred p b).preds.getLsbD i = if i = p then b else t.preds.getLsbD i := by
  have hm : (1#7 <<< p).getLsbD i = decide (i = p) := by
    rw [BitVec.getLsbD_shiftLeft, BitVec.getLsbD_one, Bool.eq_iff_iff]
    simp only [Bool.and_eq_true, Bool.not_eq_true', decide_eq_true_eq, decide_eq_false_iff_not]
    omega
  cases b with
  | false =>
    rw [Thread.setPred, if_neg Bool.false_ne_true, BitVec.getLsbD_and, BitVec.getLsbD_not, hm, decide_eq_true hi]
    by_cases h : i = p <;> simp [h]
  | true =>
    rw [Thread.setPred, if_pos rfl, BitVec.getLsbD_or, hm]
    by_cases h : i = p <;> simp [h]

/-- A write of p7 does nothing. -/
theorem Thread.setPred_seven (t : Thread) (b : Bool) : t.setPred 7 b = t := by
  have h : (t.setPred 7 b).preds = t.preds := by
    refine BitVec.eq_of_getLsbD_eq fun i hi => ?_
    rw [Thread.getLsbD_preds_setPred t 7 b hi, if_neg hi.ne]
  calc t.setPred 7 b = { t with preds := (t.setPred 7 b).preds } := rfl
    _ = t := by rw [h]

theorem Thread.pred_setPred (t : Thread) (p q : PredNum) (b : Bool) :
    (t.setPred p.val b).pred q.val = if q = p ∧ p ≠ 7 then b else t.pred q.val := by
  by_cases hq : q = 7
  · subst hq
    rw [if_neg (by rintro ⟨rfl, h⟩; exact h rfl)]
    rfl
  · have hlt : q.val < 7 := by have := Fin.val_ne_of_ne hq; have := q.isLt; dsimp at *; omega
    have hp : (q = p ∧ p ≠ 7) ↔ q.val = p.val := by
      rw [← Fin.ext_iff]
      exact and_iff_left_of_imp fun h => h ▸ hq
    have hne : (q.val == 7) = false := by simp [hlt.ne]
    simp only [Thread.pred, hne, Bool.false_or, Thread.getLsbD_preds_setPred _ _ _ hlt, hp]

/-- Settles O3: each lane writes the predicate, and a predicate reads back what was written, but for p7. -/
theorem predicateLogic : Obligations.PredicateLogic := by
  unfold Obligations.PredicateLogic
  refine ⟨fun g o => ⟨?_, ?_, ?_⟩, fun g o => ?_, fun x p q b => ⟨rfl, x.setPred_seven b, x.pred_setPred p q b⟩⟩
  · exact lanesDo_of_runLanes (fun _ => rfl) fun _ _ => Thread.setPred_tid_pc ..
  · exact lanesDo_of_runLanes (fun _ => rfl) fun _ _ => Thread.setPred_tid_pc ..
  · exact lanesDo_of_runLanes (fun _ => rfl) fun _ _ => Thread.setPred_tid_pc ..
  · exact lanesDo_of_runLanes (fun _ => rfl) fun _ _ => Thread.setPred_tid_pc ..

end Sys2Proof.Machine

/-!
The forms that raise ILLEGAL INSTRUCTION (O35): in a routine, without links, and under a repeat.
-/
namespace Sys2Proof.Machine

open Sys2Proof

section
variable {s : State} {c : Ctx} {i : Instr} {g : Guards}

/-- An instruction that can issue and whose own effect is a fault raises it. -/
theorem raises_of_run {k : State → Ctx → List Thread → Eff} {f : FaultInfo} (h : ∀ s, exec i s = run i g s (k s))
    (hc : CanIssue s c i g) (hk : k s c (c.active g) = .fault f) : Raises s c i f := by
  rw [Raises, h, run_issues hc, hk]
  rfl

/-- What a trap routine may not hold (R393). -/
theorem raises_of_outsideRoutine {e : State → Ctx → List Thread → Eff}
    (h : ∀ s, exec i s = run i g s fun c act => c.outsideRoutine (e s c act)) (hc : CanIssue s c i g)
    (hr : c.g.inRoutine = true) : Raises s c i (FaultInfo.plain causeIllegal 7 c.g.members) :=
  raises_of_run h hc (if_pos hr)

/-- An exchange outside a launch on linked clubs, or in a routine (R125, R393). -/
theorem raises_of_exchange {o : LaneOp} (h : ∀ s, exec i s = runExchange i g o s) (hc : CanIssue s c i g)
    (hl : c.tk.linked = false ∨ c.g.inRoutine = true) : Raises s c i (FaultInfo.plain causeIllegal 7 c.g.members) :=
  raises_of_run h hc (if_pos (by rcases hl with hl | hl <;> simp [hl]))

end

theorem mem_maskFields {m : BitVec 4} {x : RegField} : x ∈ maskFields m ↔
    m.getLsbD 0 = true ∧ x = .fD ∨ m.getLsbD 1 = true ∧ x = .fA ∨ m.getLsbD 2 = true ∧ x = .fB ∨
      m.getLsbD 3 = true ∧ x = .fC := by
  have h (b : Bool) (r : RegField) : x ∈ (if b = true then [r] else []) ↔ b = true ∧ x = r := by cases b <;> simp
  simp only [maskFields, List.mem_append, or_assoc, h]
  rfl

/-- What REP may not repeat (R139): a control instruction, or one without a register in a field that REP advances. -/
theorem repeated_illegal {c : Ctx} {f : Fields} {rep : Rep} {i : Instr} {n : Len} (hd : decodeFields f = .ok i n)
    (h : (0x300 ≤ f.op.val ∧ f.op.val ≤ 0x318) ∨ ∃ x ∈ maskFields rep.mask, ∀ u ∈ i.uses c.wide, u.fld ≠ x) :
    repeated c f rep = .fault (c.illegalInfo 7) := by
  have hbad : (0x300 ≤ f.op.val ∧ f.op.val ≤ 0x318) ∨
      ((maskFields rep.mask).any fun r => !(i.uses c.wide).any fun u => u.fld == r) = true := by
    refine h.imp_right fun ⟨x, hx, hu⟩ => List.any_eq_true.2 ⟨x, hx, ?_⟩
    simpa using hu
  rw [repeated, hd]
  exact if_pos hbad

/-- A whole instruction with a repeat pending is one of its iterations. -/
theorem State.fetch_repeated {s : State} {c : Ctx} {bs : List Byte} {n : Len} (ha : c.g.addr.toNat % 4 = 0)
    (hb : s.fetchBlock c.tk c.tm.core c.g.addr.toNat c.g.members = .ok bs)
    (hl : lenOf (wordAt bs (c.g.addr.toNat % 32)) = some n) (ho : c.g.addr.toNat % 32 + n.bytes ≤ 32)
    (hi : c.g.iter.isSome = true) : s.fetch c = repeated c (Fields.ofWords n (wordAt bs (c.g.addr.toNat % 32))
      (wordAt bs (c.g.addr.toNat % 32 + 4)) (wordAt bs (c.g.addr.toNat % 32 + 8)) (wordAt bs (c.g.addr.toNat % 32 + 12))) c.rep := by
  rw [State.fetch, if_neg (not_not.2 ha), hb]
  simp only [hl, fieldsAt, if_pos ho, hi, if_true]

/-- Settles O35: the forms that a routine may not hold, the exchanges without links, and what REP may not repeat. -/
theorem illegalForms : Obligations.IllegalForms := by
  unfold Obligations.IllegalForms
  refine ⟨fun s c => ⟨fun sc => ⟨?_, ?_, ?_⟩, fun g => ⟨?_, fun o => ⟨?_, ?_⟩, fun o => ?_, fun n => ⟨?_, ?_⟩, fun n => ?_⟩⟩,
    fun g o s c hl => ⟨?_, ?_⟩, ?_⟩
  · exact raises_of_outsideRoutine fun s => by show execBar sc s = _; rw [execBar, runArrive]
  · exact raises_of_outsideRoutine fun s => by show execBara sc s = _; rw [execBara, runArrive]
  · exact raises_of_outsideRoutine fun s => by show execBarw sc s = _; rw [execBarw]
  · exact raises_of_outsideRoutine fun s => by show execInnend g s = _; rw [execInnend]
  · exact fun hc hr => raises_of_exchange (fun _ => rfl) hc (.inr hr)
  · exact fun hc hr => raises_of_exchange (fun _ => rfl) hc (.inr hr)
  · exact raises_of_outsideRoutine fun s => by show execLnch g o s = _; rw [execLnch]
  · exact raises_of_outsideRoutine fun s => by show execVshrink g n s = _; rw [execVshrink]
  · exact raises_of_outsideRoutine fun s => by show execVgrow g n s = _; rw [execVgrow]
  · exact raises_of_outsideRoutine fun s => by show execTrap g n s = _; rw [execTrap]
  · exact fun hc => raises_of_exchange (fun _ => rfl) hc (.inl hl)
  · exact fun hc => raises_of_exchange (fun _ => rfl) hc (.inl hl)
  · intro s g c bs f n i hg hc ha hi o hb hl ho hf ⟨e, hd⟩ hbad
    obtain rfl := State.ctx_g hg hc
    subst hf
    refine step_of_fetch_fault hg hc ((State.fetch_repeated ha hb hl ho hi).trans (repeated_illegal hd ?_))
    exact hbad.imp_right fun ⟨x, hx, hu⟩ => ⟨x, mem_maskFields.2 hx, hu⟩

end Sys2Proof.Machine

/-!
RAND (O10) and the cross-lane instructions (O11). `lanesDo_of_runLanes` settles the issue; what is left is the value that each lane
writes.
-/
namespace Sys2Proof.Machine

open Sys2Proof

/-! ## RAND (R117) -/

/-- The argument of the hash, as a sum of doublewords. -/
theorem randHash_eq (seed : DWord) (team tid : Nat) (a : Word) :
    randHash seed team tid a.toNat =
      let k := mix (seed ^^^ 0x5A173C9E0B6D48F2)
      mix (mix ((BitVec.ofNat 64 (team * 2 ^ 48) + BitVec.ofNat 64 (tid * 2 ^ 32) + a.setWidth 64) ^^^ k) + k) := by
  have ha : BitVec.ofNat 64 a.toNat = a.setWidth 64 := BitVec.ofNat_toNat ..
  rw [randHash, BitVec.ofNat_add, BitVec.ofNat_add, ha]
  rfl

/-- The top 24 bits of the hash as a fraction, rounded. -/
theorem code_roundDy_hash (h : DWord) :
    (roundDy .f32 .rne false (bitsNat h 40 24) (-24)).code =
      if (h >>> 40).toNat = 0 then 0 else (roundRat .f32 .rne (((h >>> 40).toNat : ℚ) / 2 ^ 24)).code := by
  have hb : bitsNat h 40 24 = (h >>> 40).toNat := by
    rw [bitsNat, BitVec.toNat_ushiftRight, Nat.mod_eq_of_lt]
    rw [Nat.shiftRight_eq_div_pow]
    exact Nat.div_lt_of_lt_mul h.isLt
  rw [hb, roundDy]
  split
  · rfl
  · next hn =>
    rw [if_neg (by decide), roundTo_eq_roundRat _ _ _ (Nat.pos_of_ne_zero hn) (by positivity), signedRat_false]
    push_cast
    rfl

theorem Thread.putRegs_one (t : Thread) (r v : Nat) : t.putRegs r 1 v = t.setReg r (BitVec.ofNat 32 v) := rfl
theorem Thread.putRegs_two (t : Thread) (r v : Nat) : t.putRegs r 2 v = t.setPair r (BitVec.ofNat 64 v) := rfl

/-- What a lane of RAND writes of the hash, by form. -/
theorem putRegs_randCode_n32 (x : Thread) (d : Nat) (h : DWord) :
    x.putRegs d RandTy.n32.regs (randCode .n32 h) = x.setReg d (h.setWidth 32) := by
  rw [RandTy.regs, Thread.putRegs_one]
  congr 1
  exact BitVec.eq_of_toNat_eq (by simp [randCode])
theorem putRegs_randCode_f32 (x : Thread) (d : Nat) (h : DWord) :
    x.putRegs d RandTy.f32.regs (randCode .f32 h) = x.setReg d (if (h >>> 40).toNat = 0 then 0
      else BitVec.ofNat 32 (roundRat .f32 .rne (((h >>> 40).toNat : ℚ) / 2 ^ 24)).code) := by
  rw [RandTy.regs, Thread.putRegs_one, randCode, code_roundDy_hash]
  congr 1
  split <;> rfl
theorem putRegs_randCode_i64 (x : Thread) (d : Nat) (h : DWord) :
    x.putRegs d RandTy.i64.regs (randCode .i64 h) = x.setPair d h := by
  rw [RandTy.regs, Thread.putRegs_two, randCode, BitVec.ofNat_toNat, BitVec.setWidth_eq]

/-- Settles O10: the hash is that of R117, and each form writes its part of it. -/
theorem randomNumbers : Obligations.RandomNumbers := by
  unfold Obligations.RandomNumbers
  intro g o
  obtain ⟨ty, d, a⟩ := o
  refine lanesDo_of_runLanes (fun s => ?_) fun c x => ?_
  · show execRand g ⟨ty, d, a⟩ s = _
    cases ty with
    | n32 => simp only [execRand, runLanes, putRegs_randCode_n32, randHash_eq]
    | f32 => simp only [execRand, runLanes, putRegs_randCode_f32, randHash_eq]
    | i64 => simp only [execRand, runLanes, putRegs_randCode_i64, randHash_eq]
  · cases ty with
    | n32 => exact Thread.setReg_tid_pc ..
    | f32 => exact Thread.setReg_tid_pc ..
    | i64 => exact Thread.setPair_tid_pc ..

/-! ## Cross-lane instructions (R118 to R122) -/

section
variable {c : Ctx} {x : Thread} {a n : Nat} {j : Int}

/-- Is `u` the thread of the group at warp lane `j` of the warp of `x`? -/
def Ctx.standsAt (c : Ctx) (x u : Thread) (j : Int) : Prop :=
  u ∈ c.threads ∧ c.warpNo u = c.warpNo x ∧ (wlaneOf c.tk.width u.tid : Int) = j

/-- A lane that a thread of the group occupies supplies that thread's register. -/
theorem Ctx.supply_of_standsAt (h : ∃ u, c.standsAt x u j) : ∃ u, c.standsAt x u j ∧ c.supply x a n j = readRegs u.reg a n := by
  obtain ⟨u, hu, hw, hl⟩ := h
  cases hf : c.threads.find? fun u => warpOf c.tk.width u.tid == warpOf c.tk.width x.tid && (wlaneOf c.tk.width u.tid : Int) == j with
  | none =>
    have hn := List.find?_eq_none.1 hf u hu
    exact absurd (Bool.and_eq_true_iff.2 ⟨beq_iff_eq.2 hw, beq_iff_eq.2 hl⟩) hn
  | some v =>
    have hp := List.find?_some hf
    obtain ⟨hvw, hvl⟩ := Bool.and_eq_true_iff.1 hp
    refine ⟨v, ⟨List.mem_of_find?_eq_some hf, beq_iff_eq.1 hvw, beq_iff_eq.1 hvl⟩, ?_⟩
    simp only [Ctx.supply, hf]

/-- Every other lane supplies 0. -/
theorem Ctx.supply_eq_zero (h : ¬∃ u, c.standsAt x u j) : c.supply x a n j = 0 := by
  have hf : (c.threads.find? fun u => warpOf c.tk.width u.tid == warpOf c.tk.width x.tid && (wlaneOf c.tk.width u.tid : Int) == j) =
      none := by
    refine List.find?_eq_none.2 fun u hu hp => h ⟨u, hu, ?_⟩
    obtain ⟨hw, hl⟩ := Bool.and_eq_true_iff.1 hp
    exact ⟨beq_iff_eq.1 hw, beq_iff_eq.1 hl⟩
  simp only [Ctx.supply, hf]

/-- No thread stands outside the warp's lanes. -/
theorem Ctx.not_standsAt_of_outside (hw : 0 < c.tk.width) (hj : j < 0 ∨ (c.tk.width : Int) ≤ j) : ¬∃ u, c.standsAt x u j := by
  rintro ⟨u, -, -, hl⟩
  have := Nat.mod_lt u.tid hw
  rw [wlaneOf] at hl
  omega

end

/-- The bits that a list of threads adds to a mask. -/
theorem testBit_foldl_lanes (w : Nat) (ts : List Nat) (m j : Nat) :
    (ts.foldl (fun m t => m ||| 2 ^ wlaneOf w t) m).testBit j = (m.testBit j || ts.any fun t => wlaneOf w t == j) := by
  induction ts generalizing m with
  | nil => simp
  | cons t ts ih => rw [List.foldl_cons, ih, List.any_cons, Nat.testBit_or, Nat.testBit_two_pow, Bool.or_assoc]; rfl

theorem testBit_laneMask (w k : Nat) (ts : List Nat) (j : Nat) :
    (laneMask w k ts).testBit j = ts.any fun t => warpOf w t == k && wlaneOf w t == j := by
  rw [laneMask, testBit_foldl_lanes, Nat.zero_testBit, Bool.false_or, List.any_filter]

/-- The active lanes of the warp of a thread. -/
def Ctx.warpMates (c : Ctx) (g : Guards) (x : Thread) : List Thread := (c.active g).filter fun u => c.warpNo u == c.warpNo x

theorem voters_eq (c : Ctx) (g : Guards) (x : Thread) (p : PredNum) :
    voters c (c.active g) x p = (c.warpMates g x).filter fun u => u.pred p.val := by
  rw [voters, Ctx.warpMates, List.filter_filter]
  exact List.filter_congr fun _ _ => Bool.and_comm ..

/-- All the lanes vote for it. -/
theorem length_filter_beq {α : Type} (l : List α) (p : α → Bool) : ((l.filter p).length == l.length) = l.all p := by
  rw [Bool.eq_iff_iff, beq_iff_eq, List.length_filter_eq_length_iff, List.all_eq_true]

theorem not_isEmpty_filter {α : Type} (l : List α) (p : α → Bool) : (!(l.filter p).isEmpty) = l.any p := by
  rw [Bool.eq_iff_iff]
  simp

/-- Settles O11: what each lane writes, which lane supplies it, and the bits of a mask. -/
theorem crossLane : Obligations.CrossLane := by
  unfold Obligations.CrossLane
  refine ⟨fun g o => ?_, fun g o => ?_, fun g o => ⟨?_, ?_⟩, fun c x a n j => ?_, fun g o => ?_, fun g o => ?_, testBit_laneMask⟩
  · exact lanesDo_of_runLanes (fun _ => rfl) fun _ _ => Thread.putRegs_tid ..
  · exact lanesDo_of_runLanes (fun _ => rfl) fun _ _ => Thread.putRegs_tid ..
  · exact lanesDo_of_runLanes (fun _ => rfl) fun _ _ => Thread.putRegs_tid ..
  · exact lanesDo_of_runLanes (fun _ => rfl) fun _ _ => Thread.putRegs_tid ..
  · exact ⟨Ctx.supply_of_standsAt, Ctx.supply_eq_zero, fun hw hj => Ctx.supply_eq_zero (Ctx.not_standsAt_of_outside hw hj)⟩
  · refine lanesDo_of_runLanes (fun s => ?_) fun c x => ?_
    · show execVote g o s = _
      rw [execVote, runLanes]
      refine run_congr fun c => ?_
      congr 2
      funext x
      cases o with
      | all d p =>
        simp only [voters_eq, ← length_filter_beq]
        rfl
      | any d p =>
        simp only [voters_eq, not_isEmpty_filter]
        rfl
      | ballot d p => simp only [voters_eq]; rfl
      | count d p => simp only [voters_eq, List.countP_eq_length_filter]; rfl
    · cases o with
      | all | any => exact Thread.setPred_tid_pc ..
      | ballot | count => exact Thread.putRegs_tid ..
  · refine lanesDo_of_runLanes (fun s => ?_) fun _ _ => Thread.putRegs_tid ..
    show execMatchLanes g o s = _
    rw [execMatchLanes, runLanes]
    refine run_congr fun c => ?_
    simp only [List.filter_filter, Bool.and_comm]

end Sys2Proof.Machine

/-!
The integer instructions (O1). The model computes on natural numbers and integers; here each of its functions is the function of
bit vectors that R94 says, for the values of two bit vectors, and the operands of an entry are such values.
-/
namespace Sys2Proof.Machine

open Sys2Proof

/-! ## Operands as bit vectors (R91) -/

theorem readRegs_lt (f : Nat → Word) (r : Nat) {n : Nat} (hn : n = 1 ∨ n = 2) : readRegs f r n < 2 ^ (32 * n) := by
  have hl := (f r).isLt
  have hh := (f (r + 1)).isLt
  rcases hn with rfl | rfl
  · exact hl
  · rw [readRegs, if_pos rfl]
    omega

theorem intTy_regs_eq (t : IntTy) : t.regs = 1 ∨ t.regs = 2 := by cases t <;> simp [IntTy.regs]

section
variable (v : View) (r : RegNum) (b : Src)

theorem View.data_lt {n : Nat} (hn : n = 1 ∨ n = 2) : v.data r n < 2 ^ (32 * n) := readRegs_lt _ _ hn

theorem View.src_lt {n : Nat} (hn : n = 1 ∨ n = 2) : v.src b n < 2 ^ (32 * n) := by
  cases b with
  | vec r => exact readRegs_lt _ _ hn
  | sc r => exact readRegs_lt _ _ hn
  | uni r => exact readRegs_lt _ _ hn
  | imm8 x => exact BitVec.isLt _
  | imm32 x => exact BitVec.isLt _
  | uimm32 x => exact BitVec.isLt _
  | imm64 x => exact Nat.mod_lt _ (by positivity)
  | uimm64 x => exact Nat.mod_lt _ (by positivity)

theorem View.toNat_bv (t : IntTy) : (v.bv t r).toNat = v.data r t.regs := by
  rw [View.bv, BitVec.toNat_ofNat]
  exact Nat.mod_eq_of_lt (v.data_lt r (intTy_regs_eq t))

theorem View.toNat_bvB (t : IntTy) : (v.bvB t b).toNat = v.src b t.regs := by
  rw [View.bvB, BitVec.toNat_ofNat]
  exact Nat.mod_eq_of_lt (v.src_lt b (intTy_regs_eq t))

end

/-! ## Entries -/

/-- An entry of the ALU mould that sets no status bit. -/
theorem aluDoes_of_exact {i : Instr} {g : Guards} {u : Bool} {d : RegNum} {n : Nat} {f F : View → Nat}
    (h : ∀ s, exec i s = runAlu i g u d n s fun v => Rounded.exact (f v)) (hf : ∀ v, f v = F v) : AluDoes i g u d n F noSts := by
  obtain rfl : f = F := funext hf
  have := aluDoes_of h
  exact this

/-- An integer entry whose result is the pattern `F`. -/
theorem intDoes_of {i : Instr} {g : Guards} {ty : IntTy} {u : Bool} {d : RegNum} {f : View → Nat}
    {F : View → BitVec (intW ty)} (h : ∀ s, exec i s = runAlu i g u d ty.regs s fun v => Rounded.exact (f v))
    (hf : ∀ v, f v = (F v).toNat) : IntDoes i g ty u d F := aluDoes_of_exact h hf

section
variable {i : Instr} {g : Guards}

theorem intDoes_of_runInt2 {o : IntBin} {f : Nat → Nat → Nat} {F : BitVec (intW o.ty) → BitVec (intW o.ty) → BitVec (intW o.ty)}
    (h : ∀ s, exec i s = runInt2 i g o s f) (hf : ∀ a b, f a.toNat b.toNat = (F a b).toNat) :
    IntDoes i g o.ty o.b.isUniform o.d fun v => F (v.bv o.ty o.a) (v.bvB o.ty o.b) :=
  intDoes_of h fun v => by rw [← hf, View.toNat_bv, View.toNat_bvB]

theorem intDoes_of_runShift {o : IntBin} {f : Nat → Nat → Nat} {F : BitVec (intW o.ty) → Nat → BitVec (intW o.ty)}
    (h : ∀ s, exec i s = runShift i g o s f) (hf : ∀ a k, f a.toNat k = (F a k).toNat) :
    IntDoes i g o.ty o.b.isUniform o.d fun v => F (v.bv o.ty o.a) (v.ctl o.b) :=
  intDoes_of h fun v => by rw [← hf, View.toNat_bv]

theorem intDoes_of_runInt1 {o : IntUn} {f : Nat → Nat} {F : BitVec (intW o.ty) → BitVec (intW o.ty)}
    (h : ∀ s, exec i s = runInt1 i g o o.ty.regs s f) (hf : ∀ a, f a.toNat = (F a).toNat) :
    IntDoes i g o.ty o.uniform o.d fun v => F (v.bv o.ty o.a) :=
  intDoes_of h fun v => by rw [← hf, View.toNat_bv]

end

/-! ## Signed and wrapped values (R94) -/

section
variable {w : Nat}

/-- wrap gives the pattern of an integer. -/
theorem wrap_eq_toNat_ofInt (w : Nat) (i : Int) : wrap w i = (BitVec.ofInt w i).toNat := by
  rw [wrap, intCode, BitVec.toNat_ofInt]
  norm_cast

/-- A pattern whose signed value is an integer modulo 2^w is that integer's pattern. -/
theorem wrap_eq_toNat {x : BitVec w} {i : Int} (h : x.toInt = i.bmod (2 ^ w)) : wrap w i = x.toNat := by
  rw [wrap_eq_toNat_ofInt, BitVec.eq_of_toInt_eq ((BitVec.toInt_ofInt i).trans h.symm)]

theorem wrap_toInt (x : BitVec w) : wrap w x.toInt = x.toNat := by rw [wrap_eq_toNat_ofInt, BitVec.ofInt_toInt]
theorem wrap_toNat (x : BitVec w) : wrap w x.toNat = x.toNat := by
  rw [wrap_eq_toNat_ofInt, BitVec.ofInt_natCast, BitVec.ofNat_toNat, BitVec.setWidth_eq]

theorem sv_toNat (hw : 0 < w) (x : BitVec w) : sv w x.toNat = x.toInt := by
  have h2 : 2 ^ w = 2 * 2 ^ (w - 1) := by rw [← pow_succ', Nat.sub_add_cancel hw]
  rw [sv, BitVec.toInt_eq_toNat_cond]
  push_cast
  refine if_congr ?_ rfl rfl
  omega

end

theorem intW_pos (t : IntTy) : 0 < intW t := by cases t <;> decide

/-- val of R94. -/
theorem ival_toNat (t : IntTy) (x : BitVec (intW t)) : ival t x.toNat = num t x := by
  cases t with
  | n32 => rfl
  | i32 => exact sv_toNat (by decide) x
  | i64 => exact sv_toNat (by decide) x

/-! ## Sums, differences and products -/

section
variable {w : Nat} (a b : BitVec w)

theorem toNat_sub_eq_wrap : wrap w ((a.toNat : Int) - b.toNat) = (a - b).toNat := by
  rw [wrap_eq_toNat_ofInt, Int.sub_eq_add_neg, BitVec.ofInt_add, BitVec.ofInt_neg, BitVec.ofInt_natCast, BitVec.ofInt_natCast,
    BitVec.ofNat_toNat, BitVec.ofNat_toNat, BitVec.setWidth_eq, BitVec.setWidth_eq, BitVec.sub_eq_add_neg]

theorem toNat_neg_eq_wrap : wrap w (-(a.toNat : Int)) = (-a).toNat := by
  rw [wrap_eq_toNat_ofInt, BitVec.ofInt_neg, BitVec.ofInt_natCast, BitVec.ofNat_toNat, BitVec.setWidth_eq]

theorem toNat_abs_eq_wrap (hw : 0 < w) : wrap w (sv w a.toNat).natAbs = a.abs.toNat := by
  rw [sv_toNat hw, BitVec.abs_eq]
  have hm := a.msb_eq_toInt
  by_cases h : a.toInt < 0
  · rw [if_pos (hm.trans (decide_eq_true h)), Int.ofNat_natAbs_of_nonpos h.le, wrap_eq_toNat_ofInt, BitVec.ofInt_neg, BitVec.ofInt_toInt]
  · rw [if_neg (by simp [hm, h]), Int.natAbs_of_nonneg (not_lt.1 h), wrap_toInt]

/-- Multiply and add. -/
theorem toNat_mul_add (c : BitVec w) : (a.toNat * b.toNat + c.toNat) % 2 ^ w = (a * b + c).toNat := by
  rw [BitVec.toNat_add, BitVec.toNat_mul, Nat.mod_add_mod]

/-- LEA. -/
theorem toNat_add_shiftLeft (k : Nat) : (a.toNat + b.toNat * 2 ^ k) % 2 ^ w = (a + b <<< k).toNat := by
  rw [BitVec.toNat_add, BitVec.toNat_shiftLeft, Nat.shiftLeft_eq, Nat.add_mod_mod]

end

/-! ## Division (R94, R95) -/

section
variable {w : Nat} (a b : BitVec w)

theorem wrap_tdiv : wrap w (truncDiv a.toInt b.toInt) = (a.sdiv b).toNat := wrap_eq_toNat (BitVec.toInt_sdiv a b)

theorem wrap_sub_mul_tdiv : wrap w (a.toInt - b.toInt * truncDiv a.toInt b.toInt) = (a.srem b).toNat := by
  have h : a.toInt - b.toInt * truncDiv a.toInt b.toInt = (a.srem b).toInt := by
    rw [BitVec.toInt_srem, Int.tmod_def, truncDiv]
  rw [h, wrap_toInt]

end

theorem num_eq_toInt {t : IntTy} (h : isSigned t = true) (x : BitVec (intW t)) : num t x = x.toInt := if_pos h
theorem num_eq_toNat {t : IntTy} (h : ¬isSigned t = true) (x : BitVec (intW t)) : num t x = x.toNat := if_neg h

/-- The most negative value divided by −1 (R95): the quotient wraps to it, and nothing remains. -/
theorem sdiv_srem_of_overflow {w : Nat} (hw : 0 < w) {a b : BitVec w} (ha : a.toInt = -(2 : Int) ^ (w - 1)) (hb : b.toInt = -1) :
    a.sdiv b = a ∧ a.srem b = 0 := by
  have h2 : 2 ^ w = 2 * 2 ^ (w - 1) := by rw [← pow_succ', Nat.sub_add_cancel hw]
  have hm : ((2 : Int) ^ (w - 1)).bmod (2 ^ w) = -2 ^ (w - 1) := Int.bmod_eq_neg (by positivity) (by rw [h2]; push_cast; rfl)
  constructor
  · refine BitVec.eq_of_toInt_eq ?_
    rw [BitVec.toInt_sdiv, hb, Int.tdiv_neg, Int.tdiv_one, ha, neg_neg, hm]
  · refine BitVec.eq_of_toInt_eq ?_
    rw [BitVec.toInt_srem, hb, Int.tmod_neg, Int.tmod_one]
    exact BitVec.toInt_zero.symm

theorem toNat_eq_zero_iff {w : Nat} {b : BitVec w} : b.toNat = 0 ↔ b = 0 := by simp [← BitVec.toNat_inj]

/-- An unsigned value is no −1. -/
theorem not_overflow_of_unsigned {t : IntTy} (h : ¬isSigned t = true) (a b : BitVec (intW t)) :
    ¬(num t a = -(2 : Int) ^ (intW t - 1) ∧ num t b = -1) := by
  rw [num_eq_toNat h b]
  rintro ⟨-, hb⟩
  omega

section
variable (t : IntTy) (a b : BitVec (intW t))

theorem idivCode_eq : idivCode t a.toNat b.toNat =
    (if b = 0 then BitVec.allOnes _ else if isSigned t then a.sdiv b else a.udiv b).toNat := by
  simp only [idivCode, ival_toNat, toNat_eq_zero_iff]
  by_cases h0 : b = 0
  · rw [if_pos h0, if_pos h0, BitVec.toNat_allOnes]
  rw [if_neg h0, if_neg h0]
  by_cases hs : isSigned t = true
  · rw [if_pos hs, num_eq_toInt hs, num_eq_toInt hs, wrap_tdiv]
    split
    · next h => rw [(sdiv_srem_of_overflow (intW_pos t) h.1 h.2).1]
    · rfl
  · rw [if_neg hs, if_neg (not_overflow_of_unsigned hs a b), num_eq_toNat hs, num_eq_toNat hs, truncDiv, ← Int.ofNat_tdiv,
      ← BitVec.toNat_udiv, wrap_toNat]
    rfl

theorem iremCode_eq : iremCode t a.toNat b.toNat =
    (if b = 0 then a else if isSigned t then a.srem b else a.umod b).toNat := by
  simp only [iremCode, ival_toNat, toNat_eq_zero_iff]
  by_cases h0 : b = 0
  · rw [if_pos h0, if_pos h0]
  rw [if_neg h0, if_neg h0]
  by_cases hs : isSigned t = true
  · rw [if_pos hs, num_eq_toInt hs, num_eq_toInt hs, wrap_sub_mul_tdiv]
    split
    · next h => rw [(sdiv_srem_of_overflow (intW_pos t) h.1 h.2).2]; rfl
    · rfl
  · rw [if_neg hs, if_neg (not_overflow_of_unsigned hs a b), num_eq_toNat hs, num_eq_toNat hs, truncDiv, ← Int.tmod_def,
      ← Int.ofNat_tmod, ← BitVec.toNat_umod, wrap_toNat]
    rfl

end

/-! ## Shifts and rotations (R94) -/

section
variable {w : Nat} (a : BitVec w) (k : Nat)

theorem shlCode_eq : shlCode w a.toNat k = (a <<< k).toNat := by
  rw [shlCode, BitVec.toNat_shiftLeft, Nat.shiftLeft_eq]
  split
  · next h => exact (Nat.mod_eq_zero_of_dvd ((pow_dvd_pow 2 h).mul_left _)).symm
  · rfl

theorem shrCode_eq : shrCode w a.toNat k = (a >>> k).toNat := by
  rw [shrCode, BitVec.toNat_ushiftRight, Nat.shiftRight_eq_div_pow]
  split
  · next h => exact (Nat.div_eq_of_lt (a.isLt.trans_le (Nat.pow_le_pow_right two_pos h))).symm
  · rfl

/-- Beyond the width an arithmetic shift leaves the sign alone. -/
theorem toInt_div_two_pow_of_le (hk : w - 1 ≤ k) : a.toInt / 2 ^ k = if a.toInt < 0 then -1 else 0 := by
  have hlow : -(2 : Int) ^ (w - 1) ≤ a.toInt := by exact_mod_cast a.le_toInt
  have hhigh : a.toInt < (2 : Int) ^ (w - 1) := by exact_mod_cast a.toInt_lt
  have hp : (2 : Int) ^ (w - 1) ≤ 2 ^ k := pow_le_pow_right₀ one_le_two hk
  split
  · next h => exact Int.ediv_eq_neg_one_of_neg_of_le h (by omega)
  · next h => exact Int.ediv_eq_zero_of_lt (not_lt.1 h) (by omega)

theorem sarCode_eq (hw : 0 < w) : sarCode w a.toNat k = (a.sshiftRight k).toNat := by
  have h : a.toInt / (2 : Int) ^ min k (w - 1) = a.toInt / 2 ^ k := by
    rcases le_total k (w - 1) with hk | hk
    · rw [min_eq_left hk]
    · rw [min_eq_right hk, toInt_div_two_pow_of_le a _ le_rfl, toInt_div_two_pow_of_le a k hk]
  have hs : a.toInt / 2 ^ k = (a.sshiftRight k).toInt := by
    rw [BitVec.toInt_sshiftRight, Int.shiftRight_eq_div_pow]
    norm_cast
  rw [sarCode, sv_toNat hw, h, hs, wrap_toInt]

/-- The two parts of a rotated pattern do not meet. -/
theorem rotate_parts {j : Nat} (hj : j ≤ w) :
    a.toNat * 2 ^ j % 2 ^ w + a.toNat / 2 ^ (w - j) = (a.toNat <<< j) % 2 ^ w ||| a.toNat >>> (w - j) := by
  have hw : 2 ^ w = 2 ^ j * 2 ^ (w - j) := by rw [← pow_add, Nat.add_sub_cancel' hj]
  have hlow : a.toNat / 2 ^ (w - j) < 2 ^ j := Nat.div_lt_of_lt_mul (by rw [mul_comm, ← hw]; exact a.isLt)
  rw [Nat.shiftLeft_eq, Nat.shiftRight_eq_div_pow, mul_comm a.toNat, hw, Nat.mul_mod_mul_left, Nat.two_pow_add_eq_or_of_lt hlow]

theorem rotlCode_eq (hw : 0 < w) : rotlCode w a.toNat k = (a.rotateLeft k).toNat := by
  rw [BitVec.toNat_rotateLeft, ← rotate_parts a (Nat.mod_lt k hw).le]
  rfl

theorem rotrCode_eq (hw : 0 < w) : rotrCode w a.toNat k = (a.rotateRight k).toNat := by
  have hk := Nat.mod_lt k hw
  rw [rotrCode, rotlCode_eq a _ hw, BitVec.toNat_rotateLeft, BitVec.toNat_rotateRight, Nat.mod_mod]
  rcases Nat.eq_zero_or_pos (k % w) with h | h
  · simp [h, Nat.shiftRight_eq_div_pow, Nat.shiftLeft_eq, Nat.div_eq_of_lt a.isLt, Nat.mod_eq_of_lt a.isLt]
  · have hj : (w - k % w) % w = w - k % w := Nat.mod_eq_of_lt (by omega)
    rw [hj, Nat.sub_sub_self hk.le, Nat.lor_comm]

end

/-- Settles O1: each function of the model is that of R94 on the patterns of its operands. -/
theorem integerResults : Obligations.IntegerResults := by
  unfold Obligations.IntegerResults
  refine ⟨fun g o => ?_, fun g o => ?_, fun g o => ⟨?_, ?_⟩, fun g o => ?_⟩
  · intro I S
    have int2 {i : Guards → IntBin → Instr} {f : Nat → Nat → Nat} {F : BitVec (intW o.ty) → BitVec (intW o.ty) → BitVec (intW o.ty)}
        (h : ∀ s, exec (i g o) s = runInt2 (i g o) g o s f) (hf : ∀ a b, f a.toNat b.toNat = (F a b).toNat) : I i F :=
      intDoes_of_runInt2 h hf
    have shift {i : Guards → IntBin → Instr} {f : Nat → Nat → Nat} {F : BitVec (intW o.ty) → Nat → BitVec (intW o.ty)}
        (h : ∀ s, exec (i g o) s = runShift (i g o) g o s f) (hf : ∀ a k, f a.toNat k = (F a k).toNat) : S i F :=
      intDoes_of_runShift h hf
    clear_value I S
    have hw := intW_pos o.ty
    refine ⟨int2 (fun s => show execIadd g o s = _ from rfl) fun a b => (BitVec.toNat_add a b).symm,
      int2 (fun s => show execIsub g o s = _ from rfl) toNat_sub_eq_wrap,
      int2 (fun s => show execImul g o s = _ from rfl) fun a b => (BitVec.toNat_mul a b).symm,
      int2 (fun s => show execImulh g o s = _ from rfl) fun a b => ?_,
      int2 (fun s => show execIdiv g o s = _ from rfl) (idivCode_eq o.ty),
      int2 (fun s => show execIrem g o s = _ from rfl) (iremCode_eq o.ty),
      int2 (fun s => show execImin g o s = _ from rfl) fun a b => ?_,
      int2 (fun s => show execImax g o s = _ from rfl) fun a b => ?_,
      shift (fun s => show execShl g o s = _ from rfl) shlCode_eq,
      shift (fun s => show execShr g o s = _ from rfl) shrCode_eq,
      shift (fun s => show execSar g o s = _ from rfl) fun a k => sarCode_eq a k hw,
      shift (fun s => show execRotl g o s = _ from rfl) fun a k => rotlCode_eq a k hw,
      shift (fun s => show execRotr g o s = _ from rfl) fun a k => rotrCode_eq a k hw⟩
    · rw [ival_toNat, ival_toNat, wrap_eq_toNat_ofInt]
    · rw [ival_toNat, ival_toNat, apply_ite BitVec.toNat]
    · rw [ival_toNat, ival_toNat, apply_ite BitVec.toNat]
  · exact intDoes_of (fun s => show execImad g o s = _ from rfl) fun v => by rw [← toNat_mul_add, View.toNat_bv, View.toNat_bvB, View.toNat_bv]
  · exact intDoes_of_runInt1 (fun s => show execIabs g o s = _ from rfl) fun a => toNat_abs_eq_wrap a (intW_pos _)
  · exact intDoes_of_runInt1 (fun s => show execIneg g o s = _ from rfl) toNat_neg_eq_wrap
  · exact intDoes_of (fun s => show execLea g o s = _ from rfl) fun v => by rw [← toNat_add_shiftLeft, View.toNat_bv, View.toNat_bvB]

end Sys2Proof.Machine

/-!
The bit and logic instructions (O2), in the same way: the counts and fields that the model computes on numbers are those of the bits.
-/
namespace Sys2Proof.Machine

open Sys2Proof

/-! ## Logic (R97) -/

theorem toNat_xor_ones {w : Nat} (a : BitVec w) : a.toNat ^^^ (2 ^ w - 1) = (~~~a).toNat := by
  rw [← BitVec.xor_allOnes, BitVec.toNat_xor, BitVec.toNat_allOnes]

theorem toNat_andn {w : Nat} (a b : BitVec w) : a.toNat &&& (b.toNat ^^^ (2 ^ w - 1)) = (a &&& ~~~b).toNat := by
  rw [toNat_xor_ones, BitVec.toNat_and]

/-! ## Counting bits (R97) -/

theorem foldl_count (p : Nat → Bool) (l : List Nat) (n : Nat) :
    l.foldl (fun n i => n + (if p i then 1 else 0)) n = n + l.countP p := by
  induction l generalizing n with
  | nil => rfl
  | cons i l ih => rw [List.foldl_cons, ih, List.countP_cons, Nat.add_assoc, Nat.add_comm (List.countP p l)]

theorem popCode_eq {w : Nat} (a : BitVec w) : popCode w a.toNat = (List.range w).countP fun k => a.getLsbD k := by
  rw [popCode, foldl_count, Nat.zero_add]
  rfl

theorem leading_cons (b : Bool) (l : List Bool) : leading (b :: l) = if b then leading l + 1 else 0 := by
  cases b <;> rfl

/-- The leading entries of a list of bits, counted from its head. -/
theorem leading_map_range (p : Nat → Bool) {w k : Nat} (hk : k ≤ w) (hp : ∀ i < k, p i = true) (hn : k < w → p k = false) :
    leading ((List.range w).map p) = k := by
  induction w generalizing p k with
  | zero => rw [Nat.le_zero.1 hk]; rfl
  | succ w ih =>
    rw [List.range_succ_eq_map, List.map_cons, leading_cons, List.map_map]
    cases k with
    | zero => rw [hn w.succ_pos]; rfl
    | succ k =>
      rw [hp 0 k.succ_pos, if_pos rfl, ih (p ∘ Nat.succ) (Nat.le_of_succ_le_succ hk) (fun i hi => hp _ (Nat.succ_lt_succ hi))
        fun h => hn (Nat.succ_lt_succ h)]

theorem clzCode_eq {w : Nat} (a : BitVec w) : clzCode w a.toNat = leading ((List.range w).map fun k => !a.getMsbD k) := by
  symm
  rw [clzCode]
  split
  · next h =>
    refine leading_map_range _ le_rfl (fun i _ => ?_) fun h => absurd h (lt_irrefl w)
    rw [toNat_eq_zero_iff.1 h]
    simp
  · next h =>
    have hl : Nat.log2 a.toNat < w := (Nat.log2_lt h).2 a.isLt
    have hbit : ∀ i, a.getMsbD i = (decide (i < w) && a.toNat.testBit (w - 1 - i)) := fun _ => rfl
    refine leading_map_range _ (by omega) (fun i hi => ?_) fun _ => ?_
    · have : a.toNat < 2 ^ (w - 1 - i) := (Nat.log2_lt h).1 (by omega)
      rw [hbit, Nat.testBit_lt_two_pow this, Bool.and_false]
      rfl
    · have hj : w - 1 - (w - 1 - Nat.log2 a.toNat) = Nat.log2 a.toNat := by omega
      rw [hbit, hj, Nat.testBit_log2 h, decide_eq_true (by omega)]
      rfl

theorem ctzFrom_eq (a fuel n : Nat) : ctzFrom a fuel n = n + leading ((List.range fuel).map fun k => !a.testBit (n + k)) := by
  induction fuel generalizing n with
  | zero => rfl
  | succ fuel ih =>
    have hs : (fun k => !a.testBit (n + k)) ∘ Nat.succ = fun k => !a.testBit (n + 1 + k) := by
      funext k
      rw [Function.comp_apply, Nat.succ_eq_one_add, Nat.add_assoc]
    rw [ctzFrom, List.range_succ_eq_map, List.map_cons, leading_cons, List.map_map, hs, ih, Nat.add_zero]
    cases a.testBit n <;> simp [Nat.add_assoc, Nat.add_comm 1]

theorem ctzCode_eq {w : Nat} (a : BitVec w) : ctzCode w a.toNat = leading ((List.range w).map fun k => !a.getLsbD k) := by
  have hz : a.toNat = 0 → leading ((List.range w).map fun k => !a.getLsbD k) = w := fun h =>
    leading_map_range _ le_rfl (fun i _ => by rw [toNat_eq_zero_iff.1 h]; simp) fun h => absurd h (lt_irrefl w)
  rw [ctzCode]
  split
  · next h => exact (hz h).symm
  · simp only [ctzFrom_eq, Nat.zero_add]
    rfl

/-! ## Reversal (R97) -/

/-- A number cut below bit `j`, and its bit `j`. -/
theorem div_two_pow_mul_eq (y j : Nat) :
    y / 2 ^ j * 2 ^ j = y / 2 ^ (j + 1) * 2 ^ (j + 1) + if y.testBit j then 2 ^ j else 0 := by
  have hb : (if y.testBit j then 2 ^ j else 0) = y / 2 ^ j % 2 * 2 ^ j := by
    rw [Nat.testBit_eq_decide_div_mod_eq]
    rcases Nat.mod_two_eq_zero_or_one (y / 2 ^ j) with h | h <;> simp [h]
  have hd := Nat.div_add_mod' (y / 2 ^ j) 2
  rw [hb, pow_succ, ← Nat.div_div_eq_div_mul, mul_comm (2 ^ j) 2, ← mul_assoc, ← Nat.add_mul, hd]

/-- The first `k` steps of the reversal give the top `k` bits of the reversed pattern. -/
theorem foldl_reverse {w : Nat} (a : BitVec w) {k : Nat} (hk : k ≤ w) :
    (List.range k).foldl (fun n i => n + (if a.toNat.testBit i then 2 ^ (w - 1 - i) else 0)) 0 =
      a.reverse.toNat / 2 ^ (w - k) * 2 ^ (w - k) := by
  induction k with
  | zero => simp [Nat.div_eq_of_lt a.reverse.isLt]
  | succ k ih =>
    have hj : w - (k + 1) + 1 = w - k := by omega
    have hbit : a.reverse.toNat.testBit (w - (k + 1)) = a.toNat.testBit k := by
      have hr : a.reverse.getLsbD (w - (k + 1)) = a.getMsbD (w - (k + 1)) := BitVec.getLsbD_reverse
      have hi : w - 1 - (w - (k + 1)) = k := by omega
      rw [BitVec.testBit_toNat, hr, BitVec.getMsbD_eq_getLsbD, hi, decide_eq_true (by omega)]
      rfl
    rw [List.range_succ, List.foldl_append, ih (by omega), div_two_pow_mul_eq _ (w - (k + 1)), hj, hbit, List.foldl_cons,
      List.foldl_nil, Nat.sub_sub, Nat.add_comm 1 k]

theorem brevCode_eq {w : Nat} (a : BitVec w) : brevCode w a.toNat = a.reverse.toNat := by
  rw [brevCode, foldl_reverse a le_rfl, Nat.sub_self, pow_zero, Nat.div_one, Nat.mul_one]

/-! ## Bit fields (R97) -/

section
variable {w : Nat} (a b : BitVec w) {pos n : Nat}

/-- The field of BFX, as signed. -/
theorem wrap_sv_field (hn : 0 < n) (hnw : n ≤ w) :
    wrap w (sv n (a.toNat / 2 ^ pos % 2 ^ n)) = ((a.extractLsb' pos n).signExtend w).toNat := by
  have hf : a.toNat / 2 ^ pos % 2 ^ n = (a.extractLsb' pos n).toNat := by
    rw [BitVec.extractLsb'_toNat, Nat.shiftRight_eq_div_pow]
  rw [hf, sv_toNat hn, ← BitVec.toInt_signExtend_of_le hnw, wrap_toInt]

/-- The field of BFX, as unsigned. -/
theorem field_eq (hnw : n ≤ w) : a.toNat / 2 ^ pos % 2 ^ n = ((a.extractLsb' pos n).setWidth w).toNat := by
  have hlt : a.toNat / 2 ^ pos % 2 ^ n < 2 ^ w := (Nat.mod_lt _ (by positivity)).trans_le (Nat.pow_le_pow_right two_pos hnw)
  rw [BitVec.toNat_setWidth, BitVec.extractLsb'_toNat, Nat.shiftRight_eq_div_pow, Nat.mod_eq_of_lt hlt]

/-- The mask of BFI. -/
theorem getLsbD_fieldMask (hw : pos + n ≤ w) (i : Nat) :
    ((BitVec.allOnes n).setWidth w <<< pos).getLsbD i = decide (pos ≤ i ∧ i < pos + n) := by
  rw [BitVec.getLsbD_shiftLeft, BitVec.getLsbD_setWidth, BitVec.getLsbD_allOnes, Bool.eq_iff_iff]
  simp only [Bool.and_eq_true, Bool.not_eq_true', decide_eq_true_eq, decide_eq_false_iff_not]
  omega

/-- A pattern with the bits of a mask taken from another. -/
theorem getLsbD_merge (m : BitVec w) (i : Nat) :
    ((a &&& ~~~m) ||| (b &&& m)).getLsbD i = if m.getLsbD i then b.getLsbD i else a.getLsbD i := by
  rw [BitVec.getLsbD_or, BitVec.getLsbD_and, BitVec.getLsbD_and, BitVec.getLsbD_not]
  by_cases h : i < w
  · rw [decide_eq_true h]
    cases m.getLsbD i <;> simp
  · simp [BitVec.getLsbD_of_ge, not_lt.1 h]

/-- BFI puts the low bits of `b` in place of the field of `a`. -/
theorem insert_eq (hw : pos + n ≤ w) :
    let m : BitVec w := (BitVec.allOnes n).setWidth w <<< pos
    a.toNat % 2 ^ pos + b.toNat % 2 ^ n * 2 ^ pos + a.toNat / 2 ^ (pos + n) * 2 ^ (pos + n) =
      ((a &&& ~~~m) ||| (b <<< pos &&& m)).toNat := by
  have hsum : a.toNat % 2 ^ pos + b.toNat % 2 ^ n * 2 ^ pos + a.toNat / 2 ^ (pos + n) * 2 ^ (pos + n) =
      2 ^ pos * (2 ^ n * (a.toNat / 2 ^ (pos + n)) + b.toNat % 2 ^ n) + a.toNat % 2 ^ pos := by rw [pow_add]; ring
  have hlow : a.toNat % 2 ^ pos < 2 ^ pos := Nat.mod_lt _ (by positivity)
  have hmid : b.toNat % 2 ^ n < 2 ^ n := Nat.mod_lt _ (by positivity)
  intro m
  refine Nat.eq_of_testBit_eq fun i => ?_
  have hm : m.getLsbD i = decide (pos ≤ i ∧ i < pos + n) := getLsbD_fieldMask hw i
  rw [hsum, Nat.testBit_two_pow_mul_add _ hlow, Nat.testBit_two_pow_mul_add _ hmid, Nat.testBit_mod_two_pow, Nat.testBit_mod_two_pow,
    Nat.testBit_div_two_pow, BitVec.testBit_toNat (_ ||| _), getLsbD_merge, hm, BitVec.getLsbD_shiftLeft]
  rcases lt_or_ge i pos with h1 | h1
  · simp [h1, not_le.2 h1, BitVec.testBit_toNat]
  · rcases lt_or_ge i (pos + n) with h2 | h2
    · have h3 : i < w := by omega
      have h4 : i - pos < n := by omega
      simp [h1, h2, h3, h4, not_lt.2 h1, BitVec.testBit_toNat]
    · have h3 : ¬i - pos < n := by omega
      have h4 : i - pos - n + (pos + n) = i := by omega
      simp [h3, h4, not_lt.2 h1, not_lt.2 h2, BitVec.testBit_toNat]

end

theorem bfxCode_eq (t : IntTy) (a : BitVec (intW t)) (ctl : Nat) : bfxCode t a.toNat ctl =
    (let pos := ctl % 256
     let len := ctl / 256 % 256
     let f := a.extractLsb' pos (min len (intW t - pos))
     if len = 0 ∨ intW t ≤ pos then 0 else if isSigned t then f.signExtend (intW t) else f.setWidth (intW t)).toNat := by
  dsimp only
  rw [bfxCode]
  split
  · rfl
  · next h =>
    obtain ⟨hlen, hpos⟩ := not_or.1 h
    have hn : 0 < min (ctl / 256 % 256) (intW t - ctl % 256) := by omega
    have hnw : min (ctl / 256 % 256) (intW t - ctl % 256) ≤ intW t := by omega
    cases t with
    | n32 => exact field_eq a hnw
    | i32 => exact wrap_sv_field a hn hnw
    | i64 => exact wrap_sv_field a hn hnw

theorem bfiCode_eq {w : Nat} (a b : BitVec w) (ctl : Nat) : bfiCode w a.toNat b.toNat ctl =
    (let pos := ctl % 256
     let len := ctl / 256 % 256
     let m : BitVec w := (BitVec.allOnes (min len (w - pos))).setWidth w <<< pos
     if len = 0 ∨ w ≤ pos then a else (a &&& ~~~m) ||| (b <<< pos &&& m)).toNat := by
  dsimp only
  rw [bfiCode]
  split
  · rfl
  · exact insert_eq a b (by omega)

/-! ## SEL and ICMP (R97, R98) -/

theorem Thread.setSts_none (t : Thread) : t.setSts Sts.none = t := by
  have hf : t.fpst ||| Sts.none.fp = t.fpst := BitVec.or_zero
  rw [Thread.setSts, hf, Sts.none, Bool.or_false]

/-- The conditions of R98. -/
theorem icondHolds_eq (cc : ICond) (a b : Int) : icondHolds cc a b =
    (match cc with
      | .eq => a = b | .ne => a ≠ b | .lt => a < b | .le => a ≤ b | .gt => b < a | .ge => b ≤ a : Bool) := by
  cases cc with
  | ne => exact (decide_not ..).symm
  | eq | lt | le | gt | ge => rfl

/-- Settles O2: each function of the model is that of R97 on the patterns of its operands. -/
theorem bitResults : Obligations.BitResults := by
  unfold Obligations.BitResults
  refine ⟨fun g o => ?_, fun g o => ?_, fun g o => ?_, fun g o => ?_, fun g o => ?_, fun g o => ?_⟩
  · intro w I
    have int2 {i : Guards → IntBin → Instr} {f : Nat → Nat → Nat} {F : BitVec w → BitVec w → BitVec w}
        (h : ∀ s, exec (i g o) s = runInt2 (i g o) g o s f) (hf : ∀ a b, f a.toNat b.toNat = (F a b).toNat) : I i F :=
      intDoes_of_runInt2 h hf
    clear_value I
    refine ⟨int2 (fun s => show execAndb g o s = _ from rfl) fun a b => (BitVec.toNat_and a b).symm,
      int2 (fun s => show execOrb g o s = _ from rfl) fun a b => (BitVec.toNat_or a b).symm,
      int2 (fun s => show execXorb g o s = _ from rfl) fun a b => (BitVec.toNat_xor a b).symm,
      int2 (fun s => show execAndn g o s = _ from rfl) toNat_andn, ?_⟩
    refine intDoes_of (fun s => by show execBfx g o s = _; rw [execBfx, runShift]) fun v => ?_
    rw [← View.toNat_bv]
    exact bfxCode_eq ..
  · refine intDoes_of (fun s => show execBfi g o s = _ from rfl) fun v => ?_
    rw [← View.toNat_bv, ← View.toNat_bvB]
    exact bfiCode_eq ..
  · intro w C
    have count {i : Guards → IntUn → Instr} {f : Nat → Nat} {F : BitVec w → Nat}
        (h : ∀ s, exec (i g o) s = runInt1 (i g o) g o 1 s f) (hf : ∀ a : BitVec w, f a.toNat = F a) : C i F :=
      aluDoes_of_exact h fun v => by rw [← hf, View.toNat_bv]
    clear_value C
    refine ⟨count (fun s => show execPopc g o s = _ from rfl) popCode_eq,
      count (fun s => show execClz g o s = _ from rfl) clzCode_eq,
      count (fun s => show execCtz g o s = _ from rfl) ctzCode_eq, ?_, ?_⟩
    · exact intDoes_of_runInt1 (F := BitVec.reverse) (fun s => show execBrev g o s = _ from rfl) brevCode_eq
    · exact intDoes_of_runInt1 (F := fun a => ~~~a) (fun s => show execNotb g o s = _ from rfl) toNat_xor_ones
  · exact intDoes_of (fun s => show execMov g o s = _ from rfl) fun v => (v.toNat_bvB o.b o.ty).symm
  · refine lanesDo_of_runLanes (fun s => ?_) fun _ _ => Thread.putRegs_tid ..
    show execSel g o s = _
    simp only [execSel, runLanes, apply_ite BitVec.toNat, View.toNat_bv, View.toNat_bvB]
  · refine lanesDo_of_runLanes (fun s => ?_) fun _ _ => Thread.setPred_tid_pc ..
    show execIcmp g o s = _
    simp only [execIcmp, runCmp, runLanes, Thread.setSts_none, icondHolds_eq, ← View.toNat_bv, ← View.toNat_bvB, ival_toNat]
      <;> rfl

end Sys2Proof.Machine

/-!
FADD, FSUB, FMUL and FFMA (O4). A dyadic result is rounded as the rational that it stands for; the sum and the product of the model
are those of rationals, and the sum of a product is the sum of the value that `mulVal` gives.
-/
namespace Sys2Proof.Machine

open Sys2Proof

/-! ## Dyadic results -/

/-- `round` of a dyadic is `round` of its rational. -/
theorem roundDy_eq_roundRat (t : DType) (mode : Mode) (neg : Bool) {m : Nat} (hm : m ≠ 0) (e : Int) :
    roundDy t mode neg m e = roundRat t mode (Val.fin neg m e).rat := by
  have hm' := Nat.pos_of_ne_zero hm
  rw [roundDy, if_neg hm, Val.rat_fin]
  split
  · next he =>
    rw [roundTo_eq_roundRat _ _ _ (by positivity) one_pos, two_zpow_of_nonneg he]
    push_cast
    rw [div_one]
  · next he =>
    rw [roundTo_eq_roundRat _ _ _ hm' (by positivity), two_zpow_of_neg he, div_eq_mul_inv]
    push_cast
    rfl

/-- The model's sum of two dyadics is that of their rationals. -/
theorem addFin_eq (s : Bool) (m : Nat) (e : Int) (u : Bool) (n : Nat) (f : Int) :
    ((addFin s m e u n f).1 : ℚ) * 2 ^ (addFin s m e u n f).2 = (Val.fin s m e).rat + (Val.fin u n f).rat := by
  have hs (i j : Int) (h : i ≤ j) : (2 : ℚ) ^ (j - i).toNat * 2 ^ i = 2 ^ j := by
    rw [← two_zpow_of_nonneg (by omega), ← zpow_add₀ two_ne_zero, sub_add_cancel]
  have hv (b : Bool) (k : Nat) (i : Int) : (Val.fin b k i).rat = signedRat b k * 2 ^ i := by
    rw [Val.rat_fin, signedRat, signedRat, mul_assoc]
  rw [addFin, hv, hv]
  split
  · next h =>
    push_cast
    rw [cast_signedNat, cast_signedNat, add_mul, mul_assoc, hs e f h]
  · next h =>
    push_cast
    rw [cast_signedNat, cast_signedNat, add_mul, mul_assoc, hs f e (by omega)]

theorem addFin_eq_zero_iff {s : Bool} {m : Nat} {e : Int} {u : Bool} {n : Nat} {f : Int} :
    (addFin s m e u n f).1 = 0 ↔ (Val.fin s m e).rat + (Val.fin u n f).rat = 0 := by
  rw [← addFin_eq, mul_eq_zero, Int.cast_eq_zero, or_iff_left (zpow_ne_zero _ two_ne_zero)]

/-- An integer as a signed dyadic. -/
theorem rat_fin_natAbs (v e : Int) : (Val.fin (decide (v < 0)) v.natAbs e).rat = v * 2 ^ e := by
  rw [Val.rat_fin, signedRat, ← mul_assoc, ← signedRat, signedRat_natAbs]

/-- The product of two dyadics is that of their rationals. -/
theorem rat_fin_mul (s u : Bool) (m n : Nat) (e f : Int) :
    (Val.fin (s != u) (m * n) (e + f)).rat = (Val.fin s m e).rat * (Val.fin u n f).rat := by
  rw [Val.rat_fin, Val.rat_fin, Val.rat_fin, zpow_add₀ two_ne_zero, Nat.cast_mul]
  cases s <;> cases u <;> simp [signedRat] <;> ring

/-! ## ieee(expr) (R102, R103) -/

@[simp] theorem Sts.none_or (b : Sts) : Sts.none.or b = b := by
  simp [Sts.or, Sts.none]
@[simp] theorem Sts.or_none (b : Sts) : b.or Sts.none = b := by
  simp [Sts.or, Sts.none]
@[simp] theorem Sts.when_false (b : Sts) : Sts.when false b = Sts.none := rfl
@[simp] theorem Sts.when_true (b : Sts) : Sts.when true b = b := rfl

@[simp] theorem Val.isSnan_inf (n : Bool) : (Val.inf n).isSnan = false := rfl
@[simp] theorem Val.isSnan_fin (n : Bool) (m : Nat) (e : Int) : (Val.fin n m e).isSnan = false := rfl
@[simp] theorem Val.isZero_nan (s : Bool) : (Val.nan s).isZero = false := rfl
@[simp] theorem Val.isZero_inf (n : Bool) : (Val.inf n).isZero = false := rfl

theorem Val.isSnan_of_not_isNan {a : Val} (h : a.isNan = false) : a.isSnan = false := by
  cases a with
  | nan s => exact absurd h (by simp)
  | inf n => rfl
  | fin n m e => rfl

section
variable (t : DType) (mode : Mode)

/-- The sum of two finite values. -/
theorem addRound_fin (s : Bool) (m : Nat) (e : Int) (u : Bool) (n : Nat) (f : Int) :
    addRound t mode (.fin s m e) (.fin u n f) =
      if (Val.fin s m e).rat + (Val.fin u n f).rat = 0 then
        Rounded.exact (dtSign t (if (Val.fin s m e).isZero && (Val.fin u n f).isZero && s == u then s else mode == .rdn))
      else roundRat t mode ((Val.fin s m e).rat + (Val.fin u n f).rat) := by
  have hz : (m = 0 ∧ n = 0 ∧ s = u) ↔ ((Val.fin s m e).isZero && (Val.fin u n f).isZero && s == u) = true := by
    simp [and_assoc]
  simp only [addRound, addFin_eq_zero_iff, hz]
  refine ite_congr rfl (fun _ => rfl) fun h => ?_
  rw [roundDy_eq_roundRat _ _ _ (Int.natAbs_ne_zero.2 (mt addFin_eq_zero_iff.1 h)), rat_fin_natAbs, addFin_eq]

theorem fpAdd_of_not_isNan {a b : Val} (ha : a.isNan = false) (hb : b.isNan = false) : fpAdd t mode a b = addRound t mode a b := by
  rw [fpAdd, Val.isSnan_of_not_isNan ha, Val.isSnan_of_not_isNan hb, Bool.or_self, Sts.when_false, Sts.or_none]

/-- FADD of the model is a + b of R103. -/
theorem fpAdd_eq_ieeeAdd (a b : Val) : fpAdd t mode a b = ieeeAdd t mode a b := by
  cases a with
  | nan s => cases b <;> simp [fpAdd, addRound, ieeeAdd, ieee]
  | inf s =>
    cases b with
    | nan u => simp [fpAdd, addRound, ieeeAdd, ieee]
    | inf u =>
      rw [fpAdd_of_not_isNan _ _ rfl rfl]
      cases s <;> cases u <;> simp [addRound, ieeeAdd, ieee]
    | fin u n f =>
      rw [fpAdd_of_not_isNan _ _ rfl rfl]
      simp [addRound, ieeeAdd, ieee]
  | fin s m e =>
    cases b with
    | nan u => simp [fpAdd, addRound, ieeeAdd, ieee]
    | inf u =>
      rw [fpAdd_of_not_isNan _ _ rfl rfl]
      simp [addRound, ieeeAdd, ieee]
    | fin u n f =>
      rw [fpAdd_of_not_isNan _ _ rfl rfl, addRound_fin]
      simp [ieeeAdd, ieee]

end

/-! ## Products -/

/-- A product that is no NaN: its class, its sign and its value. -/
structure IsProduct (a b p : Val) : Prop where
  notNan : p.isNan = false
  isInf : p.isInf = (a.isInf || b.isInf)
  isZero : p.isZero = (a.isZero || b.isZero)
  neg : p.neg = (a.neg != b.neg)
  rat : p.rat = a.rat * b.rat

theorem isProduct_mulVal {a b : Val} (ha : a.isNan = false) (hb : b.isNan = false) (hi : mulInvalid a b = false) :
    IsProduct a b (mulVal a b) := by
  cases a with
  | nan s => simp at ha
  | inf s =>
    cases b with
    | nan u => simp at hb
    | inf u => exact ⟨rfl, rfl, rfl, rfl, by simp [mulVal]⟩
    | fin u n f =>
      have hn : n ≠ 0 := by simpa [mulInvalid] using hi
      rw [mulVal, if_neg hn]
      exact ⟨rfl, rfl, by simp [hn], rfl, by simp⟩
  | fin s m e =>
    cases b with
    | nan u => simp at hb
    | inf u =>
      have hm : m ≠ 0 := by simpa [mulInvalid] using hi
      rw [mulVal, if_neg hm]
      exact ⟨rfl, rfl, by simp [hm], rfl, by simp⟩
    | fin u n f => exact ⟨rfl, rfl, by rw [Bool.eq_iff_iff]; simp [mulVal], rfl, rat_fin_mul ..⟩

/-- A product of a NaN, or of an infinity and a zero, is a NaN. -/
theorem exists_mulVal_eq_nan {a b : Val} (h : a.isNan = true ∨ b.isNan = true ∨ mulInvalid a b = true) :
    ∃ s, mulVal a b = .nan s := by
  cases a with
  | nan s => cases b <;> exact ⟨_, rfl⟩
  | inf s =>
    cases b with
    | nan u => exact ⟨_, rfl⟩
    | inf u => simp [mulInvalid] at h
    | fin u n f =>
      have hn : n = 0 := by simpa [mulInvalid] using h
      exact ⟨_, if_pos hn⟩
  | fin s m e =>
    cases b with
    | nan u => exact ⟨_, rfl⟩
    | inf u =>
      have hm : m = 0 := by simpa [mulInvalid] using h
      exact ⟨_, if_pos hm⟩
    | fin u n f => simp [mulInvalid] at h

/-- An invalid operand decides (R103). -/
theorem ieee_of_nan {t : DType} {mode : Mode} {srcs : List Val} {infZero infInf zs : Bool} {is : Option Bool} {x : ℚ}
    (h : srcs.any Val.isNan = true ∨ infZero = true) :
    ieee t mode srcs infZero infInf is x zs = { code := dtNan t, sts := Sts.when (srcs.any Val.isSnan || infZero) Sts.invalid } := by
  unfold ieee
  split
  · rfl
  · next hn =>
    obtain rfl : infZero = true := h.resolve_left hn
    simp

section
variable {t : DType} (mode : Mode) (a b c : Val)

/-- FMUL of the model is a × b of R103. -/
theorem fpMul_eq_ieeeMul (ht : dtKind t = .float) : fpMul t mode a b = ieeeMul t mode a b := by
  by_cases h : a.isNan = true ∨ b.isNan = true ∨ mulInvalid a b = true
  · obtain ⟨s, hs⟩ := exists_mulVal_eq_nan h
    have hn : [a, b].any Val.isNan = true ∨ ((a.isInf && b.isZero) || (a.isZero && b.isInf)) = true := by
      simpa [mulInvalid, or_assoc] using h
    rw [ieeeMul, ieee_of_nan hn, fpMul, hs]
    simp [mulInvalid]
  · simp only [not_or, Bool.not_eq_true] at h
    obtain ⟨ha, hb, hi⟩ := h
    obtain ⟨h1, h2, h3, h4, h5⟩ := isProduct_mulVal ha hb hi
    have hi' : ((a.isInf && b.isZero) || (a.isZero && b.isInf)) = false := hi
    simp only [ieeeMul, ieee, List.any_cons, List.any_nil, ha, hb, hi', ← h2, ← h4, ← h5, Bool.or_false]
    rw [fpMul]
    generalize mulVal a b = p at *
    cases p with
    | nan s => simp at h1
    | inf s => simp
    | fin s m e =>
      by_cases hm : m = 0
      · subst hm; simp [roundDy, zeroCode_eq, ht, Val.rat_fin_eq_zero_iff]
      · simp [hm, Val.rat_fin_eq_zero_iff, roundDy_eq_roundRat]

/-- FFMA of the model is a × b + c of R103. -/
theorem fpFma_eq_ieeeFma : fpFma t mode a b c = ieeeFma t mode a b c := by
  by_cases h : a.isNan = true ∨ b.isNan = true ∨ mulInvalid a b = true
  · obtain ⟨s, hs⟩ := exists_mulVal_eq_nan h
    have hn : [a, b, c].any Val.isNan = true ∨ ((a.isInf && b.isZero) || (a.isZero && b.isInf)) = true := by
      rcases h with h | h | h
      · simp [h]
      · simp [h]
      · exact .inr h
    rw [ieeeFma, ieee_of_nan hn, fpFma, hs]
    simp [mulInvalid, addRound, Bool.or_assoc]
  · simp only [not_or, Bool.not_eq_true] at h
    obtain ⟨ha, hb, hi⟩ := h
    obtain ⟨h1, h2, h3, h4, h5⟩ := isProduct_mulVal ha hb hi
    have hi' : ((a.isInf && b.isZero) || (a.isZero && b.isInf)) = false := hi
    have hf : fpFma t mode a b c = fpAdd t mode (mulVal a b) c := by
      rw [fpFma, fpAdd, Val.isSnan_of_not_isNan ha, Val.isSnan_of_not_isNan hb, Val.isSnan_of_not_isNan h1, hi]
      simp
    rw [hf, fpAdd_eq_ieeeAdd]
    simp only [ieeeFma, ieeeAdd, ieee, List.any_cons, ha, hb, h1, hi', h2, h3, h4, h5, Val.isSnan_of_not_isNan ha,
      Val.isSnan_of_not_isNan hb, Val.isSnan_of_not_isNan h1, Bool.false_or]

end

theorem dtKind_fdt (t : FloatTy) : dtKind (fdt t) = .float := by cases t <;> rfl

/-- A floating entry whose result is `F`. -/
theorem floatDoes_of {i : Instr} {g : Guards} {u : Bool} {d : RegNum} {n : Nat} {f F : View → Rounded}
    (h : ∀ s, exec i s = runAlu i g u d n s f) (hf : ∀ v, f v = F v) : FloatDoes i g u d n F := by
  obtain rfl : f = F := funext hf
  exact aluDoes_of h

/-- Settles O4: each result is ieee of the exact rational. -/
theorem floatArithmetic : Obligations.FloatArithmetic := by
  unfold Obligations.FloatArithmetic
  refine ⟨fun g o => ?_, fun g o => ?_⟩
  · refine ⟨?_, ?_, ?_⟩
    · exact floatDoes_of (fun s => show execFadd g o s = _ from rfl) fun v => fpAdd_eq_ieeeAdd ..
    · exact floatDoes_of (fun s => show execFsub g o s = _ from rfl) fun v => fpAdd_eq_ieeeAdd ..
    · exact floatDoes_of (fun s => show execFmul g o s = _ from rfl) fun v => fpMul_eq_ieeeMul _ _ _ (dtKind_fdt _)
  · exact floatDoes_of (fun s => show execFfma g o s = _ from rfl) fun v => fpFma_eq_ieeeFma ..

end Sys2Proof.Machine

/-!
FMIN, FMAX, FCLASS and FCMP (O5). The model compares by the sign of a difference, and classifies by the fraction; both say what the
order and the size of the rationals say.
-/
namespace Sys2Proof.Machine

open Sys2Proof

/-! ## The codes of operands -/

theorem View.toNat_code (v : View) (t : FloatTy) (r : RegNum) : (v.code t r).toNat = v.fcode t r := BitVec.toNat_ofNat ..
theorem View.toNat_codeB (v : View) (t : FloatTy) (b : Src) : (v.codeB t b).toNat = v.fcodeB t b := BitVec.toNat_ofNat ..

theorem decodeCode_mod (t : FloatTy) (c : Nat) : decodeCode (fdt t) (c % 2 ^ dtBits (fdt t)) = decodeCode (fdt t) c := by
  rw [decodeCode, decodeCode, dtKind_fdt, Nat.mod_mod]

/-! ## Comparison (R104, R105) -/

theorem rat_fin_not (n : Bool) (m : Nat) (e : Int) : (Val.fin (!n) m e).rat = -(Val.fin n m e).rat := by
  cases n <;> simp [Val.rat]

/-- The sign of the model's difference of two dyadics. -/
theorem addFin_not_lt_zero_iff {s : Bool} {m : Nat} {e : Int} {u : Bool} {n : Nat} {f : Int} :
    (addFin s m e (!u) n f).1 < 0 ↔ (Val.fin s m e).rat < (Val.fin u n f).rat := by
  have h := addFin_eq s m e (!u) n f
  rw [rat_fin_not, ← sub_eq_add_neg] at h
  rw [← sub_neg (b := (Val.fin u n f).rat), ← h, ← not_le, ← not_le, mul_nonneg_iff_of_pos_right (by positivity),
    Int.cast_nonneg_iff]

theorem zero_lt_addFin_not_iff {s : Bool} {m : Nat} {e : Int} {u : Bool} {n : Nat} {f : Int} :
    0 < (addFin s m e (!u) n f).1 ↔ (Val.fin u n f).rat < (Val.fin s m e).rat := by
  have h := addFin_eq s m e (!u) n f
  rw [rat_fin_not, ← sub_eq_add_neg] at h
  rw [← sub_pos (b := (Val.fin u n f).rat), ← h, mul_pos_iff_of_pos_right (by positivity), Int.cast_pos]

section
variable {a b : Val} (ha : a.isNan = false) (hb : b.isNan = false)
include ha hb

theorem cmpVal_lt_zero_iff : cmpVal a b < 0 ↔ a.lt b = true := by
  cases a with
  | nan s => simp at ha
  | inf s =>
    cases b with
    | nan u => simp at hb
    | inf u => cases s <;> cases u <;> decide
    | fin u n f => cases s <;> simp [cmpVal, Val.lt]
  | fin s m e =>
    cases b with
    | nan u => simp at hb
    | inf u => cases u <;> simp [cmpVal, Val.lt]
    | fin u n f => simp [cmpVal, Val.lt, addFin_not_lt_zero_iff]

theorem zero_lt_cmpVal_iff : 0 < cmpVal a b ↔ b.lt a = true := by
  cases a with
  | nan s => simp at ha
  | inf s =>
    cases b with
    | nan u => simp at hb
    | inf u => cases s <;> cases u <;> decide
    | fin u n f => cases s <;> simp [cmpVal, Val.lt]
  | fin s m e =>
    cases b with
    | nan u => simp at hb
    | inf u => cases u <;> simp [cmpVal, Val.lt]
    | fin u n f => simp [cmpVal, Val.lt, zero_lt_addFin_not_iff]

/-- Only zeros are equal and of different signs. -/
theorem cmpVal_eq_zero_of_signs (hn : a.neg = true) (hp : b.neg = false) :
    cmpVal a b = 0 ↔ a.isZero = true ∧ b.isZero = true := by
  cases a with
  | nan s => simp at ha
  | inf s =>
    obtain rfl : s = true := hn
    cases b with
    | nan u => simp at hb
    | inf u => obtain rfl : u = false := hp; decide
    | fin u n f => simp [cmpVal]
  | fin s m e =>
    obtain rfl : s = true := hn
    cases b with
    | nan u => simp at hb
    | inf u => obtain rfl : u = false := hp; simp [cmpVal]
    | fin u n f =>
      obtain rfl : u = false := hp
      have h : -((m : ℚ) * 2 ^ e) + -((n : ℚ) * 2 ^ f) = 0 ↔ m = 0 ∧ n = 0 := by
        rw [← neg_add, neg_eq_zero, add_eq_zero_iff_of_nonneg (by positivity) (by positivity)]
        simp [zpow_ne_zero e (two_ne_zero (α := ℚ)), zpow_ne_zero f (two_ne_zero (α := ℚ))]
      simpa [cmpVal, addFin_eq_zero_iff, Val.rat] using h

theorem minBelow_eq_ltZ : minBelow a b = a.ltZ b := by
  have h : (cmpVal a b == 0 && a.neg && !b.neg) = (a.isZero && b.isZero && a.neg && !b.neg) := by
    by_cases hn : a.neg = true
    · by_cases hp : b.neg = true
      · simp [hp]
      · rw [Bool.eq_iff_iff]
        simp [hn, hp, cmpVal_eq_zero_of_signs ha hb hn (Bool.eq_false_iff.2 hp)]
    · simp [hn]
  rw [minBelow, Val.ltZ, h, Bool.eq_iff_iff]
  simp [cmpVal_lt_zero_iff ha hb]

end

/-- FMIN and FMAX of the model are those of R104. -/
theorem minMax_eq_pickMinMax (t : FloatTy) (mx : Bool) (ca cb : Nat) : minMax t mx ca cb = pickMinMax (fdt t) mx ca cb := by
  rw [minMax, pickMinMax]
  by_cases ha : (decodeCode (fdt t) ca).isNan = true
  · by_cases hb : (decodeCode (fdt t) cb).isNan = true <;> simp [ha, hb]
  · by_cases hb : (decodeCode (fdt t) cb).isNan = true
    · simp [ha, hb]
    · rw [Bool.not_eq_true] at ha hb
      simp only [minBelow_eq_ltZ ha hb]
      cases mx <;> cases (decodeCode (fdt t) ca).ltZ (decodeCode (fdt t) cb) <;>
        simp [ha, hb, Val.isSnan_of_not_isNan, Rounded.exact]

/-- FCMP of the model is that of R105. -/
theorem fcmpVal_eq (cc : FCond) (a b : Val) : fcmpVal cc a b =
    (if a.isNan || b.isNan then fcondUnordered cc else fcondOrdered cc a b,
      Sts.when (a.isSnan || b.isSnan || ((a.isNan || b.isNan) && fcondSignals cc)) Sts.invalid) := by
  rw [fcmpVal]
  by_cases h : (a.isNan || b.isNan) = true
  · rw [if_pos h, if_pos h]
    cases cc <;> simp [h, fcondUnordered, fcondSignals]
  · rw [if_neg h, if_neg h]
    simp only [Bool.or_eq_true, not_or, Bool.not_eq_true] at h
    obtain ⟨ha, hb⟩ := h
    have hlt := cmpVal_lt_zero_iff ha hb
    have hgt := zero_lt_cmpVal_iff ha hb
    have heq : cmpVal a b = 0 ↔ a.lt b = false ∧ b.lt a = false := by
      rw [← Bool.not_eq_true, ← Bool.not_eq_true, ← hlt, ← hgt]
      omega
    refine Prod.ext ?_ (by simp [ha, hb, Val.isSnan_of_not_isNan])
    cases cc <;> rw [Bool.eq_iff_iff] <;> simp [fcondOrdered, hlt, hgt, heq, ← not_lt, imp_iff_not_or]

/-! ## Finite codes (R34) -/

/-- Code `c` is that of the finite value `(−1)^n × m × 2^e`: `m` units of binade `k` above the lowest. -/
structure IsFinCode (t : DType) (c : Nat) (n : Bool) (m : Nat) (e : Int) (k : Nat) : Prop where
  code : c % 2 ^ dtBits t = dtSign t n + (k * 2 ^ dtMant t + m)
  le_max : k * 2 ^ dtMant t + m ≤ dtMaxCode t
  binade : k = 0 ∨ 2 ^ dtMant t ≤ m
  units : m < 2 ^ (dtMant t + 1)
  exp : e = (k : Int) + (1 - dtBias t) - dtMant t

theorem dtInf_fdt (t : FloatTy) : dtInf (fdt t) = true := by cases t <;> rfl

theorem dtMaxCode_fdt (t : FloatTy) : dtMaxCode (fdt t) = dtInfCode (fdt t) - 1 := by rw [dtMaxCode, dtInf_fdt, if_pos rfl]

theorem fdt_ne_e4m3 (t : FloatTy) : fdt t ≠ .e4m3 := by cases t <;> decide

theorem exists_isFinCode {t : FloatTy} {c : Nat} {n : Bool} {m : Nat} {e : Int} (h : decodeCode (fdt t) c = .fin n m e) :
    ∃ k, IsFinCode (fdt t) c n m e k := by
  have hb := two_pow_dtBits (dtKind_fdt t)
  have hM : 0 < 2 ^ dtMant (fdt t) := by positivity
  have hmax := dtMaxCode_fdt t
  rw [decodeCode, dtKind_fdt] at h
  simp only [decodeFloat, dtInf_fdt, fdt_ne_e4m3, false_and, if_false, Bool.true_and, decide_eq_true_eq] at h
  obtain ⟨x, hx⟩ : ∃ x, x = c % 2 ^ dtBits (fdt t) := ⟨_, rfl⟩
  have hlt : x < 2 ^ (dtBits (fdt t) - 1) * 2 := by rw [hx, ← hb]; exact Nat.mod_lt _ (by positivity)
  rw [← hx] at h
  obtain ⟨mag, hmag⟩ : ∃ mag, mag = x % 2 ^ (dtBits (fdt t) - 1) := ⟨_, rfl⟩
  have hdiv := Nat.div_add_mod x (2 ^ (dtBits (fdt t) - 1))
  have htop : x / 2 ^ (dtBits (fdt t) - 1) < 2 := Nat.div_lt_of_lt_mul hlt
  have hsign : x = dtSign (fdt t) (x / 2 ^ (dtBits (fdt t) - 1) % 2 == 1) + mag := by
    rw [hmag, dtSign]
    rcases Nat.le_one_iff_eq_zero_or_eq_one.1 (Nat.lt_succ_iff.1 htop) with h | h <;> rw [h] at hdiv ⊢ <;>
      simpa using hdiv.symm
  have hf := Nat.mod_lt mag hM
  have hmf := Nat.div_add_mod' mag (2 ^ dtMant (fdt t))
  rw [← hmag] at h
  split at h
  · split at h <;> cases h
  · next hinf =>
    split at h
    · next h0 =>
      obtain ⟨rfl, rfl, rfl⟩ := Val.fin.inj h
      rw [h0, Nat.zero_mul, Nat.zero_add] at hmf
      exact ⟨0, by rw [Nat.zero_mul, Nat.zero_add, hmf, ← hx]; exact hsign, by omega, .inl rfl, by rw [pow_succ]; omega, by simp⟩
    · next h0 =>
      obtain ⟨rfl, rfl, rfl⟩ := Val.fin.inj h
      obtain ⟨k, hk⟩ := Nat.exists_eq_succ_of_ne_zero h0
      have hkm : k * 2 ^ dtMant (fdt t) + (2 ^ dtMant (fdt t) + mag % 2 ^ dtMant (fdt t)) = mag := by
        rw [hk, Nat.succ_mul] at hmf; omega
      refine ⟨k, by rw [hkm, ← hx]; exact hsign, by rw [hkm]; omega, .inr (by omega), by rw [pow_succ]; omega, ?_⟩
      rw [hk]; push_cast; ring

/-- FCLASS of the model is that of R106: a finite value is normal from 2^emin on. -/
theorem classBit_eq (t : FloatTy) (c : Nat) : classBit (fdt t) c = classOf (fdt t) (decodeCode (fdt t) c) := by
  rw [classBit]
  cases h : decodeCode (fdt t) c with
  | nan s => cases s <;> rfl
  | inf n => cases n <;> rfl
  | fin n m e =>
    obtain ⟨k, hk⟩ := exists_isFinCode h
    have hnormal : 2 ^ dtMant (fdt t) ≤ m ↔ (2 : ℚ) ^ (1 - (dtBias (fdt t) : Int)) ≤ |(Val.fin n m e).rat| := by
      have habs : |(Val.fin n m e).rat| = m * 2 ^ e := by rw [Val.rat_fin, abs_signedRat _ (by positivity)]
      have he : (2 : ℚ) ^ (1 - (dtBias (fdt t) : Int)) = (2 ^ dtMant (fdt t) : Nat) * 2 ^ (1 - (dtBias (fdt t) : Int) - dtMant (fdt t)) := by
        rw [zpow_sub₀ two_ne_zero _ (dtMant (fdt t) : Int), zpow_natCast]
        push_cast
        field_simp
      rw [habs, he]
      constructor
      · intro h
        rw [hk.exp]
        gcongr
        · exact one_le_two
        · omega
      · intro h
        by_contra hm
        have h0 := hk.binade.resolve_right hm
        rw [hk.exp, h0, Nat.cast_zero, zero_add, mul_le_mul_iff_left₀ (by positivity), Nat.cast_le] at h
        exact hm h
    simp only [classOf, ← hnormal]
    by_cases hm : m = 0
    · simp [hm]
    · by_cases hN : 2 ^ dtMant (fdt t) ≤ m <;> cases n <;> simp [hm, hN]

/-- Settles O5: the order of the model is that of the rationals, and its classes are those of their sizes. -/
theorem floatSelect : Obligations.FloatSelect := by
  unfold Obligations.FloatSelect
  refine ⟨fun g o => ⟨?_, ?_⟩, fun g o => ?_, fun g o => ?_⟩
  · refine floatDoes_of (fun s => show execFmin g o s = _ from rfl) fun v => ?_
    rw [View.toNat_code, View.toNat_codeB, minMax_eq_pickMinMax]
  · refine floatDoes_of (fun s => show execFmax g o s = _ from rfl) fun v => ?_
    rw [View.toNat_code, View.toNat_codeB, minMax_eq_pickMinMax]
  · exact floatDoes_of (fun s => show execFclass g o s = _ from rfl) fun v => by rw [classBit_eq, View.fcode, decodeCode_mod]; rfl
  · refine lanesDo_of_runLanes (fun s => ?_) fun c x => ?_
    · show execFcmp g o s = _
      simp only [execFcmp, runCmp, runLanes, fcmpVal_eq]
    · exact Thread.setPred_tid_pc ..

end Sys2Proof.Machine

/-!
Roundings that keep their argument, that overflow, and that fall below half of the least value (R55). FRINT and the exact results of
the special functions use the first; the other two say why an exponent far beyond a format may be cut.
-/
namespace Sys2Proof.Machine

open Sys2Proof

/-! ## The four types of the arithmetic instructions -/

theorem dtInfCode_fdt (t : FloatTy) :
    dtInfCode (fdt t) = (2 * dtBias (fdt t) + 1) * 2 ^ dtMant (fdt t) := by cases t <;> decide

theorem dtMant_lt_dtBias_fdt (t : FloatTy) : dtMant (fdt t) + 1 ≤ dtBias (fdt t) := by cases t <;> decide

theorem dtMant_fdt_le (t : FloatTy) : dtMant (fdt t) ≤ 52 := by cases t <;> decide

theorem dtBias_fdt_le (t : FloatTy) : dtBias (fdt t) ≤ 1023 := by cases t <;> decide

theorem le_dtMaxCode_fdt {t : FloatTy} {k m : Nat} (hk : k < 2 * dtBias (fdt t)) (hm : m < 2 ^ (dtMant (fdt t) + 1)) :
    k * 2 ^ dtMant (fdt t) + m ≤ dtMaxCode (fdt t) := by
  have h : (k + 1) * 2 ^ dtMant (fdt t) ≤ 2 * dtBias (fdt t) * 2 ^ dtMant (fdt t) := Nat.mul_le_mul_right _ hk
  rw [pow_succ] at hm
  rw [dtMaxCode_fdt, dtInfCode_fdt, Nat.add_mul, Nat.one_mul]
  rw [Nat.add_mul, Nat.one_mul] at h
  omega

/-! ## Values of the format -/

/-- A value of the format that is not 0: `m` units of binade `k` above the lowest. -/
structure IsRepr (t : DType) (x : ℚ) (k m : Nat) : Prop where
  ne_zero : x ≠ 0
  abs : |x| = m * 2 ^ ((k : Int) + (1 - dtBias t) - dtMant t)
  le_max : k * 2 ^ dtMant t + m ≤ dtMaxCode t
  binade : k = 0 ∨ 2 ^ dtMant t ≤ m
  units : m < 2 ^ (dtMant t + 1)

section
variable {t : DType} {x : ℚ} {k m : Nat} (h : IsRepr t x k m)
include h

theorem IsRepr.floatExp_eq : floatExp t x = (k : Int) + (1 - dtBias t) := by
  have hlog : ∀ l : Int, Int.log 2 |x| < l ↔ |x| < 2 ^ l := fun l => (Int.lt_zpow_iff_log_lt one_lt_two (abs_pos.2 h.ne_zero)).symm
  have hlow : ∀ l : Int, l ≤ Int.log 2 |x| ↔ (2 : ℚ) ^ l ≤ |x| := fun l => (Int.zpow_le_iff_le_log one_lt_two (abs_pos.2 h.ne_zero)).symm
  have h1 : Int.log 2 |x| < (k : Int) + (1 - dtBias t) + 1 := by
    rw [hlog, h.abs]
    calc (m : ℚ) * 2 ^ ((k : Int) + (1 - dtBias t) - dtMant t)
        < (2 ^ (dtMant t + 1) : Nat) * 2 ^ ((k : Int) + (1 - dtBias t) - dtMant t) := by
          gcongr; exact_mod_cast h.units
      _ = 2 ^ ((k : Int) + (1 - dtBias t) + 1) := by
          push_cast
          rw [← zpow_natCast, ← zpow_add₀ two_ne_zero]
          congr 1
          push_cast
          ring
  rcases h.binade with h0 | hm
  · rw [floatExp]; omega
  · have h2 : (k : Int) + (1 - dtBias t) ≤ Int.log 2 |x| := by
      rw [hlow, h.abs]
      calc (2 : ℚ) ^ ((k : Int) + (1 - dtBias t)) = (2 ^ dtMant t : Nat) * 2 ^ ((k : Int) + (1 - dtBias t) - dtMant t) := by
            push_cast
            rw [← zpow_natCast, ← zpow_add₀ two_ne_zero]
            congr 1
            ring
        _ ≤ m * 2 ^ ((k : Int) + (1 - dtBias t) - dtMant t) := by gcongr
    rw [floatExp]
    omega

/-- The rounding of a value of the format is its code. -/
theorem roundRat_of_isRepr (ht : dtKind t = .float) (mode : Mode) :
    roundRat t mode x = Rounded.exact (dtSign t (decide (x < 0)) + (k * 2 ^ dtMant t + m)) := by
  have hu : x / floatUlp t x = (signedNat (decide (x < 0)) m : Int) := by
    rw [div_eq_iff (floatUlp_pos t x).ne', cast_signedNat, signedRat, mul_assoc, floatUlp, h.floatExp_eq, ← h.abs, ← signedRat,
      signedRat_decide_abs]
  have hv : floatValue t mode x = x := by
    rw [floatValue, hu, rintRat_intCast, ← hu, div_mul_cancel₀ _ (floatUlp_pos t x).ne']
  have hm : floatMag t mode x = k * 2 ^ dtMant t + m := by
    rw [floatMag, hu, rintRat_intCast, natAbs_signedNat, h.floatExp_eq, add_sub_cancel_right, Int.toNat_natCast]
  rw [roundRat_float mode ht h.ne_zero, floatRounded, hm, if_neg (not_lt.2 h.le_max), floatSts, hv]
  simp [Rounded.exact, Sts.none]

end

theorem IsFinCode.isRepr {t : DType} {c : Nat} {n : Bool} {m : Nat} {e : Int} {k : Nat} (h : IsFinCode t c n m e k) (hm : m ≠ 0) :
    IsRepr t (Val.fin n m e).rat k m where
  ne_zero := mt Val.rat_fin_eq_zero_iff.1 hm
  abs := by rw [Val.rat_fin, abs_signedRat _ (by positivity), h.exp]
  le_max := h.le_max
  binade := h.binade
  units := h.units

theorem rat_fin_lt_zero_iff {n : Bool} {m : Nat} {e : Int} (hm : m ≠ 0) : (Val.fin n m e).rat < 0 ↔ n = true := by
  have := Nat.pos_of_ne_zero hm
  rw [Val.rat_fin, signedRat_neg_iff _ (by positivity)]

/-- Rounding a decoded value gives its code back. -/
theorem roundRat_decodeCode {t : FloatTy} {c : Nat} {n : Bool} {m : Nat} {e : Int} (h : decodeCode (fdt t) c = .fin n m e)
    (hm : m ≠ 0) (mode : Mode) : roundRat (fdt t) mode (Val.fin n m e).rat = Rounded.exact (c % 2 ^ dtBits (fdt t)) := by
  obtain ⟨k, hk⟩ := exists_isFinCode h
  have hn : decide ((Val.fin n m e).rat < 0) = n := by simp [rat_fin_lt_zero_iff hm]
  rw [roundRat_of_isRepr (hk.isRepr hm) (dtKind_fdt t), hk.code, hn]

/-- Each integer up to 2^M is a value of the format. -/
theorem exists_isRepr_intCast (t : FloatTy) {z : Int} (h0 : z ≠ 0) (hz : z.natAbs ≤ 2 ^ dtMant (fdt t)) :
    ∃ k m, IsRepr (fdt t) (z : ℚ) k m := by
  have hn := Int.natAbs_ne_zero.2 h0
  have hMB := dtMant_lt_dtBias_fdt t
  have hl : Nat.log2 z.natAbs ≤ dtMant (fdt t) := by
    rw [Nat.log2_eq_log_two]
    exact (Nat.log_mono_right hz).trans_eq (Nat.log_pow one_lt_two _)
  obtain ⟨l, hl'⟩ : ∃ l, l = Nat.log2 z.natAbs := ⟨_, rfl⟩
  have h1 : 2 ^ l ≤ z.natAbs := by rw [hl']; exact Nat.log2_self_le hn
  have h2 : z.natAbs < 2 ^ (l + 1) := by rw [hl']; exact Nat.lt_log2_self
  rw [← hl'] at hl
  obtain ⟨r, hr⟩ := Nat.exists_eq_add_of_le hl
  have hunits : z.natAbs * 2 ^ r < 2 ^ (dtMant (fdt t) + 1) := by
    rw [hr, add_right_comm, pow_add]
    gcongr
  refine ⟨l + (dtBias (fdt t) - 1), z.natAbs * 2 ^ r, ⟨by exact_mod_cast h0, ?_, ?_, .inr ?_, hunits⟩⟩
  · have he : ((l + (dtBias (fdt t) - 1) : Nat) : Int) + (1 - dtBias (fdt t)) - dtMant (fdt t) = -(r : Int) := by omega
    rw [he, zpow_neg, zpow_natCast, Nat.cast_mul, Nat.cast_pow, Nat.cast_ofNat, mul_inv_cancel_right₀ (by positivity),
      Nat.cast_natAbs, Int.cast_abs]
  · exact le_dtMaxCode_fdt (by omega) hunits
  · rw [hr, pow_add]
    gcongr

/-! ## Values beyond the format -/

/-- From 2^(bias + 1) on a value overflows; its rounding depends on its sign alone. -/
theorem lt_floatMag_of_huge {t : FloatTy} (mode : Mode) {x : ℚ} (h : (2 : ℚ) ^ ((dtBias (fdt t) : Int) + 1) ≤ |x|) :
    dtMaxCode (fdt t) < floatMag (fdt t) mode x := by
  have hx : x ≠ 0 := abs_pos.1 (lt_of_lt_of_le (by positivity) h)
  have hlog : (dtBias (fdt t) : Int) + 1 ≤ Int.log 2 |x| := (Int.zpow_le_iff_le_log one_lt_two (abs_pos.2 hx)).1 (by exact_mod_cast h)
  have he : (dtBias (fdt t) : Int) + 1 ≤ floatExp (fdt t) x := hlog.trans (le_max_left _ _)
  have hMB := dtMant_lt_dtBias_fdt t
  have hq := le_natAbs_units (t := fdt t) mode hx (by omega)
  have hk : 2 * dtBias (fdt t) * 2 ^ dtMant (fdt t) ≤ (floatExp (fdt t) x - (1 - dtBias (fdt t))).toNat * 2 ^ dtMant (fdt t) :=
    Nat.mul_le_mul_right _ (by omega)
  have hM : 0 < 2 ^ dtMant (fdt t) := by positivity
  rw [dtMaxCode_fdt, dtInfCode_fdt, Nat.add_mul, Nat.one_mul, floatMag]
  omega

theorem roundRat_eq_of_huge {t : FloatTy} (mode : Mode) {x y : ℚ} (hx : (2 : ℚ) ^ ((dtBias (fdt t) : Int) + 1) ≤ |x|)
    (hy : (2 : ℚ) ^ ((dtBias (fdt t) : Int) + 1) ≤ |y|) (hs : x < 0 ↔ y < 0) : roundRat (fdt t) mode x = roundRat (fdt t) mode y := by
  have ne (z : ℚ) (hz : (2 : ℚ) ^ ((dtBias (fdt t) : Int) + 1) ≤ |z|) : z ≠ 0 := abs_pos.1 (lt_of_lt_of_le (by positivity) hz)
  rw [roundRat_of_overflow (dtKind_fdt t) mode (ne x hx) (lt_floatMag_of_huge mode hx),
    roundRat_of_overflow (dtKind_fdt t) mode (ne y hy) (lt_floatMag_of_huge mode hy)]
  simp only [hs]

/-! ## Values below half of the least one -/

theorem rintMag_of_lt_half (mode : Mode) (neg : Bool) {n d : Nat} (h0 : 0 < n) (h : 2 * n < d) :
    rintMag mode neg n d = rintMag mode neg 1 3 := by
  have hn : n < d := by omega
  unfold rintMag
  rw [Nat.div_eq_of_lt hn, Nat.mod_eq_of_lt hn, if_neg h0.ne']
  cases mode <;> simp [h]

/-- rint of a value between 0 and 1/2 depends on its sign alone. -/
theorem rintRat_of_lt_half (mode : Mode) {x : ℚ} (h0 : x ≠ 0) (h : |x| < 1 / 2) :
    rintRat mode x = signedNat (decide (x < 0)) (rintMag mode (decide (x < 0)) 1 3) := by
  have hx : |x| = (x.num.natAbs : ℚ) / x.den := by
    rw [← signedRat_num_den x, abs_signedRat _ (by positivity), signedRat_num_den]
  have hd : (0 : ℚ) < x.den := by exact_mod_cast x.den_pos
  have h2 : 2 * x.num.natAbs < x.den := by
    rw [hx, div_lt_div_iff₀ hd two_pos, one_mul, mul_comm] at h
    exact_mod_cast h
  rw [← rintMag_of_lt_half mode _ (Int.natAbs_pos.2 (Rat.num_ne_zero.2 h0)) h2, rintMag_eq mode _ _ x.den_pos, signedRat_num_den]

theorem rintRat_ne_of_lt_half (mode : Mode) {x : ℚ} (h0 : x ≠ 0) (h : |x| < 1 / 2) : (rintRat mode x : ℚ) ≠ x := by
  intro he
  rw [← he, ← Int.cast_abs] at h
  have hz : rintRat mode x = 0 := by
    have : (|rintRat mode x| : ℚ) < 1 := by push_cast at h ⊢; linarith
    exact Int.abs_lt_one_iff.1 (by exact_mod_cast this)
  exact h0 (by rw [← he, hz, Int.cast_zero])

section
variable {t : FloatTy} (mode : Mode) {x : ℚ} (h0 : x ≠ 0) (h : |x| < 2 ^ (-(dtBias (fdt t) : Int) - dtMant (fdt t)))
include h0 h

theorem floatExp_of_tiny : floatExp (fdt t) x = 1 - dtBias (fdt t) := by
  have := (Int.lt_zpow_iff_log_lt (b := 2) one_lt_two (abs_pos.2 h0)).1 (by exact_mod_cast h)
  rw [floatExp]
  omega

theorem units_of_tiny : |x / floatUlp (fdt t) x| < 1 / 2 := by
  have hu := floatUlp_pos (fdt t) x
  rw [abs_div, abs_of_pos hu, div_lt_iff₀ hu, floatUlp, floatExp_of_tiny h0 h]
  refine h.trans_eq ?_
  rw [one_div, ← zpow_neg_one, ← zpow_add₀ two_ne_zero]
  congr 1
  ring

theorem roundRat_of_tiny : roundRat (fdt t) mode x =
    { code := dtSign (fdt t) (decide (x < 0)) + rintMag mode (decide (x < 0)) 1 3, sts := { fp := 16 ||| 8, sat := false } } := by
  have hu := floatUlp_pos (fdt t) x
  have hn : x / floatUlp (fdt t) x ≠ 0 := div_ne_zero h0 hu.ne'
  have hs : x / floatUlp (fdt t) x < 0 ↔ x < 0 := by simp [div_neg_iff, hu, hu.le.not_gt]
  have htiny : |x| < 2 ^ (1 - (dtBias (fdt t) : Int)) :=
    h.trans_le (zpow_le_zpow_right₀ one_le_two (by omega))
  have hmax := floatMag_le_of_tiny (dtKind_fdt t) mode h0 htiny
  have hne := (floatValue_ne_iff (fdt t) mode x).2 (rintRat_ne_of_lt_half mode hn (units_of_tiny h0 h))
  have hmag : floatMag (fdt t) mode x = rintMag mode (decide (x < 0)) 1 3 := by
    rw [floatMag, floatExp_of_tiny h0 h, rintRat_of_lt_half mode hn (units_of_tiny h0 h), natAbs_signedNat]
    simp [hs]
  rw [roundRat_float mode (dtKind_fdt t) h0, floatRounded, if_neg (not_lt.2 hmax), hmag, floatSts, if_pos hne, if_pos ⟨htiny, hne⟩]

end

theorem roundRat_eq_of_tiny {t : FloatTy} (mode : Mode) {x y : ℚ} (hx0 : x ≠ 0) (hy0 : y ≠ 0)
    (hx : |x| < 2 ^ (-(dtBias (fdt t) : Int) - dtMant (fdt t))) (hy : |y| < 2 ^ (-(dtBias (fdt t) : Int) - dtMant (fdt t)))
    (hs : x < 0 ↔ y < 0) : roundRat (fdt t) mode x = roundRat (fdt t) mode y := by
  rw [roundRat_of_tiny mode hx0 hx, roundRat_of_tiny mode hy0 hy]
  simp only [hs]

end Sys2Proof.Machine

/-!
FRINT, FLDEXP, FABS, FNEG and FCOPYSIGN (O6). The integer that FRINT gives is a value of the format, in whatever mode; the cut of
FLDEXP's exponent leaves a value that overflows, or one below half of the least, what it is.
-/
namespace Sys2Proof.Machine

open Sys2Proof

/-! ## The sign bit -/

section
variable {w : Nat} (hw : 0 < w) (a b : BitVec w)
include hw

theorem toNat_and_not_intMin : (a &&& ~~~BitVec.intMin w).toNat = a.toNat % 2 ^ (w - 1) := by
  refine Nat.eq_of_testBit_eq fun i => ?_
  rw [BitVec.testBit_toNat, BitVec.getLsbD_and, BitVec.getLsbD_not, BitVec.getLsbD_intMin, Nat.testBit_mod_two_pow, BitVec.testBit_toNat]
  rcases lt_trichotomy i (w - 1) with h | rfl | h
  · simp only [h, decide_true, Bool.true_and, decide_eq_true (by omega : i < w), decide_eq_false (by omega : ¬i + 1 = w),
      Bool.not_false, Bool.and_true]
  · simp [(by omega : w - 1 + 1 = w)]
  · simp [BitVec.getLsbD_of_ge a i (by omega)]

theorem toNat_xor_intMin : (a ^^^ BitVec.intMin w).toNat = a.toNat ^^^ 2 ^ (w - 1) := by
  rw [BitVec.toNat_xor, BitVec.toNat_intMin_of_pos hw]

theorem toNat_copySign :
    ((a &&& ~~~BitVec.intMin w) ||| (b &&& BitVec.intMin w)).toNat = a.toNat % 2 ^ (w - 1) + b.toNat / 2 ^ (w - 1) * 2 ^ (w - 1) := by
  have ha : a.toNat % 2 ^ (w - 1) < 2 ^ (w - 1) := Nat.mod_lt _ (by positivity)
  rw [Nat.add_comm, ← Nat.shiftLeft_eq, Nat.shiftLeft_add_eq_or_of_lt ha]
  refine Nat.eq_of_testBit_eq fun i => ?_
  rw [BitVec.testBit_toNat, getLsbD_merge, BitVec.getLsbD_intMin, Nat.testBit_or, Nat.testBit_shiftLeft, Nat.testBit_div_two_pow,
    Nat.testBit_mod_two_pow, BitVec.testBit_toNat, BitVec.testBit_toNat]
  rcases lt_trichotomy i (w - 1) with h | rfl | h
  · simp only [h, h.not_ge, decide_true, decide_false, decide_eq_false (by omega : ¬i + 1 = w), Bool.true_and, Bool.false_and,
      Bool.false_or, Bool.false_eq_true, if_false]
  · simp [(by omega : w - 1 + 1 = w)]
  · simp [h.le, h.not_gt, BitVec.getLsbD_of_ge, (by omega : w ≤ i)]

end

theorem dtBits_fdt_pos (t : FloatTy) : 0 < dtBits (fdt t) := by cases t <;> decide

/-! ## FRINT -/

theorem View.fcode_mod (v : View) (t : FloatTy) (r : RegNum) : v.fcode t r % 2 ^ dtBits (fdt t) = v.fcode t r := Nat.mod_mod ..

/-- The model's rounded magnitude is R55's rint of the value. -/
theorem signedNat_rintMag (mode : Mode) (n : Bool) (m : Nat) {e : Int} (he : ¬0 ≤ e) :
    signedNat n (rintMag mode n m (2 ^ (-e).toNat)) = rintRat mode (Val.fin n m e).rat := by
  rw [rintMag_eq mode n m (by positivity), Val.rat_fin, two_zpow_of_neg he, div_eq_mul_inv]
  push_cast
  rfl

theorem abs_rat_le_of_exp_neg {t : DType} {c : Nat} {n : Bool} {m : Nat} {e : Int} {k : Nat} (h : IsFinCode t c n m e k)
    (he : ¬0 ≤ e) : |(Val.fin n m e).rat| ≤ (2 ^ dtMant t : Nat) := by
  have hm : (m : ℚ) ≤ 2 ^ (dtMant t + 1) := by exact_mod_cast h.units.le
  have h1 : (2 : ℚ) ^ e ≤ 2 ^ (-1 : Int) := zpow_le_zpow_right₀ one_le_two (by omega)
  rw [Val.rat_fin, abs_signedRat _ (by positivity)]
  calc (m : ℚ) * 2 ^ e ≤ 2 ^ (dtMant t + 1) * 2 ^ (-1 : Int) := by gcongr
    _ = (2 ^ dtMant t : Nat) := by push_cast; rw [pow_succ, zpow_neg_one, mul_inv_cancel_right₀ two_ne_zero]

theorem frintCode_eq (t : FloatTy) (mode : Mode) {c : Nat} (hc : c % 2 ^ dtBits (fdt t) = c) :
    frintCode t mode c = unlessSpecial (fdt t) c fun a =>
      Rounded.exact (if rintRat mode a.rat = 0 then dtSign (fdt t) a.neg else (roundRat (fdt t) .rne (rintRat mode a.rat)).code) := by
  rw [frintCode, unlessSpecial]
  cases h : decodeCode (fdt t) c with
  | nan s => rfl
  | inf n => rfl
  | fin n m e =>
    obtain ⟨k, hk⟩ := exists_isFinCode h
    simp only [Val.isNan_fin, Val.isInf_fin, Val.isZero_fin, Bool.false_eq_true, Bool.false_or, beq_iff_eq, if_false, Val.neg_fin]
    by_cases hm : m = 0
    · rw [if_pos (.inl hm), if_pos hm]
    by_cases he : 0 ≤ e
    · have hz : (Val.fin n m e).rat = (signedNat n (m * 2 ^ e.toNat) : Int) := by
        rw [Val.rat_fin, cast_signedNat, two_zpow_of_nonneg he]
        push_cast
        rfl
      have hq : signedNat n (m * 2 ^ e.toNat) ≠ 0 := by
        intro h0
        exact mt Val.rat_fin_eq_zero_iff.1 hm (by rw [hz, h0, Int.cast_zero])
      rw [if_pos (.inr he), if_neg hm, hz, rintRat_intCast, if_neg hq, ← hz, roundRat_decodeCode h hm, hc]
      rfl
    · have hle : (rintRat mode (Val.fin n m e).rat).natAbs ≤ 2 ^ dtMant (fdt t) :=
        natAbs_rintRat_le mode (abs_rat_le_of_exp_neg hk he)
      have hq := signedNat_rintMag mode n m he
      rw [if_neg (by tauto), if_neg hm]
      generalize rintMag mode n m (2 ^ (-e).toNat) = q at hq ⊢
      rw [← hq] at hle ⊢
      by_cases h0 : q = 0
      · subst h0
        simp [roundDy, zeroCode_eq, dtKind_fdt, signedNat, Rounded.exact]
      · have hz : signedNat n q ≠ 0 := by rw [← Int.natAbs_ne_zero, natAbs_signedNat]; exact h0
        have hr : (Val.fin n q 0).rat = (signedNat n q : Int) := by rw [Val.rat_fin, cast_signedNat, zpow_zero, mul_one]
        obtain ⟨k', m', hrep⟩ := exists_isRepr_intCast t hz hle
        rw [if_neg hz, roundDy_eq_roundRat _ _ _ h0, hr, roundRat_of_isRepr hrep (dtKind_fdt t),
          roundRat_of_isRepr hrep (dtKind_fdt t)]

/-! ## FLDEXP -/

section
variable {t : FloatTy} {n : Bool} {m : Nat} {e : Int} {k : Nat}

/-- No type's least value lies below 2^(-1075), and none reaches past 2^1025. -/
theorem IsFinCode.le_abs {c : Nat} (h : IsFinCode (fdt t) c n m e k) (hm : m ≠ 0) : (2 : ℚ) ^ (-1075 : Int) ≤ |(Val.fin n m e).rat| := by
  have hM := dtMant_fdt_le t
  have hB := dtBias_fdt_le t
  have hm1 : (1 : ℚ) ≤ m := by exact_mod_cast Nat.one_le_iff_ne_zero.2 hm
  rw [Val.rat_fin, abs_signedRat _ (by positivity)]
  calc (2 : ℚ) ^ (-1075 : Int) ≤ 1 * 2 ^ e := by
        rw [one_mul]; exact zpow_le_zpow_right₀ one_le_two (by rw [h.exp]; omega)
    _ ≤ m * 2 ^ e := by gcongr

theorem IsFinCode.abs_le {c : Nat} (h : IsFinCode (fdt t) c n m e k) : |(Val.fin n m e).rat| ≤ (2 : ℚ) ^ (1025 : Int) := by
  have hM := dtMant_fdt_le t
  have hB := dtBias_fdt_le t
  have hk : k ≤ 2 * dtBias (fdt t) := by
    have := h.le_max
    rw [dtMaxCode_fdt, dtInfCode_fdt] at this
    by_contra hlt
    have : (2 * dtBias (fdt t) + 1) * 2 ^ dtMant (fdt t) ≤ k * 2 ^ dtMant (fdt t) := Nat.mul_le_mul_right _ (by omega)
    have : 0 < (2 * dtBias (fdt t) + 1) * 2 ^ dtMant (fdt t) := by positivity
    omega
  have hm : (m : ℚ) ≤ 2 ^ (dtMant (fdt t) + 1) := by exact_mod_cast h.units.le
  rw [Val.rat_fin, abs_signedRat _ (by positivity)]
  calc (m : ℚ) * 2 ^ e ≤ 2 ^ (dtMant (fdt t) + 1) * 2 ^ e := by gcongr
    _ = 2 ^ ((dtMant (fdt t) : Int) + 1 + e) := by rw [← zpow_natCast, ← zpow_add₀ two_ne_zero]; push_cast; rfl
    _ ≤ 2 ^ (1025 : Int) := zpow_le_zpow_right₀ one_le_two (by rw [h.exp]; omega)

end

/-- The cut of the exponent at ±5,000 does not show. -/
theorem roundRat_mul_two_zpow_clamp {t : FloatTy} (mode : Mode) {c : Nat} {n : Bool} {m : Nat} {e : Int}
    (h : decodeCode (fdt t) c = .fin n m e) (hm : m ≠ 0) (N : Int) :
    roundRat (fdt t) mode ((Val.fin n m e).rat * 2 ^ max (-5000) (min 5000 N)) = roundRat (fdt t) mode ((Val.fin n m e).rat * 2 ^ N) := by
  obtain ⟨k, hk⟩ := exists_isFinCode h
  have hlow := hk.le_abs hm
  have hhigh := hk.abs_le
  have hx : (Val.fin n m e).rat ≠ 0 := mt Val.rat_fin_eq_zero_iff.1 hm
  have hM := dtMant_fdt_le t
  have hB := dtBias_fdt_le t
  generalize (Val.fin n m e).rat = x at *
  have hs (i j : Int) : x * 2 ^ i < 0 ↔ x * 2 ^ j < 0 := by
    have (i : Int) : (0 : ℚ) < 2 ^ i := by positivity
    rw [mul_neg_iff, mul_neg_iff]
    simp [this, (this _).not_gt]
  have habs (i : Int) : |x * 2 ^ i| = |x| * 2 ^ i := by rw [abs_mul, abs_of_pos (by positivity : (0 : ℚ) < 2 ^ i)]
  have huge (i : Int) (hi : 5000 ≤ i) : (2 : ℚ) ^ ((dtBias (fdt t) : Int) + 1) ≤ |x * 2 ^ i| := by
    rw [habs]
    calc (2 : ℚ) ^ ((dtBias (fdt t) : Int) + 1) ≤ 2 ^ (-1075 + i : Int) := zpow_le_zpow_right₀ one_le_two (by omega)
      _ = 2 ^ (-1075 : Int) * 2 ^ i := zpow_add₀ two_ne_zero ..
      _ ≤ |x| * 2 ^ i := by gcongr
  have tiny (i : Int) (hi : i ≤ -5000) : |x * 2 ^ i| < 2 ^ (-(dtBias (fdt t) : Int) - dtMant (fdt t)) := by
    rw [habs]
    calc |x| * 2 ^ i ≤ 2 ^ (1025 : Int) * 2 ^ i := by gcongr
      _ = 2 ^ (1025 + i : Int) := (zpow_add₀ two_ne_zero ..).symm
      _ < 2 ^ (-(dtBias (fdt t) : Int) - dtMant (fdt t)) := zpow_lt_zpow_right₀ one_lt_two (by omega)
  rcases lt_or_ge 5000 N with h1 | h1
  · exact roundRat_eq_of_huge mode (huge _ (by omega)) (huge _ (by omega)) (hs ..)
  · rcases lt_or_ge N (-5000) with h2 | h2
    · exact roundRat_eq_of_tiny mode (mul_ne_zero hx (by positivity)) (mul_ne_zero hx (by positivity)) (tiny _ (by omega))
        (tiny _ (by omega)) (hs ..)
    · rw [min_eq_right h1, max_eq_right h2]

theorem fldexpCode_eq (t : FloatTy) (mode : Mode) (c : Nat) (N : Int) :
    fldexpCode t mode c N = unlessSpecial (fdt t) c fun a => roundRat (fdt t) mode (a.rat * 2 ^ N) := by
  rw [fldexpCode, unlessSpecial]
  cases h : decodeCode (fdt t) c with
  | nan s => rfl
  | inf n => rfl
  | fin n m e =>
    simp only [Val.isNan_fin, Val.isInf_fin, Val.isZero_fin, Bool.false_eq_true, Bool.false_or, beq_iff_eq, if_false]
    refine ite_congr rfl (fun _ => rfl) fun hm => ?_
    rw [roundDy_eq_roundRat _ _ _ hm, ← roundRat_mul_two_zpow_clamp mode h hm N, Val.rat_fin, Val.rat_fin, zpow_add₀ two_ne_zero,
      signedRat, signedRat, mul_assoc, mul_assoc]

/-- Settles O6: the values are those of `frintCode_eq` and `fldexpCode_eq`; the others set, clear or copy the sign bit. -/
theorem floatMoves : Obligations.FloatMoves := by
  unfold Obligations.FloatMoves
  refine ⟨fun g o => ?_, fun g o => ?_, fun g o => ⟨?_, ?_⟩, fun g o => ?_⟩
  · refine floatDoes_of (fun s => show execFrint g o s = _ from rfl) fun v => ?_
    rw [View.toNat_code, frintCode_eq _ _ (v.fcode_mod ..)]
  · refine floatDoes_of (fun s => show execFldexp g o s = _ from rfl) fun v => ?_
    rw [View.toNat_code, fldexpCode_eq]
  · exact aluDoes_of_exact (fun s => show execFabs g o s = _ from rfl) fun v => by
      rw [toNat_and_not_intMin (dtBits_fdt_pos _), View.toNat_code]
  · exact aluDoes_of_exact (fun s => show execFneg g o s = _ from rfl) fun v => by
      rw [toNat_xor_intMin (dtBits_fdt_pos _), View.toNat_code]
  · exact aluDoes_of_exact (fun s => show execFcopysign g o s = _ from rfl) fun v => by
      rw [toNat_copySign (dtBits_fdt_pos _), View.toNat_code, View.toNat_codeB]

end Sys2Proof.Machine

/-!
The special functions (O8): the rows of edges, the quotients of FRCP and FDIV, and the arguments at which FEXP2 and FLOG2 are exact.
-/
namespace Sys2Proof.Machine

open Sys2Proof

/-! ## Dyadics as fractions -/

theorem dyNum_pos {m : Nat} (hm : m ≠ 0) (e : Int) : 0 < dyNum m e := by
  have := Nat.pos_of_ne_zero hm
  rw [dyNum]
  split <;> positivity

theorem dyDen_pos (e : Int) : 0 < dyDen e := by
  rw [dyDen]
  split <;> positivity

theorem dyNum_div_dyDen (m : Nat) (e : Int) : (dyNum m e : ℚ) / dyDen e = m * 2 ^ e := by
  rw [dyNum, dyDen]
  split
  · next h => rw [two_zpow_of_nonneg h]; push_cast; rw [div_one]
  · next h => rw [two_zpow_of_neg h, div_eq_mul_inv]; push_cast; rfl

/-- The model's quotient is the rounded quotient. -/
theorem quotRound_eq (t : DType) (neg : Bool) {m n : Nat} (hm : m ≠ 0) (hn : n ≠ 0) (e f : Int) :
    quotRound t neg m e n f = roundRat t .rne (signedRat neg ((m * 2 ^ e) / (n * 2 ^ f))) := by
  have h1 := dyNum_pos hm e
  have h2 := dyNum_pos hn f
  have h3 := dyDen_pos e
  have h4 := dyDen_pos f
  rw [quotRound, roundTo_eq_roundRat _ _ _ (by positivity) (by positivity), ← dyNum_div_dyDen, ← dyNum_div_dyDen, div_div_div_eq]
  push_cast
  rfl

/-! ## The edges of R111 -/

/-- ±1 is a value of each type. -/
theorem oneOf_eq_edgeOne (t : FloatTy) (neg : Bool) : oneOf t neg = edgeOne t neg := by
  have hMB := dtMant_lt_dtBias_fdt t
  have hm : 2 ^ dtMant (fdt t) < 2 ^ (dtMant (fdt t) + 1) := Nat.pow_lt_pow_right one_lt_two (Nat.lt_succ_self _)
  have hr : IsRepr (fdt t) (if neg then -1 else 1) (dtBias (fdt t) - 1) (2 ^ dtMant (fdt t)) := by
    refine ⟨by cases neg <;> simp, ?_, le_dtMaxCode_fdt (by omega) hm, .inr le_rfl, hm⟩
    have he : ((dtBias (fdt t) - 1 : Nat) : Int) + (1 - dtBias (fdt t)) - dtMant (fdt t) = -(dtMant (fdt t) : Int) := by omega
    rw [he, zpow_neg, zpow_natCast, Nat.cast_pow, Nat.cast_ofNat, mul_inv_cancel₀ (by positivity)]
    cases neg <;> simp
  have hn : decide ((if neg then (-1 : ℚ) else 1) < 0) = neg := by cases neg <;> simp
  rw [edgeOne, roundRat_of_isRepr hr (dtKind_fdt t), hn, ← Nat.succ_mul, oneOf]
  congr 3
  omega

/-- A function that is given by its edges has them. -/
theorem edgeRow_of_edges {t : FloatTy} {f : Nat → Rounded} {ninf nzero pzero pinf : Rounded} {negative : Option Rounded}
    (h : ∀ c, ∃ negf posf, f c = edges t (decodeCode (fdt t) c) ninf negf nzero pzero pinf posf ∧
      ∀ r ∈ negative, ∀ m e, negf m e = r) : EdgeRow t f ninf nzero pzero pinf negative := by
  intro c
  obtain ⟨negf, posf, hf, hneg⟩ := h c
  simp only [hf]
  cases decodeCode (fdt t) c with
  | nan s => simp [edges, quietNan, Val.rat]
  | inf n => cases n <;> simp [edges]
  | fin n m e =>
    refine ⟨by simp, by simp, fun hz => ?_, fun r hr hlt => ?_⟩
    · simp only [Val.isZero_fin, beq_iff_eq] at hz
      simp [edges, hz]
    · have hm : m ≠ 0 := fun h0 => hlt.ne (Val.rat_fin_eq_zero_iff.2 h0)
      simp [edges, hm, (rat_fin_lt_zero_iff hm).1 hlt, hneg r hr]

theorem edges_of_fin {t : FloatTy} {n : Bool} {m : Nat} {e : Int} (hm : m ≠ 0) {ninf nzero pzero pinf : Rounded}
    {negf posf : Nat → Int → Rounded} :
    edges t (.fin n m e) ninf negf nzero pzero pinf posf = if n then negf m e else posf m e := if_neg hm

/-! ## Quotients -/

/-- FDIV of the model is that of R110 and R111. -/
theorem divVal_eq_ieeeDiv (t : FloatTy) (a b : Val) : divVal t a b = ieeeDiv t a b := by
  cases a with
  | nan s => cases b <;> simp [divVal, ieeeDiv, quietNan]
  | inf s =>
    cases b with
    | nan u => simp [divVal, ieeeDiv, quietNan]
    | inf u => simp [divVal, ieeeDiv]; rfl
    | fin u n f => simp [divVal, ieeeDiv]; rfl
  | fin s m e =>
    cases b with
    | nan u => simp [divVal, ieeeDiv, quietNan]
    | inf u => simp [divVal, ieeeDiv]; rfl
    | fin u n f =>
      by_cases hn : n = 0
      · by_cases hm : m = 0
        · simp [divVal, ieeeDiv, hn, hm]; rfl
        · simp [divVal, ieeeDiv, hn, hm]; rfl
      · by_cases hm : m = 0
        · simp [divVal, ieeeDiv, hn, hm]; rfl
        · simp [divVal, ieeeDiv, hn, hm, quotRound_eq, Val.rat_fin, signedRat_div]

section
variable {t : FloatTy} {c : Nat} {n : Bool} {m : Nat} {e : Int} (h : decodeCode (fdt t) c = .fin n m e) (hm : m ≠ 0)
include h hm

theorem rcpVal_of_fin : rcpVal t c = roundRat (fdt t) .rne (1 / (Val.fin n m e).rat) := by
  have hq : signedRat n ((((1 : Nat) : ℚ) * 2 ^ (0 : Int)) / (m * 2 ^ e)) = 1 / (Val.fin n m e).rat := by
    rw [Val.rat_fin, Nat.cast_one, zpow_zero, mul_one]
    cases n
    · rw [signedRat_false, signedRat_false]
    · rw [signedRat_true, signedRat_true, div_neg]
  rw [rcpVal, h, edges_of_fin hm]
  cases n <;> simp only [Bool.false_eq_true, if_false, if_true, quotRound_eq _ _ one_ne_zero hm, hq]

/-! ## Powers of two and their logarithms -/

theorem log2Val_of_two_zpow {k : Int} (hk : (Val.fin n m e).rat = 2 ^ k) :
    log2Val t c = roundDy (fdt t) .rne (decide (k < 0)) k.natAbs 0 := by
  have hn : n = false := by
    rw [← Bool.not_eq_true, ← rat_fin_lt_zero_iff hm (e := e), hk]
    exact not_lt.2 (by positivity)
  have hv : (m : ℚ) = 2 ^ (k - e) := by
    rw [zpow_sub₀ two_ne_zero, eq_div_iff (by positivity), ← hk, hn, Val.rat_fin, signedRat_false]
  have hke : 0 ≤ k - e := by
    by_contra hneg
    have : (m : ℚ) < 1 := by rw [hv]; exact zpow_lt_one_of_neg₀ one_lt_two (by omega)
    exact hm (Nat.lt_one_iff.1 (by exact_mod_cast this))
  have hpow : m = 2 ^ (k - e).toNat := by
    rw [two_zpow_of_nonneg hke] at hv
    exact_mod_cast hv
  have hl : Nat.log2 m = (k - e).toNat := by rw [hpow, Nat.log2_two_pow]
  have hsum : e + ((k - e).toNat : Int) = k := by omega
  rw [log2Val, h, edges_of_fin hm, hn, if_neg Bool.false_ne_true]
  simp only [hl, hsum]
  rw [if_pos hpow]

end

theorem roundDy_one (t : DType) (k : Int) : roundDy t .rne false 1 k = roundRat t .rne (2 ^ k) := by
  rw [roundDy_eq_roundRat _ _ _ one_ne_zero, Val.rat_fin, signedRat_false, Nat.cast_one, one_mul]

/-- The model finds the integer that a dyadic is. -/
theorem fxOf_zero_of_int {n : Bool} {m : Nat} {e k : Int} (hk : (Val.fin n m e).rat = k) :
    (0 ≤ e ∨ m % 2 ^ (-e).toNat = 0) ∧ fxOf 0 n m e = k := by
  have habs : (m : ℚ) * 2 ^ e = k.natAbs := by
    rw [← abs_signedRat n (by positivity : 0 ≤ (m : ℚ) * 2 ^ e), ← Val.rat_fin, hk, Nat.cast_natAbs, Int.cast_abs]
  have hint (K : Nat) (hK : (m : ℚ) * 2 ^ e = K) : signedNat n K = k := by
    rw [Val.rat_fin, hK, ← cast_signedNat] at hk
    exact_mod_cast hk
  by_cases he : 0 ≤ e
  · refine ⟨.inl he, ?_⟩
    rw [two_zpow_of_nonneg he] at hint
    rw [fxOf, ← hint (m * 2 ^ e.toNat) (by push_cast; rfl)]
    simp [he, signedNat]
  · have hm : m = k.natAbs * 2 ^ (-e).toNat := by
      rw [two_zpow_of_neg he, ← div_eq_mul_inv, div_eq_iff (by positivity)] at habs
      exact_mod_cast habs
    refine ⟨.inr (by rw [hm, Nat.mul_mod_left]), ?_⟩
    rw [fxOf, ← hint _ habs, hm]
    simp [he, signedNat]

/-- A power of two beyond the cut of FEXP2 overflows, or falls below half of the least value. -/
theorem roundRat_two_zpow_eq {t : FloatTy} (ht : t ≠ .f64) {i j : Int} (hi : 1024 ≤ i.natAbs) (hj : 1024 ≤ j.natAbs)
    (hs : i < 0 ↔ j < 0) : roundRat (fdt t) .rne (2 ^ i) = roundRat (fdt t) .rne (2 ^ j) := by
  have hB : dtBias (fdt t) ≤ 127 := by
    cases t with
    | f64 => exact absurd rfl ht
    | f32 | b16 | h16 => decide
  have hM : dtMant (fdt t) ≤ 52 := dtMant_fdt_le t
  have hp (k : Int) : (0 : ℚ) < 2 ^ k := by positivity
  have hsign : (2 : ℚ) ^ i < 0 ↔ (2 : ℚ) ^ j < 0 := by simp [(hp _).not_gt]
  rcases lt_or_ge i 0 with h0 | h0
  · have tiny (k : Int) (hk : k ≤ -1024) : |(2 : ℚ) ^ k| < 2 ^ (-(dtBias (fdt t) : Int) - dtMant (fdt t)) := by
      rw [abs_of_pos (hp k)]
      exact zpow_lt_zpow_right₀ one_lt_two (by omega)
    exact roundRat_eq_of_tiny _ (hp i).ne' (hp j).ne' (tiny i (by omega)) (tiny j (by omega)) hsign
  · have huge (k : Int) (hk : 1024 ≤ k) : (2 : ℚ) ^ ((dtBias (fdt t) : Int) + 1) ≤ |(2 : ℚ) ^ k| := by
      rw [abs_of_pos (hp k)]
      exact zpow_le_zpow_right₀ one_le_two (by omega)
    exact roundRat_eq_of_huge _ (huge i (by omega)) (huge j (by omega)) hsign

theorem fxOf_zero_cut (n : Bool) : fxOf 0 n 1024 0 = signedNat n 1024 := rfl

section
variable {t : FloatTy} {c : Nat} {n : Bool} {m : Nat} {e : Int} (h : decodeCode (fdt t) c = .fin n m e) (hm : m ≠ 0)
include h hm

theorem exp2Val_of_cut {m' : Nat} {e' : Int} (hc : cut m e = (m', e')) (hi : 0 ≤ e' ∨ m' % 2 ^ (-e').toNat = 0) :
    exp2Val t c = roundRat (fdt t) .rne (2 ^ fxOf 0 n m' e') := by
  rw [exp2Val, h, edges_of_fin hm]
  cases n <;> simp only [Bool.false_eq_true, if_false, if_true, hc, hi, roundDy_one]

theorem exp2Val_of_int (ht : t ≠ .f64) {k : Int} (hk : (Val.fin n m e).rat = k) : exp2Val t c = roundRat (fdt t) .rne (2 ^ k) := by
  obtain ⟨hi, hfx⟩ := fxOf_zero_of_int hk
  have hneg : k < 0 ↔ n = true := by rw [← rat_fin_lt_zero_iff hm (e := e), hk, Int.cast_lt_zero]
  have hx : 0 < (m : ℚ) * 2 ^ e := by have := Nat.pos_of_ne_zero hm; positivity
  have hlog : floorLog2 (dyNum m e) (dyDen e) < 10 ↔ k.natAbs < 1024 := by
    rw [floorLog2_eq (dyNum_pos hm e) (dyDen_pos e), dyNum_div_dyDen, ← Int.lt_zpow_iff_log_lt one_lt_two hx,
      ← abs_signedRat n hx.le, ← Val.rat_fin, hk, ← Int.cast_abs]
    norm_cast
    rw [Int.abs_eq_natAbs]
    norm_cast
  by_cases hcut : floorLog2 (dyNum m e) (dyDen e) < 10
  · rw [exp2Val_of_cut h hm (if_pos hcut) hi, hfx]
  · rw [exp2Val_of_cut h hm (if_neg hcut) (.inl le_rfl), fxOf_zero_cut]
    refine roundRat_two_zpow_eq ht (natAbs_signedNat n 1024).ge (not_lt.1 (mt hlog.2 hcut)) ?_
    rw [hneg]
    cases n <;> simp [signedNat]

end

/-- Settles O8: each function is given by its edges, and the named arguments by the quotient or the exact value. -/
theorem specialFunctions : Obligations.SpecialFunctions := by
  unfold Obligations.SpecialFunctions
  refine ⟨fun g o => ?_, fun g o => ?_, fun t => ?_⟩
  · intro F
    have special {i : Guards → FloatUn → Instr} {f : FloatTy → Nat → Rounded}
        (h : ∀ s, exec (i g o) s = runSpecial (i g o) g o s f) : F i f :=
      floatDoes_of h fun v => by rw [View.toNat_code]
    clear_value F
    exact ⟨special fun s => show execFexp g o s = _ from rfl, special fun s => show execFexp2 g o s = _ from rfl,
      special fun s => show execFlog2 g o s = _ from rfl, special fun s => show execFrcp g o s = _ from rfl,
      special fun s => show execFrsq g o s = _ from rfl, special fun s => show execFsqrt g o s = _ from rfl,
      special fun s => show execFsin g o s = _ from rfl, special fun s => show execFcos g o s = _ from rfl,
      special fun s => show execFtanh g o s = _ from rfl⟩
  · exact floatDoes_of (fun s => show execFdiv g o s = _ from rfl) fun v => divVal_eq_ieeeDiv ..
  · simp only [← oneOf_eq_edgeOne]
    refine ⟨edgeRow_of_edges fun c => ⟨_, _, rfl, by simp⟩, edgeRow_of_edges fun c => ⟨_, _, rfl, by simp⟩,
      edgeRow_of_edges fun c => ⟨fun _ _ => inv t, _, rfl, fun r hr _ _ => Option.some.inj hr⟩,
      edgeRow_of_edges fun c => ⟨_, _, rfl, by simp⟩,
      edgeRow_of_edges fun c => ⟨fun _ _ => inv t, _, rfl, fun r hr _ _ => Option.some.inj hr⟩,
      edgeRow_of_edges fun c => ⟨fun _ _ => inv t, _, rfl, fun r hr _ _ => Option.some.inj hr⟩,
      edgeRow_of_edges fun c => ⟨_, _, rfl, by simp⟩, edgeRow_of_edges fun c => ⟨_, _, rfl, by simp⟩,
      edgeRow_of_edges fun c => ⟨_, _, rfl, by simp⟩, fun c => ?_⟩
    cases h : decodeCode (fdt t) c with
    | nan s => exact fun hn => absurd hn (by simp)
    | inf n => exact fun _ hi => absurd hi (by simp)
    | fin n m e =>
      intro _ _ h0
      have hm : m ≠ 0 := mt Val.rat_fin_eq_zero_iff.2 h0
      refine ⟨rcpVal_of_fin h hm, fun k ht hk => exp2Val_of_int h hm ht hk, fun k hk hk0 => ?_, fun h1 => ?_⟩
      · rw [log2Val_of_two_zpow h hm hk, roundDy_eq_roundRat _ _ _ (Int.natAbs_ne_zero.2 hk0), rat_fin_natAbs, zpow_zero, mul_one]
      · rw [log2Val_of_two_zpow h hm (h1.trans (zpow_zero 2).symm)]
        cases t <;> rfl

end Sys2Proof.Machine

/-!
Control instructions (O25 to O31). First one rule for each shared operation: which team and which thread is found after it, and what
a whole instruction leaves of its group when the members leave it as a `Post` says.
-/
namespace Sys2Proof.Machine

open Sys2Proof

/-! ## The team that is found after an update -/

section
variable {s t : State} {i j m n : Nat} {a : Team}

theorem State.team?_key (h : s.team? m n = some a) : a.task = m ∧ a.team = n := by
  simpa using List.find?_some h

theorem State.team?_congr (h : t.teams = s.teams) : t.team? m n = s.team? m n := by rw [State.team?, h, State.team?]

theorem State.team?_of_map {φ : Team → Team} (ht : t.teams = s.teams.map φ)
    (hφ : ∀ a, (φ a).task = a.task ∧ (φ a).team = a.team) : t.team? m n = (s.team? m n).map φ := by
  have hp : ((fun b : Team => b.task == m && b.team == n) ∘ φ) = fun b => b.task == m && b.team == n := by
    funext b
    simp [hφ]
  rw [State.team?, ht, List.find?_map, hp, State.team?]

theorem State.team?_modTeam {f : Team → Team} (hf : ∀ a, (f a).task = a.task ∧ (f a).team = a.team) :
    (s.modTeam i j f).team? m n = (s.team? m n).map fun a => if m = i ∧ n = j then f a else a := by
  rw [State.team?_of_map (s := s) (φ := fun a => if a.task == i && a.team == j then f a else a) rfl
    fun a => by split <;> simp [hf]]
  refine Option.map_congr fun a ha => ?_
  obtain ⟨h1, h2⟩ := State.team?_key ha
  simp [h1, h2]

end

/-! ## The thread that is found after an update -/

section
variable {s t : State} {c : Ctx} {k : ThreadKey} {x : Thread}

theorem State.thread?_eq_bind (s : State) (k : ThreadKey) : s.thread? k = (s.team? k.task k.team).bind (·.thread? k.tid) := by
  rw [State.thread?]
  cases s.team? k.task k.team <;> rfl

theorem State.exists_team?_of_thread? (h : s.thread? k = some x) :
    ∃ a, s.team? k.task k.team = some a ∧ a.thread? k.tid = some x := by
  rw [State.thread?_eq_bind] at h
  exact Option.bind_eq_some_iff.1 h

theorem Team.thread?_tid {a : Team} {m : Nat} (h : a.thread? m = some x) : x.tid = m := by
  simpa using List.find?_some h

theorem State.thread?_tid (h : s.thread? k = some x) : x.tid = k.tid := by
  obtain ⟨a, -, h⟩ := State.exists_team?_of_thread? h
  exact Team.thread?_tid h

theorem State.thread?_congr (h : t.teams = s.teams) : t.thread? k = s.thread? k := by
  rw [State.thread?_eq_bind, State.thread?_eq_bind, State.team?_congr h]

theorem Team.thread?_of_map {a b : Team} {g : Thread → Thread} (hb : b.threads = a.threads.map g) (hg : ∀ x, (g x).tid = x.tid)
    (m : Nat) : b.thread? m = (a.thread? m).map g := by
  have hp : ((fun x : Thread => x.tid == m) ∘ g) = fun x => x.tid == m := by
    funext x
    simp [hg]
  rw [Team.thread?, hb, List.find?_map, hp, Team.thread?]

/-- Each thread of a team is found again after an update of each team's threads. -/
theorem State.thread?_of_map {φ : Team → Team} {g : Team → Thread → Thread} (ht : t.teams = s.teams.map φ)
    (hφ : ∀ a, (φ a).task = a.task ∧ (φ a).team = a.team) (hg : ∀ a, (φ a).threads = a.threads.map (g a))
    (htid : ∀ a x, (g a x).tid = x.tid) {a : Team} (ha : s.team? k.task k.team = some a) :
    t.thread? k = (s.thread? k).map (g a) := by
  rw [State.thread?_eq_bind, State.thread?_eq_bind, State.team?_of_map ht hφ, ha]
  exact Team.thread?_of_map (hg a) (htid a) k.tid

/-- An update of the threads of the team `i`, `j`. -/
theorem State.thread?_modTeam {i j : Nat} {f : Team → Team} {g : Thread → Thread}
    (hf : ∀ a, (f a).task = a.task ∧ (f a).team = a.team) (hg : ∀ a, (f a).threads = a.threads.map g) (ht : ∀ x, (g x).tid = x.tid) :
    (s.modTeam i j f).thread? k = (s.thread? k).map fun x => if k.task = i ∧ k.team = j then g x else x := by
  rw [State.thread?_eq_bind, State.thread?_eq_bind, State.team?_modTeam hf]
  cases s.team? k.task k.team with
  | none => rfl
  | some a =>
    by_cases h : k.task = i ∧ k.team = j
    · simpa [h] using Team.thread?_of_map (hg a) ht k.tid
    · simp [h]

/-- An update of the team `i`, `j` that leaves its threads. -/
theorem State.thread?_modTeam_of_threads {i j : Nat} {f : Team → Team} (hf : ∀ a, (f a).task = a.task ∧ (f a).team = a.team)
    (hg : ∀ a, (f a).threads = a.threads) : (s.modTeam i j f).thread? k = s.thread? k := by
  rw [State.thread?_modTeam (g := id) hf (fun a => by rw [hg, List.map_id]) fun _ => rfl]
  simp

theorem State.thread?_modThread {k' : ThreadKey} {f : Thread → Thread} (ht : ∀ x, (f x).tid = x.tid) :
    (s.modThread k' f).thread? k = (s.thread? k).map fun x => if k = k' then f x else x := by
  rw [State.modThread, State.thread?_modTeam (f := fun tm => tm.modThread k'.tid f) (g := fun x => if x.tid == k'.tid then f x else x)
    (fun _ => ⟨rfl, rfl⟩) (fun _ => rfl) fun x => by split <;> simp [ht]]
  refine Option.map_congr fun x hx => ?_
  obtain ⟨a, b, m⟩ := k
  obtain ⟨a', b', m'⟩ := k'
  have := State.thread?_tid hx
  by_cases h : a = a' ∧ b = b' <;> by_cases h' : m = m' <;> simp_all

theorem State.thread?_eachLane {act : List Thread} {f : Thread → Thread} (ht : ∀ x, (f x).tid = x.tid) :
    (s.eachLane c act f).thread? k = (s.thread? k).map fun x =>
      if k.task = c.tk.id ∧ k.team = c.tm.team ∧ x.tid ∈ act.map (·.tid) then f x else x := by
  rw [State.eachLane, State.thread?_modTeam (f := fun tm => tm.modThreads (fun t => (act.map (·.tid)).contains t.tid) f)
    (g := fun x => if (act.map (·.tid)).contains x.tid then f x else x) (fun _ => ⟨rfl, rfl⟩) (fun _ => rfl)
    fun x => by split <;> simp [ht]]
  refine Option.map_congr fun x _ => ?_
  simp only [List.contains_iff_mem]
  by_cases h : k.task = c.tk.id ∧ k.team = c.tm.team <;> by_cases h' : x.tid ∈ act.map (·.tid) <;> simp [h, h']

theorem Thread.issued_tid (x : Thread) (q : ThreadKey → Bool) : (x.issued q).tid = x.tid := by
  rw [Thread.issued_bystander x q]

theorem State.retireThread_tid_post (s : State) (c : Ctx) (n : Nat) (p : Post) (x : Thread) : (s.retireThread c n p x).tid = x.tid :=
  (congrArg Thread.tid State.retireThread_keeps :)

theorem leftTeam_key (s : State) (c : Ctx) (n : Nat) (p : Post) (ks : List ThreadKey) (a : Team) :
    (leftTeam s c n p ks a).task = a.task ∧ (leftTeam s c n p ks a).team = a.team := by
  unfold leftTeam
  split <;> exact ⟨rfl, rfl⟩

/-- The threads that have issued an instruction that its group leaves as `p` says. -/
def Ctx.issuers (c : Ctx) (p : Post) : List ThreadKey :=
  (c.g.members.filter fun m => !p.stay.contains m).map fun m => { task := c.tk.id, team := c.tm.team, tid := m }

theorem Ctx.mem_issuers {p : Post} : k ∈ c.issuers p ↔ k.task = c.tk.id ∧ k.team = c.tm.team ∧ k.tid ∈ c.g.members ∧ k.tid ∉ p.stay := by
  obtain ⟨a, b, m⟩ := k
  simp only [Ctx.issuers, List.mem_map, List.mem_filter, ThreadKey.mk.injEq]
  constructor
  · rintro ⟨m', ⟨h1, h2⟩, rfl, rfl, rfl⟩
    exact ⟨rfl, rfl, h1, by simpa using h2⟩
  · rintro ⟨rfl, rfl, h1, h2⟩
    exact ⟨m, ⟨h1, by simpa using h2⟩, rfl, rfl, rfl⟩

theorem State.retire_eq_map (s : State) (c : Ctx) (i : Instr) (p : Post) :
    s.retire c i p = { s with teams := s.teams.map (leftTeam s c (instrBytes i) p (c.issuers p))
                              freeCtr := s.freeCtr + 1, blocked := [] } := by
  simp only [State.retire, State.noteIssued, State.noteGone, State.tick, State.modTeam, mapIf, List.map_map]
  congr 1
  refine List.map_congr_left fun a _ => ?_
  by_cases h : a.task = c.tk.id ∧ a.team = c.tm.team
  · have hb : (a.task == c.tk.id && a.team == c.tm.team) = true := by simpa using h
    rw [Function.comp_apply, if_pos hb, leftTeam, if_pos h, Team.modThreads, mapIf, List.map_map]
    congr 1
    exact List.map_congr_left fun x _ => by simp [Ctx.issuers]
  · have hb : ¬(a.task == c.tk.id && a.team == c.tm.team) = true := by simpa using h
    rw [Function.comp_apply, if_neg hb, leftTeam, if_neg h]
    rfl

theorem State.team?_retire (s : State) (c : Ctx) (i : Instr) (p : Post) (m n : Nat) :
    (s.retire c i p).team? m n = (s.team? m n).map (leftTeam s c (instrBytes i) p (c.issuers p)) :=
  State.team?_of_map (by rw [State.retire_eq_map]) fun a => leftTeam_key ..

/-- A thread after its group has left the instruction: only a YIELD wait sees others issue. -/
theorem State.thread?_retire (s : State) (c : Ctx) (i : Instr) (p : Post) (k : ThreadKey) :
    (s.retire c i p).thread? k = (s.thread? k).map fun x =>
      (if k.task = c.tk.id ∧ k.team = c.tm.team ∧ x.tid ∈ c.g.members ∧ x.tid ∉ p.stay then s.retireThread c (instrBytes i) p x
        else x).issued (c.issuers p).contains := by
  rw [State.thread?_eq_bind, State.thread?_eq_bind, State.team?_retire]
  cases ha : s.team? k.task k.team with
  | none => rfl
  | some a =>
    obtain ⟨h1, h2⟩ := State.team?_key ha
    rw [Option.map_some, Option.bind_some, Option.bind_some]
    by_cases h : k.task = c.tk.id ∧ k.team = c.tm.team
    · rw [leftTeam, if_pos (by rwa [h1, h2])]
      rw [Team.thread?_of_map (a := a) rfl fun x => by rw [Thread.issued_tid]; split <;> simp [State.retireThread_tid_post]]
      simp only [h, true_and]
    · rw [leftTeam, if_neg (by rwa [h1, h2])]
      rw [Team.thread?_of_map (a := a) rfl fun x => Thread.issued_tid ..]
      refine Option.map_congr fun x _ => ?_
      rw [if_neg fun hk => h ⟨hk.1, hk.2.1⟩]

end

/-! ## The threads of the group after an instruction -/

section
variable {s u : State} {c : Ctx} {i : Instr} {p : Post} {x : Thread}

/-- A thread in a wait stays in it. -/
theorem State.retireThread_wait_of_ne {n : Nat} (h : x.wait ≠ .none) : (s.retireThread c n p x).wait = x.wait := by
  simp [State.retireThread, h]

/-- Only a YIELD wait sees others issue. -/
theorem Thread.issued_of_not_yield {q : ThreadKey → Bool} (h : ∀ o, x.wait ≠ .yield o) : x.issued q = x := by
  unfold Thread.issued
  split
  · next o ho => exact absurd ho (h o)
  · rfl

/-- A thread that retires into a wait that ends by its own event. -/
theorem State.wait_retireThread_issued {n : Nat} {q : ThreadKey → Bool} (h : x.wait ≠ .none) (hy : ∀ o, x.wait ≠ .yield o) :
    ((s.retireThread c n p x).issued q).wait = x.wait := by
  have hw := State.retireThread_wait_of_ne (s := s) (c := c) (p := p) (n := n) h
  rw [Thread.issued_of_not_yield (by rwa [hw]), hw]

/-- What becomes of the lanes that the instruction changes. -/
theorem lanesBecome {act : List Thread} {e : Thread → Thread} {Q : Thread → Thread → Prop} (hs : p.stay = [])
    (hact : ∀ x ∈ act, x.tid ∈ c.g.members) (hu : u.teams = (s.eachLane c act e).teams) (he : ∀ x, (e x).tid = x.tid)
    (h : ∀ x, x.tid ∈ act.map (·.tid) → Q x ((u.retireThread c (instrBytes i) p (e x)).issued (c.issuers p).contains)) :
    ThreadsBecome s (u.retire c i p) c fun x y => x.tid ∈ act.map (·.tid) → Q x y := by
  intro tid x hx
  rw [State.thread?_retire, State.thread?_congr hu, State.thread?_eachLane he, hx]
  refine ⟨_, rfl, fun hm => ?_⟩
  have hmem : x.tid ∈ c.g.members := by
    obtain ⟨v, hv, hvx⟩ := List.mem_map.1 hm
    exact hvx ▸ hact v hv
  simp only [hm, he, hmem, hs, and_self, if_true, List.not_mem_nil, not_false_iff]
  exact h x hm

end

/-! ## Pad words -/

theorem State.skipPads_congr {s t : State} {tk : Task} (h : ∀ a, t.peekWord tk a = s.peekWord tk a) (a : Nat) :
    t.skipPads tk a = s.skipPads tk a := by
  have hf : ∀ n a, t.skipPadsFrom tk n a = s.skipPadsFrom tk n a := by
    intro n
    induction n with
    | zero => exact fun _ => rfl
    | succ n ih => intro a; simp [State.skipPadsFrom, h, ih]
  simp [State.skipPads, hf]

theorem State.skipPads_modTeam (s : State) (i j : Nat) (f : Team → Team) (tk : Task) (a : Nat) :
    (s.modTeam i j f).skipPads tk a = s.skipPads tk a := State.skipPads_teams ..

/-- Where a thread goes on depends on memory alone. -/
theorem State.departs_congr {s t : State} {c : Ctx} {n : Nat} {p : Post} (h : ∀ a, t.skipPads c.tk a = s.skipPads c.tk a) (x : Thread) :
    t.departs c n p x = s.departs c n p x := by
  simp only [State.departs, State.advance, h]

/-! ## What a whole instruction does to its group -/

theorem teamsOnly_retire (s : State) (m n : Nat) (F : Team → Team) (c : Ctx) (i : Instr) (p : Post) :
    TeamsOnly s ((s.modTeam m n F).retire c i p) := rfl

/-- The teams after the group of `c` has left an instruction that does `g` to the threads of its team, where this is what
`TeamsAfter` is to say of them. -/
theorem teamsAfter_retire {s u : State} {c : Ctx} {i : Instr} {p : Post} {F : Team → Team} {f g : Thread → Thread}
    {next : Thread → Nat} {h : Nat → Warp → Warp} (hu : u.teams = (s.modTeam c.tk.id c.tm.team F).teams)
    (hF : ∀ a, F a = { a with threads := a.threads.map g, warps := (F a).warps })
    (hw : ∀ a : Team, (F a).warps.length = a.warps.length ∧ ∀ k < a.warps.length, (F a).warp k = h k (a.warp k))
    (hs : p.stay = []) (ht : ∀ x, (g x).tid = x.tid) (hout : ∀ x, x.tid ∉ c.g.members → g x = x)
    (hin : ∀ x, x.tid ∈ c.g.members → (g x).still = (f x).still ∧ (c.g.iter = none →
      (u.departs c (instrBytes i) p (g x)).pc = BitVec.ofNat 64 (next x) ∧ (g x).rep = (f x).rep)) :
    TeamsAfter s (u.retire c i p) c next f h := by
  have hkey (a : Team) : (F a).task = a.task ∧ (F a).team = a.team := by rw [hF]; exact ⟨rfl, rfl⟩
  rw [TeamsAfter, State.retire_eq_map]
  simp only [hu, State.modTeam, mapIf, List.map_map]
  rw [List.forall₂_map_right_iff, List.forall₂_same]
  intro a _
  by_cases hk : a.task = c.tk.id ∧ a.team = c.tm.team
  · have hb : (a.task == c.tk.id && a.team == c.tm.team) = true := by simpa using hk
    have hk' : (F a).task = c.tk.id ∧ (F a).team = c.tm.team := by rwa [(hkey a).1, (hkey a).2]
    rw [Function.comp_apply, if_pos hb, leftTeam, if_pos hk', if_pos hk]
    refine ⟨by rw [hF], (hw a).1, (hw a).2, ?_⟩
    have hthr : (F a).threads = a.threads.map g := by rw [hF]
    simp only [hthr, List.map_map, hs, List.not_mem_nil, not_false_iff, and_true]
    rw [List.forall₂_map_right_iff, List.forall₂_same]
    intro x _
    simp only [Function.comp_apply, ht]
    split
    · next hx =>
      obtain ⟨hstill, hgo⟩ := hin x hx
      have hby := Thread.issued_bystander (u.retireThread c (instrBytes i) p (g x)) (c.issuers p).contains
      rw [hby]
      refine ⟨State.retireThread_keeps.trans hstill, fun hi => ?_⟩
      obtain ⟨hpc, hrep⟩ := hgo hi
      exact ⟨hpc, (State.departs_rep_kept (.inl hi)).trans hrep⟩
    · next hx =>
      rw [hout x hx]
      exact Thread.issued_bystander ..
  · have hb : ¬(a.task == c.tk.id && a.team == c.tm.team) = true := by simpa using hk
    rw [Function.comp_apply, if_neg hb, leftTeam, if_neg hk, if_neg hk]
    refine ⟨rfl, rfl, ?_⟩
    rw [List.forall₂_map_right_iff, List.forall₂_same]
    exact fun x _ => Thread.issued_bystander ..

section
variable {s : State} {c : Ctx} {i : Instr} {p : Post} {e f : Thread → Thread} {next : Thread → Nat} {act : List Thread}

/-- Where the group's threads were changed alone, nothing but them is changed. -/
theorem groupEffect_lanes (hs : p.stay = []) (hact : ∀ x ∈ act, x.tid ∈ c.g.members) (ht : ∀ x, (e x).tid = x.tid)
    (hin : ∀ x y, x.tid ∈ c.g.members → y = (if x.tid ∈ act.map (·.tid) then e x else x) → y.still = (f x).still ∧
      (c.g.iter = none → (s.departs c (instrBytes i) p y).pc = BitVec.ofNat 64 (next x) ∧ y.rep = (f x).rep)) :
    GroupEffect s ((s.eachLane c act e).retire c i p) c next f fun _ w => w := by
  refine ⟨rfl, teamsAfter_retire (F := fun tm => tm.modThreads (fun t => (act.map (·.tid)).contains t.tid) e)
    (g := fun x => if x.tid ∈ act.map (·.tid) then e x else x) rfl (fun a => ?_) (fun _ => ⟨rfl, fun _ _ => rfl⟩) hs (fun x => ?_)
    (fun x hx => ?_) fun x hx => ?_⟩
  · simp [Team.modThreads, mapIf]
  · split <;> simp [ht]
  · refine if_neg fun hm => hx ?_
    obtain ⟨u, hu, he⟩ := List.mem_map.1 hm
    exact he ▸ hact u hu
  · rw [State.departs_congr (s := s) (t := s.eachLane c act e) fun a => State.skipPads_modTeam ..]
    exact hin x _ hx rfl

theorem Ctx.tid_mem_of_active {gs : Guards} {x : Thread} (h : x ∈ c.active gs) : x.tid ∈ c.g.members :=
  Ctx.active_tid (List.mem_map.2 ⟨x, h, rfl⟩)

/-- The members that no jump names and that wait for nothing go on at the next instruction. -/
theorem State.departs_pc_next {x : Thread} (hh : p.hold = []) (hq : p.quiet = []) (hj : p.jumps = []) (hi : c.g.iter = none) :
    (s.departs c (instrBytes i) p x).pc = BitVec.ofNat 64 (s.follows c i x) := by
  rw [State.departs_next (by simp [hh, hq]) (by simp [hj]), State.advance_pc]
  simp [hi, State.follows]

/-- An instruction that leaves the group's progress alone behind a change of its active lanes. -/
theorem groupEffect_next {gs : Guards} (hs : p.stay = []) (hh : p.hold = []) (hq : p.quiet = []) (hj : p.jumps = [])
    (ht : ∀ x, (e x).tid = x.tid) (hpc : ∀ x, (e x).pc = x.pc)
    (hf : ∀ x, x.tid ∈ (c.active gs).map (·.tid) → (e x).still = (f x).still ∧ (e x).rep = (f x).rep)
    (hf' : ∀ x, x.tid ∉ (c.active gs).map (·.tid) → f x = x) :
    GroupEffect s ((s.eachLane c (c.active gs) e).retire c i p) c (s.follows c i) f fun _ w => w := by
  refine groupEffect_lanes hs (fun x hx => Ctx.tid_mem_of_active hx) ht ?_
  rintro x _ - rfl
  have hgo (y : Thread) (hy : y.pc = x.pc) (hi : c.g.iter = none) :
      (s.departs c (instrBytes i) p y).pc = BitVec.ofNat 64 (s.follows c i x) := by
    rw [State.departs_pc_next hh hq hj hi, State.follows, hy, State.follows]
  split
  · next hx => exact ⟨(hf x hx).1, fun hi => ⟨hgo _ (hpc x) hi, (hf x hx).2⟩⟩
  · next hx =>
    rw [hf' x hx]
    exact ⟨rfl, fun hi => ⟨hgo _ rfl hi, rfl⟩⟩

theorem State.eachLane_id (s : State) (c : Ctx) (act : List Thread) : s.eachLane c act id = s := by
  simp [State.eachLane, State.modTeam, Team.modThreads, mapIf]

theorem State.eachLane_nil (s : State) (c : Ctx) (f : Thread → Thread) : s.eachLane c [] f = s := by
  simp [State.eachLane, State.modTeam, Team.modThreads, mapIf]

/-- An instruction that only goes on. -/
theorem groupEffect_id (s : State) (c : Ctx) (i : Instr) :
    GroupEffect s (s.retire c i Post.none) c (s.follows c i) id fun _ w => w := by
  have h := groupEffect_next (s := s) (c := c) (i := i) (p := Post.none) (gs := Guards.always) (e := id) (f := id) rfl rfl rfl rfl
    (fun _ => rfl) (fun _ => rfl) (fun _ _ => ⟨rfl, rfl⟩) fun _ _ => rfl
  rwa [State.eachLane_id] at h

end

end Sys2Proof.Machine

/-!
Transfers (O25): the jumps of the active lanes, and the words that JTBL reads through the fetch path.
-/
namespace Sys2Proof.Machine

open Sys2Proof

section
variable {s : State} {c : Ctx} {i : Instr} {g : Guards}

/-- The jump of a lane, where each lane of a list jumps to its target. -/
theorem find?_jumps (act : List Thread) (target : Thread → Nat) (tid : Nat) :
    ((act.map fun u => (u.tid, target u)).find? fun j => j.1 == tid) = (act.find? fun u => u.tid == tid).map fun u => (u.tid, target u) :=
  List.find?_map ..

/-- Where a thread that waits for nothing goes on: at its jump, or at the next instruction. -/
theorem State.departs_pc_jumps {p : Post} {y : Thread} (hh : p.hold = []) (hq : p.quiet = []) (hi : c.g.iter = none) :
    (s.departs c (instrBytes i) p y).pc = BitVec.ofNat 64 (match p.jumps.find? fun j => j.1 == y.tid with
      | some j => s.skipPads c.tk j.2
      | none => s.follows c i y) := by
  have hw : ¬(y.tid ∈ p.hold ∨ y.tid ∈ p.quiet) := by simp [hh, hq]
  cases hj : p.jumps.find? fun j => j.1 == y.tid with
  | some j => rw [State.departs_jump hw hj]
  | none =>
    rw [State.departs_next hw hj, State.advance_pc]
    simp [hi, State.follows]

/-- The group leaves a transfer of its active lanes to their targets. -/
theorem groupEffect_jumps (target : Thread → Nat) {f : Thread → Thread} (ht : ∀ x, (f x).tid = x.tid) (hpc : ∀ x, (f x).pc = x.pc) :
    GroupEffect s ((s.eachLane c (c.active g) f).retire c i { Post.none with jumps := (c.active g).map fun u => (u.tid, target u) }) c
      (fun x => match c.lane? g x with
        | some u => s.skipPads c.tk (target u)
        | none => s.follows c i x)
      (fun x => if x.tid ∈ (c.active g).map (·.tid) then f x else x) fun _ w => w := by
  refine groupEffect_lanes rfl (fun x hx => Ctx.tid_mem_of_active hx) ht ?_
  rintro x _ - rfl
  refine ⟨rfl, fun hi => ⟨?_, rfl⟩⟩
  have htid : (if x.tid ∈ (c.active g).map (·.tid) then f x else x).tid = x.tid := by split <;> simp [ht]
  have hfollow : s.follows c i (if x.tid ∈ (c.active g).map (·.tid) then f x else x) = s.follows c i x := by
    rw [State.follows, State.follows]
    split <;> simp [hpc]
  rw [State.departs_pc_jumps rfl rfl hi, htid, hfollow, find?_jumps]
  rw [Ctx.lane?]
  cases (c.active g).find? fun u => u.tid == x.tid <;> rfl

/-- A transfer of the shared form. -/
theorem jumpsDo_of {target : Ctx → Thread → Nat} {f : Ctx → Thread → Thread} (h : ∀ s, exec i s = runJump i g s target f)
    (ht : ∀ c x, (f c x).tid = x.tid) (hpc : ∀ c x, (f c x).pc = x.pc) : JumpsDo i g target f := by
  intro s c hc
  refine ⟨_, by rw [h, runJump, run_issues hc]; rfl, ?_⟩
  exact groupEffect_jumps (target c) (ht c) (hpc c)

/-! ## The table of JTBL (R129) -/

/-- A word that reads as `e` is the one that the jump takes. -/
theorem State.codeWord_of_readsWord {a : Nat} {e : Int} (h : ReadsWord s c a e) (k : Int → Eff) : s.codeWord c a k = k e := by
  obtain ⟨bs, hb, he⟩ := h
  rw [State.codeWord]
  simp only [hb]
  by_cases ha : a % 32 + 4 ≤ 32
  · rw [if_pos ha] at he ⊢
    rw [he]
  · rw [if_neg ha] at he ⊢
    obtain ⟨bs', hb', he'⟩ := he
    simp only [hb', he']

/-- The jumps of a list of lanes whose words can be read. -/
theorem State.tableJumps_eq {table : Nat} {idx : Thread → Nat} {e : Thread → Int} {k : List (Nat × Nat) → Eff} {ls : List Thread}
    (h : ∀ u ∈ ls, ReadsWord s c (table + 4 * idx u) (e u)) (js : List (Nat × Nat)) :
    s.tableJumps c table k (ls.map fun u => (u.tid, idx u)) js =
      k (js ++ ls.map fun u => (u.tid, (((table : Int) + e u) % (2 : Int) ^ 64).toNat)) := by
  induction ls generalizing js with
  | nil => simp [State.tableJumps]
  | cons u ls ih =>
    rw [List.map_cons, State.tableJumps, State.codeWord_of_readsWord (h u List.mem_cons_self),
      ih fun v hv => h v (List.mem_cons_of_mem _ hv)]
    simp

/-- The index of a lane into the table of JTBL. -/
def Ctx.jumpIndex (c : Ctx) (o : JtblOp) (u : Thread) : Nat := ((c.laneView u).vs o.idx).toNat

/-- The active lanes whose index lies at or beyond the entries of the table. -/
def Ctx.jumpsOutside (c : Ctx) (g : Guards) (o : JtblOp) : List Thread :=
  (c.active g).filter fun u => decide (o.entries.val ≤ c.jumpIndex o u)

/-- TABLE BOUND for those lanes. -/
def Ctx.tableFault (c : Ctx) (g : Guards) (o : JtblOp) : FaultInfo :=
  { FaultInfo.plain causeTable 0 ((c.jumpsOutside g o).map (·.tid)) with
    details := (c.jumpsOutside g o).map fun u =>
      { tid := u.tid, index := some (BitVec.ofNat 64 (c.jumpIndex o u)), faddr := none, opnd := none } }

theorem exec_jtbl_eq {o : JtblOp} (hc : CanIssue s c (.jtbl g o) g) : exec (.jtbl g o) s = s.finish c (.jtbl g o)
    (if (c.jumpsOutside g o).isEmpty then
      s.tableJumps c (relTarget c o.table) (fun js => .done s { Post.none with jumps := js })
        ((c.active g).map fun u => (u.tid, c.jumpIndex o u)) []
    else .fault (c.tableFault g o)) := by
  show execJtbl g o s = _
  rw [execJtbl, run_issues hc]
  rfl

theorem exec_jtbl_inside {o : JtblOp} {e : Thread → Int} (hc : CanIssue s c (.jtbl g o) g)
    (h : ∀ u ∈ c.active g, c.jumpIndex o u < o.entries.val ∧ ReadsWord s c (relTarget c o.table + 4 * c.jumpIndex o u) (e u)) :
    exec (.jtbl g o) s = .next (s.retire c (.jtbl g o) { Post.none with
      jumps := (c.active g).map fun u => (u.tid, (((relTarget c o.table : Int) + e u) % (2 : Int) ^ 64).toNat) }) := by
  have hin : c.jumpsOutside g o = [] := List.filter_eq_nil_iff.2 fun u hu => by simpa using (h u hu).1
  rw [exec_jtbl_eq hc, hin, if_pos List.isEmpty_nil, State.tableJumps_eq fun u hu => (h u hu).2]
  rfl

theorem exec_jtbl_outside {o : JtblOp} (hc : CanIssue s c (.jtbl g o) g) (h : ∃ u ∈ c.active g, o.entries.val ≤ c.jumpIndex o u) :
    ∃ f : FaultInfo, f.cause = causeTable ∧ f.named = (c.jumpsOutside g o).map (·.tid) ∧
      exec (.jtbl g o) s = .next (s.raise c f).tick := by
  have hout : ¬(c.jumpsOutside g o).isEmpty = true := by
    obtain ⟨u, hu, hn⟩ := h
    exact mt List.isEmpty_iff.1 (List.ne_nil_of_mem (List.mem_filter.2 ⟨hu, by simpa using hn⟩))
  refine ⟨c.tableFault g o, rfl, rfl, ?_⟩
  rw [exec_jtbl_eq hc, if_neg hout]
  rfl

/-- A jump by a signed offset. -/
theorem relTarget_eq (c : Ctx) (off : BitVec 32) : relTarget c off = (((c.g.addr.toNat : Int) + off.toInt) % 2 ^ 64).toNat := by
  norm_num [relTarget]

/-- A link is the code offset of the next instruction. -/
theorem linkOf_eq (c : Ctx) : linkOf c = BitVec.ofNat 32 ((c.g.addr.toNat + 8 + 2 ^ 57 - c.tk.entry) % 2 ^ 32) := rfl

end

/-- Settles O25: each lane jumps to its target, and JTBL to the sum of its table's address and the word. -/
theorem transfers : Obligations.Transfers := by
  unfold Obligations.Transfers
  simp only [← relTarget_eq, ← linkOf_eq, ← Ctx.jumpIndex.eq_1]
  refine ⟨fun g off => ?_, fun g d off => ?_, fun g r => ?_, fun g r => ?_, fun g d r => ?_, fun g o s c e hc h => ?_,
    fun g o s c hc h => exec_jtbl_outside hc h⟩
  · exact jumpsDo_of (fun _ => rfl) (fun _ _ => rfl) fun _ _ => rfl
  · exact jumpsDo_of (fun _ => rfl) (fun _ _ => (Thread.setReg_tid_pc ..).1) fun _ _ => (Thread.setReg_tid_pc ..).2
  · exact jumpsDo_of (fun _ => rfl) (fun _ _ => rfl) fun _ _ => rfl
  · exact jumpsDo_of (fun _ => rfl) (fun _ _ => rfl) fun _ _ => rfl
  · exact jumpsDo_of (fun _ => rfl) (fun _ _ => (Thread.setReg_tid_pc ..).1) fun _ _ => (Thread.setReg_tid_pc ..).2
  · refine ⟨_, exec_jtbl_inside hc h, ?_⟩
    have hgo := groupEffect_jumps (s := s) (c := c) (i := .jtbl g o) (g := g) (f := id)
      (fun u => (((relTarget c o.table : Int) + e u) % (2 : Int) ^ 64).toNat) (fun _ => rfl) fun _ => rfl
    simp only [State.eachLane_id, id_eq, ite_self] at hgo
    exact hgo

end Sys2Proof.Machine

/-!
The hidden state (O31): the word of an item, and what CTXWR writes of each kind of item.
-/
namespace Sys2Proof.Machine

open Sys2Proof

/-! ## The word of an item (R149) -/

theorem bitsNat_high {x : BitVec 64} : bitsNat x 32 32 = x.toNat / 2 ^ 32 := by
  have : x.toNat / 2 ^ 32 < 2 ^ 32 := by have := x.isLt; omega
  rw [bitsNat, Nat.shiftRight_eq_div_pow, Nat.mod_eq_of_lt this]

theorem Thread.ctxRep_eq (x : Thread) : x.ctxRep = (x.routine.map (·.rep)).getD x.rep := by
  unfold Thread.ctxRep
  cases x.routine <;> rfl

theorem Thread.ctxWait_eq (x : Thread) : x.ctxWait = (x.routine.map (·.wait)).getD x.wait := by
  unfold Thread.ctxWait
  cases x.routine <;> rfl

theorem markWord_eq (c : Ctx) (w : Warp) (e : Nat) (f : MarkEntry → Nat) : markWord c w e f = (w.marks[e]?).elim 0 f := by
  unfold markWord
  cases w.marks[e]? <;> rfl

theorem BarRec.toNat_word (b : BarRec) : b.word.toNat = b.rgen.toNat + if b.pending then 2 ^ 31 else 0 := by
  have := b.rgen.isLt
  rw [BarRec.word, BitVec.toNat_ofNat, Nat.mod_eq_of_lt]
  split <;> omega

/-- The model's word of an item is the one of R149. -/
theorem ctxWord_eq_itemWord (s : State) (c : Ctx) (x : Thread) (item : CtxItem) : ctxWord s c x item = itemWord s c x item := by
  cases item with
  | msdepth | nbrcnt | barcnt | bargen | tagcnt | innpos => rfl
  | msaddr e => exact markWord_eq c ..
  | msmask e => exact markWord_eq c ..
  | msmaskh e => simp only [ctxWord, itemWord, markWord_eq, bitsNat_high]
  | repcnt =>
    simp only [ctxWord, itemWord, Thread.ctxRep_eq]
    split
    · next h => simp [h]
    · omega
  | repcfg =>
    simp only [ctxWord, itemWord, Thread.ctxRep_eq]
    omega
  | wait =>
    simp only [ctxWord, itemWord, Thread.ctxWait_eq]
    cases (x.routine.map (·.wait)).getD x.wait <;> rfl
  | nbroff => rfl
  | nbroffh => exact bitsNat_high
  | barst sc => exact BarRec.toNat_word _

/-! ## CTXRD (R150) -/

theorem lanesDo_ctxrd (g : Guards) (d : RegNum) (item : CtxItem) : LanesDo (.ctxrd g { item := item, r := .vec d }) g fun s c x =>
    x.setReg d.val (BitVec.ofNat 32 (itemWord s c x item)) := by
  refine lanesDo_of (fun s => ?_) (fun _ _ _ => (Thread.setReg_tid_pc ..).1) fun _ _ _ => (Thread.setReg_tid_pc ..).2
  show execCtxrd g _ s = _
  simp only [execCtxrd, ctxWord_eq_itemWord, Thread.putRegs_one]

/-- What CTXRD writes to a warp: the word of its first active lane. -/
theorem warpsDo_ctxrd (g : Guards) (d : RegNum) (item : CtxItem) : WarpsDo (.ctxrd g { item := item, r := .sc d }) g fun s c k w =>
    w.setSreg d.val (BitVec.ofNat 32 (((c.active g).find? fun x => c.warpNo x == k).elim 0 fun x => itemWord s c x item)) := by
  intro s c hc
  refine ⟨_, by show execCtxrd g _ s = _; rw [execCtxrd, run_issues hc]; rfl, ?_⟩
  convert groupEffect_eachWarp using 4 with k w hk
  cases hl : leadOf c (c.active g) k with
  | none =>
    obtain ⟨x, hx, rfl⟩ := List.mem_map.1 (List.mem_dedup.1 hk)
    exact absurd (beq_self_eq_true _) (List.find?_eq_none.1 hl x hx)
  | some x =>
    rw [leadOf] at hl
    dsimp only
    rw [hl, ctxWord_eq_itemWord]
    rfl

/-! ## CTXWR (R150) -/

section
variable {s : State} {c : Ctx} {g : Guards} {o : CtxOp}

/-- The value that a lane writes. -/
def Ctx.itemValue (c : Ctx) (o : CtxOp) (x : Thread) : Word := (c.laneView x).vs o.r

/-- Some lane writes a wait condition that does not exist. -/
def Ctx.badWait (c : Ctx) (g : Guards) (o : CtxOp) : Bool :=
  o.item == .wait && (c.active g).any fun x => decide (6 < bitsNat (c.itemValue o x) 0 4)

/-- The last lanes of the warps whose depth would be above 8. -/
def Ctx.badDepths (c : Ctx) (g : Guards) (o : CtxOp) : List Thread :=
  (c.warps (c.active g)).filterMap fun k => (lastOfWarp c (c.active g) k).filter fun x =>
    o.item == .msdepth && decide (8 < bitsNat (c.itemValue o x) 0 4)

/-- The state after the warps' items are written. -/
def State.putWarpItems (s : State) (c : Ctx) (g : Guards) (o : CtxOp) : State :=
  s.eachWarp c (c.active g) fun k w => match lastOfWarp c (c.active g) k with
    | some x => w.putItem c.tk o.item (c.itemValue o x)
    | none => w

/-- CTXWR in a routine, by the kind of its item. -/
theorem exec_ctxwr_eq (hc : CanIssue s c (.ctxwr g o) g) (hr : c.g.inRoutine = true) :
    exec (.ctxwr g o) s = s.finish c (.ctxwr g o)
      (if o.item.perThread then
        if c.badWait g o then c.illegal 7
        else .ok (s.eachLane c (c.active g) fun x =>
          { x with routine := x.routine.map fun r => { r with staged := r.staged.put o.item (c.itemValue o x) } })
      else if !(c.badDepths g o).isEmpty then .fault (FaultInfo.plain causeJoin 0 ((c.active g).map (·.tid)))
      else match (c.active g).getLast? with
        | some x => .ok ((s.putWarpItems c g o).putShared c x o.item (c.itemValue o x))
        | none => .ok (s.putWarpItems c g o)) := by
  show execCtxwr g o s = _
  rw [execCtxwr, run_issues hc]
  simp only [hr]
  rfl

theorem exec_ctxwr_outside (hc : CanIssue s c (.ctxwr g o) g) (hr : c.g.inRoutine = false) :
    exec (.ctxwr g o) s = .next (s.raise c (FaultInfo.plain causeIllegal 7 c.g.members)).tick := by
  show execCtxwr g o s = _
  rw [execCtxwr, run_issues hc]
  simp only [hr]
  rfl

/-- A thread's item is staged. -/
theorem exec_ctxwr_thread (hc : CanIssue s c (.ctxwr g o) g) (hr : c.g.inRoutine = true) (hi : o.item.perThread = true)
    (hw : c.badWait g o = false) : exec (.ctxwr g o) s = .next ((s.eachLane c (c.active g) fun x =>
      { x with routine := x.routine.map fun r => { r with staged := r.staged.put o.item (c.itemValue o x) } }).retire c
        (.ctxwr g o) Post.none) := by
  rw [exec_ctxwr_eq hc hr, if_pos hi, hw]
  rfl

/-- An item of the warps or of the team is written at once. -/
theorem exec_ctxwr_shared (hc : CanIssue s c (.ctxwr g o) g) (hr : c.g.inRoutine = true) (hi : o.item.perThread = false)
    (hd : c.badDepths g o = []) : exec (.ctxwr g o) s = .next ((match (c.active g).getLast? with
      | some x => (s.putWarpItems c g o).putShared c x o.item (c.itemValue o x)
      | none => s.putWarpItems c g o).retire c (.ctxwr g o) Post.none) := by
  rw [exec_ctxwr_eq hc hr, hi, hd]
  cases (c.active g).getLast? <;> rfl

/-! ## Which items are written where -/

theorem Ctx.badWait_eq_false (h : o.item = .wait → ∀ x ∈ c.active g, (c.itemValue o x).toNat % 16 ≤ 6) : c.badWait g o = false := by
  rw [Ctx.badWait, Bool.and_eq_false_iff, List.any_eq_false]
  by_cases hi : o.item = .wait
  · exact .inr fun x hx => mt of_decide_eq_true (Nat.not_lt.2 (h hi x hx))
  · exact .inl (by simpa using hi)

theorem Ctx.badWait_eq_true (hi : o.item = .wait) (h : ∃ x ∈ c.active g, 6 < (c.itemValue o x).toNat % 16) : c.badWait g o = true := by
  obtain ⟨x, hx, h6⟩ := h
  rw [Ctx.badWait, Bool.and_eq_true, List.any_eq_true]
  exact ⟨by simp [hi], x, hx, decide_eq_true h6⟩

theorem Ctx.badDepths_eq_nil (h : o.item = .msdepth → ∀ k ∈ c.warps (c.active g), ∀ x ∈ lastOfWarp c (c.active g) k,
    (c.itemValue o x).toNat % 16 ≤ 8) : c.badDepths g o = [] := by
  rw [Ctx.badDepths, List.filterMap_eq_nil_iff]
  intro k hk
  rw [Option.filter_eq_none_iff]
  intro x hx hb
  obtain ⟨hi, h8⟩ := Bool.and_eq_true_iff.1 hb
  exact absurd (h (beq_iff_eq.1 hi) k hk x hx) (Nat.not_le.2 (of_decide_eq_true h8))

theorem Ctx.badDepths_ne_nil (hi : o.item = .msdepth) (h : ∃ k ∈ c.warps (c.active g), ∃ x ∈ lastOfWarp c (c.active g) k,
    8 < (c.itemValue o x).toNat % 16) : c.badDepths g o ≠ [] := by
  obtain ⟨k, hk, x, hx, h8⟩ := h
  refine List.ne_nil_of_mem (a := x) (List.mem_filterMap.2 ⟨k, hk, ?_⟩)
  rw [Option.filter_eq_some_iff]
  exact ⟨hx, Bool.and_eq_true_iff.2 ⟨beq_iff_eq.2 hi, decide_eq_true h8⟩⟩

/-- An item that is no warp's leaves the warps. -/
theorem State.putWarpItems_eq_self (h : ∀ (w : Warp) v, w.putItem c.tk o.item v = w) : s.putWarpItems c g o = s := by
  have hw (k : Nat) (w : Warp) : (match lastOfWarp c (c.active g) k with
      | some x => w.putItem c.tk o.item (c.itemValue o x)
      | none => w) = w := by
    split
    · exact h w _
    · rfl
  have hm (tm : Team) (ks : List Nat) : ks.foldl (fun (tm : Team) k => tm.modWarp k fun w => w) tm = tm := by
    induction ks generalizing tm with
    | nil => rfl
    | cons k ks ih => rw [List.foldl_cons, ih, Team.modWarp, show tm.warps.modify k (fun w => w) = tm.warps from List.modify_id ..]
  simp only [State.putWarpItems, State.eachWarp, hw, hm]
  simp [State.modTeam, mapIf]

/-- CTXWR without active lanes. -/
theorem ctxwr_idle (hc : CanIssue s c (.ctxwr g o) g) (hr : c.g.inRoutine = true) (ha : c.active g = []) :
    ∃ t, exec (.ctxwr g o) s = .next t ∧ GroupEffect s t c (s.follows c (.ctxwr g o)) id fun _ w => w := by
  cases hi : o.item.perThread with
  | true =>
    refine ⟨_, exec_ctxwr_thread hc hr hi (Ctx.badWait_eq_false fun _ => by simp [ha]), ?_⟩
    rw [ha, State.eachLane_nil]
    exact groupEffect_id s c _
  | false =>
    refine ⟨_, exec_ctxwr_shared hc hr hi (Ctx.badDepths_eq_nil fun _ => by simp [ha, Ctx.warps]), ?_⟩
    have hs : s.putWarpItems c g o = s := by
      simp [State.putWarpItems, State.eachWarp, ha, Ctx.warps, State.modTeam, mapIf]
    rw [ha, List.getLast?_nil, hs]
    exact groupEffect_id s c _

/-- CTXWR of a warp's item: the last active lane of each warp writes it. -/
theorem ctxwr_warp (hc : CanIssue s c (.ctxwr g o) g) (hr : c.g.inRoutine = true) (hi : o.item.perThread = false)
    (hd : c.badDepths g o = []) (hp : ∀ (u : State) x v, u.putShared c x o.item v = u) :
    ∃ t, exec (.ctxwr g o) s = .next t ∧ GroupEffect s t c (s.follows c (.ctxwr g o)) id fun k w =>
      match if k ∈ c.warps (c.active g) then lastOfWarp c (c.active g) k else none with
      | some x => w.putItem c.tk o.item (c.itemValue o x)
      | none => w := by
  refine ⟨_, exec_ctxwr_shared hc hr hi hd, ?_⟩
  have hs : (match (c.active g).getLast? with
      | some x => (s.putWarpItems c g o).putShared c x o.item (c.itemValue o x)
      | none => s.putWarpItems c g o) = s.putWarpItems c g o := by
    split
    · exact hp ..
    · rfl
  rw [hs]
  rw [State.putWarpItems]
  convert groupEffect_eachWarp using 3 with k w
  by_cases hk : k ∈ c.warps (c.active g) <;> simp only [hk, if_true, if_false]

/-- CTXWR of an item of the team or of a barrier: the last active lane writes it. -/
theorem exec_ctxwr_team {x : Thread} (hc : CanIssue s c (.ctxwr g o) g) (hr : c.g.inRoutine = true) (hi : o.item.perThread = false)
    (hd : o.item ≠ .msdepth) (hw : ∀ (w : Warp) v, w.putItem c.tk o.item v = w) (hx : (c.active g).getLast? = some x) :
    exec (.ctxwr g o) s = .next ((s.putShared c x o.item (c.itemValue o x)).retire c (.ctxwr g o) Post.none) := by
  rw [exec_ctxwr_shared hc hr hi (Ctx.badDepths_eq_nil fun h => absurd h hd), hx, State.putWarpItems_eq_self hw]

end

/-- Settles O31: the words are those of R149, and each kind of item is written where it stands. -/
theorem hiddenState : Obligations.HiddenState := by
  unfold Obligations.HiddenState
  refine ⟨lanesDo_ctxrd, warpsDo_ctxrd, fun g o s c hc hr => exec_ctxwr_outside hc hr, fun g o s c hc hr => ?_⟩
  intro v last lastIn
  refine ⟨fun hi hw => ?_, ctxwr_idle hc hr, fun hi hd => ?_, fun hi hd => ?_, fun hi hw => ?_, fun e hi => ?_, fun n x hi hx => ?_,
    fun sc x hi hx => ?_⟩
  · refine ⟨_, exec_ctxwr_thread hc hr hi (Ctx.badWait_eq_false hw), ?_⟩
    exact groupEffect_eachLane (fun _ => rfl) fun _ => rfl
  · obtain ⟨t, ht, he⟩ := ctxwr_warp hc hr (by rw [hi]; rfl) (Ctx.badDepths_eq_nil fun _ => hd) fun _ _ _ => by rw [hi]; rfl
    refine ⟨t, ht, ?_⟩
    simp only [hi] at he
    exact he
  · have hp : ¬o.item.perThread = true := by rw [hi]; exact Bool.false_ne_true
    rw [exec_ctxwr_eq hc hr, if_neg hp, if_pos (by simpa using Ctx.badDepths_ne_nil hi hd)]
    rfl
  · have hp : o.item.perThread = true := by rw [hi]; rfl
    rw [exec_ctxwr_eq hc hr, if_pos hp, if_pos (Ctx.badWait_eq_true hi hw)]
    rfl
  · obtain ⟨t, ht, he⟩ := ctxwr_warp hc hr (by rw [hi]; rfl) (Ctx.badDepths_eq_nil fun h => by simp [hi] at h)
      fun _ _ _ => by rw [hi]; rfl
    refine ⟨t, ht, ?_⟩
    simp only [hi] at he
    exact he
  · rw [exec_ctxwr_team hc hr (by rw [hi]; rfl) (by simp [hi]) (fun _ _ => by rw [hi]; rfl) hx, hi]
    rfl
  · rw [exec_ctxwr_team hc hr (by rcases hi with hi | hi <;> rw [hi] <;> rfl) (by rcases hi with hi | hi <;> simp [hi])
      (fun _ _ => by rcases hi with hi | hi <;> rw [hi] <;> rfl) hx]
    rcases hi with hi | hi
    · simp only [hi]
      rfl
    · simp only [hi]
      rfl

end Sys2Proof.Machine

/-!
LNCH and MGMT (O30): a field of a chain's descriptor that is set, and what the releases before the requests leave alone.
-/
namespace Sys2Proof.Machine

open Sys2Proof

/-! ## A field that is set -/

section
variable {w : Nat} (d : BitVec w) {lo n : Nat} (v : Nat)

/-- The number above, in and below the field. -/
theorem toNat_setField (h : lo + n ≤ w) : (setField d lo n v).toNat =
    2 ^ (lo + n) * (d.toNat / 2 ^ (lo + n)) + (2 ^ lo * (v % 2 ^ n) + d.toNat % 2 ^ lo) := by
  have hlow : d.toNat % 2 ^ (lo + n) = d.toNat % 2 ^ lo + 2 ^ lo * (d.toNat / 2 ^ lo % 2 ^ n) := by rw [pow_add, Nat.mod_mul]
  have hd := Nat.div_add_mod d.toNat (2 ^ (lo + n))
  have hfield : 2 ^ lo * (v % 2 ^ n) + d.toNat % 2 ^ lo < 2 ^ (lo + n) := by
    have h1 : v % 2 ^ n + 1 ≤ 2 ^ n := Nat.mod_lt _ (Nat.two_pow_pos n)
    have h2 : d.toNat % 2 ^ lo < 2 ^ lo := Nat.mod_lt _ (Nat.two_pow_pos lo)
    have h3 := Nat.mul_le_mul_left (2 ^ lo) h1
    rw [pow_add]
    linarith
  have hhigh : 2 ^ (lo + n) * (d.toNat / 2 ^ (lo + n) + 1) ≤ 2 ^ w := by
    have h1 : 2 ^ w = 2 ^ (lo + n) * 2 ^ (w - (lo + n)) := by rw [← pow_add, Nat.add_sub_cancel' h]
    rw [h1]
    refine Nat.mul_le_mul_left _ (Nat.div_lt_of_lt_mul ?_)
    rw [← h1]
    exact d.isLt
  rw [setField, bitsNat, Nat.shiftRight_eq_div_pow, BitVec.toNat_ofNat, Nat.mod_eq_of_lt]
  · rw [Nat.mul_comm (d.toNat / 2 ^ lo % 2 ^ n), Nat.mul_comm (v % 2 ^ n)]
    omega
  · rw [Nat.mul_comm (d.toNat / 2 ^ lo % 2 ^ n), Nat.mul_comm (v % 2 ^ n)]
    have : 2 ^ (lo + n) * (d.toNat / 2 ^ (lo + n) + 1) = 2 ^ (lo + n) * (d.toNat / 2 ^ (lo + n)) + 2 ^ (lo + n) := by ring
    omega

theorem getLsbD_setField (h : lo + n ≤ w) (j : Nat) :
    (setField d lo n v).getLsbD j = if lo ≤ j ∧ j < lo + n then v.testBit (j - lo) else d.getLsbD j := by
  have h2 : d.toNat % 2 ^ lo < 2 ^ lo := Nat.mod_lt _ (Nat.two_pow_pos lo)
  have hfield : 2 ^ lo * (v % 2 ^ n) + d.toNat % 2 ^ lo < 2 ^ (lo + n) := by
    have h1 : v % 2 ^ n + 1 ≤ 2 ^ n := Nat.mod_lt _ (Nat.two_pow_pos n)
    have h3 := Nat.mul_le_mul_left (2 ^ lo) h1
    rw [pow_add]
    linarith
  rw [BitVec.getLsbD, toNat_setField d v h, Nat.testBit_two_pow_mul_add _ hfield, Nat.testBit_two_pow_mul_add _ h2,
    Nat.testBit_mod_two_pow, Nat.testBit_mod_two_pow, Nat.testBit_div_two_pow, BitVec.getLsbD]
  by_cases h3 : j < lo + n
  · by_cases h4 : j < lo
    · simp [h3, h4]
    · have : j - lo < n := by omega
      simp [h3, h4, this, Nat.le_of_not_lt h4]
  · simp [h3, Nat.sub_add_cancel (Nat.le_of_not_lt h3)]

theorem bitsNat_setField (h : lo + n ≤ w) : bitsNat (setField d lo n v) lo n = v % 2 ^ n := by
  refine Nat.eq_of_testBit_eq fun j => ?_
  have hb := getLsbD_setField d v h (lo + j)
  rw [BitVec.getLsbD] at hb
  rw [bitsNat, Nat.testBit_mod_two_pow, Nat.testBit_shiftRight, hb, Nat.testBit_mod_two_pow]
  by_cases hj : j < n
  · simp [hj]
  · simp [hj]

end

/-! ## A release before a request -/

section
variable {s : State} {c : Ctx} {g : Guards}

/-- Releases are noted in the stores of the lanes alone. -/
theorem State.released_eq (s : State) (c : Ctx) (act : List Thread) : ∃ ws net, s.released c act = { s with wsStores := ws, net := net } := by
  induction act generalizing s with
  | nil => exact ⟨_, _, rfl⟩
  | cons x act ih =>
    obtain ⟨ws, net, h⟩ := ih (s.noteRelease (c.key x))
    exact ⟨ws, net, h⟩

theorem State.hostBytes_noteRelease (s : State) (k : ThreadKey) (a n : Nat) : (s.noteRelease k).hostBytes a n = s.hostBytes a n := by
  rw [State.hostBytes, State.noteRelease, List.foldl_map, State.hostBytes]
  congr 1
  funext bs m
  cases m <;> rfl

theorem State.readBytes_noteRelease (s : State) (k : ThreadKey) (p : Place) (n : Nat) :
    (s.noteRelease k).readBytes p n = s.readBytes p n := by
  unfold State.readBytes
  cases p.space with
  | dev => rfl
  | host => exact s.hostBytes_noteRelease k p.addr n
  | remote d => rfl

theorem State.codeWordNow_noteRelease (s : State) (k : ThreadKey) (tk : Task) (a : Nat) :
    (s.noteRelease k).codeWordNow tk a = s.codeWordNow tk a := by
  simp only [State.codeWordNow, State.readBytes_noteRelease]
  rfl

/-- The words of code are those of memory. -/
theorem State.peekWord_noteRelease (s : State) (k : ThreadKey) (tk : Task) (a : Nat) :
    (s.noteRelease k).peekWord tk a = s.peekWord tk a := by
  have hd : (s.noteRelease k).asDequeued tk = (s.asDequeued tk).noteRelease k := rfl
  simp only [State.peekWord, hd, State.codeWordNow_noteRelease]
  rfl

theorem State.skipPads_released (s : State) (c : Ctx) (act : List Thread) (tk : Task) (a : Nat) :
    (s.released c act).skipPads tk a = s.skipPads tk a := by
  induction act generalizing s with
  | nil => rfl
  | cons x act ih => exact (ih (s.noteRelease (c.key x))).trans (State.skipPads_congr (s.peekWord_noteRelease (c.key x) tk) a)

/-! ## LNCH (R146, R287) -/

/-- LNCH of one warp: the tail of its chain, and the status in its register. -/
def lnchWarp (c : Ctx) (o : LnchOp) (u : State) (k : Nat) : State :=
  let (st, u) := u.launchTail c ((c.tm.warp k).sreg o.a.val).toNat o.n.val
  u.modTeam c.tk.id c.tm.team fun tm => tm.modWarp k fun w => w.setSreg o.d.val (BitVec.ofNat 32 st)

theorem exec_lnch_eq {o : LnchOp} (hc : CanIssue s c (.lnch g o) g) (hr : c.g.inRoutine = false)
    (hw : releaseWaits s c (c.active g) (if o.sys then .sy else .dv) = []) :
    exec (.lnch g o) s = .next (((c.warps (c.active g)).foldl (lnchWarp c o) (s.released c (c.active g))).retire c (.lnch g o)
      Post.none) := by
  show execLnch g o s = _
  rw [execLnch, run_issues hc]
  simp only [Ctx.outsideRoutine, hr, hw, Bool.false_eq_true, if_false, Eff.ok, State.finish]
  refine congrArg (fun f => Host.Outcome.next (State.retire (List.foldl f _ _) c _ Post.none)) (funext fun u => funext fun k => ?_)
  rw [lnchWarp]

/-- A tail advance of a permitted chain with room. -/
theorem State.launchTail_advances {u : State} {chain n : Nat}
    (h : chain < 256 ∧ chainValid (u.chain chain) = true ∧ chainCtx (u.chain chain) = c.tk.ctx ∧
      chainPending (u.chain chain) + n < 2 ^ 31) :
    u.launchTail c chain n = (0, u.setChain chain (setField (u.chain chain) 288 32 (chainTail (u.chain chain) + n))) := by
  obtain ⟨h1, h2, h3, h4⟩ := h
  have ht : tailAdvance (u.chain chain) n = some (setField (u.chain chain) 288 32 (chainTail (u.chain chain) + n)) := if_pos h4
  unfold State.launchTail
  dsimp only
  rw [if_pos ⟨h1, h2, h3⟩, ht]

theorem State.launchTail_refuses {u : State} {chain n : Nat}
    (h : ¬(chain < 256 ∧ chainValid (u.chain chain) = true ∧ chainCtx (u.chain chain) = c.tk.ctx ∧
      chainPending (u.chain chain) + n < 2 ^ 31)) : u.launchTail c chain n = (1, u) := by
  unfold State.launchTail
  dsimp only
  split
  · next hp =>
    rw [tailAdvance, if_neg fun h4 => h ⟨hp.1, hp.2.1, hp.2.2, h4⟩]
  · rfl

/-! ## MGMT (R147) -/

/-- The request of each warp with an active lane. -/
def Ctx.requests (c : Ctx) (g : Guards) (o : MgmtOp) : List MgmtReq :=
  (c.warps (c.active g)).map fun k =>
    { owners := ((c.active g).filter fun x => c.warpNo x == k).map c.key, dst := o.d.val, code := o.code,
      arg := (c.tm.warp k).spair o.a.val }

/-- The lanes wait for the replies to their requests. -/
def State.requested (s : State) (c : Ctx) (g : Guards) (o : MgmtOp) : State :=
  { (s.released c (c.active g)).eachLane c (c.active g) fun x => { x with wait := .mgmt } with mgmt := s.mgmt ++ c.requests g o }

theorem exec_mgmt_eq {o : MgmtOp} (hc : CanIssue s c (.mgmt g o) g) (hw : releaseWaits s c (c.active g) .dv = []) :
    exec (.mgmt g o) s = .next ((s.requested c g o).retire c (.mgmt g o) Post.none) := by
  show execMgmt g o s = _
  rw [execMgmt, run_issues hc]
  simp only [hw]
  rfl

theorem State.skipPads_mgmt (u : State) (m : List MgmtReq) (tk : Task) (a : Nat) :
    ({ u with mgmt := m } : State).skipPads tk a = u.skipPads tk a := by
  have hp : ∀ a, ({ u with mgmt := m } : State).peekWord tk a = u.peekWord tk a := fun _ => rfl
  exact State.skipPads_congr hp a

theorem teamsAfter_mgmt (o : MgmtOp) :
    TeamsAfter s ((s.requested c g o).retire c (.mgmt g o) Post.none) c (s.follows c (.mgmt g o)) id fun _ w => w := by
  obtain ⟨ws, net, hrel⟩ := s.released_eq c (c.active g)
  have hpads (a : Nat) : (s.requested c g o).skipPads c.tk a = s.skipPads c.tk a :=
    (State.skipPads_mgmt ..).trans ((State.skipPads_modTeam ..).trans (s.skipPads_released c (c.active g) c.tk a))
  refine teamsAfter_retire (F := fun tm => tm.modThreads (fun t => ((c.active g).map (·.tid)).contains t.tid) fun x =>
    { x with wait := .mgmt }) (g := fun x => if x.tid ∈ (c.active g).map (·.tid) then { x with wait := .mgmt } else x)
    ?_ (fun a => ?_) (fun _ => ⟨rfl, fun _ _ => rfl⟩) rfl (fun x => ?_) (fun x hx => ?_) fun x hx => ?_
  · rw [State.requested, hrel]
    rfl
  · simp [Team.modThreads, mapIf]
  · split <;> rfl
  · exact if_neg fun ha => hx (Ctx.active_tid ha)
  · rw [State.departs_congr hpads]
    split
    · exact ⟨rfl, fun hi => ⟨State.departs_pc_next rfl rfl rfl hi, rfl⟩⟩
    · exact ⟨rfl, fun hi => ⟨State.departs_pc_next rfl rfl rfl hi, rfl⟩⟩

theorem threadsBecome_mgmt (o : MgmtOp) : ThreadsBecome s ((s.requested c g o).retire c (.mgmt g o) Post.none) c fun x y =>
    x.tid ∈ (c.active g).map (·.tid) → y.wait = .mgmt := by
  obtain ⟨ws, net, hrel⟩ := s.released_eq c (c.active g)
  refine lanesBecome (e := fun x => { x with wait := .mgmt }) rfl (fun _ hx => Ctx.tid_mem_of_active hx) ?_ (fun _ => rfl) fun x _ => ?_
  · rw [State.requested, hrel]
    rfl
  · exact State.wait_retireThread_issued (by simp) (by simp)

end

/-- Settles O30: LNCH warp by warp, and the requests of MGMT behind their release. -/
theorem launchAndManagement : Obligations.LaunchAndManagement := by
  unfold Obligations.LaunchAndManagement
  refine ⟨fun g o s c hc hr hw => ⟨lnchWarp c o, fun u k => ?_, exec_lnch_eq hc hr hw⟩, fun g o s c hc hw => ?_⟩
  · intro n
    split
    · next h =>
      refine ⟨_, bitsNat_setField _ _ (by decide), fun j hj => ?_, by rw [lnchWarp, State.launchTail_advances h]; rfl⟩
      rw [getLsbD_setField _ _ (by decide), if_neg (by omega)]
    · next h =>
      rw [lnchWarp, State.launchTail_refuses h]
      rfl
  · refine ⟨_, exec_mgmt_eq hc hw, ?_, ?_, teamsAfter_mgmt o, threadsBecome_mgmt o⟩
    · obtain ⟨ws, net, hrel⟩ := s.released_eq c (c.active g)
      rw [State.requested, hrel]
      rfl
    · rfl

end Sys2Proof.Machine

/-!
TRAP, BKPT and TRET (O28). A lane that enters its routine by TRAP keeps its registers, and what the entry completes in the routine's
mark stack releases other threads alone.
-/
namespace Sys2Proof.Machine

open Sys2Proof

/-! ## TRAP (R140, R392) -/

/-- The TRAP counts toward the inning of an ordered launch. -/
def trapCount (c : Ctx) (x : Thread) : Thread :=
  let pos := x.innpos + 1
  let ended := x.innEnded || decide (c.tk.inningLen ≤ pos.toNat)
  if c.tk.ordered then { x with innpos := pos, innEnded := ended, wait := if ended then .inning else x.wait } else x

theorem trapCount_keeps (c : Ctx) (x : Thread) : (trapCount c x).still = x.still ∧ (trapCount c x).rep = x.rep := by
  unfold trapCount
  dsimp only
  split <;> exact ⟨rfl, rfl⟩

/-- The start of the routine, and the fault of TRAP. -/
def State.trapStart (s : State) (c : Ctx) : Nat := s.skipPads c.tk (c.tk.entry + 8)
def trapFault (c : Ctx) (g : Guards) (n : BitVec 8) : FaultInfo :=
  { FaultInfo.plain causeTrap 0 ((c.active g).map (·.tid)) with code := n.toNat }

/-- A lane that enters its routine by TRAP. -/
def trapEntered (s : State) (c : Ctx) (g : Guards) (n : BitVec 8) (x : Thread) : Thread :=
  (trapCount c x).enterRoutine .trap (s.skipPads c.tk (c.g.addr.toNat + 8)) (s.trapStart c)
    (faultRecord c.tk c.tm.team c.g.addr.toNat (trapFault c g n) none x.tid)

theorem trapEntered_tid (s : State) (c : Ctx) (g : Guards) (n : BitVec 8) (x : Thread) : (trapEntered s c g n x).tid = x.tid :=
  (congrArg Thread.tid (trapCount_keeps c x).1 :)

/-- The group's team when the marks of its routines have lost the lanes that enter. -/
def trapMarks (c : Ctx) (g : Guards) (a : Team) : Team :=
  (c.warps (c.active g)).foldl (fun tm k => tm.freshRoutineMarks c.tk.width k ((c.active g).map (·.tid))) a

/-- The group's team after the entry of its active lanes. -/
def trapTeam (s : State) (c : Ctx) (g : Guards) (n : BitVec 8) (a : Team) : Team :=
  (trapMarks c g a).modThreads (fun t => ((c.active g).map (·.tid)).contains t.tid) (trapEntered s c g n)

/-- A team after the completion of the entries that the threads `tids` may have completed. -/
def joinedTeam (s : State) (tk : Task) (r : Bool) (tids : List Nat) (a : Team) : Team :=
  ((tids.map (warpOf tk.width)).dedup).foldl (fun tm k =>
    s.joinScan tk k r ((tids.filter fun t => warpOf tk.width t == k).map (wlaneOf tk.width)) 8 tm) a

theorem State.joinChecks_eq (s : State) (tk : Task) (team : Nat) (r : Bool) (tids : List Nat) :
    s.joinChecks tk team r tids = s.modTeam tk.id team (joinedTeam s tk r tids) := rfl

/-- How the group leaves a TRAP that enters the routine. -/
def trapPost (s : State) (c : Ctx) (g : Guards) : Post :=
  { Post.none with jumps := (c.active g).map fun u => (u.tid, s.trapStart c) }

section
variable {s : State} {c : Ctx} {g : Guards} {n : BitVec 8}

theorem trapMarks_marksOnly (a : Team) : MarksOnly a (trapMarks c g a) := by
  have h := foldl_freshRoutineMarks c.tk.width ((c.active g).map (·.tid)) a (c.warps (c.active g))
  rw [trapMarks]
  exact h.1

theorem trapMarks_eq (a : Team) : trapMarks c g a = { a with warps := (trapMarks c g a).warps } := (trapMarks_marksOnly a).1

theorem trapTeam_threads (a : Team) : (trapTeam s c g n a).threads =
    a.threads.map fun x => if x.tid ∈ (c.active g).map (·.tid) then trapEntered s c g n x else x := by
  rw [trapTeam, Team.modThreads, mapIf, trapMarks_eq]
  simp

theorem trapTeam_key (a : Team) : (trapTeam s c g n a).task = a.task ∧ (trapTeam s c g n a).team = a.team := by
  rw [trapTeam, Team.modThreads, trapMarks_eq]
  exact ⟨rfl, rfl⟩

/-- The marks that the entry completes hold no lane that enters. -/
theorem joinedTeam_trapTeam (u : State) (a : Team) : Released c.tk.width ((c.active g).map (·.tid)) (trapTeam s c g n a)
    (joinedTeam u c.tk true ((c.active g).map (·.tid)) (trapTeam s c g n a)) := by
  obtain ⟨-, hfree⟩ := foldl_freshRoutineMarks c.tk.width ((c.active g).map (·.tid)) a (c.warps (c.active g))
  refine State.foldl_joinScan_released u c.tk _ 8 _ _ fun k hk => hfree k (.inl ?_)
  rwa [List.map_map] at hk

theorem exec_trap_enters (hc : CanIssue s c (.trap g n) g) (hi : c.g.inRoutine = false) (hr : s.hasRoutine c.tk = true)
    (ha : c.active g ≠ []) : exec (.trap g n) s = .next (((s.modTeam c.tk.id c.tm.team (trapTeam s c g n)).joinChecks c.tk c.tm.team
      true ((c.active g).map (·.tid))).retire c (.trap g n) (trapPost s c g)) := by
  have hne : ¬(c.active g).isEmpty = true := mt List.isEmpty_iff.1 ha
  have hteam : s.modTeam c.tk.id c.tm.team (trapTeam s c g n) =
      (s.modTeam c.tk.id c.tm.team (trapMarks c g)).eachLane c (c.active g) (trapEntered s c g n) :=
    (State.modTeam_modTeam s c.tk.id c.tm.team (trapMarks c g)
      (fun tm => tm.modThreads (fun t => ((c.active g).map Thread.tid).contains t.tid) (trapEntered s c g n))
      fun a => by rw [trapMarks_eq]; exact ⟨rfl, rfl⟩).symm
  rw [hteam]
  show execTrap g n s = _
  rw [execTrap, run_issues hc]
  simp only [Ctx.outsideRoutine, hi, hr, if_neg hne, Bool.false_eq_true, if_false, if_true]
  rfl

theorem exec_trap_idle (hc : CanIssue s c (.trap g n) g) (hi : c.g.inRoutine = false) (ha : c.active g = []) :
    exec (.trap g n) s = .next (s.retire c (.trap g n) Post.none) := by
  show execTrap g n s = _
  rw [execTrap, run_issues hc]
  simp only [Ctx.outsideRoutine, hi, ha]
  rfl

theorem exec_trap_ends (hc : CanIssue s c (.trap g n) g) (hi : c.g.inRoutine = false) (hr : s.hasRoutine c.tk = false)
    (ha : c.active g ≠ []) : exec (.trap g n) s = .next (s.raise c (trapFault c g n)).tick := by
  have hne : ¬(c.active g).isEmpty = true := mt List.isEmpty_iff.1 ha
  show execTrap g n s = _
  rw [execTrap, run_issues hc]
  simp only [Ctx.outsideRoutine, hi, hr, if_neg hne, Bool.false_eq_true, if_false]
  rfl

/-- The threads of the group's team after the entry: those that enter, and those that it releases. -/
theorem thread?_trap {tid : Nat} {x : Thread} (hx : s.thread? { task := c.tk.id, team := c.tm.team, tid := tid } = some x) :
    ∃ z, ((s.modTeam c.tk.id c.tm.team (trapTeam s c g n)).joinChecks c.tk c.tm.team true ((c.active g).map (·.tid))).thread?
      { task := c.tk.id, team := c.tm.team, tid := tid } = some z ∧
      (x.tid ∈ (c.active g).map (·.tid) → z = trapEntered s c g n x) := by
  obtain ⟨a, ha, hax⟩ := State.exists_team?_of_thread? hx
  obtain ⟨F, hF⟩ : ∃ F, F = joinedTeam (s.modTeam c.tk.id c.tm.team (trapTeam s c g n)) c.tk true ((c.active g).map (·.tid)) :=
    ⟨_, rfl⟩
  have hrel (b : Team) : Released c.tk.width ((c.active g).map (·.tid)) (trapTeam s c g n b) (F (trapTeam s c g n b)) :=
    hF ▸ joinedTeam_trapTeam _ b
  have hkey (b : Team) : (F (trapTeam s c g n b)).task = b.task ∧ (F (trapTeam s c g n b)).team = b.team :=
    ⟨(congrArg Team.task (hrel b).frame :).trans (trapTeam_key (s := s) (n := n) b).1,
      (congrArg Team.team (hrel b).frame :).trans (trapTeam_key (s := s) (n := n) b).2⟩
  obtain ⟨γ, hγ, hx'⟩ := (hrel a).threads
  refine ⟨γ (if x.tid ∈ (c.active g).map (·.tid) then trapEntered s c g n x else x), ?_, fun hm => ?_⟩
  · rw [State.joinChecks_eq, ← hF, State.modTeam_modTeam _ _ _ _ _ trapTeam_key, State.thread?_eq_bind,
      State.team?_modTeam (f := F ∘ trapTeam s c g n) hkey, ha]
    rw [trapTeam_threads, List.map_map] at hγ
    simp only [and_self, if_true, Option.map_some, Option.bind_some, Function.comp_apply]
    rw [Team.thread?_of_map hγ (fun y => ?_), hax]
    · rfl
    · have := congrArg Thread.tid (hx' ((fun x => if x.tid ∈ (c.active g).map (·.tid) then trapEntered s c g n x else x) y)).2
      refine this.trans ?_
      dsimp only
      split <;> simp [trapEntered_tid]
  · rw [if_pos hm]
    exact (hx' _).1 (.inl (by rwa [trapEntered_tid]))

/-- A thread that enters its routine by a jump. -/
theorem State.retireThread_jumped {p : Post} {m : Nat} {j : Nat × Nat} {z : Thread} {q : ThreadKey → Bool} (hh : p.hold = [])
    (hq : p.quiet = []) (hj : (p.jumps.find? fun j => j.1 == z.tid) = some j) (hr : z.routine ≠ none) (hw : z.wait = .none) :
    let y := (s.retireThread c m p z).issued q
    y.still = z.still ∧ y.pc = BitVec.ofNat 64 (s.skipPads c.tk j.2) ∧ y.rep = z.rep ∧ y.wait = .none := by
  intro y
  have hwait : (s.retireThread c m p z).wait = .none := (State.retireThread_uncounted fun hcount => hr hcount.2.1).2.2.trans hw
  have hy : y = s.retireThread c m p z := Thread.issued_of_wait (.inl hwait)
  have hd : s.departs c m p z = { z with pc := BitVec.ofNat 64 (s.skipPads c.tk j.2) } := State.departs_jump (by simp [hh, hq]) hj
  rw [hy]
  refine ⟨State.retireThread_keeps, ?_, ?_, hwait⟩
  · exact (congrArg Thread.pc hd :)
  · exact (congrArg Thread.rep hd :)

/-- A lane after its TRAP. -/
theorem trapEntered_eq (x : Thread) : let z := trapEntered s c g n x
    z.rep = Rep.none ∧ z.wait = .none ∧ z.fault = faultRecord c.tk c.tm.team c.g.addr.toNat (trapFault c g n) none x.tid ∧
    (∃ r, z.routine = some r ∧ r.kind = .trap ∧ r.rep = x.rep ∧
      r.resume = BitVec.ofNat 64 (s.skipPads c.tk (c.g.addr.toNat + 8))) ∧
    z.regs = x.regs ∧ z.preds = x.preds ∧ z.las = x.las := by
  obtain ⟨hstill, hrep⟩ := trapCount_keeps c x
  exact ⟨rfl, rfl, rfl, ⟨_, rfl, rfl, hrep, rfl⟩, (congrArg Thread.regs hstill :), (congrArg Thread.preds hstill :),
    (congrArg Thread.las hstill :)⟩

/-- TRAP with a routine: each active lane is in it. -/
theorem trap_enters (hc : CanIssue s c (.trap g n) g) (hi : c.g.inRoutine = false) (hr : s.hasRoutine c.tk = true) :
    ∃ t, exec (.trap g n) s = .next t ∧ TeamsOnly s t ∧ ThreadsBecome s t c fun x y => x.tid ∈ (c.active g).map (·.tid) →
      y.still = (trapEntered s c g n x).still ∧ y.pc = BitVec.ofNat 64 (s.skipPads c.tk (s.trapStart c)) ∧
        y.rep = Rep.none ∧ y.wait = .none := by
  by_cases ha : c.active g = []
  · refine ⟨_, exec_trap_idle hc hi ha, rfl, fun tid x hx => ?_⟩
    rw [State.thread?_retire, hx]
    exact ⟨_, rfl, fun hm => absurd hm (by simp [ha])⟩
  · refine ⟨_, exec_trap_enters hc hi hr ha, ?_, fun tid x hx => ?_⟩
    · rw [State.joinChecks_eq, State.modTeam_modTeam _ _ _ _ _ trapTeam_key]
      exact teamsOnly_retire ..
    obtain ⟨z, hz, hzx⟩ := thread?_trap (g := g) (n := n) hx
    rw [State.thread?_retire, hz]
    refine ⟨_, rfl, fun hm => ?_⟩
    have hzx' := hzx hm
    subst hzx'
    have hmem : x.tid ∈ c.g.members := Ctx.active_tid hm
    dsimp only
    rw [if_pos ⟨rfl, rfl, by rwa [trapEntered_tid], List.not_mem_nil⟩]
    obtain ⟨u, hu, hux⟩ : ∃ u, ((c.active g).find? fun u => u.tid == x.tid) = some u ∧ u.tid = x.tid := by
      obtain ⟨v, hv, hvx⟩ := List.mem_map.1 hm
      have hs : ((c.active g).find? fun u => u.tid == x.tid).isSome = true := List.find?_isSome.2 ⟨v, hv, by simpa using hvx⟩
      obtain ⟨u, hu⟩ := Option.isSome_iff_exists.1 hs
      exact ⟨u, hu, by simpa using List.find?_some hu⟩
    have hj : ((trapPost s c g).jumps.find? fun j => j.1 == (trapEntered s c g n x).tid) = some (u.tid, s.trapStart c) := by
      rw [trapEntered_tid, trapPost, find?_jumps, hu]
      rfl
    obtain ⟨hrep, hwait, -⟩ := trapEntered_eq (s := s) (c := c) (g := g) (n := n) x
    have hdone := State.retireThread_jumped (s := (s.modTeam c.tk.id c.tm.team (trapTeam s c g n)).joinChecks c.tk c.tm.team true
      ((c.active g).map (·.tid))) (c := c) (m := instrBytes (.trap g n)) (q := (c.issuers (trapPost s c g)).contains)
      rfl rfl hj (by simp [trapEntered, Thread.enterRoutine]) hwait
    rw [State.joinChecks_eq, State.skipPads_modTeam, State.skipPads_modTeam, hrep] at hdone
    exact hdone

/-! ## BKPT (R140, R414) -/

/-- The record of a lane that stops at BKPT. -/
def bkptRecord (c : Ctx) (g : Guards) (n : BitVec 8) (tid : Nat) : BitVec 512 :=
  faultRecord c.tk c.tm.team c.g.addr.toNat { FaultInfo.plain causeBkpt 0 ((c.active g).map (·.tid)) with code := n.toNat } none tid

theorem exec_bkpt_debug (hc : CanIssue s c (.bkpt g n) g) (h : c.tk.debug = true ∧ c.g.inRoutine = false) :
    exec (.bkpt g n) s = .next (((c.active g).foldl (fun s x => s.postEvent
      { kind := 2, team := c.tm.team, value := BitVec.ofNat 64 c.tk.chain, body := bkptRecord c g n x.tid, reply := none })
      (s.eachLane c (c.active g) fun x => { x with wait := .bkpt, fault := bkptRecord c g n x.tid })).retire c (.bkpt g n)
        Post.none) := by
  show execBkpt g n s = _
  rw [execBkpt, run_issues hc, if_pos (by simp [h])]
  rfl

theorem exec_bkpt_plain (hc : CanIssue s c (.bkpt g n) g) (h : ¬(c.tk.debug = true ∧ c.g.inRoutine = false)) :
    exec (.bkpt g n) s = .next (s.retire c (.bkpt g n) Post.none) := by
  show execBkpt g n s = _
  rw [execBkpt, run_issues hc, if_neg (by simpa using h)]
  rfl

/-! ## TRET (R150, R394) -/

theorem exec_tret_returns (hc : CanIssue s c .tret Guards.always) (hi : c.g.inRoutine = true) :
    let ready := s.squadReady c.tm.core c.squad (c.threads.map c.key) ++ c.resumeReady
    let s1 := (s.eachLane c (c.active Guards.always) fun x => match x.routine with
        | some r => if r.kind = .save then { x with saved := true } else x.leaveRoutine r (ready.filter (· != c.key x)) c.tk
        | none => x).modTeam c.tk.id c.tm.team fun tm =>
      (c.warps (c.active Guards.always)).foldl (fun tm k => tm.dropRoutineMarks c.tk.width k) tm
    exec .tret s = .next (((s1.retire c .tret { Post.none with stay := c.g.members }).noteIssued (c.threads.map c.key)).resumeWaits
      c.tk c.tm.team ((c.threads.filter fun x => x.routine.any fun r => r.kind != .save).map (·.tid))) := by
  intro ready s1
  show execTret s = _
  rw [execTret, afterGroup, hc.selected, run_issues hc]
  simp only [hi, if_true, Bool.true_and]
  rfl

theorem exec_tret_outside (hc : CanIssue s c .tret Guards.always) (hi : c.g.inRoutine = false) :
    exec .tret s = .next (((s.raise c (c.illegalInfo 7)).tick.noteIssued (c.threads.map c.key)).resumeWaits c.tk c.tm.team []) := by
  show execTret s = _
  rw [execTret, afterGroup, hc.selected, run_issues hc]
  simp only [hi, Bool.false_eq_true, if_false, Bool.false_and, List.filter_false, List.map_nil]
  rfl

/-- A thread that leaves its routine with nothing staged. -/
theorem Thread.leaveRoutine_unstaged {x : Thread} {r : Routine} {o : List ThreadKey} {tk : Task} (hs : r.staged = Staged.empty)
    (hr : r.committed = false) : let y := x.leaveRoutine r o tk
    y.pc = r.resume ∧ y.rep = r.rep ∧ y.wait = (if x.innEnded = true ∧ r.wait = .none then .inning else r.wait) ∧ y.routine = none ∧
      y.regs = x.regs ∧ y.preds = x.preds ∧ y.las = x.las ∧ y.bars = x.bars ∧ y.innpos = x.innpos ∧ y.nbrcnt = x.nbrcnt ∧
      y.offer = x.offer := by
  unfold Thread.leaveRoutine
  rw [hs, hr]
  refine ⟨rfl, rfl, ?_, rfl, rfl, rfl, rfl, rfl, rfl, rfl, rfl⟩
  by_cases hw : r.wait = .none
  · simp [Staged.empty, hw]
  · simp [Staged.empty, hw]

end

/-- Settles O28: the entry by TRAP, the stop at BKPT, and the return by TRET. -/
theorem trapsAndReturns : Obligations.TrapsAndReturns := by
  unfold Obligations.TrapsAndReturns
  refine ⟨fun g n s c hc hi hr => ?_, fun g n s c hc hi hr ha => exec_trap_ends hc hi hr ha, fun g n s c hc => ?_, fun s c hc hi => ?_,
    fun s c hc hi => ?_, fun x r o tk hs hr => Thread.leaveRoutine_unstaged hs hr⟩
  · obtain ⟨t, ht, honly, hbecome⟩ := trap_enters hc hi hr
    refine ⟨t, ht, honly, fun tid x hx => ?_⟩
    obtain ⟨y, hy, hdone⟩ := hbecome tid x hx
    refine ⟨y, hy, fun hm => ?_⟩
    obtain ⟨hstill, hpc, hrep, hwait⟩ := hdone hm
    obtain ⟨-, -, hfault, hroutine, hregs, hpreds, hlas⟩ := trapEntered_eq (s := s) (c := c) (g := g) (n := n) x
    refine ⟨hpc, hrep, hwait, (congrArg Thread.fault hstill :).trans hfault, ?_, (congrArg Thread.regs hstill :).trans hregs,
      (congrArg Thread.preds hstill :).trans hpreds, (congrArg Thread.las hstill :).trans hlas⟩
    obtain ⟨r, hr', hkind⟩ := hroutine
    exact ⟨r, (congrArg Thread.routine hstill :).trans hr', hkind⟩
  · split
    · next h => exact exec_bkpt_debug hc h
    · next h => exact ⟨_, exec_bkpt_plain hc h, groupEffect_id s c _⟩
  · exact exec_tret_returns hc hi
  · exact exec_tret_outside hc hi

end Sys2Proof.Machine

/-!
NOP, YIELD, REP, INNEND, VSHRINK, VGROW and EXIT (O27).
-/
namespace Sys2Proof.Machine

open Sys2Proof

/-! ## The task and the team of the selected group -/

section
variable {s : State} {c : Ctx}

theorem State.ctx_found (h : s.ctx = some c) : s.task? c.tk.id = some c.tk ∧ s.team? c.tk.id c.tm.team = some c.tm := by
  unfold State.ctx at h
  cases hg : s.cur with
  | none => simp [hg] at h
  | some g =>
    simp only [hg] at h
    split at h
    · next tk tm htk htm =>
      cases h
      have hid : tk.id = g.task := by simpa using List.find?_some htk
      obtain ⟨-, hteam⟩ := State.team?_key htm
      exact ⟨hid ▸ htk, by rw [hid, hteam]; exact htm⟩
    · cases h

theorem State.ctx_task (h : s.ctx = some c) : c.tm.task = c.tk.id := (State.team?_key (State.ctx_found h).2).1

/-! ## YIELD (R135) -/

theorem State.squadReady_not_mem {core squad : Nat} {but : List ThreadKey} {k : ThreadKey} (h : k ∈ s.squadReady core squad but) :
    k ∉ but := by
  obtain ⟨a, -, hk⟩ := List.mem_flatMap.1 h
  split at hk
  · cases hk
  · simpa using (List.mem_filter.1 hk).2

/-- Where every member of the group is a thread of its team, the group's threads have issued and no others. -/
theorem Ctx.issuers_subset {p : Post} {k : ThreadKey} (ht : c.tm.task = c.tk.id) (hm : ∀ m ∈ c.g.members, (c.tm.thread? m).isSome = true)
    (hk : k ∈ c.issuers p) : k ∈ c.threads.map c.key := by
  obtain ⟨h1, h2, h3, -⟩ := Ctx.mem_issuers.1 hk
  obtain ⟨x, hx⟩ := Option.isSome_iff_exists.1 (hm _ h3)
  have hkey : c.key x = k := by
    obtain ⟨a, b, m⟩ := k
    simp only [Ctx.key, Thread.key, Team.thread?_tid hx, ht]
    rw [← h1, ← h2]
  exact List.mem_map.2 ⟨x, List.mem_filterMap.2 ⟨_, h3, hx⟩, hkey⟩

/-- A thread that waits for others alone sees none of its own group issue. -/
theorem Thread.issued_disjoint {x : Thread} {q : ThreadKey → Bool} {o : List ThreadKey} (hw : x.wait = .yield o) (ho : o ≠ [])
    (hd : ∀ k ∈ o, q k = false) : (x.issued q).wait = .yield o := by
  have hall : o.all q = false := by
    obtain ⟨k, o', rfl⟩ := List.exists_cons_of_ne_nil ho
    simp [hd k List.mem_cons_self]
  have hkeep : o.filter (fun k => !q k) = o := List.filter_eq_self.2 fun k hk => by simp [hd k hk]
  simp [Thread.issued, hw, hall, hkeep]

/-- A lane that YIELD makes wait. -/
def yielding (s : State) (c : Ctx) (x : Thread) : Thread :=
  { x with wait := if (s.squadReady c.tm.core c.squad (c.threads.map c.key)).isEmpty then .none
                   else .yield (s.squadReady c.tm.core c.squad (c.threads.map c.key)) }

/-- How the group leaves a YIELD. -/
def yieldPost (c : Ctx) (g : Guards) : Post := { Post.none with yields := (c.active g).map (·.tid) }

theorem exec_yield {g : Guards} (hc : CanIssue s c (.yield g) g) :
    exec (.yield g) s = .next ((s.eachLane c (c.active g) (yielding s c)).retire c (.yield g) (yieldPost c g)) := by
  show execYield g s = _
  rw [execYield, run_issues hc]
  rfl

theorem yield_becomes {g : Guards} (hc : CanIssue s c (.yield g) g) (hu : c.tk.ordered = false)
    (hm : ∀ m ∈ c.g.members, (c.tm.thread? m).isSome = true) :
    ThreadsBecome s ((s.eachLane c (c.active g) (yielding s c)).retire c (.yield g) (yieldPost c g)) c fun x y =>
      x.tid ∈ (c.active g).map (·.tid) → y.atYield = true ∧
        y.wait = if s.squadReady c.tm.core c.squad (c.threads.map c.key) = [] then .none
          else .yield (s.squadReady c.tm.core c.squad (c.threads.map c.key)) := by
  obtain ⟨o, ho⟩ : ∃ o, o = s.squadReady c.tm.core c.squad (c.threads.map c.key) := ⟨_, rfl⟩
  refine lanesBecome rfl (fun x hx => Ctx.tid_mem_of_active hx) rfl (fun _ => rfl) fun x hx => ⟨?_, ?_⟩
  · rw [Thread.issued_bystander]
    exact List.contains_iff_mem.2 hx
  · rw [← ho]
    have hz : (yielding s c x).wait = if o.isEmpty then .none else .yield o := by rw [yielding, ← ho]
    have hw := (State.retireThread_uncounted (s := s.eachLane c (c.active g) (yielding s c)) (n := instrBytes (.yield g))
      (p := yieldPost c g) (x := yielding s c x) fun h => Bool.false_ne_true (hu.symm.trans h.1)).2.2
    by_cases hnil : o = []
    · rw [hnil, List.isEmpty_nil, if_pos rfl] at hz
      rw [Thread.issued_of_wait (.inl (hw.trans hz)), if_pos hnil, hw, hz]
    · rw [if_neg (mt List.isEmpty_iff.1 hnil)] at hz
      rw [if_neg hnil]
      refine Thread.issued_disjoint (hw.trans hz) hnil fun k hk => Bool.eq_false_iff.2 fun hq => ?_
      exact State.squadReady_not_mem (ho ▸ hk) (Ctx.issuers_subset (State.ctx_task hc.selected) hm (by simpa using hq))

/-! ## REP (R137) -/

/-- How often REP repeats the instruction. -/
def repCount (c : Ctx) (o : RepOp) (x : Thread) : Nat :=
  match o.count with
  | .imm n => n.val
  | .sc r => ((c.warp x).sreg r.val).toNat % 65536

theorem repCount_tid {o : RepOp} {x y : Thread} (h : x.tid = y.tid) : repCount c o x = repCount c o y := by
  unfold repCount
  rw [Ctx.warp, Ctx.warpNo, h, ← Ctx.warpNo, ← Ctx.warp]

/-- The jump of a lane, where the lanes of a count of 0 alone jump. -/
theorem find?_counted {n : Thread → Nat} (hn : ∀ x y : Thread, x.tid = y.tid → n x = n y) (act : List Thread) (x : Thread) :
    ((act.filter fun u => n u == 0).find? fun u => u.tid == x.tid) = if n x = 0 then act.find? fun u => u.tid == x.tid else none := by
  rw [List.find?_filter]
  split
  · next h =>
    congr 1
    funext u
    by_cases hu : u.tid = x.tid
    · simp [hu, hn u x hu, h]
    · simp [hu]
  · next h =>
    rw [List.find?_eq_none]
    intro u _ hu
    obtain ⟨h0, hx⟩ := of_decide_eq_true hu
    exact h ((hn u x (by simpa using hx)).symm.trans (by simpa using h0))

/-- A lane that begins to repeat. -/
def repeating (c : Ctx) (o : RepOp) (x : Thread) : Thread :=
  { x with rep := { remaining := BitVec.ofNat 16 (repCount c o x), iter := 0, stride := BitVec.ofNat 8 o.stride.val, mask := o.mask } }

/-- The address after the instruction that REP repeats. -/
def State.afterRepeated (s : State) (c : Ctx) : Nat := s.afterInstr c.tk (s.skipPads c.tk (c.g.addr.toNat + 8))

/-- How the group leaves a REP. -/
def repPost (s : State) (c : Ctx) (g : Guards) (o : RepOp) : Post :=
  { Post.none with jumps := ((c.active g).filter fun u => repCount c o u == 0).map fun u => (u.tid, s.afterRepeated c) }

theorem exec_rep {g : Guards} {o : RepOp} (hc : CanIssue s c (.rep g o) g) :
    exec (.rep g o) s = .next ((s.eachLane c (c.active g) fun x => if repCount c o x = 0 then x else repeating c o x).retire c
      (.rep g o) (repPost s c g o)) := by
  show execRep g o s = _
  rw [execRep, run_issues hc]
  rfl

theorem groupEffect_rep {g : Guards} {o : RepOp} :
    GroupEffect s ((s.eachLane c (c.active g) fun x => if repCount c o x = 0 then x else repeating c o x).retire c (.rep g o)
      (repPost s c g o)) c
      (fun x => match c.lane? g x with
        | some u => if repCount c o u = 0 then s.skipPads c.tk (s.afterRepeated c) else s.follows c (.rep g o) x
        | none => s.follows c (.rep g o) x)
      (fun x => if x.tid ∈ (c.active g).map (·.tid) ∧ repCount c o x ≠ 0 then repeating c o x else x) fun _ w => w := by
  refine groupEffect_lanes rfl (fun x hx => Ctx.tid_mem_of_active hx) (fun x => by split <;> rfl) ?_
  intro x y _ hy
  have hy' : y = if x.tid ∈ (c.active g).map (·.tid) ∧ repCount c o x ≠ 0 then repeating c o x else x := by
    rw [hy]
    by_cases h0 : repCount c o x = 0 <;> simp [h0]
  have htid : y.tid = x.tid := by rw [hy']; split <;> rfl
  have hpc : y.pc = x.pc := by rw [hy']; split <;> rfl
  refine ⟨by rw [hy'], fun hi => ⟨?_, by rw [hy']⟩⟩
  rw [State.departs_pc_jumps rfl rfl hi, repPost, htid, find?_jumps, find?_counted fun _ _ h => repCount_tid h]
  have hfollow : s.follows c (.rep g o) y = s.follows c (.rep g o) x := by rw [State.follows, hpc, State.follows]
  rw [hfollow, Ctx.lane?]
  cases hu : (c.active g).find? fun u => u.tid == x.tid with
  | none => simp
  | some u =>
    have hux : u.tid = x.tid := by simpa using List.find?_some hu
    have hn : repCount c o u = repCount c o x := repCount_tid hux
    by_cases h0 : repCount c o x = 0 <;> simp [h0, hn]

/-! ## INNEND, VSHRINK and VGROW (R144, R145) -/

theorem exec_innend {g : Guards} (hc : CanIssue s c (.innend g) g) (hi : c.g.inRoutine = false) :
    exec (.innend g) s = .next ((if c.tk.ordered then s.eachLane c (c.active g) fun x => { x with innEnded := true } else s).retire c
      (.innend g) Post.none) := by
  show execInnend g s = _
  rw [execInnend, run_issues hc, Ctx.outsideRoutine, hi]
  rfl

/-- A thread whose inning has ended keeps that. -/
theorem State.innEnded_retireThread_issued {n : Nat} {p : Post} {x : Thread} {q : ThreadKey → Bool} (h : x.innEnded = true) :
    ((s.retireThread c n p x).issued q).innEnded = true := by
  rw [Thread.issued_bystander]
  simp [State.retireThread, h]

/-- A lane that VSHRINK leaves. -/
def shrunk (m : Nat) (x : Thread) : Thread := if m < x.vallot then x.dropRegs m else x

/-- The lanes whose registers from `m` up await data. -/
def State.shrinkBusy (s : State) (c : Ctx) (act : List Thread) (m : Nat) : List Thread :=
  act.filter fun x => decide (m < x.vallot) && (s.pendingDests (c.key x) (c.warp x).queue).any fun d => match d with
    | .regs r w => rangesMeet r w.regs m (x.vallot - m)
    | .la _ => false

theorem State.shrinkBusy_nil {act : List Thread} {m : Nat} (h : ∀ x ∈ act, m < x.vallot →
    ∀ d ∈ s.pendingDests (c.key x) (c.warp x).queue, ∀ r w, d = .regs r w → rangesMeet r w.regs m (x.vallot - m) = false) :
    s.shrinkBusy c act m = [] := by
  rw [State.shrinkBusy, List.filter_eq_nil_iff]
  intro x hx hb
  obtain ⟨hm, hd⟩ := Bool.and_eq_true_iff.1 hb
  obtain ⟨d, hdm, hmeet⟩ := List.any_eq_true.1 hd
  cases d with
  | regs r w => exact absurd hmeet (by simp [h x hx (of_decide_eq_true hm) _ hdm r w rfl])
  | la => cases hmeet

theorem exec_vshrink {g : Guards} {n : Fin 33} (hc : CanIssue s c (.vshrink g n) g) (hi : c.g.inRoutine = false)
    (hfree : s.shrinkBusy c (c.active g) (8 * n.val) = []) :
    exec (.vshrink g n) s = .next ((s.eachLane c (c.active g) (shrunk (8 * n.val))).retire c (.vshrink g n) Post.none) := by
  have hrun : exec (.vshrink g n) s = s.finish c (.vshrink g n) (match (s.shrinkBusy c (c.active g) (8 * n.val)).map (·.tid) with
      | [] => .ok (s.eachLane c (c.active g) (shrunk (8 * n.val)))
      | ts => .stall ts) := by
    show execVshrink g n s = _
    rw [execVshrink, run_issues hc, Ctx.outsideRoutine, hi]
    rfl
  rw [hrun, hfree]
  rfl

/-- A lane that VGROW leaves. -/
def grown (s : State) (c : Ctx) (m : Nat) (x : Thread) : Thread :=
  if m ≤ x.vallot then x
  else if s.rowsLent c.tm (squadOf c.tk.width x.tid) m then { x with wait := .vgrow m } else { x with vallot := m }

theorem exec_vgrow {g : Guards} {n : Fin 33} (hc : CanIssue s c (.vgrow g n) g) (hi : c.g.inRoutine = false) :
    exec (.vgrow g n) s = .next ((s.eachLane c (c.active g) (grown s c (min (8 * n.val) c.tk.vregs))).retire c (.vgrow g n)
      Post.none) := by
  show execVgrow g n s = _
  rw [execVgrow, run_issues hc, Ctx.outsideRoutine, hi]
  rfl

theorem grown_tid_pc (m : Nat) (x : Thread) : (grown s c m x).tid = x.tid ∧ (grown s c m x).pc = x.pc := by
  unfold grown
  split
  · exact ⟨rfl, rfl⟩
  · split <;> exact ⟨rfl, rfl⟩

theorem grown_still (m : Nat) (x : Thread) : (grown s c m x).rep = x.rep ∧
    (grown s c m x).still = (if x.vallot < m ∧ s.rowsLent c.tm (squadOf c.tk.width x.tid) m = false then
      { x with vallot := m } else x).still := by
  unfold grown
  by_cases hm : m ≤ x.vallot
  · simp [hm, Nat.not_lt.2 hm]
  · cases hr : s.rowsLent c.tm (squadOf c.tk.width x.tid) m with
    | false => simp [hm, Nat.not_le.1 hm]
    | true => simp [hm, Thread.still]

theorem State.rowsLent_iff (tm : Team) (q m : Nat) : s.rowsLent tm q m = true ↔
    tm.borrower = false ∧ ∃ x ∈ s.teams, x.core = tm.core ∧ x.borrower = true ∧ x.lentAbove.getD q 0 < m := by
  simp [State.rowsLent, and_assoc]

/-! ## EXIT (R133) -/

theorem exec_exit {g : Guards} (hc : CanIssue s c (.exit g) g) :
    let s1 := (c.active g).foldl (fun s x => [0, 1, 2, 3, 4].foldl (fun s sc => s.withdraw c.tk c.tm.team x sc) s) s
    exec (.exit g) s = .next (State.afterExit
      ((s1.eachLane c (c.active g) fun x => { x with exited := true, wait := .none, rep := Rep.none, innEnded := true }).retire
        c (.exit g) { Post.none with hold := (c.active g).map (·.tid) }) c.tk c.tm.team ((c.active g).map (·.tid))) := by
  intro s1
  show execExit g s = _
  rw [execExit, afterGroup, hc.selected, run_issues hc]
  rfl

end

end Sys2Proof.Machine

/-!
The neighbour exchanges, and the instructions of a thread's own progress (O27).
-/
namespace Sys2Proof.Machine

open Sys2Proof

/-! ## The chain of a club (R123) -/

/-- The neighbour at position `p` of a chain of `4 * n` threads. -/
theorem chain_place {n p : Nat} (b : Nat) (hp : p < 4 * n) {q : Int} (hq : q = p) (gs : Nat) :
    (if 0 ≤ q ∧ q < 4 * (n : Int) ∧ b + (q / n).toNat < gs then some (b + (q / n).toNat, (q % n).toNat) else none) =
      if b + p / n < gs then some (b + p / n, p % n) else none := by
  subst hq
  have h1 : ((p : Int) / n).toNat = p / n := by rw [← Int.natCast_ediv, Int.toNat_natCast]
  have h2 : ((p : Int) % n).toNat = p % n := by rw [← Int.natCast_emod, Int.toNat_natCast]
  have h3 : (0 : Int) ≤ p ∧ (p : Int) < 4 * (n : Int) := by omega
  simp [h1, h2, h3]

theorem neighbour_eq {tk : Task} {team tid : Nat} (left : Bool) (hteam : team < tk.gridSize) (htid : tid < tk.threads) :
    neighbour tk team tid left = chainNeighbour tk team tid left := by
  obtain ⟨n, hn⟩ : ∃ n, n = tk.threads := ⟨_, rfl⟩
  obtain ⟨p, hp⟩ : ∃ p, p = team % 4 * n + tid := ⟨_, rfl⟩
  have hlt : p < 4 * n := by
    have : team % 4 * n ≤ 3 * n := Nat.mul_le_mul_right _ (by omega)
    omega
  have hpos : (team % 4 : Nat) * (n : Int) + tid = p := by rw [hp]; push_cast; rfl
  unfold neighbour chainNeighbour
  dsimp only
  rw [← hn, hpos, ← hp]
  cases left with
  | true =>
    simp only [if_true]
    by_cases h0 : p = 0
    · subst h0
      simp
    · rw [if_neg h0, chain_place (p := p - 1) _ (by omega) (by omega), if_pos]
      have : (p - 1) / n < team % 4 + 1 := by
        refine Nat.div_lt_of_lt_mul ?_
        rw [Nat.mul_comm, Nat.add_mul]
        omega
      omega
  | false =>
    simp only [Bool.false_eq_true, if_false]
    by_cases h4 : 4 * n ≤ p + 1
    · rw [if_pos h4, if_neg (by omega)]
    · rw [if_neg h4, chain_place (p := p + 1) _ (by omega) (by omega)]

/-! ## Offers (R124) -/

section
variable {s : State} {tk : Task} {n : BitVec 32}

/-- A neighbour's offer that has been made, or that need not be, is there to be taken. -/
theorem State.offerOf_of_offered {v : BitVec 64} {nb : Option (Nat × Nat)} (h : Offered s tk n v nb) :
    ∃ o, s.offerOf tk nb n = some o ∧ o.val = v := by
  cases nb with
  | none => exact ⟨_, rfl, h.symm⟩
  | some k =>
    obtain ⟨os, hos⟩ : ∃ os, os = tk.offersOf k.1 k.2 := ⟨_, rfl⟩
    have hread : s.offerOf tk (some k) n = if os.made = n then some os.last else if os.made = n + 1 then some os.prev
        else if 0 < (os.made - n).toInt then some { val := Config.freeOffer (s.key (k.1 * tk.threads + k.2)), pair := true }
        else if s.hasExited tk k.1 k.2 then some Offer.zero else none := by rw [hos]; rfl
    have hmade : (os.made = n ∧ v = os.last.val) ∨ (os.made = n + 1 ∧ v = os.prev.val) ∨
        ((os.made - n).toInt < 0 ∧ s.hasExited tk k.1 k.2 = true ∧ v = 0) := by rw [hos]; exact h
    rw [hread]
    obtain ⟨h1, rfl⟩ | ⟨h1, rfl⟩ | ⟨h1, hex, rfl⟩ := hmade
    · exact ⟨_, if_pos h1, rfl⟩
    · have hne : os.made ≠ n := by bv_omega
      exact ⟨_, by rw [if_neg hne, if_pos h1], rfl⟩
    · have hne : os.made ≠ n := by rintro rfl; simp at h1
      have hne' : os.made ≠ n + 1 := by
        intro h
        rw [h, BitVec.add_comm, BitVec.add_sub_cancel] at h1
        exact absurd h1 (by decide)
      exact ⟨_, by rw [if_neg hne, if_neg hne', if_neg (by omega), if_pos hex], rfl⟩

/-- What a lane of a one-word exchange takes from its neighbour. -/
theorem State.takeOffer_eq {a : Team} {x : Thread} {g : Guards} {o : LaneOp} {left : Bool} {v : BitVec 64} (hp : o.pair = false)
    (h : Offered s tk (x.nbrcnt + 1) v (neighbour tk a.team x.tid left)) :
    ((guardHolds g.g1 x = true ∧ guardHolds g.g2 x = true) → s.takeOffer tk a x g o left = x.setReg o.d.val (v.setWidth 32)) ∧
    (¬(guardHolds g.g1 x = true ∧ guardHolds g.g2 x = true) → s.takeOffer tk a x g o left = x) := by
  obtain ⟨u, hu, rfl⟩ := State.offerOf_of_offered h
  rw [State.takeOffer, hu]
  refine ⟨fun hg => ?_, fun hg => if_neg (by simpa using hg)⟩
  rw [if_pos (by simpa using hg), hp]
  exact congrArg (x.setReg o.d.val) (BitVec.ofNat_toNat ..)

/-- The exchange of an NBRL or NBRR with both offers there completes. -/
theorem State.endExchange_of {a : Team} {x : Thread} {g : Guards} {o : LaneOp} {left : Bool}
    (hi : s.instrAt tk a x = some (if left then .nbrl g o else .nbrr g o)) :
    s.endExchange tk a x = { (s.advance tk 8 (x.rep.remaining ≠ 0) (s.takeOffer tk a x g o left)).ready with
      nbrcnt := x.nbrcnt + 1, offer := 0 } := by
  have hb : (x.rep.remaining != 0) = decide (x.rep.remaining ≠ 0) := by
    rw [Bool.eq_iff_iff]
    simp
  rw [State.endExchange, hi, hb]
  cases left <;> rfl

/-- Every exchange of a linked task that can complete does. -/
theorem State.sweepExchanges_eq {id : Nat} (ht : s.task? id = some tk) (hl : tk.linked = true) :
    s.sweepExchanges id = { s with teams := s.teams.map fun a => if a.task = id then { a with
      threads := a.threads.map fun x => if x.wait = .nbr ∧ x.exited = false ∧ s.exchangeDone tk a.team x = true
        then s.endExchange tk a x else x } else a } := by
  rw [State.sweepExchanges, ht]
  simp only [hl, if_true, mapIf, Team.modThreads, beq_iff_eq, Bool.and_eq_true, Bool.not_eq_true', and_assoc]

theorem State.exchangeDone_of {team : Nat} {x : Thread} {l r : BitVec 64}
    (hl : Offered s tk (x.nbrcnt + 1) l (neighbour tk team x.tid true))
    (hr : Offered s tk (x.nbrcnt + 1) r (neighbour tk team x.tid false)) : s.exchangeDone tk team x = true := by
  obtain ⟨u, hu, -⟩ := State.offerOf_of_offered hl
  obtain ⟨v, hv, -⟩ := State.offerOf_of_offered hr
  unfold State.exchangeDone
  dsimp only
  rw [hu, hv]
  rfl

end

/-! ## NBRL and NBRR -/

theorem exec_exchange {s : State} {c : Ctx} {g : Guards} {o : LaneOp} (left : Bool) :
    let i : Instr := if left then .nbrl g o else .nbrr g o
    CanIssue s c i g → c.tk.linked = true → c.g.inRoutine = false →
    let offer := fun (x : Thread) => BitVec.ofNat 64 (readRegs x.reg o.a.val (pairRegs o.pair))
    let s1 := c.threads.foldl (fun s x => s.modTask c.tk.id fun tk =>
      tk.putOffer c.tm.team x.tid (x.nbrcnt + 1) { val := offer x, pair := o.pair }) s
    let again := c.threads.filter fun x => (c.tk.offersOf c.tm.team x.tid).made == x.nbrcnt + 1
    exec i s = .next (((s1.eachLane c c.threads fun x =>
        { x with wait := .nbr, offer := offer x, innEnded := x.innEnded || c.tk.ordered }).sweepExchanges c.tk.id).retire c i
          { Post.none with hold := c.g.members, quiet := again.map (·.tid) }) := by
  intro i hc hl hi offer s1 again
  have hrun : exec i s = runExchange i g o s := by cases left <;> rfl
  rw [hrun, runExchange, run_issues hc, hl, hi]
  rfl

/-- Settles O27: the group's progress, the allotments, and the exchanges. -/
theorem threadProgress : Obligations.ThreadProgress := by
  unfold Obligations.ThreadProgress
  refine ⟨fun g s c hc => ?_, fun g s c hc => ?_, fun g o s c hc => ?_, fun g s c hc hi => ?_, fun g n s c hc hi hfree => ?_,
    fun g n s c hc hi => ?_, fun s tm q m => State.rowsLent_iff tm q m, fun g s c hc => exec_exit hc,
    fun g o left s c => exec_exchange left, fun tk team tid left => neighbour_eq left, fun s id tk ht hl => ?_⟩
  · refine ⟨s.retire c (.nop g) Post.none, ?_, groupEffect_id s c _⟩
    show execNop g s = _
    rw [execNop, run_issues hc]
    rfl
  · intro o
    exact ⟨_, exec_yield hc, rfl, groupEffect_next rfl rfl rfl rfl (fun _ => rfl) (fun _ => rfl) (fun _ _ => ⟨rfl, rfl⟩)
      fun _ _ => rfl, fun hu hm => yield_becomes hc hu hm⟩
  · exact ⟨_, exec_rep hc, groupEffect_rep⟩
  · refine ⟨_, exec_innend hc hi, ?_⟩
    by_cases ho : c.tk.ordered = true
    · rw [if_pos ho]
      refine ⟨groupEffect_next rfl rfl rfl rfl (fun _ => rfl) (fun _ => rfl) (fun _ _ => ⟨rfl, rfl⟩) fun _ _ => rfl, fun _ => ?_⟩
      refine lanesBecome rfl (fun x hx => Ctx.tid_mem_of_active hx) rfl (fun _ => rfl) fun x hx => ?_
      exact State.innEnded_retireThread_issued rfl
    · rw [if_neg ho]
      exact ⟨groupEffect_id s c _, fun h => absurd h ho⟩
  · refine ⟨_, exec_vshrink hc hi (State.shrinkBusy_nil hfree), groupEffect_next rfl rfl rfl rfl ?_ ?_ (fun x hx => ?_) fun x hx => ?_⟩
    · exact fun x => by rw [shrunk]; split <;> rfl
    · exact fun x => by rw [shrunk]; split <;> rfl
    · simp only [hx, true_and, shrunk]
      split <;> exact ⟨rfl, rfl⟩
    · exact if_neg fun h => hx h.1
  · intro m
    refine ⟨_, exec_vgrow hc hi, groupEffect_next rfl rfl rfl rfl (fun x => (grown_tid_pc _ x).1) (fun x => (grown_tid_pc _ x).2)
      (fun x hx => ?_) (fun x hx => if_neg fun h => hx h.1), ?_⟩
    · simp only [hx, true_and]
      exact ⟨(grown_still _ x).2, by rw [(grown_still _ x).1]; split <;> rfl⟩
    · refine lanesBecome rfl (fun x hx => Ctx.tid_mem_of_active hx) rfl (fun x => (grown_tid_pc _ x).1) fun x hx hm hr => ?_
      have hz : (grown s c (min (8 * n.val) c.tk.vregs) x).wait = .vgrow m := by rw [grown, if_neg (Nat.not_le.2 hm), if_pos hr]
      exact (State.wait_retireThread_issued (by simp [hz]) (by simp [hz])).trans hz
  · rw [State.sweepExchanges_eq ht hl]
    refine ⟨_, rfl, rfl, ?_⟩
    rw [List.forall₂_map_right_iff, List.forall₂_same]
    refine fun a _ => ⟨fun h => if_neg h, fun h => ?_⟩
    rw [if_pos h]
    refine ⟨rfl, ?_⟩
    rw [List.forall₂_map_right_iff, List.forall₂_same]
    refine fun x _ => ⟨fun hn => if_neg ?_, fun hw hx l r hl hr g o hp => ?_⟩
    · rintro ⟨h1, h2, -⟩
      exact hn.elim (fun h => h h1) fun h => by simp [h2] at h
    rw [if_pos ⟨hw, hx, State.exchangeDone_of hl hr⟩]
    refine ⟨fun hi => ?_, fun hi => ?_⟩
    · have hend := State.endExchange_of (left := true) hi
      obtain ⟨h1, h2⟩ := State.takeOffer_eq (g := g) hp hl
      exact ⟨fun hg => by rw [hend, h1 hg], fun hg => by rw [hend, h2 hg]⟩
    · have hend := State.endExchange_of (left := false) hi
      obtain ⟨h1, h2⟩ := State.takeOffer_eq (g := g) hp hr
      exact ⟨fun hg => by rw [hend, h1 hg], fun hg => by rw [hend, h2 hg]⟩

end Sys2Proof.Machine

/-!
MARK and JOIN (O26). Where no entry of a stack is complete, examining it changes nothing; the newest entry, once complete, is left
alone where each older one still has a live member that the newest releases.
-/
namespace Sys2Proof.Machine

open Sys2Proof

/-! ## The entries of a stack (R132) -/

section
variable {w k : Nat} {r : Bool} {e : MarkEntry} {st : List MarkEntry}

theorem entryDone_iff {ts : List Thread} : entryDone w k r ts st e = true ↔ e.mask ≠ 0 ∧ ∀ l < w, e.mask.getLsbD l = true →
    ∀ x, ts.find? (fun x => x.tid == k * w + l) = some x →
      x.exited = true ∨ (x.routine.isSome = r ∧ x.wait = .join ∧ topEntry st l = some e) := by
  rw [entryDone, Bool.and_eq_true, List.all_eq_true, bne_iff_ne]
  refine and_congr_right fun _ => forall_congr' fun l => ?_
  rw [List.mem_range]
  refine imp_congr_right fun _ => ?_
  cases hb : e.mask.getLsbD l with
  | false => simp [bitAt, hb]
  | true =>
    cases hx : ts.find? fun x => x.tid == k * w + l with
    | none => simp [bitAt, hb]
    | some x => simp [bitAt, hb, arrivedAt]

theorem rejoinsAt_iff {tm : Team} {x : Thread} {a : BitVec 64} : rejoinsAt w tm r x a = true ↔
    ∃ e, topEntry ((tm.warp (warpOf w x.tid)).stack r) (wlaneOf w x.tid) = some e ∧ e.rejoin = a := by
  simp [rejoinsAt, Option.any_eq_true]

/-- The newest entry is on top in each of its lanes. -/
theorem topEntry_newest {l : Nat} (h : e.mask.getLsbD l = true) : topEntry (st ++ [e]) l = some e := by
  simp [topEntry, bitAt, h]

/-- An entry with a live member that does not wait in a JOIN is not complete. -/
theorem entryDone_false {ts : List Thread} {x : Thread} {l : Nat} (hl : l < w) (hb : e.mask.getLsbD l = true)
    (hx : ts.find? (fun x => x.tid == k * w + l) = some x) (hex : x.exited = false) (hw : x.wait ≠ .join) :
    entryDone w k r ts st e = false := by
  refine Bool.eq_false_iff.2 fun h => ?_
  rcases (entryDone_iff.1 h).2 l hl hb x hx with h | ⟨-, h, -⟩
  · simp [hex] at h
  · exact hw h

/-- Whether an entry is complete depends on the waits, the routines and the exits of the threads alone. -/
theorem entryDone_congr {f g : Thread → Thread} {ts : List Thread} (hf : ∀ x, (f x).tid = x.tid) (hg : ∀ x, (g x).tid = x.tid)
    (h : ∀ x, (f x).exited = (g x).exited ∧ (f x).routine = (g x).routine ∧ (f x).wait = (g x).wait) :
    entryDone w k r (ts.map f) st e = entryDone w k r (ts.map g) st e := by
  have hfind {f : Thread → Thread} (hf : ∀ x, (f x).tid = x.tid) (m : Nat) :
      (ts.map f).find? (fun x => x.tid == m) = (ts.find? fun x => x.tid == m).map f := by
    rw [List.find?_map]
    congr 1
    exact congrArg (List.find? · ts) (funext fun x => by simp [hf])
  rw [Bool.eq_iff_iff, entryDone_iff, entryDone_iff]
  simp only [hfind hf, hfind hg, Option.map_eq_some_iff, forall_exists_index, and_imp, forall_apply_eq_imp_iff₂, h]

/-- The newest complete entry, where it is the newest of all. -/
theorem find?_newest (ok : MarkEntry → Bool) (h : ok e = true) :
    ((List.range (st ++ [e]).length).reverse.find? fun j => ((st ++ [e])[j]?).any ok) = some st.length := by
  simp [List.range_succ, h]

theorem find?_incomplete (ok : MarkEntry → Bool) (h : ∀ e ∈ st, ok e = false) :
    ((List.range st.length).reverse.find? fun j => (st[j]?).any ok) = none := by
  refine List.find?_eq_none.2 fun j _ hj => ?_
  obtain ⟨e, he, hok⟩ := (Option.any_eq_true ..).1 hj
  simp [h e (List.mem_of_getElem? he)] at hok

/-! ## Examining a stack -/

variable {s : State} {tk : Task} {lanes : List Nat} {fuel : Nat} {a : Team}

theorem State.joinScan_incomplete (h : ∀ e ∈ (a.warp k).stack r, entryDone tk.width k r a.threads ((a.warp k).stack r) e = false) :
    s.joinScan tk k r lanes fuel a = a := by
  cases fuel with
  | zero => rfl
  | succ fuel =>
    rw [State.joinScan]
    rw [find?_incomplete _ fun e he => by rw [h e he, Bool.and_false]]

theorem State.joinScan_newest (hst : (a.warp k).stack r = st ++ [e]) (hl : lanes.any (fun l => bitAt e.mask l) = true)
    (hd : entryDone tk.width k r a.threads (st ++ [e]) e = true) :
    s.joinScan tk k r lanes (fuel + 1) a = s.joinScan tk k r lanes fuel (s.releaseEntry tk a k r e st.length) := by
  rw [State.joinScan]
  rw [hst, find?_newest _ (by rw [hl, hd, Bool.or_true, Bool.and_true])]
  simp

theorem State.joinScan_key : (s.joinScan tk k r lanes fuel a).task = a.task ∧ (s.joinScan tk k r lanes fuel a).team = a.team := by
  induction fuel generalizing a with
  | zero => exact ⟨rfl, rfl⟩
  | succ fuel ih =>
    rw [State.joinScan]
    split
    · split
      · exact ih
      · exact ⟨rfl, rfl⟩
    · exact ⟨rfl, rfl⟩

theorem joinedTeam_key {tids : List Nat} : (joinedTeam s tk r tids a).task = a.task ∧ (joinedTeam s tk r tids a).team = a.team := by
  unfold joinedTeam
  induction (tids.map (warpOf tk.width)).dedup generalizing a with
  | nil => exact ⟨rfl, rfl⟩
  | cons j js ih => 
    obtain ⟨h1, h2⟩ := ih (a := s.joinScan tk j r ((tids.filter fun t => warpOf tk.width t == j).map (wlaneOf tk.width)) 8 a)
    exact ⟨h1.trans State.joinScan_key.1, h2.trans State.joinScan_key.2⟩

theorem joinedTeam_incomplete {tids : List Nat} (h : ∀ k, ∀ e ∈ (a.warp k).stack r,
    entryDone tk.width k r a.threads ((a.warp k).stack r) e = false) : joinedTeam s tk r tids a = a := by
  unfold joinedTeam
  induction (tids.map (warpOf tk.width)).dedup with
  | nil => rfl
  | cons j js ih => rw [List.foldl_cons, State.joinScan_incomplete (h j), ih]

/-- The threads of one warp. -/
theorem joinedTeam_warp {tids : List Nat} (hne : tids ≠ []) (h : ∀ m ∈ tids, warpOf tk.width m = k) :
    joinedTeam s tk r tids a = s.joinScan tk k r (tids.map (wlaneOf tk.width)) 8 a := by
  have hk : tids.map (warpOf tk.width) = List.replicate tids.length k := by
    rw [List.map_congr_left h, List.map_const']
  have hdedup : (tids.map (warpOf tk.width)).dedup = [k] := by
    rw [hk]
    exact List.replicate_dedup (by simpa using hne)
  have hall : (tids.filter fun t => warpOf tk.width t == k) = tids := List.filter_eq_self.2 fun m hm => by simp [h m hm]
  rw [joinedTeam, hdedup, List.foldl_cons, List.foldl_nil, hall]

end

/-! ## MARK (R131) -/

section
variable {s : State} {c : Ctx}

theorem exec_mark {off : BitVec 32} (hc : CanIssue s c (.mark off) Guards.always) : exec (.mark off) s = s.finish c (.mark off)
    (if (c.warps (c.active Guards.always)).any (fun k => decide (8 ≤ ((c.tm.warp k).stack c.g.inRoutine).length)) then
      .fault (FaultInfo.plain causeJoin 0 c.g.members)
    else .ok (s.eachWarp c (c.active Guards.always) fun k w => w.setStack c.g.inRoutine (w.stack c.g.inRoutine ++
      [{ rejoin := BitVec.ofNat 64 (s.skipPads c.tk (relTarget c off)),
         mask := BitVec.ofNat 64 (laneMask c.tk.width k ((c.active Guards.always).map (·.tid))), written := false }]))) := by
  show execMark off s = _
  rw [execMark, run_issues hc]

/-! ## JOIN (R132) -/

/-- A lane that arrives at a JOIN. -/
def joining (c : Ctx) (x : Thread) : Thread :=
  { x with wait := .join, innEnded := x.innEnded || (c.tk.ordered && !c.g.inRoutine) }

/-- How the group leaves a JOIN. -/
def joinPost (c : Ctx) : Post := { Post.none with hold := c.g.members }

theorem exec_join (hc : CanIssue s c .join Guards.always) : exec .join s = s.finish c .join
    (if ((c.active Guards.always).filter fun x => !rejoinsAt c.tk.width c.tm c.g.inRoutine x c.g.addr).isEmpty then
      .done ((s.eachLane c (c.active Guards.always) (joining c)).joinChecks c.tk c.tm.team c.g.inRoutine c.g.members) (joinPost c)
    else .fault (FaultInfo.plain causeJoin 0
      (((c.active Guards.always).filter fun x => !rejoinsAt c.tk.width c.tm c.g.inRoutine x c.g.addr).map (·.tid)))) := by
  show execJoin s = _
  rw [execJoin, run_issues hc]
  rfl

theorem exec_join_arrives (hc : CanIssue s c .join Guards.always)
    (h : ∀ x ∈ c.active Guards.always, rejoinsAt c.tk.width c.tm c.g.inRoutine x c.g.addr = true) :
    exec .join s = .next (((s.eachLane c (c.active Guards.always) (joining c)).joinChecks c.tk c.tm.team c.g.inRoutine
      c.g.members).retire c .join (joinPost c)) := by
  rw [exec_join hc, if_pos]
  · rfl
  · rw [List.isEmpty_iff, List.filter_eq_nil_iff]
    exact fun x hx => by simp [h x hx]

theorem exec_join_wrong (hc : CanIssue s c .join Guards.always)
    (h : ∃ x ∈ c.active Guards.always, rejoinsAt c.tk.width c.tm c.g.inRoutine x c.g.addr = false) :
    exec .join s = .next (s.raise c (FaultInfo.plain causeJoin 0
      (((c.active Guards.always).filter fun x => !rejoinsAt c.tk.width c.tm c.g.inRoutine x c.g.addr).map (·.tid)))).tick := by
  rw [exec_join hc, if_neg]
  · rfl
  · obtain ⟨x, hx, hr⟩ := h
    exact mt List.isEmpty_iff.1 (List.ne_nil_of_mem (List.mem_filter.2 ⟨hx, by simp [hr]⟩))

/-- The group's team when its lanes have arrived. -/
def joiningTeam (c : Ctx) (act : List Thread) (a : Team) : Team :=
  a.modThreads (fun t => (act.map (·.tid)).contains t.tid) (joining c)

theorem joiningTeam_key (act : List Thread) (a : Team) :
    (joiningTeam c act a).task = a.task ∧ (joiningTeam c act a).team = a.team := ⟨rfl, rfl⟩

/-- A thread of the team when the lanes have arrived. -/
def atJoin (c : Ctx) (act : List Thread) (x : Thread) : Thread := if x.tid ∈ act.map (·.tid) then joining c x else x

theorem joiningTeam_threads (act : List Thread) (a : Team) : (joiningTeam c act a).threads = a.threads.map (atJoin c act) := by
  simp [joiningTeam, Team.modThreads, mapIf, atJoin]

theorem atJoin_tid (act : List Thread) (x : Thread) : (atJoin c act x).tid = x.tid := by rw [atJoin]; split <;> rfl

theorem State.modTeam_congr {i j : Nat} {f g : Team → Team} (h : ∀ a ∈ s.teams, a.task = i → a.team = j → f a = g a) :
    s.modTeam i j f = s.modTeam i j g := by
  simp only [State.modTeam, mapIf]
  congr 1
  refine List.map_congr_left fun a ha => ?_
  split
  · next hk =>
    simp only [Bool.and_eq_true, beq_iff_eq] at hk
    exact h a ha hk.1 hk.2
  · rfl

/-- Where no entry of the team is complete, the lanes only arrive. -/
theorem joinChecks_incomplete {act : List Thread} {r : Bool} {tids : List Nat} (h : ∀ a ∈ s.teams, a.task = c.tk.id →
    a.team = c.tm.team → ∀ k, ∀ e ∈ (a.warp k).stack r, entryDone c.tk.width k r (a.threads.map (atJoin c act)) ((a.warp k).stack r) e =
      false) : (s.eachLane c act (joining c)).joinChecks c.tk c.tm.team r tids = s.eachLane c act (joining c) := by
  have hstate : s.eachLane c act (joining c) = s.modTeam c.tk.id c.tm.team (joiningTeam c act) := rfl
  rw [State.joinChecks_eq, hstate, State.modTeam_modTeam _ _ _ _ _ (joiningTeam_key act)]
  refine State.modTeam_congr fun a ha h1 h2 => joinedTeam_incomplete fun k e he => ?_
  rw [joiningTeam_threads]
  exact h a ha h1 h2 k e he

end

/-! ## The last arrival (R132) -/

/-- Does the entry release the thread when it is complete? -/
def releases (w k : Nat) (r : Bool) (e : MarkEntry) (x : Thread) : Bool :=
  warpOf w x.tid == k && bitAt e.mask (wlaneOf w x.tid) && !x.exited && x.routine.isSome == r

/-- The last arrival at the newest entry of a warp: what O26 supposes of it. -/
structure LastArrival (s : State) (c : Ctx) (k : Nat) (st : List MarkEntry) (e : MarkEntry) : Prop where
  width : 0 < c.tk.width
  some_active : c.active Guards.always ≠ []
  stack : (c.tm.warp k).stack c.g.inRoutine = st ++ [e]
  rejoin : e.rejoin = c.g.addr
  members : ∀ m ∈ c.g.members, warpOf c.tk.width m = k ∧ e.mask.getLsbD (wlaneOf c.tk.width m) = true
  routine : ∀ x ∈ c.threads, x.routine.isSome = c.g.inRoutine
  arrived : ∀ l < c.tk.width, e.mask.getLsbD l = true → ∀ x, c.tm.thread? (k * c.tk.width + l) = some x →
    x.exited = true ∨ x.tid ∈ (c.active Guards.always).map (·.tid) ∨ (x.routine.isSome = c.g.inRoutine ∧ x.wait = .join)
  older : ∀ e' ∈ st, ∃ l < c.tk.width, e.mask.getLsbD l = true ∧ e'.mask.getLsbD l = true ∧
    ∃ u, c.tm.thread? (k * c.tk.width + l) = some u ∧ u.exited = false

theorem warpOf_lane {w l : Nat} (k : Nat) (h : l < w) : warpOf w (k * w + l) = k ∧ wlaneOf w (k * w + l) = l := by
  constructor
  · rw [warpOf, Nat.mul_comm, Nat.mul_add_div (by omega), Nat.div_eq_of_lt h, Nat.add_zero]
  · rw [wlaneOf, Nat.mul_comm, Nat.mul_add_mod, Nat.mod_eq_of_lt h]

theorem tid_of_warpOf {w m k : Nat} (h : warpOf w m = k) : k * w + wlaneOf w m = m := by
  rw [← h, warpOf, wlaneOf, Nat.div_add_mod']

section
variable {s u : State} {c : Ctx} {k : Nat} {st : List MarkEntry} {e : MarkEntry}

theorem Ctx.members_ne_nil {gs : Guards} (h : c.active gs ≠ []) : c.g.members ≠ [] := by
  obtain ⟨x, l, hx⟩ := List.exists_cons_of_ne_nil h
  exact List.ne_nil_of_mem (Ctx.tid_mem_of_active (gs := gs) (x := x) (by simp [hx]))

/-- A thread of the group is a thread of its team. -/
theorem Ctx.thread?_of_active {gs : Guards} {x y : Thread} (hx : x.tid ∈ (c.active gs).map (·.tid)) (hy : c.tm.thread? x.tid = some y) :
    y ∈ c.threads := by
  obtain ⟨v, hv, hvx⟩ := List.mem_map.1 hx
  obtain ⟨m, hm, hmv⟩ := List.mem_filterMap.1 (List.mem_filter.1 hv).1
  have : m = x.tid := (Team.thread?_tid hmv).symm.trans hvx
  exact List.mem_filterMap.2 ⟨m, hm, this ▸ hy⟩

/-- What becomes of the threads of a team when the entry is complete. -/
theorem releaseEntry_threads (r : Bool) (a : Team) (j : Nat) : (u.releaseEntry c.tk a k r e j).threads =
    a.threads.map fun x => if releases c.tk.width k r e x then u.passWait c.tk x else x := rfl

/-- A thread of the group's team after the last arrival. -/
def leavesJoin (u : State) (c : Ctx) (k : Nat) (e : MarkEntry) (x : Thread) : Thread :=
  if releases c.tk.width k c.g.inRoutine e (atJoin c (c.active Guards.always) x)
    then u.passWait c.tk (atJoin c (c.active Guards.always) x) else atJoin c (c.active Guards.always) x

theorem leavesJoin_tid (x : Thread) : (leavesJoin u c k e x).tid = x.tid := by
  unfold leavesJoin
  split <;> exact atJoin_tid ..

theorem thread?_releaseEntry (j tid : Nat) :
    (u.releaseEntry c.tk (joiningTeam c (c.active Guards.always) c.tm) k c.g.inRoutine e j).thread? tid =
      (c.tm.thread? tid).map (leavesJoin u c k e) := by
  refine Team.thread?_of_map ?_ leavesJoin_tid _
  rw [releaseEntry_threads, joiningTeam_threads, List.map_map]
  rfl

theorem Warp.stack_setStack (wp : Warp) (r : Bool) (m : List MarkEntry) : (wp.setStack r m).stack r = m := by cases r <;> rfl

/-- The entry leaves its stack. -/
theorem releaseEntry_stack {r : Bool} {a : Team} (h : (a.warp k).stack r = st ++ [e]) :
    ((u.releaseEntry c.tk a k r e st.length).warp k).stack r = st := by
  have hne : a.warp k ≠ Warp.empty := by
    intro h0
    rw [h0] at h
    cases r <;> simp [Warp.stack, Warp.empty] at h
  have hw := (a.warp_modWarp_self k fun wp => wp.setStack r ((wp.stack r).eraseIdx st.length)).resolve_right fun h0 => hne h0.2
  show ((a.modWarp k fun wp => wp.setStack r ((wp.stack r).eraseIdx st.length)).warp k).stack r = st
  rw [hw, Warp.stack_setStack, h, List.eraseIdx_append_of_length_le (le_refl _)]
  simp

section
variable (h : LastArrival s c k st e)
include h

theorem LastArrival.rejoins : ∀ x ∈ c.active Guards.always, rejoinsAt c.tk.width c.tm c.g.inRoutine x c.g.addr = true := by
  intro x hx
  obtain ⟨hk, hb⟩ := h.members _ (Ctx.tid_mem_of_active hx)
  exact rejoinsAt_iff.2 ⟨e, by rw [hk, h.stack, topEntry_newest hb], h.rejoin⟩

/-- The live threads that the entry holds are in the stack's routine or outside it, as the group is. -/
theorem LastArrival.routine_of {l : Nat} {x : Thread} (hl : l < c.tk.width) (hb : e.mask.getLsbD l = true)
    (hx : c.tm.thread? (k * c.tk.width + l) = some x) (hex : x.exited = false) : x.routine.isSome = c.g.inRoutine := by
  rcases h.arrived l hl hb x hx with h1 | h1 | ⟨h1, -⟩
  · simp [hex] at h1
  · exact h.routine x (Ctx.thread?_of_active h1 (Team.thread?_tid hx ▸ hx))
  · exact h1

theorem LastArrival.done : entryDone c.tk.width k c.g.inRoutine (joiningTeam c (c.active Guards.always) c.tm).threads (st ++ [e]) e =
    true := by
  obtain ⟨m, ms, hm⟩ := List.exists_cons_of_ne_nil (Ctx.members_ne_nil h.some_active)
  refine entryDone_iff.2 ⟨?_, fun l hl hb x hx => ?_⟩
  · intro h0
    have := (h.members m (by simp [hm])).2
    simp [h0] at this
  · obtain ⟨x, hx', rfl⟩ := Option.map_eq_some_iff.1
      ((Team.thread?_of_map (joiningTeam_threads (c.active Guards.always) c.tm) (atJoin_tid _) _).symm.trans hx)
    cases hex : x.exited with
    | true => exact .inl (by rw [atJoin]; split <;> exact hex)
    | false =>
      have hr := h.routine_of hl hb hx' hex
      refine .inr ⟨by rw [atJoin]; split <;> exact hr, ?_, topEntry_newest hb⟩
      rw [atJoin]
      split
      · rfl
      · next hn =>
        rcases h.arrived l hl hb x hx' with h1 | h1 | ⟨-, h1⟩
        · simp [hex] at h1
        · exact absurd h1 hn
        · exact h1

/-- A live thread that the entry holds goes on when the entry is complete. -/
theorem LastArrival.passes {l : Nat} {x : Thread} (hl : l < c.tk.width) (hb : e.mask.getLsbD l = true)
    (hx : c.tm.thread? (k * c.tk.width + l) = some x) (hex : x.exited = false) :
    leavesJoin u c k e x = u.passWait c.tk (atJoin c (c.active Guards.always) x) := by
  have hr := h.routine_of hl hb hx hex
  obtain ⟨h1, h2⟩ := warpOf_lane k hl
  have htid := Team.thread?_tid hx
  have hj : (atJoin c (c.active Guards.always) x).exited = false ∧
      (atJoin c (c.active Guards.always) x).routine.isSome = c.g.inRoutine := by
    rw [atJoin]
    split <;> exact ⟨hex, hr⟩
  exact if_pos (by simp [releases, atJoin_tid, htid, h1, h2, bitAt, hb, hj])

theorem LastArrival.joinedTeam_eq : joinedTeam u c.tk c.g.inRoutine c.g.members (joiningTeam c (c.active Guards.always) c.tm) =
    u.releaseEntry c.tk (joiningTeam c (c.active Guards.always) c.tm) k c.g.inRoutine e st.length := by
  obtain ⟨m, ms, hm⟩ := List.exists_cons_of_ne_nil (Ctx.members_ne_nil h.some_active)
  have hlanes : (c.g.members.map (wlaneOf c.tk.width)).any (fun l => bitAt e.mask l) = true := by
    rw [List.any_eq_true]
    exact ⟨_, List.mem_map.2 ⟨m, by simp [hm], rfl⟩, (h.members m (by simp [hm])).2⟩
  have hstack : ((joiningTeam c (c.active Guards.always) c.tm).warp k).stack c.g.inRoutine = st ++ [e] := h.stack
  rw [joinedTeam_warp (Ctx.members_ne_nil h.some_active) fun m hm => (h.members m hm).1,
    State.joinScan_newest (fuel := 7) hstack hlanes h.done, State.joinScan_incomplete]
  rw [releaseEntry_stack hstack]
  intro e' he'
  obtain ⟨l, hl, hb, hb', x, hx, hex⟩ := h.older e' he'
  refine entryDone_false hl hb' (x := leavesJoin u c k e x) ?_ ?_ ?_
  · exact (thread?_releaseEntry _ _).trans (by rw [hx]; rfl)
  · rw [h.passes hl hb hx hex, atJoin]
    split <;> exact hex
  · rw [h.passes hl hb hx hex]
    show (if _ then Wait.inning else Wait.none) ≠ .join
    split <;> simp

end

/-- The state after the last arrival, before the group retires. -/
def State.afterJoin (s : State) (c : Ctx) : State :=
  (s.eachLane c (c.active Guards.always) (joining c)).joinChecks c.tk c.tm.team c.g.inRoutine c.g.members

theorem State.afterJoin_eq : s.afterJoin c = s.modTeam c.tk.id c.tm.team (joinedTeam (s.eachLane c (c.active Guards.always) (joining c))
    c.tk c.g.inRoutine c.g.members ∘ joiningTeam c (c.active Guards.always)) :=
  State.modTeam_modTeam _ _ _ _ _ (joiningTeam_key _)

theorem State.team?_afterJoin (hc : s.ctx = some c) : (s.afterJoin c).team? c.tk.id c.tm.team =
    some (joinedTeam (s.eachLane c (c.active Guards.always) (joining c)) c.tk c.g.inRoutine c.g.members
      (joiningTeam c (c.active Guards.always) c.tm)) := by
  rw [State.afterJoin_eq, State.team?_modTeam, (State.ctx_found hc).2]
  · simp
  · exact fun a => joinedTeam_key

theorem leftTeam_warps (s : State) (c : Ctx) (n : Nat) (p : Post) (ks : List ThreadKey) (a : Team) :
    (leftTeam s c n p ks a).warps = a.warps := by
  unfold leftTeam
  split <;> rfl

/-- A member that waits, or has waited, at the instruction stays where it is. -/
theorem State.retireThread_held {n : Nat} {p : Post} {x : Thread} (h : x.tid ∈ p.hold) : (s.retireThread c n p x).pc = x.pc :=
  (congrArg Thread.pc (State.departs_waiting (s := s) (c := c) (n := n) (p := p) (.inl h)) :)

/-- A thread that a completed entry has released, after the group has retired. -/
theorem State.released_retired {n : Nat} {x y z : Thread} {b : Prop} [Decidable b] {q : ThreadKey → Bool}
    (hb : b → z.tid ∈ c.g.members) (hz : z = s.passWait c.tk (atJoin c (c.active Guards.always) x))
    (hy : y = (if b then u.retireThread c n (joinPost c) z else z).issued q) :
    y.still = x.still ∧ y.pc = BitVec.ofNat 64 (s.skipPads c.tk (x.pc.toNat + 8)) ∧
      (c.tk.ordered = false → x.innEnded = false → y.wait = .none) := by
  have hstill : z.still = x.still := by rw [hz, atJoin]; split <;> rfl
  have hpc : z.pc = BitVec.ofNat 64 (s.skipPads c.tk (x.pc.toNat + 8)) := by rw [hz, atJoin]; split <;> rfl
  obtain ⟨v, hv⟩ : ∃ v, v = if b then u.retireThread c n (joinPost c) z else z := ⟨_, rfl⟩
  have hvz : v.still = z.still ∧ v.pc = z.pc ∧ (c.tk.ordered = false → v.wait = z.wait) := by
    rw [hv]
    split
    · next h =>
      exact ⟨State.retireThread_keeps, State.retireThread_held (hb h), fun ho =>
        (State.retireThread_uncounted fun hcount => Bool.false_ne_true (ho.symm.trans hcount.1)).2.2⟩
    · exact ⟨rfl, rfl, fun _ => rfl⟩
  obtain ⟨h1, h2, h3⟩ := hvz
  rw [← hv] at hy
  refine ⟨?_, ?_, fun ho hi => ?_⟩
  · rw [hy, Thread.issued_bystander]
    exact h1.trans hstill
  · rw [hy, Thread.issued_bystander]
    exact h2.trans hpc
  · have hw : v.wait = .none := by
      rw [h3 ho, hz]
      have hend : (atJoin c (c.active Guards.always) x).innEnded = false := by
        rw [atJoin]
        split <;> simp [joining, ho, hi]
      simp [State.passWait, Thread.ready, hend]
    rw [hy, Thread.issued_of_wait (.inl hw), hw]

/-- The threads that the entry holds go on. -/
theorem LastArrival.becomes (h : LastArrival s c k st e) (hc : s.ctx = some c) :
    ThreadsBecome s ((s.afterJoin c).retire c .join (joinPost c)) c fun x y => warpOf c.tk.width x.tid = k →
      e.mask.getLsbD (wlaneOf c.tk.width x.tid) = true → x.exited = false →
        y.still = x.still ∧ y.pc = BitVec.ofNat 64 (s.skipPads c.tk (x.pc.toNat + 8)) ∧
          (c.tk.ordered = false → x.innEnded = false → y.wait = .none) := by
  intro tid x hx
  obtain ⟨a, ha, hax⟩ := State.exists_team?_of_thread? hx
  cases Option.some.inj ((State.ctx_found hc).2.symm.trans ha)
  have htid := State.thread?_tid hx
  obtain ⟨u, hu⟩ : ∃ u, u = s.eachLane c (c.active Guards.always) (joining c) := ⟨_, rfl⟩
  have hz : (s.afterJoin c).thread? { task := c.tk.id, team := c.tm.team, tid := tid } = some (leavesJoin u c k e x) := by
    rw [State.thread?_eq_bind, State.team?_afterJoin hc, ← hu, h.joinedTeam_eq]
    exact (thread?_releaseEntry _ _).trans (by rw [hax]; rfl)
  rw [State.thread?_retire, hz]
  refine ⟨_, rfl, fun hk hb hex => ?_⟩
  have hx' : c.tm.thread? (k * c.tk.width + wlaneOf c.tk.width x.tid) = some x := by
    rw [tid_of_warpOf hk, htid]
    exact hax
  have hpass : leavesJoin u c k e x = s.passWait c.tk (atJoin c (c.active Guards.always) x) := by
    rw [h.passes (Nat.mod_lt _ h.width) hb hx' hex, State.passWait, State.passWait, hu, State.eachLane, State.skipPads_modTeam]
  exact State.released_retired (fun hm => hm.2.2.1) hpass rfl

theorem teamsOnly_join : TeamsOnly s ((s.afterJoin c).retire c .join (joinPost c)) := by
  rw [State.afterJoin_eq]
  exact teamsOnly_retire ..

/-- The stack without the entry. -/
theorem LastArrival.leaves (h : LastArrival s c k st e) (hc : s.ctx = some c) {a : Team}
    (ha : ((s.afterJoin c).retire c .join (joinPost c)).team? c.tk.id c.tm.team = some a) : (a.warp k).stack c.g.inRoutine = st := by
  rw [State.team?_retire, State.team?_afterJoin hc, h.joinedTeam_eq] at ha
  obtain rfl := Option.some.inj ha
  rw [Team.warp, leftTeam_warps]
  exact releaseEntry_stack h.stack

/-- Lanes that complete no entry wait at the JOIN. -/
theorem join_waits : GroupEffect s ((s.eachLane c (c.active Guards.always) (joining c)).retire c .join (joinPost c)) c
    (fun x => x.pc.toNat) id (fun _ w => w) ∧
    ThreadsBecome s ((s.eachLane c (c.active Guards.always) (joining c)).retire c .join (joinPost c)) c fun x y =>
      x.tid ∈ (c.active Guards.always).map (·.tid) → y.wait = .join := by
  refine ⟨groupEffect_lanes rfl (fun x hx => Ctx.tid_mem_of_active hx) (fun _ => rfl) fun x y hx hy => ?_,
    lanesBecome rfl (fun x hx => Ctx.tid_mem_of_active hx) rfl (fun _ => rfl) fun x hx => ?_⟩
  · have hkeep : y.still = x.still ∧ y.pc = x.pc ∧ y.rep = x.rep ∧ y.tid = x.tid := by
      rw [hy]
      split <;> exact ⟨rfl, rfl, rfl, rfl⟩
    obtain ⟨h1, h2, h3, h4⟩ := hkeep
    refine ⟨h1, fun _ => ⟨?_, h3⟩⟩
    rw [State.departs_waiting (.inl (h4 ▸ hx)), h2]
    simp
  · exact State.wait_retireThread_issued (x := joining c x) (by simp [joining]) (by simp [joining])

end

/-- Settles O26: the push by MARK, and the arrivals of JOIN with what they complete. -/
theorem markAndJoin : Obligations.MarkAndJoin := by
  unfold Obligations.MarkAndJoin
  intro al
  refine ⟨fun off s c hc hroom => ?_, fun off s c hc hfull => ?_, fun s c hc h => exec_join_arrives hc h, ?_, ?_,
    fun s c hc h => exec_join_wrong hc h, fun w k r ts st e => entryDone_iff, fun w tm r x a => rejoinsAt_iff⟩
  · refine ⟨_, ?_, groupEffect_eachWarp⟩
    rw [exec_mark hc, if_neg, relTarget_eq]
    · rfl
    · simpa using hroom
  · rw [exec_mark hc, if_pos]
    · rfl
    · simpa using hfull
  · intro s c r mine arrived hc hre hopen
    have hstay := joinChecks_incomplete (s := s) (c := c) (act := c.active al) (r := r) (tids := c.g.members)
      fun a ha h1 h2 k e he => (entryDone_congr (atJoin_tid _) (g := arrived) (fun x => by dsimp only [arrived]; split <;> rfl)
        fun x => by dsimp only [arrived]; rw [atJoin]; split <;> exact ⟨rfl, rfl, rfl⟩).trans (hopen a ha h1 h2 k e he)
    exact ⟨_, (exec_join_arrives hc hre).trans (by rw [hstay]), join_waits⟩
  · intro s c k st e r W hc hW hact hst hre hmem hrout harr hold
    have h : LastArrival s c k st e := ⟨hW, hact, hst, hre, hmem, hrout, harr, hold⟩
    exact ⟨_, exec_join_arrives hc h.rejoins, teamsOnly_join, fun tm htm => h.leaves hc.selected htm, h.becomes hc.selected⟩

end Sys2Proof.Machine

/-!
What the arrivals at a barrier and its check do to the state (O29): the counts of the instances, who takes part, and the threads.
-/
namespace Sys2Proof.Machine

open Sys2Proof

/-! ## The instances of a task, and who takes part in them (R141) -/

/-- The barrier instances of a task: those of its teams, and its own. -/
def State.barTable (s : State) (id : Nat) : (Nat → Option (Sparse BarInst × BarInst)) × Option (Sparse BarInst) :=
  (fun m => (s.team? id m).map fun a => (a.sqBar, a.tmBar), (s.task? id).map (·.bars))

/-- The threads of a task, live and exited: those of its placed teams, its teams that have ended, and the saved teams. -/
def State.crew (s : State) (id : Nat) : (Nat → Option (List (Nat × Bool))) × Option (List Nat) × List SavedTeam :=
  (fun m => (s.team? id m).map fun a => a.threads.map fun x => (x.tid, x.exited), (s.task? id).map (·.ended), s.saved)

section
variable {s t : State} {tk : Task} {i j : Inst} {id : Nat}

theorem State.task?_congr (h : t.tasks = s.tasks) : t.task? id = s.task? id := by rw [State.task?, h, State.task?]

theorem State.task?_modTask {m : Nat} {f : Task → Task} (hf : ∀ a, (f a).id = a.id) :
    (s.modTask m f).task? id = (s.task? id).map fun a => if id = m then f a else a := by
  have hp : ((fun b : Task => b.id == id) ∘ fun a => if a.id == m then f a else a) = fun b => b.id == id := by
    funext b
    rw [Function.comp_apply]
    split <;> simp [hf]
  rw [State.task?, State.modTask, mapIf, List.find?_map, hp, ← State.task?]
  refine Option.map_congr fun a ha => ?_
  have hid : a.id = id := by simpa using List.find?_some ha
  simp [hid]

theorem State.barInst_congr (h : t.barTable tk.id = s.barTable tk.id) : t.barInst tk i = s.barInst tk i := by
  obtain ⟨h1, h2⟩ := Prod.mk.inj h
  have hteam := congrFun h1 i.team
  unfold State.barInst
  split
  · cases ha : t.team? tk.id i.team <;> cases hb : s.team? tk.id i.team <;> simp_all
  · cases ha : t.team? tk.id i.team <;> cases hb : s.team? tk.id i.team <;> simp_all
  · cases ha : t.task? tk.id <;> cases hb : s.task? tk.id <;> simp_all

/-- The live participants of a placed team. -/
theorem live_of_crew (p : Nat → Bool) (xs : List Thread) : (xs.filter fun x => !x.exited && p x.tid).length =
    ((xs.map fun x => (x.tid, x.exited)).filter fun y => !y.2 && p y.1).length := by
  rw [List.filter_map, List.length_map]
  rfl

theorem State.liveParticipants_congr (h : t.crew tk.id = s.crew tk.id) : t.liveParticipants tk i = s.liveParticipants tk i := by
  obtain ⟨h1, h23⟩ := Prod.mk.inj h
  obtain ⟨h2, h3⟩ := Prod.mk.inj h23
  unfold State.liveParticipants
  congr 1
  refine List.map_congr_left fun m _ => ?_
  have hteam := congrFun h1 m
  have hended : (t.task? tk.id).elim [] (·.ended) = (s.task? tk.id).elim [] (·.ended) := by
    cases ha : t.task? tk.id <;> cases hb : s.task? tk.id <;> simp_all
  cases ha : t.team? tk.id m with
  | some a =>
    cases hb : s.team? tk.id m with
    | some b =>
      rw [ha, hb] at hteam
      have hthr : (a.threads.map fun x => (x.tid, x.exited)) = b.threads.map fun x => (x.tid, x.exited) := Option.some.inj hteam
      dsimp only
      rw [live_of_crew (i.has tk m) a.threads, live_of_crew (i.has tk m) b.threads, hthr]
    | none => simp [ha, hb] at hteam
  | none =>
    cases hb : s.team? tk.id m with
    | some b => simp [ha, hb] at hteam
    | none => rw [h3, hended]

theorem State.team?_isSome_of_crew {m : Nat} (h : t.crew id = s.crew id) : (t.team? id m).isSome = (s.team? id m).isSome := by
  have := congrFun (Prod.mk.inj h).1 m
  simpa using congrArg Option.isSome this

theorem State.task?_isSome_of_crew (h : t.crew id = s.crew id) : (t.task? id).isSome = (s.task? id).isSome := by
  have := (Prod.mk.inj (Prod.mk.inj h).2).1
  simpa using congrArg Option.isSome this

/-- An update of the teams that leaves their instances. -/
theorem State.barTable_of_map {φ : Team → Team} (ht : t.teams = s.teams.map φ) (hφ : ∀ a, (φ a).task = a.task ∧ (φ a).team = a.team)
    (hb : ∀ a, (φ a).sqBar = a.sqBar ∧ (φ a).tmBar = a.tmBar) (hk : t.tasks = s.tasks) : t.barTable id = s.barTable id := by
  unfold State.barTable
  refine Prod.ext (funext fun m => ?_) (by rw [State.task?_congr hk])
  simp [State.team?_of_map ht hφ, Function.comp_def, hb]

/-- An update of the teams that leaves who takes part. -/
theorem State.crew_of_map {φ : Team → Team} (ht : t.teams = s.teams.map φ) (hφ : ∀ a, (φ a).task = a.task ∧ (φ a).team = a.team)
    (hc : ∀ a, ((φ a).threads.map fun x => (x.tid, x.exited)) = a.threads.map fun x => (x.tid, x.exited)) (hk : t.tasks = s.tasks)
    (hs : t.saved = s.saved) : t.crew id = s.crew id := by
  unfold State.crew
  refine Prod.ext (funext fun m => ?_) (by rw [State.task?_congr hk, hs])
  simp [State.team?_of_map ht hφ, Function.comp_def, hc]

section
variable {m n : Nat} {f : Team → Team}

theorem State.barTable_modTeam (hf : ∀ a, (f a).task = a.task ∧ (f a).team = a.team)
    (hb : ∀ a, (f a).sqBar = a.sqBar ∧ (f a).tmBar = a.tmBar) : (s.modTeam m n f).barTable id = s.barTable id := by
  refine State.barTable_of_map (φ := fun a => if a.task == m && a.team == n then f a else a) rfl (fun a => ?_) (fun a => ?_) rfl
  · split
    · exact hf a
    · exact ⟨rfl, rfl⟩
  · split
    · exact hb a
    · exact ⟨rfl, rfl⟩

theorem State.crew_modTeam (hf : ∀ a, (f a).task = a.task ∧ (f a).team = a.team)
    (hc : ∀ a, ((f a).threads.map fun x => (x.tid, x.exited)) = a.threads.map fun x => (x.tid, x.exited)) :
    (s.modTeam m n f).crew id = s.crew id := by
  refine State.crew_of_map (φ := fun a => if a.task == m && a.team == n then f a else a) rfl (fun a => ?_) (fun a => ?_) rfl rfl
  · split
    · exact hf a
    · exact ⟨rfl, rfl⟩
  · split
    · exact hc a
    · rfl

end

/-- An update of some threads that leaves who has exited. -/
theorem crew_mapIf {p : Thread → Bool} {f : Thread → Thread} (hf : ∀ x, (f x).tid = x.tid ∧ (f x).exited = x.exited) (xs : List Thread) :
    ((mapIf p f xs).map fun x => (x.tid, x.exited)) = xs.map fun x => (x.tid, x.exited) := by
  rw [mapIf, List.map_map]
  refine List.map_congr_left fun x _ => ?_
  rw [Function.comp_apply]
  split
  · rw [(hf x).1, (hf x).2]
  · rfl

/-! ## One barrier of a task -/

theorem State.crew_setBarInst (b : BarInst) : (s.setBarInst tk i b).crew id = s.crew id := by
  unfold State.setBarInst
  split
  · exact State.crew_modTeam (fun _ => ⟨rfl, rfl⟩) fun _ => rfl
  · exact State.crew_modTeam (fun _ => ⟨rfl, rfl⟩) fun _ => rfl
  · unfold State.crew
    refine Prod.ext rfl (Prod.ext ?_ rfl)
    dsimp only
    rw [State.task?_modTask]
    · cases s.task? id with
      | none => rfl
      | some a =>
        simp only [Option.map_some]
        split <;> rfl
    · exact fun _ => rfl

theorem State.thread?_setBarInst (b : BarInst) (k : ThreadKey) : (s.setBarInst tk i b).thread? k = s.thread? k := by
  unfold State.setBarInst
  split
  · exact State.thread?_modTeam_of_threads (fun _ => ⟨rfl, rfl⟩) fun _ => rfl
  · exact State.thread?_modTeam_of_threads (fun _ => ⟨rfl, rfl⟩) fun _ => rfl
  · exact State.thread?_congr rfl

theorem State.barInst_setBarInst (b : BarInst) (hteam : (s.team? tk.id i.team).isSome = true) (htask : (s.task? tk.id).isSome = true) :
    (s.setBarInst tk i b).barInst tk i = b := by
  obtain ⟨a, ha⟩ := Option.isSome_iff_exists.1 hteam
  obtain ⟨k, hk⟩ := Option.isSome_iff_exists.1 htask
  obtain ⟨sc, m, q⟩ := i
  match sc with
  | 0 =>
    show ((s.modTeam tk.id m fun tm => { tm with sqBar := Sparse.set BarInst.zero tm.sqBar q b }).team? tk.id m).elim BarInst.zero
      (fun tm => Sparse.get BarInst.zero tm.sqBar q) = b
    rw [State.team?_modTeam, ha]
    · simp
    · exact fun _ => ⟨rfl, rfl⟩
  | 1 =>
    show ((s.modTeam tk.id m fun tm => { tm with tmBar := b }).team? tk.id m).elim BarInst.zero (fun tm => tm.tmBar) = b
    rw [State.team?_modTeam, ha]
    · simp
    · exact fun _ => ⟨rfl, rfl⟩
  | sc + 2 =>
    obtain ⟨e, he⟩ : ∃ e, e = 2 ^ 20 * (sc + 2) + Inst.unit { scope := sc + 2, team := m, squad := q } := ⟨_, rfl⟩
    show ((s.modTask tk.id fun t => { t with bars := Sparse.set BarInst.zero t.bars _ b }).task? tk.id).elim BarInst.zero
      (fun t => Sparse.get BarInst.zero t.bars _) = b
    rw [← he, State.task?_modTask, hk]
    · simp
    · exact fun _ => rfl

/-- The squad of a barrier counts at scope 0 alone. -/
theorem State.barInst_same (h1 : i.scope = j.scope) (h2 : i.team = j.team) (h3 : j.scope = 0 → i.squad = j.squad) (b : BarInst) :
    s.barInst tk i = s.barInst tk j ∧ s.setBarInst tk i b = s.setBarInst tk j b := by
  obtain ⟨sc, m, q⟩ := i
  obtain ⟨sc', m', q'⟩ := j
  dsimp only at h1 h2 h3
  subst h1 h2
  match sc, h3 with
  | 0, h3 => rw [h3 rfl]; exact ⟨rfl, rfl⟩
  | 1, _ => exact ⟨rfl, rfl⟩
  | sc + 2, _ => exact ⟨rfl, rfl⟩

/-- The one barrier of the threads of a group. -/
theorem inst_of_singleton {team n : Nat} {tids : List Nat} (h : instsOf tk team tids n = [j]) :
    j.scope = n ∧ j.team = team ∧ ∀ m ∈ tids, j.scope = 0 → squadOf tk.width m = j.squad := by
  unfold instsOf at h
  split at h
  · next h0 =>
    obtain ⟨q, hq, hj⟩ := List.map_eq_singleton_iff.1 h
    subst hj
    refine ⟨h0.symm, rfl, fun m hm _ => ?_⟩
    have : squadOf tk.width m ∈ (tids.map (squadOf tk.width)).dedup := List.mem_dedup.2 (List.mem_map_of_mem hm)
    rw [hq] at this
    exact List.mem_singleton.1 this
  · next h0 =>
    split at h
    · cases h
    · obtain rfl := (List.cons.inj h).1
      exact ⟨rfl, rfl, fun _ _ h => absurd h h0⟩

/-! ## One arrival (R142) -/

theorem Thread.bar_setBar (x : Thread) (n : Nat) (r : BarRec) : (x.setBar n r).bar n = r := Sparse.get_set_same ..

/-- An arrival sets the thread's record and adds one to the count. -/
theorem State.arrive_eq (tk : Task) (team tid n : Nat) : s.arrive tk team tid n =
    (s.setBarInst tk (instOf tk team tid n) { s.barInst tk (instOf tk team tid n) with
      count := (s.barInst tk (instOf tk team tid n)).count + 1 }).modThread { task := tk.id, team := team, tid := tid } fun x =>
        x.setBar n { pending := true, rgen := (s.barInst tk (instOf tk team tid n)).gen } := rfl

theorem State.barTable_modThread {k : ThreadKey} {f : Thread → Thread} : (s.modThread k f).barTable id = s.barTable id :=
  State.barTable_modTeam (f := fun tm => tm.modThread k.tid f) (fun _ => ⟨rfl, rfl⟩) fun _ => ⟨rfl, rfl⟩

theorem State.crew_modThread {k : ThreadKey} {f : Thread → Thread} (hf : ∀ x, (f x).tid = x.tid ∧ (f x).exited = x.exited) :
    (s.modThread k f).crew id = s.crew id :=
  State.crew_modTeam (f := fun tm => tm.modThread k.tid f) (fun _ => ⟨rfl, rfl⟩) fun _ => crew_mapIf hf _

theorem State.crew_arrive (team tid n : Nat) : (s.arrive tk team tid n).crew id = s.crew id := by
  rw [State.arrive_eq, State.crew_modThread, State.crew_setBarInst]
  exact fun _ => ⟨rfl, rfl⟩

theorem State.thread?_arrive (team tid n : Nat) (k : ThreadKey) : (s.arrive tk team tid n).thread? k = (s.thread? k).map fun x =>
    if k = { task := tk.id, team := team, tid := tid } then
      x.setBar n { pending := true, rgen := (s.barInst tk (instOf tk team tid n)).gen } else x := by
  rw [State.arrive_eq, State.thread?_modThread, State.thread?_setBarInst]
  exact fun _ => rfl

theorem State.barInst_arrive {team tid n : Nat} (hj1 : j.scope = n) (hj2 : j.team = team)
    (hj3 : j.scope = 0 → squadOf tk.width tid = j.squad) (hteam : (s.team? tk.id team).isSome = true)
    (htask : (s.task? tk.id).isSome = true) :
    (s.arrive tk team tid n).barInst tk j = { s.barInst tk j with count := (s.barInst tk j).count + 1 } := by
  subst hj1 hj2
  rw [State.arrive_eq, State.barInst_congr State.barTable_modThread,
    (State.barInst_same (i := instOf tk j.team tid j.scope) (j := j) rfl rfl hj3 _).2, State.barInst_setBarInst _ hteam htask,
    (State.barInst_same (i := instOf tk j.team tid j.scope) (j := j) rfl rfl hj3 BarInst.zero).1]

end

end Sys2Proof.Machine

/-!
BAR, BARA and BARW (O29): several arrivals, the release of the waiters, and the instructions.
-/
namespace Sys2Proof.Machine

open Sys2Proof

/-! ## The release of the waiters (R142) -/

section
variable {s t : State} {tk : Task} {j : Inst} {id : Nat}

/-- An acquire at .dv drops lines and marks stores alone. -/
theorem State.acquire_dv (core : Nat) : ∃ l1 ws, s.acquire core .dv = { s with l1 := l1, wsStores := ws } ∧ (∀ l ∈ l1, l ∈ s.l1) ∧
    SameStores s.wsStores ws := by
  refine ⟨_, _, rfl, fun l hl => (List.mem_filter.1 hl).1, ?_⟩
  rw [SameStores, mapIf, List.forall₂_map_right_iff, List.forall₂_same]
  intro x _
  split <;> rfl

theorem SameStores.refl (a : List WsStore) : SameStores a a := List.forall₂_same.2 fun _ _ => rfl

theorem SameStores.trans {a b d : List WsStore} (h : SameStores a b) (h' : SameStores b d) : SameStores a d := by
  unfold SameStores at *
  induction h generalizing d with
  | nil => cases h'; exact .nil
  | cons hx _ ih =>
    cases h' with
    | cons hy ht => exact .cons (by rw [hy, hx]) (ih ht)

theorem State.acquires_dv (cores : List Nat) : ∃ l1 ws, cores.foldl (fun s core => s.acquire core .dv) s =
    { s with l1 := l1, wsStores := ws } ∧ (∀ l ∈ l1, l ∈ s.l1) ∧ SameStores s.wsStores ws := by
  induction cores generalizing s with
  | nil => exact ⟨s.l1, s.wsStores, rfl, fun _ h => h, SameStores.refl _⟩
  | cons core cores ih =>
    obtain ⟨l1, ws, h, hl, hw⟩ := s.acquire_dv core
    obtain ⟨l1', ws', h', hl', hw'⟩ := ih (s := s.acquire core .dv)
    rw [h] at hl' hw'
    exact ⟨l1', ws', by rw [List.foldl_cons, h', h], fun l hm => hl l (hl' l hm), hw.trans hw'⟩

/-- Does the wait of a thread of the team end when the barrier has generation `g`? -/
def passes (tk : Task) (j : Inst) (g : BitVec 31) (a : Team) (x : Thread) : Bool :=
  a.task == tk.id && j.has tk a.team x.tid && x.wait.isBarrier j.scope && (x.bar j.scope).rgen != g

/-- A thread whose wait at the barrier ends. -/
def Thread.passed (n : Nat) (x : Thread) : Thread := (x.setBar n { x.bar n with pending := false }).ready

theorem State.releaseBarrier_eq (g : BitVec 31) : ∃ l1 ws, s.releaseBarrier tk j g = { s with
    teams := s.teams.map fun a => a.modThreads (passes tk j g a) (Thread.passed j.scope), l1 := l1, wsStores := ws } ∧
    (∀ l ∈ l1, l ∈ s.l1) ∧ SameStores s.wsStores ws := by
  obtain ⟨l1, ws, h, hl, hw⟩ := s.acquires_dv ((s.teams.filter fun a => a.threads.any (passes tk j g a)).map (·.core))
  refine ⟨l1, ws, ?_, hl, hw⟩
  have hrel : s.releaseBarrier tk j g = { ((s.teams.filter fun a => a.threads.any (passes tk j g a)).map (·.core)).foldl
      (fun s core => s.acquire core .dv) s with
      teams := (((s.teams.filter fun a => a.threads.any (passes tk j g a)).map (·.core)).foldl
        (fun s core => s.acquire core .dv) s).teams.map fun a => a.modThreads (passes tk j g a) (Thread.passed j.scope) } := rfl
  rw [hrel, h]

/-- Each thread that waits there under an earlier generation goes on, and every other one stays. -/
theorem State.thread?_releaseBarrier {g : BitVec 31} {k : ThreadKey} {x : Thread} (hx : s.thread? k = some x) :
    (s.releaseBarrier tk j g).thread? k = some (if k.task = tk.id ∧ j.has tk k.team x.tid = true ∧ x.wait.isBarrier j.scope = true ∧
      (x.bar j.scope).rgen ≠ g then x.passed j.scope else x) := by
  obtain ⟨l1, ws, h, -⟩ := s.releaseBarrier_eq (tk := tk) (j := j) g
  obtain ⟨a, ha, -⟩ := State.exists_team?_of_thread? hx
  obtain ⟨h1, h2⟩ := State.team?_key ha
  rw [State.thread?_of_map (g := fun a x => if passes tk j g a x then x.passed j.scope else x) (congrArg State.teams h)
    (fun _ => ⟨rfl, rfl⟩) (fun _ => rfl) (fun a x => by split <;> rfl) ha, hx, Option.map_some]
  simp only [passes, h1, h2, Bool.and_eq_true, beq_iff_eq, bne_iff_ne, and_assoc]

theorem State.barTable_releaseBarrier (g : BitVec 31) : (s.releaseBarrier tk j g).barTable id = s.barTable id := by
  obtain ⟨l1, ws, h, -⟩ := s.releaseBarrier_eq (tk := tk) (j := j) g
  exact State.barTable_of_map (φ := fun a => a.modThreads (passes tk j g a) (Thread.passed j.scope)) (by rw [h]) (fun _ => ⟨rfl, rfl⟩)
    (fun _ => ⟨rfl, rfl⟩) (by rw [h])

/-! ## Several arrivals -/

/-- A thread after arrivals at scope `n`: its record is `r` when `p` holds, and as it was otherwise. -/
structure ArrivedAs (n : Nat) (r : BarRec) (p : Prop) (x z : Thread) : Prop where
  tid : z.tid = x.tid
  wait : z.wait = x.wait
  innEnded : z.innEnded = x.innEnded
  counted : p → z.bar n = r
  kept : ¬p → z.bar n = x.bar n

/-- One more arrival, before the others. -/
theorem ArrivedAs.cons {n : Nat} {r : BarRec} {k : ThreadKey} {task team tid : Nat} {tids : List Nat} {x z : Thread} (hk : x.tid = k.tid)
    (h : ArrivedAs n r (k.task = task ∧ k.team = team ∧
        (if k = { task := task, team := team, tid := tid } then x.setBar n r else x).tid ∈ tids)
      (if k = { task := task, team := team, tid := tid } then x.setBar n r else x) z) :
    ArrivedAs n r (k.task = task ∧ k.team = team ∧ x.tid ∈ tid :: tids) x z := by
  obtain ⟨m, b, i⟩ := k
  dsimp only at hk
  subst hk
  by_cases he : m = task ∧ b = team ∧ x.tid = tid
  · obtain ⟨rfl, rfl, rfl⟩ := he
    rw [if_pos rfl] at h
    obtain ⟨h1, h2, h3, h4, h5⟩ := h
    refine ⟨h1, h2, h3, fun _ => ?_, fun hn => absurd ⟨rfl, rfl, List.mem_cons_self⟩ hn⟩
    by_cases hin : x.tid ∈ tids
    · exact h4 ⟨rfl, rfl, hin⟩
    · exact (h5 fun h => hin h.2.2).trans (x.bar_setBar n r)
  · rw [if_neg (by simpa using he)] at h
    obtain ⟨h1, h2, h3, h4, h5⟩ := h
    refine ⟨h1, h2, h3, fun hp => h4 ⟨hp.1, hp.2.1, ?_⟩, fun hn => h5 fun hp => hn ⟨hp.1, hp.2.1, List.mem_cons_of_mem _ hp.2.2⟩⟩
    exact (List.mem_cons.1 hp.2.2).resolve_left fun h => he ⟨hp.1, hp.2.1, h⟩

/-- The threads of a group arrive, one after another. -/
theorem State.arrivals {team n : Nat} (hj1 : j.scope = n) (hj2 : j.team = team) {ls : List Thread}
    (hj3 : ∀ m ∈ ls.map (·.tid), j.scope = 0 → squadOf tk.width m = j.squad) (hteam : (s.team? tk.id team).isSome = true)
    (htask : (s.task? tk.id).isSome = true) :
    let v := ls.foldl (fun s x => s.arrive tk team x.tid n) s
    v.crew tk.id = s.crew tk.id ∧
    v.barInst tk j = { count := (s.barInst tk j).count + BitVec.ofNat 32 ls.length, gen := (s.barInst tk j).gen } ∧
    ∀ k x, s.thread? k = some x → ∃ z, v.thread? k = some z ∧ ArrivedAs n { pending := true, rgen := (s.barInst tk j).gen }
      (k.task = tk.id ∧ k.team = team ∧ x.tid ∈ ls.map (·.tid)) x z := by
  induction ls generalizing s with
  | nil => exact ⟨rfl, by simp, fun k x hx => ⟨x, hx, rfl, rfl, rfl, fun h => absurd h.2.2 (by simp), fun _ => rfl⟩⟩
  | cons a ls ih =>
    have hcrew := State.crew_arrive (s := s) (tk := tk) (id := tk.id) team a.tid n
    have hsq := hj3 a.tid (by simp)
    have hinst := State.barInst_arrive hj1 hj2 hsq hteam htask
    obtain ⟨h1, h2, h3⟩ := ih (s := s.arrive tk team a.tid n) (fun m hm => hj3 m (List.mem_cons_of_mem _ hm))
      (by rw [State.team?_isSome_of_crew hcrew, hteam]) (by rw [State.task?_isSome_of_crew hcrew, htask])
    rw [hinst] at h2 h3
    refine ⟨h1.trans hcrew, ?_, fun k x hx => ?_⟩
    · refine h2.trans (congrArg (BarInst.mk · _) ?_)
      rw [List.length_cons, BitVec.add_assoc, Nat.add_comm, BitVec.ofNat_add]
      rfl
    · have hgen : (s.barInst tk (instOf tk team a.tid n)).gen = (s.barInst tk j).gen := by
        subst hj1 hj2
        rw [(State.barInst_same (i := instOf tk j.team a.tid j.scope) (j := j) rfl rfl hsq BarInst.zero).1]
      have harr := State.thread?_arrive (s := s) (tk := tk) team a.tid n k
      rw [hx, hgen, Option.map_some] at harr
      obtain ⟨z, hz, hzx⟩ := h3 k _ harr
      exact ⟨z, hz, ArrivedAs.cons (State.thread?_tid hx) hzx⟩

end

end Sys2Proof.Machine

/-!
The barrier instructions (O29).
-/
namespace Sys2Proof.Machine

open Sys2Proof

/-! ## BAR and BARA (R142) -/

section
variable {s u : State} {c : Ctx} {sc : Scope} {wait : Bool}

/-- BAR, or BARA. -/
def arrivalInstr (wait : Bool) (sc : Scope) : Instr := if wait then .bar sc else .bara sc

/-- The lanes that arrive, and those whose arrival is still pending. -/
def State.arriving (s : State) (c : Ctx) (n : Nat) : List Thread := (c.active Guards.always).filter fun x => !s.arrivedNow c x n
def State.early (s : State) (c : Ctx) (n : Nat) : List Thread := (c.active Guards.always).filter fun x => s.arrivedNow c x n

/-- How the group leaves an arrival. -/
def arrivalPost (s : State) (c : Ctx) (n : Nat) : Post := { Post.none with quiet := (s.early c n).map (·.tid) }

theorem exec_arrival (hc : CanIssue s c (arrivalInstr wait sc) Guards.always) (hi : c.g.inRoutine = false) :
    exec (arrivalInstr wait sc) s = s.finish c (arrivalInstr wait sc) (match releaseWaits s c (s.arriving c (scopeNo sc)) sc with
      | [] => .done (s.arriveAll c sc wait (s.arriving c (scopeNo sc)) (s.early c (scopeNo sc))) (arrivalPost s c (scopeNo sc))
      | ts => .stall ts) := by
  have hrun : exec (arrivalInstr wait sc) s = runArrive (arrivalInstr wait sc) s sc wait := by cases wait <;> rfl
  rw [hrun, runArrive, run_issues hc, Ctx.outsideRoutine, hi]
  rfl

theorem exec_arrives (hc : CanIssue s c (arrivalInstr wait sc) Guards.always) (hi : c.g.inRoutine = false)
    (ho : ∀ x ∈ s.arriving c (scopeNo sc), s.outstanding (c.key x) sc = false) : exec (arrivalInstr wait sc) s =
      .next ((s.arriveAll c sc wait (s.arriving c (scopeNo sc)) (s.early c (scopeNo sc))).retire c (arrivalInstr wait sc)
        (arrivalPost s c (scopeNo sc))) := by
  have hnone : releaseWaits s c (s.arriving c (scopeNo sc)) sc = [] := by
    refine if_neg fun h => ?_
    obtain ⟨x, hx, hout⟩ := List.any_eq_true.1 h
    simp [ho x hx] at hout
  rw [exec_arrival hc hi, hnone]
  rfl

theorem exec_arrival_stalls (hc : CanIssue s c (arrivalInstr wait sc) Guards.always) (hi : c.g.inRoutine = false)
    (ho : ∃ x ∈ s.arriving c (scopeNo sc), s.outstanding (c.key x) sc = true) : exec (arrivalInstr wait sc) s =
      .next (s.stalled c ((s.arriving c (scopeNo sc)).map (·.tid))) := by
  have hsome : releaseWaits s c (s.arriving c (scopeNo sc)) sc = (s.arriving c (scopeNo sc)).map (·.tid) :=
    if_pos (List.any_eq_true.2 ho)
  obtain ⟨x, hx, -⟩ := ho
  obtain ⟨y, ys, hys⟩ := List.exists_cons_of_ne_nil (List.ne_nil_of_mem hx)
  rw [exec_arrival hc hi, hsome, hys]
  rfl

/-! ## An arrival that is still pending -/

/-- The unguarded form makes every thread active. -/
theorem Ctx.active_always (c : Ctx) : c.active Guards.always = c.threads :=
  List.filter_eq_self.2 fun _ _ => rfl

/-- A lane that has arrived. -/
def arrivedLane (c : Ctx) (sc : Scope) (wait : Bool) (x : Thread) : Thread :=
  { x with innEnded := x.innEnded || c.tk.ordered, wait := if wait then .barrier (Fin.ofNat 5 (scopeNo sc)) else x.wait }

/-- A lane that waits at a barrier of scope `n`. -/
def atBarrier (n : Nat) (x : Thread) : Thread := { x with wait := .barrier (Fin.ofNat 5 n) }

theorem arriveAll_early {early : List Thread} : s.arriveAll c sc wait [] early = s.eachLane c early (atBarrier (scopeNo sc)) := by
  have hinsts : instsOf c.tk c.tm.team [] (scopeNo sc) = [] := by
    unfold instsOf
    split <;> rfl
  have hall : s.arriveAll c sc wait [] early = (instsOf c.tk c.tm.team [] (scopeNo sc)).foldl (fun s i => s.barCheck c.tk i)
      ((s.eachLane c [] (arrivedLane c sc wait)).eachLane c early (atBarrier (scopeNo sc))) := rfl
  rw [hall, hinsts, State.eachLane_nil]
  rfl

theorem arrival_pending (hm : ∀ m ∈ c.g.members, (c.tm.thread? m).isSome = true) {act : List Thread} (hact : act = c.threads) (n : Nat)
    (i : Instr) :
    GroupEffect s ((s.eachLane c act (atBarrier n)).retire c i { Post.none with quiet := act.map (·.tid) }) c
      (fun x => x.pc.toNat) id (fun _ w => w) ∧
    ThreadsBecome s ((s.eachLane c act (atBarrier n)).retire c i { Post.none with quiet := act.map (·.tid) }) c fun x y =>
      x.tid ∈ act.map (·.tid) → y.wait = .barrier (Fin.ofNat 5 n) := by
  have hmem : ∀ x ∈ act, x.tid ∈ c.g.members := fun x hx =>
    Ctx.tid_mem_of_active (gs := Guards.always) (by rw [Ctx.active_always, ← hact]; exact hx)
  refine ⟨groupEffect_lanes rfl hmem (fun _ => rfl) fun x y hx hy => ?_, lanesBecome rfl hmem rfl (fun _ => rfl) fun x hx => ?_⟩
  · have hkeep : y.still = x.still ∧ y.pc = x.pc ∧ y.rep = x.rep ∧ y.tid = x.tid := by
      rw [hy]
      split <;> exact ⟨rfl, rfl, rfl, rfl⟩
    obtain ⟨h1, h2, h3, h4⟩ := hkeep
    have hq : y.tid ∈ act.map (·.tid) := by
      obtain ⟨v, hv⟩ := Option.isSome_iff_exists.1 (hm _ hx)
      rw [h4, hact, ← Team.thread?_tid hv]
      exact List.mem_map_of_mem (List.mem_filterMap.2 ⟨_, hx, hv⟩)
    refine ⟨h1, fun _ => ⟨?_, h3⟩⟩
    rw [State.departs_waiting (.inr hq), h2]
    simp
  · exact State.wait_retireThread_issued (x := atBarrier n x) (by simp [atBarrier]) (by simp [atBarrier])

/-! ## The last arrival -/

theorem State.barTable_retire (i : Instr) (p : Post) (id : Nat) : (s.retire c i p).barTable id = s.barTable id := by
  refine State.barTable_of_map (φ := leftTeam s c (instrBytes i) p (c.issuers p)) (by rw [State.retire_eq_map]) (fun a => leftTeam_key ..)
    (fun a => ?_) (by rw [State.retire_eq_map])
  unfold leftTeam
  split <;> exact ⟨rfl, rfl⟩

theorem State.crew_eachLane {act : List Thread} {f : Thread → Thread} (hf : ∀ x, (f x).tid = x.tid ∧ (f x).exited = x.exited) (id : Nat) :
    (s.eachLane c act f).crew id = s.crew id := by
  rw [State.eachLane]
  exact State.crew_modTeam (fun _ => ⟨rfl, rfl⟩) fun _ => crew_mapIf hf _

theorem State.barTable_eachLane {act : List Thread} {f : Thread → Thread} (id : Nat) : (s.eachLane c act f).barTable id = s.barTable id := by
  rw [State.eachLane]
  exact State.barTable_modTeam (fun _ => ⟨rfl, rfl⟩) fun _ => ⟨rfl, rfl⟩

/-- A release leaves the teams and the tasks. -/
theorem State.released_views (act : List Thread) (id : Nat) : (s.released c act).crew id = s.crew id ∧
    (s.released c act).barTable id = s.barTable id ∧ ∀ k, (s.released c act).thread? k = s.thread? k := by
  obtain ⟨ws, net, h⟩ := s.released_eq c act
  rw [h]
  exact ⟨rfl, rfl, fun _ => rfl⟩

/-- The state when the lanes `act` have arrived, before the check. -/
def State.allArrived (s : State) (c : Ctx) (sc : Scope) (wait : Bool) (act : List Thread) : State :=
  (act.foldl (fun s x => s.arrive c.tk c.tm.team x.tid (scopeNo sc)) (s.released c act)).eachLane c act (arrivedLane c sc wait)

theorem arriveAll_single {act : List Thread} {j : Inst} (hp : ∀ x ∈ act, (x.bar (scopeNo sc)).pending = false)
    (hj : instsOf c.tk c.tm.team (act.map (·.tid)) (scopeNo sc) = [j]) :
    s.arriveAll c sc wait act [] = (s.allArrived c sc wait act).barCheck c.tk j := by
  have hany : ¬(act.any fun x => (x.bar (scopeNo sc)).pending) = true := fun h => by
    obtain ⟨x, hx, hb⟩ := List.any_eq_true.1 h
    simp [hp x hx] at hb
  have hall : s.arriveAll c sc wait act [] = (instsOf c.tk c.tm.team (act.map (·.tid)) (scopeNo sc)).foldl (fun s i => s.barCheck c.tk i)
      (((act.foldl (fun s x => s.arrive c.tk c.tm.team x.tid (scopeNo sc)) ((if act.any fun x => (x.bar (scopeNo sc)).pending
        then s.acquire c.tm.core sc else s).released c act)).eachLane c act (arrivedLane c sc wait)).eachLane c []
          (atBarrier (scopeNo sc))) := rfl
  rw [hall, hj, if_neg hany, State.eachLane_nil]
  rfl

/-- The lanes have arrived: who takes part, the count, and the threads. -/
theorem State.allArrived_spec {act : List Thread} {j : Inst} (hc : s.ctx = some c)
    (hj : instsOf c.tk c.tm.team (act.map (·.tid)) (scopeNo sc) = [j]) :
    (s.allArrived c sc wait act).crew c.tk.id = s.crew c.tk.id ∧
    (s.allArrived c sc wait act).barInst c.tk j =
      { count := (s.barInst c.tk j).count + BitVec.ofNat 32 act.length, gen := (s.barInst c.tk j).gen } ∧
    ∀ k x, s.thread? k = some x → k.task = c.tk.id → ∃ z, (s.allArrived c sc wait act).thread? k =
      some (if k.team = c.tm.team ∧ x.tid ∈ act.map (·.tid) then arrivedLane c sc wait z else z) ∧
      ArrivedAs (scopeNo sc) { pending := true, rgen := (s.barInst c.tk j).gen }
        (k.team = c.tm.team ∧ x.tid ∈ act.map (·.tid)) x z := by
  obtain ⟨hj1, hj2, hj3⟩ := inst_of_singleton hj
  obtain ⟨htask, hteam⟩ := State.ctx_found hc
  obtain ⟨hcrew, htable, hthread⟩ := s.released_views (c := c) act c.tk.id
  obtain ⟨h1, h2, h3⟩ := State.arrivals (s := s.released c act) (tk := c.tk) (team := c.tm.team) hj1 hj2 (ls := act) hj3
    (by rw [State.team?_isSome_of_crew hcrew, hteam]; rfl) (by rw [State.task?_isSome_of_crew hcrew, htask]; rfl)
  rw [State.barInst_congr htable] at h2 h3
  have hlane : ∀ x, (arrivedLane c sc wait x).tid = x.tid ∧ (arrivedLane c sc wait x).exited = x.exited := fun _ => ⟨rfl, rfl⟩
  refine ⟨(State.crew_eachLane hlane _).trans (h1.trans hcrew), (State.barInst_congr (State.barTable_eachLane _)).trans h2,
    fun k x hx hk => ?_⟩
  obtain ⟨z, hz, hzx⟩ := h3 k x ((hthread k).trans hx)
  simp only [hk, true_and] at hzx
  refine ⟨z, ?_, hzx⟩
  rw [State.allArrived, State.thread?_eachLane fun x => (hlane x).1, hz, Option.map_some, hzx.tid]
  simp only [hk, true_and]

/-- The check of a barrier whose count is that of its live participants. -/
theorem State.barCheck_passes {tk : Task} {j : Inst} (hfull : (u.barInst tk j).count.toNat = u.liveParticipants tk j)
    (hteam : (u.team? tk.id j.team).isSome = true) (htask : (u.task? tk.id).isSome = true) :
    (u.barCheck tk j).barInst tk j = { count := 0, gen := (u.barInst tk j).gen + 1 } ∧
    ∀ k z, u.thread? k = some z → k.task = tk.id → j.has tk k.team z.tid = true → z.wait.isBarrier j.scope = true →
      (z.bar j.scope).rgen = (u.barInst tk j).gen → (u.barCheck tk j).thread? k = some (z.passed j.scope) := by
  have hcheck : u.barCheck tk j = (u.setBarInst tk j { count := 0, gen := (u.barInst tk j).gen + 1 }).releaseBarrier tk j
      ((u.barInst tk j).gen + 1) := if_pos hfull
  rw [hcheck]
  refine ⟨?_, fun k z hz hk hhas hw hg => ?_⟩
  · rw [State.barInst_congr (State.barTable_releaseBarrier _), State.barInst_setBarInst _ hteam htask]
  · have hne : (u.barInst tk j).gen ≠ (u.barInst tk j).gen + 1 := by bv_omega
    rw [State.thread?_releaseBarrier ((State.thread?_setBarInst _ _).trans hz), if_pos ⟨hk, hhas, hw, hg ▸ hne⟩]

/-- A thread of an unordered launch that waits for nothing, after its group has retired. -/
theorem State.idle_retired {n : Nat} {p : Post} {y : Thread} {b : Prop} [Decidable b] {q : ThreadKey → Bool} (hw : y.wait = .none)
    (ho : c.tk.ordered = false) : ((if b then s.retireThread c n p y else y).issued q).wait = .none ∧
      ((if b then s.retireThread c n p y else y).issued q).bars = y.bars := by
  obtain ⟨v, hv⟩ : ∃ v, v = if b then s.retireThread c n p y else y := ⟨_, rfl⟩
  have hvy : v.wait = .none ∧ v.bars = y.bars := by
    rw [hv]
    split
    · exact ⟨(State.retireThread_uncounted fun hcount => Bool.false_ne_true (ho.symm.trans hcount.1)).2.2.trans hw,
        (congrArg Thread.bars State.retireThread_keeps :)⟩
    · exact ⟨hw, rfl⟩
  rw [← hv, Thread.issued_of_wait (.inl hvy.1)]
  exact hvy

theorem Thread.passed_spec (n : Nat) {x : Thread} (hi : x.innEnded = false) :
    (x.passed n).wait = .none ∧ ((x.passed n).bar n).pending = false := by
  refine ⟨?_, congrArg BarRec.pending (x.bar_setBar n { x.bar n with pending := false })⟩
  have : (x.passed n).wait = if x.innEnded && x.routine.isNone then .inning else .none := rfl
  rw [this, hi]
  rfl

theorem isBarrier_scopeNo (h : sc ≠ .sy) : (Wait.barrier (Fin.ofNat 5 (scopeNo sc))).isBarrier (scopeNo sc) = true := by
  cases sc with
  | sy => exact absurd rfl h
  | sq => rfl
  | tm => rfl
  | cl => rfl
  | lg => rfl
  | dv => rfl

/-- The last arrival: the generation moves, and who waits for it goes on. -/
theorem State.lastArrival_spec {act : List Thread} {j : Inst} (hc : s.ctx = some c) (hsc : sc ≠ .sy) (ho : c.tk.ordered = false)
    (hj : instsOf c.tk c.tm.team (act.map (·.tid)) (scopeNo sc) = [j])
    (hlive : (s.barInst c.tk j).count.toNat + act.length = s.liveParticipants c.tk j) (hlt : s.liveParticipants c.tk j < 2 ^ 32)
    (i : Instr) (p : Post) :
    let t := ((s.allArrived c sc wait act).barCheck c.tk j).retire c i p
    t.barInst c.tk j = { count := 0, gen := (s.barInst c.tk j).gen + 1 } ∧
    ∀ k x, s.thread? k = some x → k.task = c.tk.id → j.has c.tk k.team x.tid = true → x.innEnded = false →
      (wait = true ∧ k.team = c.tm.team ∧ x.tid ∈ act.map (·.tid)) ∨
        (¬(k.team = c.tm.team ∧ x.tid ∈ act.map (·.tid)) ∧ x.wait.isBarrier (scopeNo sc) = true ∧
          (x.bar (scopeNo sc)).rgen = (s.barInst c.tk j).gen) →
      ∃ y, t.thread? k = some y ∧ y.wait = .none ∧ (y.bar (scopeNo sc)).pending = false := by
  intro t
  obtain ⟨hj1, hj2, -⟩ := inst_of_singleton hj
  obtain ⟨htask, hteam⟩ := State.ctx_found hc
  obtain ⟨hcrew, hinst, hthread⟩ := State.allArrived_spec (s := s) (sc := sc) (wait := wait) hc hj
  have hfull : ((s.allArrived c sc wait act).barInst c.tk j).count.toNat = (s.allArrived c sc wait act).liveParticipants c.tk j := by
    rw [State.liveParticipants_congr hcrew, hinst, BitVec.toNat_add, BitVec.toNat_ofNat]
    omega
  obtain ⟨hbar, hpass⟩ := State.barCheck_passes hfull (by rw [State.team?_isSome_of_crew hcrew, hj2, hteam]; rfl)
    (by rw [State.task?_isSome_of_crew hcrew, htask]; rfl)
  rw [hinst, hj1] at hpass
  refine ⟨?_, fun k x hx hk hhas hi hwho => ?_⟩
  · rw [State.barInst_congr (State.barTable_retire ..), hbar, hinst]
  obtain ⟨z, hz, hzx⟩ := hthread k x hx hk
  obtain ⟨z', hz'⟩ : ∃ z', z' = if k.team = c.tm.team ∧ x.tid ∈ act.map (·.tid) then arrivedLane c sc wait z else z := ⟨_, rfl⟩
  rw [← hz'] at hz
  have hfacts : z'.tid = x.tid ∧ z'.innEnded = false ∧ z'.wait.isBarrier (scopeNo sc) = true ∧
      (z'.bar (scopeNo sc)).rgen = (s.barInst c.tk j).gen := by
    obtain ⟨hwait, hin⟩ | ⟨hout, hw, hg⟩ := hwho
    · rw [hz', if_pos hin]
      refine ⟨hzx.tid, ?_, ?_, congrArg BarRec.rgen (hzx.counted hin)⟩
      · simp [arrivedLane, hzx.innEnded, hi, ho]
      · rw [arrivedLane, if_pos hwait]
        exact isBarrier_scopeNo hsc
    · rw [hz', if_neg hout]
      exact ⟨hzx.tid, hzx.innEnded.trans hi, by rw [hzx.wait, hw], by rw [hzx.kept hout, hg]⟩
  obtain ⟨h1, h2, h3, h4⟩ := hfacts
  have hdone := hpass k z' hz hk (by rw [h1, hhas]) h3 h4
  obtain ⟨hw, hb⟩ := Thread.passed_spec (scopeNo sc) h2
  refine ⟨_, (State.thread?_retire ..).trans (by rw [hdone]; rfl), (State.idle_retired hw ho).1, ?_⟩
  rw [Thread.bar, (State.idle_retired hw ho).2]
  exact hb

/-! ## BARW (R143) -/

/-- The lanes whose pending arrival is of an earlier generation, and those whose is of the present one. -/
def State.barwPassed (s : State) (c : Ctx) (n : Nat) : List Thread := (c.active Guards.always).filter fun x =>
  (x.bar n).pending && (x.bar n).rgen != (s.barInst c.tk (instOf c.tk c.tm.team x.tid n)).gen
def State.barwWaits (s : State) (c : Ctx) (n : Nat) : List Thread := (c.active Guards.always).filter fun x =>
  (x.bar n).pending && (x.bar n).rgen == (s.barInst c.tk (instOf c.tk c.tm.team x.tid n)).gen

theorem exec_barw (hc : CanIssue s c (.barw sc) Guards.always) (hi : c.g.inRoutine = false) : exec (.barw sc) s =
    .next ((((if s.barwPassed c (scopeNo sc) = [] then s else s.acquire c.tm.core sc).eachLane c (s.barwPassed c (scopeNo sc)) fun x =>
      x.setBar (scopeNo sc) { x.bar (scopeNo sc) with pending := false }).eachLane c (s.barwWaits c (scopeNo sc))
        (atBarrier (scopeNo sc))).retire c (.barw sc) Post.none) := by
  have hpass : ((c.active Guards.always).filter fun x => (x.bar (scopeNo sc)).pending).filter (fun x => (x.bar (scopeNo sc)).rgen !=
      (s.barInst c.tk (instOf c.tk c.tm.team x.tid (scopeNo sc))).gen) = s.barwPassed c (scopeNo sc) := by
    rw [List.filter_filter, State.barwPassed]
    exact List.filter_congr fun x _ => Bool.and_comm ..
  have hwait : ((c.active Guards.always).filter fun x => (x.bar (scopeNo sc)).pending).filter (fun x => (x.bar (scopeNo sc)).rgen ==
      (s.barInst c.tk (instOf c.tk c.tm.team x.tid (scopeNo sc))).gen) = s.barwWaits c (scopeNo sc) := by
    rw [List.filter_filter, State.barwWaits]
    exact List.filter_congr fun x _ => Bool.and_comm ..
  show execBarw sc s = _
  rw [execBarw, run_issues hc, Ctx.outsideRoutine, hi]
  simp only [Bool.false_eq_true, if_false, hpass, hwait, List.isEmpty_iff]
  rfl

end

/-- Settles O29: the arrivals, the last of them, and the wait of BARW. -/
theorem barriers : Obligations.Barriers := by
  unfold Obligations.Barriers
  intro al
  refine ⟨fun wait sc s c => ?_, fun wait sc s c => ?_, fun wait sc s c => ?_, fun wait sc s c j => ?_, fun sc s c => ?_,
    fun sc s c hc hi hp => ?_, fun s tk tm tid n x htm htk hx => ?_, fun s tk j g => ?_⟩
  · intro i n early go hc hi ho
    exact exec_arrives hc hi ho
  · intro i hc hi go ho
    exact exec_arrival_stalls hc hi ho
  · intro i n hc hi hm hall
    have hgo : s.arriving c n = [] := List.filter_eq_nil_iff.2 fun x hx => by simp [hall x hx]
    have hearly : s.early c n = c.active al := List.filter_eq_self.2 hall
    have hex := exec_arrives hc hi (by rw [hgo]; simp)
    rw [hgo, arriveAll_early, arrivalPost, hearly] at hex
    exact ⟨_, hex, arrival_pending hm (Ctx.active_always c) n i⟩
  · intro i n act hc hi hsc ho hne hj hp hlive hlt
    have hnow : ∀ x ∈ act, s.arrivedNow c x n = false := fun x hx => by rw [State.arrivedNow, (hp x hx).1, Bool.false_and]
    have hgo : s.arriving c n = act := List.filter_eq_self.2 fun x hx => by simp [hnow x hx]
    have hearly : s.early c n = [] := List.filter_eq_nil_iff.2 fun x hx => by simp [hnow x hx]
    have hex := exec_arrives hc hi (by rw [hgo]; exact fun x hx => (hp x hx).2)
    rw [hgo, hearly, arriveAll_single (fun x hx => (hp x hx).1) hj] at hex
    exact ⟨_, hex, State.lastArrival_spec hc.selected hsc ho hj hlive hlt _ _⟩
  · intro n act hc hi gen passed waits
    exact exec_barw hc hi
  · have hpass : s.barwPassed c (scopeNo sc) = [] := List.filter_eq_nil_iff.2 fun x hx => by simp [hp x hx]
    have hwait : s.barwWaits c (scopeNo sc) = [] := List.filter_eq_nil_iff.2 fun x hx => by simp [hp x hx]
    refine ⟨_, exec_barw hc hi, ?_⟩
    rw [hpass, hwait, if_pos rfl, State.eachLane_nil, State.eachLane_nil]
    exact groupEffect_id s c _
  · refine ⟨State.barInst_arrive (j := instOf tk tm.team tid n) rfl rfl (fun _ => rfl) (by rw [htm]; rfl) (by rw [htk]; rfl), ?_⟩
    rw [State.thread?_arrive, State.thread?_eq_bind, htm]
    simp [hx]
  · obtain ⟨l1, ws, h, hl, hw⟩ := s.releaseBarrier_eq (tk := tk) (j := j) g
    refine ⟨by rw [h], by rw [h]; exact hl, by rw [h]; exact hw, fun k x hx => ⟨_, State.thread?_releaseBarrier hx, rfl⟩⟩

end Sys2Proof.Machine

/-!
The scratchpad (O15, R171): what LDS reads, and which lane's byte each byte of the scratchpad keeps after an STS.
-/
namespace Sys2Proof.Machine

open Sys2Proof

/-! ## Bytes of a lane's registers -/

theorem length_leBytes (n v : Nat) : (leBytes n v).length = n := by
  induction n generalizing v with
  | zero => rfl
  | succ n ih => rw [leBytes, List.length_cons, ih]

theorem Thread.length_storeBytes (x : Thread) (d : Nat) (w : Width) : (x.storeBytes d w).length = widthBytes w := length_leBytes ..

theorem Thread.putLoaded_tid_pc (x : Thread) (d : Nat) (w : Width) (bs : List Byte) :
    (x.putLoaded d w bs).tid = x.tid ∧ (x.putLoaded d w bs).pc = x.pc := by
  cases w <;> exact ⟨rfl, rfl⟩

/-! ## The checks of R171 -/

/-- Where every offset passes, SCRATCH BOUND is not raised. -/
theorem scratchFault_none {c : Ctx} {gs : Guards} {n align : Nat} {off : Thread → Int} (h : ScratchPasses c gs n align off) :
    scratchFault c.tk n align ((c.active gs).map fun x => (x, off x)) = none := by
  have hall : ∀ x ∈ c.active gs, 0 ≤ off x ∧ off x + n ≤ c.tk.scratchBytes ∧ (align : Int) ∣ off x := fun x hx =>
    ⟨(h x hx).1, (h x hx).2.1, Int.dvd_of_emod_eq_zero (h x hx).2.2⟩
  simpa [scratchFault] using hall

/-! ## Which byte remains -/

theorem lastAt_concat (lanes : List (Thread × Nat)) (x : Thread × Nat) (n a : Nat) :
    lastAt (lanes ++ [x]) n a = if x.2 ≤ a ∧ a < x.2 + n then some x else lastAt lanes n a := by
  rw [lastAt, List.reverse_concat, List.find?_cons, lastAt]
  split <;> simp_all

/-- One write after another: each byte is that of the last lane that covers it. -/
theorem read_foldl_putScratch {n : Nat} {data : Thread → List Byte} (hd : ∀ x, (data x).length = n) (lanes : List (Thread × Nat))
    (tm : Team) (a : Nat) :
    Memory.read (lanes.foldl (fun (tm : Team) x => tm.putScratch x.2 (data x.1)) tm).scratch a =
      match lastAt lanes n a with
      | some (x, b) => (data x).getD (a - b) 0
      | none => Memory.read tm.scratch a := by
  induction lanes using List.reverseRecOn with
  | nil => rfl
  | append_singleton lanes x ih =>
    rw [List.foldl_concat, lastAt_concat]
    by_cases h : x.2 ≤ a ∧ a < x.2 + n
    · have hj : a - x.2 < (data x.1).length := by rw [hd]; omega
      have := Memory.read_put_inside (lanes.foldl (fun (tm : Team) x => tm.putScratch x.2 (data x.1)) tm).scratch x.2 (a - x.2)
        (data x.1) hj
      rw [if_pos h]
      show Memory.read (Memory.put _ x.2 (data x.1)) a = (data x.1).getD (a - x.2) 0
      rw [List.getD_eq_getElem _ _ hj, ← this]
      congr 1
      omega
    · rw [if_neg h, ← ih]
      exact Memory.read_put_outside _ _ (by rw [hd]; omega)

theorem foldl_putScratch_scratch (data : Thread → List Byte) (lanes : List (Thread × Nat)) (tm : Team) :
    let put := lanes.foldl (fun (tm : Team) x => tm.putScratch x.2 (data x.1)) tm
    put = { tm with scratch := put.scratch } := by
  induction lanes generalizing tm with
  | nil => rfl
  | cons x lanes ih => exact ih (tm.putScratch x.2 (data x.1))

/-! ## LDS and STS -/

section
variable {s : State} {c : Ctx} {g : Guards} {o : ScratchOp}

theorem exec_lds (hc : CanIssue s c (.lds g o) g) (ha : NoAcquire s c g)
    (h : ScratchPasses c g (widthBytes o.width) (widthBytes o.width) (scratchOff c o)) :
    exec (.lds g o) s = .next ((s.eachLane c (c.active g) fun x =>
      x.putLoaded o.d.val o.width (c.tm.scratchBytes (scratchOff c o x).toNat (widthBytes o.width))).retire c (.lds g o) Post.none) := by
  show execLds g o s = _
  rw [execLds, runMem_issues hc ha]
  simp only [scratchFault_none h]
  rfl

theorem exec_sts (hc : CanIssue s c (.sts g o) g) (ha : NoAcquire s c g) (hr : s.releasing c (c.active g) = [])
    (h : ScratchPasses c g (widthBytes o.width) (widthBytes o.width) (scratchOff c o)) :
    exec (.sts g o) s = .next ((s.modTeam c.tk.id c.tm.team fun tm => (c.active g).foldl (fun tm x =>
      tm.putScratch (scratchOff c o x).toNat (x.storeBytes o.d.val o.width)) tm).retire c (.sts g o) Post.none) := by
  show execSts g o s = _
  rw [execSts, runMem_issues hc ha]
  simp only [scratchFault_none h, hr]
  rfl

end

/-- Settles O15: LDS changes the registers of its lanes alone; STS is one write after another, the last of which remains. -/
theorem scratchAccess : Obligations.ScratchAccess := by
  refine ⟨fun g o s c hc ha h => ⟨_, exec_lds hc ha h, ?_⟩, fun g o s c hc ha hr h => ?_⟩
  · exact groupEffect_eachLane (fun x => (x.putLoaded_tid_pc ..).1) fun x => (x.putLoaded_tid_pc ..).2
  · refine ⟨_, exec_sts hc ha hr h, fun tm => ?_⟩
    have hmap : (c.active g).foldl (fun (tm : Team) x => tm.putScratch (scratchOff c o x).toNat (x.storeBytes o.d.val o.width)) tm =
        ((c.active g).map fun x => (x, (scratchOff c o x).toNat)).foldl (fun (tm : Team) x =>
          tm.putScratch x.2 (x.1.storeBytes o.d.val o.width)) tm := by
      rw [List.foldl_map]
    simp only [hmap]
    exact ⟨foldl_putScratch_scratch (fun x => x.storeBytes o.d.val o.width) _ tm, read_foldl_putScratch (fun x => x.length_storeBytes ..) _ tm⟩

end Sys2Proof.Machine

/-!
The tag instructions (O18, R179, R180): what the set of an instruction's lanes is, its least ready tag, and what TAGCLR cancels.
-/
namespace Sys2Proof.Machine

open Sys2Proof

/-! ## The tags of a set -/

/-- The tags of a set stand in ascending order. -/
theorem tagSet_pairwise (w : Warp) (ts : TagSet) : (tagSet w ts).Pairwise (· < ·) := by
  cases ts with
  | one n => exact List.pairwise_singleton _ _
  | pair r => exact List.pairwise_lt_range.filter _
  | all => exact List.pairwise_lt_range

/-- The first element of an ascending list with a property is the least. -/
theorem find?_least {p : Nat → Bool} {l : List Nat} (hl : l.Pairwise (· < ·)) {v : Nat} (hv : l.find? p = some v) :
    v ∈ l ∧ p v = true ∧ ∀ n ∈ l, p n = true → v ≤ n := by
  obtain ⟨hp, as, bs, rfl, has⟩ := List.find?_eq_some_iff_append.1 hv
  obtain ⟨-, hbs, -⟩ := List.pairwise_append.1 hl
  refine ⟨by simp, hp, fun n hn hpn => ?_⟩
  rcases List.mem_append.1 hn with hn | hn
  · have := has n hn
    simp [hpn] at this
  · rcases List.mem_cons.1 hn with rfl | hn
    · exact le_rfl
    · exact (List.rel_of_pairwise_cons hbs hn).le

theorem Team.tagReady_iff (tm : Team) (n : Nat) : tm.tagReady n = true ↔ tm.tagCount n = 0 := beq_iff_eq

theorem lowestReady_spec (tm : Team) (w : Warp) (ts : TagSet) : let v := lowestReady tm (tagSet w ts)
    (v = 64 ∧ ∀ n ∈ tagSet w ts, tm.tagCount n ≠ 0) ∨
    (v ∈ tagSet w ts ∧ tm.tagCount v = 0 ∧ ∀ n ∈ tagSet w ts, tm.tagCount n = 0 → v ≤ n) := by
  simp only [lowestReady]
  cases h : (tagSet w ts).find? tm.tagReady with
  | none => exact .inl ⟨rfl, fun n hn => by simpa [Team.tagReady_iff] using List.find?_eq_none.1 h n hn⟩
  | some v =>
    obtain ⟨hm, hr, hle⟩ := find?_least (tagSet_pairwise w ts) h
    exact .inr ⟨hm, (tm.tagReady_iff v).1 hr, fun n hn h0 => hle n hn ((tm.tagReady_iff n).2 h0)⟩

/-- No active lane's set satisfies `p`. -/
theorem lanesWith_eq_nil {c : Ctx} {act : List Thread} {ts : TagSet} {p : List Nat → Bool} :
    lanesWith c act ts p = [] ↔ ∀ x ∈ act, p (tagSet (c.warp x) ts) = false := by
  simp [lanesWith, List.filter_eq_nil_iff]

/-! ## WAITALL, WAITANY and TAGFF -/

section
variable {s : State} {c : Ctx} {g : Guards}

theorem exec_waitall {o : TagSet} (hc : CanIssue s c (.waitall g o) g)
    (h : ∀ x ∈ c.active g, ∀ n ∈ tagSet (c.warp x) o, c.tm.tagCount n = 0) :
    exec (.waitall g o) s = .next (s.retire c (.waitall g o) Post.none) := by
  have hl : lanesWith c (c.active g) o (fun ts => !ts.all c.tm.tagReady) = [] :=
    lanesWith_eq_nil.2 fun x hx => by simpa [Team.tagReady_iff] using h x hx
  show execWaitall g o s = _
  rw [execWaitall, run_issues hc, hl]
  rfl

/-- WAITANY, where every set is empty or has a ready tag, and TAGFF write the number of a tag. -/
theorem exec_tagQuery {o : TagQuery} {any : Bool} (hc : CanIssue s c (if any then .waitany g o else .tagff g o) g)
    (h : any = true → ∀ x ∈ c.active g, tagSet (c.warp x) o.set = [] ∨ ∃ n ∈ tagSet (c.warp x) o.set, c.tm.tagCount n = 0) :
    exec (if any then .waitany g o else .tagff g o) s =
      .next ((putTagNo s c (c.active g) o).retire c (if any then .waitany g o else .tagff g o) Post.none) := by
  cases any with
  | false =>
    show execTagff g o s = _
    rw [execTagff]
    exact run_issues hc _
  | true =>
    have hl : lanesWith c (c.active g) o.set (fun ts => !ts.isEmpty && !ts.any c.tm.tagReady) = [] := by
      refine lanesWith_eq_nil.2 fun x hx => ?_
      rcases h rfl x hx with he | ⟨n, hn, h0⟩
      · simp [he]
      · have : (tagSet (c.warp x) o.set).any c.tm.tagReady = true := List.any_eq_true.2 ⟨n, hn, (c.tm.tagReady_iff n).2 h0⟩
        simp [this]
    show execWaitany g o s = _
    rw [execWaitany]
    refine (run_issues hc _).trans ?_
    rw [hl]
    rfl

/-- What the group of `c` leaves behind a query of its tags. -/
theorem groupEffect_putTagNo (i : Instr) (o : TagQuery) :
    let v := fun (w : Warp) => BitVec.ofNat 32 (lowestReady c.tm (tagSet w o.set))
    GroupEffect s ((putTagNo s c (c.active g) o).retire c i Post.none) c (s.follows c i)
      (fun x => match o.d with
        | .vec r => if x.tid ∈ (c.active g).map (·.tid) then x.setReg r.val (v (c.warp x)) else x
        | .sc _ => x)
      fun k w => match o.d with
        | .vec _ => w
        | .sc r => if k ∈ c.warps (c.active g) then w.setSreg r.val (v w) else w := by
  obtain ⟨d, set⟩ := o
  cases d with
  | vec r => exact groupEffect_eachLane (fun _ => rfl) fun _ => rfl
  | sc r => exact groupEffect_eachWarp

end

/-! ## TAGCLR -/

section
variable {s : State} {c : Ctx} {g : Guards} {o : TagSet}

/-- A copy of the group's team under a tag of its active lanes' sets. -/
def Ctx.ownCopy (c : Ctx) (g : Guards) (o : TagSet) (r : CopyRec) : Prop :=
  r.owner.task = c.tk.id ∧ r.owner.team = c.tm.team ∧ r.tag ∈ (c.active g).flatMap fun x => tagSet (c.warp x) o

/-- No copy is left under the tags, and they are ready. -/
def Ctx.tagsSettled (c : Ctx) (g : Guards) (o : TagSet) (u : State) : Prop :=
  (∀ r ∈ u.copies, ¬c.ownCopy g o r) ∧
    ∀ tm, u.team? c.tk.id c.tm.team = some tm → ∀ x ∈ c.active g, ∀ n ∈ tagSet (c.warp x) o, tm.tagCount n = 0

/-- The copies that TAGCLR cancels: a free choice among those that have not begun. -/
def State.cancels (s : State) (c : Ctx) (g : Guards) (o : TagSet) : List CopyRec :=
  s.copies.filter fun r => r.owner.task == c.tk.id && r.owner.team == c.tm.team &&
    ((c.active g).flatMap fun x => tagSet (c.warp x) o).contains r.tag && r.done.isNone && !r.sent && Config.freeCancel s.freeCtr r.id

/-- The copies of `gone` end with status 2. -/
def State.cancelled (s : State) (gone : List CopyRec) : State := gone.foldl (fun s r => s.endCopy r copyCancelled) s

theorem State.mem_cancels {r : CopyRec} (h : r ∈ s.cancels c g o) : c.ownCopy g o r ∧ r.done = none ∧ r.sent = false := by
  obtain ⟨-, h⟩ := List.mem_filter.1 h
  simp only [Bool.and_eq_true, beq_iff_eq, List.contains_iff_mem, Option.isNone_iff_eq_none, Bool.not_eq_true'] at h
  obtain ⟨⟨⟨⟨⟨htask, hteam⟩, htag⟩, hdone⟩, hsent⟩, -⟩ := h
  exact ⟨⟨htask, hteam, htag⟩, hdone, hsent⟩

/-- Before anything is cancelled, settled tags have no copy to cancel. -/
theorem State.cancels_of_settled (h : c.tagsSettled g o s) : s.cancels c g o = [] := by
  refine List.eq_nil_iff_forall_not_mem.2 fun r hr => h.1 r (List.mem_of_mem_filter hr) (State.mem_cancels hr).1

/-- TAGCLR goes on where the tags are settled; else it stays, or stalls where it has cancelled nothing. -/
theorem exec_tagclr (hc : CanIssue s c (.tagclr g o) g) :
    let gone := s.cancels c g o
    let u := s.cancelled gone
    (c.tagsSettled g o u → exec (.tagclr g o) s = .next (u.retire c (.tagclr g o) Post.none)) ∧
    (¬c.tagsSettled g o u → gone ≠ [] →
      exec (.tagclr g o) s = .next (u.retire c (.tagclr g o) { Post.none with stay := c.g.members })) ∧
    (¬c.tagsSettled g o u → gone = [] → ∃ ts, exec (.tagclr g o) s = .next (s.stalled c ts)) := by
  intro gone u
  have hexec : exec (.tagclr g o) s = s.finish c (.tagclr g o)
      (if (u.copies.any fun r => r.owner.task == c.tk.id && r.owner.team == c.tm.team &&
          ((c.active g).flatMap fun x => tagSet (c.warp x) o).contains r.tag) = true then
        if gone.isEmpty then .stall ((c.active g).map (·.tid)) else .done u { Post.none with stay := c.g.members }
      else match u.team? c.tk.id c.tm.team with
        | some tm => match lanesWith c (c.active g) o fun ts => !ts.all tm.tagReady with
          | [] => .ok u
          | ts => if gone.isEmpty then .stall ts else .done u { Post.none with stay := c.g.members }
        | none => .ok u) := by
    show execTagclr g o s = _
    rw [execTagclr, run_issues hc]
    rfl
  have hleft : (u.copies.any fun r => r.owner.task == c.tk.id && r.owner.team == c.tm.team &&
      ((c.active g).flatMap fun x => tagSet (c.warp x) o).contains r.tag) = true ↔ ¬∀ r ∈ u.copies, ¬c.ownCopy g o r := by
    simp [Ctx.ownCopy, and_assoc]
  have hready (tm : Team) : lanesWith c (c.active g) o (fun ts => !ts.all tm.tagReady) = [] ↔
      ∀ x ∈ c.active g, ∀ n ∈ tagSet (c.warp x) o, tm.tagCount n = 0 := by
    simp [lanesWith_eq_nil, Team.tagReady_iff]
  rw [hexec]
  by_cases hl : ∀ r ∈ u.copies, ¬c.ownCopy g o r
  · rw [if_neg fun h => hleft.1 h hl]
    cases ht : u.team? c.tk.id c.tm.team with
    | none =>
      have hs : c.tagsSettled g o u := ⟨hl, fun tm h => by simp [ht] at h⟩
      exact ⟨fun _ => rfl, fun h => absurd hs h, fun h => absurd hs h⟩
    | some tm =>
      have hs : c.tagsSettled g o u ↔ ∀ x ∈ c.active g, ∀ n ∈ tagSet (c.warp x) o, tm.tagCount n = 0 :=
        ⟨fun h => h.2 tm ht, fun h => ⟨hl, fun tm' h' => by cases ht.symm.trans h'; exact h⟩⟩
      rw [← hready tm] at hs
      rw [hs]
      dsimp only
      cases hw : lanesWith c (c.active g) o (fun ts => !ts.all tm.tagReady) with
      | nil => exact ⟨fun _ => rfl, fun h => absurd rfl h, fun h => absurd rfl h⟩
      | cons t ts =>
        refine ⟨fun h => absurd h (List.cons_ne_nil _ _), fun _ hg => ?_, fun _ hg => ⟨t :: ts, ?_⟩⟩
        · simp [List.isEmpty_iff, hg, State.finish]
        · simp [hg, State.finish]
  · have hs : ¬c.tagsSettled g o u := fun h => hl h.1
    rw [if_pos (hleft.2 hl)]
    refine ⟨fun h => absurd h hs, fun _ hg => ?_, fun _ hg => ⟨(c.active g).map (·.tid), ?_⟩⟩
    · simp [List.isEmpty_iff, hg, State.finish]
    · rw [hg]
      rfl

end

/-- Settles O18: the instructions by their sets, and TAGCLR by what is left after the cancelled copies. -/
theorem tagInstructions : Obligations.TagInstructions := by
  refine ⟨fun g o s c hc h => ⟨_, exec_waitall hc h, groupEffect_id s c _⟩,
    fun g o any s c hc h => ⟨_, exec_tagQuery hc h, groupEffect_putTagNo _ o⟩, lowestReady_spec, fun g o s c hc => ?_⟩
  obtain ⟨hgo, hstay, hstall⟩ := exec_tagclr hc
  refine ⟨fun h => ?_, s.cancels c g o, List.filter_sublist, fun r => State.mem_cancels, ?_⟩
  · rw [State.cancels_of_settled h] at hgo
    exact hgo h
  · by_cases h : c.tagsSettled g o (s.cancelled (s.cancels c g o))
    · exact .inl ⟨h, hgo h⟩
    · by_cases hg : s.cancels c g o = []
      · exact .inr (.inr ⟨h, hg, hstall h hg⟩)
      · exact .inr (.inl ⟨h, hg, hstay h hg⟩)

end Sys2Proof.Machine

/-!
Buffer records (O19, R182, R183): the fields of the record that RECD derives, the element at each of its indices, and what RECQ
reads.
-/
namespace Sys2Proof.Machine

open Sys2Proof

/-! ## Fields by their bits -/

theorem testBit_bitsNat {w : Nat} (x : BitVec w) (lo n j : Nat) : (bitsNat x lo n).testBit j = (decide (j < n) && x.getLsbD (lo + j)) := by
  rw [bitsNat, Nat.testBit_mod_two_pow, Nat.testBit_shiftRight, BitVec.getLsbD]

theorem bitsNat_congr {w : Nat} {x y : BitVec w} {lo n : Nat} (h : ∀ j < n, x.getLsbD (lo + j) = y.getLsbD (lo + j)) :
    bitsNat x lo n = bitsNat y lo n := by
  refine Nat.eq_of_testBit_eq fun j => ?_
  rw [testBit_bitsNat, testBit_bitsNat]
  by_cases hj : j < n
  · rw [h j hj]
  · simp [hj]

theorem bitsNat_eq_of_testBit {w : Nat} {x : BitVec w} {lo n v : Nat} (hv : v < 2 ^ n) (h : ∀ j < n, x.getLsbD (lo + j) = v.testBit j) :
    bitsNat x lo n = v := by
  refine Nat.eq_of_testBit_eq fun j => ?_
  rw [testBit_bitsNat]
  by_cases hj : j < n
  · simp [hj, h j hj]
  · simp [hj, Nat.testBit_lt_two_pow (lt_of_lt_of_le hv (Nat.pow_le_pow_right (by decide) (Nat.le_of_not_lt hj)))]

theorem bitsNat_lt {w : Nat} (x : BitVec w) (lo n : Nat) : bitsNat x lo n < 2 ^ n := Nat.mod_lt _ (Nat.two_pow_pos n)

/-- Three numbers side by side: 64 bits, 82 bits and the rest. -/
theorem testBit_side_by_side {a b : Nat} (d : Nat) (ha : a < 2 ^ 64) (hb : b < 2 ^ 82) (i : Nat) :
    (a + b * 2 ^ 64 + d * 2 ^ 146).testBit i =
      if i < 64 then a.testBit i else if i < 146 then b.testBit (i - 64) else d.testBit (i - 146) := by
  have h : a + b * 2 ^ 64 + d * 2 ^ 146 = 2 ^ 64 * (2 ^ 82 * d + b) + a := by ring
  rw [h, Nat.testBit_two_pow_mul_add _ ha, Nat.testBit_two_pow_mul_add _ hb]
  by_cases h1 : i < 64
  · simp [h1]
  · by_cases h2 : i < 146
    · simp [h1, h2, show i - 64 < 82 by omega]
    · simp [h1, h2, show ¬i - 64 < 82 by omega, show i - 64 - 82 = i - 146 by omega]

/-! ## The record that RECD derives -/

section
variable {r r' : BitVec 256} {start ext : Nat} {drop : BitVec 4} {trap : Bool}

/-- The record with BASE, EXTENT and the permissions of `drop` cleared, and the new BASE, EXTENT and OOB in it. -/
def derivedRec (r : BitVec 256) (base ext : Nat) (drop : BitVec 4) (trap : Bool) : BitVec 256 :=
  r &&& ~~~ (BitVec.ofNat 256 ((2 ^ 57 - 1) + (2 ^ 40 - 1) * 2 ^ 64 + drop.toNat * 2 ^ 146)) |||
    BitVec.ofNat 256 (base % 2 ^ 57 + ext % 2 ^ 40 * 2 ^ 64 + (if trap then 2 ^ 150 else 0))

theorem recDerive_eq : recDerive r start ext drop trap =
    if (!recValid r || decide (recExtent r < start + ext)) = true then none
    else if (recSwzEn r && start * recStride r % 2 ^ (recSwzSrc r + recSwzWid r) != 0) = true then none
    else if (decide (recBase r + start * recStride r < 2 ^ 57) && recOk (derivedRec r (recBase r + start * recStride r) ext drop trap)) = true
      then some (derivedRec r (recBase r + start * recStride r) ext drop trap)
    else none := rfl

/-- RECD gives that record, where the source is valid and reaches it, the start leaves the swizzle alone, and it passes R20. -/
theorem recDerive_some (h : recDerive r start ext drop trap = some r') :
    recValid r = true ∧ start + ext ≤ recExtent r ∧
    (recSwzEn r = true → start * recStride r % 2 ^ (recSwzSrc r + recSwzWid r) = 0) ∧
    recBase r + start * recStride r < 2 ^ 57 ∧ recOk r' = true ∧ r' = derivedRec r (recBase r + start * recStride r) ext drop trap := by
  rw [recDerive_eq] at h
  split_ifs at h with h1 h2 h3
  simp only [Bool.or_eq_true, Bool.not_eq_true', decide_eq_true_eq, not_or, not_lt, Bool.not_eq_false] at h1
  simp only [Bool.and_eq_true, bne_iff_ne, ne_eq, not_and, not_not] at h2
  simp only [Bool.and_eq_true, decide_eq_true_eq] at h3
  cases h
  exact ⟨h1.1, h1.2, h2, h3.1, h3.2, rfl⟩

/-- The bits of the derived record. -/
theorem getLsbD_derivedRec {base : Nat} (hb : base < 2 ^ 57) (he : ext < 2 ^ 40) {i : Nat} (hi : i < 256) :
    (derivedRec r base ext drop trap).getLsbD i =
      if i < 57 then base.testBit i
      else if i < 64 then r.getLsbD i
      else if i < 104 then ext.testBit (i - 64)
      else if i < 146 then r.getLsbD i
      else if i < 150 then r.getLsbD i && !drop.getLsbD (i - 146)
      else if i = 150 then r.getLsbD i || trap
      else r.getLsbD i := by
  have hm := testBit_side_by_side (a := 2 ^ 57 - 1) (b := 2 ^ 40 - 1) drop.toNat (by norm_num) (by norm_num) i
  have hv := testBit_side_by_side (a := base) (b := ext) (if trap then 2 ^ 4 else 0) (by omega) (by omega) i
  have ht : (if trap then 2 ^ 150 else 0) = (if trap then 2 ^ 4 else 0) * 2 ^ 146 := by cases trap <;> norm_num
  have hlow {v k : Nat} (hv : v < 2 ^ k) {j : Nat} (hj : k ≤ j) : v.testBit j = false :=
    Nat.testBit_lt_two_pow (lt_of_lt_of_le hv (Nat.pow_le_pow_right (by decide) hj))
  have hdrop (j : Nat) (hj : 4 ≤ j) : drop.toNat.testBit j = false := hlow drop.isLt hj
  have htrap (j : Nat) : (if trap then 2 ^ 4 else 0 : Nat).testBit j = (trap && decide (j = 4)) := by
    cases trap
    · simp
    · rw [if_pos rfl, Nat.testBit_two_pow, Bool.true_and, decide_eq_decide]
      exact eq_comm
  rw [derivedRec, Nat.mod_eq_of_lt hb, Nat.mod_eq_of_lt he, ht]
  simp only [BitVec.getLsbD_or, BitVec.getLsbD_and, BitVec.getLsbD_not, BitVec.getLsbD_ofNat, hi, decide_true, Bool.true_and]
  rw [hm, hv, Nat.testBit_two_pow_sub_one, Nat.testBit_two_pow_sub_one, htrap]
  rcases lt_or_ge i 57 with h1 | h1
  · simp [h1, show i < 64 by omega]
  rw [if_neg (Nat.not_lt.2 h1)]
  rcases lt_or_ge i 64 with h2 | h2
  · simp [h2, Nat.not_lt.2 h1, hlow hb h1]
  simp only [if_neg (Nat.not_lt.2 h2)]
  rcases lt_or_ge i 104 with h3 | h3
  · simp [h3, show i < 146 by omega, show i - 64 < 40 by omega]
  rw [if_neg (Nat.not_lt.2 h3)]
  rcases lt_or_ge i 146 with h4 | h4
  · simp [h4, show ¬i - 64 < 40 by omega, hlow he (show 40 ≤ i - 64 by omega)]
  simp only [if_neg (Nat.not_lt.2 h4)]
  rcases lt_or_ge i 150 with h5 | h5
  · simp [h5, show i - 146 ≠ 4 by omega, BitVec.getLsbD]
  rw [if_neg (Nat.not_lt.2 h5), hdrop _ (by omega)]
  by_cases h6 : i = 150
  · simp [h6]
  · simp [h6, show i - 146 ≠ 4 by omega]

/-- Elements of a record of START places on, where START lies on a swizzle block. -/
theorem xor_swizzle_add {o off src wid dst : Nat} (hoff : off % 2 ^ (src + wid) = 0) (hd : dst + wid ≤ src) :
    (off + o) ^^^ ((off + o) / 2 ^ src % 2 ^ wid * 2 ^ dst) = off + (o ^^^ (o / 2 ^ src % 2 ^ wid * 2 ^ dst)) := by
  obtain ⟨q, rfl⟩ := Nat.dvd_of_mod_eq_zero hoff
  set m := src + wid
  have hsel : (2 ^ m * q + o) / 2 ^ src % 2 ^ wid = o / 2 ^ src % 2 ^ wid := by
    rw [show 2 ^ m * q + o = o + 2 ^ src * (2 ^ wid * q) by rw [pow_add]; ring, Nat.add_mul_div_left _ _ (Nat.two_pow_pos src),
      Nat.add_mul_mod_self_left]
  rw [hsel]
  set x := o / 2 ^ src % 2 ^ wid * 2 ^ dst
  have hx : x < 2 ^ m := by
    have h1 : o / 2 ^ src % 2 ^ wid < 2 ^ wid := Nat.mod_lt _ (Nat.two_pow_pos wid)
    calc x < 2 ^ wid * 2 ^ dst := (Nat.mul_lt_mul_right (Nat.two_pow_pos dst)).2 h1
      _ = 2 ^ (wid + dst) := (pow_add ..).symm
      _ ≤ 2 ^ m := Nat.pow_le_pow_right (by decide) (by omega)
  have hlow (z : Nat) : z % 2 ^ m < 2 ^ m := Nat.mod_lt _ (Nat.two_pow_pos m)
  have hxor (z : Nat) : z ^^^ x = 2 ^ m * (z / 2 ^ m) + (z % 2 ^ m ^^^ x) := by
    refine Nat.eq_of_testBit_eq fun i => ?_
    rw [Nat.testBit_two_pow_mul_add _ (Nat.xor_lt_two_pow (hlow z) hx), Nat.testBit_xor, Nat.testBit_xor, Nat.testBit_mod_two_pow,
      Nat.testBit_div_two_pow]
    by_cases hi : i < m
    · simp [hi]
    · have : x.testBit i = false :=
        Nat.testBit_lt_two_pow (lt_of_lt_of_le hx (Nat.pow_le_pow_right (by decide) (Nat.le_of_not_lt hi)))
      simp [hi, this, Nat.sub_add_cancel (Nat.le_of_not_lt hi)]
  rw [hxor, hxor o, Nat.mul_add_div (Nat.two_pow_pos m), Nat.mul_add_mod]
  ring

/-- The fields of the derived record. -/
theorem recDerive_fields (h : recDerive r start ext drop trap = some r') :
    recBase r' = recBase r + start * recStride r ∧ recExtent r' = ext ∧ recStride r' = recStride r ∧ recEsz r' = recEsz r ∧
    recR r' = (recR r && !drop.getLsbD 0) ∧ recW r' = (recW r && !drop.getLsbD 1) ∧ recA r' = (recA r && !drop.getLsbD 2) ∧
    recP r' = (recP r && !drop.getLsbD 3) ∧ recOob r' = (recOob r || trap) ∧ recValid r' = recValid r ∧
    recSwzEn r' = recSwzEn r ∧ recSwzSrc r' = recSwzSrc r ∧ recSwzWid r' = recSwzWid r ∧ recSwzDst r' = recSwzDst r := by
  obtain ⟨-, hx, -, hb, -, rfl⟩ := recDerive_some h
  have he : ext < 2 ^ 40 := by have := bitsNat_lt r 64 40; rw [recExtent] at hx; omega
  have bits {i : Nat} (hi : i < 256) := getLsbD_derivedRec (r := r) (drop := drop) (trap := trap) hb he hi
  have kept {lo n : Nat} (hlo : 104 ≤ lo) (hn : lo + n ≤ 146) :
      bitsNat (derivedRec r (recBase r + start * recStride r) ext drop trap) lo n = bitsNat r lo n := by
    refine bitsNat_congr fun j hj => ?_
    rw [bits (by omega), if_neg (by omega), if_neg (by omega), if_neg (by omega), if_pos (by omega)]
  refine ⟨bitsNat_eq_of_testBit hb fun j hj => ?_, bitsNat_eq_of_testBit he fun j hj => ?_, kept le_rfl (by decide),
    congrArg (2 ^ ·) (kept (by decide) (by decide)), bits (by decide), bits (by decide), bits (by decide), bits (by decide),
    bits (by decide), bits (by decide), bits (by decide), kept (by decide) (by decide), kept (by decide) (by decide),
    kept (by decide) (by decide)⟩
  · rw [bits (by omega), if_pos (by omega), Nat.zero_add]
  · rw [bits (by omega), if_neg (by omega), if_neg (by omega), if_pos (by omega), Nat.add_sub_cancel_left]

/-- The swizzle of a record that passes R20. -/
theorem recOk_swizzle (h : recOk r = true) (he : recSwzEn r = true) : recSwzDst r + recSwzWid r ≤ recSwzSrc r := by
  simp only [recOk, he, if_true, Bool.and_eq_true, decide_eq_true_eq] at h
  exact h.1.2.2

/-- Element `n` of the derived record is element START + `n` of its source. -/
theorem recAddr_recDerive (h : recDerive r start ext drop trap = some r') (n : Nat) : recAddr r' n = recAddr r (start + n) := by
  obtain ⟨-, -, hswz, -, hok, -⟩ := recDerive_some h
  obtain ⟨hbase, -, hstride, -, -, -, -, -, -, -, hen, hsrc, hwid, hdst⟩ := recDerive_fields h
  have hok' := recOk_swizzle hok
  rw [hen, hsrc, hwid, hdst] at hok'
  unfold recAddr
  rw [hbase, hstride, hen, hsrc, hwid, hdst, Nat.add_mul]
  dsimp only
  by_cases hs : recSwzEn r = true
  · rw [if_pos hs, if_pos hs, xor_swizzle_add (hswz hs) (hok' hs), Nat.add_assoc]
  · rw [if_neg hs, if_neg hs, Nat.xor_zero, Nat.xor_zero, Nat.add_assoc]

end

/-! ## RECD and RECQ -/

theorem exec_recd {g : Guards} {o : RecdOp} {s : State} {c : Ctx} (hc : CanIssue s c (.recd g o) g) :
    let new := fun (w : Warp) => recDerive (recordOf c.tk w o.b.val) (w.spair o.a.val).toNat (w.spair (o.a.val + 2)).toNat o.drop o.trap
    (∀ k ∈ c.warps (c.active g), (new (c.tm.warp k)).isSome = true) →
      exec (.recd g o) s = .next ((s.eachWarp c (c.active g) fun k w => match new (c.tm.warp k) with
        | some r => { w with recs := Sparse.set 0 w.recs (o.d.val - 48) r }
        | none => w).retire c (.recd g o) Post.none) := by
  intro new h
  have hall : ((c.warps (c.active g)).all fun k => (new (c.tm.warp k)).isSome) = true := List.all_eq_true.2 h
  show execRecd g o s = _
  rw [execRecd, run_issues hc]
  dsimp only
  rw [if_pos hall]
  rfl

/-- The eight flags that RECQ reads, side by side. -/
theorem recItem_flags (r : BitVec 256) : BitVec.ofNat 32 (recItem r .flags) =
    (BitVec.ofBool (recSwzEn r) ++ BitVec.ofBool (recValid r) ++ BitVec.ofBool (recRdonly r) ++ BitVec.ofBool (recOob r) ++
      BitVec.ofBool (recP r) ++ BitVec.ofBool (recA r) ++ BitVec.ofBool (recW r) ++ BitVec.ofBool (recR r)).setWidth 32 := by
  simp only [recItem]
  generalize recSwzEn r = b7, recValid r = b6, recRdonly r = b5, recOob r = b4, recP r = b3, recA r = b2, recW r = b1, recR r = b0
  revert b0 b1 b2 b3 b4 b5 b6 b7
  decide

/-- Settles O19: RECD and RECQ change their warps alone; the derived record by its fields. -/
theorem recordInstructions : Obligations.RecordInstructions := by
  refine ⟨fun g o s c hc h => ⟨_, exec_recd hc h, ?_⟩, fun g o => ?_, fun r start ext drop trap r' h => ?_⟩
  · have hf : (fun (k : Nat) (w : Warp) => if k ∈ c.warps (c.active g) then
          { w with recs := Sparse.set 0 w.recs (o.d.val - 48) ((recDerive (recordOf c.tk (c.tm.warp k) o.b.val)
            ((c.tm.warp k).spair o.a.val).toNat ((c.tm.warp k).spair (o.a.val + 2)).toNat o.drop o.trap).getD 0) } else w) =
        fun k w => if k ∈ c.warps (c.active g) then
          match recDerive (recordOf c.tk (c.tm.warp k) o.b.val) ((c.tm.warp k).spair o.a.val).toNat
              ((c.tm.warp k).spair (o.a.val + 2)).toNat o.drop o.trap with
          | some r => { w with recs := Sparse.set 0 w.recs (o.d.val - 48) r }
          | none => w else w := by
      funext k w
      by_cases hk : k ∈ c.warps (c.active g)
      · obtain ⟨r, hr⟩ := Option.isSome_iff_exists.1 (h k hk)
        simp only [hk, if_true, hr, Option.getD_some]
      · simp only [hk, if_false]
    rw [hf]
    exact groupEffect_eachWarp
  · obtain ⟨d, b, item⟩ := o
    cases item with
    | base => exact warpsDo_of fun _ => rfl
    | extent => exact warpsDo_of fun _ => rfl
    | stride => exact warpsDo_of fun _ => rfl
    | esize => exact warpsDo_of fun _ => rfl
    | flags =>
      simp only [← recItem_flags]
      exact warpsDo_of fun _ => rfl
  · obtain ⟨hv, hx, -, -, hok, -⟩ := recDerive_some h
    obtain ⟨hb, he, hs, hz, hr, hw, ha, hp, ho, hv', -⟩ := recDerive_fields h
    exact ⟨hv, hx, hok, hb, he, hs, hz, hr, hw, ha, hp, ho, hv'.trans hv, recAddr_recDerive h⟩

end Sys2Proof.Machine

/-!
Arriving data (O45, R153, R310): bytes as the registers of a width, and a management reply as it reaches its warp and threads.
-/
namespace Sys2Proof.Machine

open Sys2Proof

/-! ## Bytes as numbers -/

theorem leNat_leBytes (k n : Nat) : leNat (leBytes k n) = n % 256 ^ k := by
  induction k generalizing n with
  | zero => simp [leBytes, leNat, Nat.mod_one]
  | succ k ih =>
    have : (256 : Nat) ^ (k + 1) = 256 * 256 ^ k := Nat.pow_succ'
    rw [leBytes, leNat, ih, BitVec.toNat_ofNat, this, Nat.mod_mul]

theorem toNat_append_byte {w : Nat} (x : BitVec w) (b : Byte) : (x ++ b).toNat = b.toNat + 256 * x.toNat := by
  rw [BitVec.toNat_append, ← Nat.shiftLeft_add_eq_or_of_lt b.isLt, Nat.shiftLeft_eq]
  ring

/-- Bytes, lowest address first, are those of the bit vector whose lowest byte is the first. -/
theorem leNat_one (b0 : Byte) : leNat [b0] = b0.toNat := by simp [leNat]
theorem leNat_two (b0 b1 : Byte) : leNat [b0, b1] = (b1 ++ b0).toNat := by simp [leNat, toNat_append_byte]
theorem leNat_four (b0 b1 b2 b3 : Byte) : leNat [b0, b1, b2, b3] = (b3 ++ b2 ++ b1 ++ b0).toNat := by
  simp [leNat, toNat_append_byte]

/-- A pair of registers, its halves as numbers. -/
theorem Thread.setPair_ofNat (x : Thread) (d n : Nat) :
    x.setPair d (BitVec.ofNat 64 n) = (x.setReg d (BitVec.ofNat 32 n)).setReg (d + 1) (BitVec.ofNat 32 (n / 2 ^ 32)) := by
  have hlo : DWord.lo (BitVec.ofNat 64 n) = BitVec.ofNat 32 n := by
    refine BitVec.eq_of_toNat_eq ?_
    simp only [DWord.lo, BitVec.extractLsb'_toNat, BitVec.toNat_ofNat, Nat.shiftRight_zero]
    omega
  have hhi : DWord.hi (BitVec.ofNat 64 n) = BitVec.ofNat 32 (n / 2 ^ 32) := by
    refine BitVec.eq_of_toNat_eq ?_
    simp only [DWord.hi, BitVec.extractLsb'_toNat, BitVec.toNat_ofNat, Nat.shiftRight_eq_div_pow]
    omega
  rw [Thread.setPair, hlo, hhi]

/-! ## Data for registers (R153) -/

section
variable (x : Thread) (d : Nat)

theorem takeData_narrow (b0 b1 b2 b3 : Byte) :
    x.takeData (.regs d .n8) [b0] = x.setReg d (b0.setWidth 32) ∧
    x.takeData (.regs d .i8) [b0] = x.setReg d (b0.signExtend 32) ∧
    x.takeData (.regs d .n16) [b0, b1] = x.setReg d ((b1 ++ b0).setWidth 32) ∧
    x.takeData (.regs d .i16) [b0, b1] = x.setReg d ((b1 ++ b0).signExtend 32) ∧
    x.takeData (.regs d .w32) [b0, b1, b2, b3] = x.setReg d (b3 ++ b2 ++ b1 ++ b0) := by
  simp only [Thread.takeData, Thread.putLoaded, leNat_one, leNat_two, leNat_four, BitVec.ofNat_toNat, BitVec.setWidth_eq, and_self]

theorem takeData_w64 {n : Nat} (hn : n < 2 ^ 64) : x.takeData (.regs d .w64) (leBytes 8 n) =
    (x.setReg d (BitVec.ofNat 32 n)).setReg (d + 1) (BitVec.ofNat 32 (n / 2 ^ 32)) := by
  simp only [Thread.takeData, Thread.putLoaded, leNat_leBytes]
  rw [Nat.mod_eq_of_lt (hn.trans_eq (by norm_num)), Thread.setPair_ofNat]

theorem takeData_w128 {n : Nat} (hn : n < 2 ^ 128) : x.takeData (.regs d .w128) (leBytes 16 n) =
    (((x.setReg d (BitVec.ofNat 32 n)).setReg (d + 1) (BitVec.ofNat 32 (n / 2 ^ 32))).setReg (d + 2)
      (BitVec.ofNat 32 (n / 2 ^ 64))).setReg (d + 3) (BitVec.ofNat 32 (n / 2 ^ 96)) := by
  simp only [Thread.takeData, Thread.putLoaded, leNat_leBytes]
  rw [Nat.mod_eq_of_lt (hn.trans_eq (by norm_num)), Thread.setPair_ofNat, Thread.setPair_ofNat, Nat.div_div_eq_div_mul]
  rfl

end

/-! ## A management reply (R310) -/

section
variable {s : State}

/-- The `k`-th message, taken out. -/
theorem takeAt_eq {α : Type} (l : List α) (k : Nat) : takeAt l k = (l[k]?).map fun x => (x, l.eraseIdx k) := by
  induction l generalizing k with
  | nil => rfl
  | cons x l ih =>
    cases k with
    | zero => rfl
    | succ k => rw [takeAt, ih]; simp [Function.comp_def]

theorem exec_loadCompletion {k : Nat} {owner : ThreadKey} {dest : LoadDest} {bs : List Byte}
    (h : s.net[k]? = some (.load owner dest bs)) : exec (.loadCompletion k) s =
      .next (({ s with net := s.net.eraseIdx k } : State).modThread owner fun x => x.takeData dest bs).tick := by
  show execLoadCompletion k s = _
  rw [execLoadCompletion, State.takeMsg, takeAt_eq, h]
  rfl

/-- The threads of a request are answered. -/
def State.answered (s : State) (ks : List ThreadKey) : State := ks.foldl (fun s k => s.modThread k Thread.answered) s

theorem Thread.answered_tid (x : Thread) : x.answered.tid = x.tid := by unfold Thread.answered; split <;> rfl

theorem Thread.answered_wait {x : Thread} (h : x.wait = .mgmt) :
    x.answered.wait = if x.innEnded = true ∧ x.routine = none then .inning else .none := by
  rw [Thread.answered, if_pos h, Thread.ready]
  simp

/-- A thread is answered once. -/
theorem Thread.answered_answered (x : Thread) : x.answered.answered = x.answered := by
  by_cases h : x.wait = .mgmt
  · have hw : x.answered.wait ≠ .mgmt := by
      rw [Thread.answered_wait h]
      split <;> exact Wait.noConfusion
    exact if_neg hw
  · have hx : x.answered = x := if_neg h
    rw [hx, hx]

theorem State.answered_teams (s : State) (ks : List ThreadKey) : s.answered ks = { s with teams := (s.answered ks).teams } := by
  induction ks generalizing s with
  | nil => rfl
  | cons k ks ih => exact ih (s.modThread k Thread.answered)

theorem State.thread?_answered (s : State) (ks : List ThreadKey) (k : ThreadKey) :
    (s.answered ks).thread? k = (s.thread? k).map fun x => if k ∈ ks then x.answered else x := by
  induction ks generalizing s with
  | nil => simp [State.answered]
  | cons k' ks ih =>
    show ((s.modThread k' Thread.answered).answered ks).thread? k = _
    rw [ih, State.thread?_modThread Thread.answered_tid, Option.map_map]
    refine Option.map_congr fun x _ => ?_
    by_cases h : k = k'
    · subst h
      by_cases h' : k ∈ ks <;> simp [h', Thread.answered_answered]
    · simp [h]

theorem State.team?_answered (s : State) (ks : List ThreadKey) (m n : Nat) :
    ∃ φ : Team → Team, (s.answered ks).team? m n = (s.team? m n).map φ ∧ ∀ a, (φ a).warps = a.warps := by
  induction ks generalizing s with
  | nil => exact ⟨id, by simp [State.answered], fun _ => rfl⟩
  | cons k ks ih =>
    obtain ⟨φ, hφ, hw⟩ := ih (s.modThread k Thread.answered)
    rw [State.modThread, State.team?_modTeam (f := fun tm => tm.modThread k.tid Thread.answered) (fun _ => ⟨rfl, rfl⟩), Option.map_map] at hφ
    refine ⟨_, hφ, fun a => ?_⟩
    rw [Function.comp_apply, hw]
    split <;> rfl

theorem mgmtReply_delivers {k : Nat} {o : ThreadKey} {os : List ThreadKey} {dst : Nat} {reply : Word} {tk : Task}
    (h : s.net[k]? = some (.mgmtReply (o :: os) dst reply)) (ht : s.task? o.task = some tk) :
    ∃ u : State, exec (.mgmtReply k) s = .next u.settle.tick ∧ u = { s with net := s.net.eraseIdx k, teams := u.teams } ∧
      (∀ tm, s.team? o.task o.team = some tm → ∃ tm', u.team? o.task o.team = some tm' ∧
        tm'.warps = tm.warps.modify (o.tid / tk.width) fun w => w.setSreg dst reply) ∧
      ∀ key ∈ o :: os, ∀ x, s.thread? key = some x → x.wait = .mgmt →
        ∃ y, u.thread? key = some y ∧ y.wait = if x.innEnded = true ∧ x.routine = none then .inning else .none := by
  set s1 : State := { s with net := s.net.eraseIdx k } with hs1
  set put : Team → Team := fun tm => tm.modWarp (warpOf tk.width o.tid) fun w => w.setSreg dst reply with hput
  refine ⟨(s1.answered (o :: os)).modTeam o.task o.team put, ?_, ?_, fun tm htm => ?_, fun key hk x hx hw => ⟨x.answered, ?_, ?_⟩⟩
  · show execMgmtReply k s = _
    rw [execMgmtReply, h]
    simp only [show ({ s with net := s.net.eraseIdx k } : State).task? o.task = some tk from ht]
    rfl
  · rw [State.answered_teams]
    rfl
  · obtain ⟨φ, hφ, hw⟩ := s1.team?_answered (o :: os) o.task o.team
    rw [State.team?_congr (s := s) (t := s1) rfl, htm] at hφ
    refine ⟨put (φ tm), ?_, by rw [← hw tm]; rfl⟩
    rw [State.team?_modTeam (f := put) (fun _ => ⟨rfl, rfl⟩), hφ]
    simp
  · rw [State.thread?_modTeam_of_threads (f := put) (fun _ => ⟨rfl, rfl⟩) (fun _ => rfl), State.thread?_answered,
      State.thread?_congr (s := s) (t := s1) rfl, hx, Option.map_some, if_pos hk]
  · exact Thread.answered_wait hw

end

/-- Settles O45: data by its width, a reply by its warp and the threads that wait for it. -/
theorem dataDeliveries : Obligations.Deliveries :=
  ⟨fun _ _ _ _ _ h => exec_loadCompletion h, fun x d b0 b1 b2 b3 => takeData_narrow x d b0 b1 b2 b3, fun x d _ hn => takeData_w64 x d hn,
    fun x d _ hn => takeData_w128 x d hn, fun _ _ _ _ _ _ _ h ht => mgmtReply_delivers h ht⟩

end Sys2Proof.Machine

/-!
The checks of every access through a record (O33, R155, R159, R160): the first step that a lane fails is the fault of the
instruction, and of the lines' outcomes the first in the order of R160.
-/
namespace Sys2Proof.Machine

open Sys2Proof

/-! ## Steps 1 to 4 of R155 -/

theorem LaneIdx.inside_iff (l : LaneIdx) : l.inside = true ↔ 0 ≤ l.n ∧ l.n < recExtent l.r := by simp [LaneIdx.inside]

/-- The model's test of a step is the one of R155. -/
theorem stepFails_iff (need : SideNeed) (l : LaneIdx) {k : Nat} (h1 : 1 ≤ k) (h4 : k ≤ 4) : stepFails need k l = true ↔ l.Fails need k := by
  interval_cases k
  · simp [stepFails, LaneIdx.Fails, ← Bool.not_eq_true]
  · cases h : need.width <;> simp [stepFails, LaneIdx.Fails, h]
  · simp [stepFails, LaneIdx.Fails, ← LaneIdx.inside_iff]
  · simp [stepFails, LaneIdx.Fails, LaneIdx.addr, LaneIdx.inside_iff, and_assoc]

/-- A side on which every step passes has no lane that fails one. -/
theorem SidePasses.not_fails {sd : Side} (h : SidePasses sd) {k : Nat} {l : LaneIdx} (hl : l ∈ sd.lanes) : ¬l.Fails sd.need k := by
  obtain ⟨hv, hp, hw, ho, ha⟩ := h l hl
  unfold LaneIdx.Fails
  split
  · simp [hv, hp]
  · rintro ⟨w, hm, hlt⟩
    exact absurd (hw w hm) (Nat.not_le.2 hlt)
  · rintro ⟨ht, hn⟩
    exact hn (l.inside_iff.1 (ho ht))
  · rintro ⟨h0, h1, hne⟩
    exact hne (ha (l.inside_iff.2 ⟨h0, h1⟩))
  · exact id

/-- RECORD BOUND of step `k` on one side, for the lanes `bad`. -/
def boundInfo (k : Nat) (sd : Side) (bad : List LaneIdx) : FaultInfo :=
  { FaultInfo.plain causeRecord k (bad.map (·.t.tid)) with
    buf := some sd.buf.val
    details := bad.map fun l => { tid := l.t.tid, index := some (BitVec.ofInt 64 l.n), faddr := none, opnd := none } }

/-- The fault of step `k` on one side, if a lane fails it. -/
def sideFault (k : Nat) (sd : Side) : Option FaultInfo :=
  let bad := sd.lanes.filter (stepFails sd.need k)
  if bad.isEmpty then none else some (boundInfo k sd bad)

theorem sidesFault_eq (sides : List Side) : sidesFault sides =
    ([1, 2, 3, 4].flatMap fun k => sides.map fun sd => (k, sd)).findSome? fun x => sideFault x.1 x.2 := rfl

theorem sideFault_none {k : Nat} {sd : Side} (h1 : 1 ≤ k) (h4 : k ≤ 4) (h : ∀ l ∈ sd.lanes, ¬l.Fails sd.need k) : sideFault k sd = none := by
  have : sd.lanes.filter (stepFails sd.need k) = [] :=
    List.filter_eq_nil_iff.2 fun l hl hf => h l hl ((stepFails_iff _ _ h1 h4).1 hf)
  simp [sideFault, this]

/-- Where every side passes, RECORD BOUND is not raised. -/
theorem sidesFault_none {sides : List Side} (h : ∀ sd ∈ sides, SidePasses sd) : sidesFault sides = none := by
  rw [sidesFault_eq, List.findSome?_eq_none_iff]
  intro x hx
  obtain ⟨k, hk, hx⟩ := List.mem_flatMap.1 hx
  obtain ⟨sd, hsd, rfl⟩ := List.mem_map.1 hx
  have : 1 ≤ k ∧ k ≤ 4 := (by decide : ∀ k ∈ [1, 2, 3, 4], 1 ≤ k ∧ k ≤ 4) k hk
  exact sideFault_none this.1 this.2 fun l hl => (h sd hsd).not_fails hl

theorem findSome?_of_first {α β : Type} {f : α → Option β} {before after : List α} {x : α} {b : β} (hb : ∀ y ∈ before, f y = none)
    (hx : f x = some b) : (before ++ x :: after).findSome? f = some b := by
  rw [List.findSome?_append, List.findSome?_eq_none_iff.2 hb, List.findSome?_cons, hx]
  rfl

/-- Of the steps and sides in their order, the first with a lane that fails decides. -/
theorem sidesFault_first {before after : List Side} {sd : Side} {k : Nat} {f : FaultInfo} (h1 : 1 ≤ k) (h4 : k ≤ 4)
    (hj : ∀ j < k, ∀ x ∈ before ++ sd :: after, ∀ l ∈ x.lanes, ¬l.Fails x.need j)
    (hb : ∀ x ∈ before, ∀ l ∈ x.lanes, ¬l.Fails x.need k) (hf : sideFault k sd = some f) : sidesFault (before ++ sd :: after) = some f := by
  obtain ⟨pre, post, hsplit, hpre⟩ : ∃ pre post, [1, 2, 3, 4] = pre ++ k :: post ∧ ∀ j ∈ pre, 1 ≤ j ∧ j < k := by
    interval_cases k
    · exact ⟨[], _, rfl, by decide⟩
    · exact ⟨[1], _, rfl, by decide⟩
    · exact ⟨[1, 2], _, rfl, by decide⟩
    · exact ⟨[1, 2, 3], _, rfl, by decide⟩
  rw [sidesFault_eq, hsplit, List.flatMap_append, List.flatMap_cons, List.map_append, List.map_cons, List.append_assoc, List.cons_append,
    ← List.append_assoc]
  refine findSome?_of_first (fun x hx => ?_) hf
  rcases List.mem_append.1 hx with hx | hx
  · obtain ⟨j, hm, hx⟩ := List.mem_flatMap.1 hx
    obtain ⟨x, hxs, rfl⟩ := List.mem_map.1 hx
    obtain ⟨hj1, hjk⟩ := hpre j hm
    exact sideFault_none hj1 (by omega) (hj j hjk x hxs)
  · obtain ⟨x, hxs, rfl⟩ := List.mem_map.1 hx
    exact sideFault_none h1 h4 (hb x hxs)

open Classical in
/-- The fault of a step names the lanes that fail it. -/
theorem sideFault_some {k : Nat} {sd : Side} (h1 : 1 ≤ k) (h4 : k ≤ 4) (h : ∃ l ∈ sd.lanes, l.Fails sd.need k) :
    let bad := sd.lanes.filter fun l => l.Fails sd.need k
    ∃ f : FaultInfo, sideFault k sd = some f ∧ f.cause = causeRecord ∧ f.reason = k ∧ f.buf = some sd.buf.val ∧
      f.named = bad.map (·.t.tid) ∧
      f.details = bad.map fun l => { tid := l.t.tid, index := some (BitVec.ofInt 64 l.n), faddr := none, opnd := none } := by
  have hbad : sd.lanes.filter (stepFails sd.need k) = sd.lanes.filter fun l => l.Fails sd.need k :=
    List.filter_congr fun l _ => by rw [Bool.eq_iff_iff, decide_eq_true_iff, stepFails_iff _ _ h1 h4]
  obtain ⟨l0, hl0, hf0⟩ := h
  have hne : sd.lanes.filter (fun l => l.Fails sd.need k) ≠ [] := List.ne_nil_of_mem (List.mem_filter.2 ⟨hl0, decide_eq_true hf0⟩)
  refine ⟨boundInfo k sd (sd.lanes.filter fun l => l.Fails sd.need k), ?_, rfl, rfl, rfl, rfl, rfl⟩
  rw [sideFault, hbad]
  simp only [List.isEmpty_iff, hne, if_false]

/-- An instruction that asks for the fault of its sides first makes steps 1 to 4 in their order. -/
theorem boundChecked_of {i : Instr} {g : Guards} {sides : Ctx → List Side} (h : ∀ s c f, CanIssue s c i g → NoAcquire s c g →
    sidesFault (sides c) = some f → exec i s = s.finish c i (.fault f)) : BoundChecked i g sides := by
  intro s c k before sd after hc ha h1 h4 hs hj hb hf
  obtain ⟨f, hsf, hf⟩ := sideFault_some h1 h4 hf
  obtain ⟨hcause, hreason, hbuf, hnamed, hdetails⟩ := hf
  rw [hs] at hj
  exact ⟨f, hcause, hreason, hbuf, hnamed, hdetails, h s c f hc ha (hs ▸ sidesFault_first h1 h4 hj hb hsf)⟩

/-! ## Step 6: the outcomes of the lines (R160) -/

section
variable {outs : List (Thread × List (LineRef × LineOut))} {p : LineOut → Option (Nat × Nat)} {o : LineOut} {key : Nat}

/-- The first outcome that `p` picks out of those of the lanes' lines. -/
def firstOut (outs : List (Thread × List (LineRef × LineOut))) (p : LineOut → Option (Nat × Nat)) : Option (Nat × Nat) :=
  outs.findSome? fun x => x.2.findSome? fun y => p y.2

theorem firstOut_none (h : ∀ x ∈ outs, ∀ y ∈ x.2, p y.2 = none) : firstOut outs p = none :=
  List.findSome?_eq_none_iff.2 fun x hx => List.findSome?_eq_none_iff.2 (h x hx)

/-- Where `p` picks `b` or nothing, and `b` somewhere, it picks `b` first. -/
theorem firstOut_some {b : Nat × Nat} (h : ∀ x ∈ outs, ∀ y ∈ x.2, p y.2 = none ∨ p y.2 = some b)
    (hb : ∃ x ∈ outs, ∃ y ∈ x.2, p y.2 = some b) : firstOut outs p = some b := by
  cases hf : firstOut outs p with
  | none =>
    obtain ⟨x, hx, y, hy, hpy⟩ := hb
    have := List.findSome?_eq_none_iff.1 (List.findSome?_eq_none_iff.1 hf x hx) y hy
    simp [hpy] at this
  | some b' =>
    obtain ⟨x, hx, hf⟩ := List.exists_of_findSome?_eq_some hf
    obtain ⟨y, hy, hf⟩ := List.exists_of_findSome?_eq_some hf
    rcases h x hx y hy with h | h
    · simp [h] at hf
    · exact hf.symm.trans h

/-- The lanes with a line whose outcome is `o`, each with the first such line. -/
def withOut (outs : List (Thread × List (LineRef × LineOut))) (o : LineOut) : List (Thread × LineRef) :=
  outs.filterMap fun x => (x.2.find? fun y => y.2 == o).map fun y => (x.1, y.1)

/-- The fault of the lines whose outcome is `o`. -/
def lineInfo (key : Nat) (outs : List (Thread × List (LineRef × LineOut))) (cause reason : Nat) (o : LineOut) : FaultInfo :=
  { FaultInfo.plain cause reason ((withOut outs o).map (·.1.tid)) with
    buf := pickBuf key ((withOut outs o).map (·.2.buf))
    details := (withOut outs o).map fun x => { tid := x.1.tid, index := none, faddr := some (lineBase x.2.va), opnd := none } }

/-- What each exception of R160 picks. -/
def pickLease : LineOut → Option (Nat × Nat)
  | .lease r => some (causeLease, r)
  | _ => none
def pickOut (o : LineOut) (cause : Nat) (x : LineOut) : Option (Nat × Nat) := if x = o then some (cause, 0) else none

theorem linesFault_eq (key : Nat) (outs : List (Thread × List (LineRef × LineOut))) : linesFault key outs =
    match firstOut outs pickLease with
    | some cr => some (lineInfo key outs cr.1 cr.2 (.lease cr.2))
    | none => match firstOut outs (pickOut .refused causeRemote) with
      | some cr => some (lineInfo key outs cr.1 cr.2 .refused)
      | none => match firstOut outs (pickOut .cls causeClass) with
        | some cr => some (lineInfo key outs cr.1 cr.2 .cls)
        | none => (firstOut outs (pickOut .aliasing causeAlias)).map fun cr => lineInfo key outs cr.1 cr.2 .aliasing := by
  have h0 : (fun o : LineOut => match o with | .lease r => some (causeLease, r) | _ => none) = pickLease := by
    funext o; cases o <;> rfl
  have h1 : (fun o : LineOut => match o with | .refused => some (causeRemote, 0) | _ => none) = pickOut .refused causeRemote := by
    funext o; cases o <;> rfl
  have h2 : (fun o : LineOut => match o with | .cls => some (causeClass, 0) | _ => none) = pickOut .cls causeClass := by
    funext o; cases o <;> rfl
  have h3 : (fun o : LineOut => match o with | .aliasing => some (causeAlias, 0) | _ => none) = pickOut .aliasing causeAlias := by
    funext o; cases o <;> rfl
  rw [← h0, ← h1, ← h2, ← h3]
  rfl

end

/-! ## The faults of the lines -/

section
variable {s : State} {c : Ctx} {i : Instr} {k : Touch} {L : List (Thread × Bool × List LineRef)} {buf : Option Nat}

/-- The outcomes of the lines of the lanes. -/
def State.lineOuts (s : State) (c : Ctx) (k : Touch) (L : List (Thread × Bool × List LineRef)) : List (Thread × List (LineRef × LineOut)) :=
  L.map fun x => (x.1, x.2.2.map fun r => (r, s.lineOut c k x.1 r.va))

/-- The lanes with the addresses of their lines. -/
def lineAddrs (L : List (Thread × Bool × List LineRef)) : List (Thread × List Nat) := L.map fun x => (x.1, x.2.2.map (·.va))

/-- Something holds of every outcome when it holds of every line's. -/
theorem forall_lineOuts {q : LineOut → Prop} : (∀ x ∈ s.lineOuts c k L, ∀ y ∈ x.2, q y.2) ↔
    ∀ l ∈ lineAddrs L, ∀ va ∈ l.2, q (s.lineOut c k l.1 va) := by
  simp only [State.lineOuts, lineAddrs, List.forall_mem_map]

theorem exists_lineOuts {q : LineOut → Prop} : (∃ x ∈ s.lineOuts c k L, ∃ y ∈ x.2, q y.2) ↔
    ∃ l ∈ lineAddrs L, ∃ va ∈ l.2, q (s.lineOut c k l.1 va) := by
  have := not_congr (forall_lineOuts (s := s) (c := c) (k := k) (L := L) (q := fun o => ¬q o))
  push Not at this
  exact this

theorem findSome?_flatMap_none {α β : Type} {f : LineOut → Option β} {outs : List (α × List (LineRef × LineOut))}
    (h : ∀ x ∈ outs, ∀ y ∈ x.2, f y.2 = none) : (outs.flatMap fun x => x.2.map (·.2)).findSome? f = none := by
  rw [List.findSome?_eq_none_iff]
  intro o ho
  obtain ⟨x, hx, ho⟩ := List.mem_flatMap.1 ho
  obtain ⟨y, hy, rfl⟩ := List.mem_map.1 ho
  exact h x hx y hy

/-- No line is held or awaits a retry, and none lies where no memory is. -/
def NoneWait (s : State) (c : Ctx) (k : Touch) (lanes : List (Thread × List Nat)) : Prop :=
  ∀ l ∈ lanes, ∀ va ∈ l.2, ¬((∃ p, s.lineOut c k l.1 va = .held p) ∨ (∃ a, s.lineOut c k l.1 va = .hole a) ∨ s.lineOut c k l.1 va = .retry)

/-- Then the lines' fault, if they have one, is what the access comes to. -/
theorem translateRefs_fault {ok : List LaneOk → Eff} {f : FaultInfo} (h : NoneWait s c k (lineAddrs L))
    (hf : linesFault (s.key 0) (s.lineOuts c k L) = some f) : s.translateRefs c k L ok = .fault f := by
  have hall := (forall_lineOuts (q := fun o => ¬((∃ p, o = .held p) ∨ (∃ a, o = .hole a) ∨ o = .retry))).2 h
  have hhole : ((s.lineOuts c k L).flatMap fun x => x.2.map (·.2)).findSome? (fun o => match o with | .hole a => some a | _ => none) = none :=
    findSome?_flatMap_none fun x hx y hy => by
      have := hall x hx y hy
      cases hy2 : y.2 <;> simp_all
  have hheld : ((s.lineOuts c k L).flatMap fun x => x.2.map (·.2)).findSome? (fun o => match o with | .held a => some a | _ => none) = none :=
    findSome?_flatMap_none fun x hx y hy => by
      have := hall x hx y hy
      cases hy2 : y.2 <;> simp_all
  have hretry : ((s.lineOuts c k L).flatMap fun x => x.2.map (·.2)).contains .retry = false := by
    rw [← Bool.not_eq_true, List.contains_iff_mem]
    intro hm
    obtain ⟨x, hx, hm⟩ := List.mem_flatMap.1 hm
    obtain ⟨y, hy, hr⟩ := List.mem_map.1 hm
    exact hall x hx y hy (.inr (.inr hr))
  unfold State.translateRefs
  change (match ((s.lineOuts c k L).flatMap fun x => x.2.map (·.2)).findSome? (fun o => match o with | .hole a => some a | _ => none) with
    | some a => Eff.hole a
    | none => _) = _
  rw [hhole]
  change (match ((s.lineOuts c k L).flatMap fun x => x.2.map (·.2)).findSome? (fun o => match o with | .held p => some p | _ => none) with
    | some p => Eff.done _ _
    | none => _) = _
  rw [hheld]
  change (if ((s.lineOuts c k L).flatMap fun x => x.2.map (·.2)).contains .retry = true then _ else
    match linesFault (s.key 0) (s.lineOuts c k L) with | some f => Eff.fault f | none => _) = _
  rw [hretry, hf]
  rfl

open Classical in
/-- What the fault names of the lanes with an outcome, lane by lane. -/
theorem map_withOut {α : Type} (o : LineOut) (G : Thread → Option Nat → α) :
    (withOut (s.lineOuts c k L) o).map (fun x => G x.1 (some x.2.va)) =
      ((lineAddrs L).filter fun l => ∃ va ∈ l.2, s.lineOut c k l.1 va = o).map fun l =>
        G l.1 (l.2.find? fun va => s.lineOut c k l.1 va = o) := by
  rw [withOut, State.lineOuts, lineAddrs, List.filterMap_map, List.map_filterMap, List.filter_map, List.map_map,
    ← List.filterMap_eq_map, List.filterMap_filter]
  refine List.filterMap_congr fun x _ => ?_
  have hfind : ((x.2.2.map fun r => (r, s.lineOut c k x.1 r.va)).find? fun y => y.2 == o) =
      (x.2.2.find? fun r => s.lineOut c k x.1 r.va = o).map fun r => (r, s.lineOut c k x.1 r.va) := by
    rw [List.find?_map]
    congr 2
  have hva : ((x.2.2.map (·.va)).find? fun va => s.lineOut c k x.1 va = o) =
      (x.2.2.find? fun r => s.lineOut c k x.1 r.va = o).map (·.va) := List.find?_map ..
  have hany : (∃ va ∈ x.2.2.map (·.va), s.lineOut c k x.1 va = o) ↔ (x.2.2.find? fun r => s.lineOut c k x.1 r.va = o).isSome := by
    simp
  simp only [Function.comp_apply, hfind, hva, hany]
  cases x.2.2.find? fun r => s.lineOut c k x.1 r.va = o <;> rfl

open Classical in
/-- The fault for an outcome that a line has is the one of R160. -/
theorem linesRaised_of {o : LineOut} {cause reason : Nat} (hb : ∀ b, buf = some b → ∀ x ∈ L, ∀ r ∈ x.2.2, r.buf = some b)
    (hs : ∃ l ∈ lineAddrs L, ∃ va ∈ l.2, s.lineOut c k l.1 va = o)
    (hr : exec i s = s.finish c i (.fault (lineInfo (s.key 0) (s.lineOuts c k L) cause reason o))) :
    LinesRaised s c i buf (lineAddrs L) (fun t va => s.lineOut c k t va) cause reason o := by
  refine ⟨lineInfo (s.key 0) (s.lineOuts c k L) cause reason o, rfl, rfl, fun hsome => ?_, map_withOut o fun t _ => t.tid, ?_, hr⟩
  · obtain ⟨b, rfl⟩ := Option.isSome_iff_exists.1 hsome
    have hall : ∀ x ∈ (withOut (s.lineOuts c k L) o).map (·.2.buf), x = some b := by
      intro x hx
      obtain ⟨⟨t, r⟩, hy, rfl⟩ := List.mem_map.1 hx
      obtain ⟨z, hz, hzr⟩ := List.mem_filterMap.1 hy
      obtain ⟨l, hl, rfl⟩ := List.mem_map.1 hz
      obtain ⟨y, hy, hyr⟩ := Option.map_eq_some_iff.1 hzr
      obtain ⟨r', hr', rfl⟩ := List.mem_map.1 (List.mem_of_find?_eq_some hy)
      cases hyr
      exact hb b rfl l hl r' hr'
    have hne : (withOut (s.lineOuts c k L) o).map (·.2.buf) ≠ [] := by
      have := map_withOut (s := s) (c := c) (k := k) (L := L) o fun t _ => t.tid
      obtain ⟨l, hl, h⟩ := hs
      intro hnil
      rw [List.map_eq_nil_iff.1 hnil, List.map_nil, eq_comm, List.map_eq_nil_iff, List.filter_eq_nil_iff] at this
      exact this l hl (decide_eq_true h)
    have hrep := List.eq_replicate_iff.2 ⟨rfl, hall⟩
    show pickBuf _ ((withOut (s.lineOuts c k L) o).map (·.2.buf)) = some b
    rw [pickBuf, hrep, List.replicate_dedup (by simpa using hne)]
    rfl
  · exact map_withOut (s := s) (c := c) (k := k) (L := L) o fun t va => ({ tid := t.tid, index := none, faddr := va.map lineBase, opnd := none } : LaneDetail)

/-- An access that asks for its lines' outcomes next takes them in the order of R160. -/
theorem linesChecked_of {ok : List LaneOk → Eff} (hb : ∀ b, buf = some b → ∀ x ∈ L, ∀ r ∈ x.2.2, r.buf = some b)
    (h : exec i s = s.finish c i (s.translateRefs c k L ok)) : LinesChecked s c i buf (lineAddrs L) k := by
  unfold LinesChecked
  intro out none_ some_ raised hwait
  have hfault {f : FaultInfo} (hf : linesFault (s.key 0) (s.lineOuts c k L) = some f) : exec i s = s.finish c i (.fault f) := by
    rw [h, translateRefs_fault hwait hf]
  have nopick {o : LineOut} {cause : Nat} (hn : none_ (· = o)) : firstOut (s.lineOuts c k L) (pickOut o cause) = none :=
    firstOut_none ((forall_lineOuts (q := fun x => pickOut o cause x = none)).2 fun l hl va hva => if_neg (hn l hl va hva))
  have pick {o : LineOut} (cause : Nat) (hs : some_ o) : firstOut (s.lineOuts c k L) (pickOut o cause) = some (cause, 0) := by
    refine firstOut_some (fun x _ y _ => ?_) ((exists_lineOuts (q := fun x => pickOut o cause x = some (cause, 0))).2 ?_)
    · unfold pickOut
      split
      · exact .inr rfl
      · exact .inl rfl
    · obtain ⟨l, hl, va, hva, ho⟩ := hs
      exact ⟨l, hl, va, hva, if_pos ho⟩
  have hq := linesFault_eq (s.key 0) (s.lineOuts c k L)
  refine ⟨fun r hs hn => linesRaised_of hb hs (hfault ?_), fun hn => ?_⟩
  · have : firstOut (s.lineOuts c k L) pickLease = some (causeLease, r) := by
      refine firstOut_some ((forall_lineOuts (q := fun x => pickLease x = none ∨ pickLease x = some (causeLease, r))).2
        fun l hl va hva => ?_) ((exists_lineOuts (q := fun x => pickLease x = some (causeLease, r))).2 ?_)
      · cases ho : s.lineOut c k l.1 va with
        | lease r' =>
          have : r' = r := by
            by_contra hr
            exact hn l hl va hva ⟨r', ho, hr⟩
          exact .inr (by rw [this]; rfl)
        | ok | held | refused | cls | aliasing | retry | hole => exact .inl rfl
      · obtain ⟨l, hl, va, hva, ho⟩ := hs
        exact ⟨l, hl, va, hva, by rw [show s.lineOut c k l.1 va = .lease r from ho]; rfl⟩
    rw [hq, this]
  · have hlease : firstOut (s.lineOuts c k L) pickLease = none :=
      firstOut_none ((forall_lineOuts (q := fun x => pickLease x = none)).2 fun l hl va hva => by
        cases ho : s.lineOut c k l.1 va with
        | lease r => exact absurd ⟨r, ho⟩ (hn l hl va hva)
        | ok | held | refused | cls | aliasing | retry | hole => rfl)
    rw [hlease] at hq
    refine ⟨fun hs => linesRaised_of hb hs (hfault ?_), fun h1 hs => linesRaised_of hb hs (hfault ?_),
      fun h1 h2 hs => linesRaised_of hb hs (hfault ?_)⟩
    · rw [hq, pick causeRemote hs]
    · rw [hq, nopick h1, pick causeClass hs]
    · rw [hq, nopick h1, nopick h2, pick causeAlias hs]
      rfl

/-- Lanes that touch no line do not matter. -/
theorem linesChecked_filter {lanes : List (Thread × List Nat)} {p : Thread × List Nat → Bool} (hp : ∀ l ∈ lanes, p l = false → l.2 = [])
    (h : LinesChecked s c i buf lanes k) : LinesChecked s c i buf (lanes.filter p) k := by
  have hall (q : LineOut → Prop) : (∀ l ∈ lanes.filter p, ∀ va ∈ l.2, ¬q (s.lineOut c k l.1 va)) →
      ∀ l ∈ lanes, ∀ va ∈ l.2, ¬q (s.lineOut c k l.1 va) := by
    intro hq l hl va hva
    cases hpl : p l with
    | false => rw [hp l hl hpl] at hva; exact absurd hva List.not_mem_nil
    | true => exact hq l (List.mem_filter.2 ⟨hl, hpl⟩) va hva
  have hex {o : LineOut} : (∃ l ∈ lanes.filter p, ∃ va ∈ l.2, s.lineOut c k l.1 va = o) → ∃ l ∈ lanes, ∃ va ∈ l.2, s.lineOut c k l.1 va = o :=
    fun ⟨l, hl, h⟩ => ⟨l, List.mem_of_mem_filter hl, h⟩
  have hraised (cause reason : Nat) (o : LineOut) (hr : LinesRaised s c i buf lanes (fun t va => s.lineOut c k t va) cause reason o) :
      LinesRaised s c i buf (lanes.filter p) (fun t va => s.lineOut c k t va) cause reason o := by
    classical
    have hbad : ((lanes.filter p).filter fun l => ∃ va ∈ l.2, s.lineOut c k l.1 va = o) =
        lanes.filter fun l => ∃ va ∈ l.2, s.lineOut c k l.1 va = o := by
      rw [List.filter_filter]
      refine List.filter_congr fun l hl => ?_
      cases hpl : p l with
      | false => simp [hp l hl hpl]
      | true => simp
    obtain ⟨f, h1, h2, h3, h4, h5, h6⟩ := hr
    refine ⟨f, h1, h2, h3, h4.trans ?_, h5.trans ?_, h6⟩
    · exact congrArg (List.map fun l => l.1.tid) hbad.symm
    · exact congrArg (List.map fun l => ({ tid := l.1.tid, index := none, opnd := none, faddr :=
        (l.2.find? fun va => s.lineOut c k l.1 va = o).map lineBase } : LaneDetail)) hbad.symm
  unfold LinesChecked
  intro out none_ some_ raised hwait
  obtain ⟨hlease, hrest⟩ := h (hall (fun o => (∃ p, o = .held p) ∨ (∃ a, o = .hole a) ∨ o = .retry) hwait)
  refine ⟨fun r hs hn => hraised _ _ _ (hlease r (hex hs) (hall (fun o => ∃ r', o = .lease r' ∧ r' ≠ r) hn)), fun hn => ?_⟩
  obtain ⟨h1, h2, h3⟩ := hrest (hall (fun o => ∃ r, o = .lease r) hn)
  exact ⟨fun hs => hraised _ _ _ (h1 (hex hs)), fun hr hs => hraised _ _ _ (h2 (hall (· = .refused) hr) (hex hs)),
    fun hr hc hs => hraised _ _ _ (h3 (hall (· = .refused) hr) (hall (· = .cls) hc) (hex hs))⟩

/-- Those of a side's lanes that lie inside their records, with the lines of each. -/
theorem touched_eq (sd : Side) (size : Nat) :
    (lineAddrs ((sd.lanes.map fun l => (l.t, if l.inside then some (l.addr, size) else none)).map fun x => (x.1, x.2.isNone, match x.2 with
      | none => []
      | some (va, n) => (lineVas va n).map fun v => ({ va := v, buf := some sd.buf.val } : LineRef)))).filter (fun l => !l.2.isEmpty) =
      sd.touched size := by
  rw [Side.touched, lineAddrs, List.map_map, List.map_map, List.filter_map, List.map_congr_left (g := fun l => (l.t, lineVas l.addr size))]
  · refine congrArg _ (List.filter_congr fun l _ => ?_)
    cases hi : l.inside <;> simp [hi, lineVas]
  · intro l hl
    have hl := (List.mem_filter.1 hl).2
    cases hi : l.inside <;> simp [hi] at hl ⊢
    exact List.map_id _

/-- An access that makes the checks of one side, and only then goes on, makes them in their order. -/
theorem checked_of {i : Instr} {g : Guards} {size : Nat} {sd : Ctx → Side} {k : Ctx → Touch} (h : ∀ s c, CanIssue s c i g → NoAcquire s c g →
    ∃ ok, exec i s = s.finish c i (s.checkSide c (sd c) size (k c) ok)) : Checked i g size sd k := by
  refine ⟨boundChecked_of fun s c f hc ha hf => ?_, fun s c hc ha hp => ?_⟩
  · obtain ⟨ok, h⟩ := h s c hc ha
    rw [h, State.checkSide, hf]
  · obtain ⟨ok, h⟩ := h s c hc ha
    rw [State.checkSide, sidesFault_none (sides := [sd c]) (by simpa using hp)] at h
    rw [← touched_eq]
    refine linesChecked_filter (fun l _ hl => by simpa using hl) (linesChecked_of (ok := ok) (fun b hb x hx r hr => ?_) h)
    obtain ⟨y, -, rfl⟩ := List.mem_map.1 hx
    cases hb
    rcases y with ⟨t, _ | ⟨va, n⟩⟩
    · exact absurd hr List.not_mem_nil
    · obtain ⟨v, -, rfl⟩ := List.mem_map.1 hr
      rfl

end

/-! ## The accesses -/

theorem checked_ld (g : Guards) (o : MemOp) :
    Checked (.ld g o) g (widthBytes o.width) (fun c => recSide c (c.active g) o.addr recR (some (widthBytes o.width)) (widthBytes o.width))
      Ctx.touchLoad :=
  checked_of fun _ _ hc ha => ⟨_, by change execLd g o _ = _; rw [execLd, runMem_issues hc ha]; rfl⟩

theorem checked_st (g : Guards) (o : MemOp) :
    Checked (.st g o) g (widthBytes o.width) (fun c => recSide c (c.active g) o.addr recW (some (widthBytes o.width)) (widthBytes o.width))
      Ctx.touchStore :=
  checked_of fun _ _ hc ha => ⟨_, by change execSt g o _ = _; rw [execSt, runMem_issues hc ha]; rfl⟩

theorem checked_stPass (g : Guards) (o : PassOp) :
    Checked (.stPass g o) g (widthBytes o.width)
      (fun c => recSide c (c.active g) { idx := o.idx, buf := o.buf, k := none } recW (some (widthBytes o.width)) (widthBytes o.width))
      fun c => { write := true, cls := fun x k => match k with | .pv => !recP (c.recOf o.buf x) | .ord => c.doOk | .sc | .rc | .ws => true } :=
  checked_of fun _ _ hc ha => ⟨_, by change execStPass g o _ = _; rw [execStPass, runMem_issues hc ha]; rfl⟩

theorem checked_atom (g : Guards) (o : AtomOp) :
    Checked (.atom g o) g (if o.wide then 8 else 4)
      (fun c => recSide c (c.active g) o.addr recA (some (if o.wide then 8 else 4)) (if o.wide then 8 else 4)) Ctx.touchAtom :=
  checked_of fun _ _ hc ha => ⟨_, by change execAtom g o _ = _; rw [execAtom, atomLanes, runMem_issues hc ha]; rfl⟩

theorem checked_cas (g : Guards) (o : CasOp) :
    Checked (.cas g o) g (if o.wide then 8 else 4)
      (fun c => recSide c (c.active g) o.addr recA (some (if o.wide then 8 else 4)) (if o.wide then 8 else 4)) Ctx.touchAtom :=
  checked_of fun _ _ hc ha => ⟨_, by change execCas g o _ = _; rw [execCas, atomLanes, runMem_issues hc ha]; rfl⟩

theorem checked_aacc (g : Guards) (o : AaccOp) :
    Checked (.aacc g o) g 128 (fun c => recSide c (c.active g) o.addr recA none 128) Ctx.touchAacc :=
  checked_of fun _ _ hc ha => ⟨_, by change execAacc g o _ = _; rw [execAacc, runMem_issues hc ha]; rfl⟩

theorem checked_ldacc {g : Guards} {o : LdaccOp} (hz : o.zero = false) :
    Checked (.ldacc g o) g 128 (fun c => recSide c (c.active g) o.addr recR none 128) Ctx.touchLoad := by
  have hperm : (fun r => recR r && (!o.zero || recA r)) = recR := by simp [hz]
  exact checked_of fun s c hc ha => ⟨_, by
    change execLdacc g o s = _
    rw [execLdacc, runMem_issues hc ha, hperm, hz]
    rfl⟩

theorem checked_ldacc_zero {g : Guards} {o : LdaccOp} (hz : o.zero = true) :
    Checked (.ldacc g o) g 128 (fun c => recSide c (c.active g) o.addr (fun r => recR r && recA r) none 128) Ctx.touchLdaccZero := by
  have hperm : (fun r => recR r && (!o.zero || recA r)) = fun r => recR r && recA r := by simp [hz]
  exact checked_of fun s c hc ha => ⟨_, by
    change execLdacc g o s = _
    rw [execLdacc, runMem_issues hc ha, hperm, hz]
    rfl⟩

/-- A load of images through a record. -/
theorem checked_fill {i : Instr} {g : Guards} {a : SpillAddr} {b : RecNum} {size : Nat} {bad : List Byte → Bool}
    {put : Ctx → State → Thread → List Byte → State} {drop : Ctx → State → Thread → State}
    (h : ∀ s, exec i s = runFill i g a size s bad put drop) (hb : a.buf = some b) :
    Checked i g size (fun c => spillSide c (c.active g) a b recR) Ctx.touchLoad :=
  checked_of fun s c hc ha => ⟨_, by rw [h, runFill, runMem_issues hc ha, hb]⟩

/-- A store of images through a record. -/
theorem checked_spill {i : Instr} {g : Guards} {a : SpillAddr} {b : RecNum} {size : Nat} {image : Ctx → Thread → List Byte}
    (h : ∀ s, exec i s = runSpill i g a size s image) (hb : a.buf = some b) :
    Checked i g size (fun c => spillSide c (c.active g) a b recW) Ctx.touchStore :=
  checked_of fun s c hc ha => ⟨_, by rw [h, runSpill, runMem_issues hc ha, hb]⟩

/-! ## The copies -/

theorem boundChecked_cpyGs (g : Guards) (o : CopyOp) :
    BoundChecked (.cpyGs g o) g fun c => [copySide c (c.active g) (copyBytes o.size) o.a o.buf recR] :=
  boundChecked_of fun s c f hc ha hf => by
    change execCpyGs g o s = _
    rw [execCpyGs, runMem_issues hc ha]
    simp only [hf]

theorem boundChecked_cpySg (g : Guards) (o : CopyOp) :
    BoundChecked (.cpySg g o) g fun c => [copySide c (c.active g) (copyBytes o.size) o.d o.buf recW] :=
  boundChecked_of fun s c f hc ha hf => by
    change execCpySg g o s = _
    rw [execCpySg, runMem_issues hc ha]
    simp only [hf]

theorem boundChecked_cpyGg (g : Guards) (o : CopyGGOp) :
    BoundChecked (.cpyGg g o) g fun c =>
      [copySide c (c.active g) (copyBytes o.size) o.a o.srec recR, copySide c (c.active g) (copyBytes o.size) o.d o.drec recW] :=
  boundChecked_of fun s c f hc ha hf => by
    change execCpyGg g o s = _
    rw [execCpyGg, runMem_issues hc ha]
    simp only [hf]

/-! ## The classes and the outcomes (R159, R160) -/

/-- What each kind of access accepts. -/
theorem touch_cls (c : Ctx) (x : Thread) : let own := c.tk.ordered && !c.g.inRoutine
    c.touchLoad.cls x .ord = own ∧ c.touchStore.cls x .ord = own ∧ c.touchAtom.cls x .ord = own ∧ c.touchAacc.cls x .ord = own ∧
    c.touchLdaccZero.cls x .ord = own ∧
    (∀ k, k ≠ .ord → c.touchLoad.cls x k = true ∧ c.touchStore.cls x k = true) ∧
    (∀ k, k ≠ .ord → (c.touchAtom.cls x k = true ↔ k = .sc ∨ k = .rc)) ∧
    ∀ k, k ≠ .ord → (c.touchAacc.cls x k = true ↔ k ≠ .ws) ∧ (c.touchLdaccZero.cls x k = true ↔ k ≠ .ws) := by
  refine ⟨rfl, rfl, rfl, rfl, rfl, fun k hk => ?_, fun k hk => ?_, fun k hk => ?_⟩
  · simp [Ctx.touchLoad, Ctx.touchStore, hk]
  · cases k <;> simp [Ctx.touchAtom] at hk ⊢
  · cases k <;> simp [Ctx.touchAacc, Ctx.touchLdaccZero] at hk ⊢

section
variable {s : State} {c : Ctx} {k : Touch} {x : Thread} {va : Nat} {wr : Bool} {y : Xlat}

/-- The outcome of a line of a covered page whose walk succeeds, step by step. -/
theorem lineOut_eq (hva : va < 2 ^ 57) (hl : s.leaseCheck (s.leaseOf c.tk.slot) (va / 65536) = .covered wr)
    (ht : s.translate c.tm.core c.tk.ctx va = .ok y) : s.lineOut c k x va =
      if k.write && !wr then .lease 4
      else if y.mig || s.heldPages.contains (c.tk.ctx, va / 65536) then .held (va / 65536)
      else if k.write && !y.canWrite then .lease 4
      else (placeHole y.place.line 128).elim (s.classOut c k x y) .hole := by
  rw [State.lineOut, if_neg (Nat.not_le.2 hva), pageOf, hl, ht]
  dsimp only
  cases placeHole y.place.line 128 <;> rfl

theorem placeHole_none {p : Place} (h : p.space = .dev → p.addr + 128 ≤ 2 ^ 40) : placeHole p 128 = none := by
  rw [placeHole]
  split
  · next hd => rw [physHole, if_pos (show p.addr + 128 ≤ physLimit from h hd)]
  · rfl
  · rfl

/-- A PV or DO page of host memory is barred to every access. -/
theorem classOut_barred (hs : k.skip y = false) (hb : y.place.space = .host ∧ (y.cls = .pv ∨ y.cls = .ord)) :
    s.classOut c k x y = .cls := by
  simp [State.classOut, hs, hb.1, hb.2]

/-- Elsewhere the class decides, then a tag of another class. -/
theorem classOut_of_not_barred (hs : k.skip y = false) (hb : ¬(y.place.space = .host ∧ (y.cls = .pv ∨ y.cls = .ord))) :
    s.classOut c k x y =
      if !k.cls x y.cls then .cls
      else if s.aliased c.tm.core y then .aliasing
      else match y.place.space with
        | .dev | .host => .ok y
        | .remote _ =>
          if k.write then .ok y
          else if y.cls = .pv then .refused
          else match Config.freePick (s.key (y.place.lineNo % 2 ^ 32)) % 4 with
            | 1 => .refused
            | 2 => .retry
            | 3 => .aliasing
            | _ => .ok y := by
  have : (y.place.space == .host && (y.cls == .pv || y.cls == .ord)) = false := by simpa [← Bool.not_eq_true] using hb
  rw [State.classOut, hs, this]
  rfl

/-- CLASS is the outcome of a class that is not accepted, and of no other. -/
theorem classOut_cls_iff (hs : k.skip y = false) :
    s.classOut c k x y = .cls ↔ (y.place.space = .host ∧ (y.cls = .pv ∨ y.cls = .ord)) ∨ k.cls x y.cls = false := by
  by_cases hb : y.place.space = .host ∧ (y.cls = .pv ∨ y.cls = .ord)
  · simp [classOut_barred hs hb, hb]
  · rw [classOut_of_not_barred hs hb]
    cases hk : k.cls x y.cls
    · simp
    · simp only [hb, Bool.not_true, Bool.true_eq_false, Bool.false_eq_true, if_false, or_self, iff_false]
      repeat' split
      all_goals exact LineOut.noConfusion

/-- The outcomes of a page that may be read, by what holds of it. -/
theorem lineOut_cases (hva : va < 2 ^ 57) (hl : s.leaseCheck (s.leaseOf c.tk.slot) (va / 65536) = .covered wr)
    (ht : s.translate c.tm.core c.tk.ctx va = .ok y) (hs : k.skip y = false) :
    let held := y.mig = true ∨ (c.tk.ctx, va / 65536) ∈ s.heldPages
    let barred := y.place.space = .host ∧ (y.cls = .pv ∨ y.cls = .ord)
    (k.write = true → wr = false → s.lineOut c k x va = .lease 4) ∧
    ((k.write = true → wr = true) → held → s.lineOut c k x va = .held (va / 65536)) ∧
    ((k.write = true → wr = true) → ¬held → k.write = true → y.canWrite = false → s.lineOut c k x va = .lease 4) ∧
    ((k.write = true → wr = true ∧ y.canWrite = true) → ¬held → (y.place.space = .dev → y.place.line.addr + 128 ≤ 2 ^ 40) →
      (s.lineOut c k x va = .cls ↔ barred ∨ k.cls x y.cls = false) ∧
      (barred → s.lineOut c k x va = .cls) ∧
      (¬barred → k.cls x y.cls = true → s.aliased c.tm.core y = true → s.lineOut c k x va = .aliasing) ∧
      (¬barred → k.cls x y.cls = true → s.aliased c.tm.core y = false → (∀ d, y.place.space ≠ .remote d) → s.lineOut c k x va = .ok y)) := by
  intro held barred
  have heq := lineOut_eq (k := k) (x := x) hva hl ht
  have hheld : (y.mig || s.heldPages.contains (c.tk.ctx, va / 65536)) = true ↔ held := by simp [held]
  have hpass (h : k.write = true → wr = true) : ¬(k.write && !wr) = true := by
    cases hw : k.write <;> simp_all
  refine ⟨fun hw hn => ?_, fun h hh => ?_, fun h hh hw hc => ?_, fun h hh hroom => ?_⟩
  · rw [heq, hw, hn]
    rfl
  · rw [heq, if_neg (hpass h), if_pos (hheld.2 hh)]
  · rw [heq, if_neg (hpass h), if_neg (mt hheld.1 hh), hw, hc]
    rfl
  · have hcan : ¬(k.write && !y.canWrite) = true := by
      cases hw : k.write <;> simp_all
    rw [if_neg (hpass fun hw => (h hw).1), if_neg (mt hheld.1 hh), if_neg hcan, placeHole_none (p := y.place.line) hroom] at heq
    simp only [Option.elim_none] at heq
    rw [heq]
    refine ⟨classOut_cls_iff hs, classOut_barred hs, fun hb hk ha => ?_, fun hb hk ha hr => ?_⟩
    · rw [classOut_of_not_barred hs hb, hk, ha]
      rfl
    · rw [classOut_of_not_barred hs hb, hk, ha]
      cases hsp : y.place.space with
      | dev | host => rfl
      | remote d => exact absurd hsp (hr d)

end

/-- Settles O33: each instruction asks for the fault of its sides first and for the outcomes of its lines next. -/
theorem accessFaults : Obligations.AccessFaults := by
  refine ⟨fun g o => ⟨checked_ld g o, checked_st g o⟩, checked_stPass, checked_atom, checked_cas, checked_aacc,
    fun g o => ⟨checked_ldacc, checked_ldacc_zero⟩,
    fun g o b hb => ⟨checked_fill (fun _ => rfl) hb, checked_spill (fun _ => rfl) hb⟩,
    fun g o b hb => ⟨checked_fill (fun _ => rfl) hb, checked_spill (fun _ => rfl) hb⟩,
    fun g o => ⟨boundChecked_cpyGs g o, boundChecked_cpySg g o⟩, boundChecked_cpyGg, touch_cls,
    fun s c k x va wr y hva hl ht hs => lineOut_cases hva hl ht hs⟩

end Sys2Proof.Machine

/-!
What loads leave behind (R335 to R348): the caches' operations change caches alone, dirty PV bytes go home, and the bytes that a load
returns are those that the memory model allows.
-/
namespace Sys2Proof.Machine

open Sys2Proof

/-! ## Bytes of a line -/

theorem getElem?_leBytes {k n j : Nat} (h : j < k) : (leBytes k n)[j]? = some (BitVec.ofNat 8 (n / 256 ^ j)) := by
  induction k generalizing n j with
  | zero => omega
  | succ k ih =>
    cases j with
    | zero => simp [leBytes]
    | succ j => rw [leBytes, List.getElem?_cons_succ, ih (by omega), Nat.div_div_eq_div_mul, Nat.pow_succ']

theorem length_lineBytes (d : BitVec 1024) : (lineBytes d).length = 128 := length_leBytes ..

theorem getElem?_lineBytes (d : BitVec 1024) {j : Nat} (h : j < 128) : (lineBytes d)[j]? = some (d.extractLsb' (8 * j) 8) := by
  rw [lineBytes, getElem?_leBytes h]
  refine congrArg some (BitVec.eq_of_toNat_eq ?_)
  rw [BitVec.toNat_ofNat, BitVec.extractLsb'_toNat, Nat.shiftRight_eq_div_pow, show (256 : Nat) = 2 ^ 8 from rfl, ← pow_mul]

theorem Memory.length_bytes (m : List Host.Cell) (a n : Nat) : (Memory.bytes m a n).length = n := by simp [Memory.bytes_eq]

theorem Memory.getElem?_bytes (m : List Host.Cell) (a : Nat) {n j : Nat} (h : j < n) :
    (Memory.bytes m a n)[j]? = some (Memory.read m (a + j)) := by
  simp [Memory.bytes_eq, h]

theorem length_maskBytes {old new : List Byte} (mask : BitVec 128) (h : new.length = old.length) :
    (maskBytes old new mask).length = old.length := by
  simp [maskBytes, h]

theorem getElem?_maskBytes {old new : List Byte} {mask : BitVec 128} {j : Nat} {o n : Byte} (ho : old[j]? = some o) (hn : new[j]? = some n) :
    (maskBytes old new mask)[j]? = some (if mask.getLsbD j then n else o) := by
  have hj : j < old.length := (List.getElem?_eq_some_iff.1 ho).1
  have hget : old[j] = o := (List.getElem?_eq_some_iff.1 ho).2
  simp only [maskBytes, List.zip, List.getElem?_map, List.getElem?_zipWith, hn, hget, bitAt, List.getElem?_range hj, List.getElem?_eq_getElem hj]
  rfl

theorem lineBase_add_mod (a : Nat) : lineBase a + a % 128 = a := by
  rw [lineBase]
  omega

/-- The masked bytes of a line written over it. -/
def maskedPut (m : List Host.Cell) (b : Nat) (d : BitVec 1024) (mask : BitVec 128) : List Host.Cell :=
  Memory.put m b (maskBytes (Memory.bytes m b 128) (lineBytes d) mask)

theorem read_maskedPut (m : List Host.Cell) (b a : Nat) (d : BitVec 1024) (mask : BitVec 128) :
    Memory.read (maskedPut m (lineBase b) d mask) a =
      if lineBase b = lineBase a ∧ mask.getLsbD (a % 128) = true then d.extractLsb' (8 * (a % 128)) 8 else Memory.read m a := by
  have hlen : (maskBytes (Memory.bytes m (lineBase b) 128) (lineBytes d) mask).length = 128 := by
    rw [length_maskBytes _ (by rw [length_lineBytes, Memory.length_bytes]), Memory.length_bytes]
  have hmod : a % 128 < 128 := Nat.mod_lt _ (by decide)
  unfold maskedPut
  generalize hbs : maskBytes (Memory.bytes m (lineBase b) 128) (lineBytes d) mask = bs at hlen ⊢
  by_cases hb : lineBase b = lineBase a
  · have hget := getElem?_maskBytes (mask := mask) (Memory.getElem?_bytes m (lineBase b) hmod) (getElem?_lineBytes d hmod)
    have hlt : a % 128 < bs.length := by omega
    have hread := Memory.read_put_inside m (lineBase b) (a % 128) bs hlt
    rw [hbs, List.getElem?_eq_getElem hlt, Option.some_inj] at hget
    rw [hget, hb, lineBase_add_mod] at hread
    rw [hb, hread]
    simp
  · rw [Memory.read_put_outside, if_neg fun h => hb h.1]
    rw [hlen]
    simp only [lineBase] at hb ⊢
    omega

/-! ## Dirty bytes go home -/

theorem MemAfter.refl (ls : List L1Line) (sp : Space) (m : List Host.Cell) : MemAfter ls sp m m := fun _ => .inl rfl

theorem MemAfter.cons {l : L1Line} {ls : List L1Line} {sp : Space} {m m1 m2 : List Host.Cell} (h1 : MemAfter [l] sp m m1)
    (h2 : MemAfter ls sp m1 m2) : MemAfter (l :: ls) sp m m2 := by
  intro a
  rcases h2 a with h2 | ⟨x, hx, h⟩
  · rcases h1 a with h1 | ⟨x, hx, h⟩
    · exact .inl (h2.trans h1)
    · cases List.mem_singleton.1 hx
      obtain ⟨hs, hb, hd, hr⟩ := h
      exact .inr ⟨l, List.mem_cons_self, hs, hb, hd, h2.trans hr⟩
  · exact .inr ⟨x, List.mem_cons_of_mem _ hx, h⟩

theorem MemAfter.mono {ls ls' : List L1Line} {sp : Space} {m m' : List Host.Cell} (h : MemAfter ls sp m m') (hl : ∀ l ∈ ls, l ∈ ls') :
    MemAfter ls' sp m m' := fun a => (h a).imp id fun ⟨l, hm, h⟩ => ⟨l, hl l hm, h⟩

/-- Dirty bytes of some lines written home. -/
def State.writeBack (s : State) (ls : List L1Line) : State :=
  ls.foldl (fun s l => if l.dirty = 0 then s else s.writeMasked l.place (lineBytes l.data) l.dirty) s

theorem State.l1Evict_eq (s : State) (q : L1Line → Bool) :
    s.l1Evict q = { s.writeBack (s.l1.filter q) with l1 := (s.writeBack (s.l1.filter q)).l1.filter fun l => !q l } := rfl

theorem memAfter_maskedPut (l : L1Line) (m : List Host.Cell) :
    MemAfter [l] l.place.space m (maskedPut m (lineBase l.place.addr) l.data l.dirty) := by
  intro a
  rw [read_maskedPut]
  split
  · next h => exact .inr ⟨l, List.mem_singleton_self l, rfl, h.1, h.2, rfl⟩
  · exact .inl rfl

/-- A line's dirty bytes go to the memory that it is of. -/
theorem State.writeMasked_line (s : State) (l : L1Line) : ∃ m h, s.writeMasked l.place (lineBytes l.data) l.dirty =
    { s with mem := m, hostMem := h } ∧ MemAfter [l] .dev s.mem m ∧ MemAfter [l] .host s.hostMem h := by
  have hput := memAfter_maskedPut l
  cases hs : l.place.space with
  | dev =>
    rw [hs] at hput
    exact ⟨_, s.hostMem, by simp [State.writeMasked, State.writeBytes, State.homeLine, State.readBytes, Place.line, maskedPut, hs], hput s.mem, MemAfter.refl _ _ _⟩
  | host =>
    rw [hs] at hput
    exact ⟨s.mem, _, by simp [State.writeMasked, State.writeBytes, Place.line, maskedPut, hs], MemAfter.refl _ _ _, hput s.hostMem⟩
  | remote d => exact ⟨s.mem, s.hostMem, by simp [State.writeMasked, State.writeBytes, Place.line, hs], MemAfter.refl _ _ _, MemAfter.refl _ _ _⟩

theorem State.writeBack_eq (s : State) (ls : List L1Line) : ∃ m h, s.writeBack ls = { s with mem := m, hostMem := h } ∧
    MemAfter ls .dev s.mem m ∧ MemAfter ls .host s.hostMem h := by
  induction ls generalizing s with
  | nil => exact ⟨s.mem, s.hostMem, rfl, MemAfter.refl _ _ _, MemAfter.refl _ _ _⟩
  | cons l ls ih =>
    obtain ⟨m1, h1, heq, hm1, hh1⟩ : ∃ m h, (if l.dirty = 0 then s else s.writeMasked l.place (lineBytes l.data) l.dirty) =
        { s with mem := m, hostMem := h } ∧ MemAfter [l] .dev s.mem m ∧ MemAfter [l] .host s.hostMem h := by
      split
      · exact ⟨s.mem, s.hostMem, rfl, MemAfter.refl _ _ _, MemAfter.refl _ _ _⟩
      · exact s.writeMasked_line l
    obtain ⟨m2, h2, heq2, hm2, hh2⟩ := ih { s with mem := m1, hostMem := h1 }
    exact ⟨m2, h2, by rw [State.writeBack, List.foldl_cons, heq]; exact heq2, hm1.cons hm2, hh1.cons hh2⟩

/-! ## The messages behind -/

theorem Msg.superseded_superseded (m : Msg) : m.superseded.superseded = m.superseded := by cases m <;> rfl

theorem Superseding.refl (l : List Msg) : Superseding l l := List.forall₂_same.2 fun _ _ => .inl rfl

theorem Superseding.trans {a b c : List Msg} (h1 : Superseding a b) (h2 : Superseding b c) : Superseding a c := by
  unfold Superseding at *
  induction h1 generalizing c with
  | nil =>
    cases h2
    exact .nil
  | @cons x y _ _ hxy _ ih =>
    cases h2 with
    | cons hyz h2 =>
      refine .cons ?_ (ih h2)
      rcases hxy with rfl | rfl
      · exact hyz
      · rw [Msg.superseded_superseded, or_self] at hyz
        exact .inr hyz

theorem Superseding.of_append {a b c : List Msg} (h : Superseding (a ++ b) c) : ∃ c1 c2, Superseding a c1 ∧ Superseding b c2 ∧ c = c1 ++ c2 := by
  induction a generalizing c with
  | nil => exact ⟨[], c, .nil, h, rfl⟩
  | cons x a ih =>
    cases h with
    | @cons _ y _ c hxy h =>
      obtain ⟨c1, c2, h1, h2, rfl⟩ := ih h
      exact ⟨y :: c1, c2, .cons hxy h1, h2, rfl⟩

/-- What is no pass is not superseded. -/
theorem Superseding.eq_of_fixed {a b : List Msg} (h : Superseding a b) (ha : ∀ m ∈ a, m.superseded = m) : b = a := by
  induction h with
  | nil => rfl
  | cons hxy _ ih =>
    rw [ih fun m hm => ha m (List.mem_cons_of_mem _ hm)]
    rcases hxy with rfl | rfl
    · rfl
    · rw [ha _ List.mem_cons_self]

section
variable {s t u : State}

theorem NetAfter.of_eq (hn : t.net = s.net) (hp : t.partials = s.partials) : NetAfter s t [] :=
  ⟨s.net, [], [], by simp [hn], .refl _, List.Sublist.slnil, .refl _, by simp, fun x hx => .inl (hp ▸ hx), fun x hx => hp ▸ hx⟩

theorem NetAfter.of_superseding (hn : Superseding s.net t.net) (hp : t.partials = s.partials) : NetAfter s t [] :=
  ⟨t.net, [], [], by simp, hn, List.Sublist.slnil, .refl _, by simp, fun x hx => .inl (hp ▸ hx), fun x hx => hp ▸ hx⟩

theorem NetAfter.trans {a b : List Msg} (h1 : NetAfter s t a) (h2 : NetAfter t u b) (ha : ∀ m ∈ a, m.superseded = m) :
    NetAfter s u (a ++ b) := by
  obtain ⟨old, sent, gone, hnet, hold, hsub, hperm, hgone, hkept, hfrom⟩ := h1
  obtain ⟨old', sent', gone', hnet', hold', hsub', hperm', hgone', hkept', hfrom'⟩ := h2
  rw [hnet] at hold'
  obtain ⟨o1, o2, h1, h2, rfl⟩ := hold'.of_append
  have hfix : ∀ m ∈ sent, m.superseded = m := by
    intro m hm
    rcases List.mem_append.1 (hperm.mem_iff.1 hm) with hm | hm
    · exact ha m hm
    · obtain ⟨x, -, rfl⟩ := List.mem_map.1 hm
      rfl
  cases h2.eq_of_fixed hfix
  refine ⟨o1, sent ++ sent', gone ++ gone', by rw [hnet', List.append_assoc], hold.trans h1, hsub.append hsub', ?_, ?_, ?_, ?_⟩
  · refine (hperm.append hperm').trans ?_
    rw [List.map_append, List.append_assoc, List.append_assoc]
    refine List.Perm.append_left a ?_
    rw [← List.append_assoc, ← List.append_assoc]
    exact List.Perm.append_right _ List.perm_append_comm
  · intro x hx
    rcases List.mem_append.1 hx with hx | hx
    · exact hgone x hx
    · exact ⟨hfrom x (hgone' x hx).1, (hgone' x hx).2⟩
  · intro x hx
    rcases hkept x hx with hx | hx
    · exact (hkept' x hx).imp id fun h => List.mem_append_right _ h
    · exact .inr (List.mem_append_left _ hx)
  · exact fun x hx => hfrom x (hfrom' x hx)

/-! ## Changes of the caches alone -/

theorem CachesOnly.refl (s : State) : CachesOnly s s :=
  ⟨rfl, .of_eq rfl rfl, MemAfter.refl _ _ _, MemAfter.refl _ _ _, .refl _, fun _ h => h, fun l h _ => ⟨l, h, rfl, rfl, rfl⟩⟩

/-- Dirty bytes that a line had before another change are those of a line of then. -/
theorem MemAfter.trans_l1 {sp : Space} {l1 l1' : List L1Line} {m m1 m2 : List Host.Cell} (h1 : MemAfter l1 sp m m1)
    (h2 : MemAfter l1' sp m1 m2) (hl : ∀ l ∈ l1', l.dirty ≠ 0 → ∃ x ∈ l1, x.place = l.place ∧ x.data = l.data ∧ x.dirty = l.dirty) :
    MemAfter l1 sp m m2 := by
  intro a
  rcases h2 a with h2 | ⟨l, hm, hs, hb, hd, hr⟩
  · rcases h1 a with h1 | ⟨x, hx, hs, hb, hd, hr⟩
    · exact .inl (h2.trans h1)
    · exact .inr ⟨x, hx, hs, hb, hd, h2.trans hr⟩
  · have hne : l.dirty ≠ 0 := by
      intro h0
      simp [h0] at hd
    obtain ⟨x, hx, hp, hdata, hdirty⟩ := hl l hm hne
    exact .inr ⟨x, hx, by rw [hp, hs], by rw [hp, hb], by rw [hdirty, hd], by rw [hdata, hr]⟩

theorem CachesOnly.trans (h1 : CachesOnly s t) (h2 : CachesOnly t u) : CachesOnly s u := by
  obtain ⟨heq, hnet, hmem, hhost, hws, hrep, hl1⟩ := h1
  obtain ⟨heq', hnet', hmem', hhost', hws', hrep', hl1'⟩ := h2
  refine ⟨?_, hnet.trans hnet' (by simp), hmem.trans_l1 hmem' hl1, hhost.trans_l1 hhost' hl1, hws.trans hws',
    fun r hr => hrep r (hrep' r hr), fun l hl hd => ?_⟩
  · rw [heq'] 
    rw [heq]
  · obtain ⟨x, hx, hp, hdata, hdirty⟩ := hl1' l hl hd
    obtain ⟨y, hy, hp', hdata', hdirty'⟩ := hl1 x hx (by rw [hdirty]; exact hd)
    exact ⟨y, hy, hp'.trans hp, hdata'.trans hdata, hdirty'.trans hdirty⟩

/-! ## The operations of the caches -/

theorem CachesOnly.cells (h : CachesOnly s t) : t.cells = s.cells := (congrArg State.cells h.1 :)
theorem CachesOnly.tasks (h : CachesOnly s t) : t.tasks = s.tasks := (congrArg State.tasks h.1 :)
theorem CachesOnly.teams (h : CachesOnly s t) : t.teams = s.teams := (congrArg State.teams h.1 :)

/-- A change of copies, tags and translations. -/
theorem CachesOnly.of_copies {l1 : List L1Line} {l2 : List L2Line} {rs : List Replica} {dir : List Nat} {ltb : List LtbEntry}
    (hl : ∀ l ∈ l1, l.dirty ≠ 0 → ∃ x ∈ s.l1, x.place = l.place ∧ x.data = l.data ∧ x.dirty = l.dirty) (hr : ∀ r ∈ rs, r ∈ s.replicas) :
    CachesOnly s { s with l1 := l1, l2 := l2, replicas := rs, directory := dir, ltb := ltb } :=
  ⟨rfl, .of_eq rfl rfl, MemAfter.refl _ _ _, MemAfter.refl _ _ _, .refl _, hr, hl⟩

/-- A change of the tags of L2 alone. -/
theorem CachesOnly.of_l2 (s : State) (l2 : List L2Line) : CachesOnly s { s with l2 := l2 } :=
  .of_copies (fun l hl _ => ⟨l, hl, rfl, rfl, rfl⟩) fun _ h => h

theorem State.fillLtb_caches (s : State) (core ctx va : Nat) : CachesOnly s (s.fillLtb core ctx va) := by
  unfold State.fillLtb
  split
  · exact .refl s
  · split
    · exact .of_copies (fun l hl _ => ⟨l, hl, rfl, rfl, rfl⟩) fun _ h => h
    · exact .refl s
    · exact .refl s

theorem State.l1Touch_caches (s : State) (core : Nat) (p : Place) : CachesOnly s (s.l1Touch core p) := by
  refine .of_copies (fun l hl _ => ?_) fun _ h => h
  obtain ⟨x, hx, rfl⟩ := List.mem_map.1 hl
  refine ⟨x, hx, ?_⟩
  split <;> exact ⟨rfl, rfl, rfl⟩

theorem State.l1Evict_caches (s : State) (q : L1Line → Bool) : CachesOnly s (s.l1Evict q) := by
  obtain ⟨m, h, heq, hm, hh⟩ := s.writeBack_eq (s.l1.filter q)
  rw [State.l1Evict_eq, heq]
  exact ⟨rfl, .of_eq rfl rfl, hm.mono fun l hl => List.mem_of_mem_filter hl, hh.mono fun l hl => List.mem_of_mem_filter hl, .refl _,
    fun _ h => h, fun l hl _ => ⟨l, List.mem_of_mem_filter hl, rfl, rfl, rfl⟩⟩

theorem State.filterRoom_caches (s : State) (core : Nat) (p : Place) : CachesOnly s (s.filterRoom core p) := by
  unfold State.filterRoom
  split
  · split
    · exact s.l1Evict_caches _
    · exact .refl s
  · exact .refl s

theorem State.l1Room_caches (s : State) (core : Nat) (p : Place) : CachesOnly s (s.l1Room core p) := by
  unfold State.l1Room
  dsimp only
  split
  · exact .refl s
  · split
    · exact .refl s
    · split
      · exact s.l1Evict_caches _
      · exact .refl s

/-- A clean line takes its place. -/
theorem State.l1Put_caches (s : State) {l : L1Line} (h : l.dirty = 0) : CachesOnly s (s.l1Put l) := by
  refine .of_copies (fun x hx hd => ?_) fun _ h => h
  rcases List.mem_cons.1 hx with rfl | hx
  · exact absurd h hd
  · exact ⟨x, List.mem_of_mem_filter hx, rfl, rfl, rfl⟩

theorem State.purgeRegion_caches (s : State) (region : Nat) (clubs : Nat → Bool) : CachesOnly s (s.purgeRegion region clubs) := by
  refine (s.l1Evict_caches fun l => l.place.lineNo / 4 == region && clubs (clubOf l.core)).trans ⟨rfl, .of_superseding ?_ rfl,
    MemAfter.refl _ _ _, MemAfter.refl _ _ _, .refl _, fun _ h => h, fun l hl _ => ⟨l, hl, rfl, rfl, rfl⟩⟩
  rw [State.purgeRegion, Superseding, List.forall₂_map_right_iff, List.forall₂_same]
  intro m _
  cases m with
  | pass p cls d clk target core owner also stale =>
    dsimp only [Msg.superseded]
    cases (p.lineNo / 4 == region && clubs (clubOf core)) <;> simp
  | _ => exact .inl rfl

theorem State.dirRoom_caches (s : State) (p : Place) : CachesOnly s (s.dirRoom p) := by
  unfold State.dirRoom
  dsimp only
  split
  · exact .refl s
  · split
    · exact .refl s
    · split
      · exact (s.purgeRegion_caches _ _).trans (.of_copies (fun l hl _ => ⟨l, hl, rfl, rfl, rfl⟩) fun _ h => h)
      · exact .refl s

theorem State.dirSet_caches (s : State) (p : Place) (club : Nat) : CachesOnly s (s.dirSet p club) := by
  have hdir (u : State) (d : List Nat) : CachesOnly u { u with directory := d } :=
    .of_copies (fun l hl _ => ⟨l, hl, rfl, rfl, rfl⟩) fun _ h => h
  unfold State.dirSet
  dsimp only
  split
  · exact hdir s _
  · split
    · exact .refl s
    · exact (s.dirRoom_caches p).trans (hdir _ _)

theorem mem_of_pickOne {α : Type} {key : Nat} {l : List α} {x : α} (h : pickOne key l = some x) : x ∈ l := by
  unfold pickOne at h
  split at h
  · exact List.mem_of_mem_head? h
  · exact List.mem_of_getElem? h

/-- What makes room in a slice: a line, replicas and registered partials leave, which go home. -/
theorem State.l2Room_eq (s : State) (slice : Nat) (p : Place) : ∃ l2 rs ps net, s.l2Room slice p =
    { s with l2 := l2, replicas := rs, partials := ps, net := net } ∧ NetAfter s (s.l2Room slice p) [] ∧ ∀ r ∈ rs, r ∈ s.replicas := by
  unfold State.l2Room
  dsimp only
  split
  · exact ⟨_, _, _, _, rfl, .of_eq rfl rfl, fun _ h => h⟩
  · split
    · next v hv =>
      refine ⟨_, _, _, _, rfl, ?_, fun r hr => List.mem_of_mem_filter hr⟩
      have hmay : s.mayDrop slice v = true := (List.mem_filter.1 (mem_of_pickOne hv)).2
      refine ⟨s.net, _, s.partials.filter fun x => x.slice == slice && devPlace x.line == v, rfl, .refl _, List.nil_sublist _, ?_,
        fun x hx => ?_, fun x hx => ?_, fun x hx => List.mem_of_mem_filter hx⟩
      · rw [List.nil_append]
        refine List.Perm.of_eq (List.map_congr_left fun x hx => ?_)
        simp only [List.mem_filter, Bool.and_eq_true, beq_iff_eq] at hx
        rw [hx.2.1]
      · obtain ⟨hx, hmine⟩ := List.mem_filter.1 hx
        refine ⟨hx, ?_⟩
        simp only [State.mayDrop, Bool.and_eq_true, Bool.not_eq_true', List.any_eq_false] at hmay
        have := hmay.1.2 x hx
        simp only [Bool.and_eq_true, beq_iff_eq] at hmine
        simpa [hmine.1, hmine.2] using this
      · simp only [List.mem_filter, hx, true_and]
        cases x.slice == slice && devPlace x.line == v <;> simp
    · exact ⟨_, _, _, _, rfl, .of_eq rfl rfl, fun _ h => h⟩

theorem State.l2Room_caches (s : State) (slice : Nat) (p : Place) : CachesOnly s (s.l2Room slice p) := by
  obtain ⟨l2, rs, ps, net, heq, hnet, hr⟩ := s.l2Room_eq slice p
  rw [heq] at hnet ⊢
  exact ⟨rfl, hnet, MemAfter.refl _ _ _, MemAfter.refl _ _ _, .refl _, hr, fun l hl _ => ⟨l, hl, rfl, rfl, rfl⟩⟩

theorem State.tagL2_caches (s : State) (p : Place) (cls : Cls) : CachesOnly s (s.tagL2 p cls) := by
  unfold State.tagL2
  split
  · split
    · exact .refl s
    · exact .of_l2 s _
  · exact (s.l2Room_caches _ _).trans (.of_l2 _ _)

theorem State.fillL2_caches (s : State) (p : Place) (cls : Cls) (cp : Nat) : CachesOnly s (s.fillL2 p cls cp) := by
  unfold State.fillL2
  split
  · exact .refl s
  · exact s.tagL2_caches p cls

theorem State.fillL1_caches (s : State) (core : Nat) (p : Place) (cls : Cls) (cp : Nat) (bs : List Byte) :
    CachesOnly s (s.fillL1 core p cls cp bs) := by
  unfold State.fillL1
  dsimp only
  split
  · exact s.fillL2_caches ..
  · exact ((((s.fillL2_caches ..).trans (State.filterRoom_caches ..)).trans (State.l1Room_caches ..)).trans (State.l1Put_caches _ rfl)).trans
      (State.dirSet_caches ..)

theorem State.remoteLine_caches (s : State) (p : Place) (cls : Cls) (cp : Nat) : CachesOnly s (s.remoteLine p cls cp).2 := by
  unfold State.remoteLine
  split
  · exact .refl s
  · dsimp only
    split
    · exact (s.l2Room_caches _ _).trans (.of_l2 _ _)
    · exact .refl s

/-- A load changes caches alone. -/
theorem State.loadBytes_caches (s : State) (core : Nat) (k : ThreadKey) (x : Xlat) (n : Nat) : CachesOnly s (s.loadBytes core k x n).2 := by
  unfold State.loadBytes
  dsimp only
  split
  · exact s.remoteLine_caches ..
  all_goals
    split
    · exact (s.fillL2_caches ..).trans (State.l1Touch_caches ..)
    · split
      · exact s.l1Touch_caches ..
      · exact s.fillL1_caches ..

/-- An acquire drops lines and marks stores as known. -/
theorem State.acquire_caches (s : State) (core : Nat) (sc : Scope) : CachesOnly s (s.acquire core sc) := by
  have hdv : CachesOnly s (s.acquire core .dv) := by
    refine ⟨rfl, .of_eq rfl rfl, MemAfter.refl _ _ _, MemAfter.refl _ _ _, ?_, fun _ h => h,
      fun l hl _ => ⟨l, List.mem_of_mem_filter hl, rfl, rfl, rfl⟩⟩
    obtain ⟨l1, ws, heq, -, hws⟩ := s.acquire_dv core
    rw [heq]
    exact hws
  cases sc with
  | sy => exact hdv.trans (.of_l2 _ _)
  | sq | tm | cl | lg | dv => exact hdv

theorem State.acquireIf_caches (s : State) (core : Nat) (o : Option Scope) : CachesOnly s (s.acquireIf core o) := by
  cases o with
  | none => exact .refl s
  | some sc => exact s.acquire_caches core sc


end

end Sys2Proof.Machine

/-!
What a load returns (R157, R158, R332, R337 to R341): of the model's choices each is one that the memory model allows.
-/
namespace Sys2Proof.Machine

open Sys2Proof

/-! ## What the home gives -/

theorem length_layOver (a b : Nat) (bs data : List Byte) : (layOver a bs b data).length = bs.length := by simp [layOver]

theorem State.length_hostBytes (s : State) (a n : Nat) : (s.hostBytes a n).length = n := by
  have : ∀ (ms : List Msg) (bs : List Byte), (ms.foldl (fun bs m => match m with
      | .hostWrite _ b data => layOver a bs b data
      | _ => bs) bs).length = bs.length := by
    intro ms
    induction ms with
    | nil => exact fun _ => rfl
    | cons m ms ih =>
      intro bs
      rw [List.foldl_cons, ih]
      cases m with
      | hostWrite _ b data => exact length_layOver ..
      | _ => rfl
  exact (this s.net _).trans (Memory.length_bytes ..)

theorem State.length_readBytes (s : State) (p : Place) (n : Nat) : (s.readBytes p n).length = n := by
  unfold State.readBytes
  split
  · exact Memory.length_bytes ..
  · exact s.length_hostBytes ..
  · simp

theorem State.length_homeLine (s : State) (p : Place) : (s.homeLine p).length = 128 := s.length_readBytes ..

theorem overlay_one {bs : List Byte} {o : Nat} (v : Byte) (h : o < bs.length) : overlay bs o [v] = bs.set o v := by
  have hlen : (v :: bs.drop (o + 1)).length = bs.length - o := by
    rw [List.length_cons, List.length_drop]
    omega
  rw [List.set_eq_take_cons_drop v h, overlay, List.length_singleton, List.singleton_append, List.take_of_length_le hlen.le]

/-- Bytes that are those of `b0`, or of unordered stores of other threads to the line (R340). -/
def State.WsMix (s : State) (k : ThreadKey) (p : Place) (b0 b : List Byte) : Prop :=
  b.length = 128 ∧ ∀ j < 128, b[j]? = b0[j]? ∨
    ∃ x ∈ s.wsStores, x.owner ≠ k ∧ x.space = p.space ∧ ∃ v, (lineBase p.addr + j, v) ∈ x.bytes ∧ b[j]? = some v

section
variable {s : State} {k : ThreadKey} {p : Place} {b0 : List Byte}

theorem State.WsMix.set {b : List Byte} {x : WsStore} {a : Nat} {v : Byte} (h : s.WsMix k p b0 b) (hx : x ∈ s.wsStores) (ho : x.owner ≠ k)
    (hs : x.space = p.space) (hv : (a, v) ∈ x.bytes) (ha : lineBase a = lineBase p.addr) : s.WsMix k p b0 (overlay b (a % 128) [v]) := by
  obtain ⟨hlen, hb⟩ := h
  have hmod : a % 128 < 128 := Nat.mod_lt _ (by decide)
  rw [overlay_one v (hlen.symm ▸ hmod)]
  refine ⟨by rw [List.length_set, hlen], fun j hj => ?_⟩
  by_cases he : a % 128 = j
  · refine .inr ⟨x, hx, ho, hs, v, ?_, ?_⟩
    · rwa [← ha, ← he, lineBase_add_mod]
    · rw [← he, List.getElem?_set_self (hlen.symm ▸ hmod)]
  · rw [List.getElem?_set_ne he]
    exact hb j hj

theorem State.WsMix.store {x : WsStore} (hx : x ∈ s.wsStores) (ho : x.owner ≠ k) (hs : x.space = p.space) :
    ∀ (bytes : List (Nat × Byte)) (b : List Byte), (∀ y ∈ bytes, y ∈ x.bytes) → s.WsMix k p b0 b →
      s.WsMix k p b0 (bytes.foldl (fun bs b => if lineBase b.1 = lineBase p.addr then overlay bs (b.1 % 128) [b.2] else bs) b)
  | [], _, _, h => h
  | y :: bytes, b, hy, h => by
    refine State.WsMix.store hx ho hs bytes _ (fun z hz => hy z (List.mem_cons_of_mem _ hz)) ?_
    dsimp only
    split
    · next ha => exact h.set hx ho hs (hy y List.mem_cons_self) ha
    · exact h

theorem State.WsMix.wsLine (h0 : b0.length = 128) : s.WsMix k p b0 (s.wsLine k p b0) := by
  have hstep : ∀ (xs : List (Nat × WsStore)) (b : List Byte), (∀ x ∈ xs, x.2 ∈ s.wsStores ∧ x.2.owner ≠ k ∧ x.2.space = p.space) →
      s.WsMix k p b0 b → s.WsMix k p b0 (xs.foldl (fun bs x =>
        let new := x.2.bytes.foldl (fun bs b => if lineBase b.1 = lineBase p.addr then overlay bs (b.1 % 128) [b.2] else bs) bs
        if new = bs then bs else if Config.freeBit (s.key (2 ^ 20 + x.1)) then new else bs) b) := by
    intro xs
    induction xs with
    | nil => exact fun _ _ h => h
    | cons x xs ih =>
      intro b hall h
      obtain ⟨hx, ho, hs⟩ := hall x List.mem_cons_self
      refine ih _ (fun y hy => hall y (List.mem_cons_of_mem _ hy)) ?_
      dsimp only
      split
      · exact h
      · split
        · exact .store hx ho hs _ _ (fun _ hy => hy) h
        · exact h
  refine hstep _ _ (fun x hx => ?_) ⟨h0, fun _ _ => .inl rfl⟩
  obtain ⟨hmem, hq⟩ := List.mem_filter.1 hx
  rw [Bool.and_eq_true, bne_iff_ne, beq_iff_eq] at hq
  exact ⟨(List.of_mem_zip hmem).2, hq⟩

/-- The home gives a line that it may give. -/
theorem State.homeView_gives (s : State) (core : Nat) (k : ThreadKey) (p : Place) (cls : Cls) :
    s.homeGives core k p cls (s.homeView core k p cls) := by
  unfold State.homeGives
  split
  · next h =>
    obtain ⟨rfl, hsp⟩ := h
    unfold State.homeView
    split
    · rfl
    · next hne => exact absurd hsp (hne rfl)
  · next h =>
    have hview : s.homeView core k p cls = (s.flights core p).foldl layStore (if cls = .ws then s.wsLine k p (s.homeLine p) else s.homeLine p) := by
      unfold State.homeView
      split
      · next hsp => exact absurd ⟨rfl, hsp⟩ h
      · rfl
    have hlen := s.length_homeLine p
    refine ⟨_, ?_, hview, fun j hj => ?_⟩
    · split
      · exact (State.WsMix.wsLine hlen).1
      · exact hlen
    · split
      · next hws => exact ((State.WsMix.wsLine hlen).2 j hj).imp id fun h => ⟨hws, h⟩
      · exact .inl rfl

/-! ## What a thread sees -/

/-- A thread sees a line that it may see. -/
theorem State.seenLine_maySee (s : State) (core : Nat) (k : ThreadKey) (p : Place) (line : List Byte) :
    s.maySee core k p line (s.seenLine core k p line) := by
  unfold State.seenLine
  split
  · exact .inl rfl
  · next r hr =>
    have hr' := List.find?_some hr
    simp only [Bool.and_eq_true, beq_iff_eq] at hr'
    obtain ⟨⟨⟨hclub, htask⟩, hplace⟩, -⟩ := hr'
    have hall : ∀ y ∈ (line :: r.versions.map fun v => (s.flights core p).foldl layStore (lineBytes v)).dedup, s.maySee core k p line y := by
      intro y hy
      rcases List.mem_cons.1 (List.mem_dedup.1 hy) with rfl | hy
      · exact .inl rfl
      · obtain ⟨v, hv, rfl⟩ := List.mem_map.1 hy
        exact .inr ⟨r, List.mem_of_find?_eq_some hr, hclub, htask, hplace, v, hv, rfl⟩
    dsimp only
    split
    · next x hx => exact hall x (hx ▸ List.mem_singleton_self x)
    · rw [List.getD_eq_getElem?_getD]
      cases hget : ((line :: r.versions.map fun v => (s.flights core p).foldl layStore (lineBytes v)).dedup)[
          Config.freeSeen s.freeCtr k.tid p.lineNo % ((line :: r.versions.map fun v => (s.flights core p).foldl layStore (lineBytes v)).dedup).length]? with
      | none => exact .inl rfl
      | some y => exact hall y (List.mem_of_getElem? hget)

/-- The line that a load starts from, and the caches after it. -/
def State.loadLine (s : State) (core : Nat) (k : ThreadKey) (x : Xlat) : List Byte × State :=
  match x.place.space with
  | .remote _ => s.remoteLine x.place x.cls x.cp
  | .dev | .host =>
    if x.cls = .sc then (s.homeView core k x.place .sc, (s.fillL2 x.place .sc x.cp).l1Touch core x.place)
    else match s.l1At core x.place with
      | some l => (lineBytes l.data, s.l1Touch core x.place)
      | none => (s.homeView core k x.place x.cls, s.fillL1 core x.place x.cls x.cp (s.homeView core k x.place x.cls))

/-- A load outside DO pages returns bytes that it may return. -/
theorem State.loadBytes_mayLoad (s : State) (core : Nat) (k : ThreadKey) (x : Xlat) (n : Nat) (hx : x.cls ≠ .ord) :
    s.mayLoad core k x n (s.loadBytes core k x n).1 := by
  rw [State.mayLoad, if_neg hx]
  obtain ⟨line, hstart, hline⟩ : ∃ line, s.startLine core k x line ∧ (s.loadLine core k x).1 = line := by
    refine ⟨_, ?_, rfl⟩
    unfold State.loadLine State.startLine
    cases hsp : x.place.space with
    | remote d =>
      rintro ⟨place, cls, data⟩ e hl rfl
      dsimp only
      rw [State.remoteLine, hl]
    | dev | host =>
      dsimp only
      by_cases hsc : x.cls = .sc
      · rw [if_pos hsc, if_pos hsc, hsc]
        exact s.homeView_gives ..
      · rw [if_neg hsc, if_neg hsc]
        cases s.l1At core x.place with
        | some l => rfl
        | none => exact s.homeView_gives ..
  exact ⟨line, _, hstart, s.seenLine_maySee core k x.place line, by rw [← hline]; rfl⟩

end

end Sys2Proof.Machine

/-!
Loads one after another (R157): a state stands for one that has answered the loads so far to threads and marked lanes, and the words of
code are those that memory and the writes on their way to the host give.
-/
namespace Sys2Proof.Machine

open Sys2Proof

/-! ## Messages that matter -/

/-- Is it a write to host memory? -/
def Msg.isHostWrite : Msg → Bool
  | .hostWrite _ _ _ => true
  | _ => false

/-- Is it a load's data? -/
def Msg.isLoad : Msg → Bool
  | .load _ _ _ => true
  | _ => false

@[simp] theorem Msg.isLoad_superseded (m : Msg) : m.superseded.isLoad = m.isLoad := by cases m <;> rfl

/-- The write of one message over some bytes. -/
def layMsg (a : Nat) (bs : List Byte) : Msg → List Byte
  | .hostWrite _ b data => layOver a bs b data
  | _ => bs

theorem State.hostBytes_eq (s : State) (a n : Nat) : s.hostBytes a n = s.net.foldl (layMsg a) (Memory.bytes s.hostMem a n) := by
  rw [State.hostBytes]
  congr 1

theorem foldl_layMsg_filter {q : Msg → Bool} (hq : ∀ m, m.isHostWrite = true → q m = true) (a : Nat) (net : List Msg) (bs : List Byte) :
    (net.filter q).foldl (layMsg a) bs = net.foldl (layMsg a) bs := by
  induction net generalizing bs with
  | nil => rfl
  | cons m net ih =>
    rw [List.filter_cons, List.foldl_cons]
    split
    · rw [List.foldl_cons, ih]
    · next hm =>
      rw [ih]
      cases m with
      | hostWrite ow b data => exact absurd (hq _ rfl) hm
      | _ => rfl

/-- Host memory as the device sees it depends on the writes on their way to it alone. -/
theorem State.hostBytes_congr {s t : State} {q : Msg → Bool} (hq : ∀ m, m.isHostWrite = true → q m = true)
    (hn : t.net.filter q = s.net.filter q) (hm : t.hostMem = s.hostMem) (a n : Nat) : t.hostBytes a n = s.hostBytes a n := by
  rw [t.hostBytes_eq, s.hostBytes_eq, ← foldl_layMsg_filter hq, hn, foldl_layMsg_filter hq, hm]

/-! ## Words of code -/

theorem State.codeWordNow_net (s : State) {net : List Msg} (hn : net.filter Msg.isHostWrite = s.net.filter Msg.isHostWrite) (tk : Task)
    (a : Nat) : ({ s with net := net } : State).codeWordNow tk a = s.codeWordNow tk a := by
  have hread (p : Place) (n : Nat) : ({ s with net := net } : State).readBytes p n = s.readBytes p n := by
    unfold State.readBytes
    cases p.space with
    | dev => rfl
    | host => exact State.hostBytes_congr (s := s) (t := { s with net := net }) (fun _ h => h) hn rfl p.addr n
    | remote d => rfl
  simp only [State.codeWordNow, hread]
  rfl

/-- The words of code are those of memory and of the writes on their way to the host. -/
theorem State.peekWord_net (s : State) {net : List Msg} (hn : net.filter Msg.isHostWrite = s.net.filter Msg.isHostWrite) (tk : Task)
    (a : Nat) : ({ s with net := net } : State).peekWord tk a = s.peekWord tk a := by
  have hd : ({ s with net := net } : State).asDequeued tk = { s.asDequeued tk with net := net } := rfl
  simp only [State.peekWord, hd, State.codeWordNow_net _ hn, State.codeWordNow_net (s.asDequeued tk) hn]
  rfl

/-- Where an instruction goes on depends on what a fetch sees alone. -/
theorem State.skipPads_net (s : State) {net : List Msg} (hn : net.filter Msg.isHostWrite = s.net.filter Msg.isHostWrite) (tk : Task)
    (a : Nat) : ({ s with net := net } : State).skipPads tk a = s.skipPads tk a :=
  State.skipPads_congr (s.peekWord_net hn tk) a

/-- Messages that are no passes are superseded in no way. -/
theorem Superseding.filter_eq {q : Msg → Bool} (hq : ∀ m, q m.superseded = q m) (hfix : ∀ m, q m = true → m.superseded = m)
    {a b : List Msg} (h : Superseding a b) : b.filter q = a.filter q := by
  unfold Superseding at h
  induction h with
  | nil => rfl
  | @cons x y _ _ hxy _ ih =>
    have hqy : q y = q x := by
      rcases hxy with rfl | rfl
      · rfl
      · exact hq x
    rw [List.filter_cons, List.filter_cons, ih, hqy]
    split
    · next hx =>
      rcases hxy with rfl | rfl
      · rfl
      · rw [hfix x hx]
    · rfl

/-- What caches send changes no message that `q` picks. -/
theorem NetAfter.filter {s t : State} {new : List Msg} {q : Msg → Bool} (h : NetAfter s t new) (hq : ∀ m, q m.superseded = q m)
    (hfix : ∀ m, q m = true → m.superseded = m) (hsurr : ∀ j l k x, q (.surrE j l k x) = false) (hnew : ∀ m ∈ new, q m = false) :
    t.net.filter q = s.net.filter q := by
  obtain ⟨old, sent, gone, hnet, hold, -, hperm, -⟩ := h
  have hsent : sent.filter q = [] := by
    rw [List.filter_eq_nil_iff]
    intro m hm
    rcases List.mem_append.1 (hperm.mem_iff.1 hm) with hm | hm
    · simp [hnew m hm]
    · obtain ⟨x, -, rfl⟩ := List.mem_map.1 hm
      simp [hsurr]
  rw [hnet, List.filter_append, hsent, List.append_nil, hold.filter_eq hq hfix]

theorem NetAfter.hostWrites {s t : State} {new : List Msg} (h : NetAfter s t new) (hnew : ∀ m ∈ new, m.isHostWrite = false) :
    t.net.filter Msg.isHostWrite = s.net.filter Msg.isHostWrite :=
  h.filter (fun m => by cases m <;> rfl) (fun m hm => by cases m <;> simp_all [Msg.isHostWrite, Msg.superseded]) (fun _ _ _ _ => rfl) hnew

/-! ## A state and what stands for it -/

/-- `w` is `u` but for what its threads have received and for data on its way to threads. -/
def Shadow (w u : State) : Prop :=
  w = { u with teams := w.teams, net := w.net } ∧ (w.net.filter fun m => !m.isLoad) = (u.net.filter fun m => !m.isLoad) ∧
    ∀ k, w.ownStores k = u.ownStores k

section
variable {w u w' : State} {core : Nat} {k : ThreadKey} {x : Xlat} {n : Nat} {bs : List Byte}

theorem Shadow.refl (s : State) : Shadow s s := ⟨rfl, rfl, fun _ => rfl⟩

theorem Shadow.hostBytes (h : Shadow w u) (a m : Nat) : w.hostBytes a m = u.hostBytes a m :=
  State.hostBytes_congr (fun m hm => by cases m <;> simp_all [Msg.isHostWrite, Msg.isLoad]) h.2.1 (by rw [h.1]) a m

theorem Shadow.readBytes (h : Shadow w u) (p : Place) (m : Nat) : w.readBytes p m = u.readBytes p m := by
  have hmem : w.mem = u.mem := by rw [h.1]
  have hkey : w.key 0 = u.key 0 := by rw [h.1]; rfl
  rw [State.readBytes, State.readBytes, hmem, hkey, h.hostBytes]

theorem Shadow.homeLine (h : Shadow w u) (p : Place) : w.homeLine p = u.homeLine p := h.readBytes ..

/-- The store of a core to a line that a message is. -/
def Msg.flight (core : Nat) (p : Place) : Msg → Option LaneStore
  | .store c w => if c = core ∧ w.place.line = p.line then some w else none
  | _ => none

theorem State.flights_eq (s : State) (core : Nat) (p : Place) : s.flights core p = s.net.filterMap (Msg.flight core p) := by
  refine List.filterMap_congr fun m _ => ?_
  cases m <;> rfl

theorem Shadow.flights (h : Shadow w u) (c : Nat) (p : Place) : w.flights c p = u.flights c p := by
  have hload (net : List Msg) : (net.filter fun m => !m.isLoad).filterMap (Msg.flight c p) = net.filterMap (Msg.flight c p) := by
    rw [List.filterMap_filter]
    refine List.filterMap_congr fun m _ => ?_
    cases m <;> rfl
  rw [w.flights_eq, u.flights_eq, ← hload, h.2.1, hload]

theorem Shadow.viewBytes (h : Shadow w u) : w.viewBytes k x n = u.viewBytes k x n := by
  have htask : w.task? k.task = u.task? k.task := by rw [h.1]; rfl
  rw [State.viewBytes, State.viewLine, h.homeLine, htask]
  rfl

/-- A load may return the same bytes. -/
theorem Shadow.mayLoad (h : Shadow w u) (hm : w.mayLoad core k x n bs) : u.mayLoad core k x n bs := by
  have hgives (cls : Cls) (line : List Byte) (hg : w.homeGives core k x.place cls line) : u.homeGives core k x.place cls line := by
    have hhost : w.hostMem = u.hostMem := by rw [h.1]
    have hws : w.wsStores = u.wsStores := by rw [h.1]
    simpa only [State.homeGives, hhost, hws, h.flights, h.homeLine] using hg
  have hl1 : w.l1At core x.place = u.l1At core x.place := by rw [h.1]; rfl
  have hl2 : w.l2 = u.l2 := by rw [h.1]
  have hrep : w.replicas = u.replicas := by rw [h.1]
  unfold State.mayLoad at hm ⊢
  split
  · next ho =>
    rw [if_pos ho, h.viewBytes] at hm
    exact hm
  · next ho =>
    rw [if_neg ho] at hm
    obtain ⟨line, seen, hstart, hsee, hbs⟩ := hm
    refine ⟨line, seen, ?_, ?_, by rw [← h.2.2]; exact hbs⟩
    · unfold State.startLine at hstart ⊢
      rw [hl1, hl2] at hstart
      revert hstart
      cases x.place.space with
      | remote d => exact id
      | dev | host =>
        dsimp only
        split
        · exact id
        · exact hgives _ _
    · simpa only [State.maySee, hrep, h.flights] using hsee

theorem Superseding.exists_of_filter {a : List Msg} : ∀ {b : List Msg}, Superseding (a.filter fun m => !m.isLoad) b →
    ∃ c, Superseding a c ∧ (c.filter fun m => !m.isLoad) = b := by
  induction a with
  | nil =>
    intro b h
    exact ⟨b, h, by cases h; rfl⟩
  | cons m a ih =>
    intro b h
    rw [List.filter_cons] at h
    split at h
    · next hm =>
      cases h with
      | @cons _ y _ b hxy h =>
        obtain ⟨c, hc, rfl⟩ := ih h
        refine ⟨y :: c, .cons hxy hc, List.filter_cons_of_pos ?_⟩
        rcases hxy with rfl | rfl
        · exact hm
        · rwa [Msg.isLoad_superseded]
    · next hm =>
      obtain ⟨c, hc, rfl⟩ := ih h
      exact ⟨m :: c, .cons (.inl rfl) hc, List.filter_cons_of_neg hm⟩

theorem Superseding.filter_isLoad {a b : List Msg} (h : Superseding a b) :
    Superseding (a.filter fun m => !m.isLoad) (b.filter fun m => !m.isLoad) := by
  unfold Superseding at *
  induction h with
  | nil => exact .nil
  | @cons x y _ _ hxy _ ih =>
    have hq : y.isLoad = x.isLoad := by
      rcases hxy with rfl | rfl
      · rfl
      · exact x.isLoad_superseded
    rw [List.filter_cons, List.filter_cons, hq]
    split
    · exact .cons hxy ih
    · exact ih

theorem ownStores_congr {s t : State} (h : t.teams = s.teams) (h' : t.tasks = s.tasks) (k : ThreadKey) : t.ownStores k = s.ownStores k := by
  simp only [State.ownStores, State.queueOf, State.team?, State.task?, h, h']

/-- Caches change alike. -/
theorem Shadow.caches (h : Shadow w u) (hc : CachesOnly w w') : ∃ u', CachesOnly u u' ∧ Shadow w' u' := by
  have htasks : u.tasks = w'.tasks := by rw [hc.tasks, h.1]
  have hown (v : ThreadKey) : w'.ownStores v = w.ownStores v := ownStores_congr hc.teams hc.tasks v
  obtain ⟨heq, ⟨old, sent, gone, hnet, hold, -, hperm, hgone, hkept, hfrom⟩, hmem, hhost, hws, hrep, hl1⟩ := hc
  obtain ⟨hw, hn, ho⟩ := h
  have hold' := hold.filter_isLoad
  rw [hn] at hold'
  obtain ⟨old', hsup, hfil⟩ := hold'.exists_of_filter
  have hparts : w.partials = u.partials := by rw [hw]
  refine ⟨{ w' with teams := u.teams, net := old' ++ sent }, ⟨?_, ⟨old', sent, gone, rfl, hsup, List.nil_sublist _, hperm, ?_, ?_, ?_⟩, ?_, ?_, ?_,
    ?_, ?_⟩, ⟨rfl, ?_, fun v => ?_⟩⟩
  · rw [heq, hw]
  · rwa [← hparts]
  · rwa [← hparts]
  · rwa [← hparts]
  · rwa [hw] at hmem
  · rwa [hw] at hhost
  · rwa [hw] at hws
  · rwa [hw] at hrep
  · rwa [hw] at hl1
  · rw [hnet, List.filter_append, List.filter_append, hfil]
  · rw [hown, ho]
    exact (ownStores_congr (s := { w' with teams := u.teams, net := old' ++ sent }) (t := u) rfl htasks v)

theorem Shadow.reply (h : Shadow w u) (k : ThreadKey) (dest : LoadDest) (bs : List Byte) : Shadow (w.reply k dest bs) u := by
  obtain ⟨hw, hn, ho⟩ := h
  refine ⟨?_, ?_, fun v => (ownStores_congr rfl rfl v).trans (ho v)⟩
  · rw [State.reply, hw]
  · rw [State.reply, List.filter_append, hn]
    exact List.append_nil _

theorem Shadow.skipPads (h : Shadow w u) (tk : Task) (a : Nat) : w.skipPads tk a = u.skipPads tk a := by
  have hn : w.net.filter Msg.isHostWrite = u.net.filter Msg.isHostWrite := by
    have := congrArg (List.filter Msg.isHostWrite) h.2.1
    rw [List.filter_filter, List.filter_filter] at this
    have hq : (fun m : Msg => m.isHostWrite && !m.isLoad) = Msg.isHostWrite := by
      funext m
      cases m <;> rfl
    rwa [hq] at this
  have hskip := u.skipPads_net hn tk a
  rw [← hskip]
  refine State.skipPads_congr (fun b => ?_) a
  exact (congrArg (fun s : State => s.peekWord tk b) h.1).trans rfl

end

end Sys2Proof.Machine

/-!
The checks of R155 as they pass: the lanes go on with the translations of their lines.
-/
namespace Sys2Proof.Machine

open Sys2Proof

section
variable {s : State} {c : Ctx} {k : Touch} {L : List (Thread × Bool × List LineRef)} {ok : List LaneOk → Eff}

/-- The translation of a line, where its outcome is one. -/
def LineOut.xlat (va : Nat) : LineOut → Option (Nat × Xlat)
  | .ok x => some (va, x)
  | _ => none

theorem LineOut.xlat_some {o : LineOut} {va : Nat} {y : Nat × Xlat} (h : o.xlat va = some y) : y.1 = va ∧ o = .ok y.2 := by
  cases o <;> cases h
  exact ⟨rfl, rfl⟩

/-- The lanes as the checks of their lines leave them. -/
def State.okLanes (s : State) (c : Ctx) (k : Touch) (L : List (Thread × Bool × List LineRef)) : List LaneOk :=
  L.map fun l => { t := l.1, dropped := l.2.1, lines := l.2.2.filterMap fun r => (s.lineOut c k l.1 r.va).xlat r.va, buf := (l.2.2.head?).bind (·.buf) }

/-- No line of a DO page holds a cell that must be gathered first. -/
theorem State.doCells_nil {lanes : List LaneOk} (h : ∀ l ∈ lanes, ∀ x ∈ l.lines, s.doClear x.2) : s.doCells lanes = [] := by
  unfold State.doCells
  split
  · rfl
  · rw [List.dedup_eq_nil, List.flatMap_eq_nil_iff]
    intro l hl
    rw [List.map_eq_nil_iff, List.filter_eq_nil_iff]
    intro x hx hb
    simp only [Bool.and_eq_true, beq_iff_eq] at hb
    obtain ⟨⟨ho, hd⟩, hc⟩ := hb
    simp [h l hl x hx ho hd] at hc

/-- Where every line has its translation, the access goes on with the lanes. -/
theorem translateRefs_ok (h : ∀ x ∈ L, ∀ r ∈ x.2.2, ∃ y, s.lineOut c k x.1 r.va = .ok y ∧ s.doClear y) :
    s.translateRefs c k L ok = ok (s.okLanes c k L) := by
  have hall : ∀ x ∈ s.lineOuts c k L, ∀ y ∈ x.2, ∃ z, y.2 = .ok z := by
    intro x hx y hy
    obtain ⟨l, hl, rfl⟩ := List.mem_map.1 hx
    obtain ⟨r, hr, rfl⟩ := List.mem_map.1 hy
    obtain ⟨z, hz, -⟩ := h l hl r hr
    exact ⟨z, hz⟩
  have hnone {β : Type} (f : LineOut → Option β) (hf : ∀ z, f (.ok z) = none) :
      ((s.lineOuts c k L).flatMap fun x => x.2.map (·.2)).findSome? f = none :=
    findSome?_flatMap_none fun x hx y hy => by
      obtain ⟨z, hz⟩ := hall x hx y hy
      rw [hz, hf]
  have hretry : ((s.lineOuts c k L).flatMap fun x => x.2.map (·.2)).contains .retry = false := by
    rw [← Bool.not_eq_true, List.contains_iff_mem]
    intro hm
    obtain ⟨x, hx, hm⟩ := List.mem_flatMap.1 hm
    obtain ⟨y, hy, hr⟩ := List.mem_map.1 hm
    obtain ⟨z, hz⟩ := hall x hx y hy
    cases hr.symm.trans hz
  have hfault : linesFault (s.key 0) (s.lineOuts c k L) = none := by
    have hpick (p : LineOut → Option (Nat × Nat)) (hp : ∀ z, p (.ok z) = none) : firstOut (s.lineOuts c k L) p = none :=
      firstOut_none fun x hx y hy => by
        obtain ⟨z, hz⟩ := hall x hx y hy
        rw [hz, hp]
    rw [linesFault_eq, hpick pickLease fun _ => rfl, hpick _ fun _ => rfl, hpick _ fun _ => rfl, hpick _ fun _ => rfl]
    rfl
  have hlanes : ((L.zip (s.lineOuts c k L)).map fun x => ({ t := x.1.1, dropped := x.1.2.1, lines := x.2.2.filterMap fun y => y.2.xlat y.1.va, buf := (x.1.2.2.head?).bind (·.buf) } : LaneOk)) = s.okLanes c k L := by
    have hzip : L.zip (s.lineOuts c k L) = L.map fun x => (x, x.1, x.2.2.map fun r => (r, s.lineOut c k x.1 r.va)) := by
      rw [State.lineOuts, List.zip_map_right, List.zip_eq_zipWith, List.zipWith_self, List.map_map]
      rfl
    rw [hzip, List.map_map, State.okLanes]
    refine List.map_congr_left fun x _ => ?_
    simp only [Function.comp_apply, List.filterMap_map]
  have hcells : s.doCells (s.okLanes c k L) = [] := State.doCells_nil fun l hl x hx => by
    obtain ⟨y, hy, rfl⟩ := List.mem_map.1 hl
    obtain ⟨r, hr, hrx⟩ := List.mem_filterMap.1 hx
    obtain ⟨z, hz, hclear⟩ := h y hy r hr
    rw [hz] at hrx
    cases hrx
    exact hclear
  unfold State.translateRefs
  change (match ((s.lineOuts c k L).flatMap fun x => x.2.map (·.2)).findSome? (fun o => match o with | .hole a => some a | _ => none) with
    | some a => Eff.hole a
    | none => _) = _
  rw [hnone _ fun _ => rfl]
  change (match ((s.lineOuts c k L).flatMap fun x => x.2.map (·.2)).findSome? (fun o => match o with | .held p => some p | _ => none) with
    | some p => Eff.done _ _
    | none => _) = _
  rw [hnone _ fun _ => rfl]
  change (if ((s.lineOuts c k L).flatMap fun x => x.2.map (·.2)).contains .retry = true then _ else
    match linesFault (s.key 0) (s.lineOuts c k L) with | some f => Eff.fault f | none => _) = _
  rw [hretry, hfault]
  change (match s.doCells ((L.zip (s.lineOuts c k L)).map fun x =>
        ({ t := x.1.1, dropped := x.1.2.1, lines := x.2.2.filterMap (fun y => y.2.xlat y.1.va), buf := (x.1.2.2.head?).bind (·.buf) } : LaneOk)) with
    | [] => ok _
    | ps => _) = _
  rw [hlanes, hcells]
  exact congrArg ok hlanes

end

section
variable {s : State} {c : Ctx} {i : Instr} {g : Guards} {sd : Side} {size : Nat} {k : Touch}

/-- An access whose checks pass goes on with its lanes. -/
theorem State.checkSide_ok {ok : List LaneOk → Eff} (hs : SidePasses sd) (hl : LinesPass s c sd size k) :
    s.checkSide c sd size k ok = ok (s.laneOks c sd size k) := by
  rw [State.checkSide, sidesFault_none (by simpa using hs)]
  dsimp only
  rw [State.translateLanes, translateRefs_ok]
  · rw [State.okLanes, State.laneOks, List.map_map, List.map_map]
    refine congrArg ok (List.map_congr_left fun l _ => ?_)
    cases hi : l.inside
    · simp [hi]
    · simp only [Function.comp_apply, hi, if_true, List.filterMap_map]
      rfl
  · intro x hx r hr
    rw [List.map_map] at hx
    obtain ⟨l, hlm, rfl⟩ := List.mem_map.1 hx
    cases hi : l.inside
    · simp [hi] at hr
    · simp only [Function.comp_apply, hi, if_true, List.mem_map] at hr
      obtain ⟨v, hv, rfl⟩ := hr
      exact hl l hlm hi v hv

end
end Sys2Proof.Machine

/-!
LD and plain LDACC (O12, R153, R156, R157, R166): each lane loads what it may, one after another, and its data is on its way to it.
-/
namespace Sys2Proof.Machine

open Sys2Proof

/-! ## The lanes of an access -/

section
variable {s : State} {c : Ctx} {i : Instr} {g : Guards} {sd : Side} {size : Nat} {k : Touch}

/-- A lane of a side as its checks leave it. -/
def State.laneOk (s : State) (c : Ctx) (sd : Side) (size : Nat) (k : Touch) (l : LaneIdx) : LaneOk :=
  { t := l.t, dropped := !l.inside,
    lines := if l.inside then (lineVas l.addr size).filterMap fun va => (s.lineOut c k l.t va).xlat va else []
    buf := if l.inside then some sd.buf.val else none }

theorem State.laneOks_eq (s : State) (c : Ctx) (sd : Side) (size : Nat) (k : Touch) : s.laneOks c sd size k = sd.lanes.map (s.laneOk c sd size k) :=
  rfl

theorem State.laneOk_lines_dropped {l : LaneIdx} (hi : l.inside = false) : (s.laneOk c sd size k l).lines = [] := by
  simp [State.laneOk, hi]

/-- The first line of a lane is the one at its address. -/
theorem State.laneOk_lines_inside {l : LaneIdx} {x : Xlat} (hi : l.inside = true) (hx : s.lineOut c k l.t l.addr = .ok x) :
    ∃ rest, (s.laneOk c sd size k l).lines = (l.addr, x) :: rest := by
  simp [State.laneOk, hi, lineVas, hx, LineOut.xlat]

theorem mem_droppedTids {lanes : List LaneOk} {tid : Nat} : tid ∈ droppedTids lanes ↔ ∃ l ∈ lanes, l.dropped = true ∧ l.t.tid = tid := by
  simp [droppedTids, and_assoc]

/-! ## Lanes that are dropped -/

theorem State.markDropped_eq (s : State) (c : Ctx) (lanes : List LaneOk) (f : Thread → Thread) : s.markDropped c lanes f =
    s.modTeam c.tk.id c.tm.team fun tm => tm.modThreads (fun t => (droppedTids lanes).contains t.tid) fun t => f { t with oobst := true } := rfl

/-- Queues are of warps: a change of a team that keeps its warps keeps them. -/
theorem State.queueOf_modTeam {m n : Nat} {F : Team → Team} (hF : ∀ a, (F a).task = a.task ∧ (F a).team = a.team ∧ (F a).warps = a.warps)
    (s : State) (k : ThreadKey) : (s.modTeam m n F).queueOf k = s.queueOf k := by
  have hteam : (s.modTeam m n F).team? k.task k.team = (s.team? k.task k.team).map fun a => if k.task = m ∧ k.team = n then F a else a :=
    State.team?_modTeam fun a => ⟨(hF a).1, (hF a).2.1⟩
  simp only [State.queueOf, hteam, State.task?_congr (s := s) (t := s.modTeam m n F) rfl]
  cases s.task? k.task with
  | none => rfl
  | some tk =>
    cases s.team? k.task k.team with
    | none => rfl
    | some tm =>
      simp only [Option.map_some]
      split
      · rw [Team.warp, (hF tm).2.2, Team.warp]
      · rfl

theorem State.ownStores_modTeam {m n : Nat} {F : Team → Team} (hF : ∀ a, (F a).task = a.task ∧ (F a).team = a.team ∧ (F a).warps = a.warps)
    (s : State) (k : ThreadKey) : (s.modTeam m n F).ownStores k = s.ownStores k := by
  rw [State.ownStores, State.queueOf_modTeam hF, State.ownStores]

theorem Shadow.markDropped {w u : State} (h : Shadow w u) (lanes : List LaneOk) (f : Thread → Thread) : Shadow (w.markDropped c lanes f) u := by
  obtain ⟨hw, hn, ho⟩ := h
  exact ⟨by rw [State.markDropped, State.modTeam, hw], hn, fun v => (State.ownStores_modTeam (F := fun tm => tm.modThreads _ _) (fun _ => ⟨rfl, rfl, rfl⟩) w v).trans (ho v)⟩

/-- The teams after an access whose dropped lanes set oobst. -/
theorem teamsAfter_marked {u v : State} {lanes : List LaneOk} {f : Thread → Thread} (hu : u.teams = (s.markDropped c lanes f).teams)
    (hids : ∀ l ∈ lanes, l.t.tid ∈ c.g.members) (htid : ∀ x, (f x).tid = x.tid) (hpc : ∀ x, (f x).pc = x.pc)
    (hskip : ∀ a, u.skipPads c.tk a = v.skipPads c.tk a) :
    TeamsAfter s (u.retire c i Post.none) c (v.follows c i)
      (fun x => if x.tid ∈ droppedTids lanes then f { x with oobst := true } else x) fun _ w => w := by
  refine teamsAfter_retire (g := fun x => if x.tid ∈ droppedTids lanes then f { x with oobst := true } else x) hu (fun a => ?_)
    (fun _ => ⟨rfl, fun _ _ => rfl⟩) rfl (fun x => ?_) (fun x hx => ?_) fun x _ => ⟨rfl, fun hi => ⟨?_, rfl⟩⟩
  · simp only [Team.modThreads, mapIf, List.contains_iff_mem]
    rfl
  · split <;> simp [htid]
  · refine if_neg fun hm => hx ?_
    obtain ⟨l, hl, -, he⟩ := mem_droppedTids.1 hm
    exact he ▸ hids l hl
  · rw [State.departs_pc_next rfl rfl rfl hi, State.follows, State.follows, hskip]
    split <;> simp [hpc]

/-- The lanes of a side of the active threads are of the group. -/
theorem laneOks_member {a : VSReg} {b : RecNum} {d : Int} {need : SideNeed}
    (h : sd = { buf := b, lanes := c.laneIdx (c.active g) a b d, need := need }) : ∀ l ∈ s.laneOks c sd size k, l.t.tid ∈ c.g.members := by
  subst h
  intro l hl
  obtain ⟨x, hx, rfl⟩ := List.mem_map.1 hl
  obtain ⟨t, ht, rfl⟩ := List.mem_map.1 hx
  exact Ctx.tid_mem_of_active ht

/-! ## Translations kept -/

theorem State.fillLtb_eq (s : State) (core ctx va : Nat) : ∃ ltb, s.fillLtb core ctx va = { s with ltb := ltb } := by
  unfold State.fillLtb
  split
  · exact ⟨_, rfl⟩
  · split <;> exact ⟨_, rfl⟩

theorem foldl_ltb {α : Type} {f : State → α → State} (hf : ∀ s a, ∃ ltb, f s a = { s with ltb := ltb }) (l : List α) (s : State) :
    ∃ ltb, l.foldl f s = { s with ltb := ltb } := by
  induction l generalizing s with
  | nil => exact ⟨s.ltb, rfl⟩
  | cons a l ih =>
    obtain ⟨ltb, h⟩ := hf s a
    obtain ⟨ltb', h'⟩ := ih { s with ltb := ltb }
    exact ⟨ltb', by rw [List.foldl_cons, h, h']⟩

/-- Translations are kept, and nothing else changes. -/
theorem State.fillLtbs_eq (s : State) (c : Ctx) (lanes : List LaneOk) : ∃ ltb, s.fillLtbs c lanes = { s with ltb := ltb } := by
  refine foldl_ltb (fun s l => ?_) lanes s
  exact foldl_ltb (fun s x => s.fillLtb_eq c.tm.core c.tk.ctx x.1) l.lines s

theorem State.ltb_caches (s : State) (ltb : List LtbEntry) : CachesOnly s { s with ltb := ltb } :=
  .of_copies (fun l hl _ => ⟨l, hl, rfl, rfl, rfl⟩) fun _ h => h

theorem State.fillLtbs_of_no_lines {lanes : List LaneOk} (h : ∀ l ∈ lanes, l.lines = []) : s.fillLtbs c lanes = s := by
  unfold State.fillLtbs
  induction lanes with
  | nil => rfl
  | cons l lanes ih =>
    rw [List.foldl_cons, h l List.mem_cons_self]
    exact ih fun x hx => h x (List.mem_cons_of_mem _ hx)

/-- No line holds a cell that a read meets. -/
theorem State.meetsCell_of_none {core : Nat} {p : Place} {cls : Cls} (h : p.space = .dev → s.cellAt (lineBase p.addr) = none) :
    s.meetsCell core p cls = false := by
  unfold State.meetsCell
  split
  · next hd =>
    rw [h hd]
    exact Bool.and_false _
  · rfl
  · rfl

/-! ## Loads one after another -/

theorem LoadsGive.caches {core : Nat} {data : List LoadDone} {t : State} (h : LoadsGive core s data t) : CachesOnly s t := by
  induction data generalizing s with
  | nil =>
    cases h
    exact .refl _
  | cons d data ih =>
    obtain ⟨-, u, hu, h⟩ := h
    exact hu.trans (ih h)

theorem LoadsGive.append {core : Nat} {d1 d2 : List LoadDone} {t u : State} (h1 : LoadsGive core s d1 t) (h2 : LoadsGive core t d2 u) :
    LoadsGive core s (d1 ++ d2) u := by
  induction d1 generalizing s with
  | nil =>
    cases h1
    exact h2
  | cons d d1 ih =>
    obtain ⟨hm, v, hv, h1⟩ := h1
    exact ⟨hm, v, hv, ih h1⟩

/-- Translations that are kept before the first load go with it. -/
theorem LoadsGive.of_ltb {core : Nat} {data : List LoadDone} {ltb : List LtbEntry} {t : State} (hne : data ≠ [])
    (h : LoadsGive core { s with ltb := ltb } data t) : LoadsGive core s data t := by
  cases data with
  | nil => exact absurd rfl hne
  | cons d data =>
    obtain ⟨hm, u, hu, h⟩ := h
    exact ⟨hm, u, (s.ltb_caches ltb).trans hu, h⟩

section
variable {w u : State} {core n : Nat} {x : Xlat} {key : ThreadKey} {dest : LoadDest} {o : MemOrd} {l : LaneOk}

/-- The load of one lane: what it returns, the caches after it, and the acquire that goes with it. -/
theorem State.loadOne_eq {va : Nat} {rest : List (Nat × Xlat)} (hl : l.lines = (va, x) :: rest)
    (hm : x.cls ≠ .ord → w.meetsCell c.tm.core x.place x.cls = false) : ∃ bs w1 acq, w.mayLoad c.tm.core (c.key l.t) x n bs ∧
      CachesOnly w w1 ∧ w.loadOne c o n dest l = (w1.reply (c.key l.t) dest bs).acquireIf c.tm.core acq := by
  unfold State.loadOne
  rw [hl]
  dsimp only
  split
  · next ho => exact ⟨_, _, _, by rw [State.mayLoad, if_pos ho]; rfl, w.l1Touch_caches .., rfl⟩
  · next ho =>
    refine ⟨_, _, acquireOf o x, w.loadBytes_mayLoad _ _ _ n ho, w.loadBytes_caches c.tm.core (c.key l.t) x n, ?_⟩
    rw [State.loadLane, hm ho]
    rfl

/-- Data on its way to a thread. -/
theorem NetAfter.reply (s : State) (k : ThreadKey) (dest : LoadDest) (bs : List Byte) : NetAfter s (s.reply k dest bs) [.load k dest bs] :=
  ⟨s.net, _, [], rfl, .refl _, List.Sublist.refl _, by simp, by simp, fun _ h => .inl h, fun _ h => h⟩

/-- What stands for a state after the load of a lane. -/
theorem Shadow.loadOne {va : Nat} {rest : List (Nat × Xlat)} (h : Shadow w u) (hl : l.lines = (va, x) :: rest)
    (hm : x.cls ≠ .ord → w.meetsCell c.tm.core x.place x.cls = false) : ∃ bs u', u.mayLoad c.tm.core (c.key l.t) x n bs ∧ CachesOnly u u' ∧
      Shadow (w.loadOne c o n dest l) u' ∧ NetAfter w (w.loadOne c o n dest l) [.load (c.key l.t) dest bs] ∧
      (w.loadOne c o n dest l).teams = w.teams ∧ (w.loadOne c o n dest l).cells = w.cells := by
  obtain ⟨bs, w1, acq, hmay, h1, heq⟩ := State.loadOne_eq (c := c) (o := o) (n := n) (dest := dest) hl hm
  have h2 := (w1.reply (c.key l.t) dest bs).acquireIf_caches c.tm.core acq
  rw [heq]
  obtain ⟨u1, hu1, hs1⟩ := h.caches h1
  obtain ⟨u2, hu2, hs2⟩ := (hs1.reply (c.key l.t) dest bs).caches h2
  refine ⟨bs, u2, h.mayLoad hmay, hu1.trans hu2, hs2, ?_, ?_, ?_⟩
  · have := (h1.2.1.trans (NetAfter.reply w1 (c.key l.t) dest bs) (by simp)).trans h2.2.1 (by simp [Msg.superseded])
    simpa using this
  · exact h2.teams.trans h1.teams
  · exact h2.cells.trans h1.cells

/-- The loads of the lanes of a side. -/
theorem Shadow.loadOnes (hlines : ∀ l ∈ sd.lanes, l.inside = true → ∃ y, s.lineOut c k l.t l.addr = .ok y ∧
      (y.cls ≠ .ord → y.place.space = .dev → s.cellAt (lineBase y.place.addr) = none)) (ls : List LaneIdx) (hls : ∀ l ∈ ls, l ∈ sd.lanes)
    (hs : Shadow w u) (hc : w.cells = s.cells) :
    let w' := (ls.map (s.laneOk c sd size k)).foldl (fun s l => s.loadOne c o n dest l) w
    ∃ (data : List LoadDone) (u' : State),
      List.Forall₂ (fun (l : LaneIdx) (d : LoadDone) => d.1 = c.key l.t ∧ s.lineOut c k l.t l.addr = .ok d.2.1 ∧ d.2.2.1 = n)
        (ls.filter LaneIdx.inside) data ∧
      LoadsGive c.tm.core u data u' ∧ Shadow w' u' ∧ NetAfter w w' (data.map fun d => .load d.1 dest d.2.2.2) ∧ w'.teams = w.teams := by
  induction ls generalizing w u with
  | nil => exact ⟨[], u, .nil, rfl, hs, .of_eq rfl rfl, rfl⟩
  | cons l ls ih =>
    have hrest := fun {w u} => ih (w := w) (u := u) fun x hx => hls x (List.mem_cons_of_mem _ hx)
    rw [List.map_cons, List.foldl_cons, List.filter_cons]
    cases hi : l.inside with
    | false =>
      have : w.loadOne c o n dest (s.laneOk c sd size k l) = w := by
        rw [State.loadOne, State.laneOk_lines_dropped hi]
      rw [this]
      exact hrest hs hc
    | true =>
      obtain ⟨y, hy, hcell⟩ := hlines l (hls l List.mem_cons_self) hi
      obtain ⟨rest, hlines'⟩ := State.laneOk_lines_inside (sd := sd) (size := size) hi hy
      have hmeet (ho : y.cls ≠ .ord) : w.meetsCell c.tm.core y.place y.cls = false := State.meetsCell_of_none fun hd => by
        rw [State.cellAt, hc]
        exact hcell ho hd
      obtain ⟨bs, u1, hmay, hu1, hs1, hn1, ht1, hc1⟩ := hs.loadOne (o := o) (n := n) (dest := dest) hlines' hmeet
      obtain ⟨data, u', hall, hload, hs', hn', ht'⟩ := hrest hs1 (hc1.trans hc)
      refine ⟨(c.key l.t, y, n, bs) :: data, u', .cons ⟨rfl, hy, rfl⟩ hall, ⟨hmay, u1, hu1, hload⟩, hs', ?_, ht'.trans ht1⟩
      exact hn1.trans hn' (by simp [Msg.superseded])

end

/-! ## Replicas (R158) -/

theorem lineBase_lineBase (a : Nat) : lineBase (lineBase a) = lineBase a := by
  simp only [lineBase]
  omega

theorem Place.line_line (p : Place) : p.line.line = p.line := by simp [Place.line, lineBase_lineBase]

/-- A replica that the core of `c` makes for the task of `c`, of what the home holds. -/
def State.NewReplica (s : State) (core task : Nat) (r : Replica) : Prop :=
  r.club = core / 4 ∧ r.task = task ∧ r.versions = [lineOfBytes (s.homeLine r.place)]

/-- `t` is `s` after lines may have been kept as replicas. -/
def Replicated (core task : Nat) (s t : State) : Prop :=
  t = { s with l2 := t.l2, replicas := t.replicas, partials := t.partials, net := t.net } ∧ NetAfter s t [] ∧
    ∀ r ∈ t.replicas, r ∈ s.replicas ∨ s.NewReplica core task r

theorem Replicated.refl (core task : Nat) (s : State) : Replicated core task s s := ⟨rfl, .of_eq rfl rfl, fun _ h => .inl h⟩

/-- What is sent to make room changes no home. -/
theorem Replicated.homeLine {core task : Nat} {s t : State} (h : Replicated core task s t) (p : Place) : t.homeLine p = s.homeLine p := by
  obtain ⟨heq, hnet, -⟩ := h
  have hmem : t.mem = s.mem := by rw [heq]
  have hkey : t.key 0 = s.key 0 := by rw [heq]; rfl
  have hhost (a n : Nat) : t.hostBytes a n = s.hostBytes a n :=
    State.hostBytes_congr (fun _ h => h) (hnet.hostWrites (by simp)) (by rw [heq]) a n
  rw [State.homeLine, State.homeLine, State.readBytes, State.readBytes, hmem, hkey, hhost]

theorem Replicated.trans {core task : Nat} {s t u : State} (h1 : Replicated core task s t) (h2 : Replicated core task t u) :
    Replicated core task s u := by
  have hhome := h1.homeLine
  obtain ⟨heq, hnet, hrep⟩ := h1
  obtain ⟨heq', hnet', hrep'⟩ := h2
  refine ⟨by rw [heq', heq], hnet.trans hnet' (by simp), fun r hr => ?_⟩
  rcases hrep' r hr with hr | ⟨hclub, htask, hv⟩
  · exact hrep r hr
  · exact .inr ⟨hclub, htask, by rw [hv, hhome]⟩

theorem State.replicate_replicated (s : State) (core task : Nat) (x : Xlat) : Replicated core task s (s.replicate core task x) := by
  unfold State.replicate
  extract_lets p club may
  clear_value may
  split
  · obtain ⟨l2, rs, ps, net, heq, hnet, hr⟩ := s.l2Room_eq club p
    have hroom : Replicated core task s (s.l2Room club p) := ⟨by rw [heq], hnet, fun r h => .inl (hr r (by rw [heq] at h; exact h))⟩
    refine hroom.trans ⟨rfl, .of_eq rfl rfl, fun r h => ?_⟩
    rcases List.mem_cons.1 h with rfl | h
    · refine .inr ⟨rfl, rfl, ?_⟩
      simp only [State.homeLine, Place.line_line]
      rfl
    · exact .inl h
  · exact .refl core task s

theorem Replicated.foldl {α : Type} {core task : Nat} {f : State → α → State} (hf : ∀ s a, Replicated core task s (f s a)) (l : List α) (s : State) :
    Replicated core task s (l.foldl f s) := by
  induction l generalizing s with
  | nil => exact .refl core task s
  | cons a l ih => exact (hf s a).trans (ih _)

theorem State.replicateLanes_replicated (s : State) (c : Ctx) (b : RecNum) (lanes : List LaneOk) :
    Replicated c.tm.core c.tk.id s (s.replicateLanes c b lanes) := by
  refine Replicated.foldl (fun s l => ?_) lanes s
  split
  · exact Replicated.foldl (fun s x => s.replicate_replicated ..) _ s
  · exact .refl _ _ s

/-- Replicas change no word of code. -/
theorem Replicated.skipPads {core task : Nat} {s t : State} (h : Replicated core task s t) (tk : Task) (a : Nat) :
    t.skipPads tk a = s.skipPads tk a := by
  rw [← s.skipPads_net (h.2.1.hostWrites (by simp)) tk a]
  refine State.skipPads_congr (fun b => ?_) a
  exact (congrArg (fun s : State => s.peekWord tk b) h.1).trans rfl

/-! ## The instructions -/

/-- What the checks of a load give its lanes. -/
theorem AccessPasses.lines_at (hp : AccessPasses s c i g sd size k) (hr : ReadsNow s c sd size k) :
    ∀ l ∈ sd.lanes, l.inside = true → ∃ y, s.lineOut c k l.t l.addr = .ok y ∧
      (y.cls ≠ .ord → y.place.space = .dev → s.cellAt (lineBase y.place.addr) = none) := by
  intro l hl hi
  obtain ⟨y, hy, -⟩ := hp.lines l hl hi l.addr List.mem_cons_self
  exact ⟨y, hy, fun ho hd => (hr l hl hi l.addr List.mem_cons_self y hy ho).2 hd⟩

/-- The lines of some lanes can be read now: no read has to wait, for a gather either. -/
def LanesReady (s : State) (c : Ctx) (lanes : List LaneOk) : Prop :=
  ∀ l ∈ lanes, ∀ y ∈ l.lines, y.2.cls ≠ .ord → s.loadWaits c.tm.core (c.key l.t) y.2.place y.2.cls = false ∧
    (y.2.place.space = .dev → s.cellAt (lineBase y.2.place.addr) = none)

theorem laneOks_ready (hr : ReadsNow s c sd size k) : LanesReady s c (s.laneOks c sd size k) := by
  intro l hl y hy ho
  obtain ⟨x, hx, rfl⟩ := List.mem_map.1 hl
  cases hi : x.inside with
  | false => simp [hi] at hy
  | true =>
    simp only [hi, if_true] at hy
    obtain ⟨va, hva, hy⟩ := List.mem_filterMap.1 hy
    exact hr x hx hi va hva y.2 (LineOut.xlat_some (va := va) (y := y) hy).2 ho

/-- No lane waits. -/
theorem LanesReady.loadStalls {lanes : List LaneOk} (h : LanesReady s c lanes) : loadStalls s c lanes = [] := by
  rw [Sys2Proof.Machine.loadStalls, List.map_eq_nil_iff, List.filter_eq_nil_iff]
  intro l hl
  rw [Bool.not_eq_true, List.any_eq_false]
  intro y hy
  by_cases ho : y.2.cls = .ord
  · simp [ho]
  · rw [(h l hl y hy ho).1]
    simp

theorem LanesReady.cellsMet {lanes : List LaneOk} (h : LanesReady s c lanes) : cellsMet s c lanes = [] := by
  rw [Sys2Proof.Machine.cellsMet, List.dedup_eq_nil, List.flatMap_eq_nil_iff]
  intro l hl
  rw [List.map_eq_nil_iff, List.filter_eq_nil_iff]
  intro y hy
  by_cases ho : y.2.cls = .ord
  · simp [ho]
  · simp [State.meetsCell_of_none (core := c.tm.core) (cls := y.2.cls) (h l hl y hy ho).2]

/-- The state after the loads of the lanes of a load, their translations kept and dropped lanes marked. -/
def State.loadAll (s : State) (c : Ctx) (o : MemOrd) (n : Nat) (dest : LoadDest) (lanes : List LaneOk) (zero : Thread → Thread) : State :=
  lanes.foldl (fun s l => s.loadOne c o n dest l) ((s.fillLtbs c lanes).markDropped c lanes zero)

variable {n : Nat} {o : MemOrd} {dest : LoadDest} {zero : Thread → Thread}

/-- The loads give what they may, each thread's data is on its way, and dropped lanes are marked. -/
theorem loadAll_gives (hp : AccessPasses s c i g sd n k) (hr : ReadsNow s c sd n k) :
    let w := s.loadAll c o n dest (s.laneOks c sd n k) zero
    ∃ (data : List LoadDone) (u : State),
      List.Forall₂ (fun (l : LaneIdx) (d : LoadDone) => d.1 = c.key l.t ∧ s.lineOut c k l.t l.addr = .ok d.2.1 ∧ d.2.2.1 = n)
        (sd.lanes.filter LaneIdx.inside) data ∧
      LoadsGive c.tm.core s data u ∧ Shadow w u ∧ NetAfter s w (data.map fun d => .load d.1 dest d.2.2.2) ∧
      w.teams = (s.markDropped c (s.laneOks c sd n k) zero).teams := by
  obtain ⟨ltb, hltb⟩ := s.fillLtbs_eq c (s.laneOks c sd n k)
  have hs : Shadow (({ s with ltb := ltb } : State).markDropped c (s.laneOks c sd n k) zero) { s with ltb := ltb } :=
    (Shadow.refl _).markDropped _ _
  obtain ⟨data, u, hall, hload, hshadow, hnet, hteams⟩ :=
    Shadow.loadOnes (size := n) (n := n) (dest := dest) (o := o) (hp.lines_at hr) sd.lanes (fun _ h => h) hs rfl
  have hw : s.loadAll c o n dest (s.laneOks c sd n k) zero = (sd.lanes.map (s.laneOk c sd n k)).foldl (fun s l => s.loadOne c o n dest l)
      (({ s with ltb := ltb } : State).markDropped c (s.laneOks c sd n k) zero) := by
    rw [State.loadAll, hltb]
    rfl
  rw [hw]
  have hnet0 : NetAfter s (({ s with ltb := ltb } : State).markDropped c (s.laneOks c sd n k) zero) [] := .of_eq rfl rfl
  refine ⟨data, u, hall, ?_, hshadow, hnet0.trans hnet (by simp), hteams⟩
  by_cases hd : data = []
  · subst hd
    have hnone : ∀ l ∈ s.laneOks c sd n k, l.lines = [] := by
      intro l hl
      obtain ⟨x, hx, rfl⟩ := List.mem_map.1 hl
      have hempty := List.forall₂_nil_right_iff.1 hall
      have hi : x.inside = false := by simpa using List.filter_eq_nil_iff.1 hempty x hx
      simp [hi]
    rw [State.fillLtbs_of_no_lines hnone] at hltb
    rwa [← hltb] at hload
  · exact hload.of_ltb hd

/-- A load, and the replicas that may be made behind it. -/
theorem load_effect {v : State} {repl : Bool} (hp : AccessPasses s c i g sd n k) (hr : ReadsNow s c sd n k)
    (hids : ∀ l ∈ s.laneOks c sd n k, l.t.tid ∈ c.g.members) (htid : ∀ x, (zero x).tid = x.tid) (hpc : ∀ x, (zero x).pc = x.pc)
    (hv : Replicated c.tm.core c.tk.id (s.loadAll c o n dest (s.laneOks c sd n k) zero) v)
    (hrepl : repl = false → v = s.loadAll c o n dest (s.laneOks c sd n k) zero) :
    let t := v.retire c i Post.none
    ∃ (u : State) (data : List LoadDone),
      List.Forall₂ (fun (l : LaneIdx) (d : LoadDone) => d.1 = c.key l.t ∧ s.lineOut c k l.t l.addr = .ok d.2.1 ∧ d.2.2.1 = n)
        (sd.lanes.filter LaneIdx.inside) data ∧
      LoadsGive c.tm.core s data u ∧
      t = { u with teams := t.teams, net := t.net, l2 := t.l2, replicas := t.replicas, partials := t.partials,
                   freeCtr := s.freeCtr + 1, blocked := [] } ∧
      NetAfter s t (data.map fun d => .load d.1 dest d.2.2.2) ∧
      (repl = false → t.l2 = u.l2 ∧ t.replicas = u.replicas ∧ t.partials = u.partials) ∧
      (∀ r ∈ t.replicas, r ∈ s.replicas ∨
        (r.club = c.tm.core / 4 ∧ r.task = c.tk.id ∧ r.versions = [lineOfBytes (u.homeLine r.place)])) ∧
      TeamsAfter s t c (u.follows c i)
        (fun x => if x.tid ∈ droppedTids (s.laneOks c sd n k) then zero { x with oobst := true } else x)
        (fun _ w => w) := by
  obtain ⟨data, u, hall, hload, hshadow, hnet, hteams⟩ := loadAll_gives (o := o) (dest := dest) (zero := zero) hp hr
  generalize s.loadAll c o n dest (s.laneOks c sd n k) zero = w at hv hrepl hshadow hnet hteams
  have hcaches := hload.caches
  have hwu : w = { u with teams := w.teams, net := w.net } := hshadow.1
  have hvw := hv.1
  have hfree : u.freeCtr = s.freeCtr := by rw [hcaches.1]
  refine ⟨u, data, hall, hload, ?_, ?_, fun h => ?_, fun r h => ?_, ?_⟩
  · rw [State.retire_eq, hvw, hwu, ← hfree]
  · have := hnet.trans hv.2.1 fun m hm => by
      obtain ⟨d, -, rfl⟩ := List.mem_map.1 hm
      rfl
    rw [List.append_nil] at this
    exact this
  · rw [hrepl h]
    exact ⟨(congrArg State.l2 hwu :), (congrArg State.replicas hwu :), (congrArg State.partials hwu :)⟩
  · rcases hv.2.2 r h with h | ⟨hclub, htask, hver⟩
    · rw [hwu] at h
      exact .inl (hcaches.2.2.2.2.2.1 r h)
    · exact .inr ⟨hclub, htask, by rw [hver, hshadow.homeLine]⟩
  · refine teamsAfter_marked (hvw ▸ hteams) hids htid hpc fun a => ?_
    rw [hv.skipPads, hshadow.skipPads]

end

theorem Thread.setLa_tid_pc (x : Thread) (d : Nat) (a : Acc) : (x.setLa d a).tid = x.tid ∧ (x.setLa d a).pc = x.pc := ⟨rfl, rfl⟩

theorem State.cutInning_nil (s : State) (c : Ctx) : s.cutInning c [] = s := by
  simp [State.cutInning, State.modTeam, Team.modThreads, mapIf]

/-- LD, once its checks pass. -/
theorem exec_ld {s : State} {c : Ctx} {g : Guards} {o : MemOp}
    (hp : AccessPasses s c (.ld g o) g (recSide c (c.active g) o.addr recR (some (widthBytes o.width)) (widthBytes o.width)) (widthBytes o.width)
      c.touchLoad)
    (hr : ReadsNow s c (recSide c (c.active g) o.addr recR (some (widthBytes o.width)) (widthBytes o.width)) (widthBytes o.width) c.touchLoad) :
    let lanes := s.laneOks c (recSide c (c.active g) o.addr recR (some (widthBytes o.width)) (widthBytes o.width)) (widthBytes o.width) c.touchLoad
    let w := s.loadAll c o.ord (widthBytes o.width) (.regs o.d.val o.width) lanes
      fun t => t.putLoaded o.d.val o.width (List.replicate (widthBytes o.width) 0)
    exec (.ld g o) s = .next ((if o.hint = .repl then w.replicateLanes c o.addr.buf lanes else w).retire c (.ld g o) Post.none) := by
  intro lanes w
  change execLd g o s = _
  rw [execLd, runMem_issues hp.issues hp.free]
  change s.finish c _ (s.checkSide c (recSide c (c.active g) o.addr recR (some (widthBytes o.width)) (widthBytes o.width)) _ _ _) = _
  rw [State.checkSide_ok hp.side hp.lines, (laneOks_ready hr).loadStalls]
  rfl

/-- LDACC without .zero, once its checks pass. -/
theorem exec_ldacc {s : State} {c : Ctx} {g : Guards} {o : LdaccOp} (hz : o.zero = false)
    (hp : AccessPasses s c (.ldacc g o) g (recSide c (c.active g) o.addr recR none 128) 128 c.touchLoad)
    (hr : ReadsNow s c (recSide c (c.active g) o.addr recR none 128) 128 c.touchLoad) :
    let lanes := s.laneOks c (recSide c (c.active g) o.addr recR none 128) 128 c.touchLoad
    exec (.ldacc g o) s = .next ((s.loadAll c o.ord 128 (.la o.d.val) lanes fun t => t.setLa o.d.val Acc.zero).retire c (.ldacc g o) Post.none) := by
  intro lanes
  have hperm : (fun r => recR r && (!o.zero || recA r)) = recR := by simp [hz]
  change execLdacc g o s = _
  rw [execLdacc, runMem_issues hp.issues hp.free, hperm, hz]
  change s.finish c _ (s.checkSide c (recSide c (c.active g) o.addr recR none 128) _ _ _) = _
  rw [if_neg Bool.false_ne_true, State.checkSide_ok hp.side hp.lines]
  simp only [Bool.false_eq_true, if_false, (laneOks_ready hr).loadStalls, noRoom, List.filter_nil, List.map_nil, List.contains_nil, Bool.not_false,
    List.filter_true, State.cutInning_nil]
  rfl

/-- Settles O12: the loads of the lanes one after another, each of them bytes that it may return. -/
theorem loadData : Obligations.LoadData := by
  refine ⟨fun g o s c hp hr => ?_, fun g o hz s c hp hr => ?_⟩
  · obtain ⟨u, data, h⟩ := load_effect (o := o.ord) (dest := .regs o.d.val o.width) (repl := o.hint == .repl)
      (zero := fun t => t.putLoaded o.d.val o.width (List.replicate (widthBytes o.width) 0)) hp hr
      (laneOks_member (g := g) rfl) (fun x => (x.putLoaded_tid_pc ..).1) (fun x => (x.putLoaded_tid_pc ..).2)
      (v := if o.hint = .repl then State.replicateLanes _ c o.addr.buf (s.laneOks c _ _ c.touchLoad) else _)
      (by split <;> [exact State.replicateLanes_replicated ..; exact .refl ..])
      (fun h => if_neg (by simpa using h))
    exact ⟨_, u, data, exec_ld hp hr, h⟩
  · obtain ⟨u, data, h⟩ := load_effect (o := o.ord) (dest := .la o.d.val) (repl := false) (zero := fun t => t.setLa o.d.val Acc.zero) hp hr
      (laneOks_member (g := g) rfl) (fun x => (x.setLa_tid_pc ..).1) (fun x => (x.setLa_tid_pc ..).2) (Replicated.refl _ _ _) (fun _ => rfl)
    exact ⟨_, u, data, exec_ldacc hz hp hr, h⟩

end Sys2Proof.Machine

/-!
Images and matrices (O34): reads of several lines by each lane, between which rows and accumulators are written.
-/
namespace Sys2Proof.Machine

open Sys2Proof

/-- `w` is `u` but for what its threads and tiles hold; the queues of its warps are those of `u`. -/
def Alike (w u : State) : Prop := w = { u with teams := w.teams } ∧ ∀ k, w.ownStores k = u.ownStores k

section
variable {w u w' : State} {core n : Nat} {x : Xlat} {k : ThreadKey} {bs : List Byte}

theorem Alike.refl (s : State) : Alike s s := ⟨rfl, fun _ => rfl⟩

theorem Alike.shadow (h : Alike w u) : Shadow w u := by
  obtain ⟨hw, ho⟩ := h
  have hnet : w.net = u.net := (congrArg State.net hw :)
  exact ⟨hw.trans (by rw [hnet]), by rw [hnet], ho⟩

/-- Caches change alike. -/
theorem Alike.caches (h : Alike w u) (hc : CachesOnly w w') : CachesOnly u { w' with teams := u.teams } ∧ Alike w' { w' with teams := u.teams } := by
  have hown (v : ThreadKey) : w'.ownStores v = w.ownStores v := ownStores_congr hc.teams hc.tasks v
  have htasks : u.tasks = w'.tasks := by rw [hc.tasks, h.1]
  obtain ⟨hw, ho⟩ := h
  obtain ⟨heq, ⟨old, sent, gone, hnet, hold, hsub, hperm, hgone, hkept, hfrom⟩, hmem, hhost, hws, hrep, hl1⟩ := hc
  refine ⟨⟨by rw [heq, hw], ⟨old, sent, gone, hnet, ?_, hsub, hperm, ?_, ?_, ?_⟩, ?_, ?_, ?_, ?_, ?_⟩, rfl, fun v => ?_⟩
  · rwa [hw] at hold
  · rwa [hw] at hgone
  · rwa [hw] at hkept
  · rwa [hw] at hfrom
  · rwa [hw] at hmem
  · rwa [hw] at hhost
  · rwa [hw] at hws
  · rwa [hw] at hrep
  · rwa [hw] at hl1
  · rw [hown, ho]
    exact ownStores_congr (s := { w' with teams := u.teams }) (t := u) rfl htasks v

theorem Alike.modTeam (h : Alike w u) {m j : Nat} {F : Team → Team}
    (hF : ∀ a, (F a).task = a.task ∧ (F a).team = a.team ∧ (F a).warps = a.warps) : Alike (w.modTeam m j F) u := by
  obtain ⟨hw, ho⟩ := h
  exact ⟨by rw [State.modTeam, hw], fun v => (State.ownStores_modTeam hF w v).trans (ho v)⟩

end

/-! ## The pieces of a lane -/

section
variable {s w u : State} {c : Ctx} {l : LaneOk} {size : Nat}

/-- One piece read: its bytes, and the caches after it. -/
def State.readPiece (s : State) (c : Ctx) (l : LaneOk) (y : Nat × Xlat × Nat) : List Byte × State :=
  if y.2.1.cls = .ord then (s.viewBytes (c.key l.t) y.2.1 y.2.2, s.l1Touch c.tm.core y.2.1.place)
  else ((s.loadBytes c.tm.core (c.key l.t) y.2.1 y.2.2).1,
    (s.loadBytes c.tm.core (c.key l.t) y.2.1 y.2.2).2.acquireIf c.tm.core (acquireOf .relaxed y.2.1))

theorem State.readPieces_eq (s : State) (c : Ctx) (l : LaneOk) (size : Nat) : s.readPieces c l size =
    (l.pieces size).foldl (fun x y => (x.1 ++ (x.2.readPiece c l y).1, (x.2.readPiece c l y).2)) ([], s) := by
  unfold State.readPieces
  refine congrArg (fun f => List.foldl f ([], s) (l.pieces size)) (funext fun x => funext fun y => ?_)
  obtain ⟨bs, s⟩ := x
  obtain ⟨va, x, n⟩ := y
  by_cases ho : x.cls = .ord
  · simp only [State.readPiece, ho, if_true]
    rfl
  · simp only [State.readPiece, ho, if_false]

theorem State.readPiece_may (s : State) (c : Ctx) (l : LaneOk) (y : Nat × Xlat × Nat) :
    s.mayLoad c.tm.core (c.key l.t) y.2.1 y.2.2 (s.readPiece c l y).1 := by
  unfold State.readPiece
  split
  · next ho => rw [State.mayLoad, if_pos ho]
  · next ho => exact s.loadBytes_mayLoad _ _ _ _ ho

theorem State.readPiece_caches (s : State) (c : Ctx) (l : LaneOk) (y : Nat × Xlat × Nat) : CachesOnly s (s.readPiece c l y).2 := by
  unfold State.readPiece
  split
  · exact s.l1Touch_caches ..
  · exact (s.loadBytes_caches ..).trans (State.acquireIf_caches ..)

/-- Pieces read one after another are loads one after another. -/
theorem Alike.readPieces (ys : List (Nat × Xlat × Nat)) : ∀ {w u : State} (bs : List Byte), Alike w u →
    let r := ys.foldl (fun x y => (x.1 ++ (x.2.readPiece c l y).1, (x.2.readPiece c l y).2)) (bs, w)
    ∃ (ps : List (List Byte)) (u' : State), ps.length = ys.length ∧ r.1 = bs ++ ps.flatten ∧
      LoadsGive c.tm.core u ((ys.zip ps).map fun y => (c.key l.t, y.1.2.1, y.1.2.2, y.2)) u' ∧ Alike r.2 u' ∧ r.2.teams = w.teams := by
  induction ys with
  | nil => exact fun {_ u} bs h => ⟨[], u, rfl, (List.append_nil bs).symm, rfl, h, rfl⟩
  | cons y ys ih =>
    intro w u bs h
    obtain ⟨hc, ha⟩ := h.caches (w.readPiece_caches c l y)
    obtain ⟨ps, u', hlen, hbs, hload, hal, ht⟩ := ih (bs ++ (w.readPiece c l y).1) ha
    refine ⟨(w.readPiece c l y).1 :: ps, u', by simp [hlen], ?_, ⟨h.shadow.mayLoad (w.readPiece_may c l y), _, hc, hload⟩, hal,
      ht.trans (w.readPiece_caches c l y).teams⟩
    rw [List.flatten_cons, ← List.append_assoc]
    exact hbs

/-! ## Images (R192, R206) -/

/-- A write of the threads or tiles of a team alone. -/
def TeamWrite (f : State → State) : Prop :=
  ∃ (m j : Nat) (F : Team → Team), (∀ a, (F a).task = a.task ∧ (F a).team = a.team ∧ (F a).warps = a.warps) ∧ ∀ s, f s = s.modTeam m j F

/-- What comes of a lane whose image has been read. -/
def putImage (clean : List Byte → Bool) (put : State → Thread → List Byte → State) (drop : State → Thread → State) (s : State)
    (x : LaneOk × List (List Byte)) : State :=
  if x.1.dropped then drop s x.1.t else if clean x.2.flatten then put s x.1.t x.2.flatten else s

/-- The loads of the images of some lanes. -/
def imageLoads (c : Ctx) (size : Nat) (xs : List (LaneOk × List (List Byte))) : List LoadDone :=
  xs.flatMap fun x => ((x.1.pieces size).zip x.2).map fun y => (c.key x.1.t, y.1.2.1, y.1.2.2, y.2)

/-- One lane of a load of images. -/
def State.imageStep (c : Ctx) (size : Nat) (clean : List Byte → Bool) (put : State → Thread → List Byte → State) (drop : State → Thread → State)
    (x : State × List Nat) (l : LaneOk) : State × List Nat :=
  if l.dropped then (drop x.1 l.t, x.2)
  else
    let r := x.1.readPieces c l size
    if !clean r.1 then (r.2, x.2 ++ [l.t.tid]) else (put r.2 l.t r.1, x.2)

variable {clean : List Byte → Bool} {put : State → Thread → List Byte → State} {drop : State → Thread → State}

/-- Lanes read their images one after another; what each puts does not meet what the others read. -/
theorem Alike.images (hput : ∀ x bs, TeamWrite fun s => put s x bs) (hdrop : ∀ x, TeamWrite fun s => drop s x)
    (ls : List LaneOk) (hls : ∀ l ∈ ls, l.dropped = true → l.lines = []) : ∀ {w u : State} (wrong : List Nat), Alike w u →
    let r := ls.foldl (State.imageStep c size clean put drop) (w, wrong)
    ∃ (parts : List (List (List Byte))) (u' : State),
      List.Forall₂ (fun (l : LaneOk) ps => ps.length = (l.pieces size).length) ls parts ∧
      LoadsGive c.tm.core u (imageLoads c size (ls.zip parts)) u' ∧
      r.1 = (ls.zip parts).foldl (putImage clean put drop) { u' with teams := w.teams } ∧
      r.2 = wrong ++ ((ls.zip parts).filter fun x => !x.1.dropped && !clean x.2.flatten).map (·.1.t.tid) := by
  induction ls with
  | nil =>
    intro w u wrong h
    exact ⟨[], u, .nil, rfl, h.1, (List.append_nil wrong).symm⟩
  | cons l ls ih =>
    intro w u wrong h
    have hls' : ∀ x ∈ ls, x.dropped = true → x.lines = [] := fun x hx => hls x (List.mem_cons_of_mem _ hx)
    by_cases hd : l.dropped = true
    · obtain ⟨m, j, F, hF, hdr⟩ := hdrop l.t
      dsimp only at hdr
      have hpieces : l.pieces size = [] := by rw [LaneOk.pieces, hls l List.mem_cons_self hd]
      have hstep : State.imageStep c size clean put drop (w, wrong) l = (w.modTeam m j F, wrong) := by
        rw [State.imageStep, if_pos hd]
        exact Prod.ext (hdr w) rfl
      obtain ⟨parts, u', hall, hload, hr, hwrong⟩ := ih hls' wrong (h.modTeam (m := m) (j := j) hF)
      refine ⟨[] :: parts, u', .cons (by rw [hpieces]; rfl) hall, ?_, ?_, ?_⟩
      · simpa [imageLoads, hpieces] using hload
      · rw [List.foldl_cons, hstep, hr, List.zip_cons_cons, List.foldl_cons, putImage, if_pos hd, hdr]
        rfl
      · rw [List.foldl_cons, hstep, hwrong, List.zip_cons_cons, List.filter_cons]
        simp [hd]
    · obtain ⟨ps, u1, hlen, hbs, hload1, ha1, ht1⟩ := h.readPieces (c := c) (l := l) (l.pieces size) []
      rw [← State.readPieces_eq, List.nil_append] at hbs
      rw [← State.readPieces_eq] at ha1 ht1
      have hstep : State.imageStep c size clean put drop (w, wrong) l =
          if clean ps.flatten then (put (w.readPieces c l size).2 l.t ps.flatten, wrong)
          else ((w.readPieces c l size).2, wrong ++ [l.t.tid]) := by
        rw [State.imageStep, if_neg hd]
        dsimp only
        rw [hbs]
        cases clean ps.flatten <;> rfl
      rw [List.foldl_cons, hstep]
      by_cases hcl : clean ps.flatten = true
      · rw [if_pos hcl]
        obtain ⟨m, j, F, hF, hpu⟩ := hput l.t ps.flatten
        dsimp only at hpu
        obtain ⟨parts, u', hall, hload, hr, hwrong⟩ := ih hls' wrong (ha1.modTeam (m := m) (j := j) hF)
        rw [← hpu] at hr hwrong
        refine ⟨ps :: parts, u', .cons hlen hall, ?_, ?_, ?_⟩
        · exact hload1.append hload
        · rw [hr, List.zip_cons_cons, List.foldl_cons, putImage, if_neg hd, if_pos hcl, hpu, hpu, State.modTeam, State.modTeam, ht1]
        · rw [hwrong, List.zip_cons_cons, List.filter_cons]
          simp [hcl]
      · rw [if_neg hcl]
        obtain ⟨parts, u', hall, hload, hr, hwrong⟩ := ih hls' (wrong ++ [l.t.tid]) ha1
        refine ⟨ps :: parts, u', .cons hlen hall, ?_, ?_, ?_⟩
        · exact hload1.append hload
        · rw [hr, List.zip_cons_cons, List.foldl_cons, putImage, if_neg hd, if_neg hcl, ht1]
        · rw [hwrong, List.zip_cons_cons, List.filter_cons]
          simp [hd, hcl]

/-! ## A load of images -/

variable {i : Instr} {g : Guards} {sd : Side} {k : Touch}

/-- What comes of a load of images that nothing holds back. -/
def imageResult (r : State × List Nat) : Eff :=
  if r.2.isEmpty then .ok r.1 else .faultAfter r.1 (FaultInfo.plain causeMatrix 9 r.2)

theorem loadImages_eq {lanes : List LaneOk} (h1 : loadStalls s c lanes = []) (h2 : cellsMet s c lanes = []) :
    loadImages s c lanes size (fun bs => !clean bs) put drop =
      imageResult (lanes.foldl (State.imageStep c size clean put drop) ((s.fillLtbs c lanes).markDropped c lanes id, [])) := by
  unfold loadImages
  rw [h1, h2]
  dsimp only [List.filter_nil, List.isEmpty_nil]
  rw [if_pos rfl]
  have hstep : (fun (x : State × List Nat) (l : LaneOk) =>
      if l.dropped then (drop x.1 l.t, x.2)
      else
        if !clean (x.1.readPieces c l size).1 then ((x.1.readPieces c l size).2, x.2 ++ [l.t.tid])
        else (put (x.1.readPieces c l size).2 l.t (x.1.readPieces c l size).1, x.2)) = State.imageStep c size clean put drop := rfl
  rw [← hstep]
  rfl

theorem imageLoads_eq_nil {ls : List LaneOk} {parts : List (List (List Byte))}
    (hall : List.Forall₂ (fun (l : LaneOk) ps => ps.length = (l.pieces size).length) ls parts) (h : imageLoads c size (ls.zip parts) = []) :
    ∀ l ∈ ls, l.lines = [] := by
  induction hall with
  | nil => simp
  | @cons l ps ls parts hlen _ ih =>
    rw [imageLoads, List.zip_cons_cons, List.flatMap_cons, List.append_eq_nil_iff] at h
    obtain ⟨h1, h2⟩ := h
    intro x hx
    rcases List.mem_cons.1 hx with rfl | hx
    · have hp : (x.pieces size).length = 0 := by
        have := congrArg List.length h1
        simpa [hlen] using this
      unfold LaneOk.pieces at hp
      split at hp
      · next he => exact he
      · next he => simp [he] at hp
    · exact ih h2 x hx

/-- The images of the lanes are read, each put before the next is read. -/
theorem images_read (hput : ∀ x bs, TeamWrite fun s => put s x bs) (hdrop : ∀ x, TeamWrite fun s => drop s x) (s : State) :
    let lanes := s.laneOks c sd size k
    let r := lanes.foldl (State.imageStep c size clean put drop) ((s.fillLtbs c lanes).markDropped c lanes id, [])
    ∃ s1 parts, ImagesRead s c lanes size parts s1 ∧ r.1 = (lanes.zip parts).foldl (putImage clean put drop) s1 ∧
      r.2 = ((lanes.zip parts).filter fun x => !x.1.dropped && !clean x.2.flatten).map (·.1.t.tid) := by
  intro lanes
  have hls : ∀ l ∈ lanes, l.dropped = true → l.lines = [] := by
    intro l hl hd
    obtain ⟨x, -, rfl⟩ := List.mem_map.1 hl
    have hi : x.inside = false := by simpa using hd
    simp [hi]
  obtain ⟨ltb, hltb⟩ := s.fillLtbs_eq c lanes
  have hstart : (s.fillLtbs c lanes).markDropped c lanes id = { s.markDropped c lanes id with ltb := ltb } := by
    rw [hltb]
    rfl
  obtain ⟨parts, u, hall, hload, hr, hwrong⟩ := Alike.images (size := size) (clean := clean) hput hdrop lanes hls []
    (Alike.refl ((s.fillLtbs c lanes).markDropped c lanes id))
  have hteams : ({ u with teams := ((s.fillLtbs c lanes).markDropped c lanes id).teams } : State) = u := by
    rw [← hload.caches.teams]
  rw [hteams] at hr
  refine ⟨u, parts, ⟨hall, ?_⟩, hr, hwrong⟩
  by_cases hd : imageLoads c size (lanes.zip parts) = []
  · rwa [State.fillLtbs_of_no_lines (imageLoads_eq_nil hall hd)] at hload
  · rw [hstart] at hload
    exact hload.of_ltb hd

/-- A load of images faults for the lanes whose image is not clean, after the others have been loaded. -/
theorem imagesFaulted_of (hput : ∀ x bs, TeamWrite fun s => put s x bs) (hdrop : ∀ x, TeamWrite fun s => drop s x)
    (h : AccessPasses s c i g sd size c.touchLoad →
      exec i s = s.finish c i (s.checkSide c sd size c.touchLoad fun lanes => loadImages s c lanes size (fun bs => !clean bs) put drop)) :
    ImagesFaulted s c i g sd size clean put drop := by
  unfold ImagesFaulted
  intro lanes hp hr
  obtain ⟨s1, parts, hread, hr1, hr2⟩ := images_read (sd := sd) (size := size) (k := c.touchLoad) (clean := clean) hput hdrop s
  refine ⟨s1, parts, hread, fun hbad => ?_⟩
  rw [h hp, State.checkSide_ok hp.side hp.lines, loadImages_eq (laneOks_ready hr).loadStalls (laneOks_ready hr).cellsMet, imageResult, hr2,
    if_neg (by simpa using hbad), hr1]
  rfl

/-! ## The instructions -/

theorem teamWrite_modThread (c : Ctx) (x : Thread) (f : Thread → Thread) : TeamWrite fun s => s.modThread (c.key x) f :=
  ⟨_, _, fun tm => tm.modThread x.tid f, fun _ => ⟨rfl, rfl, rfl⟩, fun s => (rfl : s.modThread (c.key x) f = _)⟩

theorem teamWrite_putRow (c : Ctx) (x : Thread) (tile : Nat) (row : List Acc) : TeamWrite fun s => s.putRow c x tile row :=
  ⟨c.tk.id, c.tm.team, fun tm => { tm with tiles := (row.zip (List.range 16)).foldl (fun m (a, n) =>
      Sparse.set Acc.zero m (tileKey c.tk (c.warpNo x) tile (wlaneOf c.tk.width x.tid) n) a) tm.tiles },
    fun _ => ⟨rfl, rfl, rfl⟩, fun s => (rfl : s.putRow c x tile row = _)⟩

/-- A load of images from the scratchpad: the lanes whose image is not clean fault, after the others have been loaded. -/
theorem exec_fill_scratch {a : SpillAddr} {put : Ctx → State → Thread → List Byte → State} {drop : Ctx → State → Thread → State}
    (h : ∀ s, exec i s = runFill i g a size s (fun bs => !clean bs) put drop) (hb : a.buf = none)
    (hc : CanIssue s c i g) (ha : NoAcquire s c g) (hp : ScratchPasses c g size 32 (spillOff c a)) :
    let image := fun (x : Thread) => c.tm.scratchBytes (spillOff c a x).toNat size
    let bad := (c.active g).filter fun x => !clean (image x)
    bad ≠ [] → exec i s = .next ((((c.active g).filter fun x => clean (image x)).foldl (fun s x => put c s x (image x)) s).raise c
      (FaultInfo.plain causeMatrix 9 (bad.map (·.tid)))).tick := by
  intro image bad hbad
  rw [h, runFill, runMem_issues hc ha, hb]
  dsimp only
  rw [fillImages, scratchFault_none hp]
  have hne : ¬(bad.map (·.tid)).isEmpty = true := by simpa using hbad
  simp only [Bool.not_not]
  exact congrArg (s.finish c i) (if_neg hne)

end

/-- A load of images through a record. -/
theorem imagesFaulted_fill {i : Instr} {g : Guards} {a : SpillAddr} {size : Nat} {clean : List Byte → Bool}
    {put : Ctx → State → Thread → List Byte → State} {drop : Ctx → State → Thread → State} {s : State} {c : Ctx} {b : RecNum}
    (h : ∀ s, exec i s = runFill i g a size s (fun bs => !clean bs) put drop) (hput : ∀ x bs, TeamWrite fun s => put c s x bs)
    (hdrop : ∀ x, TeamWrite fun s => drop c s x) (hb : a.buf = some b) :
    ImagesFaulted s c i g (spillSide c (c.active g) a b recR) size clean (put c) (drop c) :=
  imagesFaulted_of hput hdrop fun hp => by rw [h, runFill, runMem_issues hp.issues hp.free, hb]

/-- A row image is clean when each of its slots is. -/
theorem any_not_clean (bs : List Byte) : ((rowImages bs).any fun b => !imageClean (leNat b)) =
    !((rowImages bs).all fun b => leNat b / 2 ^ 724 % 2 ^ 44 == 0) := by
  rw [List.not_all_eq_any_not]
  rfl

end Sys2Proof.Machine

/-!
The checks of scratchpad accesses and of matrix instructions (O34, R171, R176, R182, R197): each test of the model is the step that it
stands for, in its order.
-/
namespace Sys2Proof.Machine

open Sys2Proof

/-! ## Steps 1 to 6 of R197 -/

section
variable {m : MatIn} {act : List Thread} {rec : Nat → BitVec 256} {key : Nat} {c : Ctx} {tk : Task}

/-- The model's test of steps 1 to 6. -/
def MatIn.stepFails (m : MatIn) : Nat → Bool
  | 1 => !fmtOk m.fa || m.fb.any fun fb => !fmtOk fb
  | 2 => !winOk m.win
  | 3 => fmtSp m.fa != 0 || m.fb.any fun fb => (fmtSp fb != 0) != m.sparse
  | 4 => m.fb.any fun fb => widthClass (fmtType m.fa) != widthClass (fmtType fb)
  | 5 => m.sparse && !m.col
  | 6 => m.col0 % m.k != 0 || m.kb % m.k != 0
  | _ => false

theorem MatIn.stepFails_iff (m : MatIn) (k : Nat) : m.stepFails k = true ↔ m.Fails k := by
  unfold MatIn.stepFails MatIn.Fails
  split
  · simp [Option.any_eq_true]
  · simp
  · cases m.sparse <;> simp [Option.any_eq_true]
  · simp [Option.any_eq_true]
  · simp
  · simp
  · simp

theorem MatIn.fault16_eq (m : MatIn) (act : List Thread) : m.fault16 act =
    ([1, 2, 3, 4, 5, 6].find? m.stepFails).map fun k => allLanes act causeMatrix (matrixReason k) := by
  unfold MatIn.fault16
  simp only [List.find?_cons, List.find?_nil]
  simp only [MatIn.stepFails]
  repeat' split
  all_goals simp_all [matrixReason]

theorem MatIn.fault16_of_fails {k : Nat} (h1 : 1 ≤ k) (h6 : k ≤ 6) (hj : ∀ j < k, ¬m.Fails j) (hk : m.Fails k) :
    m.fault16 act = some (allLanes act causeMatrix (matrixReason k)) := by
  have hfind : [1, 2, 3, 4, 5, 6].find? m.stepFails = some k := by
    have hpre (j : Nat) (h : j < k) : m.stepFails j = false := by
      rw [← Bool.not_eq_true, m.stepFails_iff]
      exact hj j h
    have hhit := (m.stepFails_iff k).2 hk
    interval_cases k <;> simp [hpre, hhit]
  rw [m.fault16_eq, hfind]
  rfl

theorem MatIn.fault16_none (h : ∀ j, ¬m.Fails j) : m.fault16 act = none := by
  have hfind : [1, 2, 3, 4, 5, 6].find? m.stepFails = none :=
    List.find?_eq_none.2 fun k _ hk => h k ((m.stepFails_iff k).1 hk)
  rw [m.fault16_eq, hfind]
  rfl

/-! ## Steps 7 to 10 -/

theorem MatIn.mem_recs (m : MatIn) (b : Nat) : b ∈ m.recs ↔ m.Names b := by
  unfold MatIn.recs MatIn.Names
  cases m.fb with
  | none => simp
  | some fb => simp [and_assoc, and_left_comm]

theorem mem_pickBuf {bufs : List (Option Nat)} (h : bufs ≠ []) : pickBuf key bufs ∈ bufs := by
  have hd : bufs.dedup ≠ [] := fun he => h ((List.dedup_eq_nil _).1 he)
  have hpos : 0 < bufs.dedup.length := List.length_pos_iff.2 hd
  unfold pickBuf
  dsimp only
  have hlt : (if bufs.dedup.length = 1 then 0 else Config.freePick key % bufs.dedup.length) < bufs.dedup.length := by
    split
    · omega
    · exact Nat.mod_lt _ hpos
  rw [List.getElem?_eq_getElem hlt, Option.join_some]
  exact List.mem_dedup.1 (List.getElem_mem hlt)

/-- A record named that is not valid, or not readable. -/
def MatIn.Invalid (m : MatIn) (rec : Nat → BitVec 256) (b : Nat) : Prop := m.Names b ∧ (recValid (rec b) = false ∨ recR (rec b) = false)
/-- A record named whose elements do not lie one behind another. -/
def MatIn.Odd (m : MatIn) (rec : Nat → BitVec 256) (b : Nat) : Prop := m.Names b ∧ (recStride (rec b) ≠ recEsz (rec b) ∨ recSwzEn (rec b) = true)

theorem MatIn.mem_filter_invalid (b : Nat) : b ∈ (m.recs.filter fun b => !(recValid (rec b) && recR (rec b))) ↔ m.Invalid rec b := by
  rw [List.mem_filter, m.mem_recs, MatIn.Invalid]
  simp

theorem MatIn.fault7_invalid {b : Nat} (h : m.Invalid rec b) : ∃ f : FaultInfo, m.fault7 key rec act = some f ∧ f.cause = causeRecord ∧
    f.reason = 7 ∧ f.named = act.map (·.tid) ∧ ∃ b', m.Invalid rec b' ∧ f.buf = some b' := by
  have hmem := (MatIn.mem_filter_invalid b).2 h
  have hne : (m.recs.filter fun b => !(recValid (rec b) && recR (rec b))).isEmpty = false := by
    rw [← Bool.not_eq_true, List.isEmpty_iff]
    exact List.ne_nil_of_mem hmem
  refine ⟨_, by rw [MatIn.fault7, hne]; rfl, rfl, rfl, rfl, ?_⟩
  have hpick := mem_pickBuf (key := key) (bufs := (m.recs.filter fun b => !(recValid (rec b) && recR (rec b))).map some)
    (List.ne_nil_of_mem (List.mem_map_of_mem hmem))
  obtain ⟨b', hb', hp⟩ := List.mem_map.1 hpick
  exact ⟨b', (MatIn.mem_filter_invalid b').1 hb', hp.symm⟩

theorem MatIn.fault7_odd (h : ∀ b, ¬m.Invalid rec b) :
    ((∃ b, m.Odd rec b) → m.fault7 key rec act = some (allLanes act causeMatrix 8)) ∧ ((∀ b, ¬m.Odd rec b) → m.fault7 key rec act = none) := by
  have hempty : (m.recs.filter fun b => !(recValid (rec b) && recR (rec b))) = [] :=
    List.eq_nil_iff_forall_not_mem.2 fun b hb => h b ((MatIn.mem_filter_invalid b).1 hb)
  have hodd : (m.recs.any fun b => recStride (rec b) != recEsz (rec b) || recSwzEn (rec b)) = true ↔ ∃ b, m.Odd rec b := by
    simp [List.any_eq_true, m.mem_recs, MatIn.Odd]
  rw [MatIn.fault7, hempty]
  refine ⟨fun h => ?_, fun h => ?_⟩
  · simp [hodd.2 h]
  · have : (m.recs.any fun b => recStride (rec b) != recEsz (rec b) || recSwzEn (rec b)) = false := by
      rw [← Bool.not_eq_true, hodd]
      exact fun ⟨b, hb⟩ => h b hb
    simp [this]

theorem Run.outside_iff (r : Run) : r.outside tk = true ↔ r.Leaves tk := by simp [Run.outside, Run.Leaves]

theorem Run.beyond_iff (r : Run) : r.beyond rec = true ↔ r.Beyond rec := by simp [Run.beyond, Run.Beyond, Option.any_eq_true]

open Classical in
theorem MatIn.fault8_eq (m : MatIn) (tk : Task) (act : List Thread) : m.fault8 tk act =
    if m.bo % 4 ≠ 0 ∨ tk.scratchBytes < m.bo + m.bBytes ∨ ∃ r ∈ m.runsB, r.Leaves tk then some (allLanes act causeScratch 0) else none := by
  unfold MatIn.fault8
  refine if_congr ?_ rfl rfl
  simp [Run.outside_iff, or_assoc]

open Classical in
theorem MatIn.fault9_eq (m : MatIn) (c : Ctx) (act : List Thread) : m.fault9 c act =
    let bad := act.filter fun x => m.readsOutside c x ∨ ∃ r ∈ m.runsA c x, r.Leaves c.tk
    if bad = [] then none else some (FaultInfo.plain causeScratch 0 (bad.map (·.tid))) := by
  unfold MatIn.fault9
  have hbad : (act.filter fun t => ((List.range m.k).any fun k => (unfoldBit m.win (dtBits (fmtType m.fa)) (m.row c t) (m.col0 + k)).any fun b =>
      decide (8 * c.tk.scratchBytes < b + dtBits (fmtType m.fa))) || (m.runsA c t).any (Run.outside c.tk)) =
      act.filter fun x => m.readsOutside c x ∨ ∃ r ∈ m.runsA c x, r.Leaves c.tk := by
    refine List.filter_congr fun x _ => ?_
    rw [Bool.eq_iff_iff, decide_eq_true_iff]
    simp [MatIn.readsOutside, Run.outside_iff, Option.any_eq_true]
  simp only [hbad, List.isEmpty_iff]

open Classical in
theorem MatIn.fault10_eq (m : MatIn) (key : Nat) (rec : Nat → BitVec 256) (c : Ctx) (act : List Thread) :
    let ten := act.filter fun x => ∃ r ∈ m.runsA c x ++ m.runsB, r.Beyond rec
    (ten = [] → m.fault10 key rec c act = none) ∧
    (ten ≠ [] → ∃ f : FaultInfo, m.fault10 key rec c act = some f ∧ f.cause = causeRecord ∧ f.reason = 10 ∧ f.named = ten.map (·.tid) ∧
      ∃ x ∈ ten, ∃ r ∈ m.runsA c x ++ m.runsB, r.Beyond rec ∧ f.buf = r.buf) := by
  intro ten
  have hbad : (act.filter fun t => (m.runsA c t ++ m.runsB).any (Run.beyond rec)) = ten := by
    refine List.filter_congr fun x _ => ?_
    rw [Bool.eq_iff_iff, decide_eq_true_iff, List.any_eq_true]
    simp only [Run.beyond_iff]
  unfold MatIn.fault10
  simp only [hbad, List.isEmpty_iff]
  refine ⟨fun h => if_pos h, fun h => ⟨_, if_neg h, rfl, rfl, rfl, ?_⟩⟩
  have hne : (ten.flatMap fun t => ((m.runsA c t ++ m.runsB).filter (Run.beyond rec)).map (·.buf)) ≠ [] := by
    obtain ⟨x, hx⟩ := List.exists_mem_of_ne_nil _ h
    obtain ⟨r, hr, hb⟩ := of_decide_eq_true (List.mem_filter.1 hx).2
    refine List.ne_nil_of_mem (List.mem_flatMap.2 ⟨x, hx, List.mem_map.2 ⟨r, List.mem_filter.2 ⟨hr, r.beyond_iff.2 hb⟩, rfl⟩⟩)
  obtain ⟨x, hx, hp⟩ := List.mem_flatMap.1 (mem_pickBuf (key := key) hne)
  obtain ⟨r, hr, hp⟩ := List.mem_map.1 hp
  obtain ⟨hr, hb⟩ := List.mem_filter.1 hr
  exact ⟨x, hx, r, hr, r.beyond_iff.1 hb, hp.symm⟩

end

/-! ## The lines of scales and metadata (R197 step 10, R203) -/

section
variable {rec : Nat → BitVec 256} {rs : List Run}

/-- Each line of the runs is one line, named once. -/
theorem mem_runLines {r : LineRef} (h : r ∈ runLines rec rs) : lineBase r.va = r.va := by
  obtain ⟨v, hv, hr⟩ := List.mem_filterMap.1 h
  obtain ⟨x, hx, rfl⟩ := Option.map_eq_some_iff.1 hr
  obtain ⟨y, hy, rfl⟩ := List.mem_map.1 (List.mem_dedup.1 hv)
  obtain ⟨run, -, hy⟩ := List.mem_flatMap.1 hy
  cases hb : run.buf with
  | none => simp [hb] at hy
  | some b =>
    simp only [hb, List.mem_map] at hy
    obtain ⟨va, hva, rfl⟩ := hy
    rcases List.mem_cons.1 hva with rfl | hva
    · exact lineBase_lineBase _
    · obtain ⟨hva, -⟩ := List.mem_filter.1 hva
      obtain ⟨j, -, rfl⟩ := List.mem_map.1 hva
      simp only [lineBase]
      omega

theorem runLines_nodup (rec : Nat → BitVec 256) (rs : List Run) : ((runLines rec rs).map (·.va)).Nodup := by
  unfold runLines
  dsimp only
  generalize (rs.flatMap fun r => match r.buf with
    | none => []
    | some b => (lineVas (lineBase (recBase (rec b) + r.start)) ((recBase (rec b) + r.start) % 128 + r.len)).map fun v => (v, b)) = all
  have hmap (vs : List Nat) : ((vs.filterMap fun v => (all.find? fun x => x.1 == v).map fun x => ({ va := v, buf := some x.2 } : LineRef)).map
      (·.va)).Sublist vs := by
    induction vs with
    | nil => exact List.Sublist.refl _
    | cons v vs ih =>
      rw [List.filterMap_cons]
      cases all.find? fun x => x.1 == v with
      | none => exact ih.trans (List.sublist_cons_self _ _)
      | some x => exact ih.cons_cons v
  exact (hmap _).nodup (List.nodup_dedup _)

variable {s : State} {c : Ctx} {x : Thread}

/-- One line read: its address and bytes, and the caches after it. -/
theorem State.readPieces_line (s : State) (c : Ctx) (l : LaneOk) (va : Nat) (y : Xlat) (h : lineBase va = va) :
    s.readPieces c { l with lines := [(va, y)] } 128 = s.readPiece c l (va, y, 128) := by
  have hn : min (va + 128) (lineBase va + 128) - va = 128 := by rw [h]; omega
  rw [State.readPieces_eq, LaneOk.pieces]
  simp only [List.map_cons, List.map_nil, hn, List.foldl_cons, List.foldl_nil, List.nil_append]
  rfl

/-- The lines of a lane read one after another are loads one after another. -/
theorem readLines_gives (l : LaneOk) (ys : List (Nat × Xlat)) (hys : ∀ y ∈ ys, lineBase y.1 = y.1) : ∀ (s : State) (d0 : List (Nat × List Byte)),
    let r := ys.foldl (fun (d : List (Nat × List Byte) × State) y =>
      (d.1 ++ [(y.1, (d.2.readPieces c { l with lines := [(y.1, y.2)] } 128).1)], (d.2.readPieces c { l with lines := [(y.1, y.2)] } 128).2)) (d0, s)
    ∃ data : List LoadDone, LoadsGive c.tm.core s data r.2 ∧
      List.Forall₂ (fun (y : Nat × Xlat) (d : LoadDone) => d.1 = c.key l.t ∧ d.2.1 = y.2 ∧ d.2.2.1 = 128) ys data ∧
      r.1 = d0 ++ List.zipWith (fun (y : Nat × Xlat) (d : LoadDone) => (y.1, d.2.2.2)) ys data := by
  induction ys with
  | nil => exact fun s d0 => ⟨[], rfl, .nil, (List.append_nil d0).symm⟩
  | cons y ys ih =>
    intro s d0
    obtain ⟨data, hload, hall, hd⟩ := ih (fun z hz => hys z (List.mem_cons_of_mem _ hz)) (s.readPiece c l (y.1, y.2, 128)).2
      (d0 ++ [(y.1, (s.readPiece c l (y.1, y.2, 128)).1)])
    rw [List.foldl_cons]
    simp only [s.readPieces_line c l y.1 y.2 (hys y List.mem_cons_self)]
    refine ⟨(c.key l.t, y.2, 128, (s.readPiece c l (y.1, y.2, 128)).1) :: data, ⟨s.readPiece_may c l (y.1, y.2, 128), _,
      s.readPiece_caches c l (y.1, y.2, 128), hload⟩, .cons ⟨rfl, rfl, rfl⟩ hall, ?_⟩
    rw [hd, List.append_assoc]
    rfl

theorem State.readLines_eq (s : State) (c : Ctx) (l : LaneOk) : s.readLines c l =
    l.lines.foldl (fun (d : List (Nat × List Byte) × State) y =>
      (d.1 ++ [(y.1, (d.2.readPieces c { l with lines := [(y.1, y.2)] } 128).1)], (d.2.readPieces c { l with lines := [(y.1, y.2)] } 128).2))
      ([], s) := rfl

/-- In a list of lines named once each, the entry of a line is the one found. -/
theorem find?_line {refs : List LineRef} {data : List LoadDone} (hn : (refs.map (·.va)).Nodup) {r : LineRef} {d : LoadDone}
    (h : (r, d) ∈ refs.zip data) :
    (List.zipWith (fun (r : LineRef) (d : LoadDone) => (r.va, d.2.2.2)) refs data).find? (fun x => x.1 == r.va) = some (r.va, d.2.2.2) := by
  induction refs generalizing data with
  | nil => simp at h
  | cons q refs ih =>
    cases data with
    | nil => simp at h
    | cons e data =>
      rw [List.map_cons, List.nodup_cons] at hn
      rw [List.zip_cons_cons] at h
      rw [List.zipWith_cons_cons, List.find?_cons]
      rcases List.mem_cons.1 h with h | h
      · cases h
        simp
      · have hne : q.va ≠ r.va := fun he => hn.1 (he ▸ List.mem_map_of_mem (List.of_mem_zip h).1)
        simp only [beq_eq_false_iff_ne.2 hne]
        exact ih hn.2 h

/-- What a lane reads of its lines. -/
theorem laneReads_of {refs : List LineRef} {data : List LoadDone} (hn : (refs.map (·.va)).Nodup)
    (hall : List.Forall₂ (fun (r : LineRef) (d : LoadDone) => d.1 = c.key x ∧ s.lineOut c c.touchLoad x r.va = .ok d.2.1 ∧ d.2.2.1 = 128) refs data) :
    LaneReads s c x rec refs data (laneBytes c.tm rec (List.zipWith (fun (r : LineRef) (d : LoadDone) => (r.va, d.2.2.2)) refs data)) := by
  refine ⟨fun _ => rfl, List.forall₂_iff_zip.2 ⟨hall.length_eq, fun {r d} h => ?_⟩⟩
  obtain ⟨hk, ho, hlen⟩ := (List.forall₂_iff_zip.1 hall).2 h
  refine ⟨hk, ho, hlen, fun b o hb => ?_⟩
  rw [laneBytes]
  simp only [hb, find?_line hn h]

/-- A lane of a matrix instruction as the checks of its lines leave it. -/
def matrixLane (s : State) (c : Ctx) (refs : Thread → List LineRef) (x : Thread) : LaneOk :=
  { t := x, dropped := false, lines := (refs x).filterMap (fun r => (s.lineOut c c.touchLoad x r.va).xlat r.va),
    buf := ((refs x).head?).bind (·.buf) }

theorem okLanes_matrix (s : State) (c : Ctx) (act : List Thread) (refs : Thread → List LineRef) :
    s.okLanes c c.touchLoad (act.map fun x => (x, false, refs x)) = act.map (matrixLane s c refs) := by
  rw [State.okLanes, List.map_map]
  rfl

/-- The reads of the lanes one after another. -/
def readAll (c : Ctx) (rec : Nat → BitVec 256) (lanes : List LaneOk) (z : List (Thread × ByteAt) × State) : List (Thread × ByteAt) × State :=
  lanes.foldl (fun z l => (z.1 ++ [(l.t, laneBytes c.tm rec (z.2.readLines c l).1)], (z.2.readLines c l).2)) z

theorem filterMap_xlat {s0 : State} {refs : List LineRef} (h : ∀ r ∈ refs, ∃ y, s0.lineOut c c.touchLoad x r.va = .ok y) :
    ∃ ys : List Xlat, (refs.filterMap fun r => (s0.lineOut c c.touchLoad x r.va).xlat r.va) = List.zipWith (fun (r : LineRef) y => (r.va, y)) refs ys ∧
      List.Forall₂ (fun (r : LineRef) y => s0.lineOut c c.touchLoad x r.va = .ok y) refs ys := by
  induction refs with
  | nil => exact ⟨[], rfl, .nil⟩
  | cons r refs ih =>
    obtain ⟨y, hy⟩ := h r List.mem_cons_self
    obtain ⟨ys, heq, hall⟩ := ih fun q hq => h q (List.mem_cons_of_mem _ hq)
    refine ⟨y :: ys, ?_, .cons hy hall⟩
    rw [List.filterMap_cons, hy, List.zipWith_cons_cons, ← heq]
    rfl

theorem zipWith_lines {refs : List LineRef} {ys : List Xlat} {P : LineRef → Xlat → Prop} {Q : LoadDone → Xlat → Prop} {data : List LoadDone}
    (h1 : List.Forall₂ P refs ys) (h2 : List.Forall₂ (fun (y : Nat × Xlat) (d : LoadDone) => Q d y.2) (List.zipWith (fun (r : LineRef) y => (r.va, y)) refs ys) data) :
    List.Forall₂ (fun r d => ∃ y, P r y ∧ Q d y) refs data ∧
      List.zipWith (fun (y : Nat × Xlat) (d : LoadDone) => (y.1, d.2.2.2)) (List.zipWith (fun (r : LineRef) y => (r.va, y)) refs ys) data =
        List.zipWith (fun (r : LineRef) (d : LoadDone) => (r.va, d.2.2.2)) refs data := by
  induction h1 generalizing data with
  | nil =>
    cases h2
    exact ⟨.nil, rfl⟩
  | @cons r y refs ys hry _ ih =>
    cases h2 with
    | @cons _ d _ data hd h2 =>
      obtain ⟨hall, heq⟩ := ih h2
      exact ⟨.cons ⟨y, hry, hd⟩ hall, by rw [List.zipWith_cons_cons, List.zipWith_cons_cons, heq, List.zipWith_cons_cons]⟩

/-- The reads of one lane. -/
theorem readLines_lane (s0 s : State) {refs : List LineRef} (hline : ∀ r ∈ refs, lineBase r.va = r.va) (hn : (refs.map (·.va)).Nodup)
    (h : ∀ r ∈ refs, ∃ y, s0.lineOut c c.touchLoad x r.va = .ok y) {l : LaneOk} (ht : l.t = x)
    (hl : l.lines = refs.filterMap fun r => (s0.lineOut c c.touchLoad x r.va).xlat r.va) :
    ∃ data : List LoadDone, LoadsGive c.tm.core s data (s.readLines c l).2 ∧
      LaneReads s0 c x rec refs data (laneBytes c.tm rec (s.readLines c l).1) := by
  obtain ⟨ys, heq, hys⟩ := filterMap_xlat h
  have hlines : ∀ y ∈ l.lines, lineBase y.1 = y.1 := by
    intro y hy
    rw [hl] at hy
    obtain ⟨r, hr, hy⟩ := List.mem_filterMap.1 hy
    rw [(LineOut.xlat_some hy).1]
    exact hline r hr
  obtain ⟨data, hload, hall, hd⟩ := readLines_gives l l.lines hlines s []
  rw [← State.readLines_eq] at hload hd
  rw [hl, heq, ht] at hall
  rw [hl, heq] at hd
  obtain ⟨hall', hzip⟩ := zipWith_lines (Q := fun d y => d.1 = c.key x ∧ d.2.1 = y ∧ d.2.2.1 = 128) hys hall
  refine ⟨data, hload, ?_⟩
  rw [hd, List.nil_append, hzip]
  refine laneReads_of hn (hall'.imp ?_)
  rintro r d ⟨y, hy, hk, rfl, hlen⟩
  exact ⟨hk, hy, hlen⟩

/-- The lanes read their lines, lane by lane. -/
theorem readAll_gives (s0 : State) {refs : Thread → List LineRef} (act : List Thread) (hline : ∀ x ∈ act, ∀ r ∈ refs x, lineBase r.va = r.va)
    (hn : ∀ x ∈ act, ((refs x).map (·.va)).Nodup) (h : ∀ x ∈ act, ∀ r ∈ refs x, ∃ y, s0.lineOut c c.touchLoad x r.va = .ok y) :
    ∀ (s : State) (z : List (Thread × ByteAt)),
    let r := readAll c rec (act.map (matrixLane s0 c refs)) (z, s)
    ∃ (data : List (List LoadDone)) (rds : List ByteAt), LoadsGive c.tm.core s data.flatten r.2 ∧ data.length = act.length ∧
      rds.length = act.length ∧ r.1 = z ++ act.zip rds ∧ ∀ x ∈ act.zip (data.zip rds), LaneReads s0 c x.1 rec (refs x.1) x.2.1 x.2.2 := by
  induction act with
  | nil => exact fun s z => ⟨[], [], rfl, rfl, rfl, (List.append_nil z).symm, by simp⟩
  | cons x act ih =>
    intro s z
    have hx := List.mem_cons_self (a := x) (l := act)
    obtain ⟨d, hload, hreads⟩ := readLines_lane (rec := rec) s0 s (hline x hx) (hn x hx) (h x hx)
      (l := matrixLane s0 c refs x) rfl rfl
    generalize hs : s.readLines c (matrixLane s0 c refs x) = out at hload hreads
    obtain ⟨data, rds, hload', hlen, hlen', hz, hall⟩ := ih (fun y hy => hline y (List.mem_cons_of_mem _ hy))
      (fun y hy => hn y (List.mem_cons_of_mem _ hy)) (fun y hy => h y (List.mem_cons_of_mem _ hy)) out.2 (z ++ [(x, laneBytes c.tm rec out.1)])
    have hstep : readAll c rec ((x :: act).map (matrixLane s0 c refs)) (z, s) =
        readAll c rec (act.map (matrixLane s0 c refs)) (z ++ [(x, laneBytes c.tm rec out.1)], out.2) := by
      rw [← hs]
      rfl
    rw [hstep]
    refine ⟨d :: data, laneBytes c.tm rec out.1 :: rds, hload.append hload', by simp [hlen], by simp [hlen'], ?_, ?_⟩
    · rw [hz, List.append_assoc]
      rfl
    · intro y hy
      rw [List.zip_cons_cons, List.zip_cons_cons] at hy
      rcases List.mem_cons.1 hy with rfl | hy
      · exact hreads
      · exact hall y hy

/-! ## A matrix instruction -/

variable {i : Instr} {g : Guards} {tile : Nat} {ops : Ctx → Warp → MatIn} {f : Ctx → MatIn → ByteAt → Thread → List Acc → List Acc}

/-- What a matrix instruction does with its lanes once its checks pass. -/
def matrixGo (s : State) (c : Ctx) (tile : Nat) (m : MatIn) (rec : Nat → BitVec 256) (act : List Thread)
    (f : Ctx → MatIn → ByteAt → Thread → List Acc → List Acc) (lanes : List LaneOk) : Eff :=
  match loadStalls s c lanes, (cellsMet s c lanes).filter fun p => !s.gathering p with
  | t :: ts, _ => .stall (t :: ts)
  | [], p :: ps => .done ((p :: ps).foldl (fun s q => s.accessHome q .clean) s) { Post.none with stay := c.g.members }
  | [], [] =>
    if (cellsMet s c lanes).isEmpty then
      let z := readAll c rec lanes ([], s.fillLtbs c lanes)
      if z.1.all fun x => m.metaOk x.2 then
        .ok (z.1.foldl (fun s x => s.putRow c x.1 tile (s.anyRow x.1.tid (f c m x.2 x.1 (c.tileRow x.1 tile)))) z.2)
      else .fault (allLanes act causeMatrix 6)
    else .stall c.g.members

/-- The first fault of steps 1 to 10. -/
def MatIn.firstFault (m : MatIn) (key : Nat) (rec : Nat → BitVec 256) (c : Ctx) (act : List Thread) : Option FaultInfo :=
  m.fault16 act <|> m.fault7 key rec act <|> m.fault8 c.tk act <|> m.fault9 c act <|> m.fault10 key rec c act

/-- A matrix instruction: the first step that fails, or its lanes. -/
theorem exec_matrix (hrun : ∀ s, exec i s = runMatrix i g tile s ops f) {x0 : Thread} {rest : List Thread} (hc : CanIssue s c i g)
    (ha : NoAcquire s c g) (hact : c.active g = x0 :: rest) :
    let m := ops c (c.warp x0)
    let rec' := fun b => recordOf c.tk (c.warp x0) b
    exec i s = s.finish c i ((m.firstFault (s.key 1) rec' c (c.active g)).elim
      (s.translateRefs c c.touchLoad ((c.active g).map fun x => (x, false, runLines rec' (m.runsA c x ++ m.runsB)))
        (matrixGo s c tile m rec' (c.active g) f)) .fault) := by
  intro m rec'
  rw [hrun, runMatrix, runMem_issues hc ha, hact]
  dsimp only
  unfold MatIn.firstFault
  cases m.fault16 (x0 :: rest) with
  | some x => rfl
  | none =>
    cases m.fault7 (s.key 1) rec' (x0 :: rest) with
    | some x => rfl
    | none =>
      cases m.fault8 c.tk (x0 :: rest) with
      | some x => rfl
      | none =>
        cases m.fault9 c (x0 :: rest) with
        | some x => rfl
        | none =>
          cases m.fault10 (s.key 1) rec' c (x0 :: rest) with
          | some x => rfl
          | none => rfl

/-- Lines that can be read now are read, one after another. -/
theorem matrixReads_of {act : List Thread} {refs : Thread → List LineRef} (hline : ∀ x ∈ act, ∀ r ∈ refs x, lineBase r.va = r.va)
    (hn : ∀ x ∈ act, ((refs x).map (·.va)).Nodup) (h : ∀ x ∈ act, ∀ r ∈ refs x, ∃ y, s.lineOut c c.touchLoad x r.va = .ok y) :
    let lanes := act.map (matrixLane s c refs)
    ∃ rds, MatrixReads s c act rec refs rds (readAll c rec lanes ([], s.fillLtbs c lanes)).2 ∧
      (readAll c rec lanes ([], s.fillLtbs c lanes)).1 = act.zip rds ∧ rds.length = act.length := by
  intro lanes
  obtain ⟨data, rds, hload, hlen, hlen', hz, hall⟩ := readAll_gives (rec := rec) s act hline hn h (s.fillLtbs c lanes) []
  refine ⟨rds, ⟨data, ?_, hlen, hlen', hall⟩, hz, hlen'⟩
  by_cases hd : data.flatten = []
  · have hnone : ∀ l ∈ lanes, l.lines = [] := by
      intro l hl
      obtain ⟨x, hx, rfl⟩ := List.mem_map.1 hl
      obtain ⟨j, hj, rfl⟩ := List.getElem_of_mem hx
      have hmem : (act[j], data[j], rds[j]) ∈ act.zip (data.zip rds) := by
        refine List.mem_iff_getElem.2 ⟨j, by simp [hlen, hlen', hj], by simp⟩
      have hempty : data[j] = [] := List.flatten_eq_nil_iff.1 hd _ (List.getElem_mem _)
      have hrefs := (hall _ hmem).2
      simp only [hempty] at hrefs
      rw [matrixLane, List.forall₂_nil_right_iff.1 hrefs]
      rfl
    rwa [State.fillLtbs_of_no_lines hnone] at hload ⊢
  · obtain ⟨ltb, hltb⟩ := s.fillLtbs_eq c lanes
    rw [hltb] at hload ⊢
    exact hload.of_ltb hd

end

end Sys2Proof.Machine

/-!
Faults of the scratchpad, of RECD and of matrix instructions (O34), each raised with nothing else done.
-/
namespace Sys2Proof.Machine

open Sys2Proof

section
variable {s : State} {c : Ctx} {i : Instr} {g : Guards}

/-! ## SCRATCH BOUND (R171, R176, R192) -/

/-- An instruction that asks for the fault of its offsets. -/
theorem scratchRaised_of {n align : Nat} {off : Thread → Int}
    (h : ∀ f, scratchFault c.tk n align ((c.active g).map fun x => (x, off x)) = some f → exec i s = s.finish c i (.fault f)) :
    ScratchRaised s c i g n align off := by
  classical
  unfold ScratchRaised
  intro bad hbad
  have hfilter : (((c.active g).map fun x => (x, off x)).filter fun x : Thread × Int =>
      !(decide (0 ≤ x.2) && decide (x.2 + n ≤ c.tk.scratchBytes) && decide (x.2 % align = 0))) = bad.map fun x => (x, off x) := by
    rw [List.filter_map]
    refine congrArg _ (List.filter_congr fun x _ => ?_)
    rw [Bool.eq_iff_iff, decide_eq_true_iff]
    simp only [Function.comp_apply, Bool.not_eq_true', Bool.and_eq_false_iff, decide_eq_false_iff_not, not_le, or_assoc]
  have hne : ¬(bad.map fun x => (x, off x)).isEmpty = true := by simpa using hbad
  refine ⟨{ FaultInfo.plain causeScratch 0 ((bad.map fun x => (x, off x)).map (·.1.tid)) with
      details := (bad.map fun x => (x, off x)).map fun x =>
        { tid := x.1.tid, index := some (BitVec.ofInt 64 x.2), faddr := none, opnd := none } },
    rfl, rfl, by simp [Function.comp_def, FaultInfo.plain], List.map_map, h _ ?_⟩
  unfold scratchFault
  simp only [hfilter, if_neg hne, List.map_map]

theorem scratchRaised_lds (o : ScratchOp) (hc : CanIssue s c (.lds g o) g) (ha : NoAcquire s c g) :
    ScratchRaised s c (.lds g o) g (widthBytes o.width) (widthBytes o.width) (scratchOff c o) :=
  scratchRaised_of fun f hf => by
    change execLds g o s = _
    rw [execLds, runMem_issues hc ha]
    simp only [hf]

theorem scratchRaised_sts (o : ScratchOp) (hc : CanIssue s c (.sts g o) g) (ha : NoAcquire s c g) :
    ScratchRaised s c (.sts g o) g (widthBytes o.width) (widthBytes o.width) (scratchOff c o) :=
  scratchRaised_of fun f hf => by
    change execSts g o s = _
    rw [execSts, runMem_issues hc ha]
    simp only [hf]

theorem scratchRaised_fill {a : SpillAddr} {size : Nat} {bad : List Byte → Bool} {put : Ctx → State → Thread → List Byte → State}
    {drop : Ctx → State → Thread → State} (h : ∀ s, exec i s = runFill i g a size s bad put drop) (hb : a.buf = none)
    (hc : CanIssue s c i g) (ha : NoAcquire s c g) : ScratchRaised s c i g size 32 (spillOff c a) :=
  scratchRaised_of fun f hf => by
    rw [h, runFill, runMem_issues hc ha, hb]
    simp only [fillImages, hf]

theorem scratchRaised_spill {a : SpillAddr} {size : Nat} {image : Ctx → Thread → List Byte} (h : ∀ s, exec i s = runSpill i g a size s image)
    (hb : a.buf = none) (hc : CanIssue s c i g) (ha : NoAcquire s c g) : ScratchRaised s c i g size 32 (spillOff c a) :=
  scratchRaised_of fun f hf => by
    rw [h, runSpill, runMem_issues hc ha, hb]
    simp only [hf]

theorem scratchRaised_cpyGs (o : CopyOp) (hc : CanIssue s c (.cpyGs g o) g) (ha : NoAcquire s c g)
    (hs : SidePasses (copySide c (c.active g) (copyBytes o.size) o.a o.buf recR)) :
    ScratchRaised s c (.cpyGs g o) g (copyBytes o.size) (copyBytes o.size) fun x => ((c.laneView x).vs o.d).toNat :=
  scratchRaised_of fun f hf => by
    change execCpyGs g o s = _
    rw [execCpyGs, runMem_issues hc ha]
    simp only [sidesFault_none (sides := [_]) (by simpa using hs), copyOffs, hf]

theorem scratchRaised_cpySg (o : CopyOp) (hc : CanIssue s c (.cpySg g o) g) (ha : NoAcquire s c g)
    (hs : SidePasses (copySide c (c.active g) (copyBytes o.size) o.d o.buf recW)) :
    ScratchRaised s c (.cpySg g o) g (copyBytes o.size) (copyBytes o.size) fun x => ((c.laneView x).vs o.a).toNat :=
  scratchRaised_of fun f hf => by
    change execCpySg g o s = _
    rw [execCpySg, runMem_issues hc ha]
    simp only [sidesFault_none (sides := [_]) (by simpa using hs), copyOffs, hf]

/-! ## RECD (R182) -/

theorem exec_recd_fault (o : RecdOp) (hc : CanIssue s c (.recd g o) g) :
    let new := fun (k : Nat) => recDerive (recordOf c.tk (c.tm.warp k) o.b.val) ((c.tm.warp k).spair o.a.val).toNat
      ((c.tm.warp k).spair (o.a.val + 2)).toNat o.drop o.trap
    let bad := (c.active g).filter fun x => (new (c.warpNo x)).isNone
    bad ≠ [] → ∃ f : FaultInfo, f.cause = causeRecord ∧ f.reason = 12 ∧ f.named = bad.map (·.tid) ∧ f.buf = some o.b.val ∧
      Raises s c (.recd g o) f := by
  intro new bad hbad
  obtain ⟨x, hx⟩ := List.exists_mem_of_ne_nil _ hbad
  obtain ⟨hx, hnone⟩ := List.mem_filter.1 hx
  have hall : ¬((c.warps (c.active g)).all fun k => (new k).isSome) = true := fun h => by
    have := List.all_eq_true.1 h (c.warpNo x) (List.mem_dedup.2 (List.mem_map_of_mem hx))
    rw [Option.isNone_iff_eq_none.1 hnone] at this
    cases this
  refine ⟨{ FaultInfo.plain causeRecord 12 (bad.map (·.tid)) with buf := some o.b.val }, rfl, rfl, rfl, rfl, ?_⟩
  change execRecd g o s = _
  rw [execRecd, run_issues hc]
  exact congrArg (s.finish c _) (if_neg hall)

theorem recDerive_none {r : BitVec 256} {start ext : Nat} {drop : BitVec 4} {trap : Bool} (h : recValid r = false ∨ recExtent r < start + ext ∨
      (recSwzEn r = true ∧ start * recStride r % 2 ^ (recSwzSrc r + recSwzWid r) ≠ 0) ∨ 2 ^ 57 ≤ recBase r + start * recStride r) :
    recDerive r start ext drop trap = none := by
  cases hd : recDerive r start ext drop trap with
  | none => rfl
  | some r' =>
    obtain ⟨hv, hx, hswz, hb, -⟩ := recDerive_some hd
    rcases h with h | h | ⟨h, hne⟩ | h
    · simp [hv] at h
    · omega
    · exact absurd (hswz h) hne
    · omega

/-! ## Matrix instructions (R197) -/

variable {tile : Nat} {ops : Ctx → Warp → MatIn} {f : Ctx → MatIn → ByteAt → Thread → List Acc → List Acc}

/-- Lines that can be read now leave no lane waiting. -/
theorem linesRead_ready {act : List Thread} {refs : Thread → List LineRef} (h : ∀ x ∈ act, LinesRead s c x (refs x)) :
    LanesReady s c (act.map (matrixLane s c refs)) := by
  intro l hl y hy ho
  obtain ⟨x, hx, rfl⟩ := List.mem_map.1 hl
  obtain ⟨r, hr, hy⟩ := List.mem_filterMap.1 hy
  obtain ⟨z, hz, -, hready⟩ := h x hx r hr
  rw [hz] at hy
  cases hy
  exact hready ho

/-- The lanes of a matrix instruction read their lines, and an index of B that is not legal is a fault of them all. -/
theorem matrixGo_reads {m : MatIn} {rec : Nat → BitVec 256} {act : List Thread} {runs : Thread → List Run}
    (h : ∀ x ∈ act, LinesRead s c x (runLines rec (runs x))) :
    ∃ s1 rds, MatrixReads s c act rec (fun x => runLines rec (runs x)) rds s1 ∧
      ((∃ rd ∈ rds, m.metaOk rd = false) →
        s.translateRefs c c.touchLoad (act.map fun x => (x, false, runLines rec (runs x))) (matrixGo s c tile m rec act f) =
          .fault (allLanes act causeMatrix 6)) := by
  obtain ⟨rds, hreads, hz, hlen⟩ := matrixReads_of (s := s) (c := c) (rec := rec) (act := act) (refs := fun x => runLines rec (runs x))
    (fun x _ r hr => mem_runLines hr) (fun x _ => runLines_nodup rec _)
    (fun x hx r hr => let ⟨y, hy, _⟩ := h x hx r hr; ⟨y, hy⟩)
  refine ⟨_, rds, hreads, fun ⟨rd, hrd, hbad⟩ => ?_⟩
  have hall : ¬((act.zip rds).all fun x => m.metaOk x.2) = true := fun hall => by
    obtain ⟨j, hj, rfl⟩ := List.getElem_of_mem hrd
    have := List.all_eq_true.1 hall (act[j]'(hlen ▸ hj), rds[j]) (List.mem_iff_getElem.2 ⟨j, by simp [hlen ▸ hj, hj], by simp⟩)
    rw [hbad] at this
    cases this
  have hready := linesRead_ready h
  rw [translateRefs_ok, okLanes_matrix, matrixGo]
  · simp only [hready.loadStalls, hready.cellsMet, List.filter_nil, List.isEmpty_nil, if_true, hz, if_neg hall]
  · intro x hx r hr
    obtain ⟨t, ht, rfl⟩ := List.mem_map.1 hx
    obtain ⟨y, hy, hclear, -⟩ := h t ht r hr
    exact ⟨y, hy, hclear⟩

/-- A matrix instruction makes the checks of R197 in their order. -/
theorem matrixChecked_of (hrun : ∀ s, exec i s = runMatrix i g tile s ops f) : MatrixChecked i g ops := by
  intro s c x0 rest hc ha hact m rec' runs all invalid odd eight nine ten
  have hexec : exec i s = s.finish c i ((m.firstFault (s.key 1) rec' c (c.active g)).elim
      (s.translateRefs c c.touchLoad ((c.active g).map fun x => (x, false, runLines rec' (runs x))) (matrixGo s c tile m rec' (c.active g) f))
      .fault) := exec_matrix hrun hc ha hact
  have raised {x : FaultInfo} (h : m.firstFault (s.key 1) rec' c (c.active g) = some x) : Raises s c i x := by
    rw [Raises, hexec, h]
    rfl
  refine ⟨fun k h1 h6 hj hk => raised ?_, fun h16 => ⟨fun b hb => ?_, fun hv ho => raised ?_, fun h7 => ⟨fun h8 => raised ?_,
    fun h8 h9 => raised ?_, fun h8 h9 h10 => ?_, fun h8 h9 h10 => ?_⟩⟩⟩
  · rw [MatIn.firstFault, m.fault16_of_fails h1 h6 hj hk]
    rfl
  · obtain ⟨x, hx, hcause, hreason, hnamed, hbuf⟩ := MatIn.fault7_invalid (m := m) (key := s.key 1) (act := c.active g) (rec := rec') hb
    refine ⟨x, hcause, hreason, hnamed, hbuf, raised ?_⟩
    rw [MatIn.firstFault, m.fault16_none h16, hx]
    rfl
  · rw [MatIn.firstFault, m.fault16_none h16, (MatIn.fault7_odd hv).1 ho]
    rfl
  · rw [MatIn.firstFault, m.fault16_none h16, (MatIn.fault7_odd fun b => (h7 b).1).2 fun b => (h7 b).2, m.fault8_eq, if_pos h8]
    rfl
  · rw [MatIn.firstFault, m.fault16_none h16, (MatIn.fault7_odd fun b => (h7 b).1).2 fun b => (h7 b).2, m.fault8_eq, if_neg h8, m.fault9_eq,
      if_neg h9]
    rfl
  all_goals
    have hpre : m.firstFault (s.key 1) rec' c (c.active g) = m.fault10 (s.key 1) rec' c (c.active g) := by
      rw [MatIn.firstFault, m.fault16_none h16, (MatIn.fault7_odd fun b => (h7 b).1).2 fun b => (h7 b).2, m.fault8_eq, if_neg h8, m.fault9_eq,
        if_pos h9]
      rfl
  · obtain ⟨x, hx, hcause, hreason, hnamed, hbuf⟩ := (m.fault10_eq (s.key 1) rec' c (c.active g)).2 h10
    exact ⟨x, hcause, hreason, hnamed, hbuf, raised (hpre.trans hx)⟩
  · rw [hpre, (m.fault10_eq (s.key 1) rec' c (c.active g)).1 h10, Option.elim_none] at hexec
    refine ⟨?_, fun hlines => ?_⟩
    · have := linesChecked_of (buf := none) (fun b hb => nomatch hb) hexec
      rwa [lineAddrs, List.map_map] at this
    · obtain ⟨s1, rds, hreads, hbad⟩ := matrixGo_reads (tile := tile) (m := m) (f := f) hlines
      refine ⟨s1, rds, hreads, fun h => ?_⟩
      rw [Raises, hexec, hbad h]
      rfl

end

/-- LLOAD as a read of images: of an entry, or of zeros for a lane that the mask leaves out. -/
theorem exec_lload_fill (g : Guards) (o : LmemOp) (s : State) :
    exec (.lload g o) s = runFill (.lload g o) g o.addr 96 s (fun bs => !(leNat bs / 2 ^ 724 % 2 ^ 44 == 0))
      (fun c s t bs => s.modThread (c.key t) fun t => t.setLa o.la.val (Acc.ofBytes bs))
      fun c s t => s.modThread (c.key t) fun t => t.setLa o.la.val Acc.zero := by
  change execLload g o s = _
  rw [execLload]
  simp only [imageClean]

theorem exec_mfill_fill (g : Guards) (o : MmemOp) (s : State) :
    exec (.mfill g o) s = runFill (.mfill g o) g o.addr 1536 s (fun bs => !((rowImages bs).all fun b => leNat b / 2 ^ 724 % 2 ^ 44 == 0))
      (fun c s t bs => s.putRow c t o.ta.val ((rowImages bs).map Acc.ofBytes))
      fun c s t => s.putRow c t o.ta.val (List.replicate 16 Acc.zero) := by
  change execMfill g o s = _
  rw [execMfill, funext any_not_clean]

theorem exec_lstore_spill (g : Guards) (o : LmemOp) (s : State) :
    exec (.lstore g o) s = runSpill (.lstore g o) g o.addr 96 s fun _ t => (t.la o.la.val).bytes := by
  change execLstore g o s = _
  rw [execLstore]

theorem exec_mspill_spill (g : Guards) (o : MmemOp) (s : State) :
    exec (.mspill g o) s = runSpill (.mspill g o) g o.addr 1536 s fun c t => (c.tileRow t o.ta.val).flatMap Acc.bytes := by
  change execMspill g o s = _
  rw [execMspill]

/-- Settles O34: each check of the model is the step of the rules that it stands for. -/
theorem scratchAndMatrixFaults : Obligations.ScratchAndMatrixFaults := by
  refine ⟨fun g o s c => ⟨scratchRaised_lds o, scratchRaised_sts o⟩,
    fun g o s c hb => ⟨scratchRaised_fill (exec_lload_fill g o) hb, scratchRaised_spill (exec_lstore_spill g o) hb⟩,
    fun g o s c hb => ⟨scratchRaised_fill (exec_mfill_fill g o) hb, scratchRaised_spill (exec_mspill_spill g o) hb⟩,
    fun g o s c => ⟨scratchRaised_cpyGs o, scratchRaised_cpySg o⟩,
    fun g o s c hc => exec_recd_fault o hc, fun r start ext drop trap h => recDerive_none h,
    fun g o => ⟨matrixChecked_of fun _ => rfl, matrixChecked_of fun _ => rfl⟩, fun g o => matrixChecked_of fun _ => rfl,
    fun g o s c => ?_, fun g o s c => ?_⟩
  · cases hb : o.addr.buf with
    | none => exact exec_fill_scratch (exec_lload_fill g o) hb
    | some b => exact imagesFaulted_fill (exec_lload_fill g o) (fun x bs => teamWrite_modThread ..) (fun x => teamWrite_modThread ..) hb
  · cases hb : o.addr.buf with
    | none =>
      have h := exec_fill_scratch (s := s) (c := c) (exec_mfill_fill g o) hb
      exact h
    | some b => exact imagesFaulted_fill (exec_mfill_fill g o) (fun x bs => teamWrite_putRow ..) (fun x => teamWrite_putRow ..) hb

end Sys2Proof.Machine

/-!
What the lanes of an access enter, one after another (R157, R163): items of the queues of their warps, entries of the inning buffer, and
answers on their way.
-/
namespace Sys2Proof.Machine

open Sys2Proof

/-- A team whose warps' queues have received items, in order. -/
def Team.feed (items : List (Nat × List QItem)) (tm : Team) : Team :=
  items.foldl (fun tm x => tm.modWarp x.1 fun w => { w with queue := w.queue ++ x.2 }) tm

theorem Team.feed_append (a b : List (Nat × List QItem)) (tm : Team) : tm.feed (a ++ b) = (tm.feed a).feed b := List.foldl_append

theorem Team.feed_eq (items : List (Nat × List QItem)) (tm : Team) : tm.feed items = { tm with warps := (tm.feed items).warps } ∧
    (tm.feed items).warps.length = tm.warps.length ∧
    ∀ k < tm.warps.length, (tm.feed items).warp k =
      { tm.warp k with queue := (tm.warp k).queue ++ (items.filter (·.1 == k)).flatMap (·.2) } := by
  induction items generalizing tm with
  | nil => exact ⟨rfl, rfl, fun k _ => by simp [Team.feed]⟩
  | cons x items ih =>
    have hlen : (tm.modWarp x.1 fun w => { w with queue := w.queue ++ x.2 }).warps.length = tm.warps.length := List.length_modify ..
    obtain ⟨heq, hl, hk⟩ := ih (tm.modWarp x.1 fun w => { w with queue := w.queue ++ x.2 })
    refine ⟨heq, hl.trans hlen, fun k hlt => (hk k (hlen ▸ hlt)).trans ?_⟩
    by_cases h : x.1 = k
    · subst h
      have : (tm.modWarp x.1 fun w => { w with queue := w.queue ++ x.2 }).warp x.1 =
          { tm.warp x.1 with queue := (tm.warp x.1).queue ++ x.2 } := by
        simp [Team.warp, Team.modWarp, List.getD_eq_getElem?_getD, hlt]
      rw [this, List.filter_cons_of_pos (by simp), List.flatMap_cons, List.append_assoc]
    · rw [Team.warp_modWarp_ne _ _ _ (Ne.symm h), List.filter_cons_of_neg (by simpa using h)]

/-- `t` is `s` after `items` have entered the queues of the warps of the team of `c` and `buf` the inning buffer of its task, with `msgs`
sent; L1 lines may have left P, and an acquire may have dropped lines. -/
structure Enters (c : Ctx) (s t : State) (items : List (Nat × List QItem)) (buf : List DoEntry → List DoEntry) (msgs : List Msg) : Prop where
  frame : t = { s with teams := t.teams, tasks := t.tasks, net := s.net ++ msgs, l1 := t.l1, l2 := t.l2, ltb := t.ltb, wsStores := t.wsStores }
  l1 : ∀ l ∈ t.l1, ∃ x ∈ s.l1, l = { x with st := l.st }
  l2 : ∀ l ∈ t.l2, l ∈ s.l2
  ws : SameStores s.wsStores t.wsStores
  tasks : t.tasks = (s.modTask c.tk.id fun tk => { tk with buf := buf tk.buf }).tasks
  teams : t.teams = (s.modTeam c.tk.id c.tm.team (Team.feed items)).teams

section
variable {c : Ctx} {s t u : State} {items items' : List (Nat × List QItem)} {buf buf' : List DoEntry → List DoEntry} {msgs msgs' : List Msg}

theorem State.tasks_buffer_id (s : State) (m : Nat) : (s.modTask m fun tk => { tk with buf := id tk.buf }).tasks = s.tasks :=
  congrArg State.tasks (s.modTask_id m)

theorem State.teams_feed_nil (s : State) (m n : Nat) : (s.modTeam m n (Team.feed [])).teams = s.teams := by
  simp [State.modTeam, mapIf, Team.feed]

/-- A state that differs in its L1, its L2, its translations and who knows of stores. -/
theorem Enters.of_copies (hf : t = { s with l1 := t.l1, l2 := t.l2, ltb := t.ltb, wsStores := t.wsStores })
    (h1 : ∀ l ∈ t.l1, ∃ x ∈ s.l1, l = { x with st := l.st }) (h2 : ∀ l ∈ t.l2, l ∈ s.l2) (hw : SameStores s.wsStores t.wsStores) :
    Enters c s t [] id [] where
  frame := by rw [hf, List.append_nil]
  l1 := h1
  l2 := h2
  ws := hw
  tasks := (congrArg State.tasks hf).trans (s.tasks_buffer_id _).symm
  teams := (congrArg State.teams hf).trans (s.teams_feed_nil _ _).symm

theorem Enters.refl (c : Ctx) (s : State) : Enters c s s [] id [] := .of_copies rfl (fun l h => ⟨l, h, rfl⟩) (fun _ h => h) (.refl _)

/-- What enters a buffer after something else has entered it. -/
theorem State.tasks_buffer_comp {m : Nat} {F G : List DoEntry → List DoEntry}
    (h : t.tasks = (s.modTask m fun tk => { tk with buf := F tk.buf }).tasks) :
    (t.modTask m fun tk => { tk with buf := G tk.buf }).tasks = (s.modTask m fun tk => { tk with buf := G (F tk.buf) }).tasks := by
  rw [State.modTask, h, State.modTask, State.modTask]
  simp only [mapIf, List.map_map]
  refine List.map_congr_left fun a _ => ?_
  by_cases ha : a.id = m <;> simp [ha]

theorem Enters.trans (h : Enters c s t items buf msgs) (h' : Enters c t u items' buf' msgs') :
    Enters c s u (items ++ items') (buf' ∘ buf) (msgs ++ msgs') where
  frame := by
    have := h.frame
    rw [h'.frame, this, List.append_assoc]
  l1 := fun l hl => by
    obtain ⟨x, hx, hlx⟩ := h'.l1 l hl
    obtain ⟨y, hy, hxy⟩ := h.l1 x hx
    exact ⟨y, hy, by rw [hlx, hxy]⟩
  l2 := fun l hl => h.l2 l (h'.l2 l hl)
  ws := h.ws.trans h'.ws
  tasks := h'.tasks.trans (State.tasks_buffer_comp h.tasks)
  teams := by
    have hfeed (a : Team) : (a.feed items).task = a.task ∧ (a.feed items).team = a.team := by
      rw [(Team.feed_eq items a).1]
      exact ⟨rfl, rfl⟩
    have hcomp : Team.feed (items ++ items') = Team.feed items' ∘ Team.feed items := funext fun a => Team.feed_append items items' a
    rw [h'.teams, hcomp, ← State.modTeam_modTeam _ _ _ _ _ hfeed, State.modTeam, h.teams]
    rfl

theorem Enters.enqueue (c : Ctx) (s : State) (k : Nat) (qs : List QItem) : Enters c s (s.enqueue c k qs) [(k, qs)] id [] where
  frame := by rw [List.append_nil]; rfl
  l1 := fun l h => ⟨l, h, rfl⟩
  l2 := fun _ h => h
  ws := .refl _
  tasks := (s.tasks_buffer_id _).symm
  teams := rfl

theorem Enters.l1Touch (c : Ctx) (s : State) (core : Nat) (p : Place) : Enters c s (s.l1Touch core p) [] id [] := by
  refine .of_copies rfl (fun l hl => ?_) (fun _ h => h) (.refl _)
  obtain ⟨x, hx, rfl⟩ := List.mem_map.1 hl
  refine ⟨x, hx, ?_⟩
  split <;> rfl

theorem Enters.buffer (c : Ctx) (s : State) (F : List DoEntry → List DoEntry) :
    Enters c s (s.modTask c.tk.id fun tk => { tk with buf := F tk.buf }) [] F [] where
  frame := by rw [List.append_nil]; rfl
  l1 := fun l h => ⟨l, h, rfl⟩
  l2 := fun _ h => h
  ws := .refl _
  tasks := rfl
  teams := (s.teams_feed_nil _ _).symm

theorem Enters.reply (c : Ctx) (s : State) (k : ThreadKey) (dest : LoadDest) (bs : List Byte) :
    Enters c s (s.reply k dest bs) [] id [.load k dest bs] where
  frame := rfl
  l1 := fun l h => ⟨l, h, rfl⟩
  l2 := fun _ h => h
  ws := .refl _
  tasks := (s.tasks_buffer_id _).symm
  teams := (s.teams_feed_nil _ _).symm

theorem Enters.acquire (c : Ctx) (s : State) (core : Nat) (sc : Scope) : Enters c s (s.acquire core sc) [] id [] := by
  have hdv : Enters c s (s.acquire core .dv) [] id [] := by
    obtain ⟨l1, ws, heq, hl, hw⟩ := s.acquire_dv core
    rw [heq]
    exact .of_copies rfl (fun l h => ⟨l, hl l h, rfl⟩) (fun _ h => h) hw
  cases sc with
  | sy =>
    have hsy : Enters c (s.acquire core .dv) (s.acquire core .sy) [] id [] :=
      .of_copies rfl (fun l h => ⟨l, h, rfl⟩) (fun l h => (List.mem_filter.1 h).1) (.refl _)
    exact hdv.trans hsy
  | sq | tm | cl | lg | dv => exact hdv

theorem Enters.acquireIf (c : Ctx) (s : State) (core : Nat) (o : Option Scope) : Enters c s (s.acquireIf core o) [] id [] := by
  cases o with
  | none => exact .refl c s
  | some sc => exact .acquire c s core sc

/-! ## What entering leaves unchanged -/

theorem filter_hostWrite_append {net msgs : List Msg} (hm : ∀ m ∈ msgs, m.isHostWrite = false) :
    (net ++ msgs).filter Msg.isHostWrite = net.filter Msg.isHostWrite := by
  have : msgs.filter Msg.isHostWrite = [] := List.filter_eq_nil_iff.2 fun m h => by simp [hm m h]
  rw [List.filter_append, this, List.append_nil]

/-- No write to host memory is entered: a fetch sees the same words. -/
theorem Enters.skipPads (h : Enters c s t items buf msgs) (hm : ∀ m ∈ msgs, m.isHostWrite = false) (tk : Task) (a : Nat) :
    t.skipPads tk a = s.skipPads tk a := by
  rw [← s.skipPads_net (net := s.net ++ msgs) (filter_hostWrite_append hm) tk a]
  refine State.skipPads_congr (fun b => ?_) a
  exact (congrArg (fun s : State => s.peekWord tk b) h.frame).trans rfl

theorem Enters.homeLine (h : Enters c s t items buf msgs) (hm : ∀ m ∈ msgs, m.isHostWrite = false) (p : Place) :
    t.homeLine p = s.homeLine p := by
  have hmem : t.mem = s.mem := by rw [h.frame]
  have hkey : t.key 0 = s.key 0 := by rw [h.frame]; rfl
  have hhost (a n : Nat) : t.hostBytes a n = s.hostBytes a n := by
    refine State.hostBytes_congr (q := Msg.isHostWrite) (fun _ h => h) ?_ (by rw [h.frame]) a n
    have hnet : t.net = s.net ++ msgs := by rw [h.frame]
    rw [hnet, filter_hostWrite_append hm]
  rw [State.homeLine, State.homeLine, State.readBytes, State.readBytes, hmem, hkey, hhost]

/-- A thread's view is that of its own entries: entries of other threads do not change it. -/
theorem Enters.viewBytes {k : ThreadKey} {es : List DoEntry} (h : Enters c s t items (· ++ es) msgs) (hm : ∀ m ∈ msgs, m.isHostWrite = false)
    (hes : ∀ e ∈ es, e.tid ≠ k.tid) (x : Xlat) (n : Nat) : t.viewBytes k x n = s.viewBytes k x n := by
  have htask : t.task? k.task = (s.task? k.task).map fun a => if k.task = c.tk.id then { a with buf := a.buf ++ es } else a := by
    rw [State.task?_congr h.tasks]
    exact State.task?_modTask fun _ => rfl
  have hnone : es.filter (fun e => e.team == k.team && e.tid == k.tid) = [] :=
    List.filter_eq_nil_iff.2 fun e he => by simp [hes e he]
  have hmine (a : Task) : ({ a with buf := a.buf ++ es } : Task).entriesOf k = a.entriesOf k := by
    rw [Task.entriesOf, List.filter_append, hnone, List.append_nil, Task.entriesOf]
  rw [State.viewBytes, State.viewBytes, State.viewLine, State.viewLine, h.homeLine hm, htask]
  cases s.task? k.task with
  | none => rfl
  | some a =>
    dsimp only [Option.map_some]
    split
    · rw [hmine]
    · rfl

/-! ## Lanes one after another -/

theorem Enters.foldl {α : Type} {f : State → α → State} {item : α → List (Nat × List QItem)} {entry : α → List DoEntry → List DoEntry}
    (hf : ∀ s a, Enters c s (f s a) (item a) (entry a) []) (l : List α) (s : State) :
    Enters c s (l.foldl f s) (l.flatMap item) (fun b => l.foldl (fun b a => entry a b) b) [] := by
  induction l generalizing s with
  | nil => exact .refl c s
  | cons a l ih => exact (hf s a).trans (ih _)

/-! ## The whole access -/

variable {i : Instr} {lanes : List LaneOk} {drop : Thread → Thread}

theorem State.skipPads_ltb (s : State) (ltb : List LtbEntry) (tk : Task) (a : Nat) :
    ({ s with ltb := ltb } : State).skipPads tk a = s.skipPads tk a := by
  have hpeek (b : Nat) : ({ s with ltb := ltb } : State).peekWord tk b = s.peekWord tk b := rfl
  exact State.skipPads_congr hpeek a

theorem State.marked_frame (s : State) (c : Ctx) (lanes : List LaneOk) (drop : Thread → Thread) :
    ∃ ltb, (s.fillLtbs c lanes).markDropped c lanes drop = { s.markDropped c lanes drop with ltb := ltb } := by
  obtain ⟨ltb, h⟩ := s.fillLtbs_eq c lanes
  exact ⟨ltb, by rw [h]; rfl⟩

/-- An access whose lanes enter what they do, and go on. -/
theorem entered_of (h : Enters c ((s.fillLtbs c lanes).markDropped c lanes drop) t items buf msgs)
    (hids : ∀ l ∈ lanes, l.t.tid ∈ c.g.members) (htid : ∀ x, (drop x).tid = x.tid) (hpc : ∀ x, (drop x).pc = x.pc)
    (hm : ∀ m ∈ msgs, m.isHostWrite = false) :
    Entered s (t.retire c i Post.none) c i lanes drop items buf msgs := by
  obtain ⟨ltb, hltb⟩ := s.marked_frame c lanes drop
  rw [hltb] at h
  refine ⟨?_, h.l1, h.l2, h.ws, h.tasks, ?_⟩
  · rw [State.retire_eq]
    have := h.frame
    rw [this]
    rfl
  · have hteams : t.teams = (s.modTeam c.tk.id c.tm.team
        (Team.feed items ∘ fun tm => tm.modThreads (fun x => (droppedTids lanes).contains x.tid) fun x => drop { x with oobst := true })).teams := by
      rw [h.teams, ← State.modTeam_modTeam s c.tk.id c.tm.team (fun tm => tm.modThreads (fun x => (droppedTids lanes).contains x.tid) fun x =>
        drop { x with oobst := true }) (Team.feed items) fun _ => ⟨rfl, rfl⟩]
      rfl
    refine teamsAfter_retire (g := fun x => if x.tid ∈ droppedTids lanes then drop { x with oobst := true } else x) hteams (fun a => ?_)
      (fun a => ?_) rfl (fun x => ?_) (fun x hx => ?_) fun x _ => ⟨rfl, fun hi => ⟨?_, rfl⟩⟩
    · rw [Function.comp_apply, (Team.feed_eq _ _).1]
      simp only [Team.modThreads, mapIf, List.contains_iff_mem]
    · exact ⟨(Team.feed_eq _ _).2.1, (Team.feed_eq items (a.modThreads _ _)).2.2⟩
    · split <;> simp [htid]
    · refine if_neg fun hmem => hx ?_
      obtain ⟨l, hl, -, he⟩ := mem_droppedTids.1 hmem
      exact he ▸ hids l hl
    · rw [State.departs_pc_next rfl rfl rfl hi, State.follows, State.follows, h.skipPads hm, State.skipPads_ltb, State.markDropped_eq,
        State.skipPads_modTeam]
      split <;> simp [hpc]

end

end Sys2Proof.Machine

/-!
ST and ST.PASS (O13, R157, R161, R162): what overlapping lanes enter, and the stores of the lanes entered one after another.
-/
namespace Sys2Proof.Machine

open Sys2Proof

/-! ## Overlapping lanes (R157) -/

/-- Does a store cover the `j`-th byte from a place on? -/
def LaneStore.Covers (w : LaneStore) (p : Place) (j : Nat) : Prop :=
  w.place.space = p.space ∧ w.place.addr ≤ p.addr + j ∧ p.addr + j < w.place.addr + w.data.length

section
variable {p : Place} {n j : Nat} {bs : List Byte} {w : LaneStore}

theorem length_forward (h : bs.length = n) : (forward p n bs w).length = n := by
  unfold forward
  split
  · simp [h]
  · exact h

/-- A byte that a store covers becomes the store's. -/
theorem forward_covers (h : bs.length = n) (hj : j < n) (hc : w.Covers p j) :
    (forward p n bs w)[j]? = w.data[p.addr + j - w.place.addr]? := by
  obtain ⟨hsp, h1, h2⟩ := hc
  have hlt : p.addr + j - w.place.addr < w.data.length := by omega
  simp [forward, hsp, h, hj, h1, h2, hlt]

theorem forward_not_covers (h : bs.length = n) (hj : j < n) (hc : ¬w.Covers p j) : (forward p n bs w)[j]? = bs[j]? := by
  unfold forward
  split
  · next hsp =>
    have hno : ¬(w.place.addr ≤ p.addr + j ∧ p.addr + j < w.place.addr + w.data.length) := fun hb => hc ⟨hsp, hb⟩
    simp [h, hj, hno]
  · rfl

theorem length_foldl_forward {ws : List LaneStore} (h : bs.length = n) : (ws.foldl (forward p n) bs).length = n := by
  induction ws generalizing bs with
  | nil => exact h
  | cons w ws ih => exact ih (length_forward h)

theorem foldl_forward_not_covers {ws : List LaneStore} (h : bs.length = n) (hj : j < n) (hc : ∀ w ∈ ws, ¬w.Covers p j) :
    (ws.foldl (forward p n) bs)[j]? = bs[j]? := by
  induction ws generalizing bs with
  | nil => rfl
  | cons w ws ih =>
    rw [List.foldl_cons, ih (length_forward h) fun v hv => hc v (List.mem_cons_of_mem _ hv), forward_not_covers h hj (hc w List.mem_cons_self)]

/-- The last store that covers a byte gives it. -/
theorem foldl_forward_last {ws : List LaneStore} {k : Nat} (hk : k < ws.length) (h : bs.length = n) (hj : j < n) (hc : ws[k].Covers p j)
    (hlast : ∀ m (hm : m < ws.length), k < m → ¬ws[m].Covers p j) :
    (ws.foldl (forward p n) bs)[j]? = ws[k].data[p.addr + j - ws[k].place.addr]? := by
  have hsplit : ws = ws.take k ++ ws[k] :: ws.drop (k + 1) := by rw [List.cons_getElem_drop_succ, List.take_append_drop]
  have hpre : ((ws.take k).foldl (forward p n) bs).length = n := length_foldl_forward h
  conv_lhs => rw [hsplit, List.foldl_append, List.foldl_cons]
  rw [foldl_forward_not_covers (length_forward hpre) hj, forward_covers hpre hj hc]
  intro w hw
  obtain ⟨m, hm, rfl⟩ := List.getElem_of_mem hw
  rw [List.getElem_drop]
  exact hlast _ _ (by omega)

end

section
variable {c : Ctx} {ls : List StoreLane}

theorem length_settleOverlap (c : Ctx) (ls : List StoreLane) : (settleOverlap c ls).length = ls.length := by
  induction ls with
  | nil => rfl
  | cons l ls ih => simp [settleOverlap, ih]

/-- A lane keeps its place, its targets and its length. -/
theorem settleOverlap_keeps : List.Forall₂ (fun a b => b.t = a.t ∧ b.x = a.x ∧ b.targets = a.targets ∧ b.data.length = a.data.length)
    ls (settleOverlap c ls) := by
  induction ls with
  | nil => exact .nil
  | cons l ls ih =>
    refine .cons ?_ ih
    split
    · exact ⟨rfl, rfl, rfl, rfl⟩
    · exact ⟨rfl, rfl, rfl, length_foldl_forward rfl⟩

/-- A lane outside DO pages takes the bytes of the lanes behind it. -/
theorem settleOverlap_getElem (h : ∀ l ∈ ls, l.x.cls ≠ .ord) (i : Nat) (hi : i < ls.length) :
    (settleOverlap c ls)[i]'((length_settleOverlap c ls).symm ▸ hi) =
      { ls[i] with data := ((ls.drop (i + 1)).map (StoreLane.write c)).foldl (forward ls[i].x.place ls[i].data.length) ls[i].data } := by
  induction ls generalizing i with
  | nil => exact absurd hi (Nat.not_lt_zero i)
  | cons l ls ih =>
    cases i with
    | zero => simp [settleOverlap, h l List.mem_cons_self]
    | succ i => simpa [settleOverlap] using ih (fun x hx => h x (List.mem_cons_of_mem _ hx)) i (by simpa using hi)

end

/-! ## The stores entered -/

section
variable {c : Ctx} {s : State} {i : Instr} {lanes : List LaneOk}

/-- What a lane gives for its first line, with its address beside it. -/
theorem ofLanes_eq {α : Type} (lanes : List LaneOk) (f : LaneOk → Nat × Xlat → List α) :
    (lanes.flatMap fun l => (l.lines.take 1).flatMap fun x => f l x) = ofLanes lanes fun l x => f l (l.va, x) := by
  unfold ofLanes
  congr 1
  funext l
  cases h : l.lines with
  | nil => simp
  | cons x rest => simp [LaneOk.va, h]

theorem flatMap_if_eq_map_filter {α β : Type} (p : α → Prop) [DecidablePred p] (f : α → β) (l : List α) :
    (l.flatMap fun a => if p a then [] else [f a]) = (l.filter fun a => ¬p a).map f := by
  induction l with
  | nil => rfl
  | cons a l ih =>
    rw [List.flatMap_cons, ih]
    by_cases h : p a <;> simp [h]

/-- The stores enter the queues of their warps or the inning buffer. -/
theorem State.putStores_enters (s : State) (c : Ctx) (o : MemOrd) (ls : List StoreLane) :
    let js := joinPasses c [] (settleOverlap c ls)
    Enters c s (s.putStores c o ls)
      ((js.filter fun l => l.x.cls ≠ .ord).map fun l =>
        (c.warpNo l.t, releaseItems (c.key l.t) (releaseOf o l.x) ++ [.store (l.write c)]))
      (fun b => (js.filter fun l => l.x.cls = .ord).foldl (fun b l => doStore (c.key l.t) l.x.place l.data l.targets b) b) [] := by
  intro js
  have h := Enters.foldl (c := c) (f := fun s (l : StoreLane) =>
      if l.x.cls = .ord then
        (s.l1Touch c.tm.core l.x.place).modTask c.tk.id fun tk => { tk with buf := doStore (c.key l.t) l.x.place l.data l.targets tk.buf }
      else s.enqueue c (c.warpNo l.t) (releaseItems (c.key l.t) (releaseOf o l.x) ++ [.store (l.write c)]))
    (item := fun l => if l.x.cls = .ord then [] else
      [(c.warpNo l.t, releaseItems (c.key l.t) (releaseOf o l.x) ++ [.store (l.write c)])])
    (entry := fun l b => if l.x.cls = .ord then doStore (c.key l.t) l.x.place l.data l.targets b else b)
    (fun s l => by
      by_cases ho : l.x.cls = .ord
      · simp only [if_pos ho]
        exact (Enters.l1Touch c s _ _).trans (.buffer c _ _)
      · simp only [if_neg ho]
        exact .enqueue c s _ _) js s
  rw [flatMap_if_eq_map_filter] at h
  simp only [List.foldl_filter, decide_eq_true_eq]
  exact h

theorem State.finish_done (s s' : State) (c : Ctx) (i : Instr) : s.finish c i (.done s' { Post.none with stay := [] }) =
    .next (s'.retire c i Post.none) := rfl

/-- A store of lanes none of which has to stay. -/
theorem storeLanes_effect {o : MemOrd} {data : Thread → List Byte} {targets : Thread → Xlat → PassTargets}
    (hids : ∀ l ∈ lanes, l.t.tid ∈ c.g.members) (hroom : noRoom c lanes (storeEntries c) = []) :
    ∃ t, s.finish c i (storeLanes s c o lanes data targets) = .next t ∧ StoresEntered s t c i o lanes (storesOf c lanes data targets) := by
  have hls : (lanes.flatMap fun l => (l.lines.take 1).map fun x =>
      ({ t := l.t, via := c.via l.buf x.1 x.2, x := x.2, data := data l.t, targets := targets l.t x.2 } : StoreLane)) =
      ofLanes lanes fun l x => [{ t := l.t, via := l.viaOf c x, x := x, data := data l.t, targets := targets l.t x }] := by
    simp only [List.map_eq_flatMap]
    exact ofLanes_eq lanes fun l x => [({ t := l.t, via := c.via l.buf x.1 x.2, x := x.2, data := data l.t, targets := targets l.t x.2 } : StoreLane)]
  refine ⟨_, ?_, entered_of (State.putStores_enters _ c o _) hids (fun _ => rfl) (fun _ => rfl) (by simp)⟩
  rw [storeLanes, hroom]
  simp only [List.contains_nil, Bool.not_false, List.filter_true, State.cutInning_nil, hls]
  rfl

end

/-- Settles O13: the lanes enter their stores in order, and a byte that a later lane covers is the later lane's. -/
theorem storeIssue : Obligations.StoreIssue := by
  refine ⟨?_, ?_, fun c ls hls => ⟨settleOverlap_keeps, ?_⟩⟩
  · intro g o s c n sd lanes hp hroom
    obtain ⟨t, ht, he⟩ := storeLanes_effect (s := s) (i := .st g o) (o := o.ord) (data := fun x => x.storeBytes o.d.val o.width)
      (targets := fun _ _ => []) (laneOks_member (s := s) (g := g) (sd := sd) (size := n) (k := c.touchStore) rfl) hroom
    refine ⟨t, ?_, he⟩
    change execSt g o s = _
    rw [execSt, runMem_issues hp.issues hp.free]
    change s.finish c _ (s.checkSide c sd n c.touchStore _) = _
    rw [State.checkSide_ok hp.side hp.lines]
    exact ht
  · intro g o s c n passes touch sd lanes hp hroom
    obtain ⟨t, ht, he⟩ := storeLanes_effect (s := s) (i := .stPass g o) (o := o.ord) (data := fun x => x.storeBytes o.d.val o.width)
      (targets := fun x l => if passes x && l.place.space == .dev then passTargets c o.kind o.e x else [])
      (laneOks_member (s := s) (g := g) (sd := sd) (size := n) (k := touch) rfl) hroom
    refine ⟨t, ?_, he⟩
    change execStPass g o s = _
    rw [execStPass, runMem_issues hp.issues hp.free]
    change s.finish c _ (s.checkSide c sd n touch _) = _
    rw [State.checkSide_ok hp.side hp.lines]
    exact ht
  · intro i hi j hj k hk hik p covers hcov hlast
    have hi' : i < ls.length := length_settleOverlap c ls ▸ hi
    have hget := settleOverlap_getElem (c := c) hls i hi'
    have hp : p = ls[i].x.place := (congrArg (fun l : StoreLane => l.x.place) hget :)
    have hcovers (l : StoreLane) : covers l ↔ (l.write c).Covers ls[i].x.place j := by
      rw [← hp]
      exact Iff.rfl
    rw [hget] at hj ⊢
    dsimp only at hj ⊢
    rw [length_foldl_forward rfl] at hj
    rcases Nat.eq_or_lt_of_le hik with rfl | hlt
    · rw [foldl_forward_not_covers rfl hj, hp, Nat.add_sub_cancel_left]
      intro w hw
      obtain ⟨l, hl, rfl⟩ := List.mem_map.1 hw
      obtain ⟨m, hm, rfl⟩ := List.getElem_of_mem hl
      rw [List.getElem_drop]
      rw [List.length_drop] at hm
      exact fun h => hlast (i + 1 + m) (by omega) (by omega) ((hcovers _).2 h)
    · have hk' : k - (i + 1) < ((ls.drop (i + 1)).map (StoreLane.write c)).length := by simp; omega
      have hat : ((ls.drop (i + 1)).map (StoreLane.write c))[k - (i + 1)] = (ls[k]).write c := by
        simp [show i + 1 + (k - (i + 1)) = k by omega]
      have h := foldl_forward_last (p := ls[i].x.place) (n := ls[i].data.length) (bs := ls[i].data) hk' rfl hj
          (by rw [hat]; exact (hcovers _).1 hcov) fun m hm hkm hc => by
        rw [List.getElem_map, List.getElem_drop] at hc
        rw [List.length_map, List.length_drop] at hm
        exact hlast (i + 1 + m) (by omega) (by omega) ((hcovers _).2 hc)
      rw [h, hat, hp]
      rfl

end Sys2Proof.Machine

/-!
ATOM, CAS, AACC and LDACC .zero (O14, R163 to R166): one read-modify-write for each lane, entered one after another, and what ATOM and CAS
write.
-/
namespace Sys2Proof.Machine

open Sys2Proof

/-! ## What an atomic writes (R164) -/

section
variable {w : Nat}

/-- Of two patterns read as signed numbers. -/
theorem signed_le_iff_sle (hw : 0 < w) (m d : BitVec w) :
    (if m.toNat < 2 ^ (w - 1) then (m.toNat : Int) else (m.toNat : Int) - 2 ^ w) ≤
      (if d.toNat < 2 ^ (w - 1) then (d.toNat : Int) else (d.toNat : Int) - 2 ^ w) ↔ m.sle d = true := by
  have hpow : 2 ^ w = 2 * 2 ^ (w - 1) := by rw [← pow_succ', Nat.sub_add_cancel hw]
  have hint (x : BitVec w) : (if x.toNat < 2 ^ (w - 1) then (x.toNat : Int) else (x.toNat : Int) - 2 ^ w) = x.toInt := by
    rw [BitVec.toInt_eq_toNat_cond]
    by_cases h : x.toNat < 2 ^ (w - 1)
    · rw [if_pos h, if_pos (by omega)]
    · rw [if_neg h, if_neg (by omega)]
      norm_cast
  rw [hint, hint, BitVec.sle_iff_toInt_le]

theorem atomNew_eq (hw : 0 < w) (m d : BitVec w) :
    atomNew .add w m.toNat d.toNat = (m + d).toNat ∧ atomNew .smin w m.toNat d.toNat = (if m.sle d then m else d).toNat ∧
    atomNew .smax w m.toNat d.toNat = (if m.sle d then d else m).toNat ∧ atomNew .umin w m.toNat d.toNat = (if m.ule d then m else d).toNat ∧
    atomNew .umax w m.toNat d.toNat = (if m.ule d then d else m).toNat ∧ atomNew .and w m.toNat d.toNat = (m &&& d).toNat ∧
    atomNew .or w m.toNat d.toNat = (m ||| d).toNat ∧ atomNew .xor w m.toNat d.toNat = (m ^^^ d).toNat ∧
    atomNew .exch w m.toNat d.toNat = d.toNat := by
  have hs := signed_le_iff_sle hw m d
  have hu : m.ule d = true ↔ m.toNat ≤ d.toNat := by rw [BitVec.ule_iff_toNat_le]
  refine ⟨(BitVec.toNat_add m d).symm, ?_, ?_, ?_, ?_, (BitVec.toNat_and ..).symm, (BitVec.toNat_or ..).symm, (BitVec.toNat_xor ..).symm, rfl⟩
  · simp only [atomNew, hs]
    split <;> rfl
  · simp only [atomNew, hs]
    split <;> rfl
  · simp only [atomNew, hu]
    split <;> omega
  · simp only [atomNew, hu]
    split <;> omega

/-- CAS writes the new value exactly where the old one is the compared one. -/
theorem cas_new_eq (m D E : BitVec w) : (if m.toNat = D.toNat then E.toNat else m.toNat) = (if m = D then E else m).toNat := by
  simp only [BitVec.toNat_inj]
  split <;> rfl

end

/-! ## The lanes of an atomic -/

section
variable {c : Ctx} {s t : State} {i : Instr} {g : Guards} {lanes : List LaneOk}

/-- The lanes of a side of the active threads are of different threads. -/
theorem laneOks_nodup {a : VSReg} {b : RecNum} {d : Int} {need : SideNeed} {sd : Side} {size : Nat} {k : Touch}
    (h : sd = { buf := b, lanes := c.laneIdx (c.active g) a b d, need := need }) (hn : c.g.members.Nodup) :
    ((s.laneOks c sd size k).map (·.t.tid)).Nodup := by
  subst h
  have hsub (ms : List Nat) : ((ms.filterMap c.tm.thread?).map (·.tid)).Sublist ms := by
    induction ms with
    | nil => exact .slnil
    | cons m ms ih =>
      cases hm : c.tm.thread? m with
      | none =>
        rw [List.filterMap_cons_none hm]
        exact ih.cons m
      | some x =>
        rw [List.filterMap_cons_some hm, List.map_cons, Team.thread?_tid hm]
        exact ih.cons_cons m
  have hact : ((c.active g).map (·.tid)).Sublist c.g.members := (List.filter_sublist.map _).trans (hsub c.g.members)
  simpa [State.laneOks, Ctx.laneIdx, Function.comp_def] using hact.nodup hn

theorem ofLanes_append {α : Type} (as bs : List LaneOk) (f : LaneOk → Xlat → List α) : ofLanes (as ++ bs) f = ofLanes as f ++ ofLanes bs f :=
  List.flatMap_append

theorem ofLanes_no_lines {α : Type} {l : LaneOk} (hl : l.lines = []) (f : LaneOk → Xlat → List α) : ofLanes [l] f = [] := by
  simp [ofLanes, hl]

theorem ofLanes_lines {α : Type} {l : LaneOk} {y : Nat × Xlat} {rest : List (Nat × Xlat)} (hl : l.lines = y :: rest)
    (f : LaneOk → Xlat → List α) : ofLanes [l] f = f l y.2 := by
  simp [ofLanes, hl]

/-- Lanes that enter what they do one after another, each of them after the lanes before it. -/
theorem Enters.eachLane {f : State → LaneOk → State} {item : LaneOk → Xlat → List (Nat × List QItem)} {entry : LaneOk → Xlat → List DoEntry}
    {msg : LaneOk → Xlat → List Msg} (hnil : ∀ w l, l.lines = [] → f w l = w)
    (hone : ∀ (before : List LaneOk) (l : LaneOk) (behind : List LaneOk) (w : State) (va : Nat) (x : Xlat) (rest : List (Nat × Xlat)),
      lanes = before ++ l :: behind → l.lines = (va, x) :: rest →
      Enters c s w (ofLanes before item) (· ++ ofLanes before entry) (ofLanes before msg) →
      Enters c w (f w l) (item l x) (· ++ entry l x) (msg l x)) :
    Enters c s (lanes.foldl f s) (ofLanes lanes item) (· ++ ofLanes lanes entry) (ofLanes lanes msg) := by
  have key (ls : List LaneOk) : ∀ (before : List LaneOk) (w : State), lanes = before ++ ls →
      Enters c s w (ofLanes before item) (· ++ ofLanes before entry) (ofLanes before msg) →
      Enters c s (ls.foldl f w) (ofLanes lanes item) (· ++ ofLanes lanes entry) (ofLanes lanes msg) := by
    induction ls with
    | nil =>
      intro before w hl h
      rw [List.append_nil] at hl
      rwa [hl]
    | cons l ls ih =>
      intro before w hl h
      refine ih (before ++ [l]) (f w l) (by simpa using hl) ?_
      simp only [ofLanes_append]
      cases hlines : l.lines with
      | nil =>
        simp only [ofLanes_no_lines hlines, List.append_nil]
        rw [hnil w l hlines]
        exact h
      | cons y rest =>
        have := h.trans (hone before l ls w y.1 y.2 rest hl hlines h)
        simp only [ofLanes_lines hlines, ← List.append_assoc]
        exact this
  refine key lanes [] s rfl ?_
  have hb : (fun b : List DoEntry => b ++ ofLanes [] entry) = id := funext fun b => List.append_nil b
  rw [hb]
  exact .refl c s

/-- One lane of an atomic: to its view on a DO page, to its warp's queue elsewhere. -/
def State.atomLane (c : Ctx) (o : MemOrd) (dest : LoadDest) (n : Nat) (item : LaneOk → Xlat → HowAtom → QItem) (kind : LaneOk → Xlat → DoKind)
    (w : State) (l : LaneOk) : State :=
  match l.lines with
  | (va, x) :: _ =>
    if x.cls = .ord then
      (((w.l1Touch c.tm.core x.place).reply (c.key l.t) dest (w.viewBytes (c.key l.t) x n)).putEntry (c.key l.t) x.place (kind l x)).acquireIf
        c.tm.core (acqScope o)
    else w.enqueue c (c.warpNo l.t) (releaseItems (c.key l.t) (releaseOf o x) ++ [item l x (w.howAtom c l o va x)])
  | [] => w

/-- Answers to threads are no writes to host memory. -/
theorem answers_no_hostWrite {dest : LoadDest} {view : LaneOk → Xlat → List Byte} : ∀ m ∈ ofLanes lanes (fun l x =>
    if x.cls = .ord then [Msg.load (c.key l.t) dest (view l x)] else []), m.isHostWrite = false := by
  intro m hm
  obtain ⟨l, -, hm⟩ := List.mem_flatMap.1 hm
  obtain ⟨y, -, hm⟩ := List.mem_flatMap.1 hm
  dsimp only at hm
  split at hm
  · rw [List.mem_singleton.1 hm]
    rfl
  · cases hm

variable {o : MemOrd} {dest : LoadDest} {n : Nat} {item : LaneOk → Xlat → HowAtom → QItem} {kind : LaneOk → Xlat → DoKind}

theorem LaneOk.va_of_lines {l : LaneOk} {va : Nat} {x : Xlat} {rest : List (Nat × Xlat)} (h : l.lines = (va, x) :: rest) : l.va = va := by
  simp [LaneOk.va, h]

/-- The entry that a lane of the task makes in the inning buffer. -/
theorem Enters.putEntry (hc : c.tm.task = c.tk.id) (s : State) (l : LaneOk) (p : Place) (kd : DoKind) :
    Enters c s (s.putEntry (c.key l.t) p kd) []
      (· ++ [{ team := c.tm.team, tid := l.t.tid, line := lineBase p.addr, space := p.space, kind := kd }]) [] := by
  have htask : (c.key l.t).task = c.tk.id := hc
  rw [State.putEntry, htask]
  exact .buffer c s (· ++ [_])

/-- The lanes of an atomic, each answered as if it were alone. -/
theorem Enters.atomLanes (hc : c.tm.task = c.tk.id) (hn : (lanes.map (·.t.tid)).Nodup) :
    Enters c s (lanes.foldl (State.atomLane c o dest n item kind) s)
      (ofLanes lanes fun l x => if x.cls = .ord then [] else
        [(c.warpNo l.t, releaseItems (c.key l.t) (releaseOf o x) ++ [item l x (s.howAtom c l o l.va x)])])
      (· ++ ofLanes lanes fun l x => if x.cls = .ord then
        [{ team := c.tm.team, tid := l.t.tid, line := lineBase x.place.addr, space := x.place.space, kind := kind l x }] else [])
      (ofLanes lanes fun l x => if x.cls = .ord then [.load (c.key l.t) dest (s.viewBytes (c.key l.t) x n)] else []) := by
  refine Enters.eachLane (fun w l hl => by rw [State.atomLane, hl]) fun before l behind w va x rest hlanes hl h => ?_
  rw [LaneOk.va_of_lines hl, State.atomLane, hl]
  by_cases ho : x.cls = .ord
  · simp only [if_pos ho]
    have hview : w.viewBytes (c.key l.t) x n = s.viewBytes (c.key l.t) x n := by
      refine h.viewBytes answers_no_hostWrite (fun e he htid => ?_) x n
      obtain ⟨l', hl', he⟩ := List.mem_flatMap.1 he
      obtain ⟨y, -, he⟩ := List.mem_flatMap.1 he
      dsimp only at he
      have hid : e.tid = l'.t.tid := by
        split at he
        · rw [List.mem_singleton.1 he]
        · cases he
      rw [hlanes, List.map_append, List.nodup_append] at hn
      exact hn.2.2 _ (List.mem_map_of_mem hl') _ (List.mem_map_of_mem List.mem_cons_self) (hid.symm.trans htid)
    rw [hview]
    exact (((Enters.l1Touch c w _ _).trans (.reply c _ _ _ _)).trans (.putEntry hc _ l _ _)).trans (.acquireIf c _ _ _)
  · have hhow : w.howAtom c l o va x = s.howAtom c l o va x := by
      have hfree : w.freeCtr = s.freeCtr := by rw [h.frame]
      rw [State.howAtom, State.howAtom, hfree]
    simp only [if_neg ho]
    rw [hhow]
    simp only [List.append_nil]
    exact .enqueue c w _ _

/-- The lanes of an atomic, after dropped lanes have been marked. -/
theorem atomLanes_effect {drop : Thread → Thread} (hc : c.tm.task = c.tk.id) (hn : (lanes.map (·.t.tid)).Nodup)
    (hids : ∀ l ∈ lanes, l.t.tid ∈ c.g.members) (htid : ∀ x, (drop x).tid = x.tid) (hpc : ∀ x, (drop x).pc = x.pc) :
    AtomsEntered s ((lanes.foldl (State.atomLane c o dest n item kind) ((s.fillLtbs c lanes).markDropped c lanes drop)).retire c i Post.none)
      c i o lanes drop (fun l x => item l x (s.howAtom c l o l.va x)) kind (some (dest, fun l x => s.viewBytes (c.key l.t) x n)) := by
  have h := Enters.atomLanes (s := (s.fillLtbs c lanes).markDropped c lanes drop) (o := o) (dest := dest) (n := n) (item := item) (kind := kind) hc hn
  obtain ⟨ltb, hltb⟩ := s.fillLtbs_eq c lanes
  have hview (k : ThreadKey) (x : Xlat) : ((s.fillLtbs c lanes).markDropped c lanes drop).viewBytes k x n = s.viewBytes k x n := by
    rw [hltb]
    rfl
  have hhow (l : LaneOk) (va : Nat) (x : Xlat) : ((s.fillLtbs c lanes).markDropped c lanes drop).howAtom c l o va x = s.howAtom c l o va x := by
    rw [hltb]
    rfl
  simp only [hview, hhow] at h
  exact entered_of h hids htid hpc answers_no_hostWrite

/-- One lane of an AACC. -/
def State.aaccLane (c : Ctx) (o : MemOrd) (term : LaneOk → Acc) (w : State) (l : LaneOk) : State :=
  match l.lines with
  | (va, x) :: _ =>
    if x.cls = .ord then (w.l1Touch c.tm.core x.place).putEntry (c.key l.t) x.place (.aacc (term l))
    else w.enqueue c (c.warpNo l.t) (releaseItems (c.key l.t) (releaseOf o x) ++ [.aacc (c.key l.t) x.place x.cls (term l) (c.via l.buf va x)])
  | [] => w

theorem aaccLanes_effect {term : LaneOk → Acc} (hc : c.tm.task = c.tk.id) (hids : ∀ l ∈ lanes, l.t.tid ∈ c.g.members) :
    AtomsEntered s ((lanes.foldl (State.aaccLane c o term) ((s.fillLtbs c lanes).markDropped c lanes id)).retire c i Post.none) c i o lanes id
      (fun l x => .aacc (c.key l.t) x.place x.cls (term l) (l.viaOf c x)) (fun l _ => .aacc (term l)) none := by
  refine entered_of (Enters.eachLane (msg := fun _ _ => []) (fun w l hl => by rw [State.aaccLane, hl]) fun before l behind w va x rest _ hl _ => ?_)
    hids (fun _ => rfl) (fun _ => rfl) fun m hm => ?_
  · simp only [LaneOk.viaOf, LaneOk.va_of_lines hl, State.aaccLane, hl]
    by_cases ho : x.cls = .ord
    · simp only [if_pos ho]
      exact (Enters.l1Touch c w _ _).trans (.putEntry hc _ l _ _)
    · simp only [if_neg ho, List.append_nil]
      exact .enqueue c w _ _
  · simp [ofLanes] at hm

/-! ## The instructions -/

/-- An atomic, once its checks pass and no lane has to stay. -/
theorem exec_atom {a : RecAddr} {d : RegNum} {wide : Bool} {req : Thread → AtomReq} (hrun : exec i s = Machine.atomLanes i g a o d wide s req)
    (hn : c.g.members.Nodup) :
    let n := if wide then 8 else 4
    let sd := recSide c (c.active g) a recA (some n) n
    let lanes := s.laneOks c sd n c.touchAtom
    AccessPasses s c i g sd n c.touchAtom → noRoom c lanes (fun _ => 1) = [] → ∃ t, exec i s = .next t ∧
      AtomsEntered s t c i o lanes (fun x => x.putRegs d.val (n / 4) 0)
        (fun l x => .atom (c.key l.t) x.place x.cls (req l.t) d.val (s.howAtom c l o l.va x)) (fun l x => .atom (req l.t) x.place)
        (some (.regs d.val (if wide then .w64 else .w32), fun l x => s.viewBytes (c.key l.t) x n)) := by
  intro n sd lanes hp hroom
  refine ⟨_, ?_, atomLanes_effect (item := fun l x how => .atom (c.key l.t) x.place x.cls (req l.t) d.val how)
    (State.ctx_task hp.issues.selected) (laneOks_nodup (g := g) rfl hn) (laneOks_member (g := g) rfl) (fun x => (x.putRegs_tid ..).1)
    fun x => (x.putRegs_tid ..).2⟩
  rw [hrun, Machine.atomLanes, runMem_issues hp.issues hp.free]
  change s.finish c _ (s.checkSide c sd n c.touchAtom _) = _
  rw [State.checkSide_ok hp.side hp.lines]
  simp only [show noRoom c (s.laneOks c sd n c.touchAtom) (fun _ => 1) = [] from hroom, List.contains_nil, Bool.not_false, List.filter_true,
    State.cutInning_nil]
  rfl

theorem exec_aacc {op : AaccOp} :
    let sd := recSide c (c.active g) op.addr recA none 128
    let lanes := s.laneOks c sd 128 c.touchAacc
    AccessPasses s c (.aacc g op) g sd 128 c.touchAacc → noRoom c lanes (fun _ => 1) = [] → ∃ t, exec (.aacc g op) s = .next t ∧
      AtomsEntered s t c (.aacc g op) op.ord lanes id (fun l x => .aacc (c.key l.t) x.place x.cls (aaccTerm l.t op.src) (l.viaOf c x))
        (fun l _ => .aacc (aaccTerm l.t op.src)) none := by
  intro sd lanes hp hroom
  refine ⟨_, ?_, aaccLanes_effect (term := fun l => aaccTerm l.t op.src) (State.ctx_task hp.issues.selected) (laneOks_member (g := g) rfl)⟩
  change execAacc g op s = _
  rw [execAacc, runMem_issues hp.issues hp.free]
  change s.finish c _ (s.checkSide c sd 128 c.touchAacc _) = _
  rw [State.checkSide_ok hp.side hp.lines]
  simp only [show noRoom c (s.laneOks c sd 128 c.touchAacc) (fun _ => 1) = [] from hroom, List.contains_nil, Bool.not_false, List.filter_true,
    State.cutInning_nil]
  rfl

theorem exec_ldacc_zero {op : LdaccOp} (hz : op.zero = true) (hn : c.g.members.Nodup) :
    let sd := recSide c (c.active g) op.addr (fun r => recR r && recA r) none 128
    let lanes := s.laneOks c sd 128 c.touchLdaccZero
    AccessPasses s c (.ldacc g op) g sd 128 c.touchLdaccZero → noRoom c lanes (fun _ => 1) = [] → ∃ t, exec (.ldacc g op) s = .next t ∧
      AtomsEntered s t c (.ldacc g op) op.ord lanes (fun x => x.setLa op.d.val Acc.zero)
        (fun l x => .ldaccZero (c.key l.t) x.place x.cls op.d.val (s.howAtom c l op.ord l.va x)) (fun _ _ => .ldaccZero)
        (some (.la op.d.val, fun l x => s.viewBytes (c.key l.t) x 128)) := by
  intro sd lanes hp hroom
  refine ⟨_, ?_, atomLanes_effect (item := fun l x how => .ldaccZero (c.key l.t) x.place x.cls op.d.val how)
    (State.ctx_task hp.issues.selected) (laneOks_nodup (g := g) rfl hn) (laneOks_member (g := g) rfl) (fun x => (x.setLa_tid_pc ..).1)
    fun x => (x.setLa_tid_pc ..).2⟩
  change execLdacc g op s = _
  rw [execLdacc, runMem_issues hp.issues hp.free, hz]
  change s.finish c _ (s.checkSide c sd 128 c.touchLdaccZero _) = _
  rw [State.checkSide_ok hp.side hp.lines]
  simp only [if_true, loadStalls, List.filter_nil, List.map_nil,
    show noRoom c (s.laneOks c sd 128 c.touchLdaccZero) (fun _ => 1) = [] from hroom, List.contains_nil, Bool.not_false, List.filter_true,
    State.cutInning_nil]
  rfl

end

/-- Settles O14: the lanes enter their atomics one after another, and none of them changes the view of another thread. -/
theorem atomicIssue : Obligations.AtomicIssue := by
  refine ⟨?_, ?_, fun g o s c => exec_aacc, fun g o s c hz hp hn hroom => exec_ldacc_zero hz hn hp hroom, fun wide d e => ?_⟩
  · intro g o s c n sd lanes req hp hn hroom
    have hregs : n / 4 = if o.wide then 2 else 1 := by
      dsimp only [n]
      split <;> rfl
    have h := exec_atom (i := .atom g o) (a := o.addr) (o := o.ord) (d := o.d) (wide := o.wide)
      (req := fun t => .atom o.fn o.wide (BitVec.ofNat 64 (readRegs t.reg o.d.val (n / 4)))) (by rw [hregs]; rfl) hn hp hroom
    exact h
  · intro g o s c n sd lanes req hp hn hroom
    have hregs : n / 4 = if o.wide then 2 else 1 := by
      dsimp only [n]
      split <;> rfl
    have h := exec_atom (i := .cas g o) (a := o.addr) (o := o.ord) (d := o.d) (wide := o.wide)
      (req := fun t => .cas o.wide (BitVec.ofNat 64 (readRegs t.reg o.d.val (n / 4))) (BitVec.ofNat 64 (readRegs t.reg (o.d.val + n / 4) (n / 4))))
      (by rw [hregs]; rfl) hn hp hroom
    exact h
  · intro w D m new
    have hw : 0 < w := by
      dsimp only [w]
      split <;> decide
    have hD : d.toNat % 2 ^ w = D.toNat := (BitVec.toNat_setWidth ..).symm
    have hE : e.toNat % 2 ^ w = (e.setWidth w).toNat := (BitVec.toNat_setWidth ..).symm
    obtain ⟨h1, h2, h3, h4, h5, h6, h7, h8, h9⟩ := atomNew_eq hw m D
    rw [← hD] at h1 h2 h3 h4 h5 h6 h7 h8 h9
    refine ⟨h1, h2, h3, h4, h5, h6, h7, h8, h9.trans hD, ?_⟩
    change (if m.toNat = d.toNat % 2 ^ w then e.toNat % 2 ^ w else m.toNat) = _
    rw [hD, hE, cas_new_eq]

end Sys2Proof.Machine

/-!
FENCE, PREF, FLUSH and INV (O16, R167, R168, R173): releases entered, lines brought in, written back and dropped.
-/
namespace Sys2Proof.Machine

open Sys2Proof

/-! ## FENCE (R173) -/

section
variable {s t : State} {c : Ctx} {i : Instr} {g : Guards}

/-- No lane is dropped, and no translation kept. -/
theorem State.marked_nil (s : State) (c : Ctx) : (s.fillLtbs c []).markDropped c [] id = s := by
  simp [State.fillLtbs, State.markDropped, State.modTeam, Team.modThreads, mapIf]

/-- A release of each lane enters the queue of its warp. -/
theorem Enters.releases (s : State) (c : Ctx) (act : List Thread) (sc : Scope) :
    Enters c s (s.enqueueLanes c (act.map fun x => (x, [.release (c.key x) sc]))) (act.map fun x => (c.warpNo x, [.release (c.key x) sc])) id [] := by
  have h := Enters.foldl (c := c) (f := fun s (x : Thread) => s.enqueue c (c.warpNo x) [.release (c.key x) sc])
    (item := fun x => [(c.warpNo x, [.release (c.key x) sc])]) (entry := fun _ => id) (fun s x => .enqueue c s _ _) act s
  have hid : (fun b : List DoEntry => act.foldl (fun b _ => id b) b) = id := funext fun b => List.foldl_fixed act
  rw [hid, ← List.map_eq_flatMap] at h
  rw [State.enqueueLanes, List.foldl_map]
  exact h

theorem fence_rel {o : FenceOp} (hk : o.kind = .rel) (hc : CanIssue s c (.fence g o) g) (ha : NoAcquire s c g) :
    ∃ t, exec (.fence g o) s = .next t ∧ Entered s t c (.fence g o) [] id
      ((c.active g).map fun x => (c.warpNo x, [.release (c.key x) o.scope])) id [] := by
  refine ⟨_, ?_, entered_of (lanes := []) (drop := id) (by rw [State.marked_nil]; exact .releases s c (c.active g) o.scope) (by simp)
    (fun _ => rfl) (fun _ => rfl) (by simp)⟩
  change execFence g o s = _
  rw [execFence, runMem_issues hc ha, hk]
  rfl

/-- No lane of a list has something that holds it back. -/
theorem waits_nil {p : Thread → Bool} {act : List Thread} (h : ∀ x ∈ act, p x = false) : (act.filter p).map (·.tid) = [] := by
  rw [List.map_eq_nil_iff, List.filter_eq_nil_iff]
  exact fun x hx => by simp [h x hx]

theorem fence_acq {o : FenceOp} (hk : o.kind = .acq) (hc : CanIssue s c (.fence g o) g) (ha : NoAcquire s c g)
    (h : ∀ x ∈ c.active g, s.readsPending (c.key x) = false) : exec (.fence g o) s =
      .next ((if (c.active g).isEmpty then s else s.acquire c.tm.core o.scope).retire c (.fence g o) Post.none) := by
  change execFence g o s = _
  rw [execFence, runMem_issues hc ha, hk, waits_nil h]
  rfl

theorem fence_full {o : FenceOp} (hk : o.kind = .full) (hc : CanIssue s c (.fence g o) g) (ha : NoAcquire s c g)
    (h : ∀ x ∈ c.active g, s.outstanding (c.key x) o.scope = false) : exec (.fence g o) s =
      .next ((if (c.active g).isEmpty then s else (s.released c (c.active g)).acquire c.tm.core o.scope).retire c (.fence g o) Post.none) := by
  change execFence g o s = _
  rw [execFence, runMem_issues hc ha, hk, waits_nil h]
  rfl

/-! ## PREF (R167) -/

/-- What a PREF does for one of its lanes. -/
def State.prefLane (c : Ctx) (o : PrefOp) (s : State) (l : LaneIdx) : State :=
  match s.lineOut c { write := false, cls := fun _ x => x != .ord || c.tk.ordered } l.t l.addr with
  | .ok x =>
    match o.hint with
    | .keep => if s.mayPrefetch c.tm.core x then s.fillL1 c.tm.core x.place x.cls x.cp (s.homeView c.tm.core (c.key l.t) x.place x.cls) else s
    | .repl => if recRdonly l.r then s.replicate c.tm.core c.tk.id x else s
    | .none | .nt | .wc => s.prefetchL2 x
  | .held _ | .lease _ | .refused | .cls | .aliasing | .retry | .hole _ => s

/-- The state after the lanes of a PREF. -/
def State.prefAll (s : State) (c : Ctx) (g : Guards) (o : PrefOp) : State :=
  ((c.laneIdx (c.active g) o.addr.idx o.addr.buf (addendOf o.addr.k)).filter fun l => recValid l.r && l.inside).foldl (State.prefLane c o) s

theorem exec_pref {o : PrefOp} (hc : CanIssue s c (.pref g o) g) :
    exec (.pref g o) s = .next ((s.prefAll c g o).retire c (.pref g o) Post.none) := by
  change execPref g o s = _
  rw [execPref, run_issues hc]
  rfl

theorem State.prefetchL2_caches (s : State) (x : Xlat) : CachesOnly s (s.prefetchL2 x) := by
  unfold State.prefetchL2
  split
  · exact s.remoteLine_caches ..
  all_goals
    split
    · exact .refl s
    · exact s.fillL2_caches ..

/-- `t` is `s` but for the L2, what makes room there and what that sends. -/
def L2Only (s t : State) : Prop := t = { s with l2 := t.l2, replicas := t.replicas, partials := t.partials, net := t.net }

theorem L2Only.refl (s : State) : L2Only s s := rfl

theorem L2Only.trans {s t u : State} (h : L2Only s t) (h' : L2Only t u) : L2Only s u := by
  unfold L2Only at *
  rw [h', h]

theorem State.l2Room_l2Only (s : State) (slice : Nat) (p : Place) : L2Only s (s.l2Room slice p) := by
  obtain ⟨l2, rs, ps, net, heq, -⟩ := s.l2Room_eq slice p
  rw [L2Only, heq]

theorem State.tagL2_l2Only (s : State) (p : Place) (cls : Cls) : L2Only s (s.tagL2 p cls) := by
  unfold State.tagL2
  split
  · split
    · exact .refl s
    · rfl
  · exact (s.l2Room_l2Only _ _).trans rfl

theorem State.prefetchL2_l2Only (s : State) (x : Xlat) : L2Only s (s.prefetchL2 x) := by
  unfold State.prefetchL2
  split
  · unfold State.remoteLine
    split
    · exact .refl s
    · dsimp only
      split
      · exact (s.l2Room_l2Only _ _).trans rfl
      · exact .refl s
  all_goals
    split
    · exact .refl s
    · unfold State.fillL2
      split
      · exact .refl s
      · exact s.tagL2_l2Only ..

/-- A relation of states that holds over each lane holds over all. -/
theorem foldl_rel {α : Type} {R : State → State → Prop} {f : State → α → State} (hr : ∀ s, R s s) (ht : ∀ s t u, R s t → R t u → R s u)
    (hf : ∀ s a, R s (f s a)) (l : List α) (s : State) : R s (l.foldl f s) := by
  induction l generalizing s with
  | nil => exact hr s
  | cons a l ih => exact ht _ _ _ (hf s a) (ih _)

theorem State.prefLane_caches {o : PrefOp} (hh : o.hint ≠ .repl) (s : State) (l : LaneIdx) : CachesOnly s (s.prefLane c o l) := by
  unfold State.prefLane
  split
  · split
    · split
      · exact s.fillL1_caches ..
      · exact .refl s
    · next h => exact absurd h hh
    all_goals exact s.prefetchL2_caches _
  all_goals exact .refl s

theorem State.prefLane_l2Only {o : PrefOp} (hh : o.hint ≠ .repl) (hk : o.hint ≠ .keep) (s : State) (l : LaneIdx) :
    L2Only s (s.prefLane c o l) := by
  unfold State.prefLane
  split
  · split
    · next h => exact absurd h hk
    · next h => exact absurd h hh
    all_goals exact s.prefetchL2_l2Only _
  all_goals exact .refl s

theorem State.prefLane_replicated {o : PrefOp} (hh : o.hint = .repl) (s : State) (l : LaneIdx) :
    Replicated c.tm.core c.tk.id s (s.prefLane c o l) := by
  unfold State.prefLane
  split
  · rw [hh]
    dsimp only
    split
    · exact s.replicate_replicated ..
    · exact .refl _ _ s
  all_goals exact .refl _ _ s

/-- A group that leaves an instruction which did nothing to its threads. -/
theorem teamsAfter_same {u : State} (hu : u.teams = s.teams) :
    TeamsAfter s (u.retire c i Post.none) c (u.follows c i) id fun _ w => w := by
  refine teamsAfter_retire (F := id) (g := id) ?_ (fun a => by simp) (fun _ => ⟨rfl, fun _ _ => rfl⟩) rfl (fun _ => rfl) (fun _ _ => rfl)
    fun x _ => ⟨rfl, fun hi => ⟨State.departs_pc_next rfl rfl rfl hi, rfl⟩⟩
  rw [hu, State.modTeam]
  simp [mapIf]

theorem pref_effect {o : PrefOp} (hc : CanIssue s c (.pref g o) g) :
    ∃ t u : State, exec (.pref g o) s = .next t ∧ TeamsAfter s t c (u.follows c (.pref g o)) id (fun _ w => w) ∧
      t = { u with teams := t.teams, freeCtr := s.freeCtr + 1, blocked := [] } ∧
      (o.hint ≠ .repl → CachesOnly s u ∧ (o.hint ≠ .keep → u.l1 = s.l1 ∧ u.mem = s.mem ∧ u.hostMem = s.hostMem)) ∧
      (o.hint = .repl → u = { s with l2 := u.l2, replicas := u.replicas, partials := u.partials, net := u.net } ∧
        NetAfter s u [] ∧ ∀ r ∈ u.replicas, r ∈ s.replicas ∨
        (r.club = c.tm.core / 4 ∧ r.task = c.tk.id ∧ r.versions = [lineOfBytes (s.homeLine r.place)])) := by
  have hcaches (hh : o.hint ≠ .repl) : CachesOnly s (s.prefAll c g o) :=
    foldl_rel CachesOnly.refl (fun _ _ _ => CachesOnly.trans) (State.prefLane_caches hh) _ s
  have hrepl (hh : o.hint = .repl) : Replicated c.tm.core c.tk.id s (s.prefAll c g o) := Replicated.foldl (State.prefLane_replicated hh) _ s
  have hsame : (s.prefAll c g o).teams = s.teams ∧ (s.prefAll c g o).freeCtr = s.freeCtr := by
    by_cases hh : o.hint = .repl
    · exact ⟨(congrArg State.teams (hrepl hh).1 :), (congrArg State.freeCtr (hrepl hh).1 :)⟩
    · exact ⟨(hcaches hh).teams, (congrArg State.freeCtr (hcaches hh).1 :)⟩
  refine ⟨_, s.prefAll c g o, exec_pref hc, teamsAfter_same hsame.1, ?_, fun hh => ⟨hcaches hh, fun hk => ?_⟩, hrepl⟩
  · rw [State.retire_eq, hsame.2]
  · have h : L2Only s (s.prefAll c g o) := foldl_rel L2Only.refl (fun _ _ _ => L2Only.trans) (State.prefLane_l2Only hh hk) _ s
    exact ⟨(congrArg State.l1 h :), (congrArg State.mem h :), (congrArg State.hostMem h :)⟩

/-! ## FLUSH and INV (R168) -/

/-- The lines that FLUSH and INV pick are those that their operand selects, of the class. -/
theorem lineSelect_eq {o : LineSel} {cls : Cls} (hp : SelectPasses s c g o cls) (k : (L1Line → Bool) → Eff) :
    ∃ q, lineSelect s c (c.active g) o cls k = k q ∧ (fun l => q l && l.cls == cls) = Selected s c g o cls := by
  cases o with
  | all =>
    refine ⟨_, rfl, funext fun l => ?_⟩
    rw [Selected, Bool.and_right_comm]
  | line idx buf =>
    obtain ⟨hside, hlines⟩ := hp
    refine ⟨_, State.checkSide_ok hside hlines, funext fun l => ?_⟩
    rw [Selected, Bool.and_right_comm]
    congr 1
    rw [Bool.eq_iff_iff, List.contains_iff_mem, List.any_eq_true]
    simp only [State.laneOks_eq, List.flatMap_map, List.mem_flatMap, List.mem_map, List.mem_filter]
    refine exists_congr fun x => and_congr_right fun hx => ?_
    have hvalid : recValid x.r = true := (hside x (List.mem_filter.2 hx)).1
    have hi : x.inside = true := by simpa [hvalid] using hx.2
    rw [List.any_eq_true]
    simp only [State.laneOk, hi, if_true, List.mem_filterMap]
    constructor
    · rintro ⟨y, ⟨⟨va, hva, hy⟩, hsel⟩, hl⟩
      obtain ⟨-, hout⟩ := LineOut.xlat_some hy
      refine ⟨va, hva, ?_⟩
      have hout' : s.lineOut c (selectTouch cls) x.t va = .ok y.2 := hout
      rw [hout']
      simpa [hl] using hsel
    · rintro ⟨va, hva, hsel⟩
      split at hsel
      · next y hy =>
        simp only [Bool.and_eq_true, beq_iff_eq] at hsel
        exact ⟨(va, y), ⟨⟨va, hva, congrArg (LineOut.xlat va) hy⟩, by simp [hsel.1.1, hsel.1.2]⟩, hsel.2⟩
      · cases hsel

theorem exec_flush {o : LineSel} (hc : CanIssue s c (.flush g o) g) (ha : NoAcquire s c g) (hp : SelectPasses s c g o .pv)
    (hq : ∀ x ∈ c.active g, s.pvQueued (c.key x) = false) :
    exec (.flush g o) s = .next ((s.l1Clean (Selected s c g o .pv)).retire c (.flush g o) Post.none) := by
  obtain ⟨q, hsel, hq'⟩ := lineSelect_eq hp fun q => .ok (s.l1Clean fun l => q l && l.cls == .pv)
  change execFlush g o s = _
  rw [execFlush, runMem_issues hc ha, waits_nil hq]
  dsimp only
  rw [hsel, hq']
  rfl

theorem exec_inv {o : LineSel} (hc : CanIssue s c (.inv g o) g) (ha : NoAcquire s c g) (hp : SelectPasses s c g o .ws) :
    exec (.inv g o) s = .next ((s.l1Evict (Selected s c g o .ws)).retire c (.inv g o) Post.none) := by
  obtain ⟨q, hsel, hq'⟩ := lineSelect_eq hp fun q => .ok (s.l1Evict fun l => q l && l.cls == .ws)
  change execInv g o s = _
  rw [execInv, runMem_issues hc ha, hsel, hq']
  rfl

/-! ## What goes home -/

theorem State.writeBack_of_clean {ls : List L1Line} (h : ∀ l ∈ ls, l.dirty = 0) : s.writeBack ls = s := by
  induction ls with
  | nil => rfl
  | cons l ls ih =>
    rw [State.writeBack, List.foldl_cons, if_pos (h l List.mem_cons_self)]
    exact ih fun x hx => h x (List.mem_cons_of_mem _ hx)

/-- Clean lines leave nothing behind. -/
theorem State.l1Evict_of_clean {q : L1Line → Bool} (h : ∀ l ∈ s.l1, q l = true → l.dirty = 0) :
    s.l1Evict q = { s with l1 := s.l1.filter fun l => !q l } := by
  rw [State.l1Evict_eq, State.writeBack_of_clean fun l hl => h l (List.mem_filter.1 hl).1 (List.mem_filter.1 hl).2]

/-- The memory of the device after a line's dirty bytes have gone home. -/
theorem State.writeMasked_mem (s : State) (x : L1Line) : (s.writeMasked x.place (lineBytes x.data) x.dirty).mem =
    if x.place.space = .dev then maskedPut s.mem (lineBase x.place.addr) x.data x.dirty else s.mem := by
  cases hs : x.place.space <;>
    simp [State.writeMasked, State.writeBytes, State.homeLine, State.readBytes, Place.line, maskedPut, hs]

/-- A dirty byte of a line that is the only dirty one of its place is home once the line is written back. -/
theorem State.read_writeBack {ls : List L1Line} {l : L1Line} {j : Nat} (hl : l ∈ ls ∨
      Memory.read s.mem (lineBase l.place.addr + j) = l.data.extractLsb' (8 * j) 8) (hdev : l.place.space = .dev)
    (honly : ∀ x ∈ ls, x.place.space = .dev → lineBase x.place.addr = lineBase l.place.addr → x.dirty ≠ 0 → x = l) (hj : j < 128)
    (hd : l.dirty.getLsbD j = true) : Memory.read (s.writeBack ls).mem (lineBase l.place.addr + j) = l.data.extractLsb' (8 * j) 8 := by
  have hbase : lineBase (lineBase l.place.addr + j) = lineBase l.place.addr := by
    simp only [lineBase]
    omega
  have hmod : (lineBase l.place.addr + j) % 128 = j := by
    simp only [lineBase]
    omega
  induction ls generalizing s with
  | nil => exact hl.resolve_left List.not_mem_nil
  | cons x ls ih =>
    rw [State.writeBack, List.foldl_cons]
    refine ih ?_ fun y hy => honly y (List.mem_cons_of_mem _ hy)
    by_cases h0 : x.dirty = 0
    · rw [if_pos h0]
      refine hl.imp (fun h => (List.mem_cons.1 h).resolve_left ?_) id
      rintro rfl
      simp [h0] at hd
    · rw [if_neg h0, State.writeMasked_mem]
      by_cases hx : x.place.space = .dev ∧ lineBase x.place.addr = lineBase l.place.addr
      · obtain rfl := honly x List.mem_cons_self hx.1 hx.2 h0
        refine .inr ?_
        rw [if_pos hdev, read_maskedPut, hbase, hmod, if_pos ⟨rfl, hd⟩]
      · refine hl.imp (fun h => (List.mem_cons.1 h).resolve_left ?_) fun h => ?_
        · rintro rfl
          exact hx ⟨hdev, rfl⟩
        · split
          · next hs => rw [read_maskedPut, hbase, if_neg fun h' => hx ⟨hs, h'.1⟩, h]
          · exact h

theorem State.l1Clean_eq (s : State) (q : L1Line → Bool) : s.l1Clean q = { s.writeBack (s.l1.filter q) with
    l1 := mapIf (fun l => q l && l.st == .d) (fun l => { l with st := .v, dirty := 0 }) (s.writeBack (s.l1.filter q)).l1 } := rfl

end

/-- Settles O16: releases enter the queues, prefetches change caches, FLUSH writes lines back and INV drops them. -/
theorem fencesAndLines : Obligations.FencesAndLines := by
  refine ⟨fun g o s c hc ha => ?_, fun g o s c hc => pref_effect hc, fun g o s c hc ha hp hq => exec_flush hc ha hp hq,
    fun g o s c hc ha hp => exec_inv hc ha hp, fun s q h => State.l1Evict_of_clean h, fun s q => ?_⟩
  · cases hk : o.kind with
    | rel => exact fence_rel hk hc ha
    | acq => exact fence_acq hk hc ha
    | full => exact fence_full hk hc ha
  · obtain ⟨m, h, heq, hm, hh⟩ := s.writeBack_eq (s.l1.filter q)
    intro t
    have ht : t = { s with l1 := mapIf (fun l => q l && l.st == .d) (fun l => { l with st := .v, dirty := 0 }) s.l1, mem := m, hostMem := h } := by
      rw [show t = s.l1Clean q from rfl, State.l1Clean_eq, heq]
    refine ⟨by rw [ht], ?_, by rw [ht]; exact hm, by rw [ht]; exact hh, fun l hl hql hdev honly j hj hd => ?_⟩
    · rw [ht]
      refine List.map_congr_left fun l _ => ?_
      simp
    · have hread := State.read_writeBack (s := s) (.inl (List.mem_filter.2 ⟨hl, hql⟩)) hdev
        (fun x hx => honly x (List.mem_filter.1 hx).1 (List.mem_filter.1 hx).2) hj hd
      rw [heq] at hread
      rw [ht]
      exact hread

end Sys2Proof.Machine

/-!
CPY.GS, CPY.SG and CPY.GG (O17, R175, R176, R178): the copies that a group starts, and those that enter the inning buffer at once.
-/
namespace Sys2Proof.Machine

open Sys2Proof

/-! ## The counter of a tag -/

section
variable {α : Type}

theorem Sparse.erase_of_absent {m : Sparse α} {n : Nat} (h : ∀ x ∈ m, x.1 ≠ n) : Sparse.erase m n = m := by
  induction m with
  | nil => rfl
  | cons x m ih =>
    obtain ⟨k, v⟩ := x
    have hk : ¬n = k := fun e => h _ List.mem_cons_self e.symm
    simp [Sparse.erase, hk, ih fun y hy => h y (List.mem_cons_of_mem _ hy)]

theorem Sparse.erase_add {m : Sparse α} {n : Nat} {v : α} (h : ∀ x ∈ m, x.1 ≠ n) : Sparse.erase (Sparse.add m n v) n = m := by
  induction m with
  | nil => simp [Sparse.add, Sparse.erase]
  | cons x m ih =>
    obtain ⟨k, w⟩ := x
    have hk : ¬n = k := fun e => h _ List.mem_cons_self e.symm
    have hm : ∀ y ∈ m, y.1 ≠ n := fun y hy => h y (List.mem_cons_of_mem _ hy)
    rw [Sparse.add]
    split
    · rw [Sparse.erase, if_pos rfl, Sparse.erase_of_absent h]
    · rw [Sparse.erase, if_neg hk, ih hm]

/-- Of two writes to one place the second remains. -/
theorem Sparse.set_set [DecidableEq α] (d : α) (m : Sparse α) (n : Nat) (v w : α) : Sparse.set d (Sparse.set d m n v) n w = Sparse.set d m n w := by
  have herase : Sparse.erase (Sparse.set d m n v) n = Sparse.erase m n := by
    unfold Sparse.set
    split
    · exact Sparse.erase_of_absent (Sparse.erase_absent m n)
    · exact Sparse.erase_add (Sparse.erase_absent m n)
  rw [Sparse.set, herase, Sparse.set]

end

/-- A team whose tag counts `n` more copies. -/
def Team.countCopies (tag n : Nat) (tm : Team) : Team := if n = 0 then tm else tm.setTag tag (tm.tagCount tag + n)

theorem Team.countCopies_succ (tag n : Nat) (tm : Team) :
    (tm.countCopies tag n).setTag tag ((tm.countCopies tag n).tagCount tag + 1) = tm.countCopies tag (n + 1) := by
  unfold Team.countCopies
  by_cases h : n = 0
  · subst h
    rfl
  · simp only [if_neg h, Nat.add_eq_zero_iff, one_ne_zero, and_false, if_false, Team.setTag, Team.tagCount, Sparse.get_set_same, Sparse.set_set,
      Nat.add_assoc]

/-! ## A state beside another: copies have been started -/

/-- What a line of an L1 is of. -/
def L1Line.tag (l : L1Line) : Nat × Place × Cls := (l.core, l.place, l.cls)

theorem State.aliased_tags (s : State) {a : List Team} {b : List Task} {l1 : List L1Line} {n : Nat} {cs : List CopyRec}
    (h : l1.map L1Line.tag = s.l1.map L1Line.tag) (core : Nat) (y : Xlat) :
    ({ s with teams := a, tasks := b, l1 := l1, nextCopy := n, copies := cs } : State).aliased core y = s.aliased core y := by
  have key (ls : List L1Line) (p : Place) : (ls.any fun l => l.core == core && l.place == p && l.cls != y.cls) =
      (ls.map L1Line.tag).any fun t => t.1 == core && t.2.1 == p && t.2.2 != y.cls := by
    rw [List.any_map]
    rfl
  simp only [State.aliased, key, h]
  rfl

theorem State.classOut_tags (s : State) {a : List Team} {b : List Task} {l1 : List L1Line} {n : Nat} {cs : List CopyRec}
    (h : l1.map L1Line.tag = s.l1.map L1Line.tag) (c : Ctx) (k : Touch) (x : Thread) (y : Xlat) :
    ({ s with teams := a, tasks := b, l1 := l1, nextCopy := n, copies := cs } : State).classOut c k x y = s.classOut c k x y := by
  simp only [State.classOut, s.aliased_tags h]
  rfl

theorem State.leaseScan_congr {s t : State} (h : t.mem = s.mem) (page : Nat) : ∀ fuel a, t.leaseScan page fuel a = s.leaseScan page fuel a
  | 0, _ => rfl
  | fuel + 1, a => by simp only [State.leaseScan, h, State.leaseScan_congr h page fuel]

theorem State.leaseCheck_congr {s t : State} (hm : t.mem = s.mem) (hd : t.lsdir = s.lsdir) (hr : t.revoked = s.revoked)
    (hg : t.revoking = s.revoking) (lease page : Nat) : t.leaseCheck lease page = s.leaseCheck lease page := by
  simp only [State.leaseCheck, State.leaseGone, State.leaseScan_congr hm, hm, hd, hr, hg]

theorem State.lineOut_tags (s : State) {a : List Team} {b : List Task} {l1 : List L1Line} {n : Nat} {cs : List CopyRec}
    (h : l1.map L1Line.tag = s.l1.map L1Line.tag) (c : Ctx) (k : Touch) (x : Thread) (va : Nat) :
    ({ s with teams := a, tasks := b, l1 := l1, nextCopy := n, copies := cs } : State).lineOut c k x va = s.lineOut c k x va := by
  have h1 : ({ s with teams := a, tasks := b, l1 := l1, nextCopy := n, copies := cs } : State).lsdir = s.lsdir := rfl
  have hlease (lease page : Nat) : ({ s with teams := a, tasks := b, l1 := l1, nextCopy := n, copies := cs } : State).leaseCheck lease page =
      s.leaseCheck lease page := by
    refine State.leaseCheck_congr ?_ ?_ ?_ ?_ lease page
    · rfl
    · exact h1
    · rfl
    · rfl
  have htr (core ctx va : Nat) : ({ s with teams := a, tasks := b, l1 := l1, nextCopy := n, copies := cs } : State).translate core ctx va =
      s.translate core ctx va := rfl
  simp only [State.lineOut, hlease, htr, s.classOut_tags h]
  rfl
/-- `w` is `s` but for its teams, inning buffers, copies and the states of its L1 lines. -/
def Beside (s w : State) : Prop :=
  w = { s with teams := w.teams, tasks := w.tasks, l1 := w.l1, nextCopy := w.nextCopy, copies := w.copies } ∧
    w.l1.map L1Line.tag = s.l1.map L1Line.tag

section
variable {s w v : State} {c : Ctx} {k : Touch} {x : Thread} {va : Nat} {l : CopyLane}

theorem Beside.refl (s : State) : Beside s s := ⟨rfl, rfl⟩

theorem Beside.trans (h : Beside s w) (h' : Beside w v) : Beside s v :=
  ⟨by rw [h'.1, h.1], h'.2.trans h.2⟩

theorem Beside.modTeam (s : State) (m n : Nat) (F : Team → Team) : Beside s (s.modTeam m n F) := ⟨rfl, rfl⟩

/-- Lines are found, permitted and of their class as before. -/
theorem Beside.lineOut (h : Beside s w) : w.lineOut c k x va = s.lineOut c k x va := by
  rw [h.1]
  exact s.lineOut_tags h.2 c k x va

theorem Beside.doPlace (h : Beside s w) : w.doPlace c l = s.doPlace c l := by
  unfold State.doPlace
  cases l.dst with
  | mem va => simp only [h.lineOut]
  | _ => rfl

/-- A copy writes a DO page where it has a place on one. -/
theorem State.copyOnDo_eq (s : State) (c : Ctx) (l : CopyLane) : s.copyOnDo c l = (s.doPlace c l).isSome := by
  unfold State.copyOnDo State.doPlace
  cases l.dst with
  | mem va =>
    dsimp only
    cases c.doOk with
    | false => rfl
    | true =>
      cases hy : s.lineOut c c.touchStore l.t va.toNat with
      | ok y =>
        rw [Bool.true_and, if_pos rfl]
        by_cases ho : y.cls = .ord <;> simp [ho]
      | _ => rfl
  | _ => rfl

/-- What having a place on a DO page means. -/
theorem State.doPlace_some {p : Place} (h : s.doPlace c l = some p) : ∃ va y, l.dst = .mem va ∧ c.doOk = true ∧
    s.lineOut c c.touchStore l.t va.toNat = .ok y ∧ y.cls = .ord ∧ y.place = p := by
  unfold State.doPlace at h
  split at h
  · next va hd =>
    split at h
    · next hok =>
      split at h
      · next y hy =>
        split at h
        · next ho => exact ⟨va, y, hd, hok, hy, ho, Option.some.inj h⟩
        · cases h
      · cases h
    · cases h
  · cases h
  · cases h

theorem State.copyLine_eq {p : Place} (h : s.doPlace c l = some p) : s.copyLine c l = p := by
  obtain ⟨va, y, hd, -, hy, -, hp⟩ := State.doPlace_some h
  rw [State.copyLine, hd]
  dsimp only
  rw [hy]
  exact hp

/-- The stores of a copy that is issued reach the same lines as any store. -/
theorem touchStore_of_doOk (h : c.doOk = true) : ({ write := true, cls := fun _ x => x != .ord || true } : Touch) = c.touchStore := by
  rw [Ctx.touchStore, h]

/-- The write of a copy to a DO page: an entry of the inning buffer. -/
theorem State.copyDest_do {p : Place} {r : CopyRec} {bs : List Byte} {st : Nat} (hdst : r.dst = l.dst) (h : w.doPlace c l = some p) :
    w.copyDest c l.t r true bs st = .done ((w.l1Touch c.tm.core p).modTask c.tk.id fun tk => { tk with buf := doStore (c.key l.t) p bs [] tk.buf })
      st := by
  obtain ⟨va, y, hd, hok, hy, ho, rfl⟩ := State.doPlace_some h
  rw [State.copyDest, hdst, hd]
  dsimp only
  rw [touchStore_of_doOk hok, hy]
  exact if_pos ho

end

/-! ## The copies of some lanes, started -/

section
variable {s w : State} {c : Ctx} {size : Nat} {e : RegNum} {tag : TagNum} {data : CopyLane → List Byte × Nat} {ls lanes : List CopyLane}
  {l : CopyLane}

/-- What a copy to a DO page enters. -/
def State.enterCopy (s : State) (c : Ctx) (data : CopyLane → List Byte × Nat) (b : List DoEntry) (l : CopyLane) : List DoEntry :=
  (s.doPlace c l).elim b fun p => doStore (c.key l.t) p (data l).1 [] b

/-- The copies as they are recorded: of those to DO pages only the completion is due. -/
def State.startedCopies (s : State) (c : Ctx) (size : Nat) (e : RegNum) (tag : TagNum) (data : CopyLane → List Byte × Nat)
    (lanes : List CopyLane) : List CopyRec :=
  ((copyRecs s c size e tag lanes).zip lanes).map fun x => { x.1 with done := (s.doPlace c x.2).map fun _ => (data x.2).2 }

/-- The lines of an L1 after the lines of DO pages that copies write have been touched. -/
def State.touchedL1 (s : State) (c : Ctx) (lanes : List CopyLane) : List L1Line :=
  (lanes.filterMap (s.doPlace c)).foldl (fun l1 p =>
    mapIf (fun l => l.core == c.tm.core && l.place == p.line && l.st == .p) (fun l => { l with st := .v }) l1) s.l1

/-- The state after the copies of some lanes have started. -/
def State.copied (s : State) (c : Ctx) (size : Nat) (e : RegNum) (tag : TagNum) (data : CopyLane → List Byte × Nat) (lanes : List CopyLane) :
    State :=
  { s.modTeam c.tk.id c.tm.team (Team.countCopies tag.val lanes.length) with
    tasks := (s.modTask c.tk.id fun tk => { tk with buf := lanes.foldl (s.enterCopy c data) tk.buf }).tasks
    l1 := s.touchedL1 c lanes
    nextCopy := s.nextCopy + lanes.length
    copies := s.copies ++ s.startedCopies c size e tag data lanes }

theorem tags_touched {p : Place} (core : Nat) (l1 : List L1Line) :
    (mapIf (fun l => l.core == core && l.place == p.line && l.st == .p) (fun l => { l with st := .v }) l1).map L1Line.tag = l1.map L1Line.tag := by
  rw [mapIf, List.map_map]
  refine List.map_congr_left fun l _ => ?_
  rw [Function.comp_apply]
  split <;> rfl

theorem State.tags_touchedL1 (s : State) (c : Ctx) (lanes : List CopyLane) : (s.touchedL1 c lanes).map L1Line.tag = s.l1.map L1Line.tag := by
  unfold State.touchedL1
  generalize lanes.filterMap (s.doPlace c) = ps
  generalize s.l1 = l1
  induction ps generalizing l1 with
  | nil => rfl
  | cons p ps ih => rw [List.foldl_cons, ih, tags_touched]

/-- L1 lines have changed their states alone. -/
theorem State.mem_touchedL1 {l : L1Line} (h : l ∈ s.touchedL1 c lanes) : ∃ x ∈ s.l1, l = { x with st := l.st } := by
  unfold State.touchedL1 at h
  generalize lanes.filterMap (s.doPlace c) = ps at h
  generalize s.l1 = l1 at h ⊢
  induction ps generalizing l1 with
  | nil => exact ⟨l, h, rfl⟩
  | cons p ps ih =>
    obtain ⟨x, hx, hl⟩ := ih _ h
    obtain ⟨y, hy, rfl⟩ := List.mem_map.1 hx
    refine ⟨y, hy, hl.trans ?_⟩
    split <;> rfl

theorem State.copied_nil (s : State) : s.copied c size e tag data [] = s := by
  have hteam : s.modTeam c.tk.id c.tm.team (Team.countCopies tag.val 0) = s := by
    simp [State.modTeam, mapIf, Team.countCopies]
  have htask : (s.modTask c.tk.id fun tk => { tk with buf := tk.buf }).tasks = s.tasks := congrArg State.tasks (s.modTask_id _)
  simp only [State.copied, List.length_nil, hteam, State.startedCopies, copyRecs, State.touchedL1, List.foldl_nil, htask]
  simp

theorem State.copied_beside (s : State) : Beside s (s.copied c size e tag data lanes) := ⟨rfl, s.tags_touchedL1 c lanes⟩

/-- The record of a copy as it starts. -/
def Ctx.copyRec (c : Ctx) (size : Nat) (e : RegNum) (tag : TagNum) (l : CopyLane) (id : Nat) : CopyRec :=
  { id := id, owner := c.key l.t, tag := tag.val, size := size, src := l.src, dst := l.dst, reg := e.val, done := none,
    inRoutine := c.g.inRoutine, srcBuf := l.srcBuf, dstBuf := l.dstBuf, pc := c.g.addr.toNat, iter := c.g.iter }

theorem State.startedCopies_concat (s : State) : s.startedCopies c size e tag data (ls ++ [l]) = s.startedCopies c size e tag data ls ++
    [{ c.copyRec size e tag l (s.nextCopy + ls.length) with done := (s.doPlace c l).map fun _ => (data l).2 }] := by
  unfold State.startedCopies copyRecs
  rw [List.mapIdx_concat, List.zip_append (by simp), List.map_append]
  rfl

/-- One more copy counted. -/
def State.countCopy (w : State) (c : Ctx) (tag : TagNum) : State :=
  ({ w with nextCopy := w.nextCopy + 1 } : State).modTeam c.tk.id c.tm.team fun tm => tm.setTag tag.val (tm.tagCount tag.val + 1)

theorem State.countCopy_beside (w : State) (c : Ctx) (tag : TagNum) : Beside w (w.countCopy c tag) := ⟨rfl, rfl⟩

/-- A copy that is made as it starts has its status; one that cannot be made yet is due. -/
def State.afterPerform (w : State) (r : CopyRec) : CopyEnd → State × CopyRec
  | .done u st => (u, { r with done := some st })
  | .sent _ | .wait _ | .lease _ _ _ | .hole _ => (w, r)

theorem State.startCopy_eq (w : State) : w.startCopy c size e tag l =
    let r := c.copyRec size e tag l w.nextCopy
    let x := if (w.countCopy c tag).copyOnDo c l then (w.countCopy c tag).afterPerform r ((w.countCopy c tag).performCopy c l.t r true)
      else (w.countCopy c tag, r)
    { x.1 with copies := x.1.copies ++ [x.2] } := rfl

/-- A copy to no DO page starts, and nothing more. -/
theorem State.startCopy_none (h : w.doPlace c l = none) : w.startCopy c size e tag l =
    { w.countCopy c tag with copies := w.copies ++ [c.copyRec size e tag l w.nextCopy] } := by
  have hdo : (w.countCopy c tag).copyOnDo c l = false := by
    rw [State.copyOnDo_eq, (w.countCopy_beside c tag).doPlace, h]
    rfl
  rw [State.startCopy_eq, hdo]
  rfl

/-- A copy to a DO page is made as it starts. -/
theorem State.startCopy_some {p : Place} {u : State} {st : Nat} (h : w.doPlace c l = some p)
    (hp : (w.countCopy c tag).performCopy c l.t (c.copyRec size e tag l w.nextCopy) true = .done u st) : w.startCopy c size e tag l =
      { u with copies := u.copies ++ [{ c.copyRec size e tag l w.nextCopy with done := some st }] } := by
  have hdo : (w.countCopy c tag).copyOnDo c l = true := by
    rw [State.copyOnDo_eq, (w.countCopy_beside c tag).doPlace, h]
    rfl
  rw [State.startCopy_eq, hdo]
  dsimp only
  rw [hp]
  rfl

/-- The copy of a lane to a DO page gives what `data` says, in any state beside `s`. -/
def State.Gives (s : State) (c : Ctx) (size : Nat) (data : CopyLane → List Byte × Nat) (l : CopyLane) : Prop :=
  ∀ p, s.doPlace c l = some p → ∀ (w : State) (r : CopyRec), Beside s w → r.src = l.src → r.dst = l.dst → r.size = size →
    w.performCopy c l.t r true = w.copyDest c l.t r true (data l).1 (data l).2

theorem State.countCopy_teams (h : w.teams = (s.modTeam c.tk.id c.tm.team (Team.countCopies tag.val ls.length)).teams) :
    (w.countCopy c tag).teams = (s.modTeam c.tk.id c.tm.team (Team.countCopies tag.val (ls ++ [l]).length)).teams := by
  have hkey (a : Team) : (a.countCopies tag.val ls.length).task = a.task ∧ (a.countCopies tag.val ls.length).team = a.team := by
    unfold Team.countCopies
    split <;> exact ⟨rfl, rfl⟩
  have hcomp : Team.countCopies tag.val (ls ++ [l]).length = (fun tm => tm.setTag tag.val (tm.tagCount tag.val + 1)) ∘
      Team.countCopies tag.val ls.length := funext fun a => by
    rw [List.length_append, List.length_singleton, ← Team.countCopies_succ]
    rfl
  rw [hcomp, ← State.modTeam_modTeam _ _ _ _ _ hkey, State.countCopy, State.modTeam, h]
  rfl

theorem State.touchedL1_concat (s : State) : s.touchedL1 c (ls ++ [l]) = (s.doPlace c l).elim (s.touchedL1 c ls) fun p =>
    mapIf (fun l => l.core == c.tm.core && l.place == p.line && l.st == .p) (fun l => { l with st := .v }) (s.touchedL1 c ls) := by
  rw [State.touchedL1, List.filterMap_append, List.foldl_append]
  cases h : s.doPlace c l <;> simp [State.touchedL1, h]

theorem Beside.eq_copied (h : Beside s w) (ht : w.teams = (s.modTeam c.tk.id c.tm.team (Team.countCopies tag.val ls.length)).teams)
    (hk : w.tasks = (s.modTask c.tk.id fun tk => { tk with buf := ls.foldl (s.enterCopy c data) tk.buf }).tasks)
    (hl : w.l1 = s.touchedL1 c ls) (hn : w.nextCopy = s.nextCopy + ls.length)
    (hc : w.copies = s.copies ++ s.startedCopies c size e tag data ls) : w = s.copied c size e tag data ls :=
  h.1.trans (by rw [ht, hk, hl, hn, hc]; rfl)

theorem Beside.copies (h : Beside s w) (cs : List CopyRec) : Beside s { w with copies := cs } :=
  h.trans ⟨rfl, rfl⟩

theorem Beside.l1Touch (h : Beside s w) (core : Nat) (p : Place) : Beside s (w.l1Touch core p) :=
  h.trans ⟨rfl, tags_touched core w.l1⟩

theorem Beside.modTask (h : Beside s w) (m : Nat) (F : Task → Task) : Beside s (w.modTask m F) := h.trans ⟨rfl, rfl⟩

/-- One more copy starts. -/
theorem State.startCopy_copied (h : s.Gives c size data l) :
    (s.copied c size e tag data ls).startCopy c size e tag l = s.copied c size e tag data (ls ++ [l]) := by
  have hplace : (s.copied c size e tag data ls).doPlace c l = s.doPlace c l := s.copied_beside.doPlace
  have hcount : Beside s ((s.copied c size e tag data ls).countCopy c tag) := s.copied_beside.trans (State.countCopy_beside _ c tag)
  have hteams : ((s.copied c size e tag data ls).countCopy c tag).teams = _ := State.countCopy_teams (l := l) rfl
  have hn : s.nextCopy + ls.length + 1 = s.nextCopy + (ls ++ [l]).length := by
    rw [List.length_append, List.length_singleton, Nat.add_assoc]
  have henter (b : List DoEntry) : (ls ++ [l]).foldl (s.enterCopy c data) b = s.enterCopy c data (ls.foldl (s.enterCopy c data) b) l := by
    rw [List.foldl_append, List.foldl_cons, List.foldl_nil]
  cases hp : s.doPlace c l with
  | none =>
    rw [State.startCopy_none (hplace.trans hp)]
    refine (hcount.copies _).eq_copied hteams ?_ ?_ hn ?_
    · simp only [henter]
      have hl (b : List DoEntry) : s.enterCopy c data b l = b := by rw [State.enterCopy, hp, Option.elim_none]
      simp only [hl]
      rfl
    · rw [s.touchedL1_concat, hp]
      rfl
    · rw [s.startedCopies_concat, hp, ← List.append_assoc]
      rfl
  | some p =>
    have hperf := h p hp _ (c.copyRec size e tag l (s.copied c size e tag data ls).nextCopy) hcount rfl rfl rfl
    rw [State.copyDest_do (l := l) rfl (hcount.doPlace.trans hp)] at hperf
    rw [State.startCopy_some (hplace.trans hp) hperf]
    refine (((hcount.l1Touch _ _).modTask _ _).copies _).eq_copied hteams ?_ ?_ hn ?_
    · simp only [henter]
      have hl (b : List DoEntry) : s.enterCopy c data b l = doStore (c.key l.t) p (data l).1 [] b := by
        rw [State.enterCopy, hp, Option.elim_some]
      simp only [hl]
      exact State.tasks_buffer_comp (F := fun b => ls.foldl (s.enterCopy c data) b) (G := doStore (c.key l.t) p (data l).1 []) rfl
    · rw [s.touchedL1_concat, hp]
      rfl
    · rw [s.startedCopies_concat, hp, ← List.append_assoc]
      rfl

theorem State.foldl_startCopy (h : ∀ l ∈ lanes, s.Gives c size data l) :
    lanes.foldl (fun s l => s.startCopy c size e tag l) s = s.copied c size e tag data lanes := by
  induction lanes using List.reverseRecOn with
  | nil => exact s.copied_nil.symm
  | append_singleton ls l ih =>
    rw [List.foldl_append, ih fun x hx => h x (List.mem_append_left _ hx), List.foldl_cons, List.foldl_nil,
      State.startCopy_copied (h l (List.mem_append_right _ (List.mem_singleton_self l)))]

/-! ## The issue -/

/-- The lanes that a copy drops on a side. -/
def droppedCopies (lanes : List CopyLane) : List Nat := (lanes.filter fun l => l.src == .dropped || l.dst == .dropped).map (·.t.tid)

/-- Dropped lanes set oobst. -/
def State.markCopies (s : State) (c : Ctx) (lanes : List CopyLane) : State :=
  s.modTeam c.tk.id c.tm.team fun tm => tm.modThreads (fun t => (droppedCopies lanes).contains t.tid) fun t => { t with oobst := true }

theorem State.markCopies_beside (s : State) (c : Ctx) (lanes : List CopyLane) : Beside s (s.markCopies c lanes) := ⟨rfl, rfl⟩

/-- Copies that nothing holds back start one after another. -/
theorem issueCopies_eq (hroom : c.tm.tagCount tag.val + lanes.length ≤ 65535) (hcells : s.copyCells c lanes = [])
    (hstall : copyStalls s c size lanes = []) (hstay : copyStays s c lanes = []) : issueCopies s c size e tag lanes =
      .done (lanes.foldl (fun s l => s.startCopy c size e tag l) (s.markCopies c lanes)) { Post.none with stay := [] } := by
  unfold issueCopies
  simp only [if_neg (Nat.not_lt.2 hroom), hcells, hstall, hstay, List.all_nil, Bool.not_true, Bool.false_eq_true, if_false, List.contains_nil,
    Bool.not_false, List.filter_true, State.cutInning_nil]
  rfl

theorem State.markCopies_teams (s : State) (c : Ctx) (tag : Nat) (lanes : List CopyLane) :
    ((s.markCopies c lanes).modTeam c.tk.id c.tm.team (Team.countCopies tag lanes.length)).teams =
      (s.modTeam c.tk.id c.tm.team fun tm =>
        let tm := tm.modThreads (fun t => (droppedCopies lanes).contains t.tid) fun t => { t with oobst := true }
        if lanes = [] then tm else tm.setTag tag (tm.tagCount tag + lanes.length)).teams := by
  rw [State.markCopies, State.modTeam_modTeam s c.tk.id c.tm.team
    (fun tm => tm.modThreads (fun t => (droppedCopies lanes).contains t.tid) fun t => { t with oobst := true }) _ fun _ => ⟨rfl, rfl⟩]
  congr 2
  funext tm
  simp only [Function.comp_apply, Team.countCopies, List.length_eq_zero_iff]

/-- Copies none of which writes a DO page. -/
theorem copies_started {i : Instr} (h : CopyStarts s c tag lanes) : ∃ t, s.finish c i (issueCopies s c size e tag lanes) = .next t ∧
    CopiesStarted s t c i size e tag lanes := by
  obtain ⟨hroom, hnone⟩ := h
  have hdo (l : CopyLane) (hl : l ∈ lanes) : s.copyOnDo c l = false := (hnone l hl).1
  have hplace (l : CopyLane) (hl : l ∈ lanes) : (s.markCopies c lanes).doPlace c l = none := by
    have := hdo l hl
    rw [State.copyOnDo_eq] at this
    rw [(s.markCopies_beside c lanes).doPlace]
    simpa using this
  have hcells : s.copyCells c lanes = [] := by
    rw [State.copyCells, List.filter_eq_nil_iff.2 fun l hl => by simp [hdo l hl]]
    rfl
  have hstall : copyStalls s c size lanes = [] := by
    rw [copyStalls, List.filter_eq_nil_iff.2 fun l hl => by simp [hdo l hl, (hnone l hl).2]]
    rfl
  have hstay : copyStays s c lanes = [] := by
    rw [copyStays, List.filter_eq_nil_iff.2 fun l hl => by simp [hdo l hl]]
    rfl
  refine ⟨_, by rw [issueCopies_eq hroom hcells hstall hstay]; rfl, ?_⟩
  have hgives (l : CopyLane) (hl : l ∈ lanes) : (s.markCopies c lanes).Gives c size (fun _ => ([], 0)) l := fun p hp => by
    rw [hplace l hl] at hp
    cases hp
  have hl1 : (s.markCopies c lanes).touchedL1 c lanes = s.l1 := by
    rw [State.touchedL1, List.filterMap_eq_nil_iff.2 hplace]
    rfl
  have henter (b : List DoEntry) : lanes.foldl ((s.markCopies c lanes).enterCopy c fun _ => ([], 0)) b = b := by
    rw [List.foldl_ext _ (fun b _ => b) b fun b l hl => by rw [State.enterCopy, hplace l hl, Option.elim_none]]
    exact List.foldl_fixed lanes
  have hrecs : (s.markCopies c lanes).startedCopies c size e tag (fun _ => ([], 0)) lanes = copyRecs s c size e tag lanes := by
    rw [State.startedCopies]
    refine List.ext_getElem (by simp [copyRecs]) fun j h1 h2 => ?_
    have hj : j < lanes.length := by simpa [copyRecs] using h2
    simp [copyRecs, hplace _ (List.getElem_mem hj)]
    rfl
  have htasks : (s.modTask c.tk.id fun tk => { tk with buf := tk.buf }).tasks = s.tasks := congrArg State.tasks (s.modTask_id _)
  rw [State.foldl_startCopy hgives, CopiesStarted]
  have hb : Beside s ((s.markCopies c lanes).copied c size e tag (fun _ => ([], 0)) lanes) :=
    (s.markCopies_beside c lanes).trans (s.markCopies c lanes).copied_beside
  refine congrArg (fun t : State => t.retire c i Post.none) (hb.1.trans ?_)
  have hteams : ((s.markCopies c lanes).copied c size e tag (fun _ => ([], 0)) lanes).teams = _ := s.markCopies_teams c tag.val lanes
  have htasks' : ((s.markCopies c lanes).copied c size e tag (fun _ => ([], 0)) lanes).tasks = s.tasks := by
    simp only [State.copied, henter]
    exact htasks
  rw [hteams, htasks', show ((s.markCopies c lanes).copied c size e tag (fun _ => ([], 0)) lanes).l1 = s.l1 from hl1,
    show ((s.markCopies c lanes).copied c size e tag (fun _ => ([], 0)) lanes).copies = s.copies ++ copyRecs s c size e tag lanes from
      congrArg (s.copies ++ ·) hrecs]
  rfl

/-- What a lane's copy gives in every state beside one, it gives in every state beside another such. -/
theorem State.Gives.of_beside (h : s.Gives c size data l) (hb : Beside s w) : w.Gives c size data l := fun p hp v r hv hsrc hdst hsize =>
  h p (hb.doPlace ▸ hp) v r (hb.trans hv) hsrc hdst hsize

/-- Lanes that have room stay nowhere. -/
theorem CopyEnters.stays (h : CopyEnters s c tag lanes) : copyStays s c lanes = [] := by
  rw [copyStays, List.filter_eq_nil_iff.2, List.map_nil]
  intro l hl
  rw [State.copyOnDo_eq]
  cases hp : s.doPlace c l with
  | none => simp
  | some p =>
    rw [State.copyLine_eq hp, (h.2 l hl).2 p hp]
    simp

/-- Nothing holds back a copy whose source can be read. -/
theorem CopyEnters.stalls (h : CopyEnters s c tag lanes)
    (hsrc : ∀ l ∈ lanes, s.doPlace c l ≠ none → ∀ u, s.copySource c l.t size l.src (fun s _ st => .done s st) ≠ .wait u) :
    copyStalls s c size lanes = [] := by
  rw [copyStalls, List.filter_eq_nil_iff.2, List.map_nil]
  intro l hl
  rw [(h.2 l hl).1, State.copyOnDo_eq, Bool.false_or]
  cases hp : s.doPlace c l with
  | none => simp
  | some p =>
    have := hsrc l hl (by simp [hp])
    cases hs : s.copySource c l.t size l.src fun s _ st => .done s st with
    | wait u => exact absurd hs (this u)
    | _ => simp

/-- Copies of which those to DO pages give what `data` says. -/
theorem copies_entered {i : Instr} (h : CopyEnters s c tag lanes) (hcells : s.copyCells c lanes = [])
    (hsrc : ∀ l ∈ lanes, s.doPlace c l ≠ none → ∀ u, s.copySource c l.t size l.src (fun s _ st => .done s st) ≠ .wait u)
    (hgives : ∀ l ∈ lanes, s.Gives c size data l) : ∃ u : State, s.finish c i (issueCopies s c size e tag lanes) = .next (u.retire c i Post.none) ∧
      CopiesEntered s u c size e tag lanes data := by
  refine ⟨_, by rw [issueCopies_eq h.1 hcells (h.stalls hsrc) h.stays]; rfl, ?_⟩
  have hm := s.markCopies_beside c lanes
  have hplace : (s.markCopies c lanes).doPlace c = s.doPlace c := funext fun l => hm.doPlace
  have hb : Beside s ((s.markCopies c lanes).copied c size e tag data lanes) := hm.trans (s.markCopies c lanes).copied_beside
  rw [State.foldl_startCopy fun l hl => (hgives l hl).of_beside hm]
  refine ⟨hb.1.trans ?_, s.markCopies_teams c tag.val lanes, ?_, fun l hl => (s.markCopies c lanes).mem_touchedL1 (lanes := lanes) hl⟩
  · have hcopies : ((s.markCopies c lanes).copied c size e tag data lanes).copies = s.copies ++ s.startedCopies c size e tag data lanes := by
      simp only [State.copied, State.startedCopies, hplace]
      rfl
    rw [hcopies]
    rfl
  · have henter : (s.markCopies c lanes).enterCopy c data = s.enterCopy c data := funext fun b => funext fun l => by
      rw [State.enterCopy, hplace, State.enterCopy]
    change ((s.markCopies c lanes).modTask c.tk.id fun tk => { tk with buf := lanes.foldl ((s.markCopies c lanes).enterCopy c data) tk.buf }).tasks = _
    rw [henter]
    rfl

/-- A copy to a DO page writes, and is not dropped. -/
theorem State.performCopy_do {p : Place} {r : CopyRec} {t : Thread} (h : s.doPlace c l = some p) (hd : r.dst = l.dst) : w.performCopy c t r true =
    w.copySource c t r.size r.src fun s bs st => s.copyDest c t r true bs st := by
  obtain ⟨va, y, hdst, -⟩ := State.doPlace_some h
  rw [State.performCopy, if_neg (by rw [hd, hdst]; exact CopySide.noConfusion)]

/-- A copy from the scratchpad gives its bytes. -/
theorem State.gives_scratch {o : Nat} (hsrc : l.src = .scratch o) (hdata : data l = (c.tm.scratchBytes o size, 0)) :
    s.Gives c size data l := by
  intro p hp w r _ hr hd hsize
  rw [State.performCopy_do hp hd, hr, hsrc, hdata, hsize]
  rfl

/-- A dropped source gives zeros. -/
theorem State.gives_dropped (hsrc : l.src = .dropped) (hdata : data l = (List.replicate size 0, 1)) : s.Gives c size data l := by
  intro p hp w r _ hr hd hsize
  rw [State.performCopy_do hp hd, hr, hsrc, hdata, hsize]
  rfl

/-! ## CPY.GG from memory to a DO page -/

/-- A source that can be read now gives bytes that a load may, and leaves caches changed alone. -/
theorem State.copySource_mem {x : Thread} {n : Nat} {va : BitVec 57} {y : Xlat} (hy : w.lineOut c c.touchLoad x va.toNat = .ok y)
    (hm : w.copyMeets c y = false) (hw : y.cls ≠ .ord → w.loadWaits c.tm.core (c.key x) y.place y.cls = false) :
    ∃ w1 bs, CachesOnly w w1 ∧ w.mayLoad c.tm.core (c.key x) y n bs ∧ ∀ k, w.copySource c x n (.mem va) k = k w1 bs 0 := by
  by_cases ho : y.cls = .ord
  · refine ⟨w.l1Touch c.tm.core y.place, w.viewBytes (c.key x) y n, w.l1Touch_caches .., ?_, fun k => ?_⟩
    · rw [State.mayLoad, if_pos ho]
    · simp only [State.copySource, hy, hm, Bool.false_eq_true, if_false, if_pos ho]
      rfl
  · refine ⟨(w.loadBytes c.tm.core (c.key x) y n).2, _, w.loadBytes_caches .., w.loadBytes_mayLoad _ _ _ n ho, fun k => ?_⟩
    simp only [State.copySource, hy, hm, Bool.false_eq_true, if_false, if_neg ho, hw ho]
    rfl

/-- The readiness of a source is that of its line's cell, or of the loads before it. -/
theorem State.source_ready {x : Thread} {y : Xlat} (h : if y.cls = .ord then s.doClear y else
      s.loadWaits c.tm.core (c.key x) y.place y.cls = false ∧ s.copyMeets c y = false) :
    s.copyMeets c y = false ∧ (y.cls ≠ .ord → s.loadWaits c.tm.core (c.key x) y.place y.cls = false) := by
  by_cases ho : y.cls = .ord
  · rw [if_pos ho] at h
    refine ⟨?_, fun hn => absurd ho hn⟩
    rw [State.copyMeets, if_pos ho]
    by_cases hd : y.place.space = .dev
    · simp [h ho hd]
    · simp [hd]
  · rw [if_neg ho] at h
    exact ⟨h.2, fun _ => h.1⟩

/-! ### A state whose teams differ in what the loads of the group do not see -/

/-- `w` is `s` but for its teams, whose queues are the same, and the number of the next copy. -/
def SameQueues (s w : State) : Prop := w = { s with teams := w.teams, nextCopy := w.nextCopy } ∧ ∀ k, w.queueOf k = s.queueOf k

theorem State.loadWaits_queue {a : List Team} {n : Nat} (hq : ∀ k, ({ s with teams := a, nextCopy := n } : State).queueOf k = s.queueOf k)
    (core : Nat) (k : ThreadKey) (p : Place) (cls : Cls) :
    ({ s with teams := a, nextCopy := n } : State).loadWaits core k p cls = s.loadWaits core k p cls := by
  simp only [State.loadWaits, State.loadBlocked, State.scPending, State.readsAhead, hq]
  rfl

theorem SameQueues.beside (h : SameQueues s w) : Beside s w := by
  refine ⟨?_, by rw [h.1]⟩
  rw [h.1]

theorem SameQueues.loadWaits (h : SameQueues s w) (core : Nat) (k : ThreadKey) (p : Place) (cls : Cls) :
    w.loadWaits core k p cls = s.loadWaits core k p cls := by
  rw [h.1]
  exact State.loadWaits_queue (fun k => by rw [← h.1]; exact h.2 k) core k p cls

theorem SameQueues.copyMeets (h : SameQueues s w) (y : Xlat) : w.copyMeets c y = s.copyMeets c y := by
  rw [h.1]
  rfl

theorem SameQueues.mayLoad (h : SameQueues s w) {core : Nat} {k : ThreadKey} {y : Xlat} {n : Nat} {bs : List Byte} (hm : w.mayLoad core k y n bs) :
    s.mayLoad core k y n bs := by
  have hs : Shadow { s with teams := w.teams } s := by
    refine ⟨rfl, rfl, fun v => ?_⟩
    have hq : ({ s with teams := w.teams } : State).queueOf v = w.queueOf v := by rw [h.1]; rfl
    rw [State.ownStores, hq, h.2 v, State.ownStores]
  refine hs.mayLoad ?_
  rw [h.1] at hm
  exact hm

/-- Changes of the caches alone, beside the teams. -/
theorem SameQueues.caches (h : SameQueues s w) {w1 : State} (hc : CachesOnly w w1) :
    CachesOnly s { w1 with teams := s.teams, nextCopy := s.nextCopy } := by
  obtain ⟨hw, -⟩ := h
  rw [hw] at hc
  obtain ⟨heq, hrest⟩ := hc
  exact ⟨(congrArg (fun u : State => ({ u with teams := s.teams, nextCopy := s.nextCopy } : State)) heq).trans rfl, hrest⟩

/-- Marks and tags leave the queues. -/
theorem State.countCopy_sameQueues (s : State) (c : Ctx) (tag : TagNum) (lanes : List CopyLane) :
    SameQueues s ((s.markCopies c lanes).countCopy c tag) := by
  refine ⟨rfl, fun k => ?_⟩
  have hmark : (s.markCopies c lanes).queueOf k = s.queueOf k := State.queueOf_modTeam
    (F := fun tm => tm.modThreads (fun t => (droppedCopies lanes).contains t.tid) fun t => { t with oobst := true }) (fun _ => ⟨rfl, rfl, rfl⟩) s k
  have hcount := State.queueOf_modTeam (m := c.tk.id) (n := c.tm.team) (F := fun tm => tm.setTag tag.val (tm.tagCount tag.val + 1))
    (fun _ => ⟨rfl, rfl, rfl⟩) { s.markCopies c lanes with nextCopy := (s.markCopies c lanes).nextCopy + 1 } k
  exact hcount.trans hmark

/-- No source meets a cell. -/
theorem copyCells_nil (h : ∀ l ∈ lanes, ∀ va y, l.src = .mem va → s.lineOut c c.touchLoad l.t va.toNat = .ok y → s.copyMeets c y = false) :
    s.copyCells c lanes = [] := by
  rw [State.copyCells, List.dedup_eq_nil, List.filterMap_eq_nil_iff]
  intro l hl
  have hl := (List.mem_filter.1 hl).1
  split
  · next va hsrc =>
    split
    · next y hy => exact if_neg (by simp [h l hl va y hsrc hy])
    · rfl
  · rfl
  · rfl

/-- One copy from memory to a DO page: it reads what a load may and enters it, unless its destination has gone meanwhile. -/
theorem copy_entered_mem {i : Instr} {p : Place} {va : BitVec 57} {y : Xlat} (h : CopyEnters s c tag [l]) (hp : s.doPlace c l = some p)
    (hsrc : l.src = .mem va) (hy : s.lineOut c c.touchLoad l.t va.toNat = .ok y)
    (hr : if y.cls = .ord then s.doClear y else
      s.loadWaits c.tm.core (c.key l.t) y.place y.cls = false ∧ s.copyMeets c y = false) :
    ∃ (v u : State) (bs : List Byte), CachesOnly s v ∧ s.mayLoad c.tm.core (c.key l.t) y size bs ∧
      s.finish c i (issueCopies s c size e tag [l]) = .next (u.retire c i Post.none) ∧
      (v.doPlace c l = some p → CopiesEntered v u c size e tag [l] fun _ => (bs, 0)) := by
  obtain ⟨hmeets, hwaits⟩ := State.source_ready hr
  have hcells : s.copyCells c [l] = [] := copyCells_nil fun l' hl' vb z hb hz => by
    obtain rfl := List.mem_singleton.1 hl'
    obtain rfl := CopySide.mem.inj (hsrc.symm.trans hb)
    cases hy.symm.trans hz
    exact hmeets
  have hstalls : ∀ l' ∈ [l], s.doPlace c l' ≠ none → ∀ u, s.copySource c l'.t size l'.src (fun s _ st => .done s st) ≠ .wait u := by
    intro l' hl' _ u
    obtain rfl := List.mem_singleton.1 hl'
    obtain ⟨w1, bs, -, -, hk⟩ := State.copySource_mem (n := size) hy hmeets hwaits
    rw [hsrc, hk]
    exact CopyEnd.noConfusion
  have hq := s.countCopy_sameQueues c tag [l]
  obtain ⟨w1, bs, hw1, hmay, hread⟩ := State.copySource_mem (w := (s.markCopies c [l]).countCopy c tag) (n := size)
    (hq.beside.lineOut.trans hy) ((hq.copyMeets y).trans hmeets) fun ho => (hq.loadWaits ..).trans (hwaits ho)
  refine ⟨{ w1 with teams := s.teams, nextCopy := s.nextCopy }, (s.markCopies c [l]).startCopy c size e tag l, bs, hq.caches hw1, hq.mayLoad hmay,
    by rw [issueCopies_eq h.1 hcells (h.stalls hstalls) h.stays]; rfl, fun hv => ?_⟩
  have hb : Beside { w1 with teams := s.teams, nextCopy := s.nextCopy } w1 := ⟨rfl, rfl⟩
  have hmark : (s.markCopies c [l]).doPlace c l = some p := (s.markCopies_beside c [l]).doPlace.trans hp
  have hperf : ((s.markCopies c [l]).countCopy c tag).performCopy c l.t (c.copyRec size e tag l (s.markCopies c [l]).nextCopy) true =
      w1.copyDest c l.t (c.copyRec size e tag l (s.markCopies c [l]).nextCopy) true bs 0 := by
    rw [State.performCopy_do hmark rfl, show (c.copyRec size e tag l (s.markCopies c [l]).nextCopy).src = .mem va from hsrc]
    exact hread _
  rw [State.copyDest_do (l := l) rfl (hb.doPlace.trans hv)] at hperf
  rw [State.startCopy_some hmark hperf]
  have hw1n : w1.nextCopy = s.nextCopy + 1 := (congrArg State.nextCopy hw1.1 :)
  have hw1c : w1.copies = s.copies := (congrArg State.copies hw1.1 :)
  have hstarted : State.startedCopies { w1 with teams := s.teams, nextCopy := s.nextCopy } c size e tag (fun _ => (bs, 0)) [l] =
      [{ c.copyRec size e tag l s.nextCopy with done := some 0 }] := by
    have := State.startedCopies_concat (c := c) (size := size) (e := e) (tag := tag) (data := fun _ => (bs, 0)) (ls := []) (l := l)
      { w1 with teams := s.teams, nextCopy := s.nextCopy }
    rw [hv] at this
    exact this
  have hbu := (((hb.l1Touch c.tm.core p).modTask c.tk.id fun tk => { tk with buf := doStore (c.key l.t) p bs [] tk.buf }).copies
    (w1.copies ++ [{ c.copyRec size e tag l s.nextCopy with done := some 0 }]))
  refine ⟨hbu.1.trans ?_, ?_, ?_, fun x hx => ?_⟩
  · congr 1
    exact congrArg (w1.copies ++ ·) hstarted.symm
  · exact hw1.teams.trans (s.markCopies_teams c tag.val [l])
  · simp only [List.foldl_cons, List.foldl_nil, hv, Option.elim_some]
    rfl
  · obtain ⟨z, hz, rfl⟩ := List.mem_map.1 hx
    refine ⟨z, hz, ?_⟩
    split <;> rfl

/-! ## The instructions -/

variable {g : Guards}

theorem exec_cpyGs {o : CopyOp} (hc : CanIssue s c (.cpyGs g o) g) (ha : NoAcquire s c g)
    (hs : SidePasses (copySide c (c.active g) (copyBytes o.size) o.a o.buf recR))
    (hp : ScratchPasses c g (copyBytes o.size) (copyBytes o.size) fun x => ((c.laneView x).vs o.d).toNat) :
    exec (.cpyGs g o) s = s.finish c (.cpyGs g o) (issueCopies s c (copyBytes o.size) o.e o.tag
      (((copySide c (c.active g) (copyBytes o.size) o.a o.buf recR).lanes.zip (copyOffs c (c.active g) o.d)).map fun (l, _, off) =>
        { t := l.t, src := l.side, dst := .scratch off.toNat, srcBuf := some o.buf.val })) := by
  change execCpyGs g o s = _
  rw [execCpyGs, runMem_issues hc ha]
  simp only [sidesFault_none (sides := [_]) (by simpa using hs), show scratchFault c.tk _ _ (copyOffs c (c.active g) o.d) = none from
    scratchFault_none hp]

theorem exec_cpySg {o : CopyOp} (hc : CanIssue s c (.cpySg g o) g) (ha : NoAcquire s c g)
    (hs : SidePasses (copySide c (c.active g) (copyBytes o.size) o.d o.buf recW))
    (hp : ScratchPasses c g (copyBytes o.size) (copyBytes o.size) fun x => ((c.laneView x).vs o.a).toNat) :
    exec (.cpySg g o) s = s.finish c (.cpySg g o) (issueCopies s c (copyBytes o.size) o.e o.tag
      (((copySide c (c.active g) (copyBytes o.size) o.d o.buf recW).lanes.zip (copyOffs c (c.active g) o.a)).map fun (l, _, off) =>
        { t := l.t, src := .scratch off.toNat, dst := l.side, dstBuf := some o.buf.val })) := by
  change execCpySg g o s = _
  rw [execCpySg, runMem_issues hc ha]
  simp only [sidesFault_none (sides := [_]) (by simpa using hs), show scratchFault c.tk _ _ (copyOffs c (c.active g) o.a) = none from
    scratchFault_none hp]

theorem exec_cpyGg {o : CopyGGOp} (hc : CanIssue s c (.cpyGg g o) g) (ha : NoAcquire s c g)
    (hs : SidePasses (copySide c (c.active g) (copyBytes o.size) o.a o.srec recR))
    (hd : SidePasses (copySide c (c.active g) (copyBytes o.size) o.d o.drec recW)) :
    exec (.cpyGg g o) s = s.finish c (.cpyGg g o) (issueCopies s c (copyBytes o.size) o.e o.tag
      (((copySide c (c.active g) (copyBytes o.size) o.a o.srec recR).lanes.zip (copySide c (c.active g) (copyBytes o.size) o.d o.drec recW).lanes).map
        fun (a, b) => { t := a.t, src := a.side, dst := b.side, srcBuf := some o.srec.val, dstBuf := some o.drec.val })) := by
  change execCpyGg g o s = _
  rw [execCpyGg, runMem_issues hc ha]
  simp only [sidesFault_none (sides := [_, _]) (by simpa using And.intro hs hd)]

/-- The bytes of a copy from the scratchpad, with its status. -/
def scratchData (c : Ctx) (size : Nat) (l : CopyLane) : List Byte × Nat :=
  match l.src with
  | .scratch off => (Memory.bytes c.tm.scratch off size, 0)
  | _ => ([], 0)

theorem scratchData_eq {o : Nat} (h : l.src = .scratch o) : scratchData c size l = (c.tm.scratchBytes o size, 0) := by
  simp only [scratchData, h, Team.scratchBytes]

/-- Copies from the scratchpad to DO pages. -/
theorem scratch_entered {i : Instr} (h : CopyEnters s c tag lanes) (hsrc : ∀ l ∈ lanes, ∃ o, l.src = .scratch o) :
    ∃ u : State, s.finish c i (issueCopies s c size e tag lanes) = .next (u.retire c i Post.none) ∧
      CopiesEntered s u c size e tag lanes (scratchData c size) := by
  refine copies_entered h (copyCells_nil fun l hl va y hva _ => ?_) (fun l hl _ u => ?_) fun l hl => ?_
  · obtain ⟨o, ho⟩ := hsrc l hl
    cases ho.symm.trans hva
  · obtain ⟨o, ho⟩ := hsrc l hl
    rw [ho]
    exact CopyEnd.noConfusion
  · obtain ⟨o, ho⟩ := hsrc l hl
    exact State.gives_scratch ho (scratchData_eq ho)

/-- One copy of a dropped source to a DO page. -/
theorem dropped_entered {i : Instr} (h : CopyEnters s c tag [l]) (hsrc : l.src = .dropped) :
    ∃ u : State, s.finish c i (issueCopies s c size e tag [l]) = .next (u.retire c i Post.none) ∧
      CopiesEntered s u c size e tag [l] fun _ => (List.replicate size 0, 1) := by
  refine copies_entered h (copyCells_nil fun l' hl va y hva _ => ?_) (fun l' hl _ u => ?_) fun l' hl => ?_
  all_goals obtain rfl := List.mem_singleton.1 hl
  · cases hsrc.symm.trans hva
  · rw [hsrc]
    exact CopyEnd.noConfusion
  · exact State.gives_dropped hsrc rfl

end

/-- Settles O17: each copy is counted and recorded, and one to a DO page is made where its instruction stands. -/
theorem copyIssue : Obligations.CopyIssue := by
  refine ⟨?_, ?_, ?_⟩
  · intro g o s c n src lanes hc ha hs hp hstarts
    rw [exec_cpyGs hc ha hs hp]
    exact copies_started hstarts
  · intro g o s c n dst lanes hc ha hs hp
    rw [exec_cpySg hc ha hs hp]
    refine ⟨copies_started, fun h => scratch_entered h fun l hl => ?_⟩
    obtain ⟨x, -, rfl⟩ := List.mem_map.1 hl
    exact ⟨_, rfl⟩
  · intro g o s c n src dst lanes hc ha hs hd
    rw [exec_cpyGg hc ha hs hd]
    refine ⟨copies_started, fun h l p hl hp => ?_⟩
    change CopyEnters s c o.tag lanes at h
    change (_ → ∃ u : State, s.finish c _ (issueCopies s c n o.e o.tag lanes) = _ ∧ _) ∧ ∀ va y, _ → _ → _ →
      ∃ v u bs, _ ∧ _ ∧ s.finish c _ (issueCopies s c n o.e o.tag lanes) = _ ∧ _
    rw [hl] at h ⊢
    exact ⟨dropped_entered h, fun va y hsrc hy hr => copy_entered_mem h hp hsrc hy hr⟩

end Sys2Proof.Machine

/-!
The end of a copy (O48, R175, R177, R185): it reads its source, writes its destination and its status, and lowers its tag's counter.
-/
namespace Sys2Proof.Machine

open Sys2Proof

/-! ## Bytes of a line -/

theorem leBytes_leNat (bs : List Byte) : leBytes bs.length (leNat bs) = bs := by
  induction bs with
  | nil => rfl
  | cons b bs ih =>
    have hb : b.toNat < 256 := b.isLt
    have hdiv : (b.toNat + 256 * leNat bs) / 256 = leNat bs := by omega
    rw [List.length_cons, leBytes, leNat, hdiv, ih]
    congr 1
    exact BitVec.eq_of_toNat_eq (by rw [BitVec.toNat_ofNat]; omega)

theorem leNat_lt (bs : List Byte) : leNat bs < 256 ^ bs.length := by
  have := leNat_leBytes bs.length (leNat bs)
  rw [leBytes_leNat] at this
  exact this ▸ Nat.mod_lt _ (by positivity)

theorem lineBytes_lineOfBytes {bs : List Byte} (h : bs.length = 128) : lineBytes (lineOfBytes bs) = bs := by
  have hlt := leNat_lt bs
  rw [h, show (256 : Nat) ^ 128 = 2 ^ (8 * 128) from (pow_mul 2 8 128).symm] at hlt
  rw [lineBytes, lineOfBytes, BitVec.toNat_ofNat, Nat.mod_eq_of_lt hlt, ← h, leBytes_leNat]

theorem length_overlay {base bs : List Byte} {o : Nat} (h : o ≤ base.length) : (overlay base o bs).length = base.length := by
  simp only [overlay, List.length_append, List.length_take, List.length_drop]
  omega

/-- The bytes laid over a line, and those beside them. -/
theorem getElem?_overlay {base bs : List Byte} {o j : Nat} (ho : o ≤ base.length) (hj : j < base.length) :
    (overlay base o bs)[j]? = if o ≤ j ∧ j < o + bs.length then bs[j - o]? else base[j]? := by
  have htake : (base.take o).length = o := List.length_take_of_le ho
  unfold overlay
  by_cases hlo : j < o
  · rw [if_neg (by omega), List.getElem?_append_left (by omega), List.getElem?_take_of_lt hlo]
  · rw [List.getElem?_append_right (by omega), htake, List.getElem?_take_of_lt (by omega)]
    by_cases hhi : j < o + bs.length
    · rw [if_pos ⟨by omega, hhi⟩, List.getElem?_append_left (by omega)]
    · rw [if_neg (by omega), List.getElem?_append_right (by omega), List.getElem?_drop]
      congr 1
      omega

theorem getLsbD_byteMask {o n j : Nat} (hj : j < 128) (h : o ≤ j) (h' : j < o + n) : (byteMask o n).getLsbD j = true := by
  rw [byteMask, BitVec.getLsbD_ofNat, ← Nat.shiftLeft_eq, Nat.testBit_shiftLeft, Nat.testBit_two_pow_sub_one]
  simp only [Bool.and_eq_true, decide_eq_true_eq]
  omega

/-! ## The line that an L1 holds -/

section
variable {s : State} {core : Nat} {p : Place}

theorem State.l1At_l1Put (s : State) {l : L1Line} (hc : l.core = core) (hp : l.place = p.line) : (s.l1Put l).l1At core p = some l :=
  List.find?_cons_of_pos (by simp [hc, hp])

theorem State.l1At_some {l : L1Line} (h : s.l1At core p = some l) : l.core = core ∧ l.place = p.line := by
  simpa using List.find?_some h

theorem Place.lineNo_line (p : Place) : p.line.lineNo = p.lineNo := by
  obtain ⟨sp, a⟩ := p
  have : lineBase a / 128 = a / 128 := by
    rw [lineBase]
    omega
  cases sp <;> simp [Place.lineNo, Place.line, this]

/-- A region that makes room takes no line of another region with it. -/
theorem State.l1At_purgeRegion {v : Nat} {clubs : Nat → Bool} (h : v ≠ p.lineNo / 4) :
    (s.purgeRegion v clubs).l1At core p = s.l1At core p := by
  have hl1 : (s.purgeRegion v clubs).l1 = s.l1.filter fun l => !(l.place.lineNo / 4 == v && clubs (clubOf l.core)) := by
    obtain ⟨m, hm, heq, -⟩ := s.writeBack_eq (s.l1.filter fun l => l.place.lineNo / 4 == v && clubs (clubOf l.core))
    change ((s.l1Evict _).l1) = _
    rw [State.l1Evict_eq, heq]
  rw [State.l1At, hl1, List.find?_filter, State.l1At]
  congr 1
  funext l
  by_cases hp : l.place = p.line
  · have : ¬p.lineNo / 4 = v := Ne.symm h
    rw [hp, Place.lineNo_line, beq_false_of_ne this, Bool.false_and]
    simp [Bool.beq_eq_decide_eq]
  · simp [hp]

/-- Recording a line's club keeps the line. -/
theorem State.l1At_dirSet (club : Nat) : (s.dirSet p club).l1At core p = s.l1At core p := by
  have hroom : (s.dirRoom p).l1At core p = s.l1At core p := by
    unfold State.dirRoom
    dsimp only
    split
    · rfl
    · split
      · rfl
      · next hset =>
        split
        · next v hv =>
          refine (State.l1At_purgeRegion (s := s) (v := v) (clubs := fun club => s.directory.contains (v * 64 + club)) fun he => ?_ :)
          have := mem_of_pickOne hv
          rw [he, ← List.contains_iff_mem] at this
          exact hset (by rw [this, Bool.or_true])
        · rfl
  unfold State.dirSet
  dsimp only
  split
  · rfl
  · split
    · rfl
    · exact hroom

/-- A line that is filled is there. -/
theorem State.l1At_fillL1 (s : State) (core : Nat) (p : Place) (cp : Nat) (bs : List Byte) : (s.fillL1 core p .pv cp bs).l1At core p =
    some { core := core, place := p.line, cls := .pv, st := .v, data := lineOfBytes bs, dirty := 0 } := by
  rw [State.fillL1, if_neg (by simp), State.l1At_dirSet]
  exact State.l1At_l1Put _ rfl rfl

/-- The state in which the core holds the line of a PV store (R341). -/
def State.pvFilled (s : State) (core : Nat) (p : Place) (cp : Nat) : State :=
  (s.l1At core p).elim (s.fillL1 core p .pv cp (s.homeLine p)) fun _ => s

theorem State.storePv_eq (s : State) (core : Nat) (p : Place) (bs : List Byte) (cp : Nat) {l : L1Line}
    (h : (s.pvFilled core p cp).l1At core p = some l) : s.storePv core p bs cp = (s.pvFilled core p cp).l1Put { l with
      data := lineOfBytes (overlay (lineBytes l.data) (p.addr % 128) bs)
      st := .d
      dirty := l.dirty ||| byteMask (p.addr % 128) bs.length } := by
  unfold State.storePv
  unfold State.pvFilled at h ⊢
  cases hat : s.l1At core p with
  | none =>
    rw [hat] at h
    dsimp only [Option.elim] at h ⊢
    rw [h]
  | some l' =>
    rw [hat] at h
    dsimp only [Option.elim] at h ⊢
    rw [h]

theorem State.pvFilled_caches (s : State) (core : Nat) (p : Place) (cp : Nat) : CachesOnly s (s.pvFilled core p cp) := by
  unfold State.pvFilled
  cases s.l1At core p with
  | none => exact s.fillL1_caches ..
  | some l => exact .refl s

theorem State.l1At_pvFilled (cp : Nat) (hcls : ∀ l, s.l1At core p = some l → l.cls = .pv) :
    ∃ l, (s.pvFilled core p cp).l1At core p = some l ∧ l.cls = .pv ∧
      lineBytes l.data = (s.l1At core p).elim (s.homeLine p) fun l => lineBytes l.data := by
  unfold State.pvFilled
  cases hat : s.l1At core p with
  | none => exact ⟨_, s.l1At_fillL1 core p cp (s.homeLine p), rfl, lineBytes_lineOfBytes (s.length_homeLine p)⟩
  | some l => exact ⟨l, hat, hcls l hat, rfl⟩

/-- A store to a PV page writes the line in the L1 of its core, which is filled first where the core does not hold it (R341). -/
theorem State.storePv_line (s : State) (core : Nat) (p : Place) (bs : List Byte) (cp : Nat)
    (hcls : ∀ l, s.l1At core p = some l → l.cls = .pv) :
    let t := s.storePv core p bs cp
    t.teams = s.teams ∧ MemAfter s.l1 .dev s.mem t.mem ∧ MemAfter s.l1 .host s.hostMem t.hostMem ∧
      ∃ l, t.l1At core p = some l ∧ l.cls = .pv ∧ l.st = .d ∧
        lineBytes l.data = overlay ((s.l1At core p).elim (s.homeLine p) fun l => lineBytes l.data) (p.addr % 128) bs ∧
        ∃ d, l.dirty = d ||| byteMask (p.addr % 128) bs.length := by
  obtain ⟨l, hl, hpv, hdata⟩ := State.l1At_pvFilled cp hcls
  have hcaches := s.pvFilled_caches core p cp
  obtain ⟨hcore, hplace⟩ := State.l1At_some hl
  have hlen : (lineBytes l.data).length = 128 := length_lineBytes _
  have hoff : p.addr % 128 ≤ (lineBytes l.data).length := by omega
  intro t
  rw [show t = _ from s.storePv_eq core p bs cp hl]
  refine ⟨hcaches.teams, hcaches.2.2.1, hcaches.2.2.2.1, _, State.l1At_l1Put _ hcore hplace, hpv, rfl, ?_, _, rfl⟩
  rw [← hdata]
  exact lineBytes_lineOfBytes ((length_overlay hoff).trans hlen)

end

/-! ## A store that is performed at its home -/

/-- A state after a home has answered: memory and teams as they were, and every message still on its way. -/
def HomeKeeps (s t : State) : Prop := t.mem = s.mem ∧ t.hostMem = s.hostMem ∧ t.teams = s.teams ∧ ∀ m ∈ s.net, m ∈ t.net

theorem HomeKeeps.trans {s t u : State} (h : HomeKeeps s t) (h' : HomeKeeps t u) : HomeKeeps s u :=
  ⟨h'.1.trans h.1, h'.2.1.trans h.2.1, h'.2.2.1.trans h.2.2.1, fun m hm => h'.2.2.2 m (h.2.2.2 m hm)⟩

theorem State.l2Room_keeps (s : State) (slice : Nat) (p : Place) : HomeKeeps s (s.l2Room slice p) := by
  unfold State.l2Room
  dsimp only
  split
  · exact ⟨rfl, rfl, rfl, fun _ => id⟩
  · split
    · exact ⟨rfl, rfl, rfl, fun _ => List.mem_append_left _⟩
    · exact ⟨rfl, rfl, rfl, fun _ => id⟩

theorem State.tagL2_keeps (s : State) (p : Place) (cls : Cls) : HomeKeeps s (s.tagL2 p cls) := by
  unfold State.tagL2
  split
  · split
    · exact ⟨rfl, rfl, rfl, fun _ => id⟩
    · exact ⟨rfl, rfl, rfl, fun _ => id⟩
  · exact s.l2Room_keeps (homeSliceOf p) p

theorem State.snoopHost_keeps (s : State) (p : Place) (k : ThreadKey) : HomeKeeps s (s.snoopHost p k) := by
  unfold State.snoopHost
  split
  · split
    · exact ⟨rfl, rfl, rfl, fun _ => List.mem_append_left _⟩
    · exact ⟨rfl, rfl, rfl, fun _ => id⟩
  · exact ⟨rfl, rfl, rfl, fun _ => id⟩
  · exact ⟨rfl, rfl, rfl, fun _ => id⟩

theorem State.wroteHome_keeps (s : State) (p : Place) (core : Nat) (cls : Cls) (k : ThreadKey) :
    HomeKeeps s (s.wroteHome p core cls k) := by
  have hnotify : HomeKeeps s (s.notify p core cls k) := ⟨rfl, rfl, rfl, fun _ => List.mem_append_left _⟩
  have hnote : HomeKeeps ((s.notify p core cls k).snoopHost p k) (((s.notify p core cls k).snoopHost p k).noteWriter k p) :=
    ⟨rfl, rfl, rfl, fun _ => id⟩
  exact ((hnotify.trans (State.snoopHost_keeps ..)).trans hnote).trans (State.tagL2_keeps ..)

section
variable {s : State} {core : Nat} {w : LaneStore}

/-- A store without targets that meets no cell is performed at its home at once. -/
theorem State.accessHome_store (hc : w.place.space = .dev → s.cellAt (lineBase w.place.addr) = none) (ht : w.targets = []) :
    HomeKeeps (s.writeStore core w) (s.accessHome w.place (.store core w)) := by
  have heq : s.accessHome w.place (.store core w) = (s.writeStore core w).wroteHome w.place core w.cls w.owner := by
    have hperform : s.performHome (.store core w) [] = (s.writeStore core w).wroteHome w.place core w.cls w.owner := by
      rw [State.performHome, State.sendPasses, ht]
      rfl
    unfold State.accessHome
    dsimp only
    split
    · next h1 h2 => rw [hc h1] at h2; cases h2
    · exact hperform
  rw [heq]
  exact State.wroteHome_keeps ..

theorem State.updateOwnL1_eq (s : State) (core : Nat) (p : Place) (bs : List Byte) : s.updateOwnL1 core p bs =
    { s with l1 := (s.updateOwnL1 core p bs).l1 } := by
  unfold State.updateOwnL1
  split <;> rfl

/-! ## What a store does as it leaves its queue -/

theorem State.leave_remote {d : Nat} (h : w.place.space = .remote d) : s.leave core (.store w) =
    (s.noteWriter w.owner w.place).sendRemote w.owner d w.place (.store w) := by
  simp only [State.leave, h]

theorem State.leave_pv (h : w.place.space = .dev) (hc : w.cls = .pv) : s.leave core (.store w) =
    (s.noteWriter w.owner w.place).storePv core w.place w.data w.via.cp := by
  simp only [State.leave, h, hc]

theorem State.leave_sc (h : ∀ d, w.place.space ≠ .remote d) (hc : w.cls = .sc) : s.leave core (.store w) =
    ((s.noteWriter w.owner w.place).updateOwnL1 core w.place w.data).accessHome w.place (.store core w) := by
  cases hs : w.place.space with
  | dev => simp only [State.leave, hs, hc]
  | host => simp only [State.leave, hs, hc]
  | remote d => exact absurd hs (h d)

theorem State.leave_flight (h : ∀ d, w.place.space ≠ .remote d) (hsc : w.cls ≠ .sc) (hpv : w.cls ≠ .pv) :
    let t := s.leave core (.store w)
    t = { s with l1 := t.l1, replicas := t.replicas, net := s.net ++ [.store core w] } := by
  intro t
  have ht : t = { (s.noteWriter w.owner w.place).updateOwnL1 core w.place w.data with
      net := ((s.noteWriter w.owner w.place).updateOwnL1 core w.place w.data).net ++ [.store core w] } := by
    change s.leave core (.store w) = _
    cases hs : w.place.space with
    | remote d => exact absurd hs (h d)
    | dev => cases hc : w.cls <;> simp_all only [State.leave, ne_eq, not_true_eq_false]
    | host => cases hc : w.cls <;> simp_all only [State.leave, ne_eq, not_true_eq_false]
  rw [State.updateOwnL1_eq] at ht
  rw [ht]
  rfl

/-- A store to SC memory of this device changes its bytes, and no other. -/
theorem State.leave_sc_dev (h : w.place.space = .dev) (hc : w.cls = .sc) (ht : w.targets = [])
    (hcell : s.cellAt (lineBase w.place.addr) = none) :
    let t := s.leave core (.store w)
    t.hostMem = s.hostMem ∧ t.teams = s.teams ∧ ∀ a, Memory.read t.mem a =
      if w.place.addr ≤ a ∧ a < w.place.addr + w.data.length then w.data.getD (a - w.place.addr) 0 else Memory.read s.mem a := by
  intro t
  have hkeeps := State.accessHome_store (s := (s.noteWriter w.owner w.place).updateOwnL1 core w.place w.data) (core := core)
    (fun _ => by rw [State.updateOwnL1_eq]; exact hcell) ht
  rw [← State.leave_sc (by simp [h]) hc, State.updateOwnL1_eq, State.writeStore, hc] at hkeeps
  simp only [h, State.writeBytes, reduceCtorEq, if_false] at hkeeps
  obtain ⟨hmem, hhost, hteams, -⟩ := hkeeps
  refine ⟨hhost, hteams, fun a => ?_⟩
  rw [show t.mem = Memory.put s.mem w.place.addr w.data from hmem]
  split
  · next hin =>
    have hj : a - w.place.addr < w.data.length := by omega
    have := Memory.read_put_inside s.mem w.place.addr (a - w.place.addr) w.data hj
    rw [Nat.add_sub_cancel' hin.1] at this
    rw [this, List.getD_eq_getElem _ _ hj]
  · next hout => exact Memory.read_put_outside s.mem w.data (by omega)

/-- A store to SC memory of the host is on its way there. -/
theorem State.leave_sc_host (h : w.place.space = .host) (hc : w.cls = .sc) (ht : w.targets = []) :
    let t := s.leave core (.store w)
    t.mem = s.mem ∧ t.teams = s.teams ∧ Msg.hostWrite w.owner w.place.addr w.data ∈ t.net := by
  intro t
  have hkeeps := State.accessHome_store (s := (s.noteWriter w.owner w.place).updateOwnL1 core w.place w.data) (core := core)
    (fun hd => by rw [h] at hd; cases hd) ht
  rw [← State.leave_sc (by simp [h]) hc, State.updateOwnL1_eq, State.writeStore, hc] at hkeeps
  simp only [h, State.putHost, reduceCtorEq, if_false] at hkeeps
  obtain ⟨hmem, -, hteams, hnet⟩ := hkeeps
  exact ⟨hmem, hteams, hnet _ (List.mem_append_right _ (List.mem_singleton.2 rfl))⟩

end

/-! ## The completion of a copy -/

section
variable {s u : State} {c : Ctx} {x : Thread} {r : CopyRec}

/-- A line that may be touched passes the check of its class. -/
theorem State.classOut_aliased {k : Touch} {y z : Xlat} (h : s.classOut c k x z = .ok y) (hs : k.skip y = false) :
    s.aliased c.tm.core y = false := by
  have hz : z = y := by
    simp only [State.classOut] at h
    grind
  subst hz
  simp only [State.classOut, hs] at h
  grind

theorem State.lineOut_aliased {k : Touch} {va : Nat} {y : Xlat} (h : s.lineOut c k x va = .ok y) (hs : k.skip y = false) :
    s.aliased c.tm.core y = false := by
  obtain ⟨z, hz⟩ : ∃ z, s.classOut c k x z = .ok y := by
    simp only [State.lineOut] at h
    grind
  exact State.classOut_aliased hz hs

/-- A line that an access may touch is held under no other class in the L1 of its core (R225). -/
theorem State.lineOut_l1 {k : Touch} {va : Nat} {y : Xlat} {l : L1Line} (h : s.lineOut c k x va = .ok y) (hs : k.skip y = false)
    (hl : s.l1At c.tm.core y.place = some l) : l.cls = y.cls := by
  have halias := State.lineOut_aliased h hs
  obtain ⟨hcore, hplace⟩ := State.l1At_some hl
  by_contra hne
  have : (s.l1.any fun l => l.core == c.tm.core && l.place == y.place.line && l.cls != y.cls) = true :=
    List.any_eq_true.2 ⟨l, List.mem_of_find?_eq_some hl, by simp [hcore, hplace, hne]⟩
  simp only [State.aliased, Bool.or_eq_false_iff] at halias
  rw [halias.1.1.1] at this
  cases this

theorem exec_copyCompletion_done {k st : Nat} {t : State} (hk : s.copies[k]? = some r) (hd : r.done = none) (hs : r.sent = false)
    (hc : s.ctxOf r.owner r.inRoutine = some (c, x)) (hp : s.performCopy c x r false = .done t st) :
    exec (.copyCompletion k) s = .next (t.endCopy r st).settle.tick := by
  change execCopyCompletion k s = _
  simp only [execCopyCompletion, hk, hd, hs, hc, hp, Bool.false_eq_true, if_false]

theorem exec_copyCompletion_sent {k : Nat} {t : State} (hk : s.copies[k]? = some r) (hd : r.done = none) (hs : r.sent = false)
    (hc : s.ctxOf r.owner r.inRoutine = some (c, x)) (hp : s.performCopy c x r false = .sent t) :
    exec (.copyCompletion k) s =
      .next ({ t with copies := mapIf (fun z => z.id == r.id) (fun z => { z with sent := true }) t.copies } : State).tick := by
  change execCopyCompletion k s = _
  simp only [execCopyCompletion, hk, hd, hs, hc, hp, Bool.false_eq_true, if_false]

/-- The store that a copy's destination in memory sends. -/
def CopyRec.store (r : CopyRec) (c : Ctx) (x : Thread) (va : Nat) (y : Xlat) (bs : List Byte) : LaneStore :=
  { owner := c.key x, place := y.place, cls := y.cls, data := bs, targets := [], copy := if y.place.away then some r.id else none,
    via := c.via r.dstBuf va y }

theorem State.copyDest_mem {va : BitVec 57} {bs : List Byte} {st : Nat} {y : Xlat} (hdst : r.dst = .mem va)
    (hy : u.lineOut c { write := true, cls := fun _ z => z != .ord || false } x va.toNat = .ok y) (ho : y.cls ≠ .ord)
    (hm : u.mayLeave c.tm.core (.store (r.store c x va.toNat y bs)) = true) : u.copyDest c x r false bs st =
      if y.place.away then .sent (u.leave c.tm.core (.store (r.store c x va.toNat y bs)))
      else .done (u.leave c.tm.core (.store (r.store c x va.toNat y bs))) st := by
  rw [State.copyDest, hdst]
  dsimp only
  rw [hy]
  dsimp only
  rw [if_neg ho]
  change (if (!u.mayLeave c.tm.core (.store (r.store c x va.toNat y bs))) = true then _ else _) = _
  rw [hm]
  rfl

/-- A copy whose source has been read to `bs` lands at its destination in memory. -/
theorem copyLands {k st : Nat} {va : BitVec 57} {bs : List Byte} (hk : s.copies[k]? = some r) (hd : r.done = none) (hs : r.sent = false)
    (hc : s.ctxOf r.owner r.inRoutine = some (c, x)) (hdst : r.dst = .mem va)
    (hp : s.performCopy c x r false = u.copyDest c x r false bs st) : CopyLands u c x r va bs st (exec (.copyCompletion k) s) := by
  intro y hy ho p w ends hm
  have hperform := hp.trans (State.copyDest_mem hdst hy ho hm)
  have hnear (h : p.away = false) : ends (u.leave c.tm.core (.store w)) :=
    exec_copyCompletion_done hk hd hs hc (by rw [hperform, if_neg (by rw [h]; decide)]; rfl)
  have hlocal (h : ∀ d, p.space ≠ .remote d) : p.away = false := by
    unfold Place.away
    split
    · next d hrem => exact absurd hrem (h d)
    · rfl
    · rfl
  refine ⟨fun h hsc hpv => ⟨_, hnear (hlocal h), State.leave_flight h hsc hpv⟩,
    fun h hsc hcell => ⟨_, hnear (hlocal (by simp [h])), State.leave_sc_dev h hsc rfl hcell⟩,
    fun h hsc => ⟨_, hnear (hlocal (by simp [h])), State.leave_sc_host h hsc rfl⟩, fun h hpv => ?_, fun d h => ?_⟩
  · intro old
    have hcls : ∀ l, u.l1At c.tm.core p = some l → l.cls = .pv := fun l hl => (State.lineOut_l1 hy rfl hl).trans hpv
    obtain ⟨hteams, hmem, hhost, l, hl, hlc, hst, hdata, m, hdirty⟩ :=
      (u.noteWriter w.owner p).storePv_line c.tm.core p bs w.via.cp hcls
    refine ⟨_, hnear (hlocal (by simp [h])), ?_⟩
    rw [State.leave_pv h hpv]
    refine ⟨hteams, hmem, hhost, l, hl, hlc, hst, fun j hj => ?_, fun j hj h1 h2 => ?_⟩
    · have hlen : old.length = 128 := by
        change ((u.l1At c.tm.core p).elim (u.homeLine p) fun l => lineBytes l.data).length = 128
        cases u.l1At c.tm.core p with
        | none => exact u.length_homeLine p
        | some l => exact length_lineBytes _
      rw [show lineBytes l.data = overlay old (p.addr % 128) bs from hdata]
      exact getElem?_overlay (by rw [hlen]; omega) (by rw [hlen]; exact hj)
    · rw [hdirty, BitVec.getLsbD_or, getLsbD_byteMask hj h1 h2, Bool.or_true]
  · have haway : p.away = true := by
      rw [Place.away, h]
    rw [if_pos haway] at hperform
    refine ⟨_, exec_copyCompletion_sent hk hd hs hc hperform, ?_⟩
    rw [State.leave_remote h]
    refine ⟨rfl, rfl, ?_, _, rfl⟩
    exact List.map_congr_left fun z _ => by simp [beq_iff_eq]

/-- The team of a copy after its status word has been written and its tag's counter lowered (R177). -/
def Team.endCopy (r : CopyRec) (st : Nat) (tm : Team) : Team :=
  (tm.modThread r.owner.tid fun t => t.setReg r.reg (BitVec.ofNat 32 st)).setTag r.tag (tm.tagCount r.tag - 1)

theorem Team.endCopy_threads (r : CopyRec) (st : Nat) (tm : Team) : (tm.endCopy r st).threads =
    tm.threads.map fun x => if x.tid = r.owner.tid then x.setReg r.reg (BitVec.ofNat 32 st) else x :=
  List.map_congr_left fun z _ => by simp [beq_iff_eq]

theorem State.team?_endCopy {u : State} {tm : Team} (st : Nat) (h : u.team? r.owner.task r.owner.team = some tm) :
    (u.endCopy r st).team? r.owner.task r.owner.team = some (tm.endCopy r st) := by
  let v : State := { u with copies := u.copies.filter fun x => x.id != r.id }
  have hv : v.team? r.owner.task r.owner.team = some tm := h
  change (v.modTeam r.owner.task r.owner.team (Team.endCopy r st)).team? _ _ = _
  rw [State.team?_modTeam (f := Team.endCopy r st) fun _ => ⟨rfl, rfl⟩, hv]
  simp

end

/-- Settles O48: the completion performs the copy of its record, whose destination's store leaves at once. -/
theorem copyEnds : Obligations.CopyEnds := by
  intro s k r hk
  refine ⟨fun u st => ⟨rfl, fun tm htm => ?_⟩, fun st hd => ?_, fun hd hs => ?_, fun c x hd hs hc => ?_⟩
  · exact ⟨_, State.team?_endCopy st htm, Sparse.get_set_same .., rfl, rfl, Team.endCopy_threads r st tm⟩
  · change execCopyCompletion k s = _
    simp only [execCopyCompletion, hk, hd]
  · change execCopyCompletion k s = _
    simp only [execCopyCompletion, hk, hd, hs, if_true]
  refine ⟨fun va o y hsrc hdst hy hr => ?_, fun va vb y hsrc hdst hy hr => ?_, fun o vb hsrc hdst => ?_, fun vb hsrc hdst => ?_,
    fun o hsrc hdst => ?_, fun hdst => ?_⟩
  · obtain ⟨hm, hw⟩ := State.source_ready hr
    obtain ⟨u, bs, hcaches, hload, hread⟩ := State.copySource_mem (n := r.size) hy hm hw
    refine ⟨u, bs, hcaches, hload, exec_copyCompletion_done hk hd hs hc ?_⟩
    rw [State.performCopy, if_neg (by simp [hdst]), hsrc, hread, State.copyDest, hdst]
    rfl
  · obtain ⟨hm, hw⟩ := State.source_ready hr
    obtain ⟨u, bs, hcaches, hload, hread⟩ := State.copySource_mem (n := r.size) hy hm hw
    refine ⟨u, bs, hcaches, hload, copyLands hk hd hs hc hdst ?_⟩
    rw [State.performCopy, if_neg (by simp [hdst]), hsrc, hread]
  · refine copyLands hk hd hs hc hdst ?_
    rw [State.performCopy, if_neg (by simp [hdst]), hsrc]
    rfl
  · refine copyLands hk hd hs hc hdst ?_
    rw [State.performCopy, if_neg (by simp [hdst]), hsrc]
    rfl
  · refine exec_copyCompletion_done hk hd hs hc ?_
    rw [State.performCopy, if_neg (by simp [hdst]), hsrc, State.copySource, State.copyDest, hdst]
    rfl
  · refine exec_copyCompletion_done hk hd hs hc ?_
    rw [State.performCopy, if_pos hdst]
    rfl

end Sys2Proof.Machine
